-- ==== Sys2Proof/Word.lean ====
section
/-! DEFINITION. The word types of the VG-4830 and their plainest arithmetic (00 R6, R10). -/

namespace Sys2Proof

/-- A register word (01 R20). -/
abbrev Word := BitVec 32
/-- A 64-bit register pair (01 R21). -/
abbrev Dword := BitVec 64
/-- One byte of memory. -/
abbrev Byte := BitVec 8
/-- A program counter or an address below 2^56 (01 R16). -/
abbrev Pc := BitVec 56
/-- One bit for each thread of a strand (01 R13). -/
abbrev Mask := BitVec 16
/-- A 64-byte line or block, byte 0 in bits [7:0] (00 R6). -/
abbrev Line := BitVec 512
/-- The 96 bits of an instruction slot (04 R79). -/
abbrev Slot := BitVec 96

/-- The exact integer that a word stands for, signed or natural (03 R62). -/
def intOf {w : Nat} (signed : Bool) (x : BitVec w) : Int :=
  if signed then x.toInt else (x.toNat : Int)

/-- The low bits of an exact integer (00 R10). -/
def bitsOf (w : Nat) (v : Int) : BitVec w := BitVec.ofInt w v

/-- The smallest and largest integers of a format of width `w` (03 R62). -/
def rangeLo (signed : Bool) (w : Nat) : Int := if signed then -(2 ^ (w - 1) : Int) else 0
def rangeHi (signed : Bool) (w : Nat) : Int :=
  if signed then (2 ^ (w - 1) : Int) - 1 else (2 ^ w : Int) - 1

/-- The nearest integer inside a closed range. -/
def clampInt (lo hi v : Int) : Int := if v < lo then lo else if hi < v then hi else v

end Sys2Proof
end

