-- ==== Sys2Proof/Syntax.lean ====
section
/-! DEFINITION. The instructions of Molade (04 R94) and the other steps of the table of operations and events (95), as data. -/

namespace Sys2Proof

/-! ## Names of units -/

/-- A partition of a package (00 R5, 16 R319). -/
structure PartId where
  pkg : Nat
  pid : Nat
  deriving DecidableEq, Repr

/-- A write of a launch-queue descriptor, through a virtual function or the physical one (16 R320). -/
structure DescWrite where
  vf : Bool
  bits : BitVec 128
  deriving DecidableEq, Repr

/-- A context of a partition, 0-3 (16 R319). -/
structure CtxId where
  part : PartId
  n : Nat
  deriving DecidableEq, Repr

/-- A partition-relative tile (16 R319). -/
structure TileId where
  part : PartId
  t : Nat
  deriving DecidableEq, Repr

/-- A lane of a tile, 0-63 (00 R1). -/
structure LaneId where
  tile : TileId
  lane : Nat
  deriving DecidableEq, Repr

/-- What a context owns on one tile: buffers, slots, accumulators, queues, engines (13 R284). -/
structure TileCtx where
  ctx : CtxId
  t : Nat
  deriving DecidableEq, Repr

/-- The home of a word (10 R241, R387). -/
inductive Home where
  | slicePort (tile : TileId) (port : Nat)
  | near (pkg stack channel : Nat)
  | lpddr (pkg channel : Nat)
  | expander (pkg port : Nat)
  | hostLine (pkg : Nat)
  deriving DecidableEq, Repr

/-- The barrier record of a key of a launch (13 R286); launches are named by the model's number. -/
structure BarId where
  launch : Nat
  key : Nat
  deriving DecidableEq, Repr

/-- A unit that writes a stop record (17 R344, R347); strands are named by the model's number. -/
inductive UnitId where
  | strand (k : Nat)
  | sched (t : Nat)
  | engine (t : Nat) (e : Nat)
  | collective (q : Nat)
  | launcher
  deriving DecidableEq, Repr

/-! ## Operands and modifiers -/

/-- Operand codes (01 R20); code 0xF7 is no operand. -/
inductive Opd where
  | v (n : Fin 192)
  | u (n : Fin 48)
  | zero | tix | gix | sid | vpc | bid | tile
  | qp (n : Fin 8)
  deriving DecidableEq, Repr

/-- Type codes (04 R92). -/
inductive Ty where
  | i32 | i8 | i16 | i64 | n32 | n8 | n16 | n64 | f32 | f16x2 | bf16x2 | e4m3 | e5m2 | q4x
  deriving DecidableEq, Repr

/-- Rounding field codes (03 R73). -/
inductive Rm where
  | rne | rz | rd | ru | dyn
  deriving DecidableEq, Repr

/-- The instruction header but for the opcode (04 R89). `setf = none` is the code 15. -/
structure Hdr where
  after : BitVec 4
  wait : BitVec 12
  setf : Option (Fin 12)
  neg : Bool
  pred : BitVec 3
  deriving DecidableEq, Repr

/-- The address fields of format M (04 R93). -/
structure Addr where
  base : Opd
  idx : Opd
  off : BitVec 24
  sc : BitVec 2
  deriving DecidableEq, Repr

/-- Scope codes of 08 R194; `dflt` is code 0. -/
inductive Scope where
  | dflt | thread | strand | band | tile | pkg | dom | sys
  deriving DecidableEq, Repr

/-- Load and store modifiers (08 R194). -/
structure MemMod where
  ord : BitVec 2      -- 0 relaxed, 1 acquire, 2 release
  scope : Scope
  cp : BitVec 2       -- 0 normal, 1 streaming, 2 bypass
  free : Bool
  deriving DecidableEq, Repr

/-- Atomic modifiers (08 R200). -/
structure AtomMod where
  ord : BitVec 2      -- 0 relaxed, 1 acq, 2 rel, 3 acquire-release
  scp : BitVec 2      -- 0 package, 1 band, 2 domain, 3 system
  deriving DecidableEq, Repr

/-- Comparison codes of ICMP and FCMP (05 R126). -/
inductive Cmp where
  | eq | ne | lt | le | gt | ge | un | ord
  deriving DecidableEq, Repr

/-- Rewrites a home may perform (11 R266). -/
inductive Rewrite where
  | commute | absorb | compose | cancel
  deriving DecidableEq, Repr

/-- What an access of the host goes through: the memory range of a virtual function, the physical function, which exposes none, or the
host's own memory (19 R372). -/
inductive HostFn where
  | vf (pid : Nat)
  | pf
  | own
  deriving DecidableEq, Repr

/-- A host access through CXL.mem or to a host-homed line (10 R260). -/
inductive HostAcc where
  | write (fn : HostFn) (addr : Nat) (bytes : List (BitVec 8))
  | read (fn : HostFn) (addr : Nat) (size : Nat)
  /-- A lane of the host link has failed (19 R375). -/
  | laneFault
  deriving DecidableEq, Repr

/-- Management registers without a step of their own (17 R356; 18 R370; 19 R381, R384, R385); `vf` says that a write of CTXCTL
comes through the virtual function. -/
inductive MgmtReg where
  | ctxctl (c : CtxId) (vf : Bool)
  | pshare (p : PartId)
  | counter (p : PartId) (offset : Nat)
  | vers (pkg : Nat)
  | energy (pkg : Nat)
  | temp (pkg : Nat)
  deriving DecidableEq, Repr

/-- What a signed image is for (19 R382). -/
inductive FwKind where
  | solstice | switch | expander
  deriving DecidableEq, Repr

/-- A firmware image as the management controller checks it (19 R382). -/
structure FwImage where
  kind : FwKind := .solstice
  keyDigest : BitVec 512
  imageDigest : BitVec 512
  signature : Nat
  secVersion : Nat
  deriving DecidableEq, Repr

/-- The 159 instructions of feature level 1 (04 R94), each with its header and fields, and after them the
94 further steps of the table (95), each with the data that says which unit takes the step. -/
inductive Instr where
  -- group 0x0
  | nop (h : Hdr)
  | bra (h : Hdr) (off : BitVec 30) (slot : BitVec 3)
  | brx (h : Hdr) (a : Opd)
  | call (h : Hdr) (off : BitVec 30) (slot : BitVec 3)
  | callx (h : Hdr) (a : Opd)
  | ret (h : Hdr)
  | bpend (h : Hdr) (off : BitVec 30) (slot : BitVec 3) (test : Opd) (sense : Bool) (fmask : BitVec 12)
  | exit (h : Hdr)
  | yield (h : Hdr)
  | idem (h : Hdr)
  | trap (h : Hdr) (code : BitVec 16)
  | brk (h : Hdr) (code : BitVec 16)
  | mode (h : Hdr) (d : Opd) (sel : BitVec 5) (imm : Word)
  | join (h : Hdr) (d : Opd) (key : BitVec 4)
  | leave (h : Hdr) (key : BitVec 4)
  | launch (h : Hdr) (d a b : Opd)
  | nap (h : Hdr) (a : Opd) (imm : Word)
  -- group 0x1
  | iadd (h : Hdr) (d a b : Opd) (ty : Ty) (sat : Bool)
  | isub (h : Hdr) (d a b : Opd) (ty : Ty) (sat : Bool)
  | iaddc (h : Hdr) (d a b : Opd) (ci : Bool) (cip cop : BitVec 3)
  | isubb (h : Hdr) (d a b : Opd) (ci : Bool) (cip cop : BitVec 3)
  | imul (h : Hdr) (d a b : Opd) (ty : Ty) (sat : Bool)
  | imulh (h : Hdr) (d a b : Opd) (ty : Ty)
  | imad (h : Hdr) (d a b c : Opd) (ty : Ty) (sat : Bool)
  | imadw (h : Hdr) (d a b c : Opd) (ty : Ty)
  | imin (h : Hdr) (d a b : Opd) (ty : Ty)
  | imax (h : Hdr) (d a b : Opd) (ty : Ty)
  | iabs (h : Hdr) (d a : Opd) (sat : Bool)
  | ineg (h : Hdr) (d a : Opd) (sat : Bool)
  | lea (h : Hdr) (d : Opd) (m : Addr)
  | iadd64 (h : Hdr) (d a b : Opd) (bx : Bool)
  | isad (h : Hdr) (d a b c : Opd) (ty : Ty)
  | idot4 (h : Hdr) (d a b c : Opd) (ty : Ty) (mix sat : Bool)
  | ireq (h : Hdr) (d a b : Opd) (ty : Ty) (rm : Rm) (sat wide an : Bool)
  | mov (h : Hdr) (d a : Opd) (w : Bool)
  | movi (h : Hdr) (d : Opd) (imm : Word) (form : BitVec 2)
  | movx (h : Hdr) (d a b : Opd) (wr : Bool)
  | movxw (h : Hdr) (d a b : Opd) (wr : Bool)
  -- group 0x2
  | and (h : Hdr) (d a b : Opd)
  | or (h : Hdr) (d a b : Opd)
  | xor (h : Hdr) (d a b : Opd)
  | not (h : Hdr) (d a : Opd)
  | andn (h : Hdr) (d a b : Opd)
  | shl (h : Hdr) (d a b : Opd) (wrap : Bool)
  | shr (h : Hdr) (d a b : Opd) (wrap : Bool)
  | sar (h : Hdr) (d a b : Opd) (wrap : Bool)
  | rol (h : Hdr) (d a b : Opd)
  | fshl (h : Hdr) (d a b c : Opd) (wrap : Bool)
  | bfe (h : Hdr) (d a b : Opd) (ty : Ty)
  | bfi (h : Hdr) (d a b c : Opd)
  | popc (h : Hdr) (d a : Opd) (w : Bool)
  | clz (h : Hdr) (d a : Opd) (w : Bool)
  | ctz (h : Hdr) (d a : Opd) (w : Bool)
  | brev (h : Hdr) (d a : Opd)
  | prmt (h : Hdr) (d a b c : Opd)
  | lop3 (h : Hdr) (d a b c : Opd) (fn : BitVec 8) (ze : Bool) (pz : BitVec 3)
  -- group 0x3
  | icmp (h : Hdr) (a b : Opd) (ty : Ty) (pd : BitVec 3) (cmp : Cmp) (comb : BitVec 2) (pc : BitVec 3)
  | fcmp (h : Hdr) (a b : Opd) (pd : BitVec 3) (cmp : Cmp) (comb : BitVec 2) (pc : BitVec 3)
  | sel (h : Hdr) (d a b : Opd) (w inv : Bool) (ks : BitVec 3)
  | pset (h : Hdr) (pd pa pb pc : BitVec 3) (fn : BitVec 8) (pt : Bool)
  | pmov (h : Hdr) (d a : Opd) (dir : Bool) (kp : BitVec 3)
  | vote (h : Hdr) (d : Opd) (cond : BitVec 3) (ks : BitVec 3) (inv : Bool) (pd : BitVec 3)
  | shfl (h : Hdr) (d a b c : Opd) (mode : BitVec 2) (pd : BitVec 3) (w fill : Bool)
  | redux (h : Hdr) (d a : Opd) (ty : Ty) (rm : Rm) (sat : Bool) (op : BitVec 4) (seg : Bool) (kg : BitVec 3)
  | scan (h : Hdr) (d a : Opd) (ty : Ty) (rm : Rm) (sat : Bool) (op : BitVec 4) (excl seg : Bool) (kg : BitVec 3)
  | matchT (h : Hdr) (d a : Opd) (w : Bool) (pd : BitVec 3) (km : Bool)
  -- group 0x4
  | fadd (h : Hdr) (d a b : Opd) (ty : Ty) (rm : Rm) (sat : Bool)
  | fsub (h : Hdr) (d a b : Opd) (ty : Ty) (rm : Rm) (sat : Bool)
  | fmul (h : Hdr) (d a b : Opd) (ty : Ty) (rm : Rm) (sat : Bool)
  | ffma (h : Hdr) (d a b c : Opd) (ty : Ty) (rm : Rm) (sat : Bool)
  | fmin (h : Hdr) (d a b : Opd) (ty : Ty)
  | fmax (h : Hdr) (d a b : Opd) (ty : Ty)
  | fclass (h : Hdr) (d a b : Opd) (ty : Ty) (p : Bool) (pd : BitVec 3)
  | fscale (h : Hdr) (d a b : Opd) (ty : Ty) (rm : Rm) (sat : Bool)
  | frnd (h : Hdr) (d a : Opd) (ty : Ty) (rm : Rm)
  | fdot2 (h : Hdr) (d a b c : Opd) (ty : Ty) (rm : Rm) (sat : Bool)
  -- group 0x5
  | frcp (h : Hdr) (d a : Opd)
  | frsq (h : Hdr) (d a : Opd)
  | fsqrt (h : Hdr) (d a : Opd) (rm : Rm) (sat : Bool)
  | fexp2 (h : Hdr) (d a : Opd)
  | flog2 (h : Hdr) (d a : Opd)
  | fsinp (h : Hdr) (d a : Opd)
  | fcosp (h : Hdr) (d a : Opd)
  | cvt (h : Hdr) (d a c : Opd) (ty sty : Ty) (rm : Rm) (sat : Bool) (pos : BitVec 2)
  | cvtef (h : Hdr) (d a b c : Opd) (ty : Ty) (sat : Bool) (pos : BitVec 2)
  | cvtsr (h : Hdr) (d a b c : Opd) (ty : Ty) (sat : Bool) (pos : BitVec 2)
  -- group 0x6
  | blkh (h : Hdr) (d a : Opd)
  | blkhw (h : Hdr) (d a b : Opd) (chk : Bool)
  | blkpack (h : Hdr) (d a b : Opd) (ty : Ty) (rm : Rm) (sat esc i4 : Bool)
  | blkunp (h : Hdr) (d a : Opd) (cnt : BitVec 3) (rm : Rm) (sat : Bool)
  | blkscl (h : Hdr) (d a b : Opd) (fit : Bool) (ty : Ty) (sat i4 : Bool)
  -- group 0x7
  | ld (h : Hdr) (d : Opd) (m : Addr) (ty : Ty) (mm : MemMod)
  | st (h : Hdr) (d : Opd) (m : Addr) (ty : Ty) (mm : MemMod)
  | ldu (h : Hdr) (d : Opd) (m : Addr) (ty : Ty) (mm : MemMod)
  | stu (h : Hdr) (d : Opd) (m : Addr) (ty : Ty) (mm : MemMod)
  | ldb (h : Hdr) (d : Opd) (m : Addr) (ty : Ty) (mm : MemMod)
  | stb (h : Hdr) (d : Opd) (m : Addr) (ty : Ty) (mm : MemMod)
  | pref (h : Hdr) (m : Addr) (st : Bool)
  | cwb (h : Hdr) (m : Addr)
  | cinv (h : Hdr) (m : Addr)
  -- group 0x8
  | atom (h : Hdr) (d : Opd) (m : Addr) (ty : Ty) (opc : BitVec 4) (am : AtomMod)
  | red (h : Hdr) (d : Opd) (m : Addr) (ty : Ty) (opc : BitVec 4) (am : AtomMod)
  | cas (h : Hdr) (d : Opd) (m : Addr) (ty : Ty) (am : AtomMod)
  | fence (h : Hdr) (ord : BitVec 2) (scope : Scope)
  | algld (h : Hdr) (d : Opd) (m : Addr)
  | algrd (h : Hdr) (d a : Opd)
  | algclr (h : Hdr)
  -- group 0x9
  | bari (h : Hdr) (a : Opd) (key : BitVec 4) (dom : Bool)
  | bara (h : Hdr) (d : Opd) (key : BitVec 4)
  | barw (h : Hdr) (d : Opd) (key : BitVec 4)
  | bard (h : Hdr) (key : BitVec 4)
  | barq (h : Hdr) (d : Opd) (key : BitVec 4)
  | watch (h : Hdr) (d : Opd) (m : Addr) (ty : Ty) (cmp : BitVec 2) (slot : BitVec 2)
  | doze (h : Hdr) (d a : Opd) (sel : BitVec 4)
  | unwatch (h : Hdr) (sel : BitVec 4)
  | shrmap (h : Hdr) (d : Opd) (cnt : BitVec 6) (key rid : BitVec 4)
  | shrunmap (h : Hdr) (d : Opd)
  | ferd (h : Hdr) (d a : Opd)
  | fewr (h : Hdr) (d a : Opd)
  | qcfg (h : Hdr) (d a : Opd) (qn : BitVec 5) (unb : Bool)
  | qstat (h : Hdr) (d a : Opd)
  | tokw (h : Hdr)
  | tokp (h : Hdr)
  -- group 0xA
  | bdecl (h : Hdr) (d : Opd) (m : Addr) (buf : BitVec 6)
  | bset (h : Hdr) (d a : Opd) (buf : BitVec 6) (tmo : BitVec 2) (try_ : Bool)
  | brel (h : Hdr) (a : Opd) (buf : BitVec 6)
  | bqry (h : Hdr) (d a : Opd) (buf : BitVec 6)
  | stat (h : Hdr) (a : Opd) (buf : BitVec 6)
  | unstat (h : Hdr) (a : Opd) (buf : BitVec 6)
  -- group 0xB
  | oclaim (h : Hdr) (d a : Opd) (slot : BitVec 4) (try_ : Bool)
  | orels (h : Hdr) (a : Opd) (slot : BitVec 4)
  | oput (h : Hdr) (d a b : Opd) (slot : BitVec 4) (sealed : Bool)
  | task (h : Hdr) (d a : Opd) (spec : Bool)
  | accz (h : Hdr) (a : Opd) (acc : BitVec 5) (kind : BitVec 2)
  | accrd (h : Hdr) (d a b : Opd) (acc : BitVec 5) (ty : Ty) (rm : Rm) (sat sh : Bool) (cnt : BitVec 4)
  | accwr (h : Hdr) (d a b : Opd) (acc : BitVec 5) (ty : Ty) (cnt : BitVec 4)
  | acccmt (h : Hdr) (a : Opd) (acc : BitVec 5)
  | accdsc (h : Hdr) (a : Opd) (acc : BitVec 5)
  | twait (h : Hdr) (a : Opd) (acc : BitVec 5) (all : Bool)
  -- group 0xC
  | slay (h : Hdr) (d a : Opd) (eng : Bool) (lay : BitVec 3)
  | sfill (h : Hdr) (a b : Opd) (eng : Bool) (ring : BitVec 2) (lay : BitVec 3) (slots : Bool) (first : BitVec 6) (cnt : BitVec 3)
  | sdrain (h : Hdr) (a b : Opd) (eng : Bool) (ring : BitVec 2) (lay : BitVec 3) (first : BitVec 6) (cnt : BitVec 3)
  | ssig (h : Hdr) (a : Opd) (eng : Bool) (ring : BitVec 2) (full : Bool)
  | qfence (h : Hdr) (tq se : Bool) (cq : BitVec 4)
  | coll (h : Hdr) (d : Opd) (cq : BitVec 2)
  | cseq (h : Hdr) (d a b : Opd) (region : BitVec 8) (rd dty : Bool)
  | ewait (h : Hdr) (d a b : Opd) (kind : BitVec 2) (res : BitVec 8)
  -- group 0xD
  | rand (h : Hdr) (d a b : Opd)
  | rres (h : Hdr) (d a b c : Opd) (rel : Bool)
  | csrr (h : Hdr) (d : Opd) (csr : BitVec 12)
  | csrw (h : Hdr) (a : Opd) (csr : BitVec 12)
  | clock (h : Hdr) (d : Opd) (lane : Bool)
  -- group 0xE
  | tret (h : Hdr)
  | stoprd (h : Hdr) (d a b : Opd)
  | regev (h : Hdr) (a b : Opd)
  | haltl (h : Hdr) (clr : Bool)
  | errlog (h : Hdr) (d a : Opd) (pop : Bool)
  | stest (h : Hdr) (d a : Opd)
  | tlbinv (h : Hdr) (a : Opd) (part va : Bool)
  -- the other steps of the table
  | lineFetch (k : Nat)
  | registerLineFill (k line : Nat)
  | returnStackFill (k : Nat)
  | resultLands (n : Nat)
  | residualDrain (k : Nat)
  | fixedLatencyCompletion (k : Nat)
  | napExpiry (k t : Nat)
  | dozeTimeout (k : Nat)
  | homeAccept (n : Nat)
  | pendingRewrite (hm : Home) (pos : Nat) (rw : Rewrite)
  | homeApply (hm : Home)
  | invalidationArrival (n : Nat)
  | invalidationAcknowledgement (n : Nat)
  | tileCacheFill (n : Nat)
  | impreciseFaultReport (n : Nat)
  | hostWritebackAck (n : Nat)
  | hostMemAccess (pkg : Nat) (acc : HostAcc)
  | backInvalidation (pkg line : Nat)
  | hostLineRefetch (pkg line : Nat)
  | pageWalk (n : Nat)
  | watchArm (hm : Home)
  | armAck (n : Nat)
  | wakeMessage (n : Nat)
  | evictionMessage (n : Nat)
  | disarmAck (n : Nat)
  | tailPoll (p : PartId) (q : Nat)
  | snare (c : CtxId)
  | barrierMessage (b : BarId) (ns : List Nat)
  | barrierRelease (n : Nat)
  | barrierAnswer (n : Nat)
  | overArrivalRefusal (n : Nat)
  | domainCounterMessage (ctr : Nat) (ns : List Nat)
  | domainPhaseMulticast (n : Nat)
  | bufferStateChange (n : Nat)
  | oputApply (n : Nat)
  | taskQueueAccept (n : Nat)
  | taskStart (tc : TileCtx) (acc : Nat)
  | segmentComplete (tc : TileCtx) (acc : Nat)
  | taskRetire (tc : TileCtx) (acc : Nat)
  | accumulatorItemApply (tc : TileCtx) (acc : Nat)
  | slayInstall (tc : TileCtx) (eng : Nat)
  | ringBindCheck (tc : TileCtx) (eng : Nat)
  | ringTransferStart (tc : TileCtx) (eng ring : Nat)
  | ringTransferDone (tc : TileCtx) (eng ring : Nat)
  | ssigApply (n : Nat)
  | collCommandStart (p : PartId) (q : Nat)
  | collArrival (n : Nat)
  | collApply (p : PartId) (region : Nat)
  | collAck (n : Nat)
  | collRefusalTimeout (n : Nat)
  | launchRecordTake (p : PartId) (q : Nat)
  | sliceSelect (p : PartId)
  | strandCreate (l : Nat)
  | modeSetApply (p : PartId) (q : Nat)
  | budgetExpiry (l : Nat)
  | budgetGraceExpiry (l : Nat)
  | sliceRetire (l : Nat)
  | queueEnable (p : PartId) (q : Nat) (desc : DescWrite)
  | queueDisable (p : PartId) (q : Nat)
  | registerWrite (r : MgmtReg) (val : BitVec 64)
  | pcapWrite (pkg : Nat) (val : BitVec 64)
  | save (c : CtxId)
  | resume (c : CtxId)
  | move (c : CtxId) (dest : Nat)
  | halt (c : CtxId)
  | release (c : CtxId)
  | replay (c : CtxId)
  | inval (c : CtxId)
  | knellCountExpiry (c : CtxId)
  | saveCompletion (c : CtxId)
  | moveArrival (n : Nat)
  | unitStop (p : PartId) (unit : UnitId)
  | originatorHandlerEntry (k : Nat)
  | createPartition (p : PartId)
  | assignGranules (p : PartId) (gs : List Nat)
  | createContext (c : CtxId)
  | setTranslationRoot (c : CtxId) (root : Nat)
  | destroyPartition (p : PartId)
  | retransmit (pkg port vc : Nat)
  | ackReceive (pkg port : Nat) (hdr : BitVec 64)
  | powerRemoval (pkg : Nat)
  | selfTestDone (n : Nat) (passes : Bool)
  | attestationRequest (pkg : Nat) (p : Option PartId) (nonce : BitVec 256)
  | firmwareUpdateStage (pkg : Nat) (img : FwImage)
  | flitReceive (pkg port : Nat) (hdr : BitVec 64) (payload : List (BitVec 8)) (crc : BitVec 64) (room : Bool)
  | nackReceive (pkg port : Nat) (hdr : BitVec 64) (crc : Bool)
  | linkControl (pkg port : Nat) (hdr : BitVec 64)
  | powerCapStep (pkg : Nat)
  | thermalThrottle (pkg : Nat)
  | thermalShutdown (pkg : Nat)
  | enrolDomainGroup (p : PartId) (g : Nat)
  | coldReset (pkg : Nat)
  | contextEnd (c : CtxId)
  | partitionShareThrottle (p : PartId)
  deriving DecidableEq, Repr

end Sys2Proof
end

