-- ==== Sys2Proof/Config.lean ====
section
/-! DEFINITION. What the spec leaves to the implementation, and the free values: constants with no body, so no proof can
rest on what they are. -/

namespace Sys2Proof.Config

/-- The approximate special functions of group 0x5 (06 R144). -/
inductive SpecialFn where
  | rcp | rsq | exp2 | log2 | sinp | cosp
  deriving DecidableEq, Repr

/-- FREE VALUE: the bits that the VG-4830 returns for a special function where 06 R144 states only a bound. A fixed
function of the operand, the same on every lane. Log entry 4. -/
opaque specialBits : SpecialFn → Word → Word

/-- FREE VALUE: how far the reading of package time at a lane is ahead of the model's clock, 0-7 ticks (07 R187). Log entry 6. -/
opaque clockSkew : Nat → BitVec 3

/-- Installed LPDDR capacity of each channel and expander capacity of each port, in GB (10 R387, 19 R374). Log entry 8. -/
opaque lpddrGB : Nat
opaque expanderGB : Nat → Nat

/-- The functions that 19 R382 and R383 name and do not define: SHAKE256 over fields, the digest that the fuses hold, and
Falcon-1024 verification with a key of a digest, and signing with the device identity key. Log entry 7. -/
opaque shake256 : List Nat → BitVec 512
opaque fusedKey : BitVec 512
opaque verifies : BitVec 512 → BitVec 512 → Nat → Bool
opaque signature : BitVec 512 → Nat

/-- FREE VALUE: whether the march of a self-test passes, by the number of the test, where the agenda does not say. Log entry 2. -/
opaque testPasses : Nat → Bool

/-- The 64-bit CRC of a flit over its bytes 0-247, whose polynomial 19 R376 does not give. Log entry 49. -/
opaque flitCrc : List (BitVec 8) → BitVec 64

/-- FREE VALUE: byte `i` of the payload of flit `n`: 19 R376 gives no layout of what a flit carries. Log entry 49. -/
opaque payloadByte : Nat → Nat → BitVec 8

/-- The identity certificate chain that Stonil's root ends (19 R383): certificates as bytes. Log entry 7. -/
opaque certChain : List (List (BitVec 8))

/-- FREE VALUE: energy in µJ that package `pkg` takes in tick `t` of its time (19 R385). Log entry 50. -/
opaque energyStep : Nat → Nat → Nat

/-- FREE VALUE: selectors of the units whose self-test fails in step 2 of bring-up, with the tile of a tile's unit counted over the package
(19 R386). Log entry 50. -/
opaque bringUpUnits : Nat → List Word

/-- FREE VALUE: values that the spec does not state, drawn in turn by `State.fresh`. Log entry 3. -/
opaque freeWord : Nat → Word

end Sys2Proof.Config
end

