-- ==== Sys2Proof/Machine/Float.lean ====
section
/-! DEFINITION. Number formats and rounding (03 R60-R78): exact values, the grid of a format, the four rounding modes,
overflow and conversion. Nothing here depends on the state of the machine. -/

namespace Sys2Proof.Machine

/-- A nonzero exact real number `num / den * 2 ^ e` (03 R67, R72). -/
structure Exact where
  num : Int
  den : Nat
  e : Int
  deriving DecidableEq, Repr

/-- What a floating-point encoding stands for (03 R60, R61). -/
inductive FVal where
  | nan
  | inf (neg : Bool)
  | zero (neg : Bool)
  | fin (x : Exact)
  deriving DecidableEq, Repr

/-- The four rounding modes (03 R73). -/
inductive RMode where
  | rne | rz | rd | ru
  deriving DecidableEq, Repr

/-- A mode code 0-3 of DRND (03 R73). -/
def RMode.ofCode : Nat → RMode
  | 1 => .rz | 2 => .rd | 3 => .ru | _ => .rne

/-- A floating-point format (03 R60); `e4m3` marks the format without infinities. -/
structure Fmt where
  eb : Nat
  fb : Nat
  bias : Nat
  e4m3 : Bool
  deriving DecidableEq, Repr

def fp40 : Fmt := ⟨10, 29, 511, false⟩
def fp32 : Fmt := ⟨8, 23, 127, false⟩
def fp16 : Fmt := ⟨5, 10, 15, false⟩
def bf16 : Fmt := ⟨8, 7, 127, false⟩
def e5m2 : Fmt := ⟨5, 2, 15, false⟩
def e4m3 : Fmt := ⟨4, 3, 7, true⟩

def Fmt.width (f : Fmt) : Nat := 1 + f.eb + f.fb
/-- The exponent of the unit of the subnormals. -/
def Fmt.q0 (f : Fmt) : Int := 1 - (f.bias : Int) - f.fb
/-- The largest finite magnitude as `significand * 2 ^ unit`. -/
def Fmt.maxSig (f : Fmt) : Nat := if f.e4m3 then 2 ^ (f.fb + 1) - 2 else 2 ^ (f.fb + 1) - 1
def Fmt.maxUnit (f : Fmt) : Int :=
  (if f.e4m3 then ((2 ^ f.eb - 1 : Nat) : Int) else ((2 ^ f.eb - 2 : Nat) : Int)) - f.bias - f.fb

/-- Places the sign above a magnitude's bits. -/
def Fmt.signed (f : Fmt) (neg : Bool) (mag : Nat) : Nat :=
  (if neg then 2 ^ (f.eb + f.fb) else 0) + mag

/-- The canonical NaN (03 R61). -/
def Fmt.nanBits (f : Fmt) : Nat :=
  if f.e4m3 then 2 ^ (f.eb + f.fb) - 1 else (2 ^ f.eb - 1) * 2 ^ f.fb + 2 ^ (f.fb - 1)
/-- Infinity; E4M3 has none and gives its NaN (03 R75). -/
def Fmt.infBits (f : Fmt) (neg : Bool) : Nat :=
  if f.e4m3 then f.nanBits else f.signed neg ((2 ^ f.eb - 1) * 2 ^ f.fb)
/-- The largest finite value. -/
def Fmt.maxBits (f : Fmt) (neg : Bool) : Nat :=
  f.signed neg (if f.e4m3 then 2 ^ (f.eb + f.fb) - 2 else (2 ^ f.eb - 1) * 2 ^ f.fb - 1)

/-- The value of an encoding (03 R60). -/
def Fmt.decode (f : Fmt) (bits : Nat) : FVal :=
  let frac := bits % 2 ^ f.fb
  let ex := bits / 2 ^ f.fb % 2 ^ f.eb
  let neg := bits / 2 ^ (f.eb + f.fb) % 2 == 1
  let sgn : Int := if neg then -1 else 1
  if f.e4m3 && ex == 2 ^ f.eb - 1 && frac == 2 ^ f.fb - 1 then .nan
  else if !f.e4m3 && ex == 2 ^ f.eb - 1 then (if frac == 0 then .inf neg else .nan)
  else if ex == 0 then
    (if frac == 0 then .zero neg else .fin ⟨sgn * frac, 1, f.q0⟩)
  else .fin ⟨sgn * ((2 ^ f.fb + frac : Nat) : Int), 1, (ex : Int) - f.bias - f.fb⟩

/-- `a * 2 ^ k` for `k ≥ 0`, `a / 2 ^ (-k)` is left to the caller as a denominator. -/
def scaleUp (a : Nat) (k : Int) : Nat := a * 2 ^ k.toNat

/-- The magnitude of an exact value as numerator and denominator over the unit `2 ^ q`. -/
def Exact.over (x : Exact) (q : Int) : Nat × Nat :=
  (scaleUp x.num.natAbs (x.e - q), scaleUp x.den (q - x.e))

/-- The binade of a positive magnitude: the integer `k` with `2 ^ k ≤ value < 2 ^ (k + 1)`. -/
def Exact.binade (x : Exact) : Int :=
  let k : Int := (Nat.log2 x.num.natAbs : Int) - Nat.log2 x.den + x.e
  let p := x.over k
  if p.2 ≤ p.1 then k else k - 1

/-- Where a magnitude lies on the grid of a format: the lower neighbour `n * 2 ^ q`, whether it is exact, and how the
magnitude compares with the middle of the step (03 R72). -/
structure GridPos where
  n : Nat
  q : Int
  exact : Bool
  half : Ordering
  deriving DecidableEq, Repr

def Fmt.unitOf (f : Fmt) (binade : Int) : Int := max (binade - f.fb) f.q0

def Exact.onUnit (x : Exact) (q : Int) : GridPos :=
  let p := x.over q
  let n := p.1 / p.2
  ⟨n, q, p.1 % p.2 == 0, compare (2 * p.1) ((2 * n + 1) * p.2)⟩

def Fmt.grid (f : Fmt) (x : Exact) : GridPos := x.onUnit (f.unitOf x.binade)

/-- Whether the magnitude rounds away from zero (03 R72 items 1-4). -/
def GridPos.up (g : GridPos) (m : RMode) (neg : Bool) : Bool :=
  if g.exact then false
  else match m with
    | .rne => match g.half with
      | .gt => true
      | .eq => g.n % 2 == 1
      | .lt => false
    | .rz => false
    | .rd => neg
    | .ru => !neg

/-- Whether `n * 2 ^ q` is above the largest finite value. -/
def Fmt.beyond (f : Fmt) (n : Nat) (q : Int) : Bool :=
  let k := q - f.maxUnit
  if 0 ≤ k then decide (f.maxSig < scaleUp n k) else decide (scaleUp f.maxSig (-k) < n)

/-- The bits of a grid value that does not lie above the largest finite value. -/
def Fmt.encodeMag (f : Fmt) (n : Nat) (q : Int) : Nat :=
  if n < 2 ^ f.fb then n
  else if n == 2 ^ (f.fb + 1) then ((q + 1 + f.fb + f.bias).toNat) * 2 ^ f.fb
  else ((q + f.fb + f.bias).toNat) * 2 ^ f.fb + (n - 2 ^ f.fb)

/-- The overflow result (03 R74). -/
def Fmt.overflow (f : Fmt) (m : RMode) (sat neg : Bool) : Nat :=
  if sat then f.maxBits neg
  else
    let toInf := match m with
      | .rne => true
      | .rz => false
      | .rd => neg
      | .ru => !neg
    if toInf then f.infBits neg else f.maxBits neg

/-- The chosen grid value with its overflow result (03 R72 items 5 and 6). -/
def Fmt.finish (f : Fmt) (m : RMode) (sat neg : Bool) (n : Nat) (q : Int) : Nat :=
  if f.beyond n q then f.overflow m sat neg else f.signed neg (f.encodeMag n q)

/-- `round_m` of a nonzero exact value (03 R72, R74). -/
def Fmt.roundFin (f : Fmt) (m : RMode) (sat : Bool) (x : Exact) : Nat :=
  let neg := decide (x.num < 0)
  let g := f.grid x
  f.finish m sat neg (g.n + (if g.up m neg then 1 else 0)) g.q

/-- The result of an arithmetic instruction: an infinity stays infinite under SAT (06 R136). -/
def Fmt.arith (f : Fmt) (m : RMode) (sat : Bool) : FVal → Nat
  | .nan => f.nanBits
  | .inf neg => f.infBits neg
  | .zero neg => f.signed neg 0
  | .fin x => f.roundFin m sat x

/-- A conversion into a format: under SAT an infinity becomes the largest finite value (03 R75). -/
def Fmt.conv (f : Fmt) (m : RMode) (sat : Bool) : FVal → Nat
  | .inf neg => if sat then f.maxBits neg else f.infBits neg
  | v => f.arith m sat v

/-- The nearest integer in a mode (03 R72). -/
def Exact.toInteger (x : Exact) (m : RMode) : Int :=
  let neg := decide (x.num < 0)
  let g := x.onUnit 0
  let n : Nat := g.n + (if g.up m neg then 1 else 0)
  if neg then -(n : Int) else n

/-- An exact value for an integer. -/
def FVal.ofInt (v : Int) : FVal := if v = 0 then .zero false else .fin ⟨v, 1, 0⟩

/-- The indefinite value of an integer format of width `w` (03 R76). -/
def indefinite (w : Nat) : Int := (2 ^ (w - 1) : Nat)

/-- A conversion from floating point to an integer format, as an integer whose low `w` bits are the result (03 R76). -/
def FVal.toIntFmt (v : FVal) (m : RMode) (sat signed : Bool) (w : Nat) : Int :=
  let ranged (x : Int) : Int :=
    if x < rangeLo signed w then (if sat then rangeLo signed w else indefinite w)
    else if rangeHi signed w < x then (if sat then rangeHi signed w else indefinite w)
    else x
  match v with
  | .nan => if sat then 0 else indefinite w
  | .inf neg =>
    if sat then (if neg then rangeLo signed w else rangeHi signed w) else indefinite w
  | .zero _ => 0
  | .fin x => ranged (x.toInteger m)

/-- Exact addition of nonzero values; `none` is an exact zero. -/
def Exact.add (x y : Exact) : Option Exact :=
  let e := min x.e y.e
  let a := x.num * (2 ^ (x.e - e).toNat : Nat) * y.den
  let b := y.num * (2 ^ (y.e - e).toNat : Nat) * x.den
  if a + b = 0 then none else some ⟨a + b, x.den * y.den, e⟩

def Exact.mul (x y : Exact) : Exact := ⟨x.num * y.num, x.den * y.den, x.e + y.e⟩
def Exact.neg (x : Exact) : Exact := { x with num := -x.num }
def Exact.scale (x : Exact) (k : Int) : Exact := { x with e := x.e + k }
/-- Division by a nonzero value. -/
def Exact.div (x y : Exact) : Exact :=
  ⟨(if y.num < 0 then -x.num else x.num) * y.den, x.den * y.num.natAbs, x.e - y.e⟩

def FVal.isNan : FVal → Bool
  | .nan => true
  | _ => false
def FVal.isInf : FVal → Bool
  | .inf _ => true
  | _ => false
def FVal.isNeg : FVal → Bool
  | .nan => false
  | .inf n => n
  | .zero n => n
  | .fin x => decide (x.num < 0)
def FVal.neg : FVal → FVal
  | .nan => .nan
  | .inf n => .inf (!n)
  | .zero n => .zero (!n)
  | .fin x => .fin x.neg

/-- A product of two operands (06 R138). -/
def FVal.mul (a b : FVal) : FVal :=
  match a, b with
  | .nan, _ | _, .nan => .nan
  | .inf _, .zero _ | .zero _, .inf _ => .nan
  | .fin x, .fin y => .fin (x.mul y)
  | x, y => if x.isInf || y.isInf then .inf (x.isNeg != y.isNeg) else .zero (x.isNeg != y.isNeg)

/-- The exact sum of added terms in a mode (03 R72 item 7, 06 R138). -/
def sumTerms (m : RMode) (ts : List FVal) : FVal :=
  if ts.any FVal.isNan then .nan
  else if ts.any (fun t => t.isInf && t.isNeg) then
    (if ts.any (fun t => t.isInf && !t.isNeg) then .nan else .inf true)
  else if ts.any FVal.isInf then .inf false
  else
    let total : Option Exact := ts.foldl (fun acc t =>
      match acc, t with
      | none, .fin x => some x
      | some a, .fin x => a.add x
      | a, _ => a) none
    match total with
    | some x => .fin x
    | none =>
      if ts.all (fun t => t == .zero false) then .zero false
      else if ts.all (fun t => t == .zero true) then .zero true
      else .zero (m == .rd)

def FVal.add (m : RMode) (a b : FVal) : FVal := sumTerms m [a, b]

/-- Order of two values that are not NaN; zeros are equal (05 R126). -/
def FVal.cmp (a b : FVal) : Ordering :=
  match a, b with
  | .inf n, .inf k => if n == k then .eq else if n then .lt else .gt
  | .inf n, _ => if n then .lt else .gt
  | _, .inf n => if n then .gt else .lt
  | x, y =>
    let s (v : FVal) : Exact := match v with
      | .fin e => e
      | _ => ⟨0, 1, 0⟩
    match (s x).add (s y).neg with
    | none => .eq
    | some d => if d.num < 0 then .lt else .gt

/-- FMIN and FMAX (06 R139): a NaN counts as absent, and -0 is less than +0. -/
def fminBits (f : Fmt) (a b : Nat) : Nat :=
  match f.decode a, f.decode b with
  | .nan, .nan => f.nanBits
  | .nan, _ => b
  | _, .nan => a
  | .zero n, .zero _ => if n then a else b
  | x, y => if x.cmp y == .gt then b else a
def fmaxBits (f : Fmt) (a b : Nat) : Nat :=
  match f.decode a, f.decode b with
  | .nan, .nan => f.nanBits
  | .nan, _ => b
  | _, .nan => a
  | .zero n, .zero _ => if n then b else a
  | x, y => if x.cmp y == .lt then b else a

/-- Stochastic rounding with a random operand (03 R77). -/
def Fmt.stochastic (f : Fmt) (sat : Bool) (r : Nat) : FVal → Nat
  | .fin x =>
    let neg := decide (x.num < 0)
    let g := f.grid x
    let m : RMode := if neg then .rd else .ru
    if g.exact then f.finish m sat neg g.n g.q
    else
      -- `frac` is the distance above the neighbour nearer zero, over the step
      let p := x.over g.q
      let rem := p.1 % p.2
      let d := if neg then ((p.2 - rem) * 2 ^ 32) / p.2 else (rem * 2 ^ 32) / p.2
      let up := if neg then !decide (r < d) else decide (r < d)
      f.finish m sat neg (g.n + (if up then 1 else 0)) g.q
  | v => f.conv .rne sat v

/-- Conversion with error feedback: the narrow result and the new companion, from FP32 bits (03 R78). -/
def errorFeedback (f : Fmt) (sat : Bool) (a c : Nat) : Nat × Nat :=
  let t := fp32.arith .rne false ((fp32.decode a).add .rne (fp32.decode c))
  let tv := fp32.decode t
  let y := f.conv .rne sat tv
  let yv := f.decode y
  let c' := if tv.isNan || yv.isNan || yv.isInf then 0
    else fp32.arith .rne false (tv.add .rne yv.neg)
  (y, c')

/-! ## Square root -/

/-- The integer square root, one binary digit for each unit of fuel. -/
def isqrt : Nat → Nat → Nat
  | 0, _ => 0
  | k + 1, x =>
    let r := 2 * isqrt k (x / 4)
    if (r + 1) * (r + 1) ≤ x then r + 1 else r

/-- The square root of a positive dyadic value, placed on the grid of a format. -/
def Fmt.sqrtGrid (f : Fmt) (x : Exact) : GridPos :=
  let q := f.unitOf (x.binade / 2)
  let p := x.over (2 * q)
  let s := p.1 / p.2
  let n := isqrt (s.log2 / 2 + 1) s
  ⟨n, q, p.1 == n * n * p.2, compare (4 * p.1) ((2 * n + 1) * (2 * n + 1) * p.2)⟩

/-- Correctly rounded square root (06 R144, R145). -/
def Fmt.sqrt (f : Fmt) (m : RMode) (sat : Bool) : FVal → Nat
  | .nan => f.nanBits
  | .inf neg => if neg then f.nanBits else f.infBits false
  | .zero neg => f.signed neg 0
  | .fin x =>
    if x.num < 0 then f.nanBits
    else
      let g := f.sqrtGrid x
      f.finish m sat false (g.n + (if g.up m false then 1 else 0)) g.q

end Sys2Proof.Machine
end

