-- ==== Sys2Proof/Machine/Block.lean ====
section
/-! DEFINITION. Self-describing blocks (03 R63-R67): the header, the Q4X sequence, decoding to exact values, and packing
(06 R152-R158). A block is a 512-bit line with byte 0 in its low bits. -/

namespace Sys2Proof.Machine

/-- Byte `j` of a line. -/
def lineByte (b : Line) (j : Nat) : Byte := b.extractLsb' (8 * j) 8
/-- The 32-bit word `t` of a line (01 R29). -/
def lineWord (b : Line) (t : Nat) : Word := b.extractLsb' (32 * t) 32

/-- A line built from bytes, the first in the low bits. -/
def lineOfBytes (bs : List Byte) : Line :=
  BitVec.ofNat 512 (bs.foldr (fun x acc => x.toNat + 256 * acc) 0)
/-- A line built from words, thread 0's in the low bits. -/
def lineOfWords (ws : List Word) : Line :=
  BitVec.ofNat 512 (ws.foldr (fun x acc => x.toNat + 2 ^ 32 * acc) 0)

/-- The header fields of 03 R65. -/
structure BlkHdr where
  sexp : Nat
  sfrac : Nat
  fmt : Nat
  deriving DecidableEq, Repr

def BlkHdr.ofWord (h : Nat) : BlkHdr := ⟨h / 256 % 256, h / 64 % 4, h % 64⟩
def BlkHdr.toNat (h : BlkHdr) : Nat := h.sexp * 256 + h.sfrac * 64 + h.fmt
def blkHdr (b : Line) : BlkHdr := BlkHdr.ofWord (b.extractLsb' 0 16).toNat

/-- 03 R67 step 1: an opaque or reserved format code. -/
def fmtReserved (fmt : Nat) : Bool := fmt == 0 || (7 ≤ fmt && fmt != 0x3F)

/-- How many elements a format has (03 R66). -/
def fmtElems (fmt : Nat) : Nat :=
  match fmt with
  | 1 => 124 | 2 => 62 | 3 => 62 | 4 => 62 | 5 => 31 | 6 => 124 | 0x3F => 124 | _ => 0

/-- Slot `i` of a payload (03 R64). -/
def blkSlot (b : Line) (i : Nat) : Nat := (b.extractLsb' (16 + 4 * i) 4).toNat

/-- The signed value of a 4-bit code. -/
def signed4 (c : Nat) : Int := if c < 8 then (c : Int) else (c : Int) - 16

/-- The decoding of a Q4X sequence from slot `i` upwards (03 R64): element values, whether an escape was decoded, and
whether the sequence is malformed. -/
structure Q4xSeq where
  elems : List FVal
  esc : Bool
  mal : Bool
  deriving DecidableEq, Repr

def q4xFrom (b : Line) : Nat → Nat → Q4xSeq
  | 0, _ => ⟨[], false, false⟩
  | fuel + 1, i =>
    if 124 ≤ i then ⟨[], false, false⟩
    else
      let code := blkSlot b i
      if code ≠ 8 then
        let r := q4xFrom b fuel (i + 1)
        { r with elems := FVal.ofInt (signed4 code) :: r.elems }
      else if 122 ≤ i then ⟨[], true, true⟩
      else
        let v := e4m3.decode (blkSlot b (i + 1) * 16 + blkSlot b (i + 2))
        let r := q4xFrom b fuel (i + 3)
        { r with elems := v :: .zero false :: .zero false :: r.elems, esc := true }

def q4xSeq (b : Line) : Q4xSeq := q4xFrom b 125 0

/-- The element values before scaling (03 R66). -/
def rawElems (b : Line) (fmt : Nat) : List FVal :=
  match fmt with
  | 1 => (q4xSeq b).elems
  | 2 => (List.range 62).map (fun i => e4m3.decode (lineByte b (2 + i)).toNat)
  | 3 => (List.range 62).map (fun i => e5m2.decode (lineByte b (2 + i)).toNat)
  | 4 => (List.range 62).map (fun i => FVal.ofInt (lineByte b (2 + i)).toInt)
  | 5 => (List.range 31).map (fun i => bf16.decode (b.extractLsb' (16 + 16 * i) 16).toNat)
  | 6 => (List.range 124).map (fun i => FVal.ofInt (signed4 (blkSlot b i)))
  | _ => []

/-- The scale of a header as an exact value (03 R65). -/
def blkScale (h : BlkHdr) : Exact := ⟨4 + h.sfrac, 1, (h.sexp : Int) - 129⟩

def FVal.scaled (s : Exact) : FVal → FVal
  | .fin x => .fin (x.mul s)
  | v => v

/-- Decoding a block by the first matching row of 03 R67; `none` is step 1's format fault. -/
def decodeBlock (b : Line) : Option (List FVal) :=
  let h := blkHdr b
  if fmtReserved h.fmt then none
  else if h.fmt == 0x3F then some (List.replicate 124 (.zero false))
  else if h.sexp == 255 then some (List.replicate (fmtElems h.fmt) .nan)
  else if h.fmt == 1 && (q4xSeq b).mal then some (List.replicate 124 .nan)
  else if h.sexp == 0 then some (List.replicate (fmtElems h.fmt) (.zero false))
  else some ((rawElems b h.fmt).map (FVal.scaled (blkScale h)))

/-- The status word of BLKH (06 R153). -/
def blkStatus (b : Line) : Word :=
  let h := blkHdr b
  let q := q4xSeq b
  let rsv := fmtReserved h.fmt
  let mal := h.fmt == 1 && q.mal
  let named := 1 ≤ h.fmt && h.fmt ≤ 6
  let nanb := (h.sexp == 255 && named) || mal
  let zero := h.fmt == 0x3F || (h.sexp == 0 && named && !mal)
  let esc := h.fmt == 1 && q.esc
  let bit (c : Bool) (n : Nat) : Nat := if c then 2 ^ n else 0
  BitVec.ofNat 32 (h.toNat + bit esc 16 + bit zero 17 + bit nanb 18 + bit mal 19 + bit rsv 20)

/-! ## Packing -/

/-- The target of BLKPACK and BLKSCL.fit (06 R155). -/
inductive PackFmt where
  | q4x | int4 | e4m3 | e5m2 | int8 | bf16
  deriving DecidableEq, Repr

def PackFmt.code : PackFmt → Nat
  | .q4x => 1 | .int4 => 6 | .e4m3 => 2 | .e5m2 => 3 | .int8 => 4 | .bf16 => 5
def PackFmt.count : PackFmt → Nat
  | .q4x => 124 | .int4 => 124 | .e4m3 => 62 | .e5m2 => 62 | .int8 => 62 | .bf16 => 31
/-- The number of registers of the element range. -/
def PackFmt.regs : PackFmt → Nat
  | .q4x => 8 | .int4 => 8 | .e4m3 => 4 | .e5m2 => 4 | .int8 => 4 | .bf16 => 2

/-- A block from a header, elements of `w` bits in ascending order. -/
def blkBuild (hdr w : Nat) (elems : List Nat) : Line :=
  BitVec.ofNat 512 (hdr % 65536 + 65536 * elems.foldr (fun x acc => x % 2 ^ w + 2 ^ w * acc) 0)

/-- `x / S`, exactly. -/
def FVal.divBy (s : Exact) : FVal → FVal
  | .fin x => .fin (x.div s)
  | v => v

/-- The Q4X rule of 06 R156: the slots from `i` upwards, and whether the block becomes a NaN block. -/
def q4xFill (m : RMode) (sat esc : Bool) (xs : List FVal) : Nat → Nat → List Nat × Bool
  | 0, _ => ([], false)
  | fuel + 1, i =>
    if 124 ≤ i then ([], false)
    else
      let x := (xs[i]?).getD (.zero false)
      let q? : Option Int := match x with
        | .zero _ => some 0
        | .fin v => some (v.toInteger m)
        | _ => none
      match q?.filter (fun q => q.natAbs ≤ 7) with
      | some q =>
        let r := q4xFill m sat esc xs fuel (i + 1)
        ((q % 16).toNat :: r.1, r.2)
      | none =>
        if esc && decide (i ≤ 121) then
          let b := e4m3.conv m sat x
          let r := q4xFill m sat esc xs fuel (i + 3)
          (8 :: b / 16 :: b % 16 :: r.1, r.2)
        else if sat then
          let c : Nat := match x with
            | .nan => 0
            | v => if v.isNeg then 9 else 7
          let r := q4xFill m sat esc xs fuel (i + 1)
          (c :: r.1, r.2)
        else ([], true)

/-- BLKPACK: the block written from FP32 words in position order and a template (06 R155, R156). -/
def packBlock (pf : PackFmt) (m : RMode) (sat esc : Bool) (template : Nat) (words : List Word) : Line :=
  let sexp := template / 256 % 256
  let sfrac := template / 64 % 4
  let xs := (words.take pf.count).map (fun w => fp32.decode w.toNat)
  if sexp == 255 then blkBuild (255 * 256 + pf.code) 8 []
  else if sexp == 0 then blkBuild pf.code 8 []
  else
    let h : BlkHdr := ⟨sexp, sfrac, pf.code⟩
    let ys := xs.map (FVal.divBy (blkScale h))
    match pf with
    | .q4x =>
      let r := q4xFill m sat esc ys 125 0
      blkBuild (if r.2 then 255 * 256 + 1 else h.toNat) 4 r.1
    | .int4 => blkBuild h.toNat 4 (ys.map (fun y => (y.toIntFmt m sat true 4 % 16).toNat))
    | .e4m3 => blkBuild h.toNat 8 (ys.map (e4m3.conv m sat))
    | .e5m2 => blkBuild h.toNat 8 (ys.map (e5m2.conv m sat))
    | .int8 => blkBuild h.toNat 8 (ys.map (fun y => (y.toIntFmt m sat true 8 % 256).toNat))
    | .bf16 => blkBuild h.toNat 16 (ys.map (bf16.conv m sat))

/-- BLKUNP: the FP32 words of the first `n` positions; `none` is a format fault (06 R157). -/
def unpackBlock (m : RMode) (sat : Bool) (n : Nat) (b : Line) : Option (List Word) :=
  (decodeBlock b).map (fun vs =>
    (List.range n).map (fun i => match vs[i]? with
      | some v => BitVec.ofNat 32 (fp32.conv m sat v)
      | none => 0#32))

/-- BLKSCL.adj (06 R158); `none` is a format fault. -/
def blkAdjust (b : Line) (k : Int) (sat : Bool) : Option Line :=
  let h := blkHdr b
  if fmtReserved h.fmt then none
  else if h.fmt == 0x3F || h.sexp == 0 || h.sexp == 255 then some b
  else
    let e' := (h.sexp : Int) + k
    let s : Nat :=
      if 254 < e' then (if sat then 254 else 255)
      else if e' < 1 then (if sat then 1 else 0)
      else e'.toNat
    some ((b &&& ~~~(0xFF00#512)) ||| BitVec.ofNat 512 (s * 256))

/-- The largest finite element magnitude L of 06 R158. -/
def PackFmt.maxMag : PackFmt → Exact
  | .q4x => ⟨7, 1, 0⟩
  | .int4 => ⟨7, 1, 0⟩
  | .e4m3 => ⟨448, 1, 0⟩
  | .e5m2 => ⟨57344, 1, 0⟩
  | .int8 => ⟨127, 1, 0⟩
  | .bf16 => ⟨255, 1, 120⟩

/-- `x ≤ y` for magnitudes. -/
def Exact.magLe (x y : Exact) : Bool :=
  let e := min x.e y.e
  decide (x.num.natAbs * 2 ^ (x.e - e).toNat * y.den ≤ y.num.natAbs * 2 ^ (y.e - e).toNat * x.den)

/-- BLKSCL.fit: the template of an element range (06 R158). -/
def fitTemplate (pf : PackFmt) (words : List Word) : Nat :=
  let xs := (words.take pf.count).map (fun w => fp32.decode w.toNat)
  if xs.any (fun x => x.isNan || x.isInf) then (⟨255, 0, pf.code⟩ : BlkHdr).toNat
  else
    let big := xs.foldl (fun (acc : Option Exact) x => match acc, x with
      | none, .fin v => some v
      | some a, .fin v => some (if a.magLe v then v else a)
      | a, _ => a) none
    match big with
    | none => pf.code
    | some mx =>
      let r := Exact.div ⟨mx.num.natAbs, mx.den, mx.e⟩ pf.maxMag
      let k := r.binade
      if k < -126 then (⟨1, 0, pf.code⟩ : BlkHdr).toNat
      else
        -- quarters of the binade, rounded up
        let g := r.onUnit (k - 2)
        let n := g.n + (if g.exact then 0 else 1)
        let e : Nat := (k + 127).toNat
        if n == 8 then (⟨e + 1, 0, pf.code⟩ : BlkHdr).toNat else (⟨e, n - 4, pf.code⟩ : BlkHdr).toNat

end Sys2Proof.Machine
end

