-- ==== Sys2Proof/Machine/Flags.lean ====
section
/-! DEFINITION. Predicate results (05 R109, R113, R126-R129, R131): carries, borrows, comparisons, combinations and votes. -/

namespace Sys2Proof.Machine

/-- The carry out of a 32-bit addition of naturals (05 R113). -/
def carryOut (a b : Word) (cin : Bool) : Bool :=
  decide (2 ^ 32 ≤ a.toNat + b.toNat + cin.toNat)

/-- The borrow out of a 32-bit subtraction of naturals (05 R113). -/
def borrowOut (a b : Word) (cin : Bool) : Bool :=
  decide (a.toNat < b.toNat + cin.toNat)

/-- A comparison of two exact integers; `un` and `ord` are no integer comparisons (05 R126). -/
def intCmp (c : Cmp) (a b : Int) : Bool :=
  match c with
  | .eq => decide (a = b)
  | .ne => decide (a ≠ b)
  | .lt => decide (a < b)
  | .le => decide (a ≤ b)
  | .gt => decide (b < a)
  | .ge => decide (b ≤ a)
  | .un => false
  | .ord => true

/-- A comparison of two FP32 values (05 R126). -/
def floatCmp (c : Cmp) (a b : Word) : Bool :=
  let x := fp32.decode a.toNat
  let y := fp32.decode b.toNat
  let un := x.isNan || y.isNan
  let o := x.cmp y
  match c with
  | .eq => !un && o == .eq
  | .ne => un || o != .eq
  | .lt => !un && o == .lt
  | .le => !un && o != .gt
  | .gt => !un && o == .gt
  | .ge => !un && o != .lt
  | .un => un
  | .ord => !un

/-- COMB: the comparison's result combined with a predicate (05 R126). -/
def combine (comb : BitVec 2) (c p : Bool) : Bool :=
  match comb.toNat with
  | 0 => c
  | 1 => c && p
  | 2 => c || p
  | _ => c != p

/-- A function of three bits in the minterm order of LOP3 (05 R121, R128). -/
def minterm (fn : BitVec 8) (a b c : Bool) : Bool :=
  fn.getLsbD (a.toNat + 2 * b.toNat + 4 * c.toNat)

/-- The predicate of VOTE for `c` true threads among `m` active ones (05 R131). -/
def voteCond (cond : BitVec 3) (m c : Nat) : Bool :=
  match cond.toNat with
  | 1 => c == m
  | 2 => decide (1 ≤ c)
  | 3 => c == 0 || c == m
  | 4 => decide (m < 2 * c)
  | 5 => c == 1
  | _ => false

/-- The class of a value: which bit of the class mask is set (06 R140). -/
def classBit (f : Fmt) (bits : Nat) : Nat :=
  let ex := bits / 2 ^ f.fb % 2 ^ f.eb
  match f.decode bits with
  | .nan => 8
  | .inf n => if n then 0 else 7
  | .zero n => if n then 3 else 4
  | .fin x =>
    if ex == 0 then (if x.num < 0 then 2 else 5) else (if x.num < 0 then 1 else 6)

end Sys2Proof.Machine
end

