-- ==== Sys2Proof/Machine/Integer.lean ====
section
/-! DEFINITION. The results of the integer, logic and strand-wide instructions as functions of their operand values
(05 R111-R134). Nothing here depends on the state of the machine. -/

namespace Sys2Proof.Machine

/-- Whether a type code is a signed integer type. -/
def Ty.signed : Ty → Bool
  | .i32 | .i8 | .i16 | .i64 => true
  | _ => false
/-- The width of an integer type code in bits. -/
def Ty.width : Ty → Nat
  | .i8 | .n8 => 8
  | .i16 | .n16 => 16
  | .i64 | .n64 => 64
  | _ => 32

/-- The word of an exact integer: clamped to the range of the type under SAT, its low bits otherwise (05 R110, R111). -/
def wrapOrClamp (signed sat : Bool) (v : Int) : Word :=
  bitsOf 32 (if sat then clampInt (rangeLo signed 32) (rangeHi signed 32) v else v)

def iaddVal (ty : Ty) (sat : Bool) (a b : Word) : Word :=
  wrapOrClamp (Ty.signed ty) sat (intOf (Ty.signed ty) a + intOf (Ty.signed ty) b)
def isubVal (ty : Ty) (sat : Bool) (a b : Word) : Word :=
  wrapOrClamp (Ty.signed ty) sat (intOf (Ty.signed ty) a - intOf (Ty.signed ty) b)
def imulVal (ty : Ty) (sat : Bool) (a b : Word) : Word :=
  wrapOrClamp (Ty.signed ty) sat (intOf (Ty.signed ty) a * intOf (Ty.signed ty) b)
def imadVal (ty : Ty) (sat : Bool) (a b c : Word) : Word :=
  wrapOrClamp (Ty.signed ty) sat
    (intOf (Ty.signed ty) a * intOf (Ty.signed ty) b + intOf (Ty.signed ty) c)
def iminVal (ty : Ty) (a b : Word) : Word :=
  if intOf (Ty.signed ty) b < intOf (Ty.signed ty) a then b else a
def imaxVal (ty : Ty) (a b : Word) : Word :=
  if intOf (Ty.signed ty) a < intOf (Ty.signed ty) b then b else a
def iabsVal (sat : Bool) (a : Word) : Word := wrapOrClamp true sat (a.toInt.natAbs : Int)
def inegVal (sat : Bool) (a : Word) : Word := wrapOrClamp true sat (-a.toInt)

/-- IMULH: bits [63:32] of the exact product (05 R112). -/
def imulhVal (ty : Ty) (a b : Word) : Word :=
  (bitsOf 64 (intOf (Ty.signed ty) a * intOf (Ty.signed ty) b)).extractLsb' 32 32
/-- IMADW: the 64-bit multiply-add (05 R112). -/
def imadwVal (ty : Ty) (a b : Word) (c : Dword) : Dword :=
  bitsOf 64 (intOf (Ty.signed ty) a * intOf (Ty.signed ty) b) + c

/-- IADDC and ISUBB without their predicates (05 R113). -/
def iaddcVal (a b : Word) (cin : Bool) : Word := BitVec.ofNat 32 (a.toNat + b.toNat + cin.toNat)
def isubbVal (a b : Word) (cin : Bool) : Word :=
  bitsOf 32 ((a.toNat : Int) - b.toNat - cin.toNat)

/-- IADD64 (05 R114). -/
def iadd64Val (a b : Dword) : Dword := a + b
/-- A 32-bit value sign-extended to 64 bits. -/
def sext64 (a : Word) : Dword := a.signExtend 64
def zext64 (a : Word) : Dword := a.zeroExtend 64

/-- Byte element `i` of a word as an integer (03 R63). -/
def byteElem (signed : Bool) (a : Word) (i : Nat) : Int := intOf signed (a.extractLsb' (8 * i) 8)

/-- ISAD (05 R115). -/
def isadVal (ty : Ty) (a b c : Word) : Word :=
  let s := Ty.signed ty
  let v : Int :=
    if Ty.width ty = 8 then
      ((byteElem s a 0 - byteElem s b 0).natAbs + (byteElem s a 1 - byteElem s b 1).natAbs
        + (byteElem s a 2 - byteElem s b 2).natAbs + (byteElem s a 3 - byteElem s b 3).natAbs : Nat)
    else ((intOf s a - intOf s b).natAbs : Nat)
  bitsOf 32 (c.toNat + v)

/-- IDOT4 (05 R115). -/
def idot4Val (ty : Ty) (mix sat : Bool) (a b c : Word) : Word :=
  let sa := Ty.signed ty
  let sb := sa != mix
  let sc := !(ty == .n8 && !mix)
  wrapOrClamp sc sat (intOf sc c + (byteElem sa a 0 * byteElem sb b 0 + byteElem sa a 1 * byteElem sb b 1
    + byteElem sa a 2 * byteElem sb b 2 + byteElem sa a 3 * byteElem sb b 3))

/-- The exact value `x / 2 ^ n` rounded to an integer (03 R72). A count above 128 is replaced by 128: every 64-bit value
over 2 ^ 128 lies strictly inside (-1/2, 1/2), so the result does not change. -/
def roundShift (m : RMode) (x : Int) (n : Nat) : Int :=
  if x = 0 then 0 else (⟨x, 1, -((min n 128 : Nat) : Int)⟩ : Exact).toInteger m

/-- IREQ (05 R116). -/
def ireqVal (ty : Ty) (m : RMode) (sat : Bool) (x : Int) (b : Word) : Word :=
  let w := Ty.width ty
  let s := Ty.signed ty
  let q := roundShift m x b.toNat
  let y := if sat then clampInt (rangeLo s w) (rangeHi s w) q else q
  if s then (bitsOf w y).signExtend 32 else (bitsOf w y).zeroExtend 32

/-! ## Logic and bit fields (05 R121-R125) -/

/-- LOP3: the function bit by bit (05 R121). -/
def lop3Val (fn : BitVec 8) (a b c : Word) : Word :=
  BitVec.ofFnLE (fun i : Fin 32 => minterm fn (a.getLsbD i) (b.getLsbD i) (c.getLsbD i))

/-- The shift count, modulo 32 under WRAP (05 R122). -/
def shiftCount (wrap : Bool) (n : Word) : Nat := if wrap then n.toNat % 32 else n.toNat

def shlVal (a : Word) (n : Nat) : Word := if 32 ≤ n then 0#32 else a <<< n
def shrVal (a : Word) (n : Nat) : Word := if 32 ≤ n then 0#32 else a >>> n
def sarVal (a : Word) (n : Nat) : Word := a.sshiftRight (min n 31)
def rolVal (a : Word) (n : Nat) : Word := a.rotateLeft (n % 32)
/-- FSHL (05 R122). -/
def fshlVal (a b : Word) (n : Nat) : Word :=
  let m := min n 32
  BitVec.ofNat 32 (((a.toNat * 2 ^ 32 + b.toNat) * 2 ^ m) / 2 ^ 32)

/-- The position and length of a control word (05 R123). -/
def fieldPos (c : Word) : Nat := (c.extractLsb' 0 8).toNat
def fieldLen (c : Word) : Nat := min (c.extractLsb' 8 8).toNat 32

/-- BFE (05 R123): the field's bits, and above it the fill of its top bit or zero. -/
def bfeVal (signed : Bool) (a ctl : Word) : Word :=
  let pos := fieldPos ctl
  let len := fieldLen ctl
  let bit (i : Nat) : Bool := if pos + i ≤ 31 then a.getLsbD (pos + i) else signed && a.msb
  if len = 0 then 0#32
  else BitVec.ofFnLE (fun i : Fin 32 => if i.val < len then bit i.val else signed && bit (len - 1))

/-- BFI (05 R123). -/
def bfiVal (a b ctl : Word) : Word :=
  let pos := fieldPos ctl
  let len := fieldLen ctl
  BitVec.ofFnLE (fun i : Fin 32 =>
    if pos ≤ i.val ∧ i.val < pos + len then a.getLsbD (i.val - pos) else b.getLsbD i.val)

/-- Counts of bits in the low `w` bits of a value (05 R124). -/
def popcount : Nat → Nat → Nat
  | 0, _ => 0
  | w + 1, x => x % 2 + popcount w (x / 2)
def trailing : Nat → Nat → Nat
  | 0, _ => 0
  | w + 1, x => if x % 2 = 1 then 0 else 1 + trailing w (x / 2)
def leading : Nat → Nat → Nat
  | 0, _ => 0
  | w + 1, x => if 2 ^ w ≤ x % 2 ^ (w + 1) then 0 else 1 + leading w x

/-- BREV (05 R124). -/
def brevVal (a : Word) : Word := BitVec.ofFnLE (fun i : Fin 32 => a.getLsbD (31 - i.val))

/-- PRMT (05 R125). -/
def prmtVal (a b c : Word) : Word :=
  let pool := b ++ a
  let out (i : Nat) : Byte :=
    let x : Byte := pool.extractLsb' (8 * (c.extractLsb' (3 * i) 3).toNat) 8
    match (c.extractLsb' (2 * i + 12) 2).toNat with
    | 0 => x
    | 1 => 0#8
    | 2 => if x.msb then 0xFF#8 else 0#8
    | _ => 0xFF#8
  out 3 ++ out 2 ++ out 1 ++ out 0

/-! ## Strand-wide results (05 R130-R134) -/

/-- The census word of VOTE over the active threads with their bits (05 R131). -/
def censusWord (bits : List (Nat × Bool)) : Word :=
  let mask := bits.foldl (fun acc p => if p.2 then acc + 2 ^ p.1 else acc) 0
  let cnt := (bits.filter (fun p => p.2)).length
  let first := match bits.find? (fun p => p.2) with
    | some p => p.1
    | none => 16
  BitVec.ofNat 32 (mask + cnt * 2 ^ 16 + first * 2 ^ 21)

/-- The source index of SHFL (05 R132). -/
def shflIndex (mode : BitVec 2) (t : Nat) (b : Word) : Int :=
  match mode.toNat with
  | 0 => (b.toNat % 16 : Nat)
  | 1 => ((t + b.toNat) % 16 : Nat)
  | 2 => (t : Int) + b.toInt
  | _ => (t ^^^ (b.toNat % 16) : Nat)

/-- One step of a fold (05 R133). -/
def foldStep (op : BitVec 4) (ty : Ty) (sat : Bool) (m : RMode) (acc x : Word) : Word :=
  match op.toNat with
  | 0 => iaddVal ty sat acc x
  | 1 => iminVal ty acc x
  | 2 => imaxVal ty acc x
  | 3 => acc &&& x
  | 4 => acc ||| x
  | 5 => acc ^^^ x
  | 6 => BitVec.ofNat 32 (fp32.arith m false ((fp32.decode acc.toNat).add m (fp32.decode x.toNat)))
  | 7 => BitVec.ofNat 32 (fminBits fp32 acc.toNat x.toNat)
  | _ => BitVec.ofNat 32 (fmaxBits fp32 acc.toNat x.toNat)

/-- The exclusive identity of a fold (05 R133). -/
def foldIdentity (op : BitVec 4) (ty : Ty) : Word :=
  match op.toNat with
  | 1 => if Ty.signed ty then 0x7FFFFFFF#32 else 0xFFFFFFFF#32
  | 2 => if Ty.signed ty then 0x80000000#32 else 0#32
  | 3 => 0xFFFFFFFF#32
  | 6 => 0x80000000#32
  | 7 => 0x7F800000#32
  | 8 => 0xFF800000#32
  | _ => 0#32

/-- One active thread of a fold: its index, its value, and whether it starts a segment. -/
structure FoldIn where
  t : Nat
  x : Word
  start : Bool
  deriving DecidableEq, Repr

/-- The running folds in thread order, each with the value before and after its thread (05 R133). -/
def runFold (f : Word → Word → Word) : Option Word → List FoldIn → List (Nat × Option Word × Word)
  | _, [] => []
  | acc, i :: rest =>
    let before := if i.start then none else acc
    let after := match before with
      | none => i.x
      | some a => f a i.x
    (i.t, before, after) :: runFold f (some after) rest

/-- SCAN: the running prefix of every active thread. -/
def scanVals (f : Word → Word → Word) (ident : Word) (excl : Bool) (ins : List FoldIn) : List (Nat × Word) :=
  (runFold f none ins).map (fun r => (r.1, if excl then r.2.1.getD ident else r.2.2))

/-- The total of the segment that the list begins in: the last prefix before the next start. -/
def segTotal : List (Nat × Option Word × Word) → Word → Word
  | [], w => w
  | r :: rest, w => if r.2.1 = none then w else segTotal rest r.2.2

/-- REDUX: the total of each active thread's segment. -/
def totals : List (Nat × Option Word × Word) → List (Nat × Word)
  | [] => []
  | r :: rest => (r.1, segTotal rest r.2.2) :: totals rest

def reduxVals (f : Word → Word → Word) (ins : List FoldIn) : List (Nat × Word) := totals (runFold f none ins)

/-- The group word of MATCH for the threads of a group (05 R134). -/
def groupWord (g : List Nat) : Word :=
  let mask := g.foldl (fun acc u => acc + 2 ^ u) 0
  BitVec.ofNat 32 (mask + g.length * 2 ^ 16 + (g.headD 0) * 2 ^ 21)

/-! ## Packed floating point (06 R136-R143, R146-R148) -/

/-- The element format of a floating-point type code. -/
def Ty.fmt : Ty → Fmt
  | .f16x2 => fp16
  | .bf16x2 => bf16
  | .e4m3 => e4m3
  | .e5m2 => e5m2
  | _ => fp32

/-- Applies a function of element bits to every element of three words (06 R136). -/
def perElem (ty : Ty) (f : Fmt → Nat → Nat → Nat → Nat) (a b c : Word) : Word :=
  match ty with
  | .f16x2 | .bf16x2 =>
    let fm := Ty.fmt ty
    let half (i : Nat) : Nat :=
      f fm (a.extractLsb' (16 * i) 16).toNat (b.extractLsb' (16 * i) 16).toNat (c.extractLsb' (16 * i) 16).toNat
    BitVec.ofNat 32 (half 0 % 65536 + (half 1 % 65536) * 65536)
  | _ => BitVec.ofNat 32 (f fp32 a.toNat b.toNat c.toNat)

def faddVal (ty : Ty) (m : RMode) (sat : Bool) (a b : Word) : Word :=
  perElem ty (fun f x y _ => f.arith m sat ((f.decode x).add m (f.decode y))) a b 0#32
def fsubVal (ty : Ty) (m : RMode) (sat : Bool) (a b : Word) : Word :=
  perElem ty (fun f x y _ => f.arith m sat ((f.decode x).add m (f.decode y).neg)) a b 0#32
def fmulVal (ty : Ty) (m : RMode) (sat : Bool) (a b : Word) : Word :=
  perElem ty (fun f x y _ => f.arith m sat ((f.decode x).mul (f.decode y))) a b 0#32
def ffmaVal (ty : Ty) (m : RMode) (sat : Bool) (a b c : Word) : Word :=
  perElem ty (fun f x y z => f.arith m sat (((f.decode x).mul (f.decode y)).add m (f.decode z))) a b c
def fminVal (ty : Ty) (a b : Word) : Word := perElem ty (fun f x y _ => fminBits f x y) a b 0#32
def fmaxVal (ty : Ty) (a b : Word) : Word := perElem ty (fun f x y _ => fmaxBits f x y) a b 0#32

/-- FCLASS (06 R140). -/
def fclassVal (ty : Ty) (a : Word) : Word :=
  match ty with
  | .f16x2 | .bf16x2 =>
    let f := Ty.fmt ty
    BitVec.ofNat 32 (2 ^ classBit f (a.extractLsb' 0 16).toNat
      + 2 ^ classBit f (a.extractLsb' 16 16).toNat * 65536)
  | _ => BitVec.ofNat 32 (2 ^ classBit fp32 a.toNat)

/-- FSCALE (06 R141). Beyond 2 ^ 12 in magnitude a count changes nothing further: the result has overflowed, or lies
below half the smallest subnormal. -/
def fscaleVal (ty : Ty) (m : RMode) (sat : Bool) (a b : Word) : Word :=
  let k := clampInt (-4096) 4096 b.toInt
  perElem ty (fun f x _ _ => f.arith m sat (match f.decode x with
    | .fin v => .fin (v.scale k)
    | v => v)) a 0#32 0#32

/-- FRND (06 R142). -/
def frndVal (ty : Ty) (m : RMode) (a : Word) : Word :=
  perElem ty (fun f x _ _ => f.arith m false (match f.decode x with
    | .fin v =>
      let n := v.toInteger m
      if n = 0 then .zero (decide (v.num < 0)) else FVal.ofInt n
    | v => v)) a 0#32 0#32

/-- FDOT2 (06 R143). -/
def fdot2Val (ty : Ty) (m : RMode) (sat : Bool) (a b c : Word) : Word :=
  let f := Ty.fmt ty
  let el (x : Word) (i : Nat) : FVal := f.decode (x.extractLsb' (16 * i) 16).toNat
  BitVec.ofNat 32 (fp32.arith m sat
    (sumTerms m [(el a 0).mul (el b 0), (el a 1).mul (el b 1), fp32.decode c.toNat]))

/-- FSQRT (06 R144). -/
def fsqrtVal (m : RMode) (sat : Bool) (a : Word) : Word :=
  BitVec.ofNat 32 (fp32.sqrt m sat (fp32.decode a.toNat))

/-- The element width of a conversion type (06 R146). -/
def Ty.elemWidth : Ty → Nat
  | .f32 | .i32 | .n32 => 32
  | .f16x2 | .bf16x2 | .i16 | .n16 => 16
  | .i64 | .n64 => 64
  | _ => 8
/-- Whether a type is an integer type. -/
def Ty.isInt : Ty → Bool
  | .i32 | .i8 | .i16 | .i64 | .n32 | .n8 | .n16 | .n64 => true
  | _ => false

/-- conv of 06 R147: an element's bits in the destination type from its bits in the source type. -/
def convElem (dty sty : Ty) (m : RMode) (sat : Bool) (x : Nat) : Nat :=
  if Ty.isInt sty then
    let w := Ty.elemWidth sty
    let v := intOf (Ty.signed sty) (BitVec.ofNat w x)
    (Ty.fmt dty).conv m sat (FVal.ofInt v)
  else
    let v := (Ty.fmt sty).decode x
    if Ty.isInt dty then
      let w := Ty.elemWidth dty
      (v.toIntFmt m sat (Ty.signed dty) w % (2 ^ w : Nat)).toNat
    else (Ty.fmt dty).conv m sat v

/-- Element `i` of width `w` of a word. -/
def elemOf (w : Nat) (a : Word) (i : Nat) : Nat := a.toNat / 2 ^ (w * i) % 2 ^ w
/-- Replaces element `i` of width `w`. -/
def setElem (w : Nat) (d : Word) (i x : Nat) : Word :=
  BitVec.ofNat 32 (d.toNat - elemOf w d i * 2 ^ (w * i) + (x % 2 ^ w) * 2 ^ (w * i))

/-- CVT (06 R147). -/
def cvtVal (dty sty : Ty) (m : RMode) (sat : Bool) (pos : Nat) (a c : Word) : Word :=
  let ws := Ty.elemWidth sty
  let wd := Ty.elemWidth dty
  let k := 32 / max ws wd
  if wd < ws then
    (List.range k).foldl (fun d j => setElem wd d (pos * k + j) (convElem dty sty m sat (elemOf ws a j))) c
  else
    (List.range k).foldl (fun d j => setElem wd d j (convElem dty sty m sat (elemOf ws a (pos * k + j)))) 0#32

/-- CVTEF (06 R148): the word and the new companion. -/
def cvtefVal (ty : Ty) (sat : Bool) (pos : Nat) (a b c : Word) : Word × Word :=
  let r := errorFeedback (Ty.fmt ty) sat a.toNat b.toNat
  (setElem (Ty.elemWidth ty) c pos r.1, BitVec.ofNat 32 r.2)

/-- CVTSR (06 R148). -/
def cvtsrVal (ty : Ty) (sat : Bool) (pos : Nat) (a b c : Word) : Word :=
  setElem (Ty.elemWidth ty) c pos ((Ty.fmt ty).stochastic sat b.toNat (fp32.decode a.toNat))

end Sys2Proof.Machine
end

