-- ==== Sys2Proof/Machine/Shape.lean ====
section
/-! DEFINITION. What each instruction names (05 R107-R109, 06 R135, 07 R159, 08 R190, 09 R215): its operands with the codes
they accept, its predicates, how it is evaluated (01 R15), how long it holds the datapath (01 R14), its class in deferring
mode (02 R46), and which encodings are illegal for it (04 R96 row 4). -/

namespace Sys2Proof.Machine

/-- The kinds of operand codes (01 R20). -/
inductive Kind where
  | vec | uni | zero | unispec | perThread | queue
  deriving DecidableEq, Repr

def Opd.kind : Opd → Kind
  | .v _ => .vec
  | .u _ => .uni
  | .zero => .zero
  | .tix | .gix | .vpc => .perThread
  | .sid | .bid | .tile => .unispec
  | .qp _ => .queue

/-- Source positions of a residual entry (02 R59). -/
inductive Pos where
  | a | b | c
  deriving DecidableEq, Repr

/-- One named operand: where it stands, how many consecutive registers it names from a multiple of `al`, and which kinds
of code are accepted there. -/
structure Use where
  pos : Pos
  o : Opd
  n : Nat
  al : Nat
  kinds : List Kind
  deriving DecidableEq, Repr

/-- How an instruction is evaluated (01 R15): by its operands, per active thread, once, once with a vector operand that its
description allows, as a combination of threads (05 R130), or line-wide (06 R150). -/
inductive Eval where
  | byOps | mask | once | onceAny | comb | line
  deriving DecidableEq, Repr

/-- The classes of 02 R46. -/
inductive Cls where
  | register | ordered | branch | tagTest | plain | stateOrdered | precise
  deriving DecidableEq, Repr

structure Shape where
  ev : Eval
  cls : Cls
  srcs : List Use := []
  dsts : List Use := []
  ps : List (BitVec 3) := []
  pd : List (BitVec 3) := []
  /-- Completes with an event and not 6 cycles after its last cycle (01 R23). -/
  long : Bool := false
  /-- Occupies 17 cycles (06 R150, 08 R197, 09 R215). -/
  wide : Bool := false
  /-- A uniform destination is allowed although the instruction is evaluated per thread. -/
  uniDst : Bool := false
  /-- The base of a MOVX or MOVXW (05 R119). -/
  window : Option Opd := none
  /-- Long-latency also when only its destination is a queue port (06 R135). -/
  portLong : Bool := false
  /-- Its vector source is an element range (06 R149). -/
  srcRange : Bool := false
  /-- The queue port that QCFG or QSTAT names to bind or inspect it: it neither pops nor pushes (02 R46, 07 R180). -/
  port : Option Opd := none
  deriving DecidableEq, Repr

/-! ## Sets of accepted kinds -/

def anySrc : List Kind := [.vec, .uni, .zero, .unispec, .perThread, .queue]
def anyDst : List Kind := [.vec, .uni, .zero, .queue]
def noQueue : List Kind := [.vec, .uni, .zero, .unispec, .perThread]
def uniSrc : List Kind := [.uni, .zero, .unispec]
def regKinds : List Kind := [.vec, .uni]
def regOrZero : List Kind := [.vec, .uni, .zero]
def uniOrZero : List Kind := [.uni, .zero]

/-- A 32-bit and a 64-bit source or destination (05 R108). -/
def s32 (p : Pos) (o : Opd) : Use := ⟨p, o, 1, 1, anySrc⟩
def s64 (p : Pos) (o : Opd) : Use := ⟨p, o, 2, 2, noQueue⟩
def sw (wide : Bool) (p : Pos) (o : Opd) : Use := if wide then s64 p o else s32 p o
def d32 (o : Opd) : Use := ⟨.a, o, 1, 1, anyDst⟩
def d64 (o : Opd) : Use := ⟨.a, o, 2, 2, regOrZero⟩
def dw (wide : Bool) (o : Opd) : Use := if wide then d64 o else d32 o
/-- An operand of given kinds, 32-bit. -/
def k32 (p : Pos) (o : Opd) (ks : List Kind) : Use := ⟨p, o, 1, 1, ks⟩
/-- A run of `n` vector registers (06 R149). -/
def vrun (p : Pos) (o : Opd) (n : Nat) : Use := ⟨p, o, n, 1, [.vec]⟩
/-- A quad of registers (07 R184). -/
def quad (p : Pos) (o : Opd) (ks : List Kind) : Use := ⟨p, o, 4, 4, ks⟩

/-- Base and index of a format M address (04 R93), at the source positions that the instruction gives them (02 R59); group 0x7 and
0x8 accept no queue port there. -/
def addrAt (p q : Pos) (m : Addr) : List Use := [s64 p m.base, k32 q m.idx noQueue]
def addrUniAt (p q : Pos) (m : Addr) : List Use := [⟨p, m.base, 2, 2, uniOrZero⟩, k32 q m.idx uniSrc]
/-- Of an instruction whose data field is no source, and of one whose data is the first source. -/
def addrUses (m : Addr) : List Use := addrAt .a .b m
def addrUni (m : Addr) : List Use := addrUniAt .a .b m
def dataUses (u : Use) (m : Addr) : List Use := u :: addrAt .b .c m
def dataUni (u : Use) (m : Addr) : List Use := u :: addrUniAt .b .c m

/-! ## Shapes of the common forms -/

/-- A register-class instruction evaluated by its operands. -/
def regOp (srcs dsts : List Use) (ps pd : List (BitVec 3)) : Shape :=
  { ev := .byOps, cls := .register, srcs := srcs, dsts := dsts, ps := ps, pd := pd }

/-- A register-class instruction of groups 0x4 and 0x5 (06 R135). -/
def fpOp (srcs dsts : List Use) (ps pd : List (BitVec 3)) : Shape := { regOp srcs dsts ps pd with portLong := true }

def pack : Ty → Bool → Option PackFmt
  | .q4x, false => some .q4x
  | .e4m3, false => some .e4m3
  | .e5m2, false => some .e5m2
  | .i8, false => some .int8
  | .i8, true => some .int4
  | .bf16x2, false => some .bf16
  | _, _ => none

def packRegs (ty : Ty) (i4 : Bool) : Nat := match pack ty i4 with
  | some f => f.regs
  | none => 1

def isWide (ty : Ty) : Bool := Ty.width ty == 64

def sysOnce (srcs dsts : List Use) (long : Bool) : Shape :=
  { ev := .once, cls := .stateOrdered, srcs := srcs, dsts := dsts, long := long }

/-- A format M instruction of groups 0x7 and 0x8. -/
def memOp (ev : Eval) (srcs dsts : List Use) : Shape :=
  { ev := ev, cls := .ordered, srcs := srcs, dsts := dsts, long := true }

/-- An instruction of group 0xB or 0xC: its source fields stand at A, B and C in their order (02 R59). -/
def cmdOp (srcs dsts : List Use) (wide : Bool) : Shape :=
  { ev := .line, cls := .ordered, srcs := srcs, dsts := dsts, long := true, wide := wide }

/-- The shape of a lane instruction; `none` for the other steps of the table. -/
def shape : Instr → Option Shape
  | .nop _ => some { ev := .mask, cls := .plain }
  | .bra .. => some { ev := .mask, cls := .branch }
  | .brx _ a => some { ev := .mask, cls := .branch, srcs := [⟨.a, a, 2, 2, regKinds⟩] }
  | .call .. => some { ev := .mask, cls := .branch }
  | .callx _ a => some { ev := .mask, cls := .branch, srcs := [⟨.a, a, 2, 2, regKinds⟩] }
  | .ret _ => some { ev := .mask, cls := .branch }
  | .bpend .. => some { ev := .mask, cls := .tagTest }
  | .exit _ => some { ev := .mask, cls := .stateOrdered }
  | .yield _ => some { ev := .mask, cls := .precise }
  | .idem _ => some { ev := .mask, cls := .precise }
  | .trap .. => some { ev := .mask, cls := .precise }
  | .brk .. => some { ev := .mask, cls := .precise }
  | .mode _ d _ _ => some { ev := .once, cls := .precise, dsts := [k32 .a d uniOrZero] }
  | .join _ d _ => some (sysOnce [] [k32 .a d uniOrZero] false)
  | .leave .. => some (sysOnce [] [] false)
  | .launch _ d a b =>
    some (sysOnce [⟨.a, a, 2, 2, uniOrZero⟩, k32 .b b uniSrc] [k32 .a d uniOrZero] true)
  | .nap _ a _ => some { ev := .mask, cls := .plain, srcs := [k32 .a a noQueue] }
  | .iadd _ d a b _ _ => some (regOp [s32 .a a, s32 .b b] [d32 d] [] [])
  | .isub _ d a b _ _ => some (regOp [s32 .a a, s32 .b b] [d32 d] [] [])
  | .iaddc _ d a b ci cip cop =>
    some (regOp [s32 .a a, s32 .b b] [d32 d] (if ci then [cip] else []) [cop])
  | .isubb _ d a b ci cip cop =>
    some (regOp [s32 .a a, s32 .b b] [d32 d] (if ci then [cip] else []) [cop])
  | .imul _ d a b _ _ => some (regOp [s32 .a a, s32 .b b] [d32 d] [] [])
  | .imulh _ d a b _ => some (regOp [s32 .a a, s32 .b b] [d32 d] [] [])
  | .imad _ d a b c _ _ => some (regOp [s32 .a a, s32 .b b, s32 .c c] [d32 d] [] [])
  | .imadw _ d a b c _ => some (regOp [s32 .a a, s32 .b b, s64 .c c] [d64 d] [] [])
  | .imin _ d a b _ => some (regOp [s32 .a a, s32 .b b] [d32 d] [] [])
  | .imax _ d a b _ => some (regOp [s32 .a a, s32 .b b] [d32 d] [] [])
  | .iabs _ d a _ => some (regOp [s32 .a a] [d32 d] [] [])
  | .ineg _ d a _ => some (regOp [s32 .a a] [d32 d] [] [])
  | .lea _ d m => some (regOp [s64 .a m.base, s32 .b m.idx] [d64 d] [] [])
  | .iadd64 _ d a b bx => some (regOp [s64 .a a, sw (!bx) .b b] [d64 d] [] [])
  | .isad _ d a b c _ => some (regOp [s32 .a a, s32 .b b, s32 .c c] [d32 d] [] [])
  | .idot4 _ d a b c _ _ _ => some (regOp [s32 .a a, s32 .b b, s32 .c c] [d32 d] [] [])
  | .ireq _ d a b _ _ _ wide _ => some (regOp [sw wide .a a, s32 .b b] [d32 d] [] [])
  | .mov _ d a w => some (regOp [sw w .a a] [dw w d] [] [])
  | .movi _ d _ form => some (regOp [] [dw (form != 0) d] [] [])
  | .movx _ d a b wr =>
    some (if wr then
        { regOp [s32 .a a, s32 .b b] [] [] [] with window := some d }
      else { regOp [s32 .b b] [d32 d] [] [] with window := some a })
  | .movxw _ d a b wr =>
    some (if wr then
        { regOp [s64 .a a, s32 .b b] [] [] [] with window := some d }
      else { regOp [s32 .b b] [d64 d] [] [] with window := some a })
  | .and _ d a b => some (regOp [s32 .a a, s32 .b b] [d32 d] [] [])
  | .or _ d a b => some (regOp [s32 .a a, s32 .b b] [d32 d] [] [])
  | .xor _ d a b => some (regOp [s32 .a a, s32 .b b] [d32 d] [] [])
  | .not _ d a => some (regOp [s32 .a a] [d32 d] [] [])
  | .andn _ d a b => some (regOp [s32 .a a, s32 .b b] [d32 d] [] [])
  | .shl _ d a b _ => some (regOp [s32 .a a, s32 .b b] [d32 d] [] [])
  | .shr _ d a b _ => some (regOp [s32 .a a, s32 .b b] [d32 d] [] [])
  | .sar _ d a b _ => some (regOp [s32 .a a, s32 .b b] [d32 d] [] [])
  | .rol _ d a b => some (regOp [s32 .a a, s32 .b b] [d32 d] [] [])
  | .fshl _ d a b c _ => some (regOp [s32 .a a, s32 .b b, s32 .c c] [d32 d] [] [])
  | .bfe _ d a b _ => some (regOp [s32 .a a, s32 .b b] [d32 d] [] [])
  | .bfi _ d a b c => some (regOp [s32 .a a, s32 .b b, s32 .c c] [d32 d] [] [])
  | .popc _ d a w => some (regOp [sw w .a a] [d32 d] [] [])
  | .clz _ d a w => some (regOp [sw w .a a] [d32 d] [] [])
  | .ctz _ d a w => some (regOp [sw w .a a] [d32 d] [] [])
  | .brev _ d a => some (regOp [s32 .a a] [d32 d] [] [])
  | .prmt _ d a b c => some (regOp [s32 .a a, s32 .b b, s32 .c c] [d32 d] [] [])
  | .lop3 _ d a b c _ ze pz =>
    some (regOp [s32 .a a, s32 .b b, s32 .c c] [d32 d] [] (if ze then [pz] else []))
  | .icmp _ a b ty pd _ comb pc =>
    some (regOp [sw (isWide ty) .a a, sw (isWide ty) .b b] [] (if comb = 0 then [] else [pc]) [pd])
  | .fcmp _ a b pd _ comb pc =>
    some (regOp [s32 .a a, s32 .b b] [] (if comb = 0 then [] else [pc]) [pd])
  | .sel _ d a b w _ ks => some (regOp [sw w .a a, sw w .b b] [dw w d] [ks] [])
  | .pset _ pd pa pb pc _ pt =>
    some { ev := if pt then .mask else .once, cls := .register, ps := [pa, pb, pc], pd := [pd] }
  | .pmov _ d a dir kp =>
    some (if dir then { ev := .mask, cls := .register, srcs := [s32 .a a], pd := [kp] }
      else { ev := .comb, cls := .register, dsts := [d32 d], ps := [kp] })
  | .vote _ d cond ks _ pd =>
    some { ev := .comb, cls := .register, dsts := [d32 d], ps := [ks], pd := if cond = 0 then [] else [pd] }
  | .shfl _ d a b c _ pd w fill =>
    some { ev := .comb, cls := .register
           srcs := [sw w .a a, s32 .b b] ++ (if fill then [sw w .c c] else []), dsts := [dw w d], pd := [pd] }
  | .redux _ d a _ _ _ _ seg kg =>
    some { ev := .comb, cls := .register, srcs := [s32 .a a], dsts := [if seg then k32 .a d [.vec, .queue] else d32 d], ps := if seg then [kg] else [] }
  | .scan _ d a _ _ _ _ _ seg kg =>
    some { ev := .comb, cls := .register, srcs := [s32 .a a], dsts := [k32 .a d [.vec, .queue]]
           ps := if seg then [kg] else [] }
  | .matchT _ d a w pd _ =>
    some { ev := .comb, cls := .register, srcs := [sw w .a a], dsts := [k32 .a d [.vec, .queue]], pd := [pd] }
  | .fadd _ d a b _ _ _ => some (fpOp [s32 .a a, s32 .b b] [d32 d] [] [])
  | .fsub _ d a b _ _ _ => some (fpOp [s32 .a a, s32 .b b] [d32 d] [] [])
  | .fmul _ d a b _ _ _ => some (fpOp [s32 .a a, s32 .b b] [d32 d] [] [])
  | .ffma _ d a b c _ _ _ => some (fpOp [s32 .a a, s32 .b b, s32 .c c] [d32 d] [] [])
  | .fmin _ d a b _ => some (fpOp [s32 .a a, s32 .b b] [d32 d] [] [])
  | .fmax _ d a b _ => some (fpOp [s32 .a a, s32 .b b] [d32 d] [] [])
  | .fclass _ d a b _ p pd =>
    some (if p then fpOp [s32 .a a, s32 .b b] [] [] [pd] else fpOp [s32 .a a] [d32 d] [] [])
  | .fscale _ d a b _ _ _ => some (fpOp [s32 .a a, s32 .b b] [d32 d] [] [])
  | .frnd _ d a _ _ => some (fpOp [s32 .a a] [d32 d] [] [])
  | .fdot2 _ d a b c _ _ _ => some (fpOp [s32 .a a, s32 .b b, s32 .c c] [d32 d] [] [])
  | .frcp _ d a => some (fpOp [s32 .a a] [d32 d] [] [])
  | .frsq _ d a => some (fpOp [s32 .a a] [d32 d] [] [])
  | .fsqrt _ d a _ _ => some (fpOp [s32 .a a] [d32 d] [] [])
  | .fexp2 _ d a => some (fpOp [s32 .a a] [d32 d] [] [])
  | .flog2 _ d a => some (fpOp [s32 .a a] [d32 d] [] [])
  | .fsinp _ d a => some (fpOp [s32 .a a] [d32 d] [] [])
  | .fcosp _ d a => some (fpOp [s32 .a a] [d32 d] [] [])
  | .cvt _ d a c _ _ _ _ _ => some (fpOp [s32 .a a, s32 .c c] [d32 d] [] [])
  | .cvtef _ d a b c _ _ _ =>
    some (fpOp [s32 .a a, k32 .b b regKinds, s32 .c c] [d32 d, k32 .b b regKinds] [] [])
  | .cvtsr _ d a b c _ _ _ => some (fpOp [s32 .a a, s32 .b b, s32 .c c] [d32 d] [] [])
  | .blkh _ d a =>
    some { ev := .comb, cls := .register, srcs := [vrun .a a 1], dsts := [k32 .a d [.vec, .uni, .queue]], portLong := true }
  | .blkhw _ d a b _ =>
    some { ev := .line, cls := .register, srcs := [vrun .a a 1, k32 .b b uniSrc], dsts := [vrun .a d 1], wide := true }
  | .blkpack _ d a b ty _ _ _ i4 =>
    some { ev := .line, cls := .register, srcs := [vrun .a a (packRegs ty i4), k32 .b b uniSrc]
           dsts := [vrun .a d 1], wide := true, srcRange := true }
  | .blkunp _ d a cnt _ _ =>
    some { ev := .line, cls := .register, srcs := [vrun .a a 1], dsts := [vrun .a d (cnt.toNat + 1)], wide := true }
  | .blkscl _ d a b fit ty _ i4 =>
    some (if fit then
        { ev := .line, cls := .register, srcs := [vrun .a a (packRegs ty i4)]
          dsts := [k32 .a d [.vec, .uni, .queue]], wide := true, portLong := true, srcRange := true }
      else { ev := .line, cls := .register, srcs := [vrun .a a 1, k32 .b b uniSrc], dsts := [vrun .a d 1], wide := true })
  | .ld _ d m ty _ =>
    some (memOp .mask (addrUses m) [⟨.a, d, if isWide ty then 2 else 1, if isWide ty then 2 else 1, [.vec, .zero]⟩])
  | .st _ d m ty _ =>
    some (memOp .mask (dataUses ⟨.a, d, if isWide ty then 2 else 1, if isWide ty then 2 else 1, regOrZero⟩ m) [])
  | .ldu _ d m ty _ =>
    some (memOp .once (addrUni m) [⟨.a, d, if isWide ty then 2 else 1, if isWide ty then 2 else 1, [.uni]⟩])
  | .stu _ d m ty _ =>
    some (memOp .once (dataUni ⟨.a, d, if isWide ty then 2 else 1, if isWide ty then 2 else 1, uniOrZero⟩ m) [])
  | .ldb _ d m _ _ => some (memOp .line (addrUni m) [vrun .a d 1])
  | .stb _ d m _ _ => some { memOp .line (dataUni (vrun .a d 1) m) [] with wide := true }
  | .pref _ m _ => some { memOp .mask (addrUses m) [] with long := false }
  | .cwb _ m => some (memOp .mask (addrUses m) [])
  | .cinv _ m => some (memOp .mask (addrUses m) [])
  | .atom _ d m ty _ _ =>
    let n := if isWide ty then 2 else 1
    some (memOp .mask (dataUses ⟨.a, d, n, n, [.vec]⟩ m) [⟨.a, d, n, n, [.vec]⟩])
  | .red _ d m ty _ _ =>
    let n := if isWide ty then 2 else 1
    some (memOp .mask (dataUses ⟨.a, d, n, n, regOrZero⟩ m) [])
  | .cas _ d m ty _ =>
    let n := if isWide ty then 2 else 1
    some (memOp .mask (dataUses ⟨.a, d, 2 * n, 2 * n, [.vec]⟩ m) [⟨.a, d, n, 2 * n, [.vec]⟩])
  | .fence .. => some (memOp .once [] [])
  | .algld _ d m => some (memOp .once (addrUni m) [k32 .a d uniOrZero])
  | .algrd _ d a => some (memOp .onceAny [k32 .a a uniSrc] [k32 .a d regKinds])
  | .algclr _ => some (memOp .once [] [])
  | .bari _ a _ _ => some (sysOnce [k32 .a a uniSrc] [] true)
  | .bara _ d _ =>
    some { ev := .mask, cls := .stateOrdered, dsts := [k32 .a d regOrZero], long := d != .zero, uniDst := true }
  | .barw _ d _ =>
    some { ev := .mask, cls := .stateOrdered, dsts := [k32 .a d regOrZero], long := true, uniDst := true }
  | .bard .. => some { ev := .mask, cls := .stateOrdered }
  | .barq _ d _ => some { ev := .onceAny, cls := .stateOrdered, dsts := [k32 .a d regKinds], long := true }
  | .watch _ d m ty _ _ =>
    let n := if isWide ty then 4 else 2
    some (sysOnce (dataUni ⟨.a, d, n, n, [.uni]⟩ m) [] true)
  | .doze _ d a _ =>
    some { ev := .mask, cls := .stateOrdered, srcs := [k32 .a a uniSrc], dsts := [k32 .a d regOrZero]
           long := true, uniDst := true }
  | .unwatch .. => some (sysOnce [] [] true)
  | .shrmap _ d cnt _ _ =>
    some { ev := .onceAny, cls := .stateOrdered, dsts := [vrun .a d (cnt.toNat + 1)] }
  | .shrunmap _ d => some { ev := .onceAny, cls := .stateOrdered, dsts := [vrun .a d 1] }
  | .ferd _ d a => some { ev := .mask, cls := .ordered, srcs := [k32 .a a [.vec]], dsts := [d32 d] }
  | .fewr _ d a => some { ev := .mask, cls := .ordered, srcs := [s32 .a a], dsts := [k32 .a d [.vec]] }
  | .qcfg _ d a _ _ => some { sysOnce [k32 .a a uniSrc] [] false with port := some d }
  | .qstat _ d a => some { ev := .onceAny, cls := .stateOrdered, dsts := [k32 .a d regKinds], port := some a }
  | .tokw _ => some { ev := .mask, cls := .stateOrdered }
  | .tokp _ => some (sysOnce [] [] false)
  | .bdecl _ d m _ => some { memOp .once (dataUni (k32 .a d [.uni]) m) [] with long := true }
  | .bset _ d a _ _ _ => some (memOp .once [k32 .a a uniSrc] [k32 .a d uniOrZero])
  | .brel _ a _ => some (memOp .once [k32 .a a uniSrc] [])
  | .bqry _ d a _ => some (memOp .onceAny [k32 .a a uniSrc] [k32 .a d regKinds])
  | .stat _ a _ => some (memOp .once [k32 .a a uniSrc] [])
  | .unstat _ a _ => some (memOp .once [k32 .a a uniSrc] [])
  | .oclaim _ d a _ _ => some (cmdOp [k32 .a a uniSrc] [k32 .a d uniOrZero] false)
  | .orels _ a _ => some (cmdOp [k32 .a a uniSrc] [] false)
  | .oput _ d a b _ _ => some (cmdOp [k32 .a d [.vec, .zero], k32 .b a uniSrc, k32 .c b uniSrc] [] true)
  | .task _ d a _ => some (cmdOp [vrun .a d 1, k32 .b a uniSrc] [] true)
  | .accz _ a _ _ => some (cmdOp [k32 .a a uniSrc] [] false)
  | .accrd _ d a b _ ty _ _ _ cnt =>
    let n := cnt.toNat + 1
    some (cmdOp [k32 .a a uniSrc, k32 .b b uniSrc]
      [if ty = .i64 then ⟨.a, d, 2 * n, 2, [.vec]⟩ else vrun .a d n] false)
  | .accwr _ d a b _ ty cnt =>
    let n := cnt.toNat + 1
    some (cmdOp [if ty = .i64 then ⟨.a, d, 2 * n, 2, [.vec]⟩ else vrun .a d n, k32 .b a uniSrc, k32 .c b uniSrc] [] true)
  | .acccmt _ a _ => some (cmdOp [k32 .a a uniSrc] [] false)
  | .accdsc _ a _ => some (cmdOp [k32 .a a uniSrc] [] false)
  | .twait _ a _ _ => some (cmdOp [k32 .a a uniSrc] [] false)
  | .slay _ d a _ _ => some (cmdOp [vrun .a d 1, k32 .b a uniSrc] [] true)
  | .sfill _ a b .. => some (cmdOp [k32 .a a uniSrc, k32 .b b uniSrc] [] false)
  | .sdrain _ a b .. => some (cmdOp [k32 .a a uniSrc, k32 .b b uniSrc] [] false)
  | .ssig _ a .. => some (cmdOp [k32 .a a uniSrc] [] false)
  | .qfence .. => some (cmdOp [] [] false)
  | .coll _ d _ => some (cmdOp [vrun .a d 1] [] true)
  | .cseq _ d a b _ rd _ =>
    some (if rd then cmdOp [] [k32 .a d uniOrZero] false
      else cmdOp [k32 .a d uniOrZero, ⟨.b, a, 2, 2, uniOrZero⟩, k32 .c b uniSrc] [] false)
  | .ewait _ d a b _ _ => some (cmdOp [k32 .a a uniSrc, k32 .b b uniSrc] [k32 .a d uniOrZero] false)
  | .rand _ d a b =>
    some { ev := .byOps, cls := .register, srcs := [quad .a a regKinds, quad .b b regKinds]
           dsts := [k32 .a d regKinds, quad .b b regKinds], uniDst := Opd.kind d == .vec }
  | .rres _ d a b c _ =>
    some (sysOnce [quad .a a [.uni], quad .b b [.uni], ⟨.c, c, 2, 2, uniOrZero⟩] [k32 .a d uniOrZero] true)
  | .csrr _ d _ => some { ev := .byOps, cls := .plain, dsts := [k32 .a d regKinds] }
  | .csrw _ a _ => some (sysOnce [k32 .a a uniSrc] [] false)
  | .clock _ d _ => some { ev := .byOps, cls := .plain, dsts := [⟨.a, d, 2, 2, regKinds⟩] }
  | .tret _ => some (sysOnce [] [] false)
  | .stoprd _ d a b => some (sysOnce [k32 .a a uniSrc, k32 .b b uniSrc] [k32 .a d uniOrZero] true)
  | .regev _ a b => some (sysOnce [k32 .a a uniSrc, k32 .b b uniSrc] [] false)
  | .haltl .. => some (sysOnce [] [] false)
  | .errlog _ d a _ => some (sysOnce [k32 .a a uniSrc] [k32 .a d uniOrZero] true)
  | .stest _ d a => some (sysOnce [k32 .a a uniSrc] [k32 .a d uniOrZero] true)
  | .tlbinv _ a _ va => some (sysOnce (if va then [⟨.a, a, 2, 2, uniOrZero⟩] else []) [] true)
  | _ => none

/-- The header of a lane instruction. -/
def Instr.hdr? : Instr → Option Hdr
  | .nop h | .bra h .. | .brx h .. | .call h .. | .callx h .. | .ret h | .bpend h .. | .exit h | .yield h | .idem h
  | .trap h .. | .brk h .. | .mode h .. | .join h .. | .leave h .. | .launch h .. | .nap h .. => some h
  | .iadd h .. | .isub h .. | .iaddc h .. | .isubb h .. | .imul h .. | .imulh h .. | .imad h .. | .imadw h ..
  | .imin h .. | .imax h .. | .iabs h .. | .ineg h .. | .lea h .. | .iadd64 h .. | .isad h .. | .idot4 h ..
  | .ireq h .. | .mov h .. | .movi h .. | .movx h .. | .movxw h .. => some h
  | .and h .. | .or h .. | .xor h .. | .not h .. | .andn h .. | .shl h .. | .shr h .. | .sar h .. | .rol h ..
  | .fshl h .. | .bfe h .. | .bfi h .. | .popc h .. | .clz h .. | .ctz h .. | .brev h .. | .prmt h .. | .lop3 h .. => some h
  | .icmp h .. | .fcmp h .. | .sel h .. | .pset h .. | .pmov h .. | .vote h .. | .shfl h .. | .redux h ..
  | .scan h .. | .matchT h .. => some h
  | .fadd h .. | .fsub h .. | .fmul h .. | .ffma h .. | .fmin h .. | .fmax h .. | .fclass h .. | .fscale h ..
  | .frnd h .. | .fdot2 h .. => some h
  | .frcp h .. | .frsq h .. | .fsqrt h .. | .fexp2 h .. | .flog2 h .. | .fsinp h .. | .fcosp h .. | .cvt h ..
  | .cvtef h .. | .cvtsr h .. => some h
  | .blkh h .. | .blkhw h .. | .blkpack h .. | .blkunp h .. | .blkscl h .. => some h
  | .ld h .. | .st h .. | .ldu h .. | .stu h .. | .ldb h .. | .stb h .. | .pref h .. | .cwb h .. | .cinv h .. => some h
  | .atom h .. | .red h .. | .cas h .. | .fence h .. | .algld h .. | .algrd h .. | .algclr h => some h
  | .bari h .. | .bara h .. | .barw h .. | .bard h .. | .barq h .. | .watch h .. | .doze h .. | .unwatch h ..
  | .shrmap h .. | .shrunmap h .. | .ferd h .. | .fewr h .. | .qcfg h .. | .qstat h .. | .tokw h | .tokp h => some h
  | .bdecl h .. | .bset h .. | .brel h .. | .bqry h .. | .stat h .. | .unstat h .. => some h
  | .oclaim h .. | .orels h .. | .oput h .. | .task h .. | .accz h .. | .accrd h .. | .accwr h .. | .acccmt h ..
  | .accdsc h .. | .twait h .. => some h
  | .slay h .. | .sfill h .. | .sdrain h .. | .ssig h .. | .qfence h .. | .coll h .. | .cseq h .. | .ewait h .. => some h
  | .rand h .. | .rres h .. | .csrr h .. | .csrw h .. | .clock h .. => some h
  | .tret h | .stoprd h .. | .regev h .. | .haltl h .. | .errlog h .. | .stest h .. | .tlbinv h .. => some h
  | _ => none

/-- Group 0xE, the privileged instructions (07 R188). -/
def Instr.privileged : Instr → Bool
  | .tret _ | .stoprd .. | .regev .. | .haltl .. | .errlog .. | .stest .. | .tlbinv .. => true
  | _ => false

/-! ## Which encodings are illegal (04 R96 rows 3 and 4) -/

/-- An operand code is accepted in its field (01 R20, R21; 05 R108). -/
def Use.ok (u : Use) : Bool :=
  u.kinds.contains (Opd.kind u.o) &&
  (match u.o with
    | .v i => i.val % u.al == 0
    | .u i => i.val % u.al == 0 && decide (i.val + u.n ≤ 48)
    | .zero | .vpc => true
    | _ => u.n == 1)

/-- A per-thread operand: a vector register or a special operand of the thread (01 R15). -/
def Opd.perThread (o : Opd) : Bool := Opd.kind o == .vec || Opd.kind o == .perThread

def Shape.operands (sh : Shape) : List Opd :=
  (sh.srcs ++ sh.dsts).map (fun u => u.o) ++ sh.window.toList

/-- How an instruction is evaluated, by its operands where its description does not say (01 R15). -/
def Shape.eval (sh : Shape) : Eval :=
  match sh.ev with
  | .byOps => if sh.operands.any Opd.perThread then .mask else .once
  | e => e

/-- The two illegal combinations of 01 R15. -/
def Shape.r15 (sh : Shape) : Bool :=
  match sh.eval with
  | .mask => sh.uniDst || !((sh.dsts.map (fun u => u.o) ++ sh.window.toList).any (fun o => Opd.kind o == .uni))
      || (sh.window.isSome && !sh.dsts.isEmpty && !(sh.dsts.any (fun u => Opd.kind u.o == .uni)))
  | .once => !(sh.operands.any Opd.perThread)
  | _ => true

/-- How many lane cycles an instruction with `n` active threads occupies (01 R14, 05 R130, 06 R150). -/
def Shape.cycles (sh : Shape) (n : Nat) : Nat :=
  match sh.eval with
  | .mask => max n 1
  | .comb => if n = 0 then 1 else n + 1
  | _ => if sh.wide && n ≠ 0 then 17 else 1

/-- Uniform-class, naming no queue port and reading and writing no vector register: it may be the second instruction of a pair
(04 R87). SHRMAP and SHRUNMAP name the vector registers of a range and neither read nor write them (01 R34, 07 R159). -/
def Shape.uniformClass (sh : Shape) : Bool :=
  (sh.eval == .once || sh.eval == .onceAny) && !sh.wide && sh.port.isNone &&
  !(sh.operands.any (fun o => Opd.kind o == .queue)) &&
  ((sh.dsts.all (fun u => u.kinds == [.vec]) && sh.cls == .stateOrdered) || !(sh.operands.any Opd.perThread))

/-- SETF is 0-11 or none by its type; PRED is not k0 negated (04 R89). -/
def Hdr.ok (h : Hdr) : Bool := !(h.neg && h.pred == 0)

def mmOk (ld : Bool) (mm : MemMod) : Bool :=
  mm.ord != 3 && mm.cp != 3 && (if ld then mm.ord != 2 else mm.ord != 1 && !mm.free) &&
  !(mm.free && (mm.ord == 1 || (mm.scope != .dflt && mm.scope != .thread)))

def scOk (m : Addr) : Bool := !(m.idx == .zero && m.sc != 0)

def tyInt (ty : Ty) : Bool := ty == .i32 || ty == .n32
def tyFp (ty : Ty) : Bool := ty == .f32 || ty == .f16x2 || ty == .bf16x2
def tyLdst (ty : Ty) : Bool := ty != .q4x
def tyBlk (ty : Ty) : Bool :=
  ty == .i32 || ty == .q4x || ty == .e4m3 || ty == .e5m2 || ty == .i8 || ty == .bf16x2 || ty == .n8
def tyWord (ty : Ty) : Bool := ty == .i32 || ty == .n32 || ty == .i64 || ty == .n64
def tyNarrow (ty : Ty) : Bool := ty == .e4m3 || ty == .e5m2 || ty == .f16x2 || ty == .bf16x2

/-- POS stays inside a word of elements of the narrower width (06 R147, R148). -/
def posOk (w : Nat) (pos : BitVec 2) : Bool := decide (pos.toNat < 32 / w)

/-- The operator table of 08 R201. -/
def opcOk (atom : Bool) (opc : BitVec 4) (ty : Ty) : Bool :=
  match opc.toNat with
  | 0 => atom && (tyWord ty || ty == .f32)
  | 1 => !atom && (tyWord ty || ty == .f32)
  | 2 | 3 | 4 | 5 => tyWord ty
  | 6 | 7 => ty == .i32 || ty == .i64
  | 8 | 9 => ty == .n32 || ty == .n64
  | 10 | 11 | 12 | 13 => ty == .f32
  | 14 => atom && (tyWord ty || ty == .f32)
  | _ => false

/-- The type and rounding columns of the fold table (05 R133). -/
def foldOk (op : BitVec 4) (ty : Ty) (rm : Rm) (sat : Bool) : Bool :=
  match op.toNat with
  | 0 => tyInt ty && rm == .rne
  | 1 | 2 => tyInt ty && !sat && rm == .rne
  | 3 | 4 | 5 => ty == .i32 && !sat && rm == .rne
  | 6 => ty == .f32 && !sat
  | 7 | 8 => ty == .f32 && !sat && rm == .rne
  | _ => false

def Opd.isVec (o : Opd) : Bool := Opd.kind o == .vec
def Opd.isUni (o : Opd) : Bool := Opd.kind o == .uni

/-- The register number of a vector or uniform operand. -/
def Opd.num : Opd → Nat
  | .v i => i.val
  | .u i => i.val
  | _ => 0

/-- The limits that each description adds to the codes its fields accept (04 R96 row 4). -/
def Instr.limits : Instr → Bool
  | .mode _ _ sel imm =>
    let q := (imm.extractLsb' 8 6).toNat
    let dr := (imm.extractLsb' 16 3).toNat
    let allowed : Word :=
      (if sel.getLsbD 0 then 0x8000#32 else 0#32) ||| (if sel.getLsbD 1 then 0x4000#32 else 0#32) |||
      (if sel.getLsbD 2 then 0x3F00#32 else 0#32) ||| (if sel.getLsbD 3 then 0x70000#32 else 0#32) |||
      (if sel.getLsbD 4 then 0x80000#32 else 0#32)
    (imm &&& ~~~allowed) == 0 && !(sel.getLsbD 2 && (q == 0 || 33 ≤ q)) && !(sel.getLsbD 3 && 4 ≤ dr)
  | .bpend _ _ _ test _ fmask =>
    (match test with
      | .v _ | .u _ => true
      | .zero => fmask != 0
      | _ => false)
  | .iadd _ _ _ _ ty _ | .isub _ _ _ _ ty _ | .imul _ _ _ _ ty _ | .imad _ _ _ _ _ ty _ => tyInt ty
  | .imulh _ _ _ _ ty | .imin _ _ _ _ ty | .imax _ _ _ _ ty | .imadw _ _ _ _ _ ty => tyInt ty
  | .iaddc _ _ _ _ ci cip _ | .isubb _ _ _ _ ci cip _ => ci || cip == 0
  | .lea _ _ m => scOk m
  | .isad _ _ _ _ _ ty => tyInt ty || ty == .i8 || ty == .n8
  | .idot4 _ _ _ _ _ ty _ _ => ty == .i8 || ty == .n8
  | .ireq _ _ _ _ ty _ _ _ _ => ty == .i8 || ty == .i16 || ty == .i32 || ty == .n8 || ty == .n16 || ty == .n32
  | .movi _ _ _ form => form != 3
  | .movx _ d a _ wr => let base := if wr then d else a; Opd.isVec base || Opd.isUni base
  | .movxw _ d a _ wr =>
    let base := if wr then d else a
    (Opd.isVec base || Opd.isUni base) && Opd.num base % 2 == 0
  | .bfe _ _ _ _ ty => tyInt ty
  | .lop3 _ _ _ _ _ _ ze pz => ze || pz == 0
  | .icmp _ _ _ ty _ cmp comb pc => tyWord ty && cmp != .un && cmp != .ord && (comb != 0 || pc == 0)
  | .fcmp _ _ _ _ _ comb pc => comb != 0 || pc == 0
  | .pmov _ d a dir _ => if dir then d == .zero else a == .zero
  | .vote _ d cond _ _ pd => decide (cond.toNat ≤ 5) && (cond != 0 || (pd == 0 && d != .zero))
  | .shfl _ _ _ _ c _ _ _ fill => fill || c == .zero
  | .redux _ d _ ty rm sat op seg kg => foldOk op ty rm sat && (seg || kg == 0) && !(seg && Opd.isUni d)
  | .scan _ _ _ ty rm sat op _ seg kg => foldOk op ty rm sat && (seg || kg == 0)
  | .fadd _ _ _ _ ty _ _ | .fsub _ _ _ _ ty _ _ | .fmul _ _ _ _ ty _ _ | .ffma _ _ _ _ _ ty _ _ => tyFp ty
  | .fmin _ _ _ _ ty | .fmax _ _ _ _ ty => tyFp ty
  | .fclass _ d _ b ty p pd =>
    tyFp ty && (if p then ty == .f32 && d == .zero else b == .zero && pd == 0)
  | .fscale _ _ _ _ ty _ _ | .frnd _ _ _ ty _ => tyFp ty
  | .fdot2 _ _ _ _ _ ty _ _ => ty == .f16x2 || ty == .bf16x2
  | .cvt _ _ _ c ty sty _ _ pos =>
    let ws := Ty.elemWidth sty
    let wd := Ty.elemWidth ty
    ty != .i64 && ty != .n64 && ty != .q4x && sty != .i64 && sty != .n64 && sty != .q4x && ty != sty &&
    !(Ty.isInt ty && Ty.isInt sty) && decide (pos.toNat < max ws wd / min ws wd) && (decide (wd < ws) || c == .zero)
  | .cvtef _ d _ b _ ty _ pos =>
    tyNarrow ty && posOk (Ty.elemWidth ty) pos && Opd.kind b == Opd.kind d && b != d
  | .cvtsr _ _ _ _ _ ty _ pos => tyNarrow ty && posOk (Ty.elemWidth ty) pos
  | .blkpack _ _ _ _ ty _ _ esc i4 => (pack ty i4).isSome && (!esc || ty == .q4x)
  | .blkscl _ _ _ b fit ty sat i4 =>
    if fit then (pack ty i4).isSome && b == .zero && !sat else ty == .i32 && !i4
  | .ld _ _ m ty mm | .ldu _ _ m ty mm => scOk m && tyLdst ty && mmOk true mm
  | .st _ _ m ty mm | .stu _ _ m ty mm => scOk m && tyLdst ty && mmOk false mm
  | .ldb _ _ m ty mm => scOk m && tyBlk ty && mmOk true mm
  | .stb _ _ m ty mm => scOk m && tyBlk ty && mmOk false mm
  | .pref _ m _ | .cwb _ m | .cinv _ m | .algld _ _ m => scOk m
  | .atom _ _ m ty opc _ => scOk m && opcOk true opc ty
  | .red _ _ m ty opc am => scOk m && opcOk false opc ty && (am.ord == 0 || am.ord == 2)
  | .cas _ _ m ty _ => scOk m && (tyWord ty || ty == .f32)
  | .fence _ _ scope => scope != .dflt
  | .watch _ _ m ty _ _ => scOk m && tyWord ty
  | .doze _ _ _ sel | .unwatch _ sel => sel != 0
  | .qcfg _ d a qn unb => Opd.kind d == .queue && (!unb || (qn == 0 && a == .zero))
  | .qstat _ _ a => Opd.kind a == .queue
  | .bdecl _ _ m _ => scOk m
  | .bset _ d _ _ _ try_ => if try_ then Opd.isUni d else d == .zero
  | .oclaim _ d _ _ try_ => if try_ then Opd.isUni d else d == .zero
  | .oput _ d _ _ _ sealed => sealed || d != .zero
  | .accz _ _ _ kind => kind != 3
  | .accrd _ _ _ _ _ ty rm sat _ _ =>
    (ty == .f32 || ty == .i32 || ty == .i64) && (ty != .i64 || (rm == .rne && !sat))
  | .accwr _ _ _ _ _ ty _ => ty == .f32 || ty == .i32 || ty == .i64
  | .twait _ _ acc all => !all || acc == 0
  | .sfill _ _ _ _ _ _ slots first cnt =>
    decide (first.toNat + cnt.toNat + 1 ≤ if slots then 16 else 64)
  | .sdrain _ _ _ _ _ _ first cnt => decide (first.toNat + cnt.toNat + 1 ≤ 64)
  | .qfence _ tq se cq => tq || se || cq != 0
  | .cseq _ _ a b _ rd dty => !rd || (a == .zero && b == .zero && !dty)
  | .ewait _ _ a b kind res =>
    match kind.toNat with
    | 0 | 1 => b == .zero && (res &&& 0x1F#8) == 0
    | 2 => a == .zero && b == .zero && (res &&& 0xFC#8) == 0
    | _ => a == .zero
  | .rand _ d _ b => !(Opd.kind d == Opd.kind b && Opd.num b ≤ Opd.num d && Opd.num d ≤ Opd.num b + 3)
  | .errlog _ d a pop => !pop || (d == .zero && a == .zero)
  | .tlbinv _ a _ va => va || a == .zero
  | _ => true

/-- Every check of 04 R96 rows 3 and 4 on an instruction. -/
def Instr.legal (i : Instr) : Bool :=
  match shape i, Instr.hdr? i with
  | some sh, some h =>
    Hdr.ok h && (sh.srcs ++ sh.dsts).all Use.ok && sh.r15 && Instr.limits i
  | _, _ => true

end Sys2Proof.Machine
end

