-- ==== Sys2Proof/WellFormed.lean ====
section
/-! DEFINITION. Which instructions are well formed: the checks of 04 R96 rows 3 and 4 (Machine/Shape.lean). -/

namespace Sys2Proof

/-- An instruction that no encoding rule refuses. The steps that are no lane instruction have no encoding and are always
well formed. -/
def Instr.wf (i : Instr) : Bool := Machine.Instr.legal i

end Sys2Proof
end

