-- ==== Sys2Proof/Decode.lean ====
section
/-! DEFINITION. From the 96 bits of a slot to an instruction, and back (04 R79, R89-R94; 09 R214). The decoder is total and
refuses by name. -/

namespace Sys2Proof

/-- Why a slot is no instruction: all are the illegal instruction of 04 R96, in its order. -/
inductive Reject where
  /-- Row 1: the opcode is no instruction. -/
  | opcode
  /-- Row 3: SETF is 12-14. -/
  | setf
  /-- Row 3: PRED is k0 negated. -/
  | pred
  /-- Row 4: an operand field holds 0xF7. -/
  | operandCode
  /-- Row 4: TY is 14 or 15. -/
  | typeCode
  /-- Row 4: RM is 5-7. -/
  | rounding
  /-- Row 4: a bit, field or operand that the description does not assign is not at its fixed value. -/
  | unassigned
  /-- Row 4: an operand or value that the instruction does not accept, or a breach of R15 or R21. -/
  | notAccepted
  deriving DecidableEq, Repr

namespace Decode

/-! ## Codes of the small fields -/

/-- Operand codes (01 R20). -/
def opdOf (c : BitVec 8) : Except Reject Opd :=
  if h : c.toNat < 192 then .ok (.v ⟨c.toNat, h⟩)
  else if h : c.toNat - 192 < 48 then .ok (.u ⟨c.toNat - 192, h⟩)
  else match c.toNat with
    | 0xF0 => .ok .zero
    | 0xF1 => .ok .tix
    | 0xF2 => .ok .gix
    | 0xF3 => .ok .sid
    | 0xF4 => .ok .vpc
    | 0xF5 => .ok .bid
    | 0xF6 => .ok .tile
    | 0xF8 => .ok (.qp 0)
    | 0xF9 => .ok (.qp 1)
    | 0xFA => .ok (.qp 2)
    | 0xFB => .ok (.qp 3)
    | 0xFC => .ok (.qp 4)
    | 0xFD => .ok (.qp 5)
    | 0xFE => .ok (.qp 6)
    | 0xFF => .ok (.qp 7)
    | _ => .error .operandCode

def opdCode : Opd → BitVec 8
  | .v n => BitVec.ofNat 8 n.val
  | .u n => BitVec.ofNat 8 (192 + n.val)
  | .zero => 0xF0#8
  | .tix => 0xF1#8
  | .gix => 0xF2#8
  | .sid => 0xF3#8
  | .vpc => 0xF4#8
  | .bid => 0xF5#8
  | .tile => 0xF6#8
  | .qp n => BitVec.ofNat 8 (0xF8 + n.val)

/-- Type codes (04 R92). -/
def tyOf (c : BitVec 4) : Except Reject Ty :=
  match c.toNat with
  | 0 => .ok .i32 | 1 => .ok .i8 | 2 => .ok .i16 | 3 => .ok .i64
  | 4 => .ok .n32 | 5 => .ok .n8 | 6 => .ok .n16 | 7 => .ok .n64
  | 8 => .ok .f32 | 9 => .ok .f16x2 | 10 => .ok .bf16x2 | 11 => .ok .e4m3
  | 12 => .ok .e5m2 | 13 => .ok .q4x | _ => .error .typeCode

def tyCode : Ty → BitVec 4
  | .i32 => 0#4 | .i8 => 1#4 | .i16 => 2#4 | .i64 => 3#4 | .n32 => 4#4 | .n8 => 5#4 | .n16 => 6#4 | .n64 => 7#4
  | .f32 => 8#4 | .f16x2 => 9#4 | .bf16x2 => 10#4 | .e4m3 => 11#4 | .e5m2 => 12#4 | .q4x => 13#4

/-- Rounding codes (03 R73). -/
def rmOf (c : BitVec 3) : Except Reject Rm :=
  match c.toNat with
  | 0 => .ok .rne | 1 => .ok .rz | 2 => .ok .rd | 3 => .ok .ru | 4 => .ok .dyn | _ => .error .rounding

def rmCode : Rm → BitVec 3
  | .rne => 0#3 | .rz => 1#3 | .rd => 2#3 | .ru => 3#3 | .dyn => 4#3

/-- Comparison codes (05 R126). -/
def cmpOf (c : BitVec 3) : Cmp :=
  match c.toNat with
  | 0 => .eq | 1 => .ne | 2 => .lt | 3 => .le | 4 => .gt | 5 => .ge | 6 => .un | _ => .ord

def cmpCode : Cmp → BitVec 3
  | .eq => 0#3 | .ne => 1#3 | .lt => 2#3 | .le => 3#3 | .gt => 4#3 | .ge => 5#3 | .un => 6#3 | .ord => 7#3

/-- Scope codes (08 R194). -/
def scopeOf (c : BitVec 3) : Scope :=
  match c.toNat with
  | 0 => .dflt | 1 => .thread | 2 => .strand | 3 => .band | 4 => .tile | 5 => .pkg | 6 => .dom | _ => .sys

def scopeCode : Scope → BitVec 3
  | .dflt => 0#3 | .thread => 1#3 | .strand => 2#3 | .band => 3#3 | .tile => 4#3 | .pkg => 5#3 | .dom => 6#3 | .sys => 7#3

def bit (b : Bool) : BitVec 1 := BitVec.ofBool b

/-- MOD [7:0] of loads and stores (08 R194). -/
def mmCode (mm : MemMod) : BitVec 8 := mm.ord ++ scopeCode mm.scope ++ mm.cp ++ bit mm.free

/-! ## Body formats (04 R90, 09 R214) -/

inductive Format where
  | a | i | m | b | t
  deriving DecidableEq, Repr

structure ViewA where
  d : Opd
  a : Opd
  b : Opd
  c : Opd
  ty : Ty
  rm : Rm
  sat : Bool
  own : BitVec 22
  deriving DecidableEq, Repr

structure ViewI where
  d : Opd
  a : Opd
  imm : Word
  mod : BitVec 14
  deriving DecidableEq, Repr

structure ViewM where
  d : Opd
  m : Addr
  ty : Ty
  low : BitVec 8
  deriving DecidableEq, Repr

structure ViewB where
  off : BitVec 30
  slot : BitVec 3
  mod : BitVec 29
  deriving DecidableEq, Repr

structure ViewT where
  d : Opd
  a : Opd
  b : Opd
  res : BitVec 8
  ty : Ty
  rm : Rm
  sat : Bool
  own : BitVec 22
  deriving DecidableEq, Repr

inductive View where
  | a (v : ViewA)
  | i (v : ViewI)
  | m (v : ViewM)
  | b (v : ViewB)
  | t (v : ViewT)
  deriving DecidableEq, Repr

def ViewA.body (v : ViewA) : BitVec 62 :=
  opdCode v.d ++ opdCode v.a ++ opdCode v.b ++ opdCode v.c ++ tyCode v.ty ++ rmCode v.rm ++ bit v.sat ++ v.own
def ViewI.body (v : ViewI) : BitVec 62 := opdCode v.d ++ opdCode v.a ++ v.imm ++ v.mod
def ViewM.body (v : ViewM) : BitVec 62 :=
  opdCode v.d ++ opdCode v.m.base ++ opdCode v.m.idx ++ v.m.off ++ v.m.sc ++ tyCode v.ty ++ v.low
def ViewB.body (v : ViewB) : BitVec 62 := v.off ++ v.slot ++ v.mod
def ViewT.body (v : ViewT) : BitVec 62 :=
  opdCode v.d ++ opdCode v.a ++ opdCode v.b ++ v.res ++ tyCode v.ty ++ rmCode v.rm ++ bit v.sat ++ v.own

def View.body : View → BitVec 62
  | .a v => v.body
  | .i v => v.body
  | .m v => v.body
  | .b v => v.body
  | .t v => v.body

def readA (x : BitVec 62) : Except Reject ViewA := do
  let d ← opdOf (x.extractLsb' 54 8)
  let a ← opdOf (x.extractLsb' 46 8)
  let b ← opdOf (x.extractLsb' 38 8)
  let c ← opdOf (x.extractLsb' 30 8)
  let ty ← tyOf (x.extractLsb' 26 4)
  let rm ← rmOf (x.extractLsb' 23 3)
  return ⟨d, a, b, c, ty, rm, x.getLsbD 22, x.extractLsb' 0 22⟩

def readI (x : BitVec 62) : Except Reject ViewI := do
  let d ← opdOf (x.extractLsb' 54 8)
  let a ← opdOf (x.extractLsb' 46 8)
  return ⟨d, a, x.extractLsb' 14 32, x.extractLsb' 0 14⟩

def readM (x : BitVec 62) : Except Reject ViewM := do
  let d ← opdOf (x.extractLsb' 54 8)
  let base ← opdOf (x.extractLsb' 46 8)
  let idx ← opdOf (x.extractLsb' 38 8)
  let ty ← tyOf (x.extractLsb' 8 4)
  return ⟨d, ⟨base, idx, x.extractLsb' 14 24, x.extractLsb' 12 2⟩, ty, x.extractLsb' 0 8⟩

def readB (x : BitVec 62) : ViewB := ⟨x.extractLsb' 32 30, x.extractLsb' 29 3, x.extractLsb' 0 29⟩

def readT (x : BitVec 62) : Except Reject ViewT := do
  let d ← opdOf (x.extractLsb' 54 8)
  let a ← opdOf (x.extractLsb' 46 8)
  let b ← opdOf (x.extractLsb' 38 8)
  let ty ← tyOf (x.extractLsb' 26 4)
  let rm ← rmOf (x.extractLsb' 23 3)
  return ⟨d, a, b, x.extractLsb' 30 8, ty, rm, x.getLsbD 22, x.extractLsb' 0 22⟩

/-! ## The header (04 R89) -/

def hdrBits (h : Hdr) : BitVec 24 :=
  h.after ++ h.wait ++ (match h.setf with
    | none => 15#4
    | some j => BitVec.ofNat 4 j.val) ++ bit h.neg ++ h.pred

def readHdr (x : BitVec 24) : Except Reject Hdr := do
  let sf := (x.extractLsb' 4 4).toNat
  let setf : Option (Fin 12) ←
    if h : sf < 12 then pure (some ⟨sf, h⟩) else if sf = 15 then pure none else throw .setf
  if x.getLsbD 3 && x.extractLsb' 0 3 == 0 then throw .pred
  return ⟨x.extractLsb' 20 4, x.extractLsb' 8 12, setf, x.getLsbD 3, x.extractLsb' 0 3⟩

/-- A condition on the unassigned fields. -/
def need (b : Bool) : Except Reject Unit := if b then .ok () else .error .unassigned

/-- Format A instructions of group 0x0 (04 R94). -/
def decodeA0 (op : Nat) (h : Hdr) (v : ViewA) : Except Reject Instr :=
  match op with
  | 0x000 => do
    need (v.d == .zero && v.a == .zero && v.b == .zero && v.c == .zero && v.own.extractLsb' 0 22 == 0 && v.ty == .i32 && v.rm == .rne && !v.sat)
    return .nop h
  | 0x002 => do
    need (v.d == .zero && v.b == .zero && v.c == .zero && v.own.extractLsb' 0 22 == 0 && v.ty == .i32 && v.rm == .rne && !v.sat)
    return .brx h v.a
  | 0x004 => do
    need (v.d == .zero && v.b == .zero && v.c == .zero && v.own.extractLsb' 0 22 == 0 && v.ty == .i32 && v.rm == .rne && !v.sat)
    return .callx h v.a
  | 0x005 => do
    need (v.d == .zero && v.a == .zero && v.b == .zero && v.c == .zero && v.own.extractLsb' 0 22 == 0 && v.ty == .i32 && v.rm == .rne && !v.sat)
    return .ret h
  | 0x007 => do
    need (v.d == .zero && v.a == .zero && v.b == .zero && v.c == .zero && v.own.extractLsb' 0 22 == 0 && v.ty == .i32 && v.rm == .rne && !v.sat)
    return .exit h
  | 0x008 => do
    need (v.d == .zero && v.a == .zero && v.b == .zero && v.c == .zero && v.own.extractLsb' 0 22 == 0 && v.ty == .i32 && v.rm == .rne && !v.sat)
    return .yield h
  | 0x009 => do
    need (v.d == .zero && v.a == .zero && v.b == .zero && v.c == .zero && v.own.extractLsb' 0 22 == 0 && v.ty == .i32 && v.rm == .rne && !v.sat)
    return .idem h
  | 0x00D => do
    need (v.a == .zero && v.b == .zero && v.c == .zero && v.own.extractLsb' 0 18 == 0 && v.ty == .i32 && v.rm == .rne && !v.sat)
    let key := v.own.extractLsb' 18 4
    return .join h v.d key
  | 0x00E => do
    need (v.d == .zero && v.a == .zero && v.b == .zero && v.c == .zero && v.own.extractLsb' 0 18 == 0 && v.ty == .i32 && v.rm == .rne && !v.sat)
    let key := v.own.extractLsb' 18 4
    return .leave h key
  | 0x00F => do
    need (v.c == .zero && v.own.extractLsb' 0 22 == 0 && v.ty == .i32 && v.rm == .rne && !v.sat)
    return .launch h v.d v.a v.b
  | _ => .error .opcode

/-- Format A instructions of group 0x1 (04 R94). -/
def decodeA1 (op : Nat) (h : Hdr) (v : ViewA) : Except Reject Instr :=
  match op with
  | 0x040 => do
    need (v.c == .zero && v.own.extractLsb' 0 22 == 0 && v.rm == .rne)
    return .iadd h v.d v.a v.b v.ty v.sat
  | 0x041 => do
    need (v.c == .zero && v.own.extractLsb' 0 22 == 0 && v.rm == .rne)
    return .isub h v.d v.a v.b v.ty v.sat
  | 0x042 => do
    need (v.c == .zero && v.own.extractLsb' 0 15 == 0 && v.ty == .i32 && v.rm == .rne && !v.sat)
    let ci := v.own.getLsbD 21
    let cip := v.own.extractLsb' 18 3
    let cop := v.own.extractLsb' 15 3
    return .iaddc h v.d v.a v.b ci cip cop
  | 0x043 => do
    need (v.c == .zero && v.own.extractLsb' 0 15 == 0 && v.ty == .i32 && v.rm == .rne && !v.sat)
    let ci := v.own.getLsbD 21
    let cip := v.own.extractLsb' 18 3
    let cop := v.own.extractLsb' 15 3
    return .isubb h v.d v.a v.b ci cip cop
  | 0x044 => do
    need (v.c == .zero && v.own.extractLsb' 0 22 == 0 && v.rm == .rne)
    return .imul h v.d v.a v.b v.ty v.sat
  | 0x045 => do
    need (v.c == .zero && v.own.extractLsb' 0 22 == 0 && v.rm == .rne && !v.sat)
    return .imulh h v.d v.a v.b v.ty
  | 0x046 => do
    need (v.own.extractLsb' 0 22 == 0 && v.rm == .rne)
    return .imad h v.d v.a v.b v.c v.ty v.sat
  | 0x047 => do
    need (v.own.extractLsb' 0 22 == 0 && v.rm == .rne && !v.sat)
    return .imadw h v.d v.a v.b v.c v.ty
  | 0x048 => do
    need (v.c == .zero && v.own.extractLsb' 0 22 == 0 && v.rm == .rne && !v.sat)
    return .imin h v.d v.a v.b v.ty
  | 0x049 => do
    need (v.c == .zero && v.own.extractLsb' 0 22 == 0 && v.rm == .rne && !v.sat)
    return .imax h v.d v.a v.b v.ty
  | 0x04A => do
    need (v.b == .zero && v.c == .zero && v.own.extractLsb' 0 22 == 0 && v.ty == .i32 && v.rm == .rne)
    return .iabs h v.d v.a v.sat
  | 0x04B => do
    need (v.b == .zero && v.c == .zero && v.own.extractLsb' 0 22 == 0 && v.ty == .i32 && v.rm == .rne)
    return .ineg h v.d v.a v.sat
  | 0x04D => do
    need (v.c == .zero && v.own.extractLsb' 0 21 == 0 && v.ty == .i32 && v.rm == .rne && !v.sat)
    let bx := v.own.getLsbD 21
    return .iadd64 h v.d v.a v.b bx
  | 0x04E => do
    need (v.own.extractLsb' 0 22 == 0 && v.rm == .rne && !v.sat)
    return .isad h v.d v.a v.b v.c v.ty
  | 0x04F => do
    need (v.own.extractLsb' 0 21 == 0 && v.rm == .rne)
    let mix := v.own.getLsbD 21
    return .idot4 h v.d v.a v.b v.c v.ty mix v.sat
  | 0x050 => do
    need (v.c == .zero && v.own.extractLsb' 0 20 == 0)
    let wide := v.own.getLsbD 21
    let an := v.own.getLsbD 20
    return .ireq h v.d v.a v.b v.ty v.rm v.sat wide an
  | 0x051 => do
    need (v.b == .zero && v.c == .zero && v.own.extractLsb' 0 21 == 0 && v.ty == .i32 && v.rm == .rne && !v.sat)
    let w := v.own.getLsbD 21
    return .mov h v.d v.a w
  | 0x053 => do
    need (v.c == .zero && v.own.extractLsb' 0 21 == 0 && v.ty == .i32 && v.rm == .rne && !v.sat)
    let wr := v.own.getLsbD 21
    return .movx h v.d v.a v.b wr
  | 0x054 => do
    need (v.c == .zero && v.own.extractLsb' 0 21 == 0 && v.ty == .i32 && v.rm == .rne && !v.sat)
    let wr := v.own.getLsbD 21
    return .movxw h v.d v.a v.b wr
  | _ => .error .opcode

/-- Format A instructions of group 0x2 (04 R94). -/
def decodeA2 (op : Nat) (h : Hdr) (v : ViewA) : Except Reject Instr :=
  match op with
  | 0x080 => do
    need (v.c == .zero && v.own.extractLsb' 0 22 == 0 && v.ty == .i32 && v.rm == .rne && !v.sat)
    return .and h v.d v.a v.b
  | 0x081 => do
    need (v.c == .zero && v.own.extractLsb' 0 22 == 0 && v.ty == .i32 && v.rm == .rne && !v.sat)
    return .or h v.d v.a v.b
  | 0x082 => do
    need (v.c == .zero && v.own.extractLsb' 0 22 == 0 && v.ty == .i32 && v.rm == .rne && !v.sat)
    return .xor h v.d v.a v.b
  | 0x083 => do
    need (v.b == .zero && v.c == .zero && v.own.extractLsb' 0 22 == 0 && v.ty == .i32 && v.rm == .rne && !v.sat)
    return .not h v.d v.a
  | 0x084 => do
    need (v.c == .zero && v.own.extractLsb' 0 22 == 0 && v.ty == .i32 && v.rm == .rne && !v.sat)
    return .andn h v.d v.a v.b
  | 0x085 => do
    need (v.c == .zero && v.own.extractLsb' 0 21 == 0 && v.ty == .i32 && v.rm == .rne && !v.sat)
    let wrap := v.own.getLsbD 21
    return .shl h v.d v.a v.b wrap
  | 0x086 => do
    need (v.c == .zero && v.own.extractLsb' 0 21 == 0 && v.ty == .i32 && v.rm == .rne && !v.sat)
    let wrap := v.own.getLsbD 21
    return .shr h v.d v.a v.b wrap
  | 0x087 => do
    need (v.c == .zero && v.own.extractLsb' 0 21 == 0 && v.ty == .i32 && v.rm == .rne && !v.sat)
    let wrap := v.own.getLsbD 21
    return .sar h v.d v.a v.b wrap
  | 0x088 => do
    need (v.c == .zero && v.own.extractLsb' 0 22 == 0 && v.ty == .i32 && v.rm == .rne && !v.sat)
    return .rol h v.d v.a v.b
  | 0x089 => do
    need (v.own.extractLsb' 0 21 == 0 && v.ty == .i32 && v.rm == .rne && !v.sat)
    let wrap := v.own.getLsbD 21
    return .fshl h v.d v.a v.b v.c wrap
  | 0x08A => do
    need (v.c == .zero && v.own.extractLsb' 0 22 == 0 && v.rm == .rne && !v.sat)
    return .bfe h v.d v.a v.b v.ty
  | 0x08B => do
    need (v.own.extractLsb' 0 22 == 0 && v.ty == .i32 && v.rm == .rne && !v.sat)
    return .bfi h v.d v.a v.b v.c
  | 0x08C => do
    need (v.b == .zero && v.c == .zero && v.own.extractLsb' 0 21 == 0 && v.ty == .i32 && v.rm == .rne && !v.sat)
    let w := v.own.getLsbD 21
    return .popc h v.d v.a w
  | 0x08D => do
    need (v.b == .zero && v.c == .zero && v.own.extractLsb' 0 21 == 0 && v.ty == .i32 && v.rm == .rne && !v.sat)
    let w := v.own.getLsbD 21
    return .clz h v.d v.a w
  | 0x08E => do
    need (v.b == .zero && v.c == .zero && v.own.extractLsb' 0 21 == 0 && v.ty == .i32 && v.rm == .rne && !v.sat)
    let w := v.own.getLsbD 21
    return .ctz h v.d v.a w
  | 0x08F => do
    need (v.b == .zero && v.c == .zero && v.own.extractLsb' 0 22 == 0 && v.ty == .i32 && v.rm == .rne && !v.sat)
    return .brev h v.d v.a
  | 0x090 => do
    need (v.own.extractLsb' 0 22 == 0 && v.ty == .i32 && v.rm == .rne && !v.sat)
    return .prmt h v.d v.a v.b v.c
  | 0x091 => do
    need (v.own.extractLsb' 0 10 == 0 && v.ty == .i32 && v.rm == .rne && !v.sat)
    let fn := v.own.extractLsb' 14 8
    let ze := v.own.getLsbD 13
    let pz := v.own.extractLsb' 10 3
    return .lop3 h v.d v.a v.b v.c fn ze pz
  | _ => .error .opcode

/-- Format A instructions of group 0x3 (04 R94). -/
def decodeA3 (op : Nat) (h : Hdr) (v : ViewA) : Except Reject Instr :=
  match op with
  | 0x0C0 => do
    need (v.d == .zero && v.c == .zero && v.own.extractLsb' 0 11 == 0 && v.rm == .rne && !v.sat)
    let pd := v.own.extractLsb' 19 3
    let cmp := cmpOf (v.own.extractLsb' 16 3)
    let comb := v.own.extractLsb' 14 2
    let pc := v.own.extractLsb' 11 3
    return .icmp h v.a v.b v.ty pd cmp comb pc
  | 0x0C1 => do
    need (v.d == .zero && v.c == .zero && v.own.extractLsb' 0 11 == 0 && v.ty == .f32 && v.rm == .rne && !v.sat)
    let pd := v.own.extractLsb' 19 3
    let cmp := cmpOf (v.own.extractLsb' 16 3)
    let comb := v.own.extractLsb' 14 2
    let pc := v.own.extractLsb' 11 3
    return .fcmp h v.a v.b pd cmp comb pc
  | 0x0C2 => do
    need (v.c == .zero && v.own.extractLsb' 0 17 == 0 && v.ty == .i32 && v.rm == .rne && !v.sat)
    let w := v.own.getLsbD 21
    let inv := v.own.getLsbD 20
    let ks := v.own.extractLsb' 17 3
    return .sel h v.d v.a v.b w inv ks
  | 0x0C3 => do
    need (v.d == .zero && v.a == .zero && v.b == .zero && v.c == .zero && v.own.extractLsb' 0 1 == 0 && v.ty == .i32 && v.rm == .rne && !v.sat)
    let pd := v.own.extractLsb' 19 3
    let pa := v.own.extractLsb' 16 3
    let pb := v.own.extractLsb' 13 3
    let pc := v.own.extractLsb' 10 3
    let fn := v.own.extractLsb' 2 8
    let pt := v.own.getLsbD 1
    return .pset h pd pa pb pc fn pt
  | 0x0C4 => do
    need (v.b == .zero && v.c == .zero && v.own.extractLsb' 0 18 == 0 && v.ty == .i32 && v.rm == .rne && !v.sat)
    let dir := v.own.getLsbD 21
    let kp := v.own.extractLsb' 18 3
    return .pmov h v.d v.a dir kp
  | 0x0C5 => do
    need (v.a == .zero && v.b == .zero && v.c == .zero && v.own.extractLsb' 0 12 == 0 && v.ty == .i32 && v.rm == .rne && !v.sat)
    let cond := v.own.extractLsb' 19 3
    let ks := v.own.extractLsb' 16 3
    let inv := v.own.getLsbD 15
    let pd := v.own.extractLsb' 12 3
    return .vote h v.d cond ks inv pd
  | 0x0C6 => do
    need (v.own.extractLsb' 0 15 == 0 && v.ty == .i32 && v.rm == .rne && !v.sat)
    let mode := v.own.extractLsb' 20 2
    let pd := v.own.extractLsb' 17 3
    let w := v.own.getLsbD 16
    let fill := v.own.getLsbD 15
    return .shfl h v.d v.a v.b v.c mode pd w fill
  | 0x0C7 => do
    need (v.b == .zero && v.c == .zero && v.own.extractLsb' 17 1 == 0 && v.own.extractLsb' 0 13 == 0)
    let op := v.own.extractLsb' 18 4
    let seg := v.own.getLsbD 16
    let kg := v.own.extractLsb' 13 3
    return .redux h v.d v.a v.ty v.rm v.sat op seg kg
  | 0x0C8 => do
    need (v.b == .zero && v.c == .zero && v.own.extractLsb' 0 13 == 0)
    let op := v.own.extractLsb' 18 4
    let excl := v.own.getLsbD 17
    let seg := v.own.getLsbD 16
    let kg := v.own.extractLsb' 13 3
    return .scan h v.d v.a v.ty v.rm v.sat op excl seg kg
  | 0x0C9 => do
    need (v.b == .zero && v.c == .zero && v.own.extractLsb' 0 17 == 0 && v.ty == .i32 && v.rm == .rne && !v.sat)
    let w := v.own.getLsbD 21
    let pd := v.own.extractLsb' 18 3
    let km := v.own.getLsbD 17
    return .matchT h v.d v.a w pd km
  | _ => .error .opcode

/-- Format A instructions of group 0x4 (04 R94). -/
def decodeA4 (op : Nat) (h : Hdr) (v : ViewA) : Except Reject Instr :=
  match op with
  | 0x100 => do
    need (v.c == .zero && v.own.extractLsb' 0 22 == 0)
    return .fadd h v.d v.a v.b v.ty v.rm v.sat
  | 0x101 => do
    need (v.c == .zero && v.own.extractLsb' 0 22 == 0)
    return .fsub h v.d v.a v.b v.ty v.rm v.sat
  | 0x102 => do
    need (v.c == .zero && v.own.extractLsb' 0 22 == 0)
    return .fmul h v.d v.a v.b v.ty v.rm v.sat
  | 0x103 => do
    need (v.own.extractLsb' 0 22 == 0)
    return .ffma h v.d v.a v.b v.c v.ty v.rm v.sat
  | 0x104 => do
    need (v.c == .zero && v.own.extractLsb' 0 22 == 0 && v.rm == .rne && !v.sat)
    return .fmin h v.d v.a v.b v.ty
  | 0x105 => do
    need (v.c == .zero && v.own.extractLsb' 0 22 == 0 && v.rm == .rne && !v.sat)
    return .fmax h v.d v.a v.b v.ty
  | 0x106 => do
    need (v.c == .zero && v.own.extractLsb' 0 18 == 0 && v.rm == .rne && !v.sat)
    let p := v.own.getLsbD 21
    let pd := v.own.extractLsb' 18 3
    return .fclass h v.d v.a v.b v.ty p pd
  | 0x107 => do
    need (v.c == .zero && v.own.extractLsb' 0 22 == 0)
    return .fscale h v.d v.a v.b v.ty v.rm v.sat
  | 0x108 => do
    need (v.b == .zero && v.c == .zero && v.own.extractLsb' 0 22 == 0 && !v.sat)
    return .frnd h v.d v.a v.ty v.rm
  | 0x109 => do
    need (v.own.extractLsb' 0 22 == 0)
    return .fdot2 h v.d v.a v.b v.c v.ty v.rm v.sat
  | _ => .error .opcode

/-- Format A instructions of group 0x5 (04 R94). -/
def decodeA5 (op : Nat) (h : Hdr) (v : ViewA) : Except Reject Instr :=
  match op with
  | 0x140 => do
    need (v.b == .zero && v.c == .zero && v.own.extractLsb' 0 22 == 0 && v.ty == .f32 && v.rm == .rne && !v.sat)
    return .frcp h v.d v.a
  | 0x141 => do
    need (v.b == .zero && v.c == .zero && v.own.extractLsb' 0 22 == 0 && v.ty == .f32 && v.rm == .rne && !v.sat)
    return .frsq h v.d v.a
  | 0x142 => do
    need (v.b == .zero && v.c == .zero && v.own.extractLsb' 0 22 == 0 && v.ty == .f32)
    return .fsqrt h v.d v.a v.rm v.sat
  | 0x143 => do
    need (v.b == .zero && v.c == .zero && v.own.extractLsb' 0 22 == 0 && v.ty == .f32 && v.rm == .rne && !v.sat)
    return .fexp2 h v.d v.a
  | 0x144 => do
    need (v.b == .zero && v.c == .zero && v.own.extractLsb' 0 22 == 0 && v.ty == .f32 && v.rm == .rne && !v.sat)
    return .flog2 h v.d v.a
  | 0x145 => do
    need (v.b == .zero && v.c == .zero && v.own.extractLsb' 0 22 == 0 && v.ty == .f32 && v.rm == .rne && !v.sat)
    return .fsinp h v.d v.a
  | 0x146 => do
    need (v.b == .zero && v.c == .zero && v.own.extractLsb' 0 22 == 0 && v.ty == .f32 && v.rm == .rne && !v.sat)
    return .fcosp h v.d v.a
  | 0x147 => do
    need (v.b == .zero && v.own.extractLsb' 0 16 == 0)
    let sty ← tyOf (v.own.extractLsb' 18 4)
    let pos := v.own.extractLsb' 16 2
    return .cvt h v.d v.a v.c v.ty sty v.rm v.sat pos
  | 0x148 => do
    need (v.own.extractLsb' 18 4 == 0 && v.own.extractLsb' 0 16 == 0 && v.rm == .rne)
    let pos := v.own.extractLsb' 16 2
    return .cvtef h v.d v.a v.b v.c v.ty v.sat pos
  | 0x149 => do
    need (v.own.extractLsb' 18 4 == 0 && v.own.extractLsb' 0 16 == 0 && v.rm == .rne)
    let pos := v.own.extractLsb' 16 2
    return .cvtsr h v.d v.a v.b v.c v.ty v.sat pos
  | _ => .error .opcode

/-- Format A instructions of group 0x6 (04 R94). -/
def decodeA6 (op : Nat) (h : Hdr) (v : ViewA) : Except Reject Instr :=
  match op with
  | 0x180 => do
    need (v.b == .zero && v.c == .zero && v.own.extractLsb' 0 22 == 0 && v.ty == .i32 && v.rm == .rne && !v.sat)
    return .blkh h v.d v.a
  | 0x181 => do
    need (v.c == .zero && v.own.extractLsb' 0 21 == 0 && v.ty == .i32 && v.rm == .rne && !v.sat)
    let chk := v.own.getLsbD 21
    return .blkhw h v.d v.a v.b chk
  | 0x182 => do
    need (v.c == .zero && v.own.extractLsb' 0 20 == 0)
    let esc := v.own.getLsbD 21
    let i4 := v.own.getLsbD 20
    return .blkpack h v.d v.a v.b v.ty v.rm v.sat esc i4
  | 0x183 => do
    need (v.b == .zero && v.c == .zero && v.own.extractLsb' 0 19 == 0 && v.ty == .i32)
    let cnt := v.own.extractLsb' 19 3
    return .blkunp h v.d v.a cnt v.rm v.sat
  | 0x184 => do
    need (v.c == .zero && v.own.extractLsb' 0 20 == 0 && v.rm == .rne)
    let fit := v.own.getLsbD 21
    let i4 := v.own.getLsbD 20
    return .blkscl h v.d v.a v.b fit v.ty v.sat i4
  | _ => .error .opcode

/-- Format A instructions of group 0x8 (04 R94). -/
def decodeA8 (op : Nat) (h : Hdr) (v : ViewA) : Except Reject Instr :=
  match op with
  | 0x203 => do
    need (v.d == .zero && v.a == .zero && v.b == .zero && v.c == .zero && v.own.extractLsb' 0 17 == 0 && v.ty == .i32 && v.rm == .rne && !v.sat)
    let ord := v.own.extractLsb' 20 2
    let scope := scopeOf (v.own.extractLsb' 17 3)
    return .fence h ord scope
  | 0x205 => do
    need (v.b == .zero && v.c == .zero && v.own.extractLsb' 0 22 == 0 && v.ty == .i32 && v.rm == .rne && !v.sat)
    return .algrd h v.d v.a
  | 0x206 => do
    need (v.d == .zero && v.a == .zero && v.b == .zero && v.c == .zero && v.own.extractLsb' 0 22 == 0 && v.ty == .i32 && v.rm == .rne && !v.sat)
    return .algclr h
  | _ => .error .opcode

/-- Format A instructions of group 0x9 (04 R94). -/
def decodeA9 (op : Nat) (h : Hdr) (v : ViewA) : Except Reject Instr :=
  match op with
  | 0x240 => do
    need (v.d == .zero && v.b == .zero && v.c == .zero && v.own.extractLsb' 0 17 == 0 && v.ty == .i32 && v.rm == .rne && !v.sat)
    let key := v.own.extractLsb' 18 4
    let dom := v.own.getLsbD 17
    return .bari h v.a key dom
  | 0x241 => do
    need (v.a == .zero && v.b == .zero && v.c == .zero && v.own.extractLsb' 0 18 == 0 && v.ty == .i32 && v.rm == .rne && !v.sat)
    let key := v.own.extractLsb' 18 4
    return .bara h v.d key
  | 0x242 => do
    need (v.a == .zero && v.b == .zero && v.c == .zero && v.own.extractLsb' 0 18 == 0 && v.ty == .i32 && v.rm == .rne && !v.sat)
    let key := v.own.extractLsb' 18 4
    return .barw h v.d key
  | 0x243 => do
    need (v.d == .zero && v.a == .zero && v.b == .zero && v.c == .zero && v.own.extractLsb' 0 18 == 0 && v.ty == .i32 && v.rm == .rne && !v.sat)
    let key := v.own.extractLsb' 18 4
    return .bard h key
  | 0x244 => do
    need (v.a == .zero && v.b == .zero && v.c == .zero && v.own.extractLsb' 0 18 == 0 && v.ty == .i32 && v.rm == .rne && !v.sat)
    let key := v.own.extractLsb' 18 4
    return .barq h v.d key
  | 0x246 => do
    need (v.b == .zero && v.c == .zero && v.own.extractLsb' 0 18 == 0 && v.ty == .i32 && v.rm == .rne && !v.sat)
    let sel := v.own.extractLsb' 18 4
    return .doze h v.d v.a sel
  | 0x247 => do
    need (v.d == .zero && v.a == .zero && v.b == .zero && v.c == .zero && v.own.extractLsb' 0 18 == 0 && v.ty == .i32 && v.rm == .rne && !v.sat)
    let sel := v.own.extractLsb' 18 4
    return .unwatch h sel
  | 0x248 => do
    need (v.a == .zero && v.b == .zero && v.c == .zero && v.own.extractLsb' 0 8 == 0 && v.ty == .i32 && v.rm == .rne && !v.sat)
    let cnt := v.own.extractLsb' 16 6
    let key := v.own.extractLsb' 12 4
    let rid := v.own.extractLsb' 8 4
    return .shrmap h v.d cnt key rid
  | 0x249 => do
    need (v.a == .zero && v.b == .zero && v.c == .zero && v.own.extractLsb' 0 22 == 0 && v.ty == .i32 && v.rm == .rne && !v.sat)
    return .shrunmap h v.d
  | 0x24A => do
    need (v.b == .zero && v.c == .zero && v.own.extractLsb' 0 22 == 0 && v.ty == .i32 && v.rm == .rne && !v.sat)
    return .ferd h v.d v.a
  | 0x24B => do
    need (v.b == .zero && v.c == .zero && v.own.extractLsb' 0 22 == 0 && v.ty == .i32 && v.rm == .rne && !v.sat)
    return .fewr h v.d v.a
  | 0x24C => do
    need (v.b == .zero && v.c == .zero && v.own.extractLsb' 0 16 == 0 && v.ty == .i32 && v.rm == .rne && !v.sat)
    let qn := v.own.extractLsb' 17 5
    let unb := v.own.getLsbD 16
    return .qcfg h v.d v.a qn unb
  | 0x24D => do
    need (v.b == .zero && v.c == .zero && v.own.extractLsb' 0 22 == 0 && v.ty == .i32 && v.rm == .rne && !v.sat)
    return .qstat h v.d v.a
  | 0x24E => do
    need (v.d == .zero && v.a == .zero && v.b == .zero && v.c == .zero && v.own.extractLsb' 0 22 == 0 && v.ty == .i32 && v.rm == .rne && !v.sat)
    return .tokw h
  | 0x24F => do
    need (v.d == .zero && v.a == .zero && v.b == .zero && v.c == .zero && v.own.extractLsb' 0 22 == 0 && v.ty == .i32 && v.rm == .rne && !v.sat)
    return .tokp h
  | _ => .error .opcode

/-- Format A instructions of group 0xA (04 R94). -/
def decodeAA (op : Nat) (h : Hdr) (v : ViewA) : Except Reject Instr :=
  match op with
  | 0x281 => do
    need (v.b == .zero && v.c == .zero && v.own.extractLsb' 0 13 == 0 && v.ty == .i32 && v.rm == .rne && !v.sat)
    let buf := v.own.extractLsb' 16 6
    let tmo := v.own.extractLsb' 14 2
    let try_ := v.own.getLsbD 13
    return .bset h v.d v.a buf tmo try_
  | 0x282 => do
    need (v.d == .zero && v.b == .zero && v.c == .zero && v.own.extractLsb' 0 16 == 0 && v.ty == .i32 && v.rm == .rne && !v.sat)
    let buf := v.own.extractLsb' 16 6
    return .brel h v.a buf
  | 0x283 => do
    need (v.b == .zero && v.c == .zero && v.own.extractLsb' 0 16 == 0 && v.ty == .i32 && v.rm == .rne && !v.sat)
    let buf := v.own.extractLsb' 16 6
    return .bqry h v.d v.a buf
  | 0x284 => do
    need (v.d == .zero && v.b == .zero && v.c == .zero && v.own.extractLsb' 0 16 == 0 && v.ty == .i32 && v.rm == .rne && !v.sat)
    let buf := v.own.extractLsb' 16 6
    return .stat h v.a buf
  | 0x285 => do
    need (v.d == .zero && v.b == .zero && v.c == .zero && v.own.extractLsb' 0 16 == 0 && v.ty == .i32 && v.rm == .rne && !v.sat)
    let buf := v.own.extractLsb' 16 6
    return .unstat h v.a buf
  | _ => .error .opcode

/-- Format A instructions of group 0xD (04 R94). -/
def decodeAD (op : Nat) (h : Hdr) (v : ViewA) : Except Reject Instr :=
  match op with
  | 0x340 => do
    need (v.c == .zero && v.own.extractLsb' 0 22 == 0 && v.ty == .i32 && v.rm == .rne && !v.sat)
    return .rand h v.d v.a v.b
  | 0x341 => do
    need (v.own.extractLsb' 0 21 == 0 && v.ty == .i32 && v.rm == .rne && !v.sat)
    let rel := v.own.getLsbD 21
    return .rres h v.d v.a v.b v.c rel
  | 0x344 => do
    need (v.a == .zero && v.b == .zero && v.c == .zero && v.own.extractLsb' 0 21 == 0 && v.ty == .i32 && v.rm == .rne && !v.sat)
    let lane := v.own.getLsbD 21
    return .clock h v.d lane
  | _ => .error .opcode

/-- Format A instructions of group 0xE (04 R94). -/
def decodeAE (op : Nat) (h : Hdr) (v : ViewA) : Except Reject Instr :=
  match op with
  | 0x380 => do
    need (v.d == .zero && v.a == .zero && v.b == .zero && v.c == .zero && v.own.extractLsb' 0 22 == 0 && v.ty == .i32 && v.rm == .rne && !v.sat)
    return .tret h
  | 0x381 => do
    need (v.c == .zero && v.own.extractLsb' 0 22 == 0 && v.ty == .i32 && v.rm == .rne && !v.sat)
    return .stoprd h v.d v.a v.b
  | 0x382 => do
    need (v.d == .zero && v.c == .zero && v.own.extractLsb' 0 22 == 0 && v.ty == .i32 && v.rm == .rne && !v.sat)
    return .regev h v.a v.b
  | 0x383 => do
    need (v.d == .zero && v.a == .zero && v.b == .zero && v.c == .zero && v.own.extractLsb' 0 21 == 0 && v.ty == .i32 && v.rm == .rne && !v.sat)
    let clr := v.own.getLsbD 21
    return .haltl h clr
  | 0x384 => do
    need (v.b == .zero && v.c == .zero && v.own.extractLsb' 0 21 == 0 && v.ty == .i32 && v.rm == .rne && !v.sat)
    let pop := v.own.getLsbD 21
    return .errlog h v.d v.a pop
  | 0x385 => do
    need (v.b == .zero && v.c == .zero && v.own.extractLsb' 0 22 == 0 && v.ty == .i32 && v.rm == .rne && !v.sat)
    return .stest h v.d v.a
  | 0x386 => do
    need (v.d == .zero && v.b == .zero && v.c == .zero && v.own.extractLsb' 0 20 == 0 && v.ty == .i32 && v.rm == .rne && !v.sat)
    let part := v.own.getLsbD 21
    let va := v.own.getLsbD 20
    return .tlbinv h v.a part va
  | _ => .error .opcode

/-- Format A instructions, by group. -/
def decodeA (op : Nat) (h : Hdr) (v : ViewA) : Except Reject Instr :=
  match op / 64 with
  | 0x0 => decodeA0 op h v
  | 0x1 => decodeA1 op h v
  | 0x2 => decodeA2 op h v
  | 0x3 => decodeA3 op h v
  | 0x4 => decodeA4 op h v
  | 0x5 => decodeA5 op h v
  | 0x6 => decodeA6 op h v
  | 0x8 => decodeA8 op h v
  | 0x9 => decodeA9 op h v
  | 0xA => decodeAA op h v
  | 0xD => decodeAD op h v
  | 0xE => decodeAE op h v
  | _ => .error .opcode

/-- The instructions with a 32-bit immediate (04 R90, R94). -/
def decodeI (op : Nat) (h : Hdr) (v : ViewI) : Except Reject Instr :=
  match op with
  | 0x00A => do
    need (v.mod.extractLsb' 0 14 == 0 && v.d == .zero && v.a == .zero && v.imm.extractLsb' 16 16 == 0)
    return .trap h (v.imm.extractLsb' 0 16)
  | 0x00B => do
    need (v.mod.extractLsb' 0 14 == 0 && v.d == .zero && v.a == .zero && v.imm.extractLsb' 16 16 == 0)
    return .brk h (v.imm.extractLsb' 0 16)
  | 0x00C => do
    need (v.mod.extractLsb' 5 9 == 0 && v.a == .zero)
    let sel := v.mod.extractLsb' 0 5
    return .mode h v.d sel v.imm
  | 0x010 => do
    need (v.mod.extractLsb' 0 14 == 0 && v.d == .zero)
    return .nap h v.a v.imm
  | 0x052 => do
    need (v.mod.extractLsb' 0 12 == 0 && v.a == .zero)
    let form := v.mod.extractLsb' 12 2
    return .movi h v.d v.imm form
  | 0x342 => do
    need (v.mod.extractLsb' 0 14 == 0 && v.a == .zero && v.imm.extractLsb' 12 20 == 0)
    return .csrr h v.d (v.imm.extractLsb' 0 12)
  | 0x343 => do
    need (v.mod.extractLsb' 0 14 == 0 && v.d == .zero && v.imm.extractLsb' 12 20 == 0)
    return .csrw h v.a (v.imm.extractLsb' 0 12)
  | _ => .error .opcode

/-- The instructions with an address (04 R90, R94). -/
def decodeM (op : Nat) (h : Hdr) (v : ViewM) : Except Reject Instr :=
  match op with
  | 0x04C => do
    need (v.low.extractLsb' 0 8 == 0 && v.ty == .i32)
    return .lea h v.d v.m
  | 0x1C0 => do
    let mm := (⟨v.low.extractLsb' 6 2, scopeOf (v.low.extractLsb' 3 3), v.low.extractLsb' 1 2, v.low.getLsbD 0⟩ : MemMod)
    return .ld h v.d v.m v.ty mm
  | 0x1C1 => do
    let mm := (⟨v.low.extractLsb' 6 2, scopeOf (v.low.extractLsb' 3 3), v.low.extractLsb' 1 2, v.low.getLsbD 0⟩ : MemMod)
    return .st h v.d v.m v.ty mm
  | 0x1C2 => do
    let mm := (⟨v.low.extractLsb' 6 2, scopeOf (v.low.extractLsb' 3 3), v.low.extractLsb' 1 2, v.low.getLsbD 0⟩ : MemMod)
    return .ldu h v.d v.m v.ty mm
  | 0x1C3 => do
    let mm := (⟨v.low.extractLsb' 6 2, scopeOf (v.low.extractLsb' 3 3), v.low.extractLsb' 1 2, v.low.getLsbD 0⟩ : MemMod)
    return .stu h v.d v.m v.ty mm
  | 0x1C4 => do
    let mm := (⟨v.low.extractLsb' 6 2, scopeOf (v.low.extractLsb' 3 3), v.low.extractLsb' 1 2, v.low.getLsbD 0⟩ : MemMod)
    return .ldb h v.d v.m v.ty mm
  | 0x1C5 => do
    let mm := (⟨v.low.extractLsb' 6 2, scopeOf (v.low.extractLsb' 3 3), v.low.extractLsb' 1 2, v.low.getLsbD 0⟩ : MemMod)
    return .stb h v.d v.m v.ty mm
  | 0x1C6 => do
    need (v.low.extractLsb' 3 5 == 0 && v.low.extractLsb' 2 1 == 0 && v.low.extractLsb' 0 1 == 0 && v.d == .zero && v.ty == .i32)
    let st := v.low.getLsbD 1
    return .pref h v.m st
  | 0x1C7 => do
    need (v.low.extractLsb' 0 8 == 0 && v.d == .zero && v.ty == .i32)
    return .cwb h v.m
  | 0x1C8 => do
    need (v.low.extractLsb' 0 8 == 0 && v.d == .zero && v.ty == .i32)
    return .cinv h v.m
  | 0x200 => do
    let opc := v.low.extractLsb' 4 4
    let am := (⟨v.low.extractLsb' 2 2, v.low.extractLsb' 0 2⟩ : AtomMod)
    return .atom h v.d v.m v.ty opc am
  | 0x201 => do
    let opc := v.low.extractLsb' 4 4
    let am := (⟨v.low.extractLsb' 2 2, v.low.extractLsb' 0 2⟩ : AtomMod)
    return .red h v.d v.m v.ty opc am
  | 0x202 => do
    need (v.low.extractLsb' 4 4 == 0)
    let am := (⟨v.low.extractLsb' 2 2, v.low.extractLsb' 0 2⟩ : AtomMod)
    return .cas h v.d v.m v.ty am
  | 0x204 => do
    need (v.low.extractLsb' 0 8 == 0 && v.ty == .i32)
    return .algld h v.d v.m
  | 0x245 => do
    need (v.low.extractLsb' 7 1 == 0 && v.low.extractLsb' 0 3 == 0)
    let cmp := v.low.extractLsb' 5 2
    let slot := v.low.extractLsb' 3 2
    return .watch h v.d v.m v.ty cmp slot
  | 0x280 => do
    need (v.low.extractLsb' 0 2 == 0 && v.ty == .i32)
    let buf := v.low.extractLsb' 2 6
    return .bdecl h v.d v.m buf
  | _ => .error .opcode

/-- The instructions with a line offset (04 R90, R94). -/
def decodeB (op : Nat) (h : Hdr) (v : ViewB) : Except Reject Instr :=
  match op with
  | 0x001 => do
    need (v.mod.extractLsb' 0 29 == 0)
    return .bra h v.off v.slot
  | 0x003 => do
    need (v.mod.extractLsb' 0 29 == 0)
    return .call h v.off v.slot
  | 0x006 => do
    need (v.mod.extractLsb' 0 8 == 0)
    let test ← opdOf (v.mod.extractLsb' 21 8)
    let sense := v.mod.getLsbD 20
    let fmask := v.mod.extractLsb' 8 12
    return .bpend h v.off v.slot test sense fmask
  | _ => .error .opcode

/-- The instructions of groups 0xB and 0xC (04 R90, R94). -/
def decodeT (op : Nat) (h : Hdr) (v : ViewT) : Except Reject Instr :=
  match op with
  | 0x2C0 => do
    need (v.b == .zero && v.own.extractLsb' 0 21 == 0 && v.res.extractLsb' 4 4 == 0 && v.ty == .i32 && v.rm == .rne && !v.sat)
    let try_ := v.own.getLsbD 21
    let slot := v.res.extractLsb' 0 4
    return .oclaim h v.d v.a slot try_
  | 0x2C1 => do
    need (v.d == .zero && v.b == .zero && v.own.extractLsb' 0 22 == 0 && v.res.extractLsb' 4 4 == 0 && v.ty == .i32 && v.rm == .rne && !v.sat)
    let slot := v.res.extractLsb' 0 4
    return .orels h v.a slot
  | 0x2C2 => do
    need (v.own.extractLsb' 0 21 == 0 && v.res.extractLsb' 4 4 == 0 && v.ty == .i32 && v.rm == .rne && !v.sat)
    let sealed := v.own.getLsbD 21
    let slot := v.res.extractLsb' 0 4
    return .oput h v.d v.a v.b slot sealed
  | 0x2C3 => do
    need (v.b == .zero && v.own.extractLsb' 0 21 == 0 && v.res.extractLsb' 0 8 == 0 && v.ty == .i32 && v.rm == .rne && !v.sat)
    let spec := v.own.getLsbD 21
    return .task h v.d v.a spec
  | 0x2C4 => do
    need (v.d == .zero && v.b == .zero && v.own.extractLsb' 0 20 == 0 && v.res.extractLsb' 5 3 == 0 && v.ty == .i32 && v.rm == .rne && !v.sat)
    let kind := v.own.extractLsb' 20 2
    let acc := v.res.extractLsb' 0 5
    return .accz h v.a acc kind
  | 0x2C5 => do
    need (v.own.extractLsb' 20 1 == 0 && v.own.extractLsb' 0 16 == 0 && v.res.extractLsb' 5 3 == 0)
    let sh := v.own.getLsbD 21
    let cnt := v.own.extractLsb' 16 4
    let acc := v.res.extractLsb' 0 5
    return .accrd h v.d v.a v.b acc v.ty v.rm v.sat sh cnt
  | 0x2C6 => do
    need (v.own.extractLsb' 20 2 == 0 && v.own.extractLsb' 0 16 == 0 && v.res.extractLsb' 5 3 == 0 && v.rm == .rne && !v.sat)
    let cnt := v.own.extractLsb' 16 4
    let acc := v.res.extractLsb' 0 5
    return .accwr h v.d v.a v.b acc v.ty cnt
  | 0x2C7 => do
    need (v.d == .zero && v.b == .zero && v.own.extractLsb' 0 22 == 0 && v.res.extractLsb' 5 3 == 0 && v.ty == .i32 && v.rm == .rne && !v.sat)
    let acc := v.res.extractLsb' 0 5
    return .acccmt h v.a acc
  | 0x2C8 => do
    need (v.d == .zero && v.b == .zero && v.own.extractLsb' 0 22 == 0 && v.res.extractLsb' 5 3 == 0 && v.ty == .i32 && v.rm == .rne && !v.sat)
    let acc := v.res.extractLsb' 0 5
    return .accdsc h v.a acc
  | 0x2C9 => do
    need (v.d == .zero && v.b == .zero && v.own.extractLsb' 0 21 == 0 && v.res.extractLsb' 5 3 == 0 && v.ty == .i32 && v.rm == .rne && !v.sat)
    let all := v.own.getLsbD 21
    let acc := v.res.extractLsb' 0 5
    return .twait h v.a acc all
  | 0x300 => do
    need (v.b == .zero && v.own.extractLsb' 0 22 == 0 && v.res.extractLsb' 3 4 == 0 && v.ty == .i32 && v.rm == .rne && !v.sat)
    let eng := v.res.getLsbD 7
    let lay := v.res.extractLsb' 0 3
    return .slay h v.d v.a eng lay
  | 0x301 => do
    need (v.d == .zero && v.own.extractLsb' 0 12 == 0 && v.res.extractLsb' 3 2 == 0 && v.ty == .i32 && v.rm == .rne && !v.sat)
    let slots := v.own.getLsbD 21
    let first := v.own.extractLsb' 15 6
    let cnt := v.own.extractLsb' 12 3
    let eng := v.res.getLsbD 7
    let ring := v.res.extractLsb' 5 2
    let lay := v.res.extractLsb' 0 3
    return .sfill h v.a v.b eng ring lay slots first cnt
  | 0x302 => do
    need (v.d == .zero && v.own.extractLsb' 21 1 == 0 && v.own.extractLsb' 0 12 == 0 && v.res.extractLsb' 3 2 == 0 && v.ty == .i32 && v.rm == .rne && !v.sat)
    let first := v.own.extractLsb' 15 6
    let cnt := v.own.extractLsb' 12 3
    let eng := v.res.getLsbD 7
    let ring := v.res.extractLsb' 5 2
    let lay := v.res.extractLsb' 0 3
    return .sdrain h v.a v.b eng ring lay first cnt
  | 0x303 => do
    need (v.d == .zero && v.b == .zero && v.own.extractLsb' 0 21 == 0 && v.res.extractLsb' 0 5 == 0 && v.ty == .i32 && v.rm == .rne && !v.sat)
    let full := v.own.getLsbD 21
    let eng := v.res.getLsbD 7
    let ring := v.res.extractLsb' 5 2
    return .ssig h v.a eng ring full
  | 0x304 => do
    need (v.d == .zero && v.a == .zero && v.b == .zero && v.own.extractLsb' 0 16 == 0 && v.res.extractLsb' 0 8 == 0 && v.ty == .i32 && v.rm == .rne && !v.sat)
    let tq := v.own.getLsbD 21
    let se := v.own.getLsbD 20
    let cq := v.own.extractLsb' 16 4
    return .qfence h tq se cq
  | 0x305 => do
    need (v.a == .zero && v.b == .zero && v.own.extractLsb' 0 22 == 0 && v.res.extractLsb' 2 6 == 0 && v.ty == .i32 && v.rm == .rne && !v.sat)
    let cq := v.res.extractLsb' 0 2
    return .coll h v.d cq
  | 0x306 => do
    need (v.own.extractLsb' 0 20 == 0 && v.ty == .i32 && v.rm == .rne && !v.sat)
    let rd := v.own.getLsbD 21
    let dty := v.own.getLsbD 20
    let region := v.res.extractLsb' 0 8
    return .cseq h v.d v.a v.b region rd dty
  | 0x307 => do
    need (v.own.extractLsb' 0 20 == 0 && v.ty == .i32 && v.rm == .rne && !v.sat)
    let kind := v.own.extractLsb' 20 2
    let res := v.res.extractLsb' 0 8
    return .ewait h v.d v.a v.b kind res
  | _ => .error .opcode

/-- The opcodes of format A: the rest of each group's list (04 R94). -/
def isFormatA (op : Nat) : Bool :=
  decide (op ≤ 0x010) || (decide (0x040 ≤ op) && decide (op ≤ 0x054)) || (decide (0x080 ≤ op) && decide (op ≤ 0x091)) ||
  (decide (0x0C0 ≤ op) && decide (op ≤ 0x0C9)) || (decide (0x100 ≤ op) && decide (op ≤ 0x109)) ||
  (decide (0x140 ≤ op) && decide (op ≤ 0x149)) || (decide (0x180 ≤ op) && decide (op ≤ 0x184)) ||
  (decide (0x200 ≤ op) && decide (op ≤ 0x206)) || (decide (0x240 ≤ op) && decide (op ≤ 0x24F)) ||
  (decide (0x280 ≤ op) && decide (op ≤ 0x285)) || (decide (0x340 ≤ op) && decide (op ≤ 0x344)) ||
  (decide (0x380 ≤ op) && decide (op ≤ 0x386))

/-- The body format of an opcode (04 R94); `none` is no instruction. -/
def formatOf (op : Nat) : Option Format :=
  match op with
  | 0x00A | 0x00B | 0x00C | 0x010 | 0x052 | 0x342 | 0x343 => some .i
  | 0x04C | 0x1C0 | 0x1C1 | 0x1C2 | 0x1C3 | 0x1C4 | 0x1C5 | 0x1C6 | 0x1C7 | 0x1C8 | 0x200 | 0x201 | 0x202 | 0x204 | 0x245 | 0x280 => some .m
  | 0x001 | 0x003 | 0x006 => some .b
  | 0x2C0 | 0x2C1 | 0x2C2 | 0x2C3 | 0x2C4 | 0x2C5 | 0x2C6 | 0x2C7 | 0x2C8 | 0x2C9 | 0x300 | 0x301 | 0x302 | 0x303 | 0x304 | 0x305 | 0x306 | 0x307 => some .t
  | _ => if isFormatA op then some .a else none

/-- The instruction of a view, before the checks on its operands. -/
def parse (op : Nat) (h : Hdr) (x : BitVec 62) : Except Reject Instr :=
  match formatOf op with
  | none => .error .opcode
  | some .a => do decodeA op h (← readA x)
  | some .i => do decodeI op h (← readI x)
  | some .m => do decodeM op h (← readM x)
  | some .b => decodeB op h (readB x)
  | some .t => do decodeT op h (← readT x)

/-- The opcode field of a slot. -/
def opcode (w : Slot) : Nat := (w.extractLsb' 86 10).toNat

end Decode

/-- The decoder: rows 1, 3 and 4 of 04 R96, in order. -/
def decode (w : Slot) : Except Reject Instr := do
  let op := Decode.opcode w
  if (Decode.formatOf op).isNone then throw .opcode
  let h ← Decode.readHdr (w.extractLsb' 62 24)
  let i ← Decode.parse op h (w.extractLsb' 0 62)
  if i.wf then return i else throw .notAccepted

/-- A group 0xE opcode that is an instruction: row 2 of 04 R96 looks at nothing else. -/
def privilegedOpcode (w : Slot) : Bool :=
  decide (0x380 ≤ Decode.opcode w) && decide (Decode.opcode w ≤ 0x386)

/-- The opcode, header and body of an instruction, from the encoding tables of chapters 04 to 09; `none` for the steps
that are no lane instruction. -/
def encodeView : Instr → Option (BitVec 10 × Hdr × Decode.View) := fun i => open Decode in match i with
  | .nop h =>
    some (0x000#10, h, .a ⟨.zero, .zero, .zero, .zero, .i32, .rne, false, 0#22⟩)
  | .bra h off slot =>
    some (0x001#10, h, .b ⟨off, slot, 0#29⟩)
  | .brx h a =>
    some (0x002#10, h, .a ⟨.zero, a, .zero, .zero, .i32, .rne, false, 0#22⟩)
  | .call h off slot =>
    some (0x003#10, h, .b ⟨off, slot, 0#29⟩)
  | .callx h a =>
    some (0x004#10, h, .a ⟨.zero, a, .zero, .zero, .i32, .rne, false, 0#22⟩)
  | .ret h =>
    some (0x005#10, h, .a ⟨.zero, .zero, .zero, .zero, .i32, .rne, false, 0#22⟩)
  | .bpend h off slot test sense fmask =>
    some (0x006#10, h, .b ⟨off, slot, opdCode test ++ bit sense ++ fmask ++ 0#8⟩)
  | .exit h =>
    some (0x007#10, h, .a ⟨.zero, .zero, .zero, .zero, .i32, .rne, false, 0#22⟩)
  | .yield h =>
    some (0x008#10, h, .a ⟨.zero, .zero, .zero, .zero, .i32, .rne, false, 0#22⟩)
  | .idem h =>
    some (0x009#10, h, .a ⟨.zero, .zero, .zero, .zero, .i32, .rne, false, 0#22⟩)
  | .trap h code =>
    some (0x00A#10, h, .i ⟨.zero, .zero, 0#16 ++ code, 0#14⟩)
  | .brk h code =>
    some (0x00B#10, h, .i ⟨.zero, .zero, 0#16 ++ code, 0#14⟩)
  | .mode h d sel imm =>
    some (0x00C#10, h, .i ⟨d, .zero, imm, 0#9 ++ sel⟩)
  | .join h d key =>
    some (0x00D#10, h, .a ⟨d, .zero, .zero, .zero, .i32, .rne, false, key ++ 0#18⟩)
  | .leave h key =>
    some (0x00E#10, h, .a ⟨.zero, .zero, .zero, .zero, .i32, .rne, false, key ++ 0#18⟩)
  | .launch h d a b =>
    some (0x00F#10, h, .a ⟨d, a, b, .zero, .i32, .rne, false, 0#22⟩)
  | .nap h a imm =>
    some (0x010#10, h, .i ⟨.zero, a, imm, 0#14⟩)
  | .iadd h d a b ty sat =>
    some (0x040#10, h, .a ⟨d, a, b, .zero, ty, .rne, sat, 0#22⟩)
  | .isub h d a b ty sat =>
    some (0x041#10, h, .a ⟨d, a, b, .zero, ty, .rne, sat, 0#22⟩)
  | .iaddc h d a b ci cip cop =>
    some (0x042#10, h, .a ⟨d, a, b, .zero, .i32, .rne, false, bit ci ++ cip ++ cop ++ 0#15⟩)
  | .isubb h d a b ci cip cop =>
    some (0x043#10, h, .a ⟨d, a, b, .zero, .i32, .rne, false, bit ci ++ cip ++ cop ++ 0#15⟩)
  | .imul h d a b ty sat =>
    some (0x044#10, h, .a ⟨d, a, b, .zero, ty, .rne, sat, 0#22⟩)
  | .imulh h d a b ty =>
    some (0x045#10, h, .a ⟨d, a, b, .zero, ty, .rne, false, 0#22⟩)
  | .imad h d a b c ty sat =>
    some (0x046#10, h, .a ⟨d, a, b, c, ty, .rne, sat, 0#22⟩)
  | .imadw h d a b c ty =>
    some (0x047#10, h, .a ⟨d, a, b, c, ty, .rne, false, 0#22⟩)
  | .imin h d a b ty =>
    some (0x048#10, h, .a ⟨d, a, b, .zero, ty, .rne, false, 0#22⟩)
  | .imax h d a b ty =>
    some (0x049#10, h, .a ⟨d, a, b, .zero, ty, .rne, false, 0#22⟩)
  | .iabs h d a sat =>
    some (0x04A#10, h, .a ⟨d, a, .zero, .zero, .i32, .rne, sat, 0#22⟩)
  | .ineg h d a sat =>
    some (0x04B#10, h, .a ⟨d, a, .zero, .zero, .i32, .rne, sat, 0#22⟩)
  | .lea h d m =>
    some (0x04C#10, h, .m ⟨d, m, .i32, 0#8⟩)
  | .iadd64 h d a b bx =>
    some (0x04D#10, h, .a ⟨d, a, b, .zero, .i32, .rne, false, bit bx ++ 0#21⟩)
  | .isad h d a b c ty =>
    some (0x04E#10, h, .a ⟨d, a, b, c, ty, .rne, false, 0#22⟩)
  | .idot4 h d a b c ty mix sat =>
    some (0x04F#10, h, .a ⟨d, a, b, c, ty, .rne, sat, bit mix ++ 0#21⟩)
  | .ireq h d a b ty rm sat wide an =>
    some (0x050#10, h, .a ⟨d, a, b, .zero, ty, rm, sat, bit wide ++ bit an ++ 0#20⟩)
  | .mov h d a w =>
    some (0x051#10, h, .a ⟨d, a, .zero, .zero, .i32, .rne, false, bit w ++ 0#21⟩)
  | .movi h d imm form =>
    some (0x052#10, h, .i ⟨d, .zero, imm, form ++ 0#12⟩)
  | .movx h d a b wr =>
    some (0x053#10, h, .a ⟨d, a, b, .zero, .i32, .rne, false, bit wr ++ 0#21⟩)
  | .movxw h d a b wr =>
    some (0x054#10, h, .a ⟨d, a, b, .zero, .i32, .rne, false, bit wr ++ 0#21⟩)
  | .and h d a b =>
    some (0x080#10, h, .a ⟨d, a, b, .zero, .i32, .rne, false, 0#22⟩)
  | .or h d a b =>
    some (0x081#10, h, .a ⟨d, a, b, .zero, .i32, .rne, false, 0#22⟩)
  | .xor h d a b =>
    some (0x082#10, h, .a ⟨d, a, b, .zero, .i32, .rne, false, 0#22⟩)
  | .not h d a =>
    some (0x083#10, h, .a ⟨d, a, .zero, .zero, .i32, .rne, false, 0#22⟩)
  | .andn h d a b =>
    some (0x084#10, h, .a ⟨d, a, b, .zero, .i32, .rne, false, 0#22⟩)
  | .shl h d a b wrap =>
    some (0x085#10, h, .a ⟨d, a, b, .zero, .i32, .rne, false, bit wrap ++ 0#21⟩)
  | .shr h d a b wrap =>
    some (0x086#10, h, .a ⟨d, a, b, .zero, .i32, .rne, false, bit wrap ++ 0#21⟩)
  | .sar h d a b wrap =>
    some (0x087#10, h, .a ⟨d, a, b, .zero, .i32, .rne, false, bit wrap ++ 0#21⟩)
  | .rol h d a b =>
    some (0x088#10, h, .a ⟨d, a, b, .zero, .i32, .rne, false, 0#22⟩)
  | .fshl h d a b c wrap =>
    some (0x089#10, h, .a ⟨d, a, b, c, .i32, .rne, false, bit wrap ++ 0#21⟩)
  | .bfe h d a b ty =>
    some (0x08A#10, h, .a ⟨d, a, b, .zero, ty, .rne, false, 0#22⟩)
  | .bfi h d a b c =>
    some (0x08B#10, h, .a ⟨d, a, b, c, .i32, .rne, false, 0#22⟩)
  | .popc h d a w =>
    some (0x08C#10, h, .a ⟨d, a, .zero, .zero, .i32, .rne, false, bit w ++ 0#21⟩)
  | .clz h d a w =>
    some (0x08D#10, h, .a ⟨d, a, .zero, .zero, .i32, .rne, false, bit w ++ 0#21⟩)
  | .ctz h d a w =>
    some (0x08E#10, h, .a ⟨d, a, .zero, .zero, .i32, .rne, false, bit w ++ 0#21⟩)
  | .brev h d a =>
    some (0x08F#10, h, .a ⟨d, a, .zero, .zero, .i32, .rne, false, 0#22⟩)
  | .prmt h d a b c =>
    some (0x090#10, h, .a ⟨d, a, b, c, .i32, .rne, false, 0#22⟩)
  | .lop3 h d a b c fn ze pz =>
    some (0x091#10, h, .a ⟨d, a, b, c, .i32, .rne, false, fn ++ bit ze ++ pz ++ 0#10⟩)
  | .icmp h a b ty pd cmp comb pc =>
    some (0x0C0#10, h, .a ⟨.zero, a, b, .zero, ty, .rne, false, pd ++ cmpCode cmp ++ comb ++ pc ++ 0#11⟩)
  | .fcmp h a b pd cmp comb pc =>
    some (0x0C1#10, h, .a ⟨.zero, a, b, .zero, .f32, .rne, false, pd ++ cmpCode cmp ++ comb ++ pc ++ 0#11⟩)
  | .sel h d a b w inv ks =>
    some (0x0C2#10, h, .a ⟨d, a, b, .zero, .i32, .rne, false, bit w ++ bit inv ++ ks ++ 0#17⟩)
  | .pset h pd pa pb pc fn pt =>
    some (0x0C3#10, h, .a ⟨.zero, .zero, .zero, .zero, .i32, .rne, false, pd ++ pa ++ pb ++ pc ++ fn ++ bit pt ++ 0#1⟩)
  | .pmov h d a dir kp =>
    some (0x0C4#10, h, .a ⟨d, a, .zero, .zero, .i32, .rne, false, bit dir ++ kp ++ 0#18⟩)
  | .vote h d cond ks inv pd =>
    some (0x0C5#10, h, .a ⟨d, .zero, .zero, .zero, .i32, .rne, false, cond ++ ks ++ bit inv ++ pd ++ 0#12⟩)
  | .shfl h d a b c mode pd w fill =>
    some (0x0C6#10, h, .a ⟨d, a, b, c, .i32, .rne, false, mode ++ pd ++ bit w ++ bit fill ++ 0#15⟩)
  | .redux h d a ty rm sat op seg kg =>
    some (0x0C7#10, h, .a ⟨d, a, .zero, .zero, ty, rm, sat, op ++ 0#1 ++ bit seg ++ kg ++ 0#13⟩)
  | .scan h d a ty rm sat op excl seg kg =>
    some (0x0C8#10, h, .a ⟨d, a, .zero, .zero, ty, rm, sat, op ++ bit excl ++ bit seg ++ kg ++ 0#13⟩)
  | .matchT h d a w pd km =>
    some (0x0C9#10, h, .a ⟨d, a, .zero, .zero, .i32, .rne, false, bit w ++ pd ++ bit km ++ 0#17⟩)
  | .fadd h d a b ty rm sat =>
    some (0x100#10, h, .a ⟨d, a, b, .zero, ty, rm, sat, 0#22⟩)
  | .fsub h d a b ty rm sat =>
    some (0x101#10, h, .a ⟨d, a, b, .zero, ty, rm, sat, 0#22⟩)
  | .fmul h d a b ty rm sat =>
    some (0x102#10, h, .a ⟨d, a, b, .zero, ty, rm, sat, 0#22⟩)
  | .ffma h d a b c ty rm sat =>
    some (0x103#10, h, .a ⟨d, a, b, c, ty, rm, sat, 0#22⟩)
  | .fmin h d a b ty =>
    some (0x104#10, h, .a ⟨d, a, b, .zero, ty, .rne, false, 0#22⟩)
  | .fmax h d a b ty =>
    some (0x105#10, h, .a ⟨d, a, b, .zero, ty, .rne, false, 0#22⟩)
  | .fclass h d a b ty p pd =>
    some (0x106#10, h, .a ⟨d, a, b, .zero, ty, .rne, false, bit p ++ pd ++ 0#18⟩)
  | .fscale h d a b ty rm sat =>
    some (0x107#10, h, .a ⟨d, a, b, .zero, ty, rm, sat, 0#22⟩)
  | .frnd h d a ty rm =>
    some (0x108#10, h, .a ⟨d, a, .zero, .zero, ty, rm, false, 0#22⟩)
  | .fdot2 h d a b c ty rm sat =>
    some (0x109#10, h, .a ⟨d, a, b, c, ty, rm, sat, 0#22⟩)
  | .frcp h d a =>
    some (0x140#10, h, .a ⟨d, a, .zero, .zero, .f32, .rne, false, 0#22⟩)
  | .frsq h d a =>
    some (0x141#10, h, .a ⟨d, a, .zero, .zero, .f32, .rne, false, 0#22⟩)
  | .fsqrt h d a rm sat =>
    some (0x142#10, h, .a ⟨d, a, .zero, .zero, .f32, rm, sat, 0#22⟩)
  | .fexp2 h d a =>
    some (0x143#10, h, .a ⟨d, a, .zero, .zero, .f32, .rne, false, 0#22⟩)
  | .flog2 h d a =>
    some (0x144#10, h, .a ⟨d, a, .zero, .zero, .f32, .rne, false, 0#22⟩)
  | .fsinp h d a =>
    some (0x145#10, h, .a ⟨d, a, .zero, .zero, .f32, .rne, false, 0#22⟩)
  | .fcosp h d a =>
    some (0x146#10, h, .a ⟨d, a, .zero, .zero, .f32, .rne, false, 0#22⟩)
  | .cvt h d a c ty sty rm sat pos =>
    some (0x147#10, h, .a ⟨d, a, .zero, c, ty, rm, sat, tyCode sty ++ pos ++ 0#16⟩)
  | .cvtef h d a b c ty sat pos =>
    some (0x148#10, h, .a ⟨d, a, b, c, ty, .rne, sat, 0#4 ++ pos ++ 0#16⟩)
  | .cvtsr h d a b c ty sat pos =>
    some (0x149#10, h, .a ⟨d, a, b, c, ty, .rne, sat, 0#4 ++ pos ++ 0#16⟩)
  | .blkh h d a =>
    some (0x180#10, h, .a ⟨d, a, .zero, .zero, .i32, .rne, false, 0#22⟩)
  | .blkhw h d a b chk =>
    some (0x181#10, h, .a ⟨d, a, b, .zero, .i32, .rne, false, bit chk ++ 0#21⟩)
  | .blkpack h d a b ty rm sat esc i4 =>
    some (0x182#10, h, .a ⟨d, a, b, .zero, ty, rm, sat, bit esc ++ bit i4 ++ 0#20⟩)
  | .blkunp h d a cnt rm sat =>
    some (0x183#10, h, .a ⟨d, a, .zero, .zero, .i32, rm, sat, cnt ++ 0#19⟩)
  | .blkscl h d a b fit ty sat i4 =>
    some (0x184#10, h, .a ⟨d, a, b, .zero, ty, .rne, sat, bit fit ++ bit i4 ++ 0#20⟩)
  | .ld h d m ty mm =>
    some (0x1C0#10, h, .m ⟨d, m, ty, mmCode mm⟩)
  | .st h d m ty mm =>
    some (0x1C1#10, h, .m ⟨d, m, ty, mmCode mm⟩)
  | .ldu h d m ty mm =>
    some (0x1C2#10, h, .m ⟨d, m, ty, mmCode mm⟩)
  | .stu h d m ty mm =>
    some (0x1C3#10, h, .m ⟨d, m, ty, mmCode mm⟩)
  | .ldb h d m ty mm =>
    some (0x1C4#10, h, .m ⟨d, m, ty, mmCode mm⟩)
  | .stb h d m ty mm =>
    some (0x1C5#10, h, .m ⟨d, m, ty, mmCode mm⟩)
  | .pref h m st =>
    some (0x1C6#10, h, .m ⟨.zero, m, .i32, 0#5 ++ 0#1 ++ bit st ++ 0#1⟩)
  | .cwb h m =>
    some (0x1C7#10, h, .m ⟨.zero, m, .i32, 0#8⟩)
  | .cinv h m =>
    some (0x1C8#10, h, .m ⟨.zero, m, .i32, 0#8⟩)
  | .atom h d m ty opc am =>
    some (0x200#10, h, .m ⟨d, m, ty, opc ++ am.ord ++ am.scp⟩)
  | .red h d m ty opc am =>
    some (0x201#10, h, .m ⟨d, m, ty, opc ++ am.ord ++ am.scp⟩)
  | .cas h d m ty am =>
    some (0x202#10, h, .m ⟨d, m, ty, 0#4 ++ am.ord ++ am.scp⟩)
  | .fence h ord scope =>
    some (0x203#10, h, .a ⟨.zero, .zero, .zero, .zero, .i32, .rne, false, ord ++ scopeCode scope ++ 0#17⟩)
  | .algld h d m =>
    some (0x204#10, h, .m ⟨d, m, .i32, 0#8⟩)
  | .algrd h d a =>
    some (0x205#10, h, .a ⟨d, a, .zero, .zero, .i32, .rne, false, 0#22⟩)
  | .algclr h =>
    some (0x206#10, h, .a ⟨.zero, .zero, .zero, .zero, .i32, .rne, false, 0#22⟩)
  | .bari h a key dom =>
    some (0x240#10, h, .a ⟨.zero, a, .zero, .zero, .i32, .rne, false, key ++ bit dom ++ 0#17⟩)
  | .bara h d key =>
    some (0x241#10, h, .a ⟨d, .zero, .zero, .zero, .i32, .rne, false, key ++ 0#18⟩)
  | .barw h d key =>
    some (0x242#10, h, .a ⟨d, .zero, .zero, .zero, .i32, .rne, false, key ++ 0#18⟩)
  | .bard h key =>
    some (0x243#10, h, .a ⟨.zero, .zero, .zero, .zero, .i32, .rne, false, key ++ 0#18⟩)
  | .barq h d key =>
    some (0x244#10, h, .a ⟨d, .zero, .zero, .zero, .i32, .rne, false, key ++ 0#18⟩)
  | .watch h d m ty cmp slot =>
    some (0x245#10, h, .m ⟨d, m, ty, 0#1 ++ cmp ++ slot ++ 0#3⟩)
  | .doze h d a sel =>
    some (0x246#10, h, .a ⟨d, a, .zero, .zero, .i32, .rne, false, sel ++ 0#18⟩)
  | .unwatch h sel =>
    some (0x247#10, h, .a ⟨.zero, .zero, .zero, .zero, .i32, .rne, false, sel ++ 0#18⟩)
  | .shrmap h d cnt key rid =>
    some (0x248#10, h, .a ⟨d, .zero, .zero, .zero, .i32, .rne, false, cnt ++ key ++ rid ++ 0#8⟩)
  | .shrunmap h d =>
    some (0x249#10, h, .a ⟨d, .zero, .zero, .zero, .i32, .rne, false, 0#22⟩)
  | .ferd h d a =>
    some (0x24A#10, h, .a ⟨d, a, .zero, .zero, .i32, .rne, false, 0#22⟩)
  | .fewr h d a =>
    some (0x24B#10, h, .a ⟨d, a, .zero, .zero, .i32, .rne, false, 0#22⟩)
  | .qcfg h d a qn unb =>
    some (0x24C#10, h, .a ⟨d, a, .zero, .zero, .i32, .rne, false, qn ++ bit unb ++ 0#16⟩)
  | .qstat h d a =>
    some (0x24D#10, h, .a ⟨d, a, .zero, .zero, .i32, .rne, false, 0#22⟩)
  | .tokw h =>
    some (0x24E#10, h, .a ⟨.zero, .zero, .zero, .zero, .i32, .rne, false, 0#22⟩)
  | .tokp h =>
    some (0x24F#10, h, .a ⟨.zero, .zero, .zero, .zero, .i32, .rne, false, 0#22⟩)
  | .bdecl h d m buf =>
    some (0x280#10, h, .m ⟨d, m, .i32, buf ++ 0#2⟩)
  | .bset h d a buf tmo try_ =>
    some (0x281#10, h, .a ⟨d, a, .zero, .zero, .i32, .rne, false, buf ++ tmo ++ bit try_ ++ 0#13⟩)
  | .brel h a buf =>
    some (0x282#10, h, .a ⟨.zero, a, .zero, .zero, .i32, .rne, false, buf ++ 0#16⟩)
  | .bqry h d a buf =>
    some (0x283#10, h, .a ⟨d, a, .zero, .zero, .i32, .rne, false, buf ++ 0#16⟩)
  | .stat h a buf =>
    some (0x284#10, h, .a ⟨.zero, a, .zero, .zero, .i32, .rne, false, buf ++ 0#16⟩)
  | .unstat h a buf =>
    some (0x285#10, h, .a ⟨.zero, a, .zero, .zero, .i32, .rne, false, buf ++ 0#16⟩)
  | .oclaim h d a slot try_ =>
    some (0x2C0#10, h, .t ⟨d, a, .zero, 0#4 ++ slot, .i32, .rne, false, bit try_ ++ 0#21⟩)
  | .orels h a slot =>
    some (0x2C1#10, h, .t ⟨.zero, a, .zero, 0#4 ++ slot, .i32, .rne, false, 0#22⟩)
  | .oput h d a b slot sealed =>
    some (0x2C2#10, h, .t ⟨d, a, b, 0#4 ++ slot, .i32, .rne, false, bit sealed ++ 0#21⟩)
  | .task h d a spec =>
    some (0x2C3#10, h, .t ⟨d, a, .zero, 0#8, .i32, .rne, false, bit spec ++ 0#21⟩)
  | .accz h a acc kind =>
    some (0x2C4#10, h, .t ⟨.zero, a, .zero, 0#3 ++ acc, .i32, .rne, false, kind ++ 0#20⟩)
  | .accrd h d a b acc ty rm sat sh cnt =>
    some (0x2C5#10, h, .t ⟨d, a, b, 0#3 ++ acc, ty, rm, sat, bit sh ++ 0#1 ++ cnt ++ 0#16⟩)
  | .accwr h d a b acc ty cnt =>
    some (0x2C6#10, h, .t ⟨d, a, b, 0#3 ++ acc, ty, .rne, false, 0#2 ++ cnt ++ 0#16⟩)
  | .acccmt h a acc =>
    some (0x2C7#10, h, .t ⟨.zero, a, .zero, 0#3 ++ acc, .i32, .rne, false, 0#22⟩)
  | .accdsc h a acc =>
    some (0x2C8#10, h, .t ⟨.zero, a, .zero, 0#3 ++ acc, .i32, .rne, false, 0#22⟩)
  | .twait h a acc all =>
    some (0x2C9#10, h, .t ⟨.zero, a, .zero, 0#3 ++ acc, .i32, .rne, false, bit all ++ 0#21⟩)
  | .slay h d a eng lay =>
    some (0x300#10, h, .t ⟨d, a, .zero, bit eng ++ 0#4 ++ lay, .i32, .rne, false, 0#22⟩)
  | .sfill h a b eng ring lay slots first cnt =>
    some (0x301#10, h, .t ⟨.zero, a, b, bit eng ++ ring ++ 0#2 ++ lay, .i32, .rne, false, bit slots ++ first ++ cnt ++ 0#12⟩)
  | .sdrain h a b eng ring lay first cnt =>
    some (0x302#10, h, .t ⟨.zero, a, b, bit eng ++ ring ++ 0#2 ++ lay, .i32, .rne, false, 0#1 ++ first ++ cnt ++ 0#12⟩)
  | .ssig h a eng ring full =>
    some (0x303#10, h, .t ⟨.zero, a, .zero, bit eng ++ ring ++ 0#5, .i32, .rne, false, bit full ++ 0#21⟩)
  | .qfence h tq se cq =>
    some (0x304#10, h, .t ⟨.zero, .zero, .zero, 0#8, .i32, .rne, false, bit tq ++ bit se ++ cq ++ 0#16⟩)
  | .coll h d cq =>
    some (0x305#10, h, .t ⟨d, .zero, .zero, 0#6 ++ cq, .i32, .rne, false, 0#22⟩)
  | .cseq h d a b region rd dty =>
    some (0x306#10, h, .t ⟨d, a, b, region, .i32, .rne, false, bit rd ++ bit dty ++ 0#20⟩)
  | .ewait h d a b kind res =>
    some (0x307#10, h, .t ⟨d, a, b, res, .i32, .rne, false, kind ++ 0#20⟩)
  | .rand h d a b =>
    some (0x340#10, h, .a ⟨d, a, b, .zero, .i32, .rne, false, 0#22⟩)
  | .rres h d a b c rel =>
    some (0x341#10, h, .a ⟨d, a, b, c, .i32, .rne, false, bit rel ++ 0#21⟩)
  | .csrr h d csr =>
    some (0x342#10, h, .i ⟨d, .zero, 0#20 ++ csr, 0#14⟩)
  | .csrw h a csr =>
    some (0x343#10, h, .i ⟨.zero, a, 0#20 ++ csr, 0#14⟩)
  | .clock h d lane =>
    some (0x344#10, h, .a ⟨d, .zero, .zero, .zero, .i32, .rne, false, bit lane ++ 0#21⟩)
  | .tret h =>
    some (0x380#10, h, .a ⟨.zero, .zero, .zero, .zero, .i32, .rne, false, 0#22⟩)
  | .stoprd h d a b =>
    some (0x381#10, h, .a ⟨d, a, b, .zero, .i32, .rne, false, 0#22⟩)
  | .regev h a b =>
    some (0x382#10, h, .a ⟨.zero, a, b, .zero, .i32, .rne, false, 0#22⟩)
  | .haltl h clr =>
    some (0x383#10, h, .a ⟨.zero, .zero, .zero, .zero, .i32, .rne, false, bit clr ++ 0#21⟩)
  | .errlog h d a pop =>
    some (0x384#10, h, .a ⟨d, a, .zero, .zero, .i32, .rne, false, bit pop ++ 0#21⟩)
  | .stest h d a =>
    some (0x385#10, h, .a ⟨d, a, .zero, .zero, .i32, .rne, false, 0#22⟩)
  | .tlbinv h a part va =>
    some (0x386#10, h, .a ⟨.zero, a, .zero, .zero, .i32, .rne, false, bit part ++ bit va ++ 0#20⟩)
  | _ => none

/-- The 96 bits of an instruction (04 R79, R89, R90). -/
def encode (i : Instr) : Option Slot :=
  (encodeView i).map (fun v => v.1 ++ Decode.hdrBits v.2.1 ++ v.2.2.body)

/-- The instruction that the decoder reads from the low 96 bits of a number whose bits are those of a slot, the first
byte of the slot in bits [7:0] (04 R79). -/
def decodeTableWord (_nbits w : Nat) : Option Instr :=
  match decode (BitVec.ofNat 96 w) with
  | .ok i => some i
  | .error _ => none

end Sys2Proof
end

