-- ==== Sys2Proof/Machine/State.lean ====
section
/-! DEFINITION. Everything the machine holds between two steps, as plain data, and its values after a cold reset (19 R386).
Keys into an association list that are absent stand for the value that the reading operation names. -/

namespace Sys2Proof.Machine

/-- A finite map as a list of pairs; at most one pair of a key is kept by the operations of Ops.lean. -/
abbrev Assoc (κ β : Type) := List (κ × β)

/-! ## Threads and strands -/

/-- Execution state of a thread (01 R12, 17 R335). -/
inductive TSt where
  | live | parked | exited
  deriving DecidableEq, Repr

/-- Why a thread is parked, in the codes 0-7 of 17 R335. -/
inductive Park where
  | none | barw | doze | nap | tokw | handler | branch | quota
  deriving DecidableEq, Repr

/-- One thread (01 R12). -/
structure Thread where
  pc : Pc
  st : TSt
  park : Park := .none
  /-- BARW: the key; DOZE: SEL (17 R335). -/
  psel : Nat := 0
  /-- BARW: the phase; NAP and DOZE with a timeout: the cycle the time runs out in; a saved strand holds the cycles left. -/
  parg : Nat := 0
  /-- The long-latency instruction that ends when the thread is released (BARW, DOZE). -/
  ptxn : Nat := 0
  /-- Return stack, oldest first, with its depth; the image may hold entries above the depth (07 R161, 17 R333). -/
  stack : List Pc := []
  depth : Nat := 0
  /-- How many of its newest entries the lane holds, 0-4 (07 R161). -/
  inLane : Nat := 0
  /-- DOZE: the last cycle of the instruction, in which the thread parks (07 R175). -/
  since : Nat := 0
  deriving DecidableEq, Repr

/-- What a trap frame, an idempotent region and a snapshot keep of a thread (17 R335). -/
structure ThreadRec where
  pc : Pc
  st : TSt
  park : Park
  psel : Nat
  /-- PARG: NAP, and DOZE with a timeout, in cycles left. -/
  parg : Nat
  ptxn : Nat
  depth : Nat
  deriving DecidableEq, Repr

/-- One write of a register word, of a uniform register or of a predicate bit: made in cycle `made`, visible from cycle `vis`
on (01 R25). Keys: word t of vector register j is 16j+t; uniform register i is 3072+i; predicate p of thread t is 3200+16p+t. -/
structure RegWr where
  vis : Nat
  key : Nat
  val : Word
  made : Nat
  deriving DecidableEq, Repr

/-- A residual entry (02 R59). -/
structure Entry where
  inst : Slot
  pc : Pc
  exm : Mask
  /-- The captured active mask; none when PCAP is 0. -/
  actm : Option Mask
  ord : Bool
  /-- CAUSE bits. -/
  cause : Nat
  seq : Nat
  gen : Nat
  /-- Captured uniform sources at positions A, B, C. -/
  ucap : List (Option Dword)
  /-- Captured vector lines: position 0-5 (A, A+1, B, B+1, C, C+1) with their 16 words. -/
  lines : Assoc Nat (List Word)
  /-- Locations that its capture tagged residual (02 R44), in the numbering of 17 R333. -/
  tags : List Nat
  /-- The region start that this entry makes when it drains (17 R352). -/
  snap : List ThreadRec
  /-- A zero field of its record was found nonzero when the strand was restored (02 R59). -/
  bad : Bool := false
  deriving DecidableEq, Repr

/-- State of a watch slot (14 R298). -/
inductive WSt where
  | disarmed | arming | armed | satisfied
  deriving DecidableEq, Repr

/-- One of the four watch slots of a strand (14 R298, 17 R333). -/
structure Watch where
  st : WSt := .disarmed
  evicted : Bool := false
  resumed : Bool := false
  backinv : Bool := false
  cmp : BitVec 2 := 0
  ty : Ty := .i32
  exp : Dword := 0
  mask : Dword := 0
  va : Nat := 0
  /-- Which arm the slot holds, so that messages of an earlier one are discarded (14 R298). -/
  arm : Nat := 0
  /-- Armed at a near-memory or host-homed word: the snare takes its DOZE for live (14 R307). -/
  outside : Bool := false
  /-- Writes that happen before the one that satisfied it, where that is a release towards the strand (14 R302). -/
  brings : List Nat := []
  deriving DecidableEq, Repr

/-- A shared range a strand maps (01 R34, 17 R334). -/
structure Shr where
  first : Nat
  cnt : Nat
  key : Nat
  rid : Nat
  deriving DecidableEq, Repr

/-- A fault as it is reported: cause code (17 R346), address, lowest thread, DETAIL. -/
structure Flt where
  cause : Nat
  addr : Nat := 0
  lowt : Nat := 0
  detail : BitVec 256 := 0
  deriving DecidableEq, Repr

/-- Where a strand stands (17 R337, R344, R351; 01 R18). -/
inductive Status where
  | resident | saved | ended
  deriving DecidableEq, Repr

/-- A release that has been applied at a location: where, by which strand, at which scopes and in which band, and the writes that
happen before it and were not performed everywhere when it was issued (10 R251, R252). -/
structure Sync where
  addr : Nat
  size : Nat
  strand : Nat
  scopes : List Scope
  band : Option Nat
  before : List Nat
  deriving DecidableEq, Repr

/-- An unfinished fence: its ORD and scope, and the operations and messages it waits for (08 R203). -/
structure Fence where
  ord : BitVec 2
  scope : Scope
  waits : List Nat
  deriving DecidableEq, Repr

/-- One strand with everything of its context image (01 R12, R13; 17 R333, R334). -/
structure Strand where
  ctx : CtxId
  launch : Nat
  sid : Nat
  tile : Nat
  lane : Nat
  slot : Nat
  gen : Nat
  vregs : Nat
  uregs : Nat
  status : Status := .resident
  threads : List Thread
  regs : List RegWr := []
  /-- Counts of d0-d11 (01 R23). -/
  flags : List Nat := [0, 0, 0, 0, 0, 0, 0, 0, 0, 0, 0, 0]
  /-- Pending counts by location (02 R44): vector line j is j, uniform i is 192+i, predicate k is 239+k (17 R333). -/
  pend : Assoc Nat Nat := []
  /-- Fixed-latency completions to come: cycle and flag (01 R23). -/
  timers : List (Nat × Nat) := []
  /-- Residual tags that last beyond their entry's drain: cycle of clearing and location (02 R44). -/
  rtags : List (Nat × Nat) := []
  ents : List Entry := []
  seq : Nat := 0
  win : Bool := false
  modew : Word
  /-- Memberships in order of joining: keys (13 R283). -/
  bands : List Nat := []
  /-- Queue-port bindings: port to (tile, queue) (01 R37). -/
  qpb : Assoc Nat (Nat × Nat) := []
  shr : List Shr := []
  watch : List Watch := [{}, {}, {}, {}]
  /-- Idempotent region start (07 R164, 17 R352). -/
  region : List ThreadRec := []
  /-- A trap frame is outstanding (07 R168). -/
  framed : Bool := false
  /-- The cycle of handler entry, and the transactions of the threads parked then. -/
  frameAt : Nat := 0
  frameTx : List Nat := []
  /-- The threads that had exited at handler entry, and what a branch parked then waited for (07 R168, 02 R51). -/
  frameEx : List Nat := []
  frameLocs : List Nat := []
  /-- The handler was entered for a fault of the oldest entry, which drains again after TRET (02 R56). -/
  entHeld : Bool := false
  /-- Barrier phases whose completion reached the lane while the handler held their threads, or the raised line the strand (07 R167,
  13 R293, 17 R344): key and phase. -/
  recorded : List (Nat × Nat) := []
  priv : Bool := false
  hold : Bool := false
  det : Bool := false
  knell : Bool := false
  tvec : Pc := 0
  tcause : Word := 0
  tmask : Mask := 0
  repl : Bool := false
  /-- Last cycle of the previous issue (01 R24); first cycle of it, or the cycle it became resident in (01 R27). -/
  lastE : Option Nat := none
  lastS : Nat
  /-- The second slot of a pair may be performed in this cycle beside the datapath (04 R88). -/
  pairAt : Option (Nat × Pc) := none
  /-- The image's 48 KiB as they were last written (17 R333), by offset, and the stop record (17 R345). -/
  image : List Host.Cell := []
  stopRec : BitVec 1024 := 0
  /-- The cycle in which it raised, or would have raised, the line (17 R350). -/
  stopAt : Option Nat := none
  /-- The unit has written its record for the raised line (17 R344). -/
  stopped : Bool := false
  /-- This strand raised the line and may enter its handler: TCAUSE kind and code, and the threads (17 R348). -/
  orig : Option (Nat × Nat × Mask) := none
  /-- It entered its handler under the raised line, and so issues while the line is raised (17 R344). -/
  inLine : Bool := false
  /-- It has entered its handler for its slice's budget (16 R328). -/
  trapped : Bool := false
  /-- What a strand parked at a branch waits for: locations (02 R51). -/
  waitLocs : List Nat := []
  /-- Arms sent anew at resumption and not acknowledged (14 R305). -/
  rearms : List Nat := []
  /-- ENTRY has been checked (04 R85). -/
  begun : Bool := false
  /-- Writes of other strands that its reads returned or that happen before it (10 R251, R252), each with the operation that read
  it, 0 where none is on its way. -/
  seen : List (Nat × Nat) := []
  /-- Releases that its reads returned without being acquires of them: an acquire fence takes them in (10 R250, R252). -/
  heard : List Sync := []
  /-- Scopes of the release fences since its last write: with the next write they are releases (10 R251). -/
  relFences : List Scope := []
  /-- Unfinished fences by transaction (08 R203). -/
  fences : Assoc Nat Fence := []
  /-- How many FENCEs stand before its later operations (11 R265). -/
  fenced : Nat := 0
  /-- The transaction that holds its next issue (07 R173, R185; 08 R206; 09 R215). -/
  holdTxn : Option Nat := none
  /-- A return-stack spill or fill in progress (07 R161). -/
  stackBusy : Bool := false
  /-- Commands placed and not complete: the bit of their queue in a QFENCE mask, with their number (09 R234). -/
  placed : List (Nat × Nat) := []
  /-- QFENCE masks in force with the commands they wait for (09 R234). -/
  qfences : List (Nat × List Nat) := []
  deriving DecidableEq, Repr

/-- A long-latency instruction that has issued (01 R23): its flag, its pending locations and what it still waits for. -/
structure Txn where
  strand : Nat
  gen : Nat
  flag : Option Nat
  locs : List Nat
  left : Nat
  dst : Opd := .zero
  act : List Nat := []
  pc : Pc := 0
  /-- The executing threads, for a fault that puts the PCs back (07 R173). -/
  exm : List Nat := []
  /-- The lane and the slot that its strand issued it in, whose generation its writes carry (01 R33). -/
  place : Option (LaneId × Nat) := none
  /-- The region start before it, and the entry that it drained from: what a fault found at a table puts back (07 R173, 02 R55). -/
  region : List ThreadRec := []
  ent : Option Entry := none
  deriving DecidableEq, Repr

/-! ## Lanes and tiles -/

/-- A register line in a lane's cache (01 R30): line j of a strand; uniform line i is 192+i. -/
structure HeldLine where
  strand : Nat
  line : Nat
  modified : Bool := false
  evictable : Bool := false
  used : Nat := 0
  /-- Pinned before this cycle: an instruction that names it is in the datapath. -/
  pin : Nat := 0
  deriving DecidableEq, Repr

/-- A fetched line of a launch (04 R81-R83); `bad` when a whole-line check failed. -/
structure FetchLine where
  launch : Nat
  va : Nat
  data : Line
  bad : Bool
  /-- Where it was fetched from: its key in memory. -/
  key : Nat := 0
  deriving DecidableEq, Repr

/-- A shared register range of a band on a lane (01 R34-R36). -/
structure Range where
  launch : Nat
  key : Nat
  rid : Nat
  cnt : Nat
  regs : List RegWr := []
  /-- Words that are not empty: the cycle in which they are full (01 R36). -/
  full : Assoc Nat Nat := []
  deriving DecidableEq, Repr

structure Lane where
  /-- The first cycle in which its datapath is free again, and the launch whose strand holds it until then (01 R24, 16 R331). -/
  busy : Nat := 0
  holder : Nat := 0
  lines : List HeldLine := []
  buf : List FetchLine := []
  gens : List Nat := [0, 0, 0, 0, 0, 0, 0, 0]
  ranges : List Range := []
  deriving DecidableEq, Repr

/-- A leaf in a translation cache (17 R338, R340). -/
structure TlbE where
  ctx : CtxId
  va : Nat
  log : Nat
  leaf : Dword
  deriving DecidableEq, Repr

/-- A table entry in a compute die's walk cache (17 R338): the entry that a walk of a context found at the level that is indexed
from bit `sh` on. -/
structure WalkE where
  ctx : CtxId
  sh : Nat
  va : Nat
  entry : Dword
  deriving DecidableEq, Repr

/-- A copy of a line in a tile cache (10 R242, R260). -/
structure Copy where
  data : Line
  modified : Bool := false
  /-- Allocated at the lowest retention: it leaves before others (08 R194). -/
  low : Bool := false
  deriving DecidableEq, Repr

structure Tile where
  tlb : List TlbE := []
  copies : Assoc Nat Copy := []
  deriving DecidableEq, Repr

/-! ## What a context owns on a tile -/

/-- Buffer states in BQRY's codes 1-5 (08 R210). -/
inductive BufSt where
  | empty | filling | full | draining | stationary
  deriving DecidableEq, Repr

/-- A request to a buffer table (08 R208, R209). -/
inductive BufReq where
  | set (st : BufSt)
  | brel
  | stat
  | unstat
  deriving DecidableEq, Repr

/-- A declared buffer (08 R206-R212). -/
structure Buf where
  base : Nat
  size : Nat
  st : BufSt
  ring : Bool := false
  /-- An UNSTAT has reached the table and waits for accepted tasks (12 R278). -/
  unstat : Bool := false
  deriving DecidableEq, Repr

inductive SlotSt where
  | free | open_ | sealed_ | releasing
  deriving DecidableEq, Repr

/-- An operand slot (09 R216). -/
structure OSlot where
  st : SlotSt := .free
  ring : Bool := false
  blocks : Assoc Nat Line := []
  /-- RELEASING: the tasks accepted before the release that name it (09 R217). -/
  before : List Nat := []
  deriving DecidableEq, Repr

/-- An accumulator tile (09 R224): kind 0 FP40, 1 INT40 wrapping, 2 INT40 saturating; absent elements are 0. -/
structure Acc where
  kind : Nat := 0
  els : Assoc Nat (BitVec 40) := []
  shadow : Option (Assoc Nat (BitVec 40)) := none
  deriving DecidableEq, Repr

/-- What an item of a task queue does (09 R221). -/
inductive TKind where
  | task (rcd : Line) (spec : Bool)
  | accz (kind : Nat)
  | accwr (ty : Ty) (c0 n : Nat) (data : List (List Word))
  | accrd (ty : Ty) (rm : RMode) (sat sh : Bool) (c0 n : Nat)
  | acccmt
  | accdsc
  | twait
  | twaitAll
  | orels (slot : Nat)
  deriving DecidableEq, Repr

/-- An item of a task queue (09 R221) with its transaction and, for a task that runs, the next segment (17 R354). -/
structure TItem where
  txn : Nat
  strand : Nat
  pc : Pc
  /-- The accumulator tile it names; none for TWAIT.all and ORELS. -/
  acc : Option Nat
  kind : TKind
  running : Bool := false
  seg : Nat := 0
  /-- The accumulator as it stood when a task with a closed shadow began (17 R354). -/
  ckpt : Option (Assoc Nat (BitVec 40)) := none
  /-- A segment's residue mismatched: it is computed again after the self-test (18 R362). -/
  retest : Bool := false
  /-- A fault keeps it at the head of its order until the line clears (17 R349). -/
  stuck : Bool := false
  /-- The speculative task is to stop at its next segment boundary (09 R227). -/
  drop : Bool := false
  /-- Accepted after an UNSTAT of its buffer had reached the table (12 R278). -/
  late : Bool := false
  /-- What its release condition waits for (10 R256). -/
  rel : List Nat := []
  deriving DecidableEq, Repr

/-- A ring of a stream engine (09 R231-R233). -/
structure Ring where
  fill : Bool
  slots : Bool
  layNo : Nat
  lay : Line
  first : Nat
  n : Nat
  total : Nat
  strand : Nat
  pc : Pc
  /-- The lowest active thread of the instruction that bound it. -/
  lowt : Nat := 0
  /-- The number under which QFENCE waits for it (09 R234). -/
  txn : Nat
  /-- Transfers done, entries signalled, and for a fill ring the releases that have freed their entry. -/
  done : Nat := 0
  signalled : Nat := 0
  freed : Nat := 0
  /-- Transfer `done` is moving data. -/
  moving : Bool := false
  /-- A fault stopped it, or a page fault paused it until REPLAY. -/
  stopped : Bool := false
  paused : Bool := false
  /-- A drain's transfer has written memory; its writes that are not performed yet. -/
  wrote : Bool := false
  waits : List Nat := []
  deriving DecidableEq, Repr

/-- A command in an engine's queue (09 R230, R231); a binding waits for the operations of its release condition (10 R256),
and `rid` is the number its ring will have. -/
inductive ECmd where
  | slay (txn strand : Nat) (pc : Pc) (lay : Nat) (rcd : Line)
  | bind (txn strand : Nat) (pc : Pc) (fill slots : Bool) (ring lay first n total rid : Nat) (rel : List Nat)
  deriving DecidableEq, Repr

structure Engine where
  lays : Assoc Nat Line := []
  rings : Assoc Nat Ring := []
  cq : List ECmd := []
  deriving DecidableEq, Repr

/-- What a context owns on one tile (13 R284). -/
structure TCtx where
  queues : Assoc Nat (List Word) := []
  bufs : Assoc Nat Buf := []
  slots : Assoc Nat OSlot := []
  accs : Assoc Nat Acc := []
  tq : List TItem := []
  engines : Assoc Nat Engine := []
  /-- Places of the task queue promised to commands on their way (09 R221). -/
  promised : Nat := 0
  deriving DecidableEq, Repr

/-! ## Memory operations -/

/-- How far an operation has come (10 R240). -/
inductive Stage where
  | mesh | queued | applied
  deriving DecidableEq, Repr

/-- A memory operation of a strand (10 R240), until it is performed and has returned. `opr` is the operator code of 08 R201. -/
structure Op where
  txn : Nat
  strand : Nat
  gen : Nat
  ctx : CtxId
  tile : Nat
  thread : Nat
  pc : Pc
  va : Nat
  addr : Nat
  home : Home
  size : Nat
  ty : Ty
  opr : Nat
  val : BitVec 512 := 0
  exp : Dword := 0
  /-- It returns a value; none of it has returned yet. -/
  fetch : Bool := false
  ret : Bool := false
  fixed : Bool := false
  /-- LDB or STB, whose typed form checks the header (08 R198). -/
  block : Bool := false
  /-- The tile keeps a copy of the line it reads, and whether at the lowest retention (08 R194). -/
  alloc : Bool := false
  low : Bool := false
  /-- The table generation it carries (08 R204). -/
  agen : Nat := 0
  acq : Bool := false
  /-- It is a release, at this scope (10 R245, R251). -/
  rel : Bool := false
  scope : Scope := .pkg
  /-- The scopes at which it releases, its own and those of fences before it; the band of its strand; and the writes that happen
  before it and were not performed everywhere as it left (10 R251, R252). -/
  rels : List Scope := []
  band : Option Nat := none
  before : List Nat := []
  /-- ATOM, RED or CAS. -/
  atom : Bool := false
  /-- To a page with SHB, under the mallet (15 R316, R317). -/
  shb : Bool := false
  /-- How many FENCEs of its strand stand before it (11 R265). -/
  fenced : Nat := 0
  /-- The destination register, or none. -/
  dst : Opd := .zero
  stage : Stage := .mesh
  /-- Tiles whose invalidation is not acknowledged, and the number under which the home sent it where that is another's: a
  component of a composite, or an absorbed write, waits for the invalidations of the write applied (11 R270). -/
  acks : List TileId := []
  lead : Nat := 0
  deriving DecidableEq, Repr

/-- What one queue entry applies: an operation, or a composite with its own operator and operand (11 R266, R270). -/
inductive QOp where
  | one (id opr : Nat) (val : BitVec 512) (exp : Dword)
  | comp (opr : Nat) (val : BitVec 512) (e l : QOp)
  deriving DecidableEq, Repr

/-- An entry of a pending-operation queue (11 R262). A watch arm is a fixed read (14 R299). -/
structure QEnt where
  op : QOp
  /-- A watch arm: strand, slot, and the number of the arm. -/
  arm : Option (Nat × Nat × Nat) := none
  addr : Nat
  size : Nat
  ty : Ty
  fetch : Bool
  fixed : Bool
  ctx : CtxId
  agen : Nat
  /-- The strands of its components, with how many FENCEs of theirs stand before it (11 R265). -/
  strands : List (Nat × Nat)
  /-- A component carries acquire or release order (10 R254). -/
  sync : Bool
  /-- Operations that it absorbed: they are performed when its own write is (11 R266). -/
  also : List Nat := []
  deriving DecidableEq, Repr

/-- An entry of a wait-on-address table (14 R297). `strand` is none in a launch scheduler's reserved entry. -/
structure WEntry where
  strand : Option Nat
  slot : Nat
  arm : Nat
  part : PartId
  addr : Nat
  size : Nat
  ty : Ty
  cmp : BitVec 2
  exp : Dword
  mask : Dword
  deriving DecidableEq, Repr

structure HomeSt where
  queue : List QEnt := []
  table : List WEntry := []
  /-- Reserved entries: partition and launch queue (14 R297). -/
  reserved : List (PartId × Nat) := []
  /-- How many wake messages it has sent, modulo 2^32 (18 R369). -/
  sseq : Nat := 0
  deriving DecidableEq, Repr

/-- A barrier message (13 R287): n arrivals, or a BARI or BARQ. An arrival carries the writes that happen before it and are not
performed everywhere (13 R291). -/
inductive BarKind where
  | bari (count : Nat) (dom : Bool)
  | bard (before : List Nat)
  | bara (answer : Bool) (before : List Nat)
  | barw (before : List Nat)
  | barq
  deriving DecidableEq, Repr

/-- A collective command on its way to its destination (09 R235, R237), with the source elements it read. -/
structure Coll where
  txn : Nat
  strand : Nat
  pc : Pc
  ctx : CtxId
  rcd : Line
  /-- Command number in its queue, counted for CHAIN and EWAIT.coll. -/
  no : Nat
  /-- The command before it in its queue, 0 for none. -/
  prev : Nat := 0
  started : Bool := false
  /-- A page fault pauses it until REPLAY (17 R343); a fault holds it until that partition's line is cleared (17 R349). -/
  paused : Bool := false
  stuck : Option PartId := none
  /-- Bits of the source elements, in ascending order. -/
  src : List (BitVec 32) := []
  /-- Cycle of the first refusal at a region that is not set (15 R311). -/
  refusedAt : Option Nat := none
  /-- Operations that its release condition waits for (10 R256). -/
  rel : List Nat := []
  deriving DecidableEq, Repr

/-! ## Launches -/

/-- A band key of a launch with its barrier record (13 R282, R286). -/
structure Band where
  inc : Nat := 0
  members : List Nat := []
  bid : Nat := 0
  phase : Nat := 0
  drop : Nat := 0
  count : Nat := 0
  exp : Nat := 0
  dom : Bool := false
  /-- EXP and DOM as they were before a BARI.dom that its counter has not answered, by its transaction (13 R294). -/
  asked : Assoc Nat (Nat × Bool) := []
  /-- What happens before the arrivals of the current phase, and before those of completed phases (13 R291). -/
  before : List Nat := []
  past : List Nat := []
  /-- The cycle in which its home applied the last message, and that message's place in the cycle's order (13 R288). -/
  lastAt : Nat := 0
  lastBy : Nat := 0
  deriving DecidableEq, Repr

/-- A domain counter (13 R294). -/
structure DomCtr where
  exp : Nat := 0
  count : Nat := 0
  drop : Nat := 0
  phase : Nat := 0
  /-- A BARI.dom has set EXP in the current phase. -/
  setIn : Bool := false
  /-- What happens before the arrivals of the current phase (13 R291). -/
  before : List Nat := []
  users : List BarId := []
  /-- The tick in which it applied the last message, and that message's place in the order (13 R288). -/
  lastAt : Nat := 0
  lastBy : Nat := 0
  deriving DecidableEq, Repr

/-- How a job slice stands (16 R327-R329). -/
inductive LSt where
  | taken | creating | running | retired | byBudget
  deriving DecidableEq, Repr

/-- A compute launch or a node of a graph: a job slice (16 R322, R327). -/
structure Launch where
  ctx : CtxId
  queue : Nat
  rcd : BitVec 1024
  /-- The graph it is a node of, and its index. -/
  node : Option (Nat × Nat) := none
  st : LSt := .creating
  nextSid : Nat := 0
  live : List Nat := []
  started : Option Nat := none
  used : Nat := 0
  grace : Option Nat := none
  knell : Option Nat := none
  bands : Assoc Nat Band := []
  mallet : Option Nat := none
  /-- Writes that its completion record, and then its events, follow (16 R330). -/
  waits : List Nat := []
  /-- The completion record still to be written; one that could not be written (16 R330). -/
  record : Option (BitVec 256) := none
  lost : Bool := false
  /-- Profile counters of each tile (16 R331): LBUSY, LIDLE, MBUSY, EBUSY. -/
  prof : Assoc Nat (Nat × Nat × Nat × Nat) := []
  deriving DecidableEq, Repr

/-- A running graph (16 R329). -/
structure Graph where
  ctx : CtxId
  queue : Nat
  rcd : BitVec 1024
  nodes : List (BitVec 1024)
  began : List Nat := []
  retired : List Nat := []
  miss : Bool := false
  start : Option Nat := none
  ended : Option Nat := none
  /-- Writes of its nodes' profile entries that are not performed. -/
  waits : List Nat := []
  deriving DecidableEq, Repr

/-! ## Contexts, partitions, packages -/

/-- A region record of the collective engine (09 R237). -/
structure Region where
  ctx : CtxId
  base : Nat
  len : Nat
  bf16 : Bool
  next : Nat
  paused : Bool := false
  /-- Writes of commands applied to it that are not performed (10 R257). -/
  waits : List Nat := []
  /-- The context that owns it has ended (17 R358): none of its addresses is translated any more. -/
  gone : Bool := false
  deriving DecidableEq, Repr

/-- A context (17 R356, R357; 16 R326). `st` is CTXCTL.STATE. -/
structure Ctx where
  st : Nat := 1
  kcnt : Nat := 30000
  dest : Nat := 0
  refd : Bool := false
  before : Nat := 1
  root : Nat := 0
  table : BitVec 1024 := 0
  gen : Nat := 0
  olds : Assoc Nat (BitVec 1024) := []
  /-- CTXST.DET of later launches, and the default rounding (16 R326). -/
  det : Bool := false
  drnd : Nat := 0
  snare : Nat := 0
  knell : Option Nat := none
  /-- After a MOVE the save goes on to another partition. -/
  moving : Bool := false
  /-- Collective commands that have not started, held while saved (17 R357). -/
  held : List (Nat × Coll) := []
  /-- While it is saved: the lines of its declared buffers, by tile and offset, and the stop records of its partition's units other
  than strands (17 R344, R357). -/
  bytes : Assoc (Nat × Nat) Line := []
  stops : Assoc UnitId (BitVec 1024) := []
  deriving DecidableEq, Repr

/-- A reservation (07 R185, 17 R358). -/
structure Resv where
  ctx : CtxId
  key : BitVec 128
  start : BitVec 128
  len : Nat
  deriving DecidableEq, Repr

/-- A repairable unit (18 R364): a selector, with the partition that its tile is relative to. -/
structure RUnit where
  part : Option PartId
  sel : Word
  deriving DecidableEq, Repr

/-- An error record (18 R367). -/
structure ErrRec where
  detail : Nat
  addr : Nat
  cons : Nat
  sseq : Nat
  unit : Word
  time : Nat
  result : Nat
  action : Nat
  cls : Nat
  deriving DecidableEq, Repr

structure Log where
  recs : List ErrRec := []
  lost : Nat := 0
  deriving DecidableEq, Repr

/-- The counters of 18 R370. -/
structure Counters where
  ce : Nat := 0
  ue : Nat := 0
  rt : Nat := 0
  st : Nat := 0
  lst : Nat := 0
  deriving DecidableEq, Repr

/-- A partition (16 R319). -/
structure Part where
  gran : List Nat := []
  /-- The gong line: raised with its cause (17 R344). -/
  line : Option Nat := none
  /-- The cycle in which it was raised, and by which unit; none for the host, the fabric and the snare (17 R350). -/
  lineAt : Nat := 0
  lineBy : Option UnitId := none
  /-- Strands whose fault raised the line and that have not entered their handler (17 R348). -/
  originators : List Nat := []
  queues : Assoc Nat (BitVec 128) := []
  /-- Queues served by reading their tail word (14 R297). -/
  polled : List Nat := []
  events : List (Nat × Nat) := []
  irq : Bool := false
  rngst : BitVec 2 := 0
  resv : List Resv := []
  cqs : Assoc Nat (List Coll) := []
  cqNo : Nat := 0
  regions : Assoc Nat Region := []
  /-- Commands ahead of their turn at this package's regions (15 R311): issuing partition and queue, command. -/
  held : List (PartId × Nat × Coll) := []
  group : Option Nat := none
  log : Log := {}
  ctrs : Counters := {}
  /-- Of each unit of the partition, how many events it has reported, modulo 2^32 (18 R369). -/
  sseqs : Assoc UnitId Nat := []
  pshare : Nat := 0
  /-- Stop records of units that are no strand (17 R344, R345). -/
  recs : Assoc UnitId (BitVec 1024) := []
  /-- The units that have written their record for the raised line, strands apart (17 R344). -/
  quiet : List UnitId := []
  /-- Cycles its lanes skip because of PSHARE (19 R384). -/
  skip : Bool := false
  deriving DecidableEq, Repr

/-- A flit of 256 bytes (19 R376): header, 240 bytes of payload, CRC. -/
structure Flit where
  hdr : BitVec 64
  payload : List Byte
  crc : BitVec 64
  deriving DecidableEq, Repr

/-- A fabric port's virtual channel (19 R377, R378). -/
structure VChan where
  next : Nat := 0
  expect : Nat := 0
  replay : List Flit := []
  /-- A NACK was received: from which flit on to send again, and the cycle from which it may be. -/
  resend : Option (Nat × Nat) := none
  /-- Data flits are discarded until the refused one arrives again. -/
  refusing : Bool := false
  /-- NACKs for a failed CRC in a row that name one flit, and its SEQ. -/
  crcNacks : Nat := 0
  crcSeq : Nat := 0
  delivered : List (List Byte) := []
  deriving DecidableEq, Repr

/-- Data lanes and spare lanes of one direction of a link (19 R375). -/
structure Dir where
  lanes : Nat := 16
  spares : Nat := 2
  deriving DecidableEq, Repr

/-- A fabric port (19 R375-R380): its two directions among the rest. -/
structure Port where
  up : Bool := false
  version : Nat := 0
  dirs : List Dir := [{}, {}]
  retries : Nat := 0
  vcs : Assoc Nat VChan := []
  /-- Flits sent, oldest first. -/
  sent : List Flit := []
  deriving DecidableEq, Repr

/-- Firmware (19 R382). -/
structure Fw where
  /-- The running image. -/
  image : FwImage := { keyDigest := 0, imageDigest := 0, signature := 0, secVersion := 0 }
  rollback : Nat := 0
  /-- Further images that Solstice has verified and loaded. -/
  loaded : List FwImage := []
  staged : Option FwImage := none
  recovery : Bool := false
  deriving DecidableEq, Repr

/-- An attestation response (19 R383): its nonce, its fields, the signature over them, the certificate chain. -/
structure Attest where
  nonce : BitVec 256
  fields : List Nat
  signature : Nat
  chain : List (List Byte)
  deriving DecidableEq, Repr

/-- A package (19). -/
structure Pkg where
  /-- Bring-up step reached (19 R386). -/
  stepNo : Nat := 6
  rank : Nat := 0
  inDomain : Bool := false
  /-- Its switches name a fabric manager (19 R379). -/
  managed : Bool := false
  /-- Lanes of the host link: 16, or 8 after a lane failure (19 R371, R375). -/
  hostLanes : Nat := 16
  vers : BitVec 64
  feat : Word
  pcap : BitVec 64
  energy : Nat := 0
  temp : Nat := 0
  mhz : Nat := 3000
  /-- Arithmetic cycles, and the part of one that has passed, in units of 1/3,000 (19 R384). -/
  cyc : Nat := 0
  frac : Nat := 0
  powered : Bool := true
  /-- The time from which the compute dies lose power (19 R385). -/
  offAt : Option Nat := none
  log : Log := {}
  ctrs : Counters := {}
  events : List (Nat × Nat) := []
  ports : Assoc Nat Port := []
  fw : Fw := {}
  /-- Attestation responses sent (19 R383). -/
  attest : List Attest := []
  /-- Units that reported errors, with the times (18 R365). A unit of a tile is named here and below by its tile of the package, 4g+d for
  tile g of die d, so that it stays the same unit whichever partition has it. -/
  history : List (RUnit × Nat) := []
  /-- Units out of use, spares used, and the tests that run (18 R366). -/
  outOfUse : List RUnit := []
  spares : Assoc RUnit Nat := []
  /-- Die-to-die links that run at a reduced width. -/
  narrow : List RUnit := []
  sseq : Assoc RUnit Nat := []
  /-- Watch entries of host-homed lines with a shared copy (14 R304). -/
  hostCopies : List Nat := []
  deriving DecidableEq, Repr

/-- What an EWAIT waits for (09 R238). -/
inductive EWait where
  | ready (tc : TileCtx) (eng ring : Nat)
  | done (tc : TileCtx) (eng ring : Nat)
  | coll (ids : List Nat)
  | seq (part : PartId) (region w : Nat)
  deriving DecidableEq, Repr

/-- A message on its way (the number that an event names), or a condition that an instruction waits for. -/
inductive Msg where
  | result (txn op : Nat) (writes : List (Nat × Word))
  | arm (strand slot arm va : Nat) (addr : Nat) (home : Home)
  | armAck (strand slot arm : Nat) (satisfied refused again : Bool) (flt : Flt) (home : Home)
  | wake (strand slot arm op : Nat) (home : Home)
  | evict (strand slot arm : Nat) (home : Home)
  | disarm (txn : Nat) (strand slot arm : Nat)
  | inval (op : Nat) (tile : TileId) (line : Nat)
  | ack (op : Nat) (tile : TileId)
  | fill (tile : TileId) (line : Nat) (strand : Option Nat) (low : Bool)
  | writeback (txn : Nat) (tile : TileId) (line : Nat) (drop : Bool)
  | faultReport (strand : Nat) (pc : Pc) (flt : Flt) (txn : Nat)
  | bar (b : BarId) (txn strand n : Nat) (kind : BarKind) (pc : Pc) (lowt : Nat) (bid : Nat)
  | barAns (txn : Nat) (val : Word) (band : Bool)
  | barRel (strand key phase : Nat) (before : List Nat)
  | barRefuse (strand : Nat) (pc : Pc) (flt : Flt)
  | dom (ctr : Nat) (b : BarId) (txn strand n : Nat) (kind : BarKind) (pc : Pc) (lowt : Nat) (bid : Nat)
  | domPhase (ctr : Nat) (b : BarId) (phase exp : Nat) (before : List Nat)
  | bufReq (txn strand : Nat) (tc : TileCtx) (buf : Nat) (req : BufReq)
  | oput (txn strand : Nat) (pc : Pc) (tc : TileCtx) (slot blk : Nat) (data : Option Line) (seal_ : Bool)
  | tqItem (tc : TileCtx) (item : TItem)
  | ssig (txn strand : Nat) (pc : Pc) (tc : TileCtx) (eng ring : Nat) (full : Bool) (waits : List Nat)
  | coll (part : PartId) (q : Nat) (cmd : Coll)
  | collAck (part : PartId) (q : Nat) (no : Nat) (waits : List Nat) (src : Nat)
  | ewait (txn strand : Nat) (cond : EWait)
  | qwait (txn strand : Nat) (ids : List Nat)
  | move (c : CtxId) (dest : Nat) (slot : Nat)
  | selfTest (pkg : Nat) (unit : RUnit) (txns : List (Nat × Opd)) (dets : List (List PartId × ErrRec)) (since : Nat)
  deriving DecidableEq, Repr

/-- Whose turn is next: one given event, the scheduler of a lane, or what the default order of Turns.lean chooses. -/
inductive Turn where
  | event (i : Instr)
  | lane (l : LaneId)
  | run
  deriving DecidableEq, Repr

/-- What an error may stand in (18 R360): a protected 64-byte word of memory by its key, of a register line, of a tile's copy, of an
operand slot, of an accumulator tile or of its shadow; or a flit on a lane of a die-to-die link of a package. -/
inductive Site where
  | word (key : Nat)
  | reg (strand line : Nat)
  | copy (tile : TileId) (line : Nat)
  | slot (tc : TileCtx) (slot blk : Nat)
  | acc (tc : TileCtx) (acc : Nat)
  | shadow (tc : TileCtx) (acc : Nat)
  | link (pkg link lane : Nat)
  deriving DecidableEq, Repr

/-- An error that the next read of the word, or the next flit on the link, meets (18 R362): in a word of one bit, or of two. -/
structure Latent where
  site : Site
  double : Bool
  deriving DecidableEq, Repr

/-! ## The machine -/

/-- The whole machine: one load-store domain with its packages. `agenda`, `cur`, `fresh`, `uid` and `stores` are the model's
own fields (log entries 2, 3 and 5); everything else is the spec's. -/
structure State where
  /-- Package time in ticks (07 R187). -/
  clk : Nat
  /-- What happens next; empty: the default order of Turns.lean. -/
  agenda : List Turn
  /-- The strand that a lane instruction acts for. -/
  cur : Nat
  /-- How many free values have been drawn. -/
  fresh : Nat
  /-- The last number given to a strand, launch, operation, message or transaction. -/
  uid : Nat
  /-- Memory bytes that differ from 0, by key: see Ops.lean. -/
  mem : List Host.Cell
  /-- Bytes the step in progress writes; empty between steps. -/
  stores : List Host.Cell
  strands : Assoc Nat Strand
  lanes : Assoc LaneId Lane
  tiles : Assoc TileId Tile
  /-- The walk caches: package and compute die (17 R338). -/
  walks : Assoc (Nat × Nat) (List WalkE)
  tctx : Assoc TileCtx TCtx
  homes : Assoc Home HomeSt
  ops : Assoc Nat Op
  /-- Releases that stand at their locations (10 R252). -/
  syncs : List Sync
  txns : Assoc Nat Txn
  msgs : Assoc Nat Msg
  launches : Assoc Nat Launch
  graphs : Assoc Nat Graph
  ctxs : Assoc CtxId Ctx
  parts : Assoc PartId Part
  pkgs : Assoc Nat Pkg
  domCtrs : Assoc Nat DomCtr
  /-- Domain groups: members (19 R379). -/
  groups : Assoc Nat (List PartId)
  latent : List Latent
  /-- Macros whose next segment has a wrong sum (18 R361). -/
  residues : List RUnit
  /-- The order in which host agents hold lines modified or shared: lines held by the host (10 R260, 19 R372). -/
  hostHeld : List Nat
  deriving DecidableEq, Repr

/-- A package after step 6 of a cold reset, outside any domain (19 R379, R381, R384, R386). -/
def Pkg.reset : Pkg where
  vers := 0x0001000400000201#64
  feat := 1#32
  pcap := 0x0000006400000640#64

/-- The machine after a cold reset of its one package: no partition exists, nothing is stored, nothing is in flight
(19 R386, 16 R319). Values that the spec does not give are named in log entries 1 and 10. -/
def State.reset : State where
  clk := 0
  agenda := []
  cur := 0
  fresh := 0
  uid := 0
  mem := []
  stores := []
  strands := []
  lanes := []
  tiles := []
  walks := []
  tctx := []
  homes := []
  ops := []
  syncs := []
  txns := []
  msgs := []
  launches := []
  graphs := []
  ctxs := []
  parts := []
  pkgs := [(0, Pkg.reset)]
  domCtrs := []
  groups := []
  latent := []
  residues := []
  hostHeld := []

/-! ## Reasons a step stops -/

/-- Faults of the model itself; every fault of the hardware is a next state. -/
inductive Fault where
  /-- Raised by the meaning of a lane instruction when `cur` names no strand: no run reaches it, since the step sets `cur`
  to a strand it has found. Safe: nothing happens where the hardware has no strand to act for. -/
  | noStrand
  deriving DecidableEq, Repr

/-- Refusals. -/
inductive Refusal where
  /-- Raised by an arm of Dispatch.lean that has no meaning yet. Safe: nothing is claimed of the instruction. -/
  | notModelled (mnemonic : String)
  deriving DecidableEq, Repr

end Sys2Proof.Machine
end

