-- ==== Sys2Proof/Machine/Ops.lean ====
section
/-! DEFINITION. The named operations over the state: maps, memory, registers, the halt line, stop records, taking an
exception and returning from one. -/

namespace Sys2Proof.Machine

/-! ## Maps -/

section maps
variable {κ β : Type} [DecidableEq κ]

def aget : Assoc κ β → κ → Option β
  | [], _ => none
  | p :: m, k => if p.1 = k then some p.2 else aget m k

/-- Replaces the value of a key, or adds it at the end. -/
def aput : Assoc κ β → κ → β → Assoc κ β
  | [], k, v => [(k, v)]
  | p :: m, k, v => if p.1 = k then (k, v) :: m else p :: aput m k v

def adel (m : Assoc κ β) (k : κ) : Assoc κ β := m.filter (fun p => !decide (p.1 = k))

def agetD (m : Assoc κ β) (k : κ) (d : β) : β := (aget m k).getD d
/-- Applies a function to the value of a key, a given one where it is absent. -/
def amodD (m : Assoc κ β) (k : κ) (d : β) (f : β → β) : Assoc κ β := aput m k (f (agetD m k d))
/-- Applies a function to the value of a key that is present. -/
def amod (m : Assoc κ β) (k : κ) (f : β → β) : Assoc κ β :=
  match aget m k with
  | some v => aput m k (f v)
  | none => m

end maps

/-- Element `i` of a list replaced. -/
def lset {β : Type} : List β → Nat → (β → β) → List β
  | [], _, _ => []
  | x :: xs, 0, f => f x :: xs
  | x :: xs, i + 1, f => x :: lset xs i f

/-! ## Memory

One sorted list holds every byte of memory. Keys: byte `a` of a package's 45-bit within-package space (17 R341) is
`pkg * 2 ^ 45 + a`; byte `o` of the slice of die `d` of granule `g` is `2 ^ 60 + ((pkg * 48 + g) * 4 + d) * 2 ^ 23 + o`; byte
`h` of the host's physical space is `2 ^ 62 + h`. A byte that is not listed reads 0 (12 R276 for slices; log entry 1). -/

/-- What an unlisted address reads as. -/
def memDefault : Byte := 0#8

def memGet : List Host.Cell → Nat → Byte
  | [], _ => memDefault
  | c :: m, a => if c.1 = a then c.2 else memGet m a

/-- One byte written, keeping the canonical form. -/
def memPut : List Host.Cell → Nat → Byte → List Host.Cell
  | [], a, b => if b = memDefault then [] else [(a, b)]
  | c :: m, a, b =>
    if a < c.1 then (if b = memDefault then c :: m else (a, b) :: c :: m)
    else if a = c.1 then (if b = memDefault then m else (a, b) :: m)
    else c :: memPut m a b

/-- The bytes of `l` written, its last element first. -/
def memPutAll (m : List Host.Cell) (l : List Host.Cell) : List Host.Cell :=
  l.foldr (fun c acc => memPut acc c.1 c.2) m

/-- Every address of the list is above `a`, in rising order, and no byte is the default. -/
def Memory.wfFrom : Option Nat → List Host.Cell → Bool
  | _, [] => true
  | lo, c :: m => (match lo with
      | none => true
      | some a => decide (a < c.1)) && c.2 != memDefault && Memory.wfFrom (some c.1) m

/-- The canonical form. -/
def Memory.wf (m : List Host.Cell) : Bool := Memory.wfFrom none m

/-- The bytes of a little-endian number at an address. -/
def cellsOf : Nat → Nat → Nat → List Host.Cell
  | 0, _, _ => []
  | n + 1, a, v => (a, BitVec.ofNat 8 v) :: cellsOf n (a + 1) (v / 256)

/-- A byte as the step in progress sees it: its own writes first. -/
def State.byte (s : State) (a : Nat) : Byte :=
  match s.stores.find? (fun c => c.1 == a) with
  | some c => c.2
  | none => memGet s.mem a

/-- The little-endian number in `n` bytes. -/
def State.read (s : State) : Nat → Nat → Nat
  | 0, _ => 0
  | n + 1, a => (s.byte a).toNat + 256 * State.read s n (a + 1)

/-- `n` bytes written. They reach `mem` when the step commits. -/
def State.write (s : State) (n a v : Nat) : State := { s with stores := cellsOf n a v ++ s.stores }

/-- The end of every step: what it wrote goes into the memory `m` that it started from. -/
def commit (m : List Host.Cell) (s : State) : State := { s with mem := memPutAll m s.stores, stores := [] }

def scratchBase : Nat := 2 ^ 60
def hostBase : Nat := 2 ^ 62
/-- DRAM and far memory are counted in decimal gigabytes (00_scope, units; R3). -/
def gb : Nat := 10 ^ 9

/-- The slice byte of a partition-relative tile (16 R319). -/
def scratchKey (pkg : Nat) (p : Part) (t o : Nat) : Nat :=
  scratchBase + ((pkg * 48 + p.gran.getD (t / 4) 0) * 4 + t % 4) * 2 ^ 23 + o

def devKey (pkg a : Nat) : Nat := pkg * 2 ^ 45 + a

/-- The home of a device physical address within its package (10 R387). -/
def devHome (pkg a : Nat) : Home :=
  if a < 2 ^ 43 then .near pkg (a / 64 % 8) (a / 512 % 512)
  else
    let f := a % 2 ^ 44
    if f < 4096 * gb then .lpddr pkg (f / 64 % 16) else .expander pkg ((f - 4096 * gb) / (3072 * gb))

/-- The home of a key. -/
def homeOf (part : PartId) (tileOf : Nat) (key : Nat) : Home :=
  if key < scratchBase then devHome (key / 2 ^ 45) (key % 2 ^ 45)
  else if key < hostBase then .slicePort ⟨part, tileOf⟩ (key / 64 % 8)
  else .hostLine part.pkg

def lineKey (key : Nat) : Nat := key / 64 * 64

/-! ## Parts of the state -/

def State.part (s : State) (p : PartId) : Part := agetD s.parts p {}
def State.modPart (s : State) (p : PartId) (f : Part → Part) : State := { s with parts := amod s.parts p f }
def State.ctx (s : State) (c : CtxId) : Ctx := agetD s.ctxs c { st := 0 }
def State.modCtx (s : State) (c : CtxId) (f : Ctx → Ctx) : State := { s with ctxs := amod s.ctxs c f }
def State.pkg (s : State) (n : Nat) : Pkg := agetD s.pkgs n Pkg.reset
def State.modPkg (s : State) (n : Nat) (f : Pkg → Pkg) : State := { s with pkgs := amod s.pkgs n f }
def State.strand (s : State) (k : Nat) : Option Strand := aget s.strands k
def State.modStrand (s : State) (k : Nat) (f : Strand → Strand) : State := { s with strands := amod s.strands k f }
def State.lane (s : State) (l : LaneId) : Lane := agetD s.lanes l {}
def State.modLane (s : State) (l : LaneId) (f : Lane → Lane) : State := { s with lanes := amodD s.lanes l {} f }
def State.tile (s : State) (t : TileId) : Tile := agetD s.tiles t {}
def State.modTile (s : State) (t : TileId) (f : Tile → Tile) : State := { s with tiles := amodD s.tiles t {} f }
def State.tc (s : State) (t : TileCtx) : TCtx := agetD s.tctx t {}
def State.modTc (s : State) (t : TileCtx) (f : TCtx → TCtx) : State := { s with tctx := amodD s.tctx t {} f }
def State.home (s : State) (h : Home) : HomeSt := agetD s.homes h {}
def State.modHome (s : State) (h : Home) (f : HomeSt → HomeSt) : State := { s with homes := amodD s.homes h {} f }
def State.modLaunch (s : State) (l : Nat) (f : Launch → Launch) : State := { s with launches := amod s.launches l f }
def State.modOp (s : State) (n : Nat) (f : Op → Op) : State := { s with ops := amod s.ops n f }
def State.modTxn (s : State) (n : Nat) (f : Txn → Txn) : State := { s with txns := amod s.txns n f }

/-- A new number, and the state in which it is taken. -/
def State.newId (s : State) : Nat × State := (s.uid + 1, { s with uid := s.uid + 1 })

/-- A message on its way. -/
def State.send (s : State) (m : Msg) : State := { s with uid := s.uid + 1, msgs := s.msgs ++ [(s.uid + 1, m)] }
def State.dropMsg (s : State) (n : Nat) : State := { s with msgs := adel s.msgs n }

def Strand.part (st : Strand) : PartId := st.ctx.part
def Strand.tileId (st : Strand) : TileId := ⟨st.ctx.part, st.tile⟩
def Strand.laneId (st : Strand) : LaneId := ⟨⟨st.ctx.part, st.tile⟩, st.lane⟩
def Strand.tc (st : Strand) : TileCtx := ⟨st.ctx, st.tile⟩

/-- The arithmetic cycle that a strand's lane is in (19 R384). -/
def State.cycle (s : State) (p : PartId) : Nat := (s.pkg p.pkg).cyc

def Part.tiles (p : Part) : Nat := 4 * p.gran.length

/-- An event record on a partition's event queue (07 R188, 17 R343). -/
def State.post (s : State) (p : PartId) (code data : Nat) : State :=
  s.modPart p (fun q => { q with events := q.events ++ [(code, data)] })

/-- A unit of a partition reports an event: its number for it rises, modulo 2^32 (18 R369). -/
def State.numbered (s : State) (p : PartId) (u : UnitId) : State :=
  s.modPart p (fun q => { q with sseqs := amodD q.sseqs u 0 (fun n => (n + 1) % 2 ^ 32) })

/-- The same for a record on the partition's event queue. -/
def State.postBy (s : State) (p : PartId) (u : UnitId) (code data : Nat) : State := (s.numbered p u).post p code data

/-- The lowest active thread of the instruction that a transaction stands for (08 R192, 09 R215). -/
def State.lowtOf (s : State) (txn : Nat) : Nat := match aget s.txns txn with
  | some t => t.act.headD 0
  | none => 0

/-- Applied, with every invalidation it caused acknowledged (10 R240, R242). -/
def Op.performed (o : Op) : Bool := o.stage == .applied && o.acks.isEmpty

/-- A store or an atomic, an ATOM with operator LOAD among them. -/
def Op.stores (o : Op) : Bool := o.opr != 0 || o.atom

/-! ## Fields of words -/

/-- A number at a bit position. -/
def at_ (v : Nat) (pos : Nat) : Nat := v * 2 ^ pos

def maskOf (ts : List Nat) : Mask := BitVec.ofNat 16 (ts.foldl (fun acc t => acc + 2 ^ t) 0)
def threadsOf (m : Mask) : List Nat := (List.range 16).filter (fun t => m.getLsbD t)

/-- next(pc) (04 R84). -/
def nextPc (pc : Pc) : Pc :=
  if (pc &&& 7#56).toNat < 4 then pc + 1#56 else (pc &&& ~~~0x3F#56) + 64#56

def linePc (pc : Pc) : Pc := pc &&& ~~~0x3F#56
def slotPc (pc : Pc) : Nat := (pc &&& 7#56).toNat

/-- LOC (07 R186) and the unit selector of a strand (17 R347). -/
def Strand.loc (st : Strand) : Nat := at_ st.tile 16 + at_ st.lane 3 + st.slot
def Strand.unit (st : Strand) : Nat := at_ st.tile 20 + at_ st.lane 14 + st.slot

def UnitId.selector (s : State) : UnitId → Nat
  | .strand k => match s.strand k with
    | some st => st.unit
    | none => 0
  | .sched t => at_ 1 28 + at_ t 20
  | .engine t e => at_ 2 28 + at_ t 20 + at_ e 11
  | .collective _ => at_ 3 28
  | .launcher => at_ 4 28

/-! ## Registers (01 R20-R25, R29) -/

def vecKey (j t : Nat) : Nat := 16 * j + t
def uniKey (i : Nat) : Nat := 3072 + i
def predKey (p t : Nat) : Nat := 3200 + 16 * p + t

/-- The register line of a location (02 R44): line j of the vector registers is j, uniform line i is 192+i (01 R29). -/
def lineOfLoc (loc : Nat) : Nat := if loc < 192 then loc else 192 + (loc - 192) / 16

/-- The register line of a register key; predicates have none. -/
def lineOfKey (key : Nat) : Option Nat :=
  if key < 3072 then some (key / 16) else if key < 3120 then some (192 + (key - 3072) / 16) else none

/-- The lane's cache holds a register line of a strand (01 R30). -/
def Lane.holds (l : Lane) (k line : Nat) : Bool := l.lines.any (fun h => h.strand == k && h.line == line)

/-- Where the word of a register key stands in an image (01 R29, 17 R333). -/
def imageOff (key : Nat) : Nat := if key < 3072 then 0x1000 + 4 * key else 0x400 + 4 * (key - 3072)

/-- The write to a key that a read in cycle `x` returns: of those visible then the one made latest; of two made in one cycle,
the one recorded later (01 R25, log entry 11). -/
def regBest (key x : Nat) : List RegWr → Option RegWr
  | [] => none
  | w :: ws =>
    let b := regBest key x ws
    if w.key = key ∧ w.vis ≤ x then
      (match b with
        | some v => if w.made < v.made then some v else some w
        | none => some w)
    else b

/-- A register word as a read in cycle `x` sees it; a register nothing has written reads 0 (16 R325). -/
def regRead (ws : List RegWr) (key x : Nat) : Word :=
  match regBest key x ws with
  | some w => w.val
  | none => 0#32

/-- The shared range that holds a key of a strand, with the key inside it (01 R34). -/
def sharedKey (st : Strand) (key : Nat) : Option (Shr × Nat) :=
  if key < 3072 then
    match st.shr.find? (fun r => decide (r.first ≤ key / 16) && decide (key / 16 < r.first + r.cnt)) with
    | some r => some (r, key - 16 * r.first)
    | none => none
  else none

def Range.is (st : Strand) (sh : Shr) (r : Range) : Bool :=
  r.launch == st.launch && r.key == sh.key && r.rid == sh.rid

def State.range (s : State) (st : Strand) (sh : Shr) : Option Range :=
  (s.lane st.laneId).ranges.find? (Range.is st sh)

/-- A register word of a strand as a read in cycle `x` sees it. -/
def State.reg (s : State) (st : Strand) (key x : Nat) : Word :=
  match sharedKey st key with
  | some (sh, key') => (match s.range st sh with
    | some r => regRead r.regs key' x
    | none => 0#32)
  | none => regRead st.regs key x

/-- A predicate bit; k0 reads true (01 R22). -/
def State.predBit (s : State) (st : Strand) (p t x : Nat) : Bool :=
  p == 0 || s.reg st (predKey p t) x != 0#32

/-- Key and value of a register write, and the cycle it is visible from. -/
def State.putReg (s : State) (k : Nat) (w : RegWr) : State :=
  match s.strand k with
  | none => s
  | some st =>
    match sharedKey st w.key with
    | some (sh, key') =>
      s.modLane st.laneId (fun l => { l with
        ranges := l.ranges.map (fun r => if Range.is st sh r then { r with regs := { w with key := key' } :: r.regs } else r) })
    | none => s.modStrand k (fun st => { st with regs := w :: st.regs })

def State.putRegs (s : State) (k : Nat) (ws : List RegWr) : State := ws.foldl (fun s w => s.putReg k w) s

/-! ## Flags and tags (01 R23, 02 R44) -/

/-- The count of a flag in cycle `x`: fixed-latency completions that are due no longer count. -/
def Strand.flagCount (st : Strand) (j x : Nat) : Nat :=
  st.flags.getD j 0 - (st.timers.filter (fun c => decide (c.1 ≤ x) && c.2 == j)).length

def vecLoc (j : Nat) : Nat := j
def uniLoc (i : Nat) : Nat := 192 + i
def predLoc (p : Nat) : Nat := 239 + p
def flagLoc (j : Nat) : Nat := 247 + j

def Strand.pending (st : Strand) (loc : Nat) : Bool := agetD st.pend loc 0 != 0
def Strand.residual (st : Strand) (loc x : Nat) : Bool :=
  st.ents.any (fun e => e.tags.contains loc) || st.rtags.any (fun r => r.2 == loc && decide (x < r.1))
def Strand.tagged (st : Strand) (loc x : Nat) : Bool := st.pending loc || st.residual loc x

def addPend (m : Assoc Nat Nat) (locs : List Nat) : Assoc Nat Nat := locs.foldl (fun m l => amodD m l 0 (· + 1)) m
def subPend (m : Assoc Nat Nat) (locs : List Nat) : Assoc Nat Nat :=
  locs.foldl (fun m l => let n := agetD m l 0; if n ≤ 1 then adel m l else aput m l (n - 1)) m

/-- The datapath of the lane is held by a strand of the launch in cycle `now` (01 R24). -/
def Lane.busyWith (l : Lane) (n now : Nat) : Bool := l.holder == n && decide (now < l.busy)

/-- The datapath of the lane is held until cycle `free` by a strand of a launch. -/
def Lane.hold (l : Lane) (n free : Nat) : Lane := { l with busy := free, holder := n }

/-! ## Threads -/

def Strand.thread (st : Strand) (t : Nat) : Thread := st.threads.getD t { pc := 0, st := .exited }
def Strand.modThread (st : Strand) (t : Nat) (f : Thread → Thread) : Strand := { st with threads := lset st.threads t f }
def Strand.liveThreads (st : Strand) : List Nat := (List.range 16).filter (fun t => (st.thread t).st == .live)

/-- The issue address: the smallest PC of the live threads (01 R17). -/
def Strand.issueAddr (st : Strand) : Option Pc :=
  (st.liveThreads.map (fun t => (st.thread t).pc)).foldl (fun m p => match m with
    | none => some p
    | some q => if p.toNat < q.toNat then some p else some q) none

/-- The executing threads of an address (01 R14). -/
def Strand.executing (st : Strand) (pc : Pc) : List Nat := st.liveThreads.filter (fun t => (st.thread t).pc == pc)

def Strand.allExited (st : Strand) : Bool := st.threads.all (fun t => t.st == .exited)

/-- The current band: the one joined last (13 R283). -/
def Strand.band (st : Strand) : Option Nat := st.bands.getLast?

def State.bandOf (s : State) (launch key : Nat) : Band :=
  match aget s.launches launch with
  | some l => agetD l.bands key {}
  | none => {}
def State.modBand (s : State) (launch key : Nat) (f : Band → Band) : State :=
  s.modLaunch launch (fun l => { l with bands := amodD l.bands key {} f })

/-- What bid returns (01 R20, 13 R282). -/
def State.bidOf (s : State) (st : Strand) : Word :=
  match st.band with
  | some key => BitVec.ofNat 32 (s.bandOf st.launch key).bid
  | none => 0xFFFFFFFF#32

/-! ## Thread records and the image (17 R333-R336) -/

def Thread.left (t : Thread) (now : Nat) : Nat :=
  match t.park with
  | .nap => t.parg - now
  | .doze => if t.parg = 0 then 0 else max 1 (t.parg - now)
  | .barw => t.parg
  | _ => 0

def Thread.record (t : Thread) (now : Nat) : ThreadRec :=
  ⟨t.pc, t.st, t.park, t.psel, t.left now, t.ptxn, t.depth⟩

def Strand.records (st : Strand) (now : Nat) : List ThreadRec := st.threads.map (fun t => t.record now)

def TSt.code : TSt → Nat
  | .live => 0
  | .parked => 1
  | .exited => 2
def Park.code : Park → Nat
  | .none => 0
  | .barw => 1
  | .doze => 2
  | .nap => 3
  | .tokw => 4
  | .handler => 5
  | .branch => 6
  | .quota => 7
def Park.ofCode : Nat → Park
  | 1 => .barw
  | 2 => .doze
  | 3 => .nap
  | 4 => .tokw
  | 5 => .handler
  | 6 => .branch
  | 7 => .quota
  | _ => .none

/-- The 64 bits of a thread record (17 R335). -/
def ThreadRec.bits (r : ThreadRec) : Nat :=
  at_ (r.parg % 2 ^ 35) 29 + at_ (r.depth % 128) 9 + at_ (r.psel % 16) 5 + at_ r.park.code 2 + r.st.code

/-- A record a handler may have edited, or none where TRET refuses it (17 R335). -/
def ThreadRec.ofBits (pc : Pc) (v : Nat) : Option ThreadRec :=
  let st := v % 4
  let park := v / 4 % 8
  let depth := v / 512 % 128
  if st = 3 ∨ ((park = 6 ∨ park = 7) ∧ st ≠ 1) ∨ v / 2 ^ 16 % 2 ^ 13 ≠ 0 ∨ 64 < depth then none
  else some ⟨pc, if st = 0 then .live else if st = 1 then .parked else .exited, Park.ofCode park, v / 32 % 16,
    v / 2 ^ 29, 0, depth⟩

/-- Sixteen PCs and sixteen records, 256 bytes (17 R333). -/
def recordBytes : List ThreadRec → Nat → Nat
  | [], _ => 0
  | r :: rs, i => at_ r.pc.toNat (64 * i) + at_ r.bits (1024 + 64 * i) + recordBytes rs (i + 1)

def WSt.code : WSt → Nat
  | .disarmed => 0
  | .arming => 1
  | .armed => 2
  | .satisfied => 3

/-- A watch slot, 32 bytes (17 R333). -/
def Watch.bits (w : Watch) : Nat :=
  w.exp.toNat + at_ w.mask.toNat 64 + at_ w.va 128
    + at_ (w.cmp.toNat + at_ (Decode.tyCode w.ty).toNat 2 + at_ w.st.code 6 + at_ w.evicted.toNat 8 + at_ w.resumed.toNat 9
      + at_ w.backinv.toNat 10) 192

def sumAt (width : Nat) (pos : Nat) : List Nat → Nat
  | [] => 0
  | v :: vs => at_ v pos + sumAt width (pos + width) vs

def Shr.bits (r : Shr) : Nat := r.first + at_ (r.cnt - 1) 8 + at_ r.key 14 + at_ r.rid 18 + at_ 1 22

/-- The state record, 512 bits (17 R334), in cycle `now`. -/
def Strand.stateRecord (s : State) (st : Strand) (now : Nat) : Nat :=
  let pred (p : Nat) : Nat := (maskOf ((List.range 16).filter (fun t => s.predBit st p t now))).toNat
  let qp (n : Nat) : Nat := match aget st.qpb n with
    | some (tile, q) => tile + at_ q 8 + at_ 1 13
    | none => 0
  st.modew.toNat + at_ st.tcause.toNat 32 + at_ st.repl.toNat 64 + at_ st.tmask.toNat 70 + at_ st.priv.toNat 86
    + at_ st.win.toNat 87 + at_ st.gen 88 + sumAt 6 104 ((List.range 12).map (fun j => st.flagCount j now))
    + sumAt 16 176 ((List.range 7).map (fun i => pred (i + 1))) + sumAt 14 288 ((List.range 8).map qp)
    + sumAt 5 400 (st.bands.map (fun key => key + 16)) + sumAt 23 420 (st.shr.map Shr.bits)

/-- A number written into an image. -/
def imagePut (im : List Host.Cell) (n off v : Nat) : List Host.Cell := memPutAll im (cellsOf n off v)
def imageGet (im : List Host.Cell) : Nat → Nat → Nat
  | 0, _ => 0
  | n + 1, off => (memGet im off).toNat + 256 * imageGet im n (off + 1)

/-- The control state written into the image: state record, PCs, thread records, region start and watch slots. -/
def Strand.writeImage (s : State) (st : Strand) (now : Nat) : List Host.Cell :=
  let im := imagePut st.image 64 0 (st.stateRecord s now)
  let im := imagePut im 256 0x40 (recordBytes (st.records now) 0)
  let im := imagePut im 256 0x140 (recordBytes st.region 0)
  let im := imagePut im 128 0x340 (sumAt 256 0 (st.watch.map Watch.bits))
  imagePut im 128 0x500 st.stopRec.toNat

/-- The 64-byte record of a residual entry (02 R59). -/
def Entry.record (e : Entry) : Nat :=
  let cap (p : Nat) : Nat := ((e.ucap.getD p none).getD 0#64).toNat
  let capv : Nat := sumAt 1 0 ((List.range 6).map (fun i => (e.lines.any (fun l => l.1 == i)).toNat))
  e.inst.toNat + at_ e.pc.toNat 96 + at_ e.exm.toNat 160 + at_ (e.actm.getD 0#16).toNat 176 + at_ e.actm.isSome.toNat 192
    + at_ e.ord.toNat 193 + at_ capv 194 + at_ (e.cause % 256) 200 + at_ (e.seq % 65536) 208 + at_ (e.gen % 65536) 224
    + at_ (cap 0) 256 + at_ (cap 1) 320 + at_ (cap 2) 384

/-- Its capture lines in CAPV order, 64 bytes each. -/
def Entry.captured (e : Entry) : Nat :=
  sumAt 512 0 ((List.range 6).filterMap (fun i => (e.lines.find? (fun l => l.1 == i)).map (fun l =>
    sumAt 32 0 (l.2.map (fun w => w.toNat)))))

/-- Entry `i` in the image: record, capture lines and region snapshot (17 R333). -/
def Entry.writeImage (e : Entry) (i : Nat) (im : List Host.Cell) : List Host.Cell :=
  let im := imagePut im 64 (0x6000 + 64 * i) e.record
  let im := imagePut im 384 (0x6800 + 384 * i) e.captured
  imagePut im 256 (0xA000 + 256 * i) (recordBytes e.snap 0)

/-- The fields of an entry as its record in the image gives them; a nonzero zero field is noted (02 R59). -/
def Entry.reread (e : Entry) (i : Nat) (im : List Host.Cell) : Entry :=
  let r := imageGet im 64 (0x6000 + 64 * i)
  let f (pos n : Nat) : Nat := r / 2 ^ pos % 2 ^ n
  { e with
    inst := BitVec.ofNat 96 r, pc := BitVec.ofNat 56 (f 96 56), exm := BitVec.ofNat 16 (f 160 16)
    actm := if f 192 1 = 1 then some (BitVec.ofNat 16 (f 176 16)) else none
    ord := f 193 1 == 1, cause := f 200 8, seq := f 208 16, gen := f 224 16
    ucap := ((List.range 3).zip e.ucap).map (fun p => p.2.map (fun _ => BitVec.ofNat 64 (f (256 + 64 * p.1) 64)))
    bad := f 152 8 != 0 || f 206 2 != 0 || f 240 16 != 0 || f 448 64 != 0 }

/-- Entry `i` of a thread's return stack in the image (17 R333). -/
def putStack (t i : Nat) (pc : Pc) (im : List Host.Cell) : List Host.Cell := imagePut im 8 (0x4000 + 512 * t + 8 * i) pc.toNat

/-- The entries of a return stack that the lane holds, written into the image (07 R161, 17 R337). -/
def Thread.writeStack (th : Thread) (t : Nat) (im : List Host.Cell) : List Host.Cell :=
  ((List.range th.depth).drop (th.depth - th.inLane)).foldl (fun im i => putStack t i (th.stack.getD i 0) im) im

/-- The residual tags, a bit for each location (17 R333). -/
def Strand.tagBits (st : Strand) (now : Nat) : Nat :=
  sumAt 1 0 ((List.range 259).map (fun l => (st.residual l now).toNat))

/-- Flag counts, residual tags and pending counts in the image, where results that land while the strand is away change them
(02 R58, 17 R333). -/
def Strand.putCounts (st : Strand) (now : Nat) (im : List Host.Cell) : List Host.Cell :=
  let im := imagePut im 9 13 (sumAt 6 0 ((List.range 12).map (fun j => st.flagCount j now)))
  let im := imagePut im 128 0x580 (st.tagBits now)
  imagePut im 256 0x600 (sumAt 8 0 ((List.range 247).map (fun l => agetD st.pend l 0)))

/-- A saved strand's image follows its counts. -/
def Strand.follow (st : Strand) (now : Nat) : Strand :=
  if st.status = .saved then { st with image := st.putCounts now st.image } else st

/-- Everything that a save writes (17 R337): control state, tags and counts, return stacks, entries with what they captured. -/
def Strand.saveImage (s : State) (st : Strand) (now : Nat) : List Host.Cell :=
  let im := st.putCounts now (st.writeImage s now)
  let im := ((List.range 16).zip st.threads).foldl (fun im p => p.2.writeStack p.1 im) im
  ((List.range st.ents.length).zip st.ents).foldl (fun im p => p.2.writeImage p.1 im) im

/-- Register line `j` written back into the image (01 R29, R30; 17 R333), with every write that is made by cycle `now`. -/
def Strand.writeLine (st : Strand) (j now : Nat) : List Host.Cell :=
  let key (t : Nat) : Nat := if j < 192 then vecKey j t else uniKey (16 * (j - 192) + t)
  imagePut st.image 64 (imageOff (key 0)) (sumAt 32 0 ((List.range 16).map (fun t => (regRead st.regs (key t) (now + 6)).toNat)))

/-! ## The gong line and stop records (17 R344-R349) -/

/-- Where a strand's own image stands in its address space (17 R336). -/
def imageBase : Nat := 0xFE000000000000

/-- Everything a stop record says (17 R345). -/
structure StopInfo where
  flt : Flt
  imgref : Nat := 0
  issue : Nat := 0
  pc : Nat := 0
  seq : Nat := 0
  exm : Nat := 0
  act : Nat := 0
  loc : Nat := 0
  unit : Nat := 0
  coinc : Nat := 0
  defer : Bool := false
  impr : Bool := false
  orig : Bool := true
  ust : Nat := 0

def StopInfo.bits (i : StopInfo) (time : Nat) : BitVec 1024 :=
  BitVec.ofNat 1024 (i.ust + at_ 1 256 + at_ i.orig.toNat 257 + at_ i.impr.toNat 258 + at_ i.defer.toNat 259
    + at_ i.flt.cause 288 + at_ i.coinc 304 + at_ i.unit 320 + at_ i.loc 352 + at_ i.flt.lowt 388
    + at_ i.act 400 + at_ i.exm 416 + at_ (i.seq % 65536) 432 + at_ (time % 2 ^ 64) 448 + at_ i.pc 512
    + at_ i.issue 576 + at_ (i.imgref % 2 ^ 64) 640 + at_ (i.flt.addr % 2 ^ 64) 704 + at_ i.flt.detail.toNat 768)

def Strand.ust (st : Strand) (now : Nat) : Nat := sumAt 6 0 ((List.range 12).map (fun j => st.flagCount j now))

/-- Contexts 0-3 of a partition. -/
def contextsOf (p : PartId) : List CtxId := [⟨p, 0⟩, ⟨p, 1⟩, ⟨p, 2⟩, ⟨p, 3⟩]

/-- COINC of a strand's stop record gains bits (17 R345, R350). -/
def State.coincide (s : State) (bits : Nat) (k : Nat) : State :=
  s.modStrand k (fun st =>
    let r := st.stopRec ||| (BitVec.ofNat 1024 bits <<< 304)
    { st with stopRec := r, image := imagePut st.image 128 0x500 r.toNat })

/-- Another unit raises the line in the cycle in which strands of its partition had events of their own: bit 3 in their records. -/
def State.coincideWith (s : State) (p : PartId) (by_ : Option UnitId) : State :=
  let ks := s.strands.filter (fun x => x.2.part == p && x.2.stopAt == some (s.cycle p) && by_ != some (.strand x.1))
  ks.foldl (fun s x => s.coincide 8 x.1) s

/-- The gong line rises (17 R344): the event, and every context of STATE 1 or 2 is halted. A line already raised absorbs it, and
what coincides is recorded (17 R350). -/
def State.raiseLine (s : State) (p : PartId) (cause : Nat) (by_ : Option UnitId) : State :=
  if (s.part p).line.isSome then (if (s.part p).lineAt = s.cycle p then s.coincideWith p by_ else s)
  else
    let s := (match by_ with
      | some u => s.numbered p u
      | none => s)
    let s := (s.modPart p (fun q => { q with line := some cause, lineAt := s.cycle p, lineBy := by_ })).post p 0x8002 cause
    (contextsOf p).foldl (fun s c => s.modCtx c (fun x =>
      if x.st = 1 ∨ x.st = 2 then { x with before := x.st, st := 4 } else x)) s

/-- A unit's stop record, in a strand's image or with the partition's (17 R344, R345). -/
def State.putStop (s : State) (p : PartId) (u : UnitId) (r : BitVec 1024) : State :=
  match u with
  | .strand k => s.modStrand k (fun st => { st with stopRec := r, stopped := true, image := imagePut st.image 128 0x500 r.toNat })
  | u => s.modPart p (fun q => { q with recs := aput q.recs u r, quiet := u :: q.quiet })

/-- How a strand's fault is told: whether it is precise, and for a drain its entry (17 R345, 02 R56). -/
structure Where where
  pc : Pc
  exm : List Nat
  act : List Nat
  entry : Option Entry := none
  impr : Bool := false

/-- The cause that a fault is reported with: with PRIV = 1 a double trap, a machine check and a debugger halt apart
(17 R348, R350; 07 R166). -/
def Flt.told (f : Flt) (priv : Bool) (code : Nat) : Flt :=
  if priv && f.cause != 0x20 && f.cause != 0x30 && f.cause != 0x32 then
    { f with cause := 0x32, detail := BitVec.ofNat 256 code }
  else f

/-- The COINC bit of a strand's own event: a machine check, a debugger halt, or a synchronous fault. -/
def Flt.coinc (f : Flt) : Nat := if f.cause = 0x20 then 1 else if f.cause = 0x30 then 4 else 2

/-- A budget or a knell count of the strand has run out, and what follows from it waits for the line to be cleared (17 R350). -/
def State.expired (s : State) (st : Strand) : Bool :=
  (s.ctx st.ctx).knell == some 0 || (match aget s.launches st.launch with
    | some l =>
      let b := (l.rcd.extractLsb' 448 64).toNat
      l.knell == some 0 || (b != 0 && decide (b ≤ l.used) && l.grace.isNone && (l.st == .creating || l.st == .running))
    | none => false)

/-- COINC bits of what meets a strand in the cycle of its own event: the line raised by the host's HALT or by another unit, and an
expiry that waits (17 R350). -/
def State.meets (s : State) (k : Nat) (st : Strand) : Nat :=
  let p := s.part st.part
  (if p.line.isNone ∨ p.lineAt ≠ s.cycle st.part ∨ p.lineBy = some (.strand k) then 0
    else if p.line = some 0x30 ∧ p.lineBy = none then 4 else 8)
  ||| (if s.expired st then 16 else 0)

/-- What the line does when a strand has an event of its own: it rises. Under a raised line a strand that runs its handler may have
one as well: it stops, and the line's event is posted for it (17 R348). -/
def State.lineFor (s : State) (k : Nat) (st : Strand) (cause : Nat) : State :=
  if st.inLine then (s.modPart st.part (fun q => { q with line := some cause })).postBy st.part (.strand k) 0x8002 cause
  else s.raiseLine st.part cause (some (.strand k))

/-- A fault of a strand that raises the line (17 R344, R348). `kind`, `code` and `mask` are what TCAUSE and TMASK will say if
it enters its handler. Where the strand has had an event of a higher priority in this cycle, that one's record and action stand, and
both are in COINC (17 R350). -/
def State.strandFault (s : State) (k : Nat) (f : Flt) (w : Where) (kind code : Nat) (mask : Mask) : State :=
  match s.strand k with
  | none => s
  | some st =>
    let f := f.told st.priv code
    let now := s.cycle st.part
    let old := if st.stopAt = some now then (st.stopRec.extractLsb' 304 16).toNat else 0
    let all := old ||| f.coinc ||| s.meets k st
    if old % f.coinc ≠ 0 then s.coincide all k
    else
    let info : StopInfo :=
      { flt := f
        imgref := match w.entry with
          | some _ => imageBase + 0x6000
          | none => 0
        issue := match st.issueAddr with
          | some p => p.toNat
          | none => 0
        pc := w.pc.toNat
        seq := match w.entry with
          | some e => e.seq
          | none => 0
        exm := (maskOf w.exm).toNat, act := (maskOf w.act).toNat
        loc := st.loc, unit := st.unit
        coinc := all
        defer := w.entry.isSome, impr := w.impr, ust := st.ust (s.cycle st.part) }
    let s := s.lineFor k st f.cause
    let s := s.putStop st.part (.strand k) (info.bits s.clk)
    let s := s.modPart st.part (fun q => { q with originators := q.originators ++ [k] })
    s.modStrand k (fun st => { st with
      stopAt := some now, inLine := false
      orig := if st.priv ∨ f.cause = 0x20 then none else some (kind, code, mask) })

/-- A precise fault (17 R348): TMASK is the instruction's active threads. -/
def State.preciseFault (s : State) (k : Nat) (f : Flt) (pc : Pc) (exm act : List Nat) : State :=
  s.strandFault k f { pc := pc, exm := exm, act := act } 2 f.cause (maskOf act)

/-- A fault found when an entry drains (02 R55, R56): imprecise, the entry stays. -/
def State.drainFault (s : State) (k : Nat) (f : Flt) (e : Entry) (act : List Nat) : State :=
  s.strandFault k f { pc := e.pc, exm := threadsOf e.exm, act := act, entry := some e } 2 f.cause (maskOf [f.lowt])

/-- A fault found at a home, an engine or on landing (08 R192): attributed to the strand that issued the instruction. -/
def State.impreciseFault (s : State) (k : Nat) (f : Flt) (pc : Pc) : State :=
  s.strandFault k f { pc := pc, exm := [], act := [f.lowt], impr := true } 2 f.cause (maskOf [f.lowt])

/-! ## Taking an exception, and returning from it (07 R167, R168; 17 R335, R348) -/

/-- Handler entry: the frame is written, PRIV set, the threads of `mask` start at TVEC, every other thread that has not
exited is held. -/
def Strand.enterHandler (s : State) (st : Strand) (now : Nat) (kind code : Nat) (mask : Mask) : Strand :=
  let st := { st with tcause := BitVec.ofNat 32 (at_ (code % 65536) 16 + kind), tmask := mask }
  let im := imagePut (st.writeImage s now) 256 0x240 (recordBytes (st.records now) 0)
  let step (t : Nat) (th : Thread) : Thread :=
    if mask.getLsbD t then { th with st := .live, park := .none, pc := st.tvec, psel := 0, parg := 0, ptxn := 0 }
    else if th.st = .exited then th
    else { th with st := .parked, park := .handler, psel := 0, parg := 0, ptxn := 0 }
  { st with image := im, priv := true, framed := true, frameAt := now
            frameTx := st.threads.map (fun th => th.ptxn)
            frameEx := (List.range 16).filter (fun t => (st.thread t).st == .exited)
            frameLocs := st.waitLocs
            threads := (List.range 16).map (fun t => step t (st.thread t)) }

def State.enterHandler (s : State) (k kind code : Nat) (mask : Mask) : State :=
  match s.strand k with
  | none => s
  | some st => s.modStrand k (fun _ => st.enterHandler s (s.cycle st.part) kind code mask)

/-- The sixteen records of the trap frame, or none where TRET refuses one of them. -/
def frameRecords (im : List Host.Cell) : Nat → Option (List ThreadRec)
  | 0 => some []
  | n + 1 =>
    let t := 15 - n
    match ThreadRec.ofBits (BitVec.ofNat 56 (imageGet im 8 (0x240 + 8 * t))) (imageGet im 8 (0x2C0 + 8 * t)),
        frameRecords im n with
    | some r, some rs => some (r :: rs)
    | _, _ => none

/-- A thread as its record says, its times counted from cycle `base` (17 R335). -/
def ThreadRec.restore (r : ThreadRec) (th : Thread) (base tx : Nat) : Thread :=
  { th with
    pc := r.pc, st := r.st, park := r.park, psel := r.psel
    parg := (match r.park with
      | .nap => base + r.parg
      | .doze => if r.parg = 0 then 0 else base + r.parg
      | .barw => r.parg
      | _ => 0)
    ptxn := tx, depth := r.depth, inLane := min r.depth 4, since := 0 }

/-- A thread that exited inside the handler: TRET leaves it exited (07 R168). -/
def Strand.exitedInside (st : Strand) (t : Nat) : Bool := (st.thread t).st == .exited && !st.frameEx.contains t

/-- TRET's restoration: each thread from its record; a thread that exited inside the handler stays exited. -/
def Strand.leaveHandler (st : Strand) (rs : List ThreadRec) : Strand :=
  let one (t : Nat) : Thread :=
    let th := st.thread t
    if st.exitedInside t then th
    else match rs[t]? with
      | some r =>
        let tx := if r.park = .barw ∨ r.park = .doze then st.frameTx.getD t 0 else 0
        r.restore th st.frameAt tx
      | none => th
  { st with priv := false, framed := false, entHeld := false, waitLocs := st.frameLocs, frameLocs := [], frameEx := []
            threads := (List.range 16).map one }

end Sys2Proof.Machine
end

