-- ==== Sys2Proof/Machine/Errors.lean ====
section
/-! DEFINITION. Detecting an error and what it does at once (18 R360-R365): the corrected word, the stopped consumer, and the
targeted self-test of the unit, whose end is SELF_TEST_DONE. -/

namespace Sys2Proof.Machine

/-- A repair selector (18 R364). -/
def repairSel (site place index : Nat) : Word := BitVec.ofNat 32 (at_ site 28 + at_ place 20 + at_ index 8)

def indexOf? (g : Nat) : List Nat → Option Nat
  | [] => none
  | x :: xs => if x = g then some 0 else (indexOf? g xs).map (· + 1)

/-- The partition and the partition-relative tile of a die's tile of a granule (16 R319). -/
def State.tileOf (s : State) (pkg g die : Nat) : Option (PartId × Nat) :=
  s.parts.findSome? (fun p => if p.1.pkg = pkg then (indexOf? g p.2.gran).map (fun i => (p.1, 4 * i + die)) else none)

/-- The partition whose memory slice holds a near-memory address (16 R319). -/
def State.sliceOwner (s : State) (pkg a : Nat) : Option PartId :=
  (s.parts.find? (fun p => p.1.pkg == pkg && decide (a < 2 ^ 43) && p.2.gran.contains (a / (10 * gb)))).map (fun p => p.1)

/-- The unit that a protected word lies in, its package, and the partition that an error in it concerns. 18 R360 protects operand slots,
accumulator tiles and shadows in one row with the tile cache, and no selector of R364 is theirs: an error in them is reported by the bank
of the tile's cache that their block or tile number selects, the model's choice (log entry 63). -/
def siteUnit (s : State) : Site → Option (Nat × RUnit × Option PartId)
  | .word key =>
    if key < scratchBase then
      let pkg := key / 2 ^ 45
      let a := key % 2 ^ 45
      match devHome pkg a with
      | .near _ stack ch => some (pkg, ⟨none, repairSel 3 stack ch⟩, s.sliceOwner pkg a)
      | .lpddr _ ch => some (pkg, ⟨none, repairSel 6 ch 0⟩, none)
      | .expander _ port => some (pkg, ⟨none, repairSel 6 (16 + port) 0⟩, none)
      | _ => none
    else if key < hostBase then
      let n := (key - scratchBase) / 2 ^ 23
      (s.tileOf (n / 192) (n / 4 % 48) (n % 4)).map (fun p =>
        (n / 192, ⟨some p.1, repairSel 0 p.2 ((key - scratchBase) % 2 ^ 23 / 2 ^ 17)⟩, some p.1))
    else none
  | .reg k line => (s.strand k).map (fun st =>
      (st.part.pkg, ⟨some st.part, repairSel 1 st.tile (4 * st.lane + line % 4)⟩, some st.part))
  | .copy t line => bank t (line / 64)
  | .slot tc _ blk => bank ⟨tc.ctx.part, tc.t⟩ blk
  | .acc tc a | .shadow tc a => bank ⟨tc.ctx.part, tc.t⟩ a
  | .link pkg l lane => some (pkg, ⟨none, repairSel 4 l lane⟩, none)
where
  /-- A bank of a tile's cache. -/
  bank (t : TileId) (i : Nat) : Option (Nat × RUnit × Option PartId) :=
    some (t.part.pkg, ⟨some t.part, repairSel 2 t.t (i % 16)⟩, some t.part)

/-- A unit as its package counts it: one of a tile by the tile's number in the package, so that repairs outlast a partition. -/
def State.place (s : State) (u : RUnit) : RUnit :=
  match u.part with
  | none => u
  | some p =>
    let t := (u.sel.extractLsb' 20 8).toNat
    match (s.part p).gran[t / 4]? with
    | some g => ⟨none, repairSel (u.sel.extractLsb' 28 4).toNat (4 * g + t % 4) (u.sel.extractLsb' 8 12).toNat⟩
    | none => u

/-- A unit is out of use (18 R366). -/
def State.unusable (s : State) (pkg : Nat) (u : RUnit) : Bool :=
  !(s.pkg pkg).outOfUse.isEmpty && (s.pkg pkg).outOfUse.contains (s.place u)

/-- The number of a running test of a unit. -/
def State.testOf (s : State) (pkg : Nat) (u : RUnit) : Option Nat :=
  (s.msgs.find? (fun m => match m.2 with
    | .selfTest p v _ _ _ => p == pkg && v == u
    | _ => false)).map (fun m => m.1)

/-- A detection or an STEST joins the running test of its unit, or starts one (18 R365). -/
def State.startTest (s : State) (pkg : Nat) (u : RUnit) (txns : List (Nat × Opd)) (dets : List (List PartId × ErrRec)) : State :=
  match s.testOf pkg u with
  | some n => { s with msgs := amod s.msgs n (fun m => match m with
      | .selfTest p v ts ds since => .selfTest p v (ts ++ txns) (ds ++ dets) since
      | m => m) }
  | none => s.send (.selfTest pkg u txns dets s.clk)

/-- DETAIL of an error record (18 R367). FREE VALUE: the syndrome of a check code, for which the spec gives no rule, and of the two
residues of a mismatch the one that is found; `known` is the other, which 18 R361 forms from the operands, or a link's retry count. Log
entry 3. -/
def errDetail (cls known : Nat) (w : Word) : Nat :=
  match cls with
  | 1 | 2 => w.toNat % 2048
  | 3 => (known + 1 + w.toNat % 2) % 3 + at_ (known % 3) 2
  | _ => known

/-- The counters that a detection moves (18 R370): CECNT by ACTION 1, RTCNT by 2, UECNT by 3. -/
def Counters.detected (c : Counters) (action : Nat) : Counters :=
  match action with
  | 1 => { c with ce := (c.ce + 1) % 2 ^ 64 }
  | 2 => { c with rt := (c.rt + 1) % 2 ^ 64 }
  | 3 => { c with ue := (c.ue + 1) % 2 ^ 64 }
  | _ => c

/-- One detection: the unit's own number for it, its history, the counters, and its self-test (18 R362, R365, R367, R369). `result` is 2 for a
second mismatch of one segment, which is lasting whatever the test says (18 R362); `parts` are the partitions that the record
concerns (18 R368). -/
def State.detect (s : State) (pkg : Nat) (u : RUnit) (parts : List PartId) (cls action addr cons detail : Nat) (result : Nat := 0) :
    State :=
  let v := s.place u
  let seq := agetD (s.pkg pkg).sseq v 0
  let s := s.modPkg pkg (fun p => { p with
    sseq := aput p.sseq v ((seq + 1) % 2 ^ 32), history := (v, s.clk) :: p.history, ctrs := p.ctrs.detected action })
  let s := parts.foldl (fun s q => s.modPart q (fun p => { p with ctrs := p.ctrs.detected action })) s
  let r : ErrRec := { detail := errDetail cls detail (Config.freeWord s.fresh), addr := addr, cons := cons, sseq := seq
                      unit := u.sel, time := s.clk, result := result, action := action, cls := cls }
  { s with fresh := s.fresh + 1 }.startTest pkg u [] [(parts, r)]

/-- What reading a protected word comes to. -/
inductive Consume where
  | ok
  | stop (cause : Nat)
  deriving DecidableEq, Repr

def Site.addr : Site → Nat
  | .word key => if key < scratchBase then key % 2 ^ 45 else 0
  | _ => 0

/-- The error that stands at a site, and the state without it. -/
def State.errorAt (s : State) (site : Site) : Option Latent := s.latent.find? (fun l => l.site == site)
def State.clean (s : State) (site : Site) : State := { s with latent := s.latent.filter (fun m => m.site != site) }

/-- A consumer reads a word, or replaces it whole: a unit out of use is a machine check, an uncorrectable error stops the
consumer, a corrected one is scrubbed (18 R362, R363, R366). `cons` is the consumer's unit selector, in
partition `who`. -/
def State.consume (s : State) (site : Site) (whole : Bool) (cons : Nat) (who : PartId) : State × Consume :=
  match siteUnit s site with
  | none => match s.errorAt site with
    | none => (s, .ok)
    | some l => if l.double && !whole then (s, .stop 0x21) else (s.clean site, .ok)
  | some (pkg, u, part) =>
    if s.unusable pkg u then (s, .stop 0x20)
    else match s.errorAt site with
      | none => (s, .ok)
      | some l =>
        if whole then (s.clean site, .ok)
        else if l.double then (s.detect pkg u (part.toList ++ (if part = some who then [] else [who])) 2 3 site.addr cons 0, .stop 0x21)
        else ((s.clean site).detect pkg u part.toList 1 1 site.addr 0 0, .ok)

/-- Consumes several words in turn, up to the first that stops the consumer. -/
def State.consumeAll (s : State) (sites : List Site) (cons : Nat) (who : PartId) : State × Consume :=
  match sites with
  | [] => (s, .ok)
  | x :: xs => match s.consume x false cons who with
    | (s', .ok) => State.consumeAll s' xs cons who
    | r => r

/-- A read with no consumer, a write-back, a save, a repair's copy, a scrub or the launch scheduler's: it stops nothing. An error of two
bits stays with the word, which is moved with its check bits (18 R363); the detection's ACTION is 4 then (18 R367). -/
def State.glance (s : State) (site : Site) : State :=
  match siteUnit s site, s.errorAt site with
  | some (pkg, u, part), some l =>
    if l.double then s.detect pkg u part.toList 2 4 site.addr 0 0 else (s.clean site).detect pkg u part.toList 1 1 site.addr 0 0
  | _, _ => s

def State.glanceAll (s : State) (sites : List Site) : State := sites.foldl (fun s x => s.glance x) s

/-- A unit whose self-test runs makes its accesses wait (18 R365). -/
def State.testing (s : State) (site : Site) : Bool :=
  match siteUnit s site with
  | some (pkg, u, _) => (s.testOf pkg u).isSome
  | none => false

/-- The unit of a site is out of use (18 R366). -/
def State.banned (s : State) (site : Site) : Bool :=
  match siteUnit s site with
  | some (pkg, u, _) => s.unusable pkg u
  | none => false

/-- A self-test runs somewhere. -/
def State.anyTest (s : State) : Bool := s.msgs.any (fun m => match m.2 with
  | .selfTest .. => true
  | _ => false)

/-- No word holds an error, no unit is out of use, and no self-test runs. -/
def State.healthy (s : State) (pkg : Nat) : Bool := s.latent.isEmpty && (s.pkg pkg).outOfUse.isEmpty && !s.anyTest

/-- An instruction reads words, and writes others, in units of its lane: none while one of them is tested; a unit out of use stops it,
whichever it needs the unit for (18 R363, R365, R366). -/
def State.useSitesOf (s : State) (pkg : Nat) (reads writes : List Site) (cons : Nat) (who : PartId) : Option (State × Consume) :=
  if s.healthy pkg then some (s, .ok)
  else if (reads ++ writes).any s.testing then none
  else if writes.any s.banned then some (s, .stop 0x20)
  else some (s.consumeAll reads cons who)

/-! ## Die-to-die links -/

/-- The die that a home belongs to, the I/O die being 4: that of the tile of a slice; two stacks of near memory to each compute die; far
and host memory on the I/O die. The spec does not say which die a stack or a link joins: the model's choice (log entry 63). -/
def Home.die : Home → Nat
  | .slicePort t _ => t.t % 4
  | .near _ stack _ => stack / 2
  | _ => 4

/-- The links between two dies: 0-3 join a compute die and the I/O die, 4-7 a compute die and the next; opposite dies meet over the I/O
die (log entry 63). -/
def linksOf (a b : Nat) : List Nat :=
  if a = b then []
  else if a = 4 then [b]
  else if b = 4 then [a]
  else if (a + 1) % 4 = b then [4 + a]
  else if (b + 1) % 4 = a then [4 + b]
  else [a, b]

/-- The links that an access from a tile to a home crosses. -/
def crossed (t : TileId) (h : Home) : List Nat := linksOf (t.t % 4) (Home.die h)

/-- An error on a lane of one of the links of a package. -/
def Site.onLink (pkg : Nat) (ls : List Nat) : Site → Bool
  | .link p l _ => p == pkg && ls.contains l
  | _ => false

/-- A lane of one of the links is being tested, and accesses over the link wait (18 R365). -/
def State.linkTested (s : State) (pkg : Nat) (ls : List Nat) : Bool :=
  s.msgs.any (fun m => match m.2 with
    | .selfTest p u _ _ _ => p == pkg && ls.any (fun l => u.sel.toNat / 2 ^ 20 == 4 * 2 ^ 8 + l)
    | _ => false)

/-- A flit whose CRC fails is retried under the link's protocol: the access goes on, and the detection is that of the link (18 R360,
R362). -/
def State.crossLinks (s : State) (pkg : Nat) (ls : List Nat) : State :=
  (s.latent.filter (fun l => l.site.onLink pkg ls)).foldl (fun s l => match siteUnit s l.site with
    | some (_, u, _) => (s.clean l.site).detect pkg u [] 4 2 0 0 1
    | none => s) s

end Sys2Proof.Machine
end

