-- ==== Sys2Proof/Machine/Operands.lean ====
section
/-! DEFINITION. One issue or drain of an instruction, the cycle of each of its threads, what it reads in every operand form
(01 R15-R22, R38; 02 R47, R48; 04 R93), and the locations it names (02 R44, R45). -/

namespace Sys2Proof.Machine

/-- One issue, or one drain of a residual entry. `exm` and `act` are the executing and the active threads (01 R14), ascending;
`pops` the queue elements it has popped, by thread and position (01 R38). -/
structure Iss where
  k : Nat
  st : Strand
  i : Instr
  sh : Shape
  h : Hdr
  pc : Pc
  t0 : Nat
  exm : List Nat
  act : List Nat
  ent : Option Entry := none
  pops : Assoc (Nat × Pos) Word := []

/-- The lane cycles it occupies (01 R14). -/
def Iss.cost (x : Iss) : Nat := x.sh.cycles x.act.length
/-- Its last cycle. -/
def Iss.last (x : Iss) : Nat := x.t0 + x.cost - 1

def indexIn (t : Nat) : List Nat → Nat
  | [] => 0
  | u :: us => if u = t then 0 else 1 + indexIn t us

/-- The cycle in which it reads for thread `t` (01 R14, R15; 05 R130; 06 R150). -/
def Iss.cyc (x : Iss) (t : Nat) : Nat :=
  match x.sh.eval with
  | .mask => x.t0 + indexIn t x.act
  | _ => x.t0

/-- The cycle in which it writes for thread `t`. -/
def Iss.wcyc (x : Iss) (t : Nat) : Nat :=
  match x.sh.eval with
  | .mask => x.t0 + indexIn t x.act
  | _ => x.last

/-- The first active thread. -/
def Iss.lead (x : Iss) : Nat := x.act.headD 0

/-! ## Locations -/

/-- The locations of a named operand (02 R44). -/
def Use.locs (u : Use) : List Nat :=
  match u.o with
  | .v j => (List.range u.n).map (fun i => vecLoc (j.val + i))
  | .u j => (List.range u.n).map (fun i => uniLoc (j.val + i))
  | _ => []

def predLocs (ps : List (BitVec 3)) : List Nat := (ps.filter (fun p => p != 0)).map (fun p => predLoc p.toNat)

/-- The window of a MOVX or MOVXW (05 R120). -/
def Shape.windowLocs (sh : Shape) (st : Strand) : List Nat :=
  match sh.window with
  | some (.v j) => (List.range (st.vregs - j.val)).map (fun i => vecLoc (j.val + i))
  | some (.u j) => (List.range (st.uregs - j.val)).map (fun i => uniLoc (j.val + i))
  | _ => []

/-- A MOVX or MOVXW that writes its window: it names no destination (05 R119). -/
def Shape.writesWindow (sh : Shape) : Bool := sh.window.isSome && sh.dsts.isEmpty

def Shape.srcLocs (sh : Shape) (st : Strand) : List Nat :=
  sh.srcs.flatMap Use.locs ++ predLocs sh.ps ++ sh.windowLocs st
def Shape.dstLocs (sh : Shape) (st : Strand) : List Nat :=
  sh.dsts.flatMap Use.locs ++ predLocs sh.pd ++ (if sh.writesWindow then sh.windowLocs st else [])

/-- Queue-port operands. -/
def Opd.port : Opd → Option Nat
  | .qp n => some n.val
  | _ => none

def Shape.popPorts (sh : Shape) : List (Pos × Nat) :=
  sh.srcs.filterMap (fun u => (Opd.port u.o).map (fun n => (u.pos, n)))
def Shape.pushPort (sh : Shape) : Option Nat := (sh.dsts.filterMap (fun u => Opd.port u.o)).head?

/-- It pops, pushes or both (01 R38, R39). -/
def Shape.ports (sh : Shape) : Bool := !sh.popPorts.isEmpty || sh.pushPort.isSome

/-- Long-latency (01 R23): so described, popping a queue port, or in groups 0x4-0x6 naming one at all (06 R135). -/
def Shape.isLong (sh : Shape) : Bool := sh.long || !sh.popPorts.isEmpty || (sh.portLong && sh.pushPort.isSome)

/-- Ordered under 02 R46: its class, or a register instruction that names a queue port. -/
def Shape.ordered (sh : Shape) : Bool := sh.cls == .ordered || (sh.cls == .register && sh.ports)

/-- May become a residual entry (02 R46). -/
def Shape.deferrable (sh : Shape) : Bool := sh.cls == .ordered || sh.cls == .register

/-- A source that is not captured, and whose locations stay tagged until the entry drains: the source range of a block instruction
(06 R151), which BLKPACK and BLKSCL.fit name, and every range of more than two registers (log entry 12). The block of another is a
single line and is captured (02 R47). -/
def Shape.uncaptured (sh : Shape) (u : Use) : Bool := sh.srcRange && u.kinds == [.vec] || decide (2 < u.n)

/-! ## Reading -/

def Pos.index : Pos → Nat
  | .a => 0
  | .b => 1
  | .c => 2

/-- What a special operand reads as (01 R16, R20). -/
def special (s : State) (x : Iss) (o : Opd) (t : Nat) : Nat :=
  match o with
  | .tix => t
  | .gix => x.st.sid * 16 + t
  | .sid => x.st.sid
  | .vpc => x.pc.toNat
  | .bid => (s.bidOf x.st).toNat
  | .tile => x.st.tile
  | _ => 0

/-- Word `i` of an operand for thread `t`, read in cycle `c`: captured, or under 01 R25. A uniform register is read once, in the
first cycle (01 R15). -/
def readWord (s : State) (x : Iss) (u : Use) (i t c : Nat) : Word :=
  match u.o with
  | .v j =>
    (match x.ent with
      | some e => (match aget e.lines (2 * u.pos.index + i) with
        | some ws => ws.getD t 0#32
        | none => s.reg x.st (vecKey (j.val + i) t) c)
      | none => s.reg x.st (vecKey (j.val + i) t) c)
  | .u j =>
    (match x.ent with
      | some e => (match (e.ucap.getD u.pos.index none) with
        | some w => w.extractLsb' (32 * i) 32
        | none => s.reg x.st (uniKey (j.val + i)) x.t0)
      | none => s.reg x.st (uniKey (j.val + i)) x.t0)
  | .qp _ => (aget x.pops (t, u.pos)).getD 0#32
  | .sid | .bid | .tile =>
    (match x.ent with
      | some e => (match (e.ucap.getD u.pos.index none) with
        | some w => w.extractLsb' (32 * i) 32
        | none => BitVec.ofNat 32 (special s x u.o t / 2 ^ (32 * i)))
      | none => BitVec.ofNat 32 (special s x u.o t / 2 ^ (32 * i)))
  | o => BitVec.ofNat 32 (special s x o t / 2 ^ (32 * i))

/-- An operand of one or two words for thread `t`. -/
def readOpd (s : State) (x : Iss) (u : Use) (t : Nat) : Dword :=
  let c := x.cyc t
  if u.n = 1 then (readWord s x u 0 t c).zeroExtend 64
  else readWord s x u 1 t c ++ readWord s x u 0 t c

/-- The whole line of a vector register, read in the first cycle (06 R149, R150). -/
def readLine (s : State) (x : Iss) (u : Use) (i : Nat) : List Word :=
  (List.range 16).map (fun t => readWord s x u i t x.t0)
/-- All lines of a range. -/
def readLines (s : State) (x : Iss) (u : Use) : List (List Word) :=
  (List.range u.n).map (fun i => readLine s x u i)

/-- Position `p` of the sources, or zero. -/
def srcAt (sh : Shape) (p : Pos) : Use :=
  match sh.srcs.find? (fun u => u.pos == p) with
  | some u => u
  | none => ⟨p, .zero, 1, 1, []⟩

/-- What an instruction reads for one thread. -/
structure Rd where
  t : Nat
  a : Dword
  b : Dword
  c : Dword
  ps : List Bool
  deriving DecidableEq, Repr

def Rd.aw (r : Rd) : Word := r.a.truncate 32
def Rd.bw (r : Rd) : Word := r.b.truncate 32
def Rd.cw (r : Rd) : Word := r.c.truncate 32
def Rd.p (r : Rd) (i : Nat) : Bool := r.ps.getD i false

/-- Reads every source for thread `t`; predicates of an instruction evaluated once are those of the lowest active thread
(05 R109). -/
def readThread (s : State) (x : Iss) (t : Nat) : Rd :=
  let pt := if x.sh.eval == .once then x.lead else t
  { t := t
    a := readOpd s x (srcAt x.sh .a) t
    b := readOpd s x (srcAt x.sh .b) t
    c := readOpd s x (srcAt x.sh .c) t
    ps := x.sh.ps.map (fun p => s.predBit x.st p.toNat pt (x.cyc t)) }

/-- A rounding field, DYN resolved by DRND (03 R73). -/
def Strand.rounding (st : Strand) : Rm → RMode
  | .rne => .rne
  | .rz => .rz
  | .rd => .rd
  | .ru => .ru
  | .dyn => RMode.ofCode ((st.modew.extractLsb' 16 3).toNat)

/-- The address of format M from the values of base and index (04 R93). -/
def addrVal (m : Addr) (base : Dword) (idx : Word) : Dword :=
  base + ((if m.idx = .zero then 0#64 else sext64 idx) <<< m.sc.toNat) + m.off.signExtend 64

/-- Base and index of a format M instruction: the last two of its sources (02 R59). -/
def Shape.baseUse (sh : Shape) : Use := srcAt sh (if sh.srcs.length = 3 then .b else .a)
def Shape.idxUse (sh : Shape) : Use := srcAt sh (if sh.srcs.length = 3 then .c else .b)

/-- The address that a format M instruction computes for thread `t`. -/
def addrOf (s : State) (x : Iss) (m : Addr) (t : Nat) : Dword :=
  addrVal m (readOpd s x x.sh.baseUse t) ((readOpd s x x.sh.idxUse t).truncate 32)

end Sys2Proof.Machine
end

