-- ==== Sys2Proof/Machine/Issue.lean ====
section
/-! DEFINITION. How an instruction issues (01 R14-R28, 04 R88, R96), becomes a residual entry or drains (02 R42-R59), and
what every instruction does besides its own effect: PCs, flags, tags, the datapath, the idempotent region. -/

namespace Sys2Proof.Machine

/-- What a step answers. -/
abbrev Result := Host.Outcome State Fault Refusal

/-- What an instruction's own effect comes to: a next state; not ready; a queue-port, full/empty or task-queue condition
that is unmet (02 R46); a translation that a walk must first bring; a fault before anything was changed. -/
inductive Eff where
  | ok (s : State)
  | wait
  | cond
  | walk (va : Nat)
  | stop (f : Flt)
  deriving DecidableEq

/-- The effect of an instruction, given its issue and the state with its PCs advanced. -/
abbrev Effect := Iss → State → Eff

/-! ## Transactions of long-latency instructions (01 R23) -/

/-- Opens the transaction of a long-latency instruction that waits for `left` results. -/
def openTxn (x : Iss) (left : Nat) (dst : Opd) (s : State) : Nat × State :=
  let n := s.uid + 1
  (n, { s with
    uid := n
    txns := s.txns ++ [(n, { strand := x.k, gen := x.st.gen, flag := x.h.setf.map (fun j => j.val)
                             locs := x.sh.dstLocs x.st, left := left, dst := dst, act := x.act, pc := x.pc, exm := x.exm
                             place := some (x.st.laneId, x.st.slot), region := x.st.region, ent := x.ent })] })

/-- Whether a result still finds its strand (01 R33). -/
def Txn.finds (t : Txn) (s : State) : Option Strand :=
  match s.strand t.strand with
  | some st => if st.status ≠ .ended ∧ st.gen = t.gen then some st else none
  | none => none

/-- The instruction completes: its flag counts down and its pending counts fall (01 R23, 02 R44). -/
def completeTxn (n : Nat) (s : State) : State :=
  match aget s.txns n with
  | none => s
  | some t =>
    let s := { s with txns := adel s.txns n }
    match t.finds s with
    | none => s
    | some st => s.modStrand t.strand (fun st' => ({ st' with
        flags := (match t.flag with
          | some j => lset st'.flags j (fun c => c - 1)
          | none => st'.flags)
        pend := subPend st'.pend t.locs
        holdTxn := if st'.holdTxn = some n then none else st'.holdTxn } : Strand).follow (s.cycle st.part))

/-- The words that fall on register lines of the strand's own for which `f` holds; words of shared ranges stand on the lane. -/
def ownWords (st : Strand) (f : Nat → Bool) (ws : List (Nat × Word)) : List (Nat × Word) :=
  ws.filter (fun w => (sharedKey st w.1).isNone && (match lineOfKey w.1 with
    | some j => f j
    | none => false))

/-- A strand maps the range (its launch, KEY, RID) on this lane. -/
def Strand.maps (st : Strand) (launch : Nat) (l : LaneId) (sh : Shr) : Bool :=
  st.launch == launch && st.laneId == l && st.status != .ended && st.shr.any (fun r => r.key == sh.key && r.rid == sh.rid)

def leastSid : List (Nat × Nat) → Option (Nat × Nat)
  | [] => none
  | p :: ps => match leastSid ps with
    | none => some p
    | some q => if p.1 < q.1 then some p else some q

/-- Saved strands of a band that map a range are all that map it, so its lines stand in the image of the one with the lowest sid, at
its vector lines of the range (17 R355). A range that a resident strand still maps stays on the lane alone. -/
def saveRange (launch : Nat) (l : LaneId) (sh : Shr) (now : Nat) (s : State) : State :=
  let ks := s.strands.filter (fun p => p.2.maps launch l sh)
  if ks.any (fun p => p.2.status == .resident) then s
  else match leastSid (ks.map (fun p => (p.2.sid, p.1))) with
    | none => s
    | some (_, k) => match (s.strand k).bind (fun st => (st.shr.find? (fun r => r.key == sh.key && r.rid == sh.rid)).bind (fun r =>
        (s.range st r).map (fun g => (r, g)))) with
      | none => s
      | some (r, g) => s.modStrand k (fun st => { st with image := (List.range r.cnt).foldl (fun im j =>
          imagePut im 64 (imageOff (vecKey (r.first + j) 0))
            (sumAt 32 0 ((List.range 16).map (fun t => (regRead g.regs (vecKey j t) (now + 6)).toNat)))) st.image })

/-- Words land in their destinations: visible from the cycle on (01 R25). A cached line is modified; a word whose line is not
cached goes into the image (01 R30). -/
def landWords (k : Nat) (ws : List (Nat × Word)) (s : State) : State :=
  match s.strand k with
  | none => s
  | some st =>
    let now := s.cycle st.part
    let held (j : Nat) : Bool := (s.lane st.laneId).holds k j
    let lines := (ownWords st held ws).filterMap (fun w => lineOfKey w.1)
    let s := s.putRegs k (ws.map (fun w => ⟨now, w.1, w.2, now⟩))
    let s : State := { s with lanes := amod s.lanes st.laneId (fun l => { l with
      lines := l.lines.map (fun h => if h.strand = k ∧ lines.contains h.line then { h with modified := true } else h) }) }
    let away (im : List Host.Cell) : List Host.Cell :=
      (ownWords st (fun j => !held j) ws).foldl (fun im w => imagePut im 4 (imageOff w.1) w.2.toNat) im
    let s := s.modStrand k (fun st => { st with image := away st.image })
    if st.status = .saved then st.shr.foldl (fun s r => saveRange st.launch st.laneId r now s) s else s

/-- One of the results lands; the last completes the instruction. A discarded one changes no register (01 R33). -/
def landResult (n : Nat) (ws : List (Nat × Word)) (s : State) : State :=
  match aget s.txns n with
  | none => s
  | some t =>
    let s := match t.finds s with
      | some _ => landWords t.strand ws s
      | none => s
    if t.left ≤ 1 then completeTxn n s else s.modTxn n (fun t => { t with left := t.left - 1 })

/-- The words of a 32- or 64-bit result for a destination, in the threads named (a uniform register once). -/
def resultWords (d : Opd) (wide : Bool) (ts : List Nat) (v : Dword) : List (Nat × Word) :=
  let n := if wide then 2 else 1
  match d with
  | .v j => ts.flatMap (fun t => (List.range n).map (fun i => (vecKey (j.val + i) t, v.extractLsb' (32 * i) 32)))
  | .u j => (List.range n).map (fun i => (uniKey (j.val + i), v.extractLsb' (32 * i) 32))
  | _ => []

/-! ## Queue ports (01 R37-R40) -/

/-- Pops in order of thread and position; none when a queue runs out. -/
def popAll (c : CtxId) (qpb : Assoc Nat (Nat × Nat)) :
    List (Nat × Pos × Nat) → State → Assoc (Nat × Pos) Word → Option (State × Assoc (Nat × Pos) Word)
  | [], s, acc => some (s, acc)
  | (t, p, n) :: rest, s, acc =>
    match aget qpb n with
    | none => none
    | some (tile, q) =>
      match agetD (s.tc ⟨c, tile⟩).queues q [] with
      | [] => none
      | w :: ws =>
        popAll c qpb rest (s.modTc ⟨c, tile⟩ (fun tc => { tc with queues := aput tc.queues q ws })) (acc ++ [((t, p), w)])

/-- The threads that pop and push (01 R38, R39): each active one, or one for the strand. -/
def Iss.poppers (x : Iss) : List Nat := if x.sh.eval = .once then [x.lead] else x.act

def Iss.requests (x : Iss) : List (Nat × Pos × Nat) :=
  x.poppers.flatMap (fun t => x.sh.popPorts.map (fun p => (t, p.1, p.2)))

/-- How many elements it pushes. -/
def Iss.pushes (x : Iss) : Nat :=
  match x.sh.pushPort with
  | none => 0
  | some _ => x.poppers.length

def Iss.boundPorts (x : Iss) : Bool :=
  (x.sh.popPorts.map (fun p => p.2) ++ x.sh.pushPort.toList).all (fun n => (aget x.st.qpb n).isSome)

/-- Room in the queue of its destination port, after its own pops. -/
def Iss.room (x : Iss) (s : State) : Bool :=
  match x.sh.pushPort with
  | none => true
  | some n => match aget x.st.qpb n with
    | none => false
    | some (tile, q) => decide ((agetD (s.tc ⟨x.st.ctx, tile⟩).queues q []).length + x.pushes ≤ 256)

def pushWords (x : Iss) (ws : List Word) (s : State) : State :=
  match x.sh.pushPort with
  | none => s
  | some n => match aget x.st.qpb n with
    | none => s
    | some (tile, q) =>
      s.modTc ⟨x.st.ctx, tile⟩ (fun tc => { tc with queues := aput tc.queues q (agetD tc.queues q [] ++ ws) })

/-! ## Checks before issue -/

/-- Every register of a named operand is declared (01 R32). -/
def Use.declared (st : Strand) (u : Use) : Bool :=
  match u.o with
  | .v j => decide (j.val + u.n ≤ st.vregs)
  | .u j => decide (j.val + u.n ≤ st.uregs)
  | _ => true

/-- The encoded registers of an instruction are declared (04 R96 row 5). SHRMAP's range has its own fault (01 R34). -/
def encodedDeclared (i : Instr) (sh : Shape) (st : Strand) : Bool :=
  let one (o : Opd) : Use := ⟨.a, o, 1, 1, []⟩
  (match i with
    | .shrmap _ d _ _ _ => Use.declared st (one d)
    | .bpend _ _ _ test _ _ => Use.declared st (one test)
    | .movxw _ d a _ wr => Use.declared st ⟨.a, if wr then d else a, 2, 2, []⟩
    | .movx _ d a _ wr => Use.declared st (one (if wr then d else a))
    | _ => true) &&
  (match i with
    | .shrmap .. => true
    | _ => (sh.srcs ++ sh.dsts).all (Use.declared st))

/-- A register at or beyond a declared count, which has no line: naming it faults (01 R32). -/
def Strand.undeclared (st : Strand) (loc : Nat) : Bool :=
  decide (loc < 192 ∧ st.vregs ≤ loc) || decide (192 ≤ loc ∧ loc < 240 ∧ st.uregs ≤ loc - 192)

/-- The lane's cache holds the register line of a location (01 R30); lines of shared ranges stand on the lane. -/
def lineHeld (s : State) (k : Nat) (st : Strand) (loc : Nat) : Bool :=
  decide (240 ≤ loc) || st.undeclared loc || (sharedKey st (16 * loc)).isSome
    || (s.lane st.laneId).holds k (lineOfLoc loc)
def linesHeld (s : State) (k : Nat) (st : Strand) (locs : List Nat) : Bool := locs.all (lineHeld s k st)

/-- Locations an instruction names in its encoding, for its lines. A MOVX's window is looked up by its own effect. -/
def Shape.namedLocs (sh : Shape) : List Nat := sh.srcs.flatMap Use.locs ++ sh.dsts.flatMap Use.locs

def Hdr.waits (h : Hdr) : List Nat := (List.range 12).filter (fun j => h.wait.getLsbD j)
def waitClear (st : Strand) (h : Hdr) (now : Nat) : Bool := (Hdr.waits h).all (fun j => st.flagCount j now == 0)
/-- Its SETF would not raise a count above 63 (01 R23). -/
def setfOk (st : Strand) (h : Hdr) (now : Nat) : Bool :=
  match h.setf with
  | some j => decide (st.flagCount j.val now < 63)
  | none => true
/-- A long-latency producer would not raise a pending count above 255 (02 R44). -/
def pendOk (st : Strand) (sh : Shape) : Bool :=
  !sh.isLong || (sh.dstLocs st).all (fun l => decide (agetD st.pend l 0 < 255))

def Strand.deferring (st : Strand) : Bool := st.modew.getLsbD 15
def Strand.quota (st : Strand) : Nat := (st.modew.extractLsb' 8 6).toNat
def Strand.windowOpen (st : Strand) : Bool := st.win || !st.fences.isEmpty
def Strand.orderedEnts (st : Strand) : Bool := st.ents.any (fun e => e.ord)

/-- The strands of a deterministic launch issue only when every one has been created (15 R315). -/
def allCreated (s : State) (st : Strand) : Bool :=
  !st.det || (match aget s.launches st.launch with
    | some l => decide ((l.rcd.extractLsb' 356 28).toNat ≤ l.nextSid)
    | none => true)

/-- The knell count of a strand's set has run out: it issues and drains nothing more (17 R351, R353). -/
def knellOver (s : State) (st : Strand) : Bool :=
  st.knell && (((s.ctx st.ctx).st == 2 && (s.ctx st.ctx).knell == some 0) || (match aget s.launches st.launch with
    | some l => l.knell == some 0
    | none => false))

/-- Neither the halt line, nor a page fault, nor a save, nor strands still to be created, nor a knell that has run out keep the
strand from issuing or draining (15 R315; 17 R343, R344, R353; 19 R384). -/
def Strand.runs (s : State) (st : Strand) : Bool :=
  st.status == .resident && !st.repl && ((s.part st.part).line.isNone || st.inLine) && (s.pkg st.part.pkg).powered
    && !(s.part st.part).skip && allCreated s st && !knellOver s st

/-- The second slot of a pair, in its cycle (04 R88). -/
def Strand.paired (st : Strand) (now : Nat) (pc : Pc) : Bool := st.pairAt == some (now, pc)

/-- The conditions on time and on the strand alone (01 R24, R27; 07 R161, R173; 14 R305). -/
def mayIssue (s : State) (st : Strand) (h : Hdr) (pc : Pc) (now : Nat) : Bool :=
  st.runs s && !st.stackBusy && st.holdTxn.isNone && st.rearms.isEmpty &&
  (match st.lastE with
    | some e => decide (e + 1 + h.after.toNat ≤ now)
    | none => true) &&
  (st.paired now pc || decide ((s.lane st.laneId).busy ≤ now))

def activeOf (s : State) (st : Strand) (h : Hdr) (exm : List Nat) (now : Nat) : List Nat :=
  exm.filter (fun t => s.predBit st h.pred.toNat t now != h.neg)

/-- The first failing row of 04 R96. -/
def r96 (s : State) (i : Instr) (sh : Shape) (st : Strand) : Option Nat :=
  if (s.pkg st.part.pkg).feat = 0#32 then some 1
  else if Instr.privileged i && !st.priv then some 2
  else if !Instr.legal i then some 1
  else if !encodedDeclared i sh st then some 3
  else none

/-! ## What closes an idempotent region (17 R352) -/

def Instr.closes (i : Instr) (sh : Shape) : Bool :=
  sh.ports || (match i with
    | .st .. | .stu .. | .stb .. => true
    | .atom .. | .red .. | .cas .. | .algld .. | .algclr _ => true
    | .bari .. | .bara .. | .barw .. | .bard .. | .barq .. | .watch .. | .doze .. | .unwatch .. | .shrmap ..
    | .shrunmap .. | .ferd .. | .fewr .. | .qcfg .. | .qstat .. | .tokw _ | .tokp _ => true
    | .bdecl .. | .bset .. | .brel .. | .stat .. | .unstat .. => true
    | .oclaim .. | .orels .. | .oput .. | .task .. | .accz .. | .accrd .. | .accwr .. | .acccmt .. | .accdsc .. => true
    | .slay .. | .sfill .. | .sdrain .. | .ssig .. | .qfence .. | .coll .. | .cseq .. => true
    | .call .. | .callx .. | .ret _ | .join .. | .leave .. | .launch .. | .rres .. | .csrw .. => true
    | .tret _ | .stoprd .. | .regev .. | .haltl .. | .errlog .. | .stest .. | .tlbinv .. => true
    | _ => false)

/-! ## After the effect -/

/-- The PCs of the executing threads advance (01 R14). -/
def advance (x : Iss) (s : State) : State :=
  s.modStrand x.k (fun st => { st with
    threads := (List.range 16).map (fun t => if x.exm.contains t then { st.thread t with pc := nextPc x.pc } else st.thread t) })

/-- The pairs of a template (04 R86): the slots that are first of one. -/
def pairFirst (tpl slot : Nat) : Bool :=
  match tpl, slot with
  | 1, 0 | 2, 1 | 3, 2 | 4, 3 | 5, 0 | 5, 2 | 6, 1 | 6, 3 | 7, 0 | 7, 3 => true
  | _, _ => false

/-- The fetched line of a launch. -/
def State.fetched (s : State) (st : Strand) (pc : Pc) : Option FetchLine :=
  (s.lane st.laneId).buf.find? (fun f => f.launch == st.launch && f.va == (linePc pc).toNat)

def State.pairAfter (s : State) (st : Strand) (pc : Pc) (e : Nat) : Option (Nat × Pc) :=
  match s.fetched st pc with
  | some f => if pairFirst (f.data.extractLsb' 5 3).toNat (slotPc pc) then some (e + 1, nextPc pc) else none
  | none => none

/-- SETF: the count rises, and for a fixed-latency instruction the cycle of its completion is noted (01 R23). -/
def setFlag (h : Hdr) (done : Option Nat) (st : Strand) : Strand :=
  match h.setf with
  | none => st
  | some j => { st with
      flags := lset st.flags j.val (· + 1)
      timers := match done with
        | some c => st.timers ++ [(c, j.val)]
        | none => st.timers }

/-- When a fixed-latency instruction completes; none for a long-latency one with active threads. -/
def Iss.completes (x : Iss) : Option Nat :=
  if x.act.isEmpty then some (x.t0 + 1) else if x.sh.isLong then none else some (x.last + 6)

/-- Register lines of a strand that an instruction uses until cycle `last`: pinned until then, the most recently used, and the
written ones modified (01 R30). -/
def useLines (k : Nat) (named written : List Nat) (last : Nat) (l : Lane) : Lane :=
  let of (locs : List Nat) : List Nat := (locs.filter (fun n => decide (n < 240))).map lineOfLoc
  { l with lines := l.lines.map (fun h =>
      if h.strand = k ∧ (of named).contains h.line then
        { h with used := last, pin := last + 1, evictable := false, modified := h.modified || (of written).contains h.line }
      else h) }

/-- The lines that an instruction names in its encoding; those that a MOVX computes are used by its own effect. -/
def touchLines (x : Iss) (l : Lane) : Lane := useLines x.k x.sh.namedLocs (x.sh.dsts.flatMap Use.locs) x.last l

/-- Everything an issue in place leaves besides its effect. The second of a pair is no previous issue of its own for 01 R27: 04 R88
speaks of R24 alone, so this is the model's choice (log entry 62). -/
def finish (x : Iss) (s : State) : State :=
  let paired := x.st.paired x.t0 x.pc
  let s := s.modLane x.st.laneId (fun l => touchLines x (if paired then l else l.hold x.st.launch (x.last + 1)))
  s.modStrand x.k (fun st =>
    let st := setFlag x.h x.completes st
    { st with
      pend := if x.sh.isLong ∧ !x.act.isEmpty then addPend st.pend (x.sh.dstLocs x.st) else st.pend
      lastE := some x.last
      lastS := if paired then st.lastS else x.t0
      pairAt := if paired then none else s.pairAfter x.st x.pc x.last
      begun := true
      region := if Instr.closes x.i x.sh ∧ !x.act.isEmpty then st.records x.t0 else st.region })

/-- Pops, room and the effect itself. An instruction with no active threads changes nothing (01 R14), and raises no queue-port fault
for a port that is not bound: 01 R37 faults on naming one, and which of the two holds is the model's choice (log entry 62). -/
def performs (x : Iss) (s : State) (eff : Effect) : Eff :=
  if x.act.isEmpty then .ok s
  else if !x.boundPorts then .stop { cause := 5, lowt := x.lead }
  else match popAll x.st.ctx x.st.qpb x.requests s [] with
    | none => .cond
    | some (s', pops) => if !x.room s' then .cond else eff { x with pops := pops } s'

/-! ## The lane's register cache (01 R30) -/

/-- Capture lines held on a lane. -/
def State.laneCapt (s : State) (l : LaneId) : Nat :=
  s.strands.foldl (fun n p => if p.2.laneId = l ∧ p.2.status = .resident then
    n + (p.2.ents.map (fun e => e.lines.length)).sum else n) 0

def leastUsed : List HeldLine → Option HeldLine
  | [] => none
  | h :: hs => match leastUsed hs with
    | none => some h
    | some g => if g.used < h.used then some g else some h

/-- The line that a fill replaces in cycle `now`: an unpinned evictable one first, then the least recently used unpinned one. Of
several evictable lines the first in the lane's list goes first: the model's choice, since 01 R30 only puts them before the others
(log entry 59). -/
def Lane.victim (l : Lane) (now : Nat) : Option HeldLine :=
  let free := l.lines.filter (fun h => decide (h.pin ≤ now))
  match free.find? (fun h => h.evictable) with
  | some h => some h
  | none => leastUsed free

/-- A modified line goes back to its image; an error in it is met by no consumer (18 R363). -/
def writeLine (h : HeldLine) (s : State) : State :=
  if !h.modified then s
  else (s.glance (.reg h.strand h.line)).modStrand h.strand (fun st =>
    { st with image := st.writeLine h.line (s.cycle st.part) })

/-- Lines of a lane that leave it, each written back where it is modified. -/
def evictLines (l : LaneId) (hs : List HeldLine) (s : State) : State :=
  (hs.foldl (fun s h => writeLine h s) s).modLane l (fun x => { x with
    lines := x.lines.filter (fun h => !(hs.any (fun v => v.strand == h.strand && v.line == h.line))) })

/-- Lines are replaced until `need` more find a place among the 256 of a lane, capture lines counted; none where pinned lines
leave too few. The count `fuel` bounds the replacements. Lines of shared ranges take no places: 01 R30 and R34 do not say whether
they do, and this is the model's choice (log entry 62). -/
def makeRoom (l : LaneId) (need now : Nat) : Nat → State → Option State
  | 0, s => if (s.lane l).lines.length + s.laneCapt l + need ≤ 256 then some s else none
  | fuel + 1, s =>
    if (s.lane l).lines.length + s.laneCapt l + need ≤ 256 then some s
    else match (s.lane l).victim now with
      | none => none
      | some v => makeRoom l need now fuel (evictLines l [v] s)

/-! ## Deferring mode -/

/-- Residual entries held on a lane (02 R47). -/
def State.laneEnts (s : State) (l : LaneId) : Nat :=
  s.strands.foldl (fun n p => if p.2.laneId = l ∧ p.2.status = .resident then n + p.2.ents.length else n) 0
/-- Every live thread parks and keeps its PC (01 R18). -/
def parkAll (why : Park) (locs : List Nat) (st : Strand) : Strand :=
  { st with waitLocs := locs
            threads := st.threads.map (fun th => if th.st = .live then { th with st := .parked, park := why } else th) }

def unparkAll (why : Park) (st : Strand) : Strand :=
  { st with threads := st.threads.map (fun th =>
      if th.st = .parked ∧ th.park = why then { th with st := .live, park := .none } else th) }

/-- A strand parked at a branch becomes live once what it waits for is settled (02 R51). -/
def State.unparkBranch (s : State) (k : Nat) : State :=
  match s.strand k with
  | none => s
  | some st =>
    if st.waitLocs.any (fun l => st.tagged l (s.cycle st.part)) then s
    else s.modStrand k (fun st => { unparkAll .branch st with waitLocs := [] })

/-- Strands of a lane parked for capacity become live once there is room (02 R53). -/
def State.unparkQuota (s : State) (l : LaneId) : State :=
  let room := decide (s.laneEnts l < 32)
  { s with strands := s.strands.map (fun p =>
      if p.2.laneId = l ∧ room ∧ p.2.ents.length < p.2.quota then (p.1, unparkAll .quota p.2) else p) }

/-- The uniform operand captured for a source (02 R47 step 3). -/
def captureUni (s : State) (x : Iss) (u : Use) (ok : Bool) : Option Dword :=
  match Opd.kind u.o with
  | .uni => if ok then some (readOpd s x u 0) else none
  | .unispec => some (readOpd s x u 0)
  | _ => none

/-- The lines captured for a source. -/
def captureLines (s : State) (x : Iss) (u : Use) (ok : Bool) : Assoc Nat (List Word) :=
  if Opd.kind u.o = .vec ∧ ok then
    (List.range u.n).map (fun i => (2 * u.pos.index + i, readLine s x u i))
  else []

def Use.settled (st : Strand) (now : Nat) (u : Use) : Bool := (Use.locs u).all (fun l => !st.tagged l now)

/-- The entry that a capture makes (02 R47, R59). -/
def makeEntry (s : State) (x : Iss) (w : Slot) (predOk : Bool) (cause : Nat) : Entry :=
  let ok (u : Use) : Bool := Use.settled x.st x.t0 u && !x.sh.uncaptured u
  let uni (p : Pos) : Option Dword := captureUni s x (srcAt x.sh p) (ok (srcAt x.sh p))
  let st' := { x.st with threads := (List.range 16).map (fun t =>
    if x.exm.contains t then { x.st.thread t with pc := nextPc x.pc } else x.st.thread t) }
  { inst := w, pc := x.pc, exm := maskOf x.exm
    actm := if predOk then some (maskOf x.act) else none
    ord := x.sh.ordered
    cause := if x.sh.ordered ∧ cause / 8 % 2 = 0 then cause + 8 else cause
    seq := x.st.seq, gen := x.st.gen
    ucap := [uni .a, uni .b, uni .c]
    lines := x.sh.srcs.flatMap (fun u => captureLines s x u (ok u))
    tags := x.sh.dstLocs x.st ++ predLocs x.sh.ps
      ++ (x.sh.srcs.filter x.sh.uncaptured).flatMap Use.locs
      ++ (match x.h.setf with
        | some j => [flagLoc j.val]
        | none => [])
    snap := if Instr.closes x.i x.sh then st'.records x.t0 else [] }

/-- The sources that a capture reads. -/
def Iss.taken (x : Iss) : List Use := x.sh.srcs.filter (fun u => Use.settled x.st x.t0 u && !x.sh.uncaptured u)

/-- The register lines of operands, which an instruction that reads them reads as protected words (18 R360). -/
def useSites (k : Nat) (us : List Use) : List Site :=
  ((us.flatMap Use.locs).filter (fun n => decide (n < 240))).map (fun n => Site.reg k (lineOfLoc n))

/-- The entry joins the residual buffer: this holds the datapath for max(m, 1) cycles and counts as an issue (02 R47). -/
def putEntry (s : State) (x : Iss) (e : Entry) : State :=
  let m := max e.lines.length 1
  let s := (advance x s).modLane x.st.laneId (fun l => l.hold x.st.launch (x.t0 + m))
  s.modStrand x.k (fun st => { st with
    ents := st.ents ++ [e], seq := (st.seq + 1) % 65536
    win := st.win || e.ord
    lastE := some (x.t0 + m - 1), lastS := x.t0
    pairAt := s.pairAfter x.st x.pc (x.t0 + m - 1), begun := true })

/-- The capture (02 R47, R53). The quota and the lane's capacity come before room for SETF and for the capture lines: 02 R47 and
R53 do not order them (log entry 59). An error in a line it reads is precise to the instruction (18 R363). -/
def capture (s : State) (x : Iss) (predOk : Bool) (cause : Nat) : Option State :=
  match encode x.i with
  | none => none
  | some w =>
    let e := makeEntry s x w predOk cause
    if x.st.quota ≤ x.st.ents.length then
      (if x.st.modew.getLsbD 14 then some (s.preciseFault x.k { cause := 6 } x.pc x.exm x.act)
       else some (s.modStrand x.k (parkAll .quota [])))
    else if 32 ≤ s.laneEnts x.st.laneId then some (s.modStrand x.k (parkAll .quota []))
    else if !setfOk x.st x.h x.t0 then none
    else
      let s := s.modLane x.st.laneId (useLines x.k (x.taken.flatMap Use.locs) [] (x.t0 + max e.lines.length 1 - 1))
      (makeRoom x.st.laneId e.lines.length x.t0 256 s).bind (fun s =>
        (s.useSitesOf x.st.part.pkg (useSites x.k x.taken) [] x.st.unit x.st.part).map (fun r => match r with
          | (s', .ok) => putEntry s' x e
          | (s', .stop c) => s'.preciseFault x.k { cause := c, lowt := x.lead } x.pc x.exm x.act))

/-- Groups 0x7, 0x8, 0xA, 0xB and 0xC, and WATCH, which carry memory operations (08 R203, 10 R244). -/
def Instr.memory : Instr → Bool
  | .ld .. | .st .. | .ldu .. | .stu .. | .ldb .. | .stb .. | .pref .. | .cwb .. | .cinv .. => true
  | .atom .. | .red .. | .cas .. | .fence .. | .algld .. | .algrd .. | .algclr _ => true
  | .bdecl .. | .bset .. | .brel .. | .bqry .. | .stat .. | .unstat .. => true
  | .oclaim .. | .orels .. | .oput .. | .task .. | .accz .. | .accrd .. | .accwr .. | .acccmt .. | .accdsc .. | .twait .. => true
  | .slay .. | .sfill .. | .sdrain .. | .ssig .. | .qfence .. | .coll .. | .cseq .. | .ewait .. => true
  | .watch .. => true
  | _ => false

/-- A load marked .free (02 R50). -/
def Instr.isFree : Instr → Bool
  | .ld _ _ _ _ mm | .ldu _ _ _ _ mm | .ldb _ _ _ _ mm => mm.free
  | _ => false

/-- TASK.spec, whose predicate is no input in deferring mode (09 R221). -/
def Instr.isSpecTask : Instr → Bool
  | .task _ _ _ spec => spec
  | _ => false

/-- What the effect of an issue in place comes to. -/
def settle (x : Iss) (s : State) (r : Eff) (onCond : Option State) : Option State :=
  match r with
  | .ok s' => some (finish x s')
  | .stop f => some (s.preciseFault x.k f x.pc x.exm x.act)
  | .wait | .walk _ => none
  | .cond => onCond

/-- The register lines that an issuing instruction reads (18 R360). -/
def regSites (x : Iss) : List Site := useSites x.k x.sh.srcs

/-- The issue in place: an error in a register line is precise to the instruction that reads it (18 R363). -/
def issueIn (s : State) (x : Iss) (eff : Effect) (onCond : Option State) : Option State :=
  match s.useSitesOf x.st.part.pkg (regSites x) (useSites x.k x.sh.dsts) x.st.unit x.st.part with
  | none => none
  | some (s', .ok) => settle x s' (performs x (advance x s') eff) onCond
  | some (s', .stop c) => some (s'.preciseFault x.k { cause := c, lowt := x.lead } x.pc x.exm x.act)

/-- What becomes of an instruction at a strand's issue address: it is not ready; it issues in place, or what a queue condition
leaves instead (02 R46); or the strand goes on otherwise (a capture, parking). -/
inductive Plan where
  | wait
  | inPlace (x : Iss) (onCond : Option State)
  | other (s : State)

/-- What is not issued in place either happens as it is or waits. -/
def Plan.ofOption : Option State → Plan
  | none => .wait
  | some s => .other s

/-- No unfinished fence, no acquire whose read has not returned, no BARW whose phase is still to complete (08 R203, 10 R250,
13 R291). -/
def memGate (s : State) (x : Iss) : Bool :=
  (match s.strand x.k with
    | some st => st.fences.isEmpty && st.threads.all (fun th => !(th.st == .parked && th.park == .barw && th.ptxn != 0))
    | none => true) &&
  s.ops.all (fun o => !(o.2.strand == x.k && o.2.acq && o.2.ret))

/-- A strand is not ready for an instruction that carries a memory operation while an earlier one holds it back (08 R203). -/
def memReady (s : State) (x : Iss) : Bool := !Instr.memory x.i || memGate s x

/-- Readiness outside deferring mode (01 R24, R26; 08 R203). -/
def planPlain (s : State) (x : Iss) : Plan :=
  if !waitClear x.st x.h x.t0 || !setfOk x.st x.h x.t0 || !pendOk x.st x.sh || !linesHeld s x.k x.st x.sh.namedLocs
      || !memReady s x then .wait
  else if x.sh.cls = .precise ∧ !x.st.ents.isEmpty then .wait
  else if x.sh.cls = .stateOrdered ∧ x.st.orderedEnts then .wait
  else .inPlace x none

/-- Readiness and capture in deferring mode (02 R46-R53). The queue or full/empty condition of an instruction (02 R46, CAUSE bit
4) is looked at only where no input is unsettled and no window defers it, so bit 4 stands alone: 02 R59 does not say whether it is
looked at beside them (log entry 59). -/
def planDeferring (s : State) (x : Iss) : Plan :=
  let now := x.t0
  let predTag := x.h.pred != 0 && x.st.tagged (predLoc x.h.pred.toNat) now
  let predUns := predTag && !Instr.isSpecTask x.i
  let srcUns := (x.sh.srcLocs x.st).any (fun l => x.st.tagged l now)
  let dstUns := (x.sh.dstLocs x.st).any (fun l => x.st.tagged l now)
  let waitUns := (Hdr.waits x.h).any (fun j => x.st.flagCount j now != 0 || x.st.residual (flagLoc j) now)
  let cause := waitUns.toNat + 2 * srcUns.toNat + 4 * dstUns.toNat + 32 * predUns.toNat
  let x := if predTag && Instr.isSpecTask x.i then { x with act := x.exm } else x
  let here (onCond : Option State) : Plan :=
    if !setfOk x.st x.h now || !pendOk x.st x.sh || !linesHeld s x.k x.st x.sh.namedLocs || !memReady s x then .wait
    else .inPlace x onCond
  let capt (cause : Nat) : Option State :=
    if !linesHeld s x.k x.st (x.taken.flatMap Use.locs) then none
    else capture s x (!predTag) cause
  let take (cause : Nat) : Plan :=
    if !predUns ∧ x.act.isEmpty then (if waitClear x.st x.h now then here none else .wait) else .ofOption (capt cause)
  match x.sh.cls with
  | .branch =>
    if predUns || srcUns then
      .other (s.modStrand x.k (parkAll .branch
        ((if predUns then [predLoc x.h.pred.toNat] else []) ++ (x.sh.srcLocs x.st).filter (fun l => x.st.tagged l now))))
    else if waitUns then .wait else here none
  | .tagTest =>
    if predUns then .other (s.modStrand x.k (parkAll .branch [predLoc x.h.pred.toNat]))
    else if waitUns then .wait else here none
  | .plain => if cause = 0 then here none else .wait
  | .stateOrdered => if cause = 0 ∧ !x.st.orderedEnts then here none else .wait
  | .precise => if cause = 0 ∧ x.st.ents.isEmpty then here none else .wait
  | .register | .ordered =>
    if cause ≠ 0 then take cause
    else if x.sh.ordered ∧ x.st.windowOpen ∧ !Instr.isFree x.i then take 8
    else here (if x.sh.ordered then capt 16 else none)

/-- BPEND behaves alike in and outside deferring mode (02 R52). -/
def plan (s : State) (x : Iss) : Plan :=
  if x.st.deferring ∨ x.sh.cls = .tagTest then planDeferring s x else planPlain s x

/-- The strand that is to issue an instruction, as an issue in the present cycle. -/
def issueOf (i : Instr) (s : State) : Option Iss :=
  match s.strand s.cur, shape i, Instr.hdr? i with
  | some st, some sh, some h =>
    (match st.issueAddr with
      | none => none
      | some pc =>
        let now := s.cycle st.part
        let exm := st.executing pc
        some { k := s.cur, st := st, i := i, sh := sh, h := h, pc := pc, t0 := now, exm := exm
               act := activeOf s st h exm now })
  | _, _, _ => none

/-- A queue-port, full/empty or task-queue condition holds an instruction back, where it is not captured for it (01 R26, 02 R46). -/
def condUnmet (s : State) (x : Iss) (eff : Effect) : Bool :=
  match performs x (advance x s) eff with
  | .cond => true
  | _ => false

/-- The whole of an issue: none when the strand is not ready. The checks of 04 R96 come first of all that an instruction does
once the strand is ready for it (01 R26), at capture as in place (02 R55). -/
def attempt (i : Instr) (eff : Effect) (s : State) : Option State :=
  match issueOf i s with
  | none => none
  | some x =>
    if !mayIssue s x.st x.h x.pc x.t0 then none
    else match r96 s i x.sh x.st, plan s x with
      | _, .wait => none
      | some cause, .inPlace y none =>
        if condUnmet s y eff then none else some (s.preciseFault x.k { cause := cause, lowt := x.lead } x.pc x.exm x.act)
      | some cause, _ => some (s.preciseFault x.k { cause := cause, lowt := x.lead } x.pc x.exm x.act)
      | none, .inPlace x onCond => issueIn s x eff onCond
      | none, .other t => if (s.lane x.st.laneId).busy ≤ x.t0 then some t else none

/-- The walk that an instruction ready to issue needs first, and the lowest thread that needs it (17 R339). -/
def walkOf (x : Iss) (eff : Effect) (s : State) : Option (Nat × Nat) :=
  match performs x s eff with
  | .walk va => some (va, (x.act.find? (fun t => performs { x with act := [t] } s eff == .walk va)).getD x.lead)
  | _ => none

/-- The walk that an issue of the current strand waits for. -/
def attemptWalk (i : Instr) (eff : Effect) (s : State) : Option (Iss × Nat × Nat) :=
  match issueOf i s with
  | none => none
  | some x =>
    if !mayIssue s x.st x.h x.pc x.t0 || (r96 s i x.sh x.st).isSome then none
    else match plan s x with
      | .inPlace x _ => (walkOf x eff (advance x s)).map (fun w => (x, w))
      | _ => none

/-- The meaning of a lane instruction: its effect inside the issue of the current strand. A strand that is not ready waits,
which changes nothing. -/
def issue (i : Instr) (eff : Effect) (s : State) : Result :=
  match s.strand s.cur with
  | none => .fault .noStrand
  | some _ => match attempt i eff s with
    | some t => .next (commit s.mem t)
    | none => .next s

/-! ## Drains (02 R48) -/

/-- What a drain leaves besides its effect (02 R44, R48). -/
def finishDrain (x : Iss) (e : Entry) (s : State) : State :=
  let s := s.modLane x.st.laneId (fun l => touchLines x (l.hold x.st.launch (x.last + 1)))
  let s := s.modStrand x.k (fun st =>
    let st := setFlag x.h x.completes st
    { st with
      pend := if x.sh.isLong ∧ !x.act.isEmpty then addPend st.pend (x.sh.dstLocs x.st) else st.pend
      ents := st.ents.tail
      win := (st.ents.tail).any (fun e => e.ord)
      rtags := st.rtags.filter (fun r => decide (x.t0 < r.1))
        ++ (if x.sh.isLong then [] else (x.sh.dstLocs x.st).map (fun l => (x.last + 6, l)))
        ++ (predLocs x.sh.ps).map (fun l => (x.last, l))
      lastE := some x.last, lastS := x.t0
      region := if Instr.closes x.i x.sh ∧ !x.act.isEmpty then e.snap else st.region })
  (s.unparkQuota x.st.laneId).unparkBranch x.k

/-- The oldest entry of a strand as an issue. -/
def drainOf (k : Nat) (s : State) : Option (Strand × Entry) :=
  match s.strand k with
  | none => none
  | some st => match st.ents with
    | [] => none
    | e :: _ => some (st, e)

/-- A source whose value the entry does not hold: it is read at drain (02 R47 step 4). -/
def Entry.lacks (e : Entry) (u : Use) : Bool :=
  (e.ucap.getD u.pos.index none).isNone && !(e.lines.any (fun l => l.1 / 2 == u.pos.index))

/-- Its uncaptured inputs are settled, its own tags apart; later entries' tags do not count, for they drain later. The predicate of a
TASK.spec entry without a captured mask is awaited too: 09 R221 makes it no input and 02 R48 takes the mask from it at the drain, so
this is the model's choice (log entry 62). -/
def drainSettled (st : Strand) (sh : Shape) (e : Entry) (h : Hdr) (now : Nat) : Bool :=
  let locs := (sh.srcs.filter e.lacks).flatMap Use.locs ++ predLocs sh.ps ++ sh.windowLocs st ++ sh.dstLocs st
    ++ (if e.actm.isNone && h.pred != 0 then [predLoc h.pred.toNat] else [])
  locs.all (fun l => !st.pending l && !st.rtags.any (fun r => r.2 == l && decide (now < r.1)))

/-- The active threads that an entry has captured, if any. -/
def Entry.captActive (e : Entry) : List Nat := (e.actm.map threadsOf).getD []

/-- The oldest entry as an issue, where its instruction can drain at all. -/
def drainIss (k : Nat) (s : State) (st : Strand) (e : Entry) : Option Iss :=
  match decode e.inst with
  | .error _ => none
  | .ok i => match shape i, Instr.hdr? i with
    | some sh, some h =>
      let now := s.cycle st.part
      let exm := threadsOf e.exm
      let act := match e.actm with
        | some m => threadsOf m
        | none => activeOf s st h exm now
      if !sh.deferrable || e.bad then none
      else some { k := k, st := st, i := i, sh := sh, h := h, pc := e.pc, t0 := now, exm := exm, act := act, ent := some e }
    | _, _ => none

/-- The entry may drain now. -/
def drainReady (s : State) (x : Iss) (e : Entry) : Bool :=
  drainSettled x.st x.sh e x.h x.t0 && waitClear x.st x.h x.t0 && setfOk x.st x.h x.t0 && pendOk x.st x.sh
    && linesHeld s x.k x.st x.sh.namedLocs && memReady s x

/-- The strand may drain: an entry whose fault its handler was entered for waits for TRET (02 R56), and the next operation after
one that holds the strand for an answer waits for it (07 R173; 08 R206; 09 R215), as for arms sent anew (14 R305). -/
def drainTime (s : State) (st : Strand) : Bool :=
  st.runs s && !st.entHeld && st.holdTxn.isNone && st.rearms.isEmpty && decide ((s.lane st.laneId).busy ≤ s.cycle st.part)

/-- The effect of a drain; an error in a register line that it reads is a drain fault (02 R55, 18 R363). -/
def drainIn (s : State) (x : Iss) (e : Entry) (eff : Effect) : Option State :=
  let run (s : State) : Option State := match performs x s eff with
    | .ok s' => some (finishDrain x e s')
    | .stop f => some (s.drainFault x.k f e x.act)
    | .wait | .walk _ | .cond => none
  match s.useSitesOf x.st.part.pkg (useSites x.k (x.sh.srcs.filter e.lacks)) (useSites x.k x.sh.dsts) x.st.unit x.st.part with
  | none => none
  | some (s', .ok) => run s'
  | some (s', .stop c) => some (s'.drainFault x.k { cause := c, lowt := x.lead } e x.act)

/-- The whole of a drain, given the effects of the deferrable instructions. -/
def attemptDrain (k : Nat) (effOf : Instr → Option Effect) (s : State) : Option State :=
  match drainOf k s with
  | none => none
  | some (st, e) =>
    if !drainTime s st then none
    else match drainIss k s st e with
      | none => some (s.drainFault k { cause := 1 } e e.captActive)
      | some x => match effOf x.i with
        | none => some (s.drainFault k { cause := 1 } e e.captActive)
        | some eff =>
          if !drainReady s x e then none else drainIn s x e eff

/-- The walk that a drain waits for. -/
def drainWalk (k : Nat) (effOf : Instr → Option Effect) (s : State) : Option (Entry × Iss × Nat × Nat) :=
  match drainOf k s with
  | none => none
  | some (st, e) =>
    if !drainTime s st then none
    else match drainIss k s st e with
      | none => none
      | some x => match effOf x.i with
        | none => none
        | some eff => if drainReady s x e then (walkOf x eff s).map (fun w => (e, x, w)) else none

/-! ## Effects of the register instructions (groups 0x1-0x6) -/

/-- What an instruction writes for one thread: its destinations in order, and its predicates in order. -/
structure Wv where
  d : Dword := 0
  e : Dword := 0
  ps : List Bool := []
  deriving DecidableEq, Repr

/-- Register writes of a value to a destination for a thread, in its cycle `c` (01 R20, R21, R25). -/
def destWrites (u : Use) (v : Dword) (t c : Nat) : List RegWr :=
  match u.o with
  | .v j => (List.range (min u.n 2)).map (fun i => ⟨c + 6, vecKey (j.val + i) t, v.extractLsb' (32 * i) 32, c⟩)
  | .u j => (List.range (min u.n 2)).map (fun i => ⟨c + 6, uniKey (j.val + i), v.extractLsb' (32 * i) 32, c⟩)
  | _ => []

/-- Predicate writes: for the thread, or for every executing thread where the instruction is evaluated once (05 R109). -/
def predWrites (x : Iss) (pd : List (BitVec 3)) (bs : List Bool) (t c : Nat) : List RegWr :=
  let ts := if x.sh.eval = .once then x.exm else [t]
  (pd.zip bs).flatMap (fun p => if p.1 = 0 then []
    else ts.map (fun u => ⟨c + 6, predKey p.1.toNat u, if p.2 then 1#32 else 0#32, c⟩))

/-- All register writes of one thread's result; a uniform destination only for the first row (05 R130). For SHFL, whose threads
have results of their own, 05 R132 does not say which of them a uniform D receives: the lowest active thread's is the model's
choice (log entry 59). -/
def rowWrites (x : Iss) (first : Bool) (t : Nat) (w : Wv) : List RegWr :=
  let c := x.wcyc t
  (x.sh.dsts.zip [w.d, w.e]).flatMap (fun p => if Opd.isUni p.1.o && !first then [] else destWrites p.1 p.2 t c)
    ++ predWrites x x.sh.pd w.ps t c

def allWrites (x : Iss) : Bool → List (Nat × Wv) → List RegWr
  | _, [] => []
  | first, (t, w) :: rows => rowWrites x first t w ++ allWrites x false rows

/-- Register writes of a register instruction: under 01 R25, or landing later where it popped a port (01 R38). -/
def putOrLand (x : Iss) (ws : List RegWr) (s : State) : State :=
  if x.sh.isLong then
    let (n, s) := openTxn x 1 .zero s
    s.send (.result n 0 (ws.map (fun w => (w.key, w.val))))
  else s.putRegs x.k ws

/-- The results of a register instruction, with the pushes of a queue-port destination (01 R39). -/
def writeRows (x : Iss) (rows : List (Nat × Wv)) (s : State) : State :=
  putOrLand x (allWrites x true rows) (pushWords x (rows.map (fun r => r.2.d.truncate 32)) s)

/-- An instruction evaluated per active thread or once: `f` of what each reads. -/
def regEff (f : Rd → Wv) : Effect := fun x s =>
  .ok (writeRows x (x.poppers.map (fun t => (t, f (readThread s x t)))) s)

/-- An instruction that combines the active threads (05 R130). -/
def combEff (g : List Rd → List (Nat × Wv)) : Effect := fun x s =>
  .ok (writeRows x (g (x.act.map (fun t => readThread s x t))) s)

/-- Writes of whole lines from a destination register on, in the last cycle (06 R150). -/
def lineWrites (x : Iss) (d : Opd) (ls : List (List Word)) : List RegWr :=
  ((List.range ls.length).zip ls).flatMap (fun p =>
    ((List.range 16).zip p.2).map (fun q => ⟨x.last + 6, vecKey (Opd.num d + p.1) q.1, q.2, x.last⟩))

def wordsOfLine (b : Line) : List Word := (List.range 16).map (fun t => lineWord b t)

/-- A line-wide instruction (06 R150): from the lines of A and the word of B to lines, a word, or a fault. -/
def lineEff (g : List (List Word) → Word → Except Flt (List (List Word))) : Effect := fun x s =>
  match g (readLines s x (srcAt x.sh .a)) ((readOpd s x (srcAt x.sh .b) x.lead).truncate 32) with
  | .error f => .stop { f with lowt := x.lead }
  | .ok ls => .ok (s.putRegs x.k (match x.sh.dsts.head? with
      | some u => lineWrites x u.o ls
      | none => []))

end Sys2Proof.Machine
end

