-- ==== Sys2Proof/Machine/Arith.lean ====
section
/-! DEFINITION. Integer arithmetic and moves, group 0x1 (05 R111-R120). Each instruction has its effect, a function of what a
thread reads, and its meaning, that effect inside an issue. -/

namespace Sys2Proof.Machine

/-- A 32-bit result. -/
def w32 (v : Word) : Wv := { d := v.zeroExtend 64 }

/-- A result that depends on three 32-bit operands. -/
def eff3 (f : Word → Word → Word → Word) : Effect := regEff (fun r => w32 (f r.aw r.bw r.cw))

def effIadd (ty : Ty) (sat : Bool) : Effect := regEff (fun r => w32 (iaddVal ty sat r.aw r.bw))
/-- IADD (05 R111). -/
def execIadd (h : Hdr) (d a b : Opd) (ty : Ty) (sat : Bool) (s : State) : Result :=
  issue (.iadd h d a b ty sat) (effIadd ty sat) s

def effIsub (ty : Ty) (sat : Bool) : Effect := regEff (fun r => w32 (isubVal ty sat r.aw r.bw))
/-- ISUB (05 R111). -/
def execIsub (h : Hdr) (d a b : Opd) (ty : Ty) (sat : Bool) (s : State) : Result :=
  issue (.isub h d a b ty sat) (effIsub ty sat) s

/-- The carry in: the predicate's bit where one is named (05 R113). -/
def carryIn (ci : Bool) (r : Rd) : Bool := ci && r.p 0

def effIaddc (ci : Bool) : Effect := regEff (fun r =>
  { d := (iaddcVal r.aw r.bw (carryIn ci r)).zeroExtend 64, ps := [carryOut r.aw r.bw (carryIn ci r)] })
/-- IADDC (05 R113). -/
def execIaddc (h : Hdr) (d a b : Opd) (ci : Bool) (cip cop : BitVec 3) (s : State) : Result :=
  issue (.iaddc h d a b ci cip cop) (effIaddc ci) s

def effIsubb (ci : Bool) : Effect := regEff (fun r =>
  { d := (isubbVal r.aw r.bw (carryIn ci r)).zeroExtend 64, ps := [borrowOut r.aw r.bw (carryIn ci r)] })
/-- ISUBB (05 R113). -/
def execIsubb (h : Hdr) (d a b : Opd) (ci : Bool) (cip cop : BitVec 3) (s : State) : Result :=
  issue (.isubb h d a b ci cip cop) (effIsubb ci) s

def effImul (ty : Ty) (sat : Bool) : Effect := regEff (fun r => w32 (imulVal ty sat r.aw r.bw))
/-- IMUL (05 R111). -/
def execImul (h : Hdr) (d a b : Opd) (ty : Ty) (sat : Bool) (s : State) : Result :=
  issue (.imul h d a b ty sat) (effImul ty sat) s

def effImulh (ty : Ty) : Effect := regEff (fun r => w32 (imulhVal ty r.aw r.bw))
/-- IMULH (05 R112). -/
def execImulh (h : Hdr) (d a b : Opd) (ty : Ty) (s : State) : Result :=
  issue (.imulh h d a b ty) (effImulh ty) s

def effImad (ty : Ty) (sat : Bool) : Effect := eff3 (imadVal ty sat)
/-- IMAD (05 R111). -/
def execImad (h : Hdr) (d a b c : Opd) (ty : Ty) (sat : Bool) (s : State) : Result :=
  issue (.imad h d a b c ty sat) (effImad ty sat) s

def effImadw (ty : Ty) : Effect := regEff (fun r => { d := imadwVal ty r.aw r.bw r.c })
/-- IMADW (05 R112). -/
def execImadw (h : Hdr) (d a b c : Opd) (ty : Ty) (s : State) : Result :=
  issue (.imadw h d a b c ty) (effImadw ty) s

def effImin (ty : Ty) : Effect := regEff (fun r => w32 (iminVal ty r.aw r.bw))
/-- IMIN (05 R111). -/
def execImin (h : Hdr) (d a b : Opd) (ty : Ty) (s : State) : Result :=
  issue (.imin h d a b ty) (effImin ty) s

def effImax (ty : Ty) : Effect := regEff (fun r => w32 (imaxVal ty r.aw r.bw))
/-- IMAX (05 R111). -/
def execImax (h : Hdr) (d a b : Opd) (ty : Ty) (s : State) : Result :=
  issue (.imax h d a b ty) (effImax ty) s

def effIabs (sat : Bool) : Effect := regEff (fun r => w32 (iabsVal sat r.aw))
/-- IABS (05 R111). -/
def execIabs (h : Hdr) (d a : Opd) (sat : Bool) (s : State) : Result :=
  issue (.iabs h d a sat) (effIabs sat) s

def effIneg (sat : Bool) : Effect := regEff (fun r => w32 (inegVal sat r.aw))
/-- INEG (05 R111). -/
def execIneg (h : Hdr) (d a : Opd) (sat : Bool) (s : State) : Result :=
  issue (.ineg h d a sat) (effIneg sat) s

def effLea (m : Addr) : Effect := regEff (fun r => { d := addrVal m r.b r.cw })
/-- LEA (05 R117, 04 R93). -/
def execLea (h : Hdr) (d : Opd) (m : Addr) (s : State) : Result :=
  issue (.lea h d m) (effLea m) s

def effIadd64 (bx : Bool) : Effect := regEff (fun r => { d := iadd64Val r.a (if bx then sext64 r.bw else r.b) })
/-- IADD64 (05 R114). -/
def execIadd64 (h : Hdr) (d a b : Opd) (bx : Bool) (s : State) : Result :=
  issue (.iadd64 h d a b bx) (effIadd64 bx) s

def effIsad (ty : Ty) : Effect := eff3 (isadVal ty)
/-- ISAD (05 R115). -/
def execIsad (h : Hdr) (d a b c : Opd) (ty : Ty) (s : State) : Result :=
  issue (.isad h d a b c ty) (effIsad ty) s

def effIdot4 (ty : Ty) (mix sat : Bool) : Effect := eff3 (idot4Val ty mix sat)
/-- IDOT4 (05 R115). -/
def execIdot4 (h : Hdr) (d a b c : Opd) (ty : Ty) (mix sat : Bool) (s : State) : Result :=
  issue (.idot4 h d a b c ty mix sat) (effIdot4 ty mix sat) s

/-- The operand of IREQ as an exact integer (05 R116). -/
def ireqArg (wide an : Bool) (a : Dword) : Int :=
  if wide then intOf (!an) a else intOf (!an) (a.truncate 32 : Word)

def effIreq (ty : Ty) (rm : Rm) (sat wide an : Bool) : Effect := fun x =>
  regEff (fun r => w32 (ireqVal ty (x.st.rounding rm) sat (ireqArg wide an r.a) r.bw)) x
/-- IREQ (05 R116). -/
def execIreq (h : Hdr) (d a b : Opd) (ty : Ty) (rm : Rm) (sat wide an : Bool) (s : State) : Result :=
  issue (.ireq h d a b ty rm sat wide an) (effIreq ty rm sat wide an) s

def effMov : Effect := regEff (fun r => { d := r.a })
/-- MOV (05 R118). -/
def execMov (h : Hdr) (d a : Opd) (w : Bool) (s : State) : Result :=
  issue (.mov h d a w) effMov s

/-- MOVI's value (05 R118). -/
def moviVal (imm : Word) (form : BitVec 2) : Dword := if form = 1 then sext64 imm else zext64 imm

def effMovi (imm : Word) (form : BitVec 2) : Effect := regEff (fun _ => { d := moviVal imm form })
/-- MOVI (05 R118). -/
def execMovi (h : Hdr) (d : Opd) (imm : Word) (form : BitVec 2) (s : State) : Result :=
  issue (.movi h d imm form) (effMovi imm form) s

/-! ## MOVX and MOVXW (05 R119) -/

/-- The number of the register addressed. -/
def movxNum (wide : Bool) (base : Opd) (idx : Word) : Nat :=
  Opd.num base + (if wide then 2 * idx.toNat else idx.toNat)

/-- The register keys that a thread addresses: one, or a pair. -/
def movxKeys (wide : Bool) (base : Opd) (n t : Nat) : List Nat :=
  (if wide then [n, n + 1] else [n]).map (fun j => if Opd.isVec base then vecKey j t else uniKey j)

/-- Their locations. -/
def movxLocs (wide : Bool) (base : Opd) (n : Nat) : List Nat :=
  (if wide then [n, n + 1] else [n]).map (fun j => if Opd.isVec base then vecLoc j else uniLoc j)

/-- The declared count of the base's kind. -/
def movxTop (base : Opd) (st : Strand) : Nat := if Opd.isVec base then st.vregs else st.uregs

/-- The rows whose register lies beyond the declared count. -/
def movxBad (wide : Bool) (base : Opd) (st : Strand) (rows : List Rd) : Option Rd :=
  rows.find? (fun r => decide (movxTop base st < movxNum wide base r.bw + (if wide then 2 else 1)))

/-- The lines that the indices select. -/
def movxLines (wide : Bool) (base : Opd) (rows : List Rd) : List Nat :=
  rows.flatMap (fun r => movxLocs wide base (movxNum wide base r.bw))

def movxRead (wide : Bool) (base : Opd) (s : State) (x : Iss) (r : Rd) : Dword :=
  match movxKeys wide base (movxNum wide base r.bw) r.t with
  | [k] => (s.reg x.st k (x.cyc r.t)).zeroExtend 64
  | [k, l] => s.reg x.st l (x.cyc r.t) ++ s.reg x.st k (x.cyc r.t)
  | _ => 0#64

def movxWrites (wide : Bool) (base : Opd) (x : Iss) (r : Rd) : List RegWr :=
  let ks := movxKeys wide base (movxNum wide base r.bw) r.t
  ((List.range 2).zip ks).map (fun p => ⟨x.wcyc r.t + 6, p.2, r.a.extractLsb' (32 * p.1) 32, x.wcyc r.t⟩)

def effMovxAny (wide : Bool) (base : Opd) (wr : Bool) : Effect := fun x s =>
  let rows := x.poppers.map (fun t => readThread s x t)
  match movxBad wide base x.st rows with
  | some r => .stop { cause := 3, lowt := r.t }
  | none =>
    let lines := movxLines wide base rows
    if !linesHeld s x.k x.st lines then .wait
    else
    let s := s.modLane x.st.laneId (useLines x.k lines (if wr then lines else []) x.last)
    if wr then .ok (putOrLand x (rows.flatMap (movxWrites wide base x)) s)
    else .ok (writeRows x (rows.map (fun r => (r.t, { d := movxRead wide base s x r }))) s)

def effMovx (d a : Opd) (wr : Bool) : Effect := effMovxAny false (if wr then d else a) wr
/-- MOVX (05 R119). -/
def execMovx (h : Hdr) (d a b : Opd) (wr : Bool) (s : State) : Result :=
  issue (.movx h d a b wr) (effMovx d a wr) s

def effMovxw (d a : Opd) (wr : Bool) : Effect := effMovxAny true (if wr then d else a) wr
/-- MOVXW (05 R119). -/
def execMovxw (h : Hdr) (d a b : Opd) (wr : Bool) (s : State) : Result :=
  issue (.movxw h d a b wr) (effMovxw d a wr) s

end Sys2Proof.Machine
end

