-- ==== Sys2Proof/Machine/Bands.lean ====
section
/-! DEFINITION. Bands and shared ranges as strands leave them (13 R282-R284, 01 R34), the mallet (15 R316), and the end of a
strand (07 R162). -/

namespace Sys2Proof.Machine

/-! ## Shared ranges -/

/-- Whether a register key of a strand lies in a range of its registers. -/
def inRange (sh : Shr) (key : Nat) : Bool := decide (16 * sh.first ≤ key ∧ key < 16 * (sh.first + sh.cnt))

/-- SHRUNMAP of one range: the registers read zero from then on, and the last strand frees the lines (01 R34, 07 R177). -/
def unmapRange (k : Nat) (sh : Shr) (s : State) : State :=
  match s.strand k with
  | none => s
  | some st =>
    let s := s.modStrand k (fun st => { st with
      shr := st.shr.filter (fun r => r != sh), regs := st.regs.filter (fun w => !inRange sh w.key) })
    if s.strands.any (fun p => p.2.maps st.launch st.laneId sh) then s
    else s.modLane st.laneId (fun l => { l with ranges := l.ranges.filter (fun r => !Range.is st sh r) })

/-! ## Membership -/

/-- A band with no member left dissolves: its record is discarded, and the number of its creations stays (13 R282, R284). -/
def dissolve (b : BarId) (s : State) : State :=
  let s := s.modBand b.launch b.key (fun x => { inc := x.inc })
  { s with domCtrs := s.domCtrs.map (fun c => (c.1, { c.2 with users := c.2.users.filter (fun u => u != b) })) }

/-- A strand leaves a band (13 R283, R284). -/
def leaveBand (k key : Nat) (s : State) : State :=
  match s.strand k with
  | none => s
  | some st =>
    let s := (st.shr.filter (fun r => r.key == key)).foldl (fun s r => unmapRange k r s) s
    let s := s.modStrand k (fun st => { st with bands := st.bands.filter (fun b => b != key) })
    let s := s.modBand st.launch key (fun b => { b with members := b.members.filter (fun m => m != k) })
    if (s.bandOf st.launch key).members.isEmpty then dissolve ⟨st.launch, key⟩ s else s

/-! ## The mallet -/

/-- Every store and atomic that a strand sent to a page with SHB has been performed (15 R316). -/
def shbPerformed (s : State) (k : Nat) : Bool :=
  s.ops.all (fun o => !(o.2.strand == k && o.2.shb && !o.2.performed))

/-- The logical numbers of the strands of a launch that have not ended. -/
def liveSids (s : State) (l : Launch) : List (Nat × Nat) :=
  l.live.filterMap (fun k => (s.strand k).map (fun st => (st.sid, k)))

/-- The next holder after a strand in logical order, wrapping; none when every other strand has ended. -/
def nextHolder (ps : List (Nat × Nat)) (sid : Nat) : Option (Nat × Nat) :=
  match leastSid (ps.filter (fun p => decide (sid < p.1))) with
  | some p => some p
  | none => leastSid (ps.filter (fun p => decide (p.1 < sid)))

/-- A strand receives the mallet: its threads parked in TOKW are released. -/
def takeMallet (k : Nat) (s : State) : State := s.modStrand k (fun st => { unparkAll .tokw st with hold := true })

/-- The mallet passes on from the strand that holds it (15 R316). -/
def passMallet (k : Nat) (s : State) : State :=
  match s.strand k with
  | none => s
  | some st =>
    match aget s.launches st.launch with
    | none => s
    | some l =>
      match nextHolder (liveSids s l) st.sid with
      | none => s
      | some (sid, k') =>
        takeMallet k' ((s.modStrand k (fun st => { st with hold := false })).modLaunch st.launch
          (fun l => { l with mallet := some sid }))

/-! ## The end of a strand -/

/-- A slot is disarmed at the lane; its home is told where it may hold the entry (07 R162, R176; 14 R298). -/
def disarmSlot (txn k n : Nat) (s : State) : State :=
  match s.strand k with
  | none => s
  | some st =>
    match st.watch[n]? with
    | none => s
    | some w =>
      let s := s.modStrand k (fun st => { st with
        watch := lset st.watch n (fun w => { w with st := .disarmed, evicted := false, resumed := false, backinv := false, arm := 0 })
        rearms := st.rearms.filter (fun a => a != w.arm) })
      if w.st = .arming ∨ w.st = .armed then s.send (.disarm txn k n w.arm) else s

/-- The strand ends: it gives up everything it holds, its entries are discarded, its lines and its slot are free (07 R162,
01 R33, 02 R54). Writes on their way to its registers find it ended. -/
def strandEnd (k : Nat) (s : State) : State :=
  match s.strand k with
  | none => s
  | some st =>
    let s := if st.hold then passMallet k s else s
    let s := st.bands.foldl (fun s b => leaveBand k b s) s
    let s := [0, 1, 2, 3].foldl (fun s n => disarmSlot 0 k n s) s
    let s := st.shr.foldl (fun s r => unmapRange k r s) s
    let s := s.modStrand k (fun st => { st with
      status := .ended, ents := [], win := false, hold := false, fences := [], holdTxn := none, pend := [], timers := [] })
    let s := (s.modLane st.laneId (fun l => { l with lines := l.lines.filter (fun h => h.strand != k) })).unparkQuota st.laneId
    s.modLaunch st.launch (fun l => { l with live := l.live.filter (fun m => m != k) })

/-- Whether the strand may end now: a holder passes the mallet only when its shared writes are performed (15 R316). -/
def mayEnd (s : State) (k : Nat) : Bool :=
  match s.strand k with
  | none => true
  | some st => !st.hold || shbPerformed s k

end Sys2Proof.Machine
end

