-- ==== Sys2Proof/Machine/Saves.lean ====
section
/-! DEFINITION. Saving a strand (17 R337, 02 R58, 14 R305) and taking it back to its region start (17 R353). -/

namespace Sys2Proof.Machine

/-- Times that run in a lane are kept as cycles left (17 R335). -/
def Thread.pause (t : Thread) (now : Nat) : Thread := { t with parg := t.left now, since := 0 }
/-- Times that run again from cycle `now`. -/
def Thread.unpause (t : Thread) (now : Nat) : Thread :=
  match t.park with
  | .nap => { t with parg := now + t.parg }
  | .doze => if t.parg = 0 then t else { t with parg := now + t.parg }
  | _ => t

/-- The entries that a strand's slots hold at homes are withdrawn (14 R305). -/
def withdrawWatches (k : Nat) (s : State) : State :=
  { s with homes := s.homes.map (fun h => (h.1, { h.2 with table := h.2.table.filter (fun e => e.strand != some k) })) }

/-- A strand leaves its lane with its state in its image; its lines stay, evictable (17 R337). -/
def saveStrand (k : Nat) (s : State) : State :=
  match s.strand k with
  | none => s
  | some st =>
    let now := s.cycle st.part
    let s := (withdrawWatches k s).modLane st.laneId (fun l => { l with
      lines := l.lines.map (fun h => if h.strand = k then { h with evictable := true } else h) })
    let s := (s.modStrand k (fun st => { st with
      status := .saved, image := st.saveImage s now, threads := st.threads.map (fun t => t.pause now), pairAt := none, rearms := [] })).unparkQuota
        st.laneId
    st.shr.foldl (fun s r => saveRange st.launch st.laneId r now s) s

/-- Cutback: entries are discarded and every thread goes back to its region start (17 R353). -/
def cutBack (k : Nat) (s : State) : State :=
  match s.strand k with
  | none => s
  | some st =>
    let now := s.cycle st.part
    let one (t : Nat) (th : Thread) : Thread :=
      match st.region[t]? with
      | some r => r.restore th now (if th.park = r.park then th.ptxn else 0)
      | none => th
    saveStrand k (s.modStrand k (fun st => { st with
      ents := [], rtags := [], win := false, repl := false, waitLocs := [], stackBusy := false
      threads := ((List.range 16).zip st.threads).map (fun p => one p.1 p.2) }))

end Sys2Proof.Machine
end

