-- ==== Sys2Proof/Machine/Translate.lean ====
section
/-! DEFINITION. Translation (17 R338-R342) and the checks of an address before any access leaves the lane (08 R191,
17 R336). -/

namespace Sys2Proof.Machine

/-! ## Leaves -/

def leafBit (leaf : Dword) (n : Nat) : Bool := leaf.getLsbD n
def leafHost (leaf : Dword) : Bool := leafBit leaf 54
def leafHsh (leaf : Dword) : Bool := leafBit leaf 11
def leafNoAlg (leaf : Dword) : Bool := leafBit leaf 10
def leafShb (leaf : Dword) : Bool := leafBit leaf 9
def leafBlk (leaf : Dword) : Bool := leafBit leaf 8
def leafTso (leaf : Dword) : Bool := leafBit leaf 7
/-- ADDR, as an address. -/
def leafAddr (leaf : Dword) : Nat := leaf.toNat % 2 ^ 54 / 2 ^ 12 * 2 ^ 12

/-- What an access needs of its page (17 R339). -/
inductive Need where
  | rd | w | rdw | red | x
  deriving DecidableEq, Repr

def permits (leaf : Dword) : Need → Bool
  | .rd => leafBit leaf 4
  | .w => leafBit leaf 5
  | .rdw => leafBit leaf 4 && leafBit leaf 5
  | .red => leafBit leaf 5
  | .x => leafBit leaf 6

/-- The package with a rank, as package `own` sees it (17 R341, 19 R379). -/
def State.ofRank (s : State) (own r : Nat) : Option Nat :=
  if (s.pkg own).rank = r then some own
  else if (s.pkg own).inDomain then
    (s.pkgs.find? (fun p => p.2.inDomain && p.2.rank == r)).map (fun p => p.1)
  else none

/-- A near-memory address lies in the partition's memory slice (16 R319). -/
def Part.owns (p : Part) (a : Nat) : Bool := p.gran.contains (a / (10 * gb))

/-- The capacity installed at a far offset's home covers it: 16 LPDDR channels, then four expander ports of 3,072 GB (10 R387,
19 R374). -/
def farInstalled (f : Nat) : Bool :=
  if f < 4096 * gb then decide (f < 16 * (Config.lpddrGB * gb))
  else
    let e := f - 4096 * gb
    decide (e < 4 * (3072 * gb)) && decide (e % (3072 * gb) < Config.expanderGB (e / (3072 * gb)) * gb)

/-- The page of `2 ^ log` bytes that a leaf maps is one the partition may use, whole (17 R341). Near memory of another package is
checked there. -/
def leafAllowed (s : State) (part : PartId) (log : Nat) (leaf : Dword) : Bool :=
  if leafHost leaf then leafHsh leaf
  else
    let a := leafAddr leaf % 2 ^ 45
    let z := a + 2 ^ log - 1
    let own := leafAddr leaf / 2 ^ 45 == (s.pkg part.pkg).rank
    if a < 2 ^ 43 then
      (if own then (s.part part).owns a && (s.part part).owns z else (s.ofRank part.pkg (leafAddr leaf / 2 ^ 45)).isSome)
    else decide (2 ^ 44 ≤ a) && own && farInstalled (a % 2 ^ 44) && farInstalled (z % 2 ^ 44)

/-- The key of the byte at an offset of a page, and the package it lies in. -/
def leafKey (s : State) (pkg : Nat) (leaf : Dword) (off : Nat) : Nat :=
  if leafHost leaf then hostBase + leafAddr leaf + off
  else devKey ((s.ofRank pkg (leafAddr leaf / 2 ^ 45)).getD pkg) (leafAddr leaf % 2 ^ 45) + off

/-! ## Walks (17 R339) -/

inductive Walk where
  | page
  | bad
  | leaf (log : Nat) (e : Dword)
  deriving DecidableEq, Repr

/-- The levels of a walk: the lowest bit that indexes the level, its index bits, whether a leaf may stand there and
whether one must. -/
def walkLevels : List (Nat × Nat × Bool × Bool) :=
  [(48, 8, false, false), (39, 9, false, false), (30, 9, true, false), (21, 9, true, false), (16, 5, true, true)]

/-- Where the entry of a table stands that an address indexes with bits [sh + n - 1:sh]; none where no package has the table's
rank. -/
def tableKey (s : State) (pkg table va sh n : Nat) : Option Nat :=
  (s.ofRank pkg (table / 2 ^ 45)).map (fun q => devKey q (table % 2 ^ 45 + 8 * (va / 2 ^ sh % 2 ^ n)))

/-- The entry of a walk cache for a context at a level of an address. -/
def walkHit (w : List WalkE) (c : CtxId) (va sh : Nat) : Option Dword :=
  (w.find? (fun e => e.ctx == c && e.sh == sh && e.va == va / 2 ^ sh)).map (fun e => e.entry)

/-- The entry that a walk finds at a level: the walk cache's, or the table's. -/
def tableEntry (s : State) (w : List WalkE) (c : CtxId) (table va sh n : Nat) : Option Dword :=
  match walkHit w c va sh with
  | some e => some e
  | none => (tableKey s c.part.pkg table va sh n).map (fun k => BitVec.ofNat 64 (s.read 8 k))

/-- What a walk makes of one entry: its end, or the next table. -/
def walkStep (s : State) (part : PartId) (sh : Nat) (may must : Bool) (e : Dword) : Walk ⊕ Nat :=
  if !leafBit e 0 then .inl .page
  else if e.toNat / 2 ^ 55 ≠ 0 ∨ e.toNat / 4 % 4 ≠ 0 then .inl .bad
  else if leafBit e 1 then
    .inl (if !may ∨ leafAddr e % 2 ^ sh ≠ 0 ∨ !leafAllowed s part sh e then .bad else .leaf sh e)
  else if must ∨ e.toNat / 4 % 2 ^ 10 ≠ 0 then .inl .bad
  else .inr (leafAddr e)

/-- A walk from a table, with the help of a walk cache. -/
def walkFrom (s : State) (w : List WalkE) (c : CtxId) (va : Nat) : Nat → List (Nat × Nat × Bool × Bool) → Walk
  | _, [] => .bad
  | table, (sh, n, may, must) :: rest => match tableEntry s w c table va sh n with
    | none => .bad
    | some e => match walkStep s c.part sh may must e with
      | .inl r => r
      | .inr next => walkFrom s w c va next rest

/-- The table entries that a walk goes through to a further table: a walk cache holds them; invalid entries are never held. -/
def walkPath (s : State) (w : List WalkE) (c : CtxId) (va : Nat) : Nat → List (Nat × Nat × Bool × Bool) → List WalkE
  | _, [] => []
  | table, (sh, n, may, must) :: rest => match tableEntry s w c table va sh n with
    | none => []
    | some e => match walkStep s c.part sh may must e with
      | .inl _ => []
      | .inr next => { ctx := c, sh := sh, va := va / 2 ^ sh, entry := e } :: walkPath s w c va next rest

/-- Where a walk reads entries of tables in memory. -/
def walkReads (s : State) (w : List WalkE) (c : CtxId) (va : Nat) : Nat → List (Nat × Nat × Bool × Bool) → List Nat
  | _, [] => []
  | table, (sh, n, may, must) :: rest =>
    let here := if (walkHit w c va sh).isSome then [] else (tableKey s c.part.pkg table va sh n).toList
    match tableEntry s w c table va sh n with
    | none => here
    | some e => match walkStep s c.part sh may must e with
      | .inl _ => here
      | .inr next => here ++ walkReads s w c va next rest

/-- A walk without a walk cache: those of the I/O die (17 R338). -/
def State.walk (s : State) (c : CtxId) (va : Nat) : Walk := walkFrom s [] c va (s.ctx c).root walkLevels

/-- The walk cache of the die of a tile. Tile t of a partition lies on die t mod 4 (16 R319). -/
def dieOf (t : TileId) : Nat × Nat := (t.part.pkg, t.t % 4)
def State.walkCache (s : State) (t : TileId) : List WalkE := agetD s.walks (dieOf t) []

/-- A walk for a tile's lanes and stream engines. -/
def State.walkVia (s : State) (t : TileId) (c : CtxId) (va : Nat) : Walk :=
  walkFrom s (s.walkCache t) c va (s.ctx c).root walkLevels

/-- What such a walk leaves in the walk cache of 256 entries: the newest, the model's choice (log entry 64). -/
def State.walkFill (s : State) (t : TileId) (c : CtxId) (va : Nat) : State :=
  let w := s.walkCache t
  let p := walkPath s w c va (s.ctx c).root walkLevels
  { s with walks := aput s.walks (dieOf t) ((p ++ w.filter (fun e => !p.contains e)).take 256) }

/-! ## Translation caches (17 R338) -/

def TlbE.covers (e : TlbE) (c : CtxId) (va : Nat) : Bool := e.ctx == c && va / 2 ^ e.log == e.va / 2 ^ e.log

def State.tlbFind (s : State) (t : TileId) (c : CtxId) (va : Nat) : Option TlbE :=
  (s.tile t).tlb.find? (fun e => e.covers c va)

/-- The translation of an address for the lanes and stream engines of a tile: its cache's, or a walk's (17 R338). -/
def State.translate (s : State) (t : TileId) (c : CtxId) (va : Nat) : Walk :=
  match s.tlbFind t c va with
  | some e => .leaf e.log e.leaf
  | none => s.walkVia t c va

/-- A leaf enters a tile's translation cache of 4,096 entries: the newest stay, the model's choice (log entry 64). -/
def State.tlbFill (s : State) (t : TileId) (e : TlbE) : State :=
  s.modTile t (fun x => { x with tlb := (e :: x.tlb).take 4096 })

/-! ## The checks of R191 -/

/-- Where an access goes: a byte key with the page's leaf (none in the scratchpad window, with the tile), or the strand's
own image (17 R336). -/
inductive Place where
  | mem (key : Nat) (leaf : Option Dword) (tile : Nat)
  | image (off : Nat)
  deriving DecidableEq, Repr

/-- What the checks of an address come to. -/
inductive Chk where
  | at_ (p : Place)
  | walk (va : Nat)
  | stop (cause : Nat)
  deriving DecidableEq, Repr

def windowBase : Nat := 0xFF000000000000

/-- The own image may be loaded from below 0x0580, and stored to in the trap frame; atomics have no place there (17 R336). -/
def imageOk (need : Need) (off size : Nat) : Bool :=
  match need with
  | .rd => decide (off + size ≤ 0x580)
  | .w => decide (0x240 ≤ off ∧ off + size ≤ 0x340)
  | _ => false

/-- Checks 1 to 5 of 08 R191 for one address of a strand. -/
def checkAddr (s : State) (st : Strand) (need : Need) (va : Dword) (size : Nat) : Chk :=
  let v := va.toNat
  if 2 ^ 56 ≤ v then .stop 0x0E
  else if v % size ≠ 0 then .stop 0x0D
  else if v / 2 ^ 48 = 0xFF then
    let o := v % 2 ^ 48
    if (s.part st.part).tiles ≤ o / 2 ^ 23 then .stop 0x0E
    else .at_ (.mem (scratchKey st.part.pkg (s.part st.part) (o / 2 ^ 23) (o % 2 ^ 23)) none (o / 2 ^ 23))
  else if v / 2 ^ 48 = 0xFE then
    if st.priv && imageOk need (v % 2 ^ 48) size then .at_ (.image (v % 2 ^ 48)) else .stop 0x0E
  else match s.tlbFind st.tileId st.ctx v with
    | none => .walk v
    | some e =>
      if permits e.leaf need then .at_ (.mem (leafKey s st.part.pkg e.leaf (v % 2 ^ e.log)) (some e.leaf) st.tile)
      else .stop 0x10

/-! ## Instruction fetch -/

/-- The translation of a fetch address (17 R339). The image is no place to fetch from (17 R336). An address of the scratchpad window is
translated as any other: 08 R191 speaks of data accesses only, so this is the model's choice (log entry 62). -/
def checkFetch (s : State) (st : Strand) (pc : Pc) : Chk :=
  if pc.toNat / 2 ^ 48 = 0xFE then .stop 0x0E
  else match s.tlbFind st.tileId st.ctx pc.toNat with
  | none => .walk (linePc pc).toNat
  | some e =>
    if permits e.leaf .x then .at_ (.mem (leafKey s st.part.pkg e.leaf ((linePc pc).toNat % 2 ^ e.log)) (some e.leaf) st.tile)
    else .stop 0x10

/-- The page fault of a strand: it is marked replayable, and the host is told (17 R343). -/
def State.pageFault (s : State) (k va : Nat) : State :=
  match s.strand k with
  | none => s
  | some st =>
    (s.modStrand k (fun st => { st with repl := true })).postBy st.part (.strand k) 0x8001 (va + at_ st.unit 64)

end Sys2Proof.Machine
end

