-- ==== Sys2Proof/Machine/Control.lean ====
section
/-! DEFINITION. Control flow, traps and parking, group 0x0 but LAUNCH (07 R160-R171, 02 R52). -/

namespace Sys2Proof.Machine

/-! ## Branch targets (04 R84, R85) -/

/-- A format B target (04 R93). -/
def branchTarget (pc : Pc) (off : BitVec 30) (slot : BitVec 3) : Pc :=
  (linePc pc + (off.signExtend 56) <<< 6) ||| slot.zeroExtend 56

def targetFault (t : Nat) (v : Nat) : Flt := { cause := 7, addr := v, lowt := t }

/-- The TGT bit of a target's slot. -/
def FetchLine.marks (f : FetchLine) (pc : Pc) : Bool := f.data.getLsbD (slotPc pc)

/-- What keeps a checked branch from a target: its TGT bit, or the fetch of its line. -/
def targetChk (s : State) (st : Strand) (t : Nat) (pc : Pc) : Option Eff :=
  match s.fetched st pc with
  | some f => if f.marks pc then none else some (.stop (targetFault t pc.toNat))
  | none => match checkFetch s st pc with
    | .walk va => some (.walk va)
    | .stop c => some (.stop { cause := c, addr := (linePc pc).toNat, lowt := t })
    | .at_ _ => some .wait

def firstSome {β γ : Type} (f : β → Option γ) : List β → Option γ
  | [] => none
  | x :: xs => match f x with
    | some y => some y
    | none => firstSome f xs

/-- The checks of every active thread's target: the slots of all first, then TGT and the fetch of each. 04 R85 does not order the
checks of one thread against another's, so that order is the model's choice (log entry 62). -/
def targetsChk (s : State) (st : Strand) (ts : List (Nat × Pc)) : Option Eff :=
  match ts.find? (fun p => decide (5 ≤ slotPc p.2)) with
  | some p => some (.stop (targetFault p.1 p.2.toNat))
  | none => firstSome (fun p => targetChk s st p.1 p.2) ts

/-- The PCs of threads set. -/
def setPcs (k : Nat) (ts : List (Nat × Pc)) (s : State) : State :=
  s.modStrand k (fun st => ts.foldl (fun st p => st.modThread p.1 (fun th => { th with pc := p.2 })) st)

/-- A 64-bit register target with nonzero bits [63:56] or [5:3] (07 R160). -/
def regTargetBad (v : Dword) : Bool := decide (2 ^ 56 ≤ v.toNat) || v.toNat / 8 % 8 != 0

/-- The targets that a register names for the active threads, or the first bad one. -/
def regTargets (s : State) (x : Iss) : Except Flt (List (Nat × Pc)) :=
  let vs := x.act.map (fun t => (t, readOpd s x (srcAt x.sh .a) t))
  match vs.find? (fun p => regTargetBad p.2) with
  | some p => .error (targetFault p.1 p.2.toNat)
  | none => .ok (vs.map (fun p => (p.1, p.2.truncate 56)))

/-! ## The return stack (07 R161) -/

/-- A push; a lane that holds four entries of the thread spills its oldest. -/
def Thread.push (th : Thread) (ret : Pc) : Thread :=
  { th with stack := th.stack.take th.depth ++ [ret], depth := th.depth + 1, inLane := min (th.inLane + 1) 4 }
def Thread.topPc (th : Thread) : Pc := th.stack.getD (th.depth - 1) 0
def Thread.pop (th : Thread) : Thread := { th with depth := th.depth - 1, inLane := th.inLane - 1 }

/-- Entries of a thread lie in the image, and none in the lane. -/
def Thread.needsFill (th : Thread) : Bool := th.inLane == 0 && th.depth != 0

def callDepth (x : Iss) (bad : Thread → Bool) : Option Nat := x.act.find? (fun t => bad (x.st.thread t))

/-- The oldest entries that full threads spill into the image when they push (07 R161). -/
def spill (ts : List Nat) (st : Strand) : List Host.Cell :=
  (ts.filter (fun t => (st.thread t).inLane == 4)).foldl (fun im t =>
    putStack t ((st.thread t).depth - 4) ((st.thread t).stack.getD ((st.thread t).depth - 4) 0) im) st.image

/-- The pushes of a call: the strand is not ready while an entry spills. -/
def pushAll (x : Iss) (s : State) : State :=
  s.modStrand x.k (fun st =>
    let st := { st with stackBusy := x.act.any (fun t => (st.thread t).inLane == 4), image := spill x.act st }
    x.act.foldl (fun st t => st.modThread t (fun th => th.push (nextPc x.pc))) st)

/-! ## The instructions -/

def effNop : Effect := fun _ s => .ok s
/-- NOP (07 R160). -/
def execNop (h : Hdr) (s : State) : Result :=
  issue (.nop h) effNop s

/-- A branch to given targets, once they are checked. -/
def branchTo (ts : List (Nat × Pc)) : Effect := fun x s =>
  match targetsChk s x.st ts with
  | some e => e
  | none => .ok (setPcs x.k ts s)

def effBra (off : BitVec 30) (slot : BitVec 3) : Effect := fun x =>
  branchTo (x.act.map (fun t => (t, branchTarget x.pc off slot))) x
/-- BRA (07 R160). -/
def execBra (h : Hdr) (off : BitVec 30) (slot : BitVec 3) (s : State) : Result :=
  issue (.bra h off slot) (effBra off slot) s

def effBrx : Effect := fun x s =>
  match regTargets s x with
  | .error f => .stop f
  | .ok ts => branchTo ts x s
/-- BRX (07 R160). -/
def execBrx (h : Hdr) (a : Opd) (s : State) : Result :=
  issue (.brx h a) effBrx s

/-- A call to given targets: the targets, then the stacks are checked before anything changes. -/
def callTo (ts : List (Nat × Pc)) : Effect := fun x s =>
  match targetsChk s x.st ts with
  | some e => e
  | none => match callDepth x (fun th => decide (64 ≤ th.depth)) with
    | some t => .stop { cause := 9, lowt := t }
    | none => .ok (setPcs x.k ts (pushAll x s))

def effCall (off : BitVec 30) (slot : BitVec 3) : Effect := fun x =>
  callTo (x.act.map (fun t => (t, branchTarget x.pc off slot))) x
/-- CALL (07 R160, R161). -/
def execCall (h : Hdr) (off : BitVec 30) (slot : BitVec 3) (s : State) : Result :=
  issue (.call h off slot) (effCall off slot) s

def effCallx : Effect := fun x s =>
  match regTargets s x with
  | .error f => .stop f
  | .ok ts => callTo ts x s
/-- CALLX (07 R160, R161). -/
def execCallx (h : Hdr) (a : Opd) (s : State) : Result :=
  issue (.callx h a) effCallx s

def effRet : Effect := fun x s =>
  match callDepth x (fun th => th.depth == 0) with
  | some t => .stop { cause := 9, lowt := t }
  | none =>
    if x.act.any (fun t => (x.st.thread t).needsFill) then .wait
    else
      let ts := x.act.map (fun t => (t, (x.st.thread t).topPc))
      match ts.find? (fun p => decide (5 ≤ slotPc p.2)) with
      | some p => .stop (targetFault p.1 p.2.toNat)
      | none => .ok (setPcs x.k ts (s.modStrand x.k (fun st =>
          let st := x.act.foldl (fun st t => st.modThread t Thread.pop) st
          { st with stackBusy := x.act.any (fun t => (st.thread t).needsFill) })))
/-- RET (07 R160, R161). A lane left empty of a thread's entries is filled, and the strand is not ready meanwhile. -/
def execRet (h : Hdr) (s : State) : Result :=
  issue (.ret h) effRet s

/-- Whether what BPEND tests is unsettled (02 R52). -/
def bpendTest (x : Iss) (test : Opd) (fmask : BitVec 12) : Bool :=
  (Use.locs ⟨.a, test, 1, 1, []⟩).any (fun l => x.st.tagged l x.t0) ||
  (List.range 12).any (fun j => fmask.getLsbD j && (x.st.flagCount j x.t0 != 0 || x.st.residual (flagLoc j) x.t0))

/-- The target is checked whenever a thread is active, whether the branch is taken or not: 04 R85 speaks of a PC set by a branch
and does not say so of BPEND (log entry 59). -/
def effBpend (off : BitVec 30) (slot : BitVec 3) (test : Opd) (sense : Bool) (fmask : BitVec 12) : Effect := fun x s =>
  let ts := x.act.map (fun t => (t, branchTarget x.pc off slot))
  match targetsChk s x.st ts with
  | some e => e
  | none => .ok (if bpendTest x test fmask != sense then setPcs x.k ts s else s)
/-- BPEND (02 R52). -/
def execBpend (h : Hdr) (off : BitVec 30) (slot : BitVec 3) (test : Opd) (sense : Bool) (fmask : BitVec 12) (s : State) : Result :=
  issue (.bpend h off slot test sense fmask) (effBpend off slot test sense fmask) s

/-- The active threads exit, and their stacks are discarded (07 R161, R162). -/
def exitThreads (x : Iss) (s : State) : State :=
  s.modStrand x.k (fun st => x.act.foldl (fun st t => st.modThread t (fun th =>
    { th with st := .exited, park := .none, psel := 0, parg := 0, ptxn := 0, stack := [], depth := 0, inLane := 0 })) st)

def effExit : Effect := fun x s =>
  let s' := exitThreads x s
  match s'.strand x.k with
  | none => .ok s'
  | some st => if !st.allExited then .ok s' else if mayEnd s' x.k then .ok (strandEnd x.k s') else .wait
/-- EXIT (07 R162). -/
def execExit (h : Hdr) (s : State) : Result :=
  issue (.exit h) effExit s

def effYield : Effect := fun x s => .ok (if x.st.knell then saveStrand x.k s else s)
/-- YIELD (07 R163). -/
def execYield (h : Hdr) (s : State) : Result :=
  issue (.yield h) effYield s

def effIdem : Effect := fun x s => .ok (s.modStrand x.k (fun st => { st with region := st.records x.t0 }))
/-- IDEM (07 R164). -/
def execIdem (h : Hdr) (s : State) : Result :=
  issue (.idem h) effIdem s

/-- TRAP's code as DETAIL holds it (17 R346). -/
def codeDetail (code : BitVec 16) : BitVec 256 := code.zeroExtend 256

/-- With PRIV = 1 and TVEC = 0 both halt rows of 07 R166 hold; the double trap is the model's choice (log entry 59). -/
def effTrap (code : BitVec 16) : Effect := fun x s =>
  if x.st.priv then .stop { cause := 0x32, lowt := x.lead, detail := codeDetail code }
  else if x.st.tvec = 0 then .stop { cause := 0x31, lowt := x.lead, detail := codeDetail code }
  else .ok (s.enterHandler x.k 1 code.toNat (maskOf x.act))
/-- TRAP (07 R166, R167). -/
def execTrap (h : Hdr) (code : BitVec 16) (s : State) : Result :=
  issue (.trap h code) (effTrap code) s

def effBrk (code : BitVec 16) : Effect := fun x s =>
  .ok (s.strandFault x.k { cause := 0x30, lowt := x.lead, detail := codeDetail code }
    { pc := x.pc, exm := x.exm, act := x.act } 3 code.toNat (maskOf x.act))
/-- BRK (07 R166, 17 R348). -/
def execBrk (h : Hdr) (code : BitVec 16) (s : State) : Result :=
  issue (.brk h code) (effBrk code) s

/-- The mode-word bits that SEL selects (07 R169, R170). -/
def modeMask (sel : BitVec 5) : Word :=
  (if sel.getLsbD 0 then 0x8000#32 else 0#32) ||| (if sel.getLsbD 1 then 0x4000#32 else 0#32) |||
  (if sel.getLsbD 2 then 0x3F00#32 else 0#32) ||| (if sel.getLsbD 3 then 0x70000#32 else 0#32) |||
  (if sel.getLsbD 4 then 0x80000#32 else 0#32)

def effMode (sel : BitVec 5) (imm : Word) : Effect := fun x s =>
  let m := modeMask sel
  .ok (writeRows x [(x.lead, { d := x.st.modew.zeroExtend 64 })]
    (s.modStrand x.k (fun st => { st with modew := (st.modew &&& ~~~m) ||| (imm &&& m) })))
/-- MODE (07 R170). -/
def execMode (h : Hdr) (d : Opd) (sel : BitVec 5) (imm : Word) (s : State) : Result :=
  issue (.mode h d sel imm) (effMode sel imm) s

/-- A band created for a key (13 R282, R286). -/
def Band.create (b : Band) (key : Nat) : Band := { inc := b.inc + 1, bid := at_ (b.inc % 2 ^ 27) 4 + key }

/-- The strand becomes a member of the band of a key, which its first member creates (07 R171). -/
def joinBand (k launch key : Nat) (s : State) : State :=
  (s.modBand launch key (fun b =>
    let b := if b.members.isEmpty then b.create key else b
    { b with members := b.members ++ [k] })).modStrand k (fun st => { st with bands := st.bands ++ [key] })

def effJoin (key : BitVec 4) : Effect := fun x s =>
  let n := key.toNat
  if x.st.bands.contains n then
    .ok (writeRows x [(x.lead, w32 (BitVec.ofNat 32 (s.bandOf x.st.launch n).bid))] s)
  else if 4 ≤ x.st.bands.length then .stop { cause := 0x0A, lowt := x.lead }
  else
    let s := joinBand x.k x.st.launch n s
    .ok (writeRows x [(x.lead, w32 (BitVec.ofNat 32 (s.bandOf x.st.launch n).bid))] s)
/-- JOIN (07 R171, 13 R282, R283). -/
def execJoin (h : Hdr) (d : Opd) (key : BitVec 4) (s : State) : Result :=
  issue (.join h d key) (effJoin key) s

/-- A thread is parked in BARW on the band of a key (13 R285). -/
def Strand.barrierParked (st : Strand) (key : Nat) : Bool :=
  st.threads.any (fun th => th.st == .parked && th.park == .barw && th.psel == key)

def effLeave (key : BitVec 4) : Effect := fun x s =>
  if !x.st.bands.contains key.toNat || x.st.barrierParked key.toNat then .stop { cause := 0x0A, lowt := x.lead }
  else .ok (leaveBand x.k key.toNat s)
/-- LEAVE (07 R171, 13 R284, R285). -/
def execLeave (h : Hdr) (key : BitVec 4) (s : State) : Result :=
  issue (.leave h key) (effLeave key) s

/-- The cycle in which a thread's NAP ends (07 R165). -/
def napEnd (s : State) (x : Iss) (imm : Word) (t : Nat) : Nat :=
  x.cyc t + max 1 (imm.toNat + (readWord s x (srcAt x.sh .a) 0 t (x.cyc t)).toNat)

def effNap (imm : Word) : Effect := fun x s =>
  .ok (s.modStrand x.k (fun st => x.act.foldl (fun st t => st.modThread t (fun th =>
    { th with st := .parked, park := .nap, psel := 0, parg := napEnd s x imm t, ptxn := 0 })) st))
/-- NAP (07 R165). -/
def execNap (h : Hdr) (a : Opd) (imm : Word) (s : State) : Result :=
  issue (.nap h a imm) (effNap imm) s

end Sys2Proof.Machine
end

