-- ==== Sys2Proof/Machine/Fabric.lean ====
section
/-! DEFINITION. Flits and the virtual channels of the fabric ports (19 R376-R378), and the messages that cross the fabric: each becomes a
data flit of its channel and arrives in the order of its route. -/

namespace Sys2Proof.Machine

/-! ## Flits (19 R376) -/

def hSeq (h : BitVec 64) : Nat := (h.extractLsb' 52 12).toNat
def hVc (h : BitVec 64) : Nat := (h.extractLsb' 50 2).toNat
def hKind (h : BitVec 64) : Nat := (h.extractLsb' 48 2).toNat
def hAseq (h : BitVec 64) : Nat := (h.extractLsb' 36 12).toNat
def hDst (h : BitVec 64) : Nat := (h.extractLsb' 27 9).toNat
def hSrc (h : BitVec 64) : Nat := (h.extractLsb' 18 9).toNat
def hZero (h : BitVec 64) : Nat := (h.extractLsb' 0 18).toNat

/-- A header from its fields. -/
def flitHdr (seq vc kind aseq dst src : Nat) : BitVec 64 :=
  BitVec.ofNat 64 (at_ (seq % 4096) 52 + at_ vc 50 + at_ kind 48 + at_ (aseq % 4096) 36 + at_ dst 27 + at_ src 18)

/-- Bytes 0-247 of a flit, the header's lowest first. -/
def flitBytes (h : BitVec 64) (payload : List Byte) : List Byte :=
  (List.range 8).map (fun i => h.extractLsb' (8 * i) 8) ++ payload

def mkFlit (h : BitVec 64) (payload : List Byte) : Flit := ⟨h, payload, Config.flitCrc (flitBytes h payload)⟩

/-- The payload of flit `n`. -/
def flitPayload (n : Nat) : List Byte := (List.range 240).map (Config.payloadByte n)

/-! ## Ports and channels -/

def portOf (s : State) (n port : Nat) : Port := agetD (s.pkg n).ports port {}
def State.modPort (s : State) (n port : Nat) (f : Port → Port) : State :=
  s.modPkg n (fun p => { p with ports := amodD p.ports port {} f })
def Port.vc (p : Port) (v : Nat) : VChan := agetD p.vcs v {}
def State.modVc (s : State) (n port v : Nat) (f : VChan → VChan) : State :=
  s.modPort n port (fun p => { p with vcs := amodD p.vcs v {} f })

def sendFlit (n port : Nat) (f : Flit) (s : State) : State := s.modPort n port (fun p => { p with sent := p.sent ++ [f] })

/-- A flit that answers another, with a payload of its own. -/
def sendCtl (n port : Nat) (h : BitVec 64) (s : State) : State :=
  sendFlit n port (mkFlit h (flitPayload s.fresh)) { s with fresh := s.fresh + 1 }

/-- Data flits that a channel's replay buffer holds (19 R378). -/
def replaySize : Nat := 128

/-- The unit that a port's lanes of a direction report as: 0 for those that receive, 32 for those that send (log entry 63). -/
def portUnit (port dir : Nat) : RUnit := ⟨none, repairSel 5 port (32 * dir)⟩

/-- The port that a package sends its flits through: the lowest that is up, for the spec does not say which of several carries what (log
entry 49). -/
def State.portOut (s : State) (n : Nat) : Option Nat :=
  (List.range 16).find? (fun i => (portOf s n i).up)

/-- A data flit of a channel as the port sends it: it stays in the replay buffer until an ACK covers it; none while that is full, or the
port's lanes are being tested (19 R378, 18 R365). -/
def sendData (n port vc dst src : Nat) (payload : List Byte) (s : State) : Option State :=
  let c := (portOf s n port).vc vc
  if replaySize ≤ c.replay.length || (s.testOf n (portUnit port 1)).isSome then none
  else
    let f := mkFlit (flitHdr c.next vc 0 0 dst src) payload
    some (sendFlit n port f (s.modVc n port vc (fun c => { c with next := (c.next + 1) % 4096, replay := c.replay ++ [f] })))

/-- The first flit not accepted is named, and later data flits are discarded until it arrives again. -/
def refuseFlit (n port : Nat) (h : BitVec 64) (s : State) : State :=
  let expect := ((portOf s n port).vc (hVc h)).expect
  sendCtl n port (flitHdr 0 (hVc h) 2 expect (hSrc h) (hDst h))
    ((s.modVc n port (hVc h) (fun c => { c with refusing := true })).modPort n port (fun p => { p with retries := p.retries + 1 }))

/-- A data flit that a port accepts: delivered, and acknowledged up to it. -/
def acceptData (n port vc dst src : Nat) (payload : List Byte) (s : State) : State :=
  let seq := ((portOf s n port).vc vc).expect
  sendCtl n port (flitHdr 0 vc 1 seq src dst) (s.modVc n port vc (fun c => { c with
    expect := (c.expect + 1) % 4096, refusing := false, delivered := c.delivered ++ [payload] }))

/-! ## Messages that cross the fabric (19 R377, 10 R244) -/

/-- The channel of a message and the packages it comes from and goes to; 512 stands for the switches of the domain, where its counters
are (13 R294). -/
structure Route where
  vc : Nat
  src : Nat
  dst : Nat
  deriving DecidableEq, Repr

def switches : Nat := 512

def Home.pkgNo : Home → Nat
  | .slicePort t _ => t.part.pkg
  | .near p .. | .lpddr p _ | .expander p _ | .hostLine p => p

/-- A route between two packages, none within one. -/
def route? (vc src dst : Nat) : Option Route := if src = dst then none else some ⟨vc, src, dst⟩

def Op.route (o : Op) : Option Route := route? 0 o.ctx.part.pkg (Home.pkgNo o.home)

def State.pkgOfStrand (s : State) (k : Nat) (d : Nat) : Nat := match s.strand k with
  | some st => st.part.pkg
  | none => d

/-- Requests and fills go on channel 0, answers, invalidations with their acknowledgements and what watches send on 1, barrier messages on
2, collective commands and their acknowledgements on 3. -/
def Msg.route (s : State) : Msg → Option Route
  | .result _ op _ => (aget s.ops op).bind (fun o => route? 1 (Home.pkgNo o.home) o.ctx.part.pkg)
  | .arm k _ _ _ _ h => route? 0 (s.pkgOfStrand k (Home.pkgNo h)) (Home.pkgNo h)
  | .armAck k _ _ _ _ _ _ h | .wake k _ _ _ h | .evict k _ _ h => route? 1 (Home.pkgNo h) (s.pkgOfStrand k (Home.pkgNo h))
  | .inval op tile _ => (aget s.ops op).bind (fun o => route? 1 (Home.pkgNo o.home) tile.part.pkg)
  | .ack op tile => (aget s.ops op).bind (fun o => route? 1 tile.part.pkg (Home.pkgNo o.home))
  | .fill tile line .. => if line < scratchBase then route? 0 tile.part.pkg (line / 2 ^ 45) else none
  | .dom _ b .. => (aget s.launches b.launch).map (fun l => ⟨2, l.ctx.part.pkg, switches⟩)
  | .domPhase _ b .. => (aget s.launches b.launch).map (fun l => ⟨2, switches, l.ctx.part.pkg⟩)
  | .coll p _ c => route? 3 c.ctx.part.pkg p.pkg
  | .collAck p _ _ _ src => route? 3 src p.pkg
  | _ => none

/-- Where a message's flit leaves: nowhere else than at a port of its package, unless a switch sends it. -/
def State.leaves (s : State) (r : Route) (n : Nat) : Option State :=
  if r.src = switches then some s
  else (s.portOut r.src).bind (fun port =>
    sendData r.src port r.vc (s.pkg r.dst).rank (s.pkg r.src).rank (flitPayload n) s)

/-- Where it arrives: accepted there and acknowledged, or `refused` with a NACK, unless it is for a switch. -/
def State.enters (s : State) (r : Route) (n : Nat) (refused : Bool) : Option State :=
  if r.dst = switches then some s
  else (s.portOut r.dst).map (fun port =>
    if refused then refuseFlit r.dst port (flitHdr 0 r.vc 0 0 (s.pkg r.dst).rank (s.pkg r.src).rank) s
    else acceptData r.dst port r.vc (s.pkg r.dst).rank (s.pkg r.src).rank (flitPayload n) s)

/-- A message as one flit from port to port, over the switches between them; one that was refused before leaves no second time. What a
payload looks like the spec does not say. -/
def State.transmit (s : State) (r : Route) (n : Nat) (again refused : Bool) : Option State :=
  (if again then some s else s.leaves r n).bind (fun s => s.enters r n refused)

end Sys2Proof.Machine
end

