-- ==== Sys2Proof/Machine/Homes.lean ====
section
/-! DEFINITION. What a home does: operators (08 R202, 11 R270), buffers at a slice port (08 R211), copies and invalidations
(10 R242), watches (14 R299-R303), accepting and applying operations (11 R262). -/

namespace Sys2Proof.Machine

/-! ## Operators (08 R202) -/

def signedNat (w x : Nat) : Int := (BitVec.ofNat w x).toInt

def addF32 (x v : Nat) : Nat := fp32.arith .rne false ((fp32.decode x).add .rne (fp32.decode v))
def rsubF32 (x v : Nat) : Nat := fp32.arith .rne false ((fp32.decode v).add .rne (fp32.decode x).neg)

/-- The value written by an operation with operand `v` on a word of `w` bits that holds `x`; `e` is CAS's expected value. -/
def opApply (opr w v e x : Nat) : Nat :=
  match opr with
  | 0 => x
  | 1 => v
  | 2 => (x + v) % 2 ^ w
  | 3 => x &&& v
  | 4 => x ||| v
  | 5 => x ^^^ v
  | 6 => if signedNat w x < signedNat w v then v else x
  | 7 => if signedNat w v < signedNat w x then v else x
  | 8 => max x v
  | 9 => min x v
  | 10 => addF32 x v
  | 11 => fmaxBits fp32 x v
  | 12 => fminBits fp32 x v
  | 13 => rsubF32 x v
  | 14 => v
  | _ => if x = e then v else x

/-- A queue entry applied to `x`: the value left, and what each component saw (11 R270). -/
def QOp.apply (w : Nat) : QOp → Nat → Nat × List (Nat × Nat)
  | .one id opr v e, x => (opApply opr w v.toNat e.toNat x, [(id, x)])
  | .comp opr v e l, x =>
    let r := e.apply w x
    (opApply opr w v.toNat 0 x, r.2 ++ (l.apply w r.1).2)

def QOp.ids : QOp → List Nat
  | .one id _ _ _ => [id]
  | .comp _ _ e l => e.ids ++ l.ids

def QOp.opr : QOp → Nat
  | .one _ o _ _ => o
  | .comp o _ _ _ => o
def QOp.val : QOp → BitVec 512
  | .one _ _ v _ => v
  | .comp _ v _ _ => v

/-! ## Buffers (08 R206-R212) -/

def BufSt.code : BufSt → Nat
  | .empty => 1
  | .filling => 2
  | .full => 3
  | .draining => 4
  | .stationary => 5

/-- The declared buffer of a context that holds an offset of a tile's slice. -/
def State.bufferAt (s : State) (tc : TileCtx) (off : Nat) : Option (Nat × Buf) :=
  (s.tc tc).bufs.find? (fun b => decide (b.2.base ≤ off ∧ off < b.2.base + b.2.size))

/-- The table of 08 R211. -/
def BufSt.admits (st : BufSt) (load : Bool) : Bool :=
  match st with
  | .empty => false
  | .filling => !load
  | _ => load

/-- DETAIL of the buffer-state fault (17 R346). -/
def bufferDetail (buf : Nat) (st : Nat) (tile : Nat) : BitVec 256 := BitVec.ofNat 256 (buf + at_ st 8 + at_ tile 16)

/-- A context whose tables are on its tiles: running, its knell rung, or halted; those of a saved one may have left (17 R357). -/
def State.onTiles (s : State) (c : CtxId) : Bool := (s.ctx c).st == 1 || (s.ctx c).st == 2 || (s.ctx c).st == 4

/-- The refusal of an access at a slice port, if any: by the buffers of the context `c` that makes it, and by those that the other
contexts of the partition have on the tile, since a port checks every access that falls inside a region (08 R211, 12 R279; log
entry 16). -/
def State.bufferRefuses (s : State) (c : CtxId) (h : Home) (key : Nat) (load : Bool) : Option Flt :=
  match h with
  | .slicePort tile _ =>
    (c :: (contextsOf tile.part).filter (fun d => d != c && s.onTiles d)).findSome? (fun d =>
      match s.bufferAt ⟨d, tile.t⟩ ((key - scratchBase) % 2 ^ 23) with
      | some (n, b) => if b.st.admits load then none else some { cause := 0x12, detail := bufferDetail n b.st.code tile.t }
      | none => none)
  | _ => none

/-! ## Operations to and from their strands -/

/-- Words that a returned value writes (08 R195, R197, R200). -/
def loadValue (ty : Ty) (v : Nat) : Dword :=
  match ty with
  | .i8 => (BitVec.ofNat 8 v).signExtend 64
  | .i16 => (BitVec.ofNat 16 v).signExtend 64
  | _ => BitVec.ofNat 64 v

def Op.writes (o : Op) (v : Nat) : List (Nat × Word) :=
  if o.block then
    (match o.dst with
      | .v j => (List.range 16).map (fun t => (vecKey j.val t, BitVec.ofNat 32 (v / 2 ^ (32 * t))))
      | _ => [])
  else resultWords o.dst (decide (o.size = 8)) [o.thread] (loadValue o.ty v)

/-- The header check of a typed LDB or STB (08 R198): the formats that the type accepts. -/
def blkAccepts (ty : Ty) (fmt : Nat) : Bool :=
  fmt == 0x3F || (match ty with
    | .q4x => fmt == 1
    | .e4m3 => fmt == 2
    | .e5m2 => fmt == 3
    | .i8 => fmt == 4
    | .bf16x2 => fmt == 5
    | .n8 => fmt == 6
    | _ => true)

/-- STEP of a failed check (06 R152). -/
def blkStep (fmt : Nat) : Nat := if fmtReserved fmt then 1 else 7

def blkFault (opnd : Opd) (hdr : Nat) : Flt :=
  { cause := 0x11
    detail := BitVec.ofNat 256 ((Decode.opdCode opnd).toNat + at_ (hdr % 65536) 8 + at_ (blkStep (hdr % 64)) 24) }

/-- A write is performed, or a read is fixed, where the operation is gone or says so (10 R240). -/
def State.opPerformed (s : State) (n : Nat) : Bool :=
  match aget s.ops n with
  | none => true
  | some o => o.performed

/-! ## Scopes (10 R245, R246) -/

/-- The instance is the issuing strand alone, given the band that the strand belongs to (10 R245): a release there waits for
nothing. -/
def Scope.alone (band : Option Nat) : Scope → Bool
  | .thread | .strand => true
  | .band => band.isNone
  | _ => false

/-- Two packages are one or lie in one load-store domain. -/
def State.sameDomain (s : State) (a b : Nat) : Bool := a == b || ((s.pkg a).inDomain && (s.pkg b).inDomain)

/-- The tiles with agents of a scope's instance for a strand, where band scope means the band of a key, the strand alone for none.
The hosts of the system scope hold no copies that an invalidation waits for. -/
def State.covers (s : State) (k : Nat) (sc : Scope) (band : Option Nat) (t : TileId) : Bool :=
  match s.strand k with
  | none => true
  | some st => match sc with
    | .thread | .strand | .tile => t == st.tileId
    | .band => t == st.tileId || (match band with
      | some key => (s.bandOf st.launch key).members.any (fun m => (s.strand m).map (fun x => x.tileId) == some t)
      | none => false)
    | .pkg | .dflt => t.part.pkg == st.part.pkg
    | .dom | .sys => s.sameDomain st.part.pkg t.part.pkg

/-- An operation is performed at a scope of a strand: applied, and no agent of the instance has a copy that the write leaves
stale. At a scope of one strand, strand order says as much (10 R240, R242, R245). -/
def State.performedIn (s : State) (k : Nat) (sc : Scope) (band : Option Nat) (n : Nat) : Bool :=
  match aget s.ops n with
  | none => true
  | some o => Scope.alone band sc || (o.stage == .applied && o.acks.all (fun t => !s.covers k sc band t))

/-- The band that bid names for a strand. -/
def State.ownBand (s : State) (k : Nat) : Option Nat := (s.strand k).bind (fun st => st.band)

/-- The same where band scope means the band that bid names. -/
def State.performedAt (s : State) (k : Nat) (sc : Scope) (n : Nat) : Bool := s.performedIn k sc (s.ownBand k) n

/-- Strand `j` lies in the instance of a scope of strand `k` (10 R245). -/
def State.inScope (s : State) (k : Nat) (sc : Scope) (band : Option Nat) (j : Nat) : Bool :=
  match s.strand k, s.strand j with
  | some st, some su => (match sc with
    | .thread | .strand => j == k
    | .band => j == k || (match band with
      | some key => su.launch == st.launch && (s.bandOf st.launch key).members.contains j
      | none => false)
    | _ => s.covers k sc band su.tileId)
  | _, _ => true

/-- An acquire of a strand at a scope synchronises with a release that it reads: each of the two lies in the instances of both
(10 R246, R252). -/
def State.syncsWith (s : State) (k : Nat) (sc : Scope) (w : Sync) : Bool :=
  s.inScope k sc (s.ownBand k) w.strand && w.scopes.any (fun r => s.inScope w.strand r w.band k)

/-! ## What a strand has done before (10 R251, R256; 13 R291) -/

/-- Barrier messages of a strand that no home has applied: each counts as a write of it. -/
def State.barMsgs (s : State) (k : Nat) : List Nat :=
  (s.msgs.filter (fun m => match m.2 with
    | .bar _ _ k' .. => k' == k
    | .dom _ _ _ k' .. => k' == k
    | _ => false)).map (fun m => m.1)

/-- The writes of others that a strand's reads returned or that happen before it, each with its read. -/
def State.seenBy (s : State) (k : Nat) : List (Nat × Nat) := ((s.strand k).map (fun st => st.seen)).getD []

/-- The operations that a release waits for: the strand's own, those its reads returned, and those that happen before it. -/
def State.earlier (s : State) (k : Nat) : List Nat :=
  (s.ops.filter (fun o => o.2.strand == k)).map (fun o => o.1) ++ (s.seenBy k).map (fun r => r.2)

/-- Of these the writes that are not performed everywhere yet: what happens before a release or an arrival and others have still to
wait for (10 R252, 13 R291). -/
def State.pendingBefore (s : State) (k : Nat) : List Nat :=
  (s.earlier k).eraseDups.filter (fun n => match aget s.ops n with
    | some o => o.opr != 0 && !o.performed
    | none => false)

/-- The operations of a list, with the writes that those of them that read have returned since the list was made. -/
def State.withReturned (s : State) (k : Nat) (ids : List Nat) : List Nat :=
  ids ++ ((s.seenBy k).filter (fun r => ids.contains r.1)).map (fun r => r.2)

/-- What the release condition of a command waits for (10 R256). -/
def State.relIds (s : State) (k : Nat) : List Nat := s.earlier k ++ s.barMsgs k

/-- A release condition holds at a scope: the operations and what they have returned are performed there, and the barrier messages
applied. -/
def State.relMet (s : State) (k : Nat) (sc : Scope) (ids : List Nat) : Bool :=
  (s.withReturned k ids).all (fun n => s.performedAt k sc n && (aget s.msgs n).isNone)

/-- An operation that has nothing left to do is forgotten. -/
def State.retire (s : State) (n : Nat) : State :=
  match aget s.ops n with
  | none => s
  | some o => if o.performed && !o.ret then { s with ops := adel s.ops n } else s

/-- The unperformed writes of others that a read of a strand may have returned (10 R251). -/
def State.unperformed (s : State) (key size : Nat) : List Nat :=
  (s.ops.filter (fun o => o.2.opr != 0 && o.2.stage == .applied && !o.2.acks.isEmpty
    && decide (o.2.addr < key + size ∧ key < o.2.addr + o.2.size))).map (fun o => o.1)

/-- The releases that a read of these bytes may return. -/
def State.syncsAt (s : State) (key size : Nat) : List Sync :=
  s.syncs.filter (fun w => decide (w.addr < key + size ∧ key < w.addr + w.size))

/-- A strand's read `rd` (0 for one that has returned) returned what these bytes hold: the writes that are not performed, and with an
acquire at a scope what happens before the releases it synchronises with; the others are kept for an acquire fence (10 R250 to
R252). -/
def State.sees (s : State) (k rd : Nat) (acq : Option Scope) (key size : Nat) : State :=
  let ws := s.syncsAt key size
  let now := match acq with
    | some sc => ws.filter (s.syncsWith k sc)
    | none => []
  match (s.unperformed key size ++ now.flatMap (fun w => w.before)).map (fun n => (rd, n)), ws.filter (fun w => !now.contains w) with
  | [], [] => s
  | ids, rest => s.modStrand k (fun st => { st with seen := st.seen ++ ids, heard := st.heard ++ rest })

/-- An acquire fence at a scope takes in the releases that the reads before it returned (10 R250, R252). -/
def State.fenceAcquires (s : State) (k : Nat) (sc : Scope) : State :=
  match s.strand k with
  | none => s
  | some st =>
    let now := st.heard.filter (s.syncsWith k sc)
    s.modStrand k (fun st => { st with
      seen := st.seen ++ now.flatMap (fun w => w.before.map (fun n => (0, n))), heard := st.heard.filter (fun w => !now.contains w) })

/-- A write replaces the releases that stand at its bytes; an atomic update stands with them, since reading it is reading from the
release before it (10 R252). -/
def State.cutSyncs (s : State) (key size : Nat) : State :=
  { s with syncs := s.syncs.filter (fun w => !decide (w.addr < key + size ∧ key < w.addr + w.size)) }

/-- A write that is to be applied, as a release or as none. Releases with nothing left before them are forgotten. -/
def noteSync (s : State) (n : Nat) : State :=
  match aget s.ops n with
  | none => s
  | some o =>
    if o.opr = 0 then s
    else
      let s := if o.atom then s else s.cutSyncs o.addr o.size
      let live := s.syncs.filter (fun w => w.before.any (fun i => !s.opPerformed i))
      { s with syncs := if o.rels.isEmpty || o.before.isEmpty then live
                        else live ++ [⟨o.addr, o.size, o.strand, o.rels, o.band, o.before⟩] }

/-! ## Watches (14 R299-R303) -/

/-- cmp(word & mask, expected & mask) (07 R174). -/
def watchHolds (cmp : BitVec 2) (ty : Ty) (exp mask : Dword) (v : Nat) : Bool :=
  let w := if Ty.width ty = 64 then 64 else 32
  let a : BitVec 64 := (BitVec.ofNat 64 (v % 2 ^ w)) &&& mask
  let b := exp &&& mask
  let num (x : BitVec 64) : Int := if Ty.signed ty then signedNat w (x.toNat % 2 ^ w) else (x.toNat % 2 ^ w : Nat)
  match cmp.toNat with
  | 0 => a == b
  | 1 => a != b
  | 2 => decide (num a < num b)
  | _ => decide (num b ≤ num a)

def WEntry.overlaps (e : WEntry) (key size : Nat) : Bool := decide (e.addr < key + size ∧ key < e.addr + e.size)

/-- What the write that satisfies a slot's arm brings to its strand, whose DOZE acquires it at system scope (14 R302). -/
def State.slotBrings (s : State) (k slot arm key size : Nat) : State :=
  let ids := s.unperformed key size ++ ((s.syncsAt key size).filter (s.syncsWith k .sys)).flatMap (fun w => w.before)
  s.modStrand k (fun st => { st with watch := lset st.watch slot (fun w => if w.arm = arm then { w with brings := ids } else w) })

/-- The entries of a home that a write to `size` bytes at `key` satisfies are removed, and their wakes sent; `op` is the
write that the wake waits for (14 R300). -/
def evalWatches (h : Home) (key size op : Nat) (s : State) : State :=
  let hit (e : WEntry) : Bool :=
    e.overlaps key size && watchHolds e.cmp e.ty e.exp e.mask (s.read e.size e.addr)
  let woken := (s.home h).table.filter hit
  match woken with
  | [] => s
  | _ =>
    let s := s.modHome h (fun x => { x with table := x.table.filter (fun e => !hit e) })
    woken.foldl (fun s e => match e.strand with
      | some k => ((s.slotBrings k e.slot e.arm e.addr e.size).modHome h (fun x => { x with sseq := (x.sseq + 1) % 2 ^ 32 })).send
          (.wake k e.slot e.arm op h)
      | none => s) s

/-- Entries for programs in a home's table (14 R297). -/
def tableSize : Home → Nat
  | .slicePort .. => 16
  | .near .. => 32
  | .hostLine _ => 1024
  | _ => 0

/-- The victim of an arm that finds its table full: the partition's earliest entry, otherwise the table's (14 R303). -/
def victim (p : PartId) (t : List WEntry) : Option WEntry :=
  match t.find? (fun e => e.part == p) with
  | some e => some e
  | none => t.head?

/-- An entry placed in the table of a home, evicting one where it is full. -/
def placeEntry (h : Home) (e : WEntry) (s : State) : State :=
  let t := (s.home h).table
  if t.length < tableSize h then s.modHome h (fun x => { x with table := t ++ [e] })
  else match victim e.part t with
    | none => s
    | some v =>
      let s := s.modHome h (fun x => { x with table := t.filter (fun u => u != v) ++ [e] })
      match v.strand with
      | some k => s.send (.evict k v.slot v.arm h)
      | none => s

/-! ## Writes at a home -/

def State.holders (s : State) (line : Nat) : List TileId :=
  (s.tiles.filter (fun t => (aget t.2.copies line).isSome)).map (fun t => t.1)

/-- A watch copy of a host-homed line is lost: its entries stay armed, and their slots are told (14 R304). -/
def backInvalidate (pkg line : Nat) (s : State) : State :=
  if !(s.pkg pkg).hostCopies.contains line then s
  else
    let s := s.modPkg pkg (fun p => { p with hostCopies := p.hostCopies.filter (fun l => l != line) })
    ((s.home (.hostLine pkg)).table.filter (fun e => lineKey e.addr == line)).foldl (fun s e => match e.strand with
      | some k => s.modStrand k (fun st => if (st.watch.getD e.slot {}).arm = e.arm then
          { st with watch := lset st.watch e.slot (fun w => { w with backinv := true }) } else st)
      | none => s) s

/-- The watch copies that any package has of a host-homed line are lost: only one holder may have it modified (10 R260, 14 R304). -/
def backInvalidateAll (line : Nat) (s : State) : State := s.pkgs.foldl (fun s p => backInvalidate p.1 line s) s

/-- What a write does to the watches of its home: a host-homed line is evaluated when the I/O die of a package that watches it has
fetched it again. -/
def wakeAt (h : Home) (key size op : Nat) (s : State) : State :=
  match h with
  | .hostLine _ => backInvalidateAll (lineKey key) s
  | _ => evalWatches h key size op s

/-- A host-homed line is taken from every tile but one, or none, that holds it (10 R260). -/
def State.takeLine (s : State) (but : Option TileId) (line : Nat) : State :=
  { s with tiles := s.tiles.map (fun t => if some t.1 = but then t else (t.1, { t.2 with copies := adel t.2.copies line })) }

/-- What a write does to the copies of its line. Those of a device-homed line are invalidated, and the tiles that hold one have
to acknowledge (10 R242); those of a host-homed line have been given up before it is applied (10 R260). -/
def dropCopies (h : Home) (line op : Nat) (s : State) : List TileId × State :=
  match h with
  | .hostLine _ => ([], s.takeLine none line)
  | _ =>
    let tiles := s.holders line
    (tiles, tiles.foldl (fun s t => s.send (.inval op t line)) s)

/-- A write applied at its home: memory, the copies, the host's copy, the watches. Answers the tiles that have to acknowledge
(10 R242, R260; 14 R300). -/
def applyWrite (h : Home) (key size v op : Nat) (s : State) : List TileId × State :=
  let line := lineKey key
  let (tiles, s) := dropCopies h line op (s.write size key v)
  (tiles, wakeAt h key size op { s with hostHeld := s.hostHeld.filter (fun l => l != line) })

/-- The line at a key as memory holds it. -/
def State.lineAt (s : State) (line : Nat) : Line := BitVec.ofNat 512 (s.read 64 line)

/-- What tile caches of a package copy: its own near and far memory, and host-homed lines (10 R241). -/
def cacheable (pkg key : Nat) : Bool := (decide (key < scratchBase) && key / 2 ^ 45 == pkg) || decide (hostBase ≤ key)

/-- No tile but one, or none, holds a host-homed line modified from now on: its data is with the host (10 R260). -/
def State.unmodify (s : State) (but : Option TileId) (line : Nat) : State :=
  { s with tiles := s.tiles.map (fun t => if some t.1 = but then t else
      (t.1, { t.2 with copies := amod t.2.copies line (fun c => { c with modified := false }) })) }

/-- Lines in a tile cache of 512 KiB (00 R1). -/
def tileLines : Nat := 8192

/-- The line that leaves a full tile cache for another: of those allocated at the lowest retention the one that has been there
longest, or else the one that has been there longest of all (08 R194; log entry 59). -/
def leavingLine (m : Assoc Nat Copy) (line : Nat) : Option Nat :=
  let others := m.filter (fun p => p.1 != line)
  match others.find? (fun p => p.2.low) with
  | some p => some p.1
  | none => others.head?.map (fun p => p.1)

/-- A copy enters a tile cache; where it is full another line leaves, which no value depends on (10 R242). -/
def Tile.keep (t : Tile) (line : Nat) (c : Copy) : Tile :=
  let m := aput t.copies line c
  { t with copies := if m.length ≤ tileLines then m else match leavingLine m line with
      | some l => adel m l
      | none => m }

/-- A tile holds a copy of a line as memory holds it; of a host-homed line no other tile has a modified copy then, and its own
stays modified if it is (10 R242, R260). -/
def State.shareLine (s : State) (tile : TileId) (line : Nat) (low : Bool := false) : State :=
  let own := match aget (s.tile tile).copies line with
    | some c => c.modified
    | none => false
  (if hostBase ≤ line then s.unmodify (some tile) line else s).modTile tile (fun t =>
    t.keep line { data := s.lineAt line, modified := own, low := low }) |>.clean (.copy tile line)

/-- A read served at the home drops the tile's copy of the line where it is older (10 R242). -/
def State.dropOlder (s : State) (tile : TileId) (line : Nat) : State :=
  match aget (s.tile tile).copies line with
  | some c => if c.data = s.lineAt line then s else s.modTile tile (fun t => { t with copies := adel t.copies line })
  | none => s

/-- It also fills it where the load allocates: unless the tile has a write to the line on its way (10 R242). -/
def State.readAt (s : State) (o : Op) : State :=
  let line := lineKey o.addr
  let tile : TileId := ⟨o.ctx.part, o.tile⟩
  let s := s.dropOlder tile line
  if o.alloc && cacheable o.ctx.part.pkg o.addr && decide (o.addr < hostBase) then s.send (.fill tile line (some o.strand) o.low) else s

/-! ## Accepting (11 R262) -/

/-- Places in a home's pending-operation queue; the other homes have no limit. -/
def queueSize : Home → Option Nat
  | .slicePort .. => some 64
  | .near .. => some 16
  | _ => none

def roomAt (s : State) (h : Home) : Bool :=
  match queueSize h with
  | some n => decide ((s.home h).queue.length < n)
  | none => true

/-- No accepted operation on any of the bytes is still to be applied. An access that another unit than a lane makes at a home in one
step waits for that: what was accepted before it was issued is applied before it, and no rewrite crosses it (10 R248, 11 R262,
R263). -/
def State.settledAt (s : State) (h : Home) (key size : Nat) : Bool :=
  (s.home h).queue.all (fun e => !decide (e.addr < key + size ∧ key < e.addr + e.size))

/-- The table entries that a walk reads at their homes (17 R342), given the walk cache it uses. -/
def State.walkPlaces (s : State) (w : List WalkE) (c : CtxId) (va : Nat) : List (Nat × Home) :=
  (walkReads s w c va (s.ctx c).root walkLevels).map (fun k => (k, devHome (k / 2 ^ 45) (k % 2 ^ 45)))

/-- Nothing accepted is pending on the bytes at any of the places. -/
def placesSettled (s : State) (size : Nat) (ks : List (Nat × Home)) : Bool := ks.all (fun p => s.settledAt p.2 p.1 size)

/-- A unit other than a lane reads words at places of their homes: none while one of them is tested, or still to be changed by what
was accepted; otherwise the state after it with the cause that stops the unit, if any (18 R363). -/
def unitRead (size : Nat) (ks : List (Nat × Home)) (sel : Nat) (p : PartId) (s : State) : Option (State × Option Nat) :=
  let sites := (ks.map (fun k => Site.word (lineKey k.1))).eraseDups
  if sites.any s.testing || !placesSettled s size ks then none
  else match s.consumeAll sites sel p with
    | (s, .stop c) => some (s, some c)
    | (s, .ok) => some (s, none)

/-- Nothing of the strand that left earlier is still on its way to the home (10 R244). -/
def firstInOrder (s : State) (k n : Nat) (h : Home) : Bool :=
  s.ops.all (fun o => !(o.2.strand == k && o.2.home == h && o.2.stage == .mesh && decide (o.1 < n))) &&
  s.msgs.all (fun m => match m.2 with
    | .arm k' _ _ _ _ h' => !(k' == k && h' == h && decide (m.1 < n))
    | _ => true)

/-- Near memory of another package is checked there: it belongs to a partition of the same domain group (17 R341, 19 R379). -/
def remoteAllowed (s : State) (p : PartId) (h : Home) (key : Nat) : Bool :=
  match h with
  | .near pkg _ _ =>
    pkg == p.pkg ||
    (match s.sliceOwner pkg (key % 2 ^ 45) with
      | some q => (s.part q).group == (s.part p).group && (s.part p).group.isSome
      | none => false)
  | _ => true

/-- The operation is refused on arrival: it takes no place, and the fault is reported to its strand (08 R192). -/
def refuseOp (n : Nat) (o : Op) (f : Flt) (s : State) : State :=
  let s : State := { s with ops := adel s.ops n }
  s.send (.faultReport o.strand o.pc { f with addr := o.va, lowt := o.thread } o.txn)

def Op.entry (o : Op) (n : Nat) : QEnt :=
  { op := .one n o.opr o.val o.exp, addr := o.addr, size := o.size, ty := o.ty, fetch := o.fetch, fixed := o.fixed
    ctx := o.ctx, agen := o.agen, strands := [(o.strand, o.fenced)], sync := o.acq || o.rel }

/-- The operations that left before it for the same instruction: those of lower threads (08 R193). -/
def State.before (s : State) (n : Nat) (o : Op) : Assoc Nat Op := s.ops.filter (fun p => decide (p.1 < n) && p.2.txn == o.txn)

/-- One operation of an instruction with several stands after those of lower threads in strand order: no acquire of theirs is
open, and for a release they and what they have read are performed (10 R244, R250, R251). -/
def State.inTurn (s : State) (n : Nat) (o : Op) : Bool :=
  (s.before n o).all (fun p => (!p.2.acq || !p.2.ret) && (!o.rel || s.performedAt o.strand o.scope p.1))
    && (!(o.rel && o.acq) || (s.seenBy o.strand).all (fun r => s.performedAt o.strand o.scope r.2))

/-- A message has left: a wake or an acknowledgement of a command leaves once what it follows is performed. -/
def Msg.sent (s : State) : Msg → Bool
  | .wake _ _ _ op _ => s.opPerformed op
  | .collAck _ _ _ ws _ => ws.all s.opPerformed
  | _ => true

/-- Something sent before it on the same route has not arrived, apart from messages of a list. -/
def State.behind (s : State) (with_ : List Nat) (n : Nat) (r : Route) : Bool :=
  s.msgs.any (fun m => decide (m.1 < n) && !with_.contains m.1 && m.2.route s == some r && m.2.sent s)
  || s.ops.any (fun o => decide (o.1 < n) && o.2.stage == .mesh && o.2.route == some r && s.inTurn o.1 o.2)

/-- A message with a route arrives after those sent before it on that route, as a flit that has room to leave; none until then (19 R377, R378). -/
def State.carry (s : State) (n : Nat) (r : Option Route) : Option State :=
  match r with
  | none => some s
  | some r => if s.behind [] n r then none else s.transmit r n false false

/-- A message on its way, as it arrives. -/
def State.arrives (s : State) (n : Nat) : Option State := s.carry n ((aget s.msgs n).bind (fun m => m.route s))

/-- Messages that arrive in one cycle, in the order sent whatever the order in which they are taken. -/
def State.arriveAll (s : State) (ns : List Nat) : Option State :=
  ns.foldl (fun so n => so.bind (fun s => match (aget s.msgs n).bind (fun m => m.route s) with
    | none => some s
    | some r => if s.behind ns n r then none else s.transmit r n false false)) (some s)

/-- A host-homed line as CXL.cache requires for an operation: for a store or an atomic modified in its tile and held by no other,
for a load modified in no other tile and held by its own where the load allocates (10 R240, R260). A tile that takes the line modified
takes it from the watch copies too (14 R304). -/
def State.ownLine (s : State) (o : Op) : State :=
  let line := lineKey o.addr
  let tile : TileId := ⟨o.ctx.part, o.tile⟩
  match o.home with
  | .hostLine _ =>
    if o.stores then
      (backInvalidateAll line (s.takeLine (some tile) line)).modTile tile (fun t =>
        t.keep line { data := s.lineAt line, modified := true }) |>.clean (.copy tile line)
    else if o.alloc then s.shareLine tile line o.low
    else s.unmodify (some tile) line
  | _ => s

/-- What refuses an access of a context at its home: near memory of another package that the partition may not use, or a declared
buffer's state (08 R211, 17 R341). -/
def placeRefused (s : State) (c : CtxId) (load : Bool) (p : Nat × Home) : Option Flt :=
  if !remoteAllowed s c.part p.2 p.1 then some { cause := 0x10 } else s.bufferRefuses c p.2 p.1 load

/-- An operation reaches its home (HOME_ACCEPT). -/
def acceptOp (n : Nat) (o : Op) (s : State) : Option State :=
  if o.stage ≠ .mesh ∨ !firstInOrder s o.strand n o.home ∨ !s.inTurn n o then none
  else (s.carry n o.route).bind (fun s => match placeRefused s o.ctx (o.opr == 0) (o.addr, o.home) with
    | some f => some (refuseOp n o f s)
    | none =>
      let links := crossed ⟨o.ctx.part, o.tile⟩ o.home
      if !roomAt s o.home || s.linkTested o.ctx.part.pkg links then none
      else
        let s := (((s.crossLinks o.ctx.part.pkg links).ownLine o).modOp n (fun o => { o with stage := .queued })).modHome o.home (fun h =>
          { h with queue := h.queue ++ [o.entry n] })
        some (if o.fetch then s else landResult o.txn [] s))

/-- A watch arm reaches its home: checked as a load where a buffer holds the word, and as any access to another package's memory (14
R299, 17 R341). -/
def acceptArm (n k slot arm va key : Nat) (h : Home) (s : State) : Option State :=
  match s.strand k with
  | none => some (s.dropMsg n)
  | some st =>
    if !firstInOrder s k n h then none
    else (s.arrives n).bind (fun s =>
      let w := st.watch.getD slot {}
      let size := if Ty.width w.ty = 64 then 8 else 4
      match placeRefused s st.ctx true (key, h) with
      | some f => some ((s.dropMsg n).send (.armAck k slot arm false true false { f with addr := va, lowt := s.lowtOf arm } h))
      | none =>
        let links := crossed st.tileId h
        if !roomAt s h || s.linkTested st.part.pkg links then none
        else
          let s := s.crossLinks st.part.pkg links
          let e : QEnt :=
            { op := .one 0 0 0 0, arm := some (k, slot, arm), addr := key, size := size, ty := w.ty, fetch := true, fixed := true
              ctx := st.ctx, agen := 0, strands := [(k, 0)], sync := true }
          some ((s.dropMsg n).modHome h (fun x => { x with queue := x.queue ++ [e] })))

def evHomeAccept (n : Nat) (s : State) : Option State :=
  match aget s.ops n with
  | some o => acceptOp n o s
  | none => match aget s.msgs n with
    | some (.arm k slot arm va key h) => acceptArm n k slot arm va key h s
    | _ => none

/-! ## Applying (11 R270, 14 R299) -/

/-- One component of an applied entry: what it saw goes back, its write is on its way to being performed. The line's invalidations
carry the number `lead`; a host-homed line is modified in the tile of the write (10 R260). -/
def applyOne (tiles : List TileId) (wrote : Bool) (lead : Nat) (s : State) (r : Nat × Nat) : State :=
  match aget s.ops r.1 with
  | none => s
  | some o =>
    let s := s.modOp r.1 (fun o => { o with stage := .applied, acks := if wrote ∧ o.opr ≠ 0 then tiles else [], lead := lead })
    let s := s.ownLine o
    let s := if o.fetch then (s.readAt o).sees o.strand r.1 (if o.acq then some o.scope else none) o.addr o.size else s
    let hdr := r.2 % 65536
    let s :=
      if !o.fetch then s
      else if o.block ∧ !blkAccepts o.ty (hdr % 64) then
        (s.modOp r.1 (fun o => { o with ret := false })).send
          (.faultReport o.strand o.pc { blkFault o.dst hdr with addr := o.va, lowt := o.thread } o.txn)
      else s.send (.result o.txn r.1 (o.writes r.2))
    s.retire r.1

/-- Whether any component writes. -/
def QOp.isWrite : QOp → Bool
  | .one _ opr _ _ => opr != 0
  | .comp .. => true

/-- Absorbed operations write nothing: they count as performed when the write that absorbed them does (10 R254, 11 R270). -/
def applyAlso (tiles : List TileId) (lead : Nat) (s : State) (n : Nat) : State :=
  (s.modOp n (fun o => { o with stage := .applied, acks := tiles, lead := lead })).retire n

/-- The consumer of an uncorrectable word is stopped: every component of the entry is refused (18 R363). -/
def refuseEntry (e : QEnt) (cause : Nat) (s : State) : State :=
  let s := e.also.foldl (applyAlso [] 0) s
  e.op.ids.foldl (fun s n => match aget s.ops n with
    | some o => refuseOp n o { cause := cause } s
    | none => s) s

def popQueue (h : Home) (s : State) : State := s.modHome h (fun x => { x with queue := x.queue.tail })

/-- The unit selector of the strand that an entry serves. -/
def entryUnit (s : State) (e : QEnt) : Nat :=
  match e.strands with
  | k :: _ => (match s.strand k.1 with
    | some st => st.unit
    | none => 0)
  | [] => 0

def applyEntry (h : Home) (e : QEnt) (s : State) : State :=
  let r := e.op.apply (8 * e.size) (s.read e.size e.addr)
  let wrote := e.op.isWrite
  let lead := e.op.ids.getLastD 0
  let (tiles, s) := if wrote then applyWrite h e.addr e.size r.1 lead (e.op.ids.foldl noteSync s) else ([], s)
  e.also.foldl (applyAlso tiles lead) (r.2.foldl (applyOne tiles wrote lead) s)

/-- HOME_APPLY: the head of the queue, where it is no arm. -/
def evHomeApply (h : Home) (s : State) : Option State :=
  match (s.home h).queue with
  | [] => none
  | e :: _ =>
    let site := Site.word (lineKey e.addr)
    if e.arm.isSome ∨ s.testing site then none
    else match s.consume site (e.size == 64 && e.op.opr == 1) (entryUnit s e) e.ctx.part with
      | (s, .stop c) => some (popQueue h (refuseEntry e c s))
      | (s, .ok) => some (applyEntry h e (popQueue h s))

/-- The I/O die holds a shared copy of a watched host-homed line, and evaluates the line's entries on every fill of it; a write that
satisfies one is performed at system scope once it is applied (10 R260). A host's copy of a watched device line is recalled (14
R304). -/
def watchCopy (h : Home) (line : Nat) (s : State) : State :=
  match h with
  | .hostLine pkg =>
    if (s.pkg pkg).hostCopies.contains line then s
    else evalWatches h line 64 0 (s.modPkg pkg (fun p => { p with hostCopies := line :: p.hostCopies }))
  | _ => { s with hostHeld := s.hostHeld.filter (fun l => l != line) }

/-- WATCH_ARM: the head of the queue, where it is an arm (14 R299, R303). An arm whose slot has been replaced, or whose strand
is saved or has ended, places no entry. A satisfied one reads its word as an acquire does, so that no older copy of the line stays in
the tile (14 R302). -/
def evWatchArm (h : Home) (s : State) : Option State :=
  match (s.home h).queue with
  | [] => none
  | e :: _ =>
    match e.arm with
    | none => none
    | some (k, slot, arm) =>
      if s.testing (.word (lineKey e.addr)) then none
      else
        let s := popQueue h s
        match s.strand k with
        | none => some s
        | some st =>
          let w := st.watch.getD slot {}
          if st.status ≠ .resident ∨ w.arm ≠ arm then some (s.send (.armAck k slot arm false false false { cause := 0 } h))
          else match s.consume (.word (lineKey e.addr)) false st.unit st.part with
          | (s, .stop c) =>
            some (s.send (.armAck k slot arm false true (st.rearms.contains arm) { cause := c, addr := w.va, lowt := s.lowtOf arm } h))
          | (s, .ok) =>
          if watchHolds w.cmp w.ty w.exp w.mask (s.read e.size e.addr) then
            some (((s.dropOlder st.tileId (lineKey e.addr)).slotBrings k slot arm e.addr e.size).send (.armAck k slot arm true false (st.rearms.contains arm) { cause := 0 } h))
          else
            let s := placeEntry h
              { strand := some k, slot := slot, arm := arm, part := st.part, addr := e.addr, size := e.size, ty := w.ty
                cmp := w.cmp, exp := w.exp, mask := w.mask } s
            let s := watchCopy h (lineKey e.addr) s
            some (s.send (.armAck k slot arm false false (st.rearms.contains arm) { cause := 0 } h))

/-! ## Copies (10 R242) -/

def evInvalidationArrival (n : Nat) (s : State) : Option State :=
  match aget s.msgs n with
  | some (.inval op tile line) =>
    (s.arrives n).map (fun s => ((s.dropMsg n).modTile tile (fun t => { t with copies := adel t.copies line })).send (.ack op tile))
  | _ => none

/-- The operations whose write an acknowledgement of invalidation `n` is for. -/
def State.ledBy (s : State) (n : Nat) : List Nat := (s.ops.filter (fun o => o.1 == n || o.2.lead == n)).map (fun o => o.1)

def evInvalidationAcknowledgement (n : Nat) (s : State) : Option State :=
  match aget s.msgs n with
  | some (.ack op tile) =>
    (s.arrives n).map (fun s => (s.ledBy op).foldl (fun s i => (s.modOp i (fun o => { o with acks := o.acks.erase tile })).retire i) (s.dropMsg n))
  | _ => none

/-- A write of the tile to the line has left it and is not applied. -/
def State.ownWriteOut (s : State) (tile : TileId) (line : Nat) : Bool :=
  s.ops.any (fun o => o.2.ctx.part == tile.part && o.2.tile == tile.t && lineKey o.2.addr == line && o.2.stores
    && o.2.stage != .applied)

/-- A fill answered with the line as its home holds it. -/
def evTileCacheFill (n : Nat) (s : State) : Option State :=
  match aget s.msgs n with
  | some (.fill tile line _ low) =>
    (s.arrives n).map (fun s =>
      if s.ownWriteOut tile line then s.dropMsg n else (s.dropMsg n).shareLine tile line low)
  | _ => none

/-- The faults reported for one instruction. -/
def State.reportsOf (s : State) (txn : Nat) : List Flt :=
  s.msgs.filterMap (fun m => match m.2 with
    | .faultReport _ _ f t => if t = txn then some f else none
    | _ => none)

/-- The fault of the lowest thread. -/
def lowestFlt (f : Flt) (fs : List Flt) : Flt := fs.foldl (fun f g => if g.lowt < f.lowt then g else f) f

/-- Faults found at homes, engines and on landing reach the strand, one report for an instruction: when every operation of it has been
applied or refused, and for the lowest thread that faults (08 R192; 18 R363 for an uncorrectable error). -/
def evImpreciseFaultReport (n : Nat) (s : State) : Option State :=
  match aget s.msgs n with
  | some (.faultReport k pc f txn) =>
    let f := lowestFlt f (s.reportsOf txn)
    if f.cause == 0x21 && (match s.strand k with
      | some st => (s.part st.part).line.isSome
      | none => false) then none
    else if s.ops.any (fun o => o.2.txn == txn && o.2.stage != .applied) then none
    else
      let s : State := { s with msgs := s.msgs.filter (fun m => match m.2 with
        | .faultReport _ _ _ t => t != txn
        | _ => true) }
      some (s.impreciseFault k f pc)
  | _ => none

end Sys2Proof.Machine
end

