-- ==== Sys2Proof/Machine/Algebra.lean ====
section
/-! DEFINITION. The operator algebra: tables, their checks, and the rewrites of pending operations (11 R263-R274). -/

namespace Sys2Proof.Machine

/-- The entry of a table for the pair of an earlier and a later operator: bits C, M, A, X from [3] down (11 R264). -/
def algEntry (t : BitVec 1024) (e l : Nat) : BitVec 4 := t.extractLsb' (4 * (16 * e + l)) 4

/-- The pairs that compose (11 R267). -/
def composes (e l : Nat) : Bool :=
  (e == l && (decide (2 ≤ e ∧ e ≤ 9) || e == 11 || e == 12 || e == 10 || e == 13)) ||
  (e == 10 && l == 13) || (e == 13 && l == 10) || (e == 1 && decide (2 ≤ l ∧ l ≤ 14))

/-- The pairs that cancel (11 R268). -/
def cancels (e l : Nat) : Bool := e == l && (e == 2 || e == 5 || e == 10 || e == 13)

/-- The first pair from `p` on that R269 refuses, with its offending bits. -/
def algOffence (t : BitVec 1024) : Nat → Nat → Option (Nat × Nat)
  | 0, _ => none
  | n + 1, p =>
    let b := algEntry t (p / 16) (p % 16)
    let bad := (if b.getLsbD 2 && !composes (p / 16) (p % 16) then 4 else 0)
      + (if b.getLsbD 0 && !cancels (p / 16) (p % 16) then 1 else 0)
    if bad ≠ 0 then some (p, bad) else algOffence t n (p + 1)

/-- The check of a table (11 R269). -/
def algCheck (t : BitVec 1024) : Option (Nat × Nat) := algOffence t 256 0

/-- The composite of two operations: operator and operand (11 R267). -/
def composeOp (w e l : Nat) (v1 v2 : BitVec 512) : Option (Nat × BitVec 512) :=
  let a := v1.toNat
  let b := v2.toNat
  let mk (o x : Nat) : Option (Nat × BitVec 512) := some (o, BitVec.ofNat 512 x)
  if !composes e l then none
  else if e = 1 then mk 1 (opApply l w b 0 a)
  else if e = 10 ∧ l = 13 then mk 13 (rsubF32 a b)
  else if e = 13 ∧ l = 10 then mk 13 (addF32 a b)
  else if e = 13 then mk 10 (rsubF32 a b)
  else mk e (opApply e w b 0 a)

/-- Finite, and finite and nonzero, FP32 operands. -/
def f32Finite (x : Nat) : Bool := !((fp32.decode x).isNan || (fp32.decode x).isInf)
def f32NonZero (x : Nat) : Bool := x % 2 ^ 31 != 0

/-- The condition of 11 R268. -/
def cancelOk (w e l : Nat) (v1 v2 : BitVec 512) : Bool :=
  let a := v1.toNat
  let b := v2.toNat
  cancels e l &&
  (match e with
    | 2 => (a + b) % 2 ^ w == 0
    | 5 => a == b
    | 10 => f32Finite a && f32NonZero a && b == a ^^^ 2 ^ 31
    | _ => f32Finite a && a == b)

/-- The table in force for a generation of a context (08 R204, 11 R274). -/
def Ctx.tableOf (c : Ctx) (gen : Nat) : BitVec 1024 := if c.gen = gen then c.table else agetD c.olds gen 0

def QEnt.overlaps (a b : QEnt) : Bool := decide (a.addr < b.addr + b.size ∧ b.addr < a.addr + a.size)

/-- The next entry that covers any byte of `e`, with its position among the entries given. -/
def nextOver (e : QEnt) : List QEnt → Option (Nat × QEnt)
  | [] => none
  | l :: ls => if e.overlaps l then some (0, l) else (nextOver e ls).map (fun p => (p.1 + 1, p.2))

/-- Entries that may pass each other: of no common strand, or relaxed with no FENCE of that strand between them (10 R254, 11 R265). -/
def mayCross (a b : QEnt) : Bool :=
  a.strands.all (fun p => b.strands.all (fun q => p.1 != q.1 || (!a.sync && !b.sync && p.2 == q.2)))

/-- Candidate pairs (11 R265, 10 R254). -/
def candidate (e l : QEnt) : Bool :=
  !e.fixed && !l.fixed && e.addr == l.addr && e.size == l.size && e.ctx == l.ctx && e.agen == l.agen && mayCross e l

/-- Operations that a cancel removes write nothing, with what they had absorbed: nothing of them is left to perform (11 R270). -/
def dropOps (ids : List Nat) (s : State) : State := { s with ops := s.ops.filter (fun o => !ids.contains o.1) }

/-- Every operation of an entry. -/
def QEnt.allIds (e : QEnt) : List Nat := e.op.ids ++ e.also

/-- The entries between positions `i` and `i + 1 + d`. -/
def between (q : List QEnt) (i d : Nat) : List QEnt := (q.drop (i + 1)).take d

/-- A rewrite of the entries at positions `i` and `i + 1 + d` of a queue; the new queue and the operations dropped. A pair between
which an entry stands that one of them may not pass does not move (10 R254). -/
def rewriteQueue (q : List QEnt) (i d : Nat) (e l : QEnt) (entry : BitVec 4) : Rewrite → Option (List QEnt × List Nat)
  | .commute =>
    if entry.getLsbD 3 && (between q i d).all (fun b => mayCross l b && mayCross e b) then
      some (lset (lset q i (fun _ => l)) (i + 1 + d) (fun _ => e), [])
    else none
  | .absorb =>
    if entry.getLsbD 1 && !e.fetch then some ((lset q (i + 1 + d) (fun _ => { l with also := l.also ++ e.allIds })).eraseIdx i, []) else none
  | .compose =>
    if entry.getLsbD 2 && (between q i d).all (mayCross l) then
      match composeOp (8 * e.size) e.op.opr l.op.opr e.op.val l.op.val with
      | some (o, v) =>
        let c : QEnt := { e with op := .comp o v e.op l.op, fetch := e.fetch || l.fetch, strands := e.strands ++ l.strands
                                 sync := e.sync || l.sync, also := e.also ++ l.also }
        some ((lset q i (fun _ => c)).eraseIdx (i + 1 + d), [])
      | none => none
    else none
  | .cancel =>
    if entry.getLsbD 0 && !e.fetch && !l.fetch && cancelOk (8 * e.size) e.op.opr l.op.opr e.op.val l.op.val then
      some ((q.eraseIdx (i + 1 + d)).eraseIdx i, e.allIds ++ l.allIds)
    else none

/-- PENDING_REWRITE: the entry at position `i` of a home's queue as E (11 R265, R266). -/
def evPendingRewrite (h : Home) (i : Nat) (rw : Rewrite) (s : State) : Option State :=
  let q := (s.home h).queue
  match q[i]? with
  | none => none
  | some e => match nextOver e (q.drop (i + 1)) with
    | none => none
    | some (d, l) =>
      if !candidate e l then none
      else
        let entry := algEntry ((s.ctx e.ctx).tableOf e.agen) e.op.opr l.op.opr
        match rewriteQueue q i d e l entry rw with
        | none => none
        | some (q', gone) => some (dropOps gone (s.modHome h (fun x => { x with queue := q' })))

/-! ## Installing a table (08 R204, R205) -/

/-- A generation that some home of the partition still holds operations of (11 R274). -/
def State.genHeld (s : State) (c : CtxId) (gen : Nat) : Bool :=
  s.homes.any (fun h => h.2.queue.any (fun e => e.ctx == c && e.agen == gen)) ||
  s.ops.any (fun o => o.2.ctx == c && o.2.agen == gen && o.2.stage != .applied)

/-- The next table: GEN advances by 1 modulo 16, and the table it replaces stays for operations that carry it. -/
def Ctx.install (c : Ctx) (t : BitVec 1024) : Ctx :=
  { c with olds := aput c.olds c.gen c.table, gen := (c.gen + 1) % 16, table := t }

/-- ALGLD's status word. -/
def algStatus (gen : Nat) (det : Bool) (bad : Option (Nat × Nat)) : Word :=
  BitVec.ofNat 32 (at_ gen 2 + at_ det.toNat 1 + (match bad with
    | some (p, b) => 1 + at_ p 8 + at_ b 16
    | none => 0))

end Sys2Proof.Machine
end

