-- ==== Sys2Proof/Machine/Memory.lean ====
section
/-! DEFINITION. Loads, stores, atomics, fences and the algebra table, groups 0x7 and 0x8 but the buffer instructions
(08 R190-R205, 10 R244-R261). -/

namespace Sys2Proof.Machine

/-! ## When a memory operation may leave the strand -/

/-- A release at a scope may be issued: what comes before it is performed there, and every barrier message applied
(10 R251, 13 R291). -/
def relGate (s : State) (x : Iss) (sc : Scope) (band : Option Nat) : Bool :=
  Scope.alone band sc || ((s.earlier x.k).all (s.performedIn x.k sc band) && (s.barMsgs x.k).isEmpty)

/-! ## Addresses -/

/-- One access: its thread, address, place, and for a write its operands. -/
structure Access where
  t : Nat
  va : Dword
  place : Place
  val : BitVec 512 := 0
  exp : Dword := 0
  deriving DecidableEq, Repr

/-- Check 6 of 08 R191, and the mallet of 15 R317, for an address that passes the others. What HDR and STEP say for this form of
the format fault 06 R152 does not state: of a load HDR is 0 and STEP 1, of a store HDR is its own header and STEP what its check would
say, 7 where that would pass. The model's choice (log entry 59). -/
def pageChk (x : Iss) (typed : Bool) (opnd : Opd) (hdr : Nat) (atomic : Bool) (p : Place) : Option Flt :=
  match p with
  | .mem _ (some leaf) _ =>
    if typed && !leafBlk leaf then some (blkFault opnd hdr)
    else if atomic && x.st.det && leafShb leaf && !x.st.hold then some { cause := 0x18 }
    else none
  | _ => none

/-- The checks of every active thread, in order of threads (08 R191). -/
def checkAll (s : State) (x : Iss) (need : Need) (size : Nat) (page : Place → Option Flt) :
    List (Nat × Dword) → Except Eff (List Access)
  | [] => .ok []
  | (t, va) :: rest =>
    match checkAddr s x.st need va size with
    | .walk v => .error (.walk v)
    | .stop c => .error (.stop { cause := c, addr := va.toNat, lowt := t })
    | .at_ p => match page p with
      | some f => .error (.stop { f with addr := va.toNat, lowt := t })
      | none => match checkAll s x need size page rest with
        | .ok as => .ok ({ t := t, va := va, place := p } :: as)
        | .error e => .error e

def Place.leaf : Place → Option Dword
  | .mem _ l _ => l
  | .image _ => none

/-- A page with total store order (10 R259). -/
def Place.tso (p : Place) : Bool := match p.leaf with
  | some l => leafTso l
  | none => false

/-! ## Operations leave the lane -/

/-- What the operations of one instruction have in common. -/
structure OpSpec where
  size : Nat
  ty : Ty
  opr : Nat
  fetch : Bool
  block : Bool := false
  alloc : Bool := false
  low : Bool := false
  acq : Bool := false
  rel : Bool := false
  scope : Scope := .pkg
  atom : Bool := false
  dst : Opd := .zero
  deriving DecidableEq, Repr

/-- Operations that no home may rewrite (11 R263, 08 R202). -/
def opFixed (x : Iss) (sp : OpSpec) (key : Nat) (leaf : Option Dword) : Bool :=
  sp.block || x.st.det || (match leaf with
    | none => false
    | some l => leafNoAlg l || leafHost l || decide (2 ^ 43 ≤ key % 2 ^ 45) || key / 2 ^ 45 != x.st.part.pkg)

def mkOp (x : Iss) (agen : Nat) (n : Nat) (sp : OpSpec) (a : Access) (key : Nat) (leaf : Option Dword) (tile : Nat) : Op :=
  let tso := a.place.tso
  let stores := sp.opr != 0 || sp.atom
  { txn := n, strand := x.k, gen := x.st.gen, ctx := x.st.ctx, tile := x.st.tile, thread := a.t, pc := x.pc
    va := a.va.toNat, addr := key, home := homeOf x.st.part tile key, size := sp.size, ty := sp.ty, opr := sp.opr
    val := a.val, exp := a.exp, fetch := sp.fetch, ret := sp.fetch, fixed := opFixed x sp key leaf, block := sp.block
    alloc := sp.alloc && !tso, low := sp.low, agen := agen, acq := sp.acq || (tso && sp.fetch), rel := sp.rel || (tso && stores)
    scope := if tso then .sys else sp.scope
    atom := sp.atom
    shb := (match leaf with
      | some l => x.st.det && leafShb l && stores
      | none => false)
    fenced := x.st.fenced, dst := sp.dst }

/-- The tile's copy that serves a load: the strand has nothing on its way to the line, and no acquire of a lower thread of the
same instruction is open (10 R242, R248, R250). -/
def State.hit (s : State) (x : Iss) (o : Op) : Option Copy :=
  if o.alloc && cacheable o.ctx.part.pkg o.addr && !(o.acq && s.ops.any (fun p => p.2.txn == o.txn && p.2.ret)) &&
      s.ops.all (fun p => !(p.2.strand == x.k && lineKey p.2.addr == lineKey o.addr && p.2.stage != .applied)) then
    aget (s.tile x.st.tileId).copies (lineKey o.addr)
  else none

/-- A value read from a copy. -/
def Copy.value (c : Copy) (key size : Nat) : Nat := c.data.toNat / 2 ^ (8 * (key % 64)) % 2 ^ (8 * size)

/-- What a load returns whose value is fixed at once: its words, as an operation that has been applied and is still to return, or
the header fault of a typed LDB (08 R198, 10 R240). -/
def returnNow (o : Op) (v : Nat) (s : State) : State :=
  if o.block ∧ !blkAccepts o.ty (v % 64) then
    s.send (.faultReport o.strand o.pc { blkFault o.dst (v % 65536) with addr := o.va, lowt := o.thread } o.txn)
  else
    let n := s.uid + 1
    ({ s with uid := n, ops := s.ops ++ [(n, { o with stage := .applied })] } : State).send (.result o.txn n (o.writes v))

/-- A store or an atomic as it leaves: where it releases, at its own scope or at those of the fences before it, it carries what
happens before it (10 R251, R252). The fences count for the next write alone. -/
def State.asRelease (s : State) (k : Nat) (o : Op) : Op :=
  match s.strand k with
  | none => o
  | some st =>
    let rels := (if o.rel then [o.scope] else []) ++ st.relFences
    if !o.stores || rels.isEmpty then o else { o with rels := rels, band := st.band, before := s.pendingBefore k }

/-- What a store or an atomic leaves of its tile and its strand: no copy of its line, and no release fence waits for a write. -/
def storeLeaves (x : Iss) (key : Nat) (s : State) : State :=
  (s.modTile x.st.tileId (fun t => { t with copies := adel t.copies (lineKey key) })).modStrand x.k (fun st =>
    { st with relFences := [] })

/-- One access leaves: to its home, to the tile's copy, or to the strand's own image. -/
def leave (x : Iss) (n : Nat) (sp : OpSpec) (s : State) (a : Access) : State :=
  match a.place with
  | .image off =>
    if sp.opr = 0 then
      let o := mkOp x 0 n sp a 0 none 0
      returnNow o (imageGet x.st.image sp.size off) s
    else
      (s.modStrand x.k (fun st => { st with image := imagePut st.image sp.size off a.val.toNat })).send (.result n 0 [])
  | .mem key leaf tile =>
    let o := mkOp x (s.ctx x.st.ctx).gen n sp a key leaf tile
    match s.hit x o with
    | some c =>
      (match s.consume (.copy x.st.tileId (lineKey key)) false x.st.unit x.st.part with
        | (s, .ok) => returnNow o (c.value key sp.size) (s.sees x.k 0 (if o.acq then some o.scope else none) key sp.size)
        | (s, .stop cause) => s.send (.faultReport x.k x.pc { cause := cause, addr := o.va, lowt := a.t } n))
    | none =>
      let o := s.asRelease x.k o
      let s := if !o.stores then s else storeLeaves x key s
      { s with uid := s.uid + 1, ops := s.ops ++ [(s.uid + 1, o)] }

/-- The tile holds a copy of the line in a bank of its cache that is being tested (18 R365). -/
def State.bankTested (s : State) (t : TileId) : Place → Bool
  | .mem key _ _ => (aget (s.tile t).copies (lineKey key)).isSome && s.testing (.copy t (lineKey key))
  | .image _ => false

/-- The accesses of one instruction, once no bank that they read is tested and the conditions on its order hold: a release at its scope, and on a page with total store
order every store and atomic is one at system scope (10 R251, R259). -/
def issueAccesses (sp : OpSpec) (as : List Access) : Effect := fun x s =>
  let tso := (sp.opr != 0 || sp.atom) && as.any (fun a => a.place.tso)
  if as.any (fun a => s.bankTested x.st.tileId a.place) || (sp.rel && !relGate s x sp.scope x.st.band) || (tso && !relGate s x .sys none) then .wait
  else
    let (n, s) := openTxn x as.length sp.dst s
    .ok (as.foldl (leave x n sp) s)

def memSize (ty : Ty) : Nat :=
  match ty with
  | .i8 | .n8 | .e4m3 | .e5m2 => 1
  | .i16 | .n16 => 2
  | .i64 | .n64 => 8
  | _ => 4

/-- The addresses of the threads that perform an access each. -/
def addrs (s : State) (x : Iss) (m : Addr) : List (Nat × Dword) := x.poppers.map (fun t => (t, addrOf s x m t))

/-! ## Loads and stores -/

/-- LD and LDU. -/
def loadEff (d : Opd) (m : Addr) (ty : Ty) (mm : MemMod) : Effect := fun x s =>
  match checkAll s x .rd (memSize ty) (fun _ => none) (addrs s x m) with
  | .error e => e
  | .ok as => issueAccesses { size := memSize ty, ty := ty, opr := 0, fetch := true, alloc := mm.cp != 2, low := mm.cp == 1
                              acq := mm.ord == 1, scope := MemMod.scope mm, dst := d } as x s

/-- ST and STU: the low bytes of the data. -/
def storeEff (m : Addr) (ty : Ty) (mm : MemMod) : Effect := fun x s =>
  match checkAll s x .w (memSize ty) (pageChk x false .zero 0 true) (addrs s x m) with
  | .error e => e
  | .ok as =>
    let data (t : Nat) : BitVec 512 :=
      BitVec.ofNat 512 ((readOpd s x (srcAt x.sh .a) t).toNat % 2 ^ (8 * memSize ty))
    issueAccesses { size := memSize ty, ty := ty, opr := 1, fetch := false, rel := mm.ord == 2, scope := MemMod.scope mm }
      (as.map (fun a => { a with val := data a.t })) x s

def effLd (d : Opd) (m : Addr) (ty : Ty) (mm : MemMod) : Effect := loadEff d m ty mm
/-- LD (08 R194-R196). -/
def execLd (h : Hdr) (d : Opd) (m : Addr) (ty : Ty) (mm : MemMod) (s : State) : Result :=
  issue (.ld h d m ty mm) (effLd d m ty mm) s

def effSt (m : Addr) (ty : Ty) (mm : MemMod) : Effect := storeEff m ty mm
/-- ST (08 R194-R196). -/
def execSt (h : Hdr) (d : Opd) (m : Addr) (ty : Ty) (mm : MemMod) (s : State) : Result :=
  issue (.st h d m ty mm) (effSt m ty mm) s

def effLdu (d : Opd) (m : Addr) (ty : Ty) (mm : MemMod) : Effect := loadEff d m ty mm
/-- LDU (08 R194-R196). -/
def execLdu (h : Hdr) (d : Opd) (m : Addr) (ty : Ty) (mm : MemMod) (s : State) : Result :=
  issue (.ldu h d m ty mm) (effLdu d m ty mm) s

def effStu (m : Addr) (ty : Ty) (mm : MemMod) : Effect := storeEff m ty mm
/-- STU (08 R194-R196). -/
def execStu (h : Hdr) (d : Opd) (m : Addr) (ty : Ty) (mm : MemMod) (s : State) : Result :=
  issue (.stu h d m ty mm) (effStu m ty mm) s

/-- One access for the strand, made for its first active thread. -/
def leadAddr (s : State) (x : Iss) (m : Addr) : List (Nat × Dword) := [(x.lead, addrOf s x m x.lead)]

/-- Whether LDB or STB checks the header. -/
def typedBlk (ty : Ty) : Bool := ty != .i32

def effLdb (d : Opd) (m : Addr) (ty : Ty) (mm : MemMod) : Effect := fun x s =>
  match checkAll s x .rd 64 (pageChk x (typedBlk ty) d 0 false) (leadAddr s x m) with
  | .error e => e
  | .ok as => issueAccesses { size := 64, ty := ty, opr := 0, fetch := true, block := true, alloc := mm.cp != 2
                              low := mm.cp == 1, acq := mm.ord == 1, scope := MemMod.scope mm, dst := d } as x s
/-- LDB (08 R197, R198). -/
def execLdb (h : Hdr) (d : Opd) (m : Addr) (ty : Ty) (mm : MemMod) (s : State) : Result :=
  issue (.ldb h d m ty mm) (effLdb d m ty mm) s

def effStb (d : Opd) (m : Addr) (ty : Ty) (mm : MemMod) : Effect := fun x s =>
  let b := lineOfWords (readLine s x (srcAt x.sh .a) 0)
  let hdr := (b.extractLsb' 0 16).toNat
  match checkAll s x .w 64 (pageChk x (typedBlk ty) d hdr true) (leadAddr s x m) with
  | .error e => e
  | .ok as =>
    if typedBlk ty && !blkAccepts ty (hdr % 64) then .stop { blkFault d hdr with lowt := x.lead }
    else issueAccesses { size := 64, ty := ty, opr := 1, fetch := false, block := true, rel := mm.ord == 2
                         scope := MemMod.scope mm }
      (as.map (fun a => { a with val := b })) x s
/-- STB (08 R197, R198). -/
def execStb (h : Hdr) (d : Opd) (m : Addr) (ty : Ty) (mm : MemMod) (s : State) : Result :=
  issue (.stb h d m ty mm) (effStb d m ty mm) s

/-! ## Cache instructions (08 R199) -/

/-- A prefetch of one address: dropped where any check of R191 would fail. -/
def prefetch (x : Iss) (low : Bool) (s : State) (va : Dword) : State :=
  let v := va.toNat
  if 2 ^ 56 ≤ v ∨ v / 2 ^ 48 = 0xFF ∨ v / 2 ^ 48 = 0xFE then s
  else match s.translate x.st.tileId x.st.ctx v with
    | .leaf log leaf =>
      let key := lineKey (leafKey s x.st.part.pkg leaf (v % 2 ^ log))
      if permits leaf .rd && !leafTso leaf && cacheable x.st.part.pkg key && (aget (s.tile x.st.tileId).copies key).isNone then
        s.send (.fill x.st.tileId key none low)
      else s
    | _ => s

def effPref (m : Addr) (low : Bool) : Effect := fun x s =>
  .ok ((addrs s x m).foldl (fun s a => prefetch x low s a.2) s)
/-- PREF (08 R199). -/
def execPref (h : Hdr) (m : Addr) (st : Bool) (s : State) : Result :=
  issue (.pref h m st) (effPref m st) s

/-- CWB and CINV of one line: a modified host-homed line goes back to the host, a clean copy is dropped or kept. -/
def writeBack (x : Iss) (n : Nat) (drop : Bool) (s : State) (a : Access) : State :=
  match a.place with
  | .mem key (some _) _ =>
    let line := lineKey key
    (match aget (s.tile x.st.tileId).copies line with
      | some c =>
        if c.modified then s.send (.writeback n x.st.tileId line drop)
        else (if drop then s.modTile x.st.tileId (fun t => { t with copies := adel t.copies line }) else s).send (.result n 0 [])
      | none => s.send (.result n 0 []))
  | _ => s.send (.result n 0 [])

def cacheEff (drop : Bool) (m : Addr) : Effect := fun x s =>
  match checkAll s x .rd 1 (fun _ => none) (addrs s x m) with
  | .error e => e
  | .ok as =>
    let (n, s) := openTxn x as.length .zero s
    .ok (as.foldl (writeBack x n drop) s)

def effCwb (m : Addr) : Effect := cacheEff false m
/-- CWB (08 R199, 10 R260). -/
def execCwb (h : Hdr) (m : Addr) (s : State) : Result :=
  issue (.cwb h m) (effCwb m) s

def effCinv (m : Addr) : Effect := cacheEff true m
/-- CINV (08 R199, 10 R260). -/
def execCinv (h : Hdr) (m : Addr) (s : State) : Result :=
  issue (.cinv h m) (effCinv m) s

/-! ## Atomics (08 R200-R202) -/

def AtomMod.acquires (am : AtomMod) : Bool := am.ord == 1 || am.ord == 3
def AtomMod.releases (am : AtomMod) : Bool := am.ord == 2 || am.ord == 3
def AtomMod.scope (am : AtomMod) : Scope :=
  match am.scp.toNat with
  | 1 => .band
  | 2 => .dom
  | 3 => .sys
  | _ => .pkg

/-- Words `i` to `i + n - 1` of the data operand as a number. -/
def dataWords (s : State) (x : Iss) (t i : Nat) : Nat → Nat
  | 0 => 0
  | n + 1 => (readWord s x (srcAt x.sh .a) i t (x.cyc t)).toNat + 2 ^ 32 * dataWords s x t (i + 1) n

/-- The words of an operand of an atomic. -/
def atomWords (ty : Ty) : Nat := if isWide ty then 2 else 1

/-- A fetching atomic, one that loads among them, needs to read and to write (08 R191, 17 R339). -/
def atomNeed (fetch : Bool) : Need := if fetch then .rdw else .red

def atomEff (d : Opd) (m : Addr) (ty : Ty) (opr : Nat) (fetch : Bool) (am : AtomMod) : Effect := fun x s =>
  match checkAll s x (atomNeed fetch) (memSize ty) (pageChk x false .zero 0 true) (addrs s x m) with
  | .error e => e
  | .ok as =>
    issueAccesses { size := memSize ty, ty := ty, opr := opr, fetch := fetch, acq := AtomMod.acquires am, rel := AtomMod.releases am
                    scope := AtomMod.scope am, atom := true, dst := if fetch then d else .zero }
      (as.map (fun a => { a with val := BitVec.ofNat 512 (dataWords s x a.t 0 (atomWords ty)) })) x s

def effAtom (d : Opd) (m : Addr) (ty : Ty) (opc : BitVec 4) (am : AtomMod) : Effect := atomEff d m ty opc.toNat true am
/-- ATOM (08 R200-R202). -/
def execAtom (h : Hdr) (d : Opd) (m : Addr) (ty : Ty) (opc : BitVec 4) (am : AtomMod) (s : State) : Result :=
  issue (.atom h d m ty opc am) (effAtom d m ty opc am) s

def effRed (d : Opd) (m : Addr) (ty : Ty) (opc : BitVec 4) (am : AtomMod) : Effect := atomEff d m ty opc.toNat false am
/-- RED (08 R200-R202). -/
def execRed (h : Hdr) (d : Opd) (m : Addr) (ty : Ty) (opc : BitVec 4) (am : AtomMod) (s : State) : Result :=
  issue (.red h d m ty opc am) (effRed d m ty opc am) s

def effCas (d : Opd) (m : Addr) (ty : Ty) (am : AtomMod) : Effect := fun x s =>
  match checkAll s x .rdw (memSize ty) (pageChk x false .zero 0 true) (addrs s x m) with
  | .error e => e
  | .ok as =>
    let n := atomWords ty
    issueAccesses { size := memSize ty, ty := ty, opr := 15, fetch := true, acq := AtomMod.acquires am, rel := AtomMod.releases am
                    scope := AtomMod.scope am, atom := true, dst := d }
      (as.map (fun a => { a with exp := BitVec.ofNat 64 (dataWords s x a.t 0 n), val := BitVec.ofNat 512 (dataWords s x a.t n n) }))
      x s
/-- CAS (08 R200-R202). -/
def execCas (h : Hdr) (d : Opd) (m : Addr) (ty : Ty) (am : AtomMod) (s : State) : Result :=
  issue (.cas h d m ty am) (effCas d m ty am) s

/-! ## Fences (08 R203) -/

/-- Watch arms of the strand on their way. -/
def State.armMsgs (s : State) (k : Nat) : List Nat :=
  (s.msgs.filter (fun m => match m.2 with
    | .arm k' .. => k' == k
    | _ => false)).map (fun m => m.1)

/-- What a fence waits for: for acq the earlier reads, otherwise every earlier operation and what its reads returned. -/
def fenceWaits (s : State) (x : Iss) (ord : BitVec 2) : List Nat :=
  if ord = 0 then (s.ops.filter (fun o => o.2.strand == x.k && o.2.ret)).map (fun o => o.1)
  else s.relIds x.k ++ s.armMsgs x.k

/-- An operation or message that a fence of a strand still waits for at its scope. -/
def State.waitsFor (s : State) (k : Nat) (sc : Scope) (n : Nat) : Bool :=
  !s.performedAt k sc n || (match aget s.ops n with
    | some o => o.ret
    | none => false) || (aget s.msgs n).isSome

/-- What an unfinished fence of a strand waits for: its list, and but for acq what the reads in it have returned. -/
def State.fenceList (s : State) (k : Nat) (f : Fence) : List Nat := if f.ord = 0 then f.waits else s.withReturned k f.waits

def effFence (ord : BitVec 2) (scope : Scope) : Effect := fun x s =>
  let ws := if ord = 0 ∨ Scope.alone x.st.band scope = false then fenceWaits s x ord
    else (s.ops.filter (fun o => o.2.strand == x.k && o.2.ret)).map (fun o => o.1)
  let (n, s) := openTxn x 1 .zero s
  let s := s.modStrand x.k (fun st => { st with
    fenced := st.fenced + 1, fences := st.fences ++ [(n, ⟨ord, scope, ws⟩)]
    relFences := if ord = 0 then st.relFences else st.relFences ++ [scope] })
  .ok (s.send (.result n 0 []))
/-- FENCE (08 R203). -/
def execFence (h : Hdr) (ord : BitVec 2) (scope : Scope) (s : State) : Result :=
  issue (.fence h ord scope) (effFence ord scope) s

/-! ## The algebra table (08 R204, R205) -/

/-- Every earlier store and atomic of the strand has been accepted, and those to the bytes read are applied. -/
def storesAccepted (s : State) (k key size : Nat) : Bool :=
  s.ops.all (fun o => !(o.2.strand == k && o.2.stores &&
    (o.2.stage == .mesh || (o.2.stage == .queued && decide (o.2.addr < key + size ∧ key < o.2.addr + o.2.size)))))

/-- A word that lands in a uniform destination, or in the active threads of a vector one. -/
def answer (x : Iss) (d : Opd) (v : Word) (s : State) : State :=
  let (n, s) := openTxn x 1 d s
  s.send (.result n 0 (resultWords d false x.act (v.zeroExtend 64)))

/-- The generation that an install would make is held by no home. -/
def genFree (s : State) (c : CtxId) : Bool := !s.genHeld c (((s.ctx c).gen + 1) % 16)

/-- The two lines of a table, or of a record, with their homes. -/
def linePair (x : Iss) (tile key : Nat) : List (Nat × Home) :=
  [key, key + 64].map (fun k => (k, homeOf x.st.part tile k))

/-- What refuses the read of two lines: memory of another package that the partition may not use (17 R341), a declared buffer that holds
them (08 R211), or else an error in them (18 R363); none while they cannot be read. -/
def pairRead (x : Iss) (tile key : Nat) (s : State) : Option (State × Option Flt) :=
  match (linePair x tile key).findSome? (placeRefused s x.st.ctx true) with
  | some f => some (s, some f)
  | none => (unitRead 64 (linePair x tile key) x.st.unit x.st.part s).map (fun r => (r.1, r.2.map (fun c => ({ cause := c } : Flt))))

/-- A fault found on arrival of an instruction that reads two lines: imprecise, its destination stays pending (08 R192). -/
def reportAt (x : Iss) (d : Opd) (va : Nat) (f : Flt) (s : State) : State :=
  let (n, s) := openTxn x 1 d s
  s.send (.faultReport x.k x.pc { f with addr := va, lowt := x.lead } n)

/-- What reading two lines at their homes leaves: no older copy of them in the tile, and the writes it returned (10 R242, R251). -/
def readsPair (x : Iss) (acq : Option Scope) (key : Nat) (s : State) : State :=
  ((s.dropOlder x.st.tileId (lineKey key)).dropOlder x.st.tileId (lineKey (key + 64))).sees x.k 0 acq key 128

/-- The 128 bytes at a place as a table. -/
def tableAt (s : State) (key : Nat) : BitVec 1024 := BitVec.ofNat 1024 (s.read 128 key)

/-- An address in the strand's own image holds no table: the spec names loads and stores there, and the address fault meets ALGLD
as it does WATCH. The model's choice (log entries 21, 59). -/
def effAlgld (d : Opd) (m : Addr) : Effect := fun x s =>
  match checkAddr s x.st .rd (addrOf s x m x.lead) 128 with
  | .walk va => .walk va
  | .stop c => .stop { cause := c, addr := (addrOf s x m x.lead).toNat, lowt := x.lead }
  | .at_ (.image _) => .stop { cause := 0x0E, addr := (addrOf s x m x.lead).toNat, lowt := x.lead }
  | .at_ (.mem key _ tile) =>
    if !storesAccepted s x.k key 128 || !genFree s x.st.ctx then .wait
    else
      let t := tableAt s key
      match pairRead x tile key s with
      | none => .wait
      | some (s', some f) => .ok (reportAt x d (addrOf s x m x.lead).toNat f s')
      | some (s, none) =>
        let s := readsPair x none key s
        match algCheck t with
        | some bad => .ok (answer x d (algStatus (s.ctx x.st.ctx).gen x.st.det (some bad)) s)
        | none =>
          let s := s.modCtx x.st.ctx (fun c => c.install t)
          .ok (answer x d (algStatus (s.ctx x.st.ctx).gen x.st.det none) s)
/-- ALGLD (08 R204). -/
def execAlgld (h : Hdr) (d : Opd) (m : Addr) (s : State) : Result :=
  issue (.algld h d m) (effAlgld d m) s

/-- What ALGRD returns for a word index. -/
def algWord (c : Ctx) (det : Bool) (a : Nat) : Word :=
  if a < 32 then c.table.extractLsb' (32 * a) 32
  else if a = 32 then BitVec.ofNat 32 (c.gen + at_ det.toNat 4) else 0#32

def effAlgrd (d : Opd) : Effect := fun x s =>
  .ok (answer x d (algWord (s.ctx x.st.ctx) x.st.det (readOpd s x (srcAt x.sh .a) x.lead).toNat) s)
/-- ALGRD (08 R205). -/
def execAlgrd (h : Hdr) (d a : Opd) (s : State) : Result :=
  issue (.algrd h d a) (effAlgrd d) s

def effAlgclr : Effect := fun x s =>
  if !storesAccepted s x.k 0 0 || !genFree s x.st.ctx then .wait
  else
    let (n, s) := openTxn x 1 .zero s
    .ok ((s.modCtx x.st.ctx (fun c => c.install 0)).send (.result n 0 []))
/-- ALGCLR (08 R205). -/
def execAlgclr (h : Hdr) (s : State) : Result :=
  issue (.algclr h) effAlgclr s

end Sys2Proof.Machine
end

