-- ==== Sys2Proof/Machine/Parks.lean ====
section
/-! DEFINITION. How parked threads are released (01 R18; 07 R165, R167, R175; 13 R290; 14 R298-R306), and the form that every
event's meaning has. -/

namespace Sys2Proof.Machine

/-- The meaning of an event: its effect where it can happen; otherwise nothing happens. -/
def event (f : State → Option State) (s : State) : Result :=
  .next (match f s with
    | some t => commit s.mem t
    | none => s)

/-- An event that clears memory, but for the bytes kept. -/
def clearing (keep : Nat → Bool) (f : State → Option State) (s : State) : Result :=
  .next (match f s with
    | some t => commit (s.mem.filter (fun c => keep c.1)) t
    | none => s)

/-! ## Release of threads that wait for the end of their instruction -/

/-- The word that one released thread receives in the destination of the instruction that parked it. -/
def releaseWords (s : State) (st : Strand) (t : Nat) (v : Word) : List (Nat × Word) :=
  match aget s.txns (st.thread t).ptxn with
  | some x => resultWords x.dst false [t] (v.zeroExtend 64)
  | none => []

def Thread.release (th : Thread) : Thread := { th with st := .live, park := .none, psel := 0, parg := 0, ptxn := 0 }

/-- The instructions that parked threads and have no thread parked any more complete. -/
def completeIdle (k : Nat) (ns : List Nat) (s : State) : State :=
  ns.foldl (fun s n => match s.strand k with
    | some st => if st.threads.any (fun th => th.ptxn == n) || st.frameTx.contains n && st.framed then s else completeTxn n s
    | none => s) s

/-- Threads become live, each with its word. -/
def releaseThreads (k : Nat) (rs : List (Nat × Word)) (s : State) : State :=
  match s.strand k with
  | none => s
  | some st =>
    let ns := rs.map (fun r => (st.thread r.1).ptxn)
    let s := landWords k (rs.flatMap (fun r => releaseWords s st r.1 r.2)) s
    let s := s.modStrand k (fun st => rs.foldl (fun st r => st.modThread r.1 Thread.release) st)
    completeIdle k ns s

/-! ## BARW (13 R290, R293) -/

/-- An arrival message that has not been counted (13 R287). -/
def State.arrivalOut (s : State) (txn : Nat) : Bool :=
  s.msgs.any (fun m => match m.2 with
    | .bar _ n .. => n == txn
    | .dom _ _ n .. => n == txn
    | _ => false)

/-- A thread parked in BARW for a phase, whose arrival has been counted; a refused one no longer names its instruction (13 R292). -/
def Strand.barw (s : State) (st : Strand) (key phase t : Nat) : Bool :=
  let th := st.thread t
  th.st == .parked && th.park == .barw && th.psel == key && th.parg == phase && th.ptxn != 0 && !s.arrivalOut th.ptxn

/-- The raised line holds the strand: wakes and barrier completions that reach it take effect when it resumes (17 R344). -/
def State.lineHolds (s : State) (st : Strand) : Bool := (s.part st.part).line.isSome && !st.inLine

/-- The threads of a strand that wait for a phase are released together. -/
def releasePhase (k key phase : Nat) (s : State) : State :=
  match s.strand k with
  | none => s
  | some st => releaseThreads k (((List.range 16).filter (fun t => st.barw s key phase t)).map (fun t => (t, BitVec.ofNat 32 phase))) s

/-- A completion reaches a lane. For threads that a handler holds, and for a strand that the line holds, it is recorded; a saved
strand learns the others when it is restored (07 R167; 13 R293; 17 R344, R355). Everything before an arrival of the phase happens
before what follows (13 R291). -/
def completionArrives (k key phase : Nat) (before : List Nat) (s : State) : State :=
  match s.strand k with
  | none => s
  | some st =>
    let here := st.status == .resident
    let s := s.modStrand k (fun st => { st with seen := st.seen ++ before.map (fun n => (0, n)) })
    let s := if st.framed || (here && s.lineHolds st) then
        s.modStrand k (fun st => { st with recorded := st.recorded ++ [(key, phase)] }) else s
    if here && !s.lineHolds st then releasePhase k key phase s else s

/-! ## DOZE (07 R175, 14 R298) -/

/-- The slots of a mask. -/
def slotsOf (sel : Nat) : List Nat := (List.range 4).filter (fun n => sel / 2 ^ n % 2 == 1)

def slotBits (ns : List Nat) : Nat := ns.foldl (fun b n => b + 2 ^ n) 0

/-- The reason word that a DOZE on slots `sel` is released with, if it is released now; `timed` when its time has run out. -/
def dozeReason (ws : List Watch) (sel : Nat) (timed : Bool) : Option Nat :=
  let on (f : Watch → Bool) : List Nat := (slotsOf sel).filter (fun n => f (ws.getD n {}))
  let word (r : Nat) (ns : List Nat) : Option Nat := some (r + at_ (slotBits ns) 4)
  let sat := on (fun w => w.st == .satisfied)
  let ev := on (fun w => w.evicted)
  let bi := on (fun w => w.backinv)
  let rs := on (fun w => w.resumed)
  if sat ≠ [] then word 0 sat
  else if ev ≠ [] then word 2 ev
  else if bi ≠ [] then word 4 bi
  else if rs ≠ [] then word 3 rs
  else if timed then word 1 []
  else if on (fun w => w.st == .arming || w.st == .armed) = [] then word 5 (slotsOf sel)
  else none

/-- What a release with a reason word does to a slot that it names. -/
def Watch.reported (reason : Nat) (w : Watch) : Watch :=
  match reason with
  | 0 => { w with st := .disarmed }
  | 2 => { w with evicted := false }
  | 3 => { w with resumed := false }
  | 4 => { w with backinv := false }
  | _ => w

def reportSlots (word : Nat) (ws : List Watch) : List Watch :=
  (slotsOf (word / 16)).foldl (fun ws n => lset ws n (Watch.reported (word % 16))) ws

/-- What a release with reason 0 acquires: the writes that happen before those that satisfied its slots (14 R302). -/
def satisfiedBrings (ws : List Watch) (word : Nat) : List Nat :=
  if word % 16 = 0 then (slotsOf (word / 16)).flatMap (fun n => (ws.getD n {}).brings) else []

/-- The threads whose DOZE is released in cycle `now`, with their reason words; a thread parks in DOZE's last cycle. Reason 3 waits until every arm sent anew has been
acknowledged, so that one release names all such slots (14 R305). -/
def dozers (st : Strand) (now : Nat) : List (Nat × Nat) :=
  (List.range 16).filterMap (fun t =>
    let th := st.thread t
    if th.st = .parked ∧ th.park = .doze ∧ th.since ≤ now then
      ((dozeReason st.watch th.psel (th.parg != 0 && decide (th.parg ≤ now))).filter (fun w =>
        st.rearms.isEmpty || w % 16 != 3)).map (fun w => (t, w))
    else none)

/-- Every DOZE of a strand that has a reason is released; then the slots named in the reasons are treated. Under the raised line the
slots keep what has reached them (17 R344). -/
def dozeCheck (k : Nat) (s : State) : State :=
  match s.strand k with
  | none => s
  | some st =>
    if st.status ≠ .resident || s.lineHolds st then s
    else
      let rs := dozers st (s.cycle st.part)
      let s := releaseThreads k (rs.map (fun r => (r.1, BitVec.ofNat 32 r.2))) s
      s.modStrand k (fun st => { st with
        seen := st.seen ++ (rs.flatMap (fun r => satisfiedBrings st.watch r.2)).map (fun n => (0, n))
        watch := rs.foldl (fun ws r => reportSlots r.2 ws) st.watch })

/-- Parked threads of a strand that goes on after TRET or when the line clears: what was recorded meanwhile frees them at once (07
R168; 13 R293; 17 R344), and so does a condition of the strand that has cleared meanwhile (02 R51, R53). What is recorded for the
threads that a handler holds is kept for TRET. -/
def releaseRecorded (k : Nat) (s : State) : State :=
  match s.strand k with
  | none => s
  | some st =>
    let s := if st.framed then s else s.modStrand k (fun st => { st with frameTx := [] })
    if s.lineHolds st then s
    else
      let s := st.recorded.foldl (fun s r => releasePhase k r.1 r.2 s) s
      let s := s.modStrand k (fun st => { (if st.hold then unparkAll .tokw st else st) with
        recorded := if st.framed then st.recorded else [] })
      ((dozeCheck k s).unparkBranch k).unparkQuota st.laneId

end Sys2Proof.Machine
end

