-- ==== Sys2Proof/Machine/Sync.lean ====
section
/-! DEFINITION. Barriers, watches, shared registers, queue ports and the mallet, group 0x9 (07 R173-R182, 13, 14, 15 R316). -/

namespace Sys2Proof.Machine

/-! ## Barriers (07 R173, 13 R290, R291) -/

/-- A barrier message leaves for the home of a key's record. -/
def sendBar (x : Iss) (key txn n : Nat) (kind : BarKind) (s : State) : State :=
  s.send (.bar ⟨x.st.launch, key⟩ txn x.k n kind x.pc x.lead (s.bandOf x.st.launch key).bid)

/-- The strand's next issue waits for the end of the instruction. -/
def holdFor (x : Iss) (txn : Nat) (s : State) : State := s.modStrand x.k (fun st => { st with holdTxn := some txn })

/-- The scope of a barrier: the members of the key's band, or the domain (13 R291). -/
def barScope (s : State) (x : Iss) (key : Nat) : Scope := if (s.bandOf x.st.launch key).dom then .dom else .band

/-- What an arrival carries: the writes that happen before it and are not performed everywhere (13 R291). -/
def arriving (x : Iss) (s : State) : List Nat := s.pendingBefore x.k

/-- A barrier instruction of a strand that is no member of the band faults; an arrival is also a release (13 R291). None of them is a
memory operation that a fence or an acquire holds back (08 R203, 10 R244). -/
def barEff (key : BitVec 4) (arrives : Bool) (f : Effect) : Effect := fun x s =>
  if !x.st.bands.contains key.toNat then .stop { cause := 0x0A, lowt := x.lead }
  else if arrives && !relGate s x (barScope s x key.toNat) (some key.toNat) then .wait
  else f x s

def effBari (key : BitVec 4) (dom : Bool) : Effect := barEff key false (fun x s =>
  let n := (readOpd s x (srcAt x.sh .a) x.lead).toNat
  if n = 0 ∨ 2 ^ 24 ≤ n then .stop { cause := 0x0A, lowt := x.lead }
  else
    let (t, s) := openTxn x 1 .zero s
    .ok (holdFor x t (sendBar x key.toNat t 0 (.bari n dom) s)))
/-- BARI (07 R173, 13 R287). -/
def execBari (h : Hdr) (a : Opd) (key : BitVec 4) (dom : Bool) (s : State) : Result :=
  issue (.bari h a key dom) (effBari key dom) s

def effBara (d : Opd) (key : BitVec 4) : Effect := barEff key true (fun x s =>
  if d = .zero then .ok (sendBar x key.toNat 0 x.act.length (.bara false (arriving x s)) s)
  else
    let (t, s) := openTxn x 1 d s
    .ok (holdFor x t (sendBar x key.toNat t x.act.length (.bara true (arriving x s)) s)))
/-- BARA (07 R173, 13 R287, R290). -/
def execBara (h : Hdr) (d : Opd) (key : BitVec 4) (s : State) : Result :=
  issue (.bara h d key) (effBara d key) s

def effBarw (d : Opd) (key : BitVec 4) : Effect := barEff key true (fun x s =>
  let (t, s) := openTxn x 1 d s
  let s := s.modStrand x.k (fun st => x.act.foldl (fun st u => st.modThread u (fun th =>
    { th with st := .parked, park := .barw, psel := key.toNat, parg := 0, ptxn := t })) st)
  .ok (sendBar x key.toNat t x.act.length (.barw (arriving x s)) s))
/-- BARW (07 R173, 13 R287, R290). -/
def execBarw (h : Hdr) (d : Opd) (key : BitVec 4) (s : State) : Result :=
  issue (.barw h d key) (effBarw d key) s

def effBard (key : BitVec 4) : Effect := barEff key true (fun x s =>
  .ok (sendBar x key.toNat 0 x.act.length (.bard (arriving x s)) s))
/-- BARD (07 R173, 13 R287, R289). -/
def execBard (h : Hdr) (key : BitVec 4) (s : State) : Result :=
  issue (.bard h key) (effBard key) s

def effBarq (d : Opd) (key : BitVec 4) : Effect := barEff key false (fun x s =>
  let (t, s) := openTxn x 1 d s
  .ok (holdFor x t (sendBar x key.toNat t 0 .barq s)))
/-- BARQ (07 R173, 13 R290). -/
def execBarq (h : Hdr) (d : Opd) (key : BitVec 4) (s : State) : Result :=
  issue (.barq h d key) (effBarq d key) s

/-! ## Watches (07 R174-R176, 14 R298) -/

/-- Two words as a number, for a 32-bit type the first of them. -/
def watchWords (s : State) (x : Iss) (ty : Ty) (i : Nat) : Dword :=
  let w (j : Nat) : Word := readWord s x (srcAt x.sh .a) j x.lead x.t0
  if isWide ty then w (2 * i + 1) ++ w (2 * i) else (w i).zeroExtend 64

/-- A home with no watch table. -/
def Home.far : Home → Bool
  | .lpddr .. | .expander .. => true
  | _ => false
/-- A home that is written from outside the partition (14 R307). -/
def Home.outside : Home → Bool
  | .slicePort .. => false
  | _ => true

def effWatch (m : Addr) (ty : Ty) (cmp : BitVec 2) (slot : BitVec 2) : Effect := fun x s =>
  let va := addrOf s x m x.lead
  let bad (c : Nat) : Eff := .stop { cause := c, addr := va.toNat, lowt := x.lead }
  match checkAddr s x.st .rd va (memSize ty) with
  | .walk v => .walk v
  | .stop c => bad c
  | .at_ (.image _) => bad 0x0E
  | .at_ (.mem key _ tile) =>
    let h := homeOf x.st.part tile key
    if Home.far h then bad 0x0C
    else
      let (n, s) := openTxn x 1 .zero s
      let s := disarmSlot 0 x.k slot.toNat s
      let s := s.modStrand x.k (fun st => { st with watch := lset st.watch slot.toNat (fun _ =>
        { st := .arming, cmp := cmp, ty := ty, exp := watchWords s x ty 0, mask := watchWords s x ty 1, va := va.toNat
          arm := n, outside := Home.outside h }) })
      .ok (s.send (.arm x.k slot.toNat n va.toNat key h))
/-- WATCH (07 R174, 14 R298, R299). -/
def execWatch (h : Hdr) (d : Opd) (m : Addr) (ty : Ty) (cmp : BitVec 2) (slot : BitVec 2) (s : State) : Result :=
  issue (.watch h d m ty cmp slot) (effWatch m ty cmp slot) s

/-- The cycle in which a DOZE times out; 0 for none. -/
def dozeEnd (s : State) (x : Iss) (a : Opd) : Nat :=
  if a = .zero then 0 else max 1 (x.t0 + (readOpd s x (srcAt x.sh .a) x.lead).toNat)

def effDoze (d a : Opd) (sel : BitVec 4) : Effect := fun x s =>
  let (n, s) := openTxn x 1 d s
  let e := dozeEnd s x a
  .ok (s.modStrand x.k (fun st => x.act.foldl (fun st t => st.modThread t (fun th =>
    { th with st := .parked, park := .doze, psel := sel.toNat, parg := e, ptxn := n, since := x.last })) st))
/-- DOZE (07 R175, 14 R298). -/
def execDoze (h : Hdr) (d a : Opd) (sel : BitVec 4) (s : State) : Result :=
  issue (.doze h d a sel) (effDoze d a sel) s

def effUnwatch (sel : BitVec 4) : Effect := fun x s =>
  let live := (slotsOf sel.toNat).filter (fun n =>
    let w := x.st.watch.getD n {}
    w.st == .arming || w.st == .armed)
  let (n, s) := openTxn x live.length .zero s
  let s := (slotsOf sel.toNat).foldl (fun s i => disarmSlot n x.k i s) s
  .ok (if live.isEmpty then s.send (.result n 0 []) else s)
/-- UNWATCH (07 R176). -/
def execUnwatch (h : Hdr) (sel : BitVec 4) (s : State) : Result :=
  issue (.unwatch h sel) (effUnwatch sel) s

/-! ## Shared ranges (01 R34-R36; 07 R177, R178) -/

/-- The strands that map a range on a lane. -/
def State.mappers (s : State) (st : Strand) (sh : Shr) : Nat :=
  (s.strands.filter (fun p => p.2.maps st.launch st.laneId sh)).length

/-- What keeps a range from being mapped (01 R34). -/
def shrBad (s : State) (st : Strand) (sh : Shr) : Bool :=
  !st.bands.contains sh.key || decide (st.vregs < sh.first + sh.cnt) || decide (4 ≤ st.shr.length)
  || st.shr.any (fun r => decide (r.first < sh.first + sh.cnt ∧ sh.first < r.first + r.cnt))
  || decide (8 ≤ s.mappers st sh)
  || (match s.range st sh with
      | some r => r.cnt != sh.cnt
      | none => false)

/-- The range is created where it is absent, and the strand's private values there are discarded. -/
def mapRange (x : Iss) (sh : Shr) (s : State) : State :=
  let s := match s.range x.st sh with
    | some _ => s
    | none => s.modLane x.st.laneId (fun l => { l with
        ranges := l.ranges ++ [({ launch := x.st.launch, key := sh.key, rid := sh.rid, cnt := sh.cnt } : Range)] })
  s.modStrand x.k (fun st => { st with
    shr := st.shr ++ [sh], regs := st.regs.filter (fun w => !inRange sh w.key) })

def effShrmap (d : Opd) (cnt : BitVec 6) (key rid : BitVec 4) : Effect := fun x s =>
  let sh : Shr := { first := Opd.num d, cnt := cnt.toNat + 1, key := key.toNat, rid := rid.toNat }
  if shrBad s x.st sh then .stop { cause := 4, lowt := x.lead } else .ok (mapRange x sh s)
/-- SHRMAP (01 R34, 07 R177). -/
def execShrmap (h : Hdr) (d : Opd) (cnt : BitVec 6) (key rid : BitVec 4) (s : State) : Result :=
  issue (.shrmap h d cnt key rid) (effShrmap d cnt key rid) s

def effShrunmap (d : Opd) : Effect := fun x s =>
  match x.st.shr.find? (fun r => r.first == Opd.num d) with
  | some r => .ok (unmapRange x.k r s)
  | none => .stop { cause := 4, lowt := x.lead }
/-- SHRUNMAP (01 R34, 07 R177). -/
def execShrunmap (h : Hdr) (d : Opd) (s : State) : Result :=
  issue (.shrunmap h d) (effShrunmap d) s

/-- The full/empty state of a word of a range: the cycle in which it is full, none when it is empty (01 R36). -/
def State.fullAt (s : State) (st : Strand) (sh : Shr) (key : Nat) : Option Nat :=
  match s.range st sh with
  | some r => aget r.full key
  | none => none

def setFull (x : Iss) (sh : Shr) (f : Assoc Nat Nat → Assoc Nat Nat) (s : State) : State :=
  s.modLane x.st.laneId (fun l => { l with
    ranges := l.ranges.map (fun r => if Range.is x.st sh r then { r with full := f r.full } else r) })

def effFerd (a : Opd) : Effect := fun x s =>
  match sharedKey x.st (vecKey (Opd.num a) 0) with
  | none => .stop { cause := 4, lowt := x.lead }
  | some (sh, base) =>
    if x.act.all (fun t => match s.fullAt x.st sh (base + t) with
        | some c => decide (c ≤ x.t0)
        | none => false) then
      .ok (setFull x sh (fun m => x.act.foldl (fun m t => adel m (base + t)) m)
        (writeRows x (x.act.map (fun t => (t, ({ d := readOpd s x (srcAt x.sh .a) t } : Wv)))) s))
    else .cond
/-- FERD (01 R36, 07 R178). -/
def execFerd (h : Hdr) (d a : Opd) (s : State) : Result :=
  issue (.ferd h d a) (effFerd a) s

def effFewr (d : Opd) : Effect := fun x s =>
  match sharedKey x.st (vecKey (Opd.num d) 0) with
  | none => .stop { cause := 4, lowt := x.lead }
  | some (sh, base) =>
    if x.act.all (fun t => (s.fullAt x.st sh (base + t)).isNone) then
      let ws := x.act.map (fun t =>
        (⟨x.cyc t + 6, vecKey (Opd.num d) t, (readOpd s x (srcAt x.sh .a) t).truncate 32, x.cyc t⟩ : RegWr))
      let s := setFull x sh (fun m => x.act.foldl (fun m t => aput m (base + t) (x.cyc t + 6)) m) (s.putRegs x.k ws)
      .ok (if x.sh.isLong then
          let (n, s) := openTxn x 1 .zero s
          s.send (.result n 0 [])
        else s)
    else .cond
/-- FEWR (01 R36, 07 R178). -/
def execFewr (h : Hdr) (d a : Opd) (s : State) : Result :=
  issue (.fewr h d a) (effFewr d) s

/-! ## Queue ports (01 R37, 07 R180, R181) -/

def effQcfg (d : Opd) (qn : BitVec 5) (unb : Bool) : Effect := fun x s =>
  match Opd.port d with
  | none => .ok s
  | some p =>
    if unb then .ok (s.modStrand x.k (fun st => { st with qpb := adel st.qpb p }))
    else
      let tile := (readOpd s x (srcAt x.sh .a) x.lead).toNat
      if (s.part x.st.part).tiles ≤ tile then .stop { cause := 5, lowt := x.lead }
      else .ok (s.modStrand x.k (fun st => { st with qpb := aput st.qpb p (tile, qn.toNat) }))
/-- QCFG (07 R180). -/
def execQcfg (h : Hdr) (d a : Opd) (qn : BitVec 5) (unb : Bool) (s : State) : Result :=
  issue (.qcfg h d a qn unb) (effQcfg d qn unb) s

def effQstat (a : Opd) : Effect := fun x s =>
  match (Opd.port a).bind (fun p => aget x.st.qpb p) with
  | none => .stop { cause := 5, lowt := x.lead }
  | some (tile, q) =>
    let n := (agetD (s.tc ⟨x.st.ctx, tile⟩).queues q []).length
    .ok (writeRows x (x.act.map (fun t => (t, w32 (BitVec.ofNat 32 (n + at_ (256 - n) 16))))) s)
/-- QSTAT (07 R181). -/
def execQstat (h : Hdr) (d a : Opd) (s : State) : Result :=
  issue (.qstat h d a) (effQstat a) s

/-! ## The mallet (07 R182, 15 R316) -/

def effTokw : Effect := fun x s =>
  if !x.st.det || x.st.hold then .ok s
  else .ok (s.modStrand x.k (fun st => x.act.foldl (fun st t => st.modThread t (fun th =>
    { th with st := .parked, park := .tokw, psel := 0, parg := 0, ptxn := 0 })) st))
/-- TOKW (07 R182, 15 R316). -/
def execTokw (h : Hdr) (s : State) : Result :=
  issue (.tokw h) effTokw s

def effTokp : Effect := fun x s =>
  if !x.st.det then .ok s
  else if !x.st.hold then .stop { cause := 0x18, lowt := x.lead }
  else if !shbPerformed s x.k then .wait
  else .ok (passMallet x.k s)
/-- TOKP (07 R182, 15 R316). -/
def execTokp (h : Hdr) (s : State) : Result :=
  issue (.tokp h) effTokp s

end Sys2Proof.Machine
end

