-- ==== Sys2Proof/Machine/Buffers.lean ====
section
/-! DEFINITION. Declared buffers, group 0xA (08 R206-R212, 12 R278), and BUFFER_STATE_CHANGE. A request reaches its table when
the instruction is performed: there it is checked; a change that has to wait is a message until it is applied. -/

namespace Sys2Proof.Machine

/-- The strand's next issue waits until an answer of the table has landed. -/
def tableAnswer (x : Iss) (d : Opd) (v : Word) (s : State) : State :=
  let (n, s) := openTxn x 1 d s
  holdFor x n (s.send (.result n 0 (resultWords d false x.act (v.zeroExtend 64))))

/-- An earlier request on the buffer has not been applied. -/
def State.bufBusy (s : State) (tc : TileCtx) (buf : Nat) : Bool :=
  s.msgs.any (fun m => match m.2 with
    | .bufReq _ _ tc' b _ => tc' == tc && b == buf
    | _ => false)

def bufFault (x : Iss) (buf : Nat) (b : Option Buf) (tile : Nat) : Flt :=
  { cause := 0x12, lowt := x.lead
    detail := bufferDetail buf (match b with
      | some b => b.st.code
      | none => 0) tile }

/-- Whether a request is legal on a buffer (08 R208, R209). -/
def BufReq.legal (r : BufReq) (b : Buf) : Bool :=
  match r with
  | .set .filling => b.st == .empty
  | .set .full => b.st == .filling
  | .set .draining => b.st == .full
  | .set .empty => b.st == .full || b.st == .draining
  | .set .stationary => false
  | .brel => (b.st == .empty || b.st == .full) && !b.ring
  | .stat => b.st == .full && !b.ring && b.base % 2 ^ 17 == 0 && b.size % 2 ^ 17 == 0
  | .unstat => b.st == .stationary

/-- A request is on its way to being applied; an UNSTAT is known at the table from then on (12 R278). -/
def sendReq (x : Iss) (d : Opd) (tc : TileCtx) (buf : Nat) (r : BufReq) (s : State) : State :=
  let (n, s) := openTxn x 1 d s
  let s := if r = .unstat then s.modTc tc (fun t => { t with bufs := amod t.bufs buf (fun b => { b with unstat := true }) }) else s
  holdFor x n (s.send (.bufReq n x.k tc buf r))

/-- The common form of group 0xA: the tile that A names, and its table once earlier requests on the buffer are applied. -/
def bufEff (buf : Nat) (f : Nat → Option Buf → Effect) : Effect := fun x s =>
  let tile := (readOpd s x (srcAt x.sh .a) x.lead).toNat
  let tc : TileCtx := ⟨x.st.ctx, tile⟩
  if (s.part x.st.part).tiles ≤ tile then .stop { cause := 0x0E, lowt := x.lead }
  else if s.bufBusy tc buf then .wait
  else f tile (aget (s.tc tc).bufs buf) x s

/-- A request that faults when it is refused. -/
def reqEff (buf : Nat) (r : BufReq) : Effect := bufEff buf (fun tile b x s =>
  match b with
  | some c => if r.legal c then .ok (sendReq x .zero ⟨x.st.ctx, tile⟩ buf r s) else .stop (bufFault x buf b tile)
  | none => .stop (bufFault x buf none tile))

/-- The region a BDECL names overlaps another buffer. -/
def Buf.overlaps (b : Buf) (off size : Nat) : Bool := decide (off < b.base + b.size ∧ b.base < off + size)

/-- A region overlaps a declared buffer on its tile: of its own context, or of another whose tables are there (08 R207). -/
def State.regionTaken (s : State) (tc : TileCtx) (off size : Nat) : Bool :=
  (contextsOf tc.ctx.part).any (fun d => (d == tc.ctx || s.onTiles d) && (s.tc ⟨d, tc.t⟩).bufs.any (fun b => b.2.overlaps off size))

def effBdecl (m : Addr) (buf : BitVec 6) : Effect := fun x s =>
  let va := (addrOf s x m x.lead).toNat
  let size := (readOpd s x (srcAt x.sh .a) x.lead).toNat
  let off := va % 2 ^ 23
  let tile := va % 2 ^ 48 / 2 ^ 23
  let tc : TileCtx := ⟨x.st.ctx, tile⟩
  let n := buf.toNat
  let bufs := (s.tc tc).bufs
  if va / 2 ^ 48 ≠ 0xFF ∨ (s.part x.st.part).tiles ≤ tile then .stop { cause := 0x0E, addr := va, lowt := x.lead }
  else if va % 4096 ≠ 0 ∨ size % 4096 ≠ 0 then .stop { cause := 0x0D, addr := va, lowt := x.lead }
  else if s.bufBusy tc n then .wait
  else if size = 0 ∨ 2 ^ 23 < off + size ∨ (aget bufs n).isSome ∨ s.regionTaken tc off size then
    .stop { bufFault x n (aget bufs n) tile with addr := va }
  else .ok (tableAnswer x .zero 0 (s.modTc tc (fun t => { t with bufs := aput t.bufs n { base := off, size := size, st := .empty } })))
/-- BDECL (08 R206, R207). -/
def execBdecl (h : Hdr) (d : Opd) (m : Addr) (buf : BitVec 6) (s : State) : Result :=
  issue (.bdecl h d m buf) (effBdecl m buf) s

/-- TO of BSET. -/
def bsetTo (tmo : BitVec 2) : BufSt :=
  match tmo.toNat with
  | 0 => .empty
  | 1 => .filling
  | 2 => .full
  | _ => .draining

/-- Of a buffer that is bound to a ring and in a state the move is not legal from, .try answers 2: the ring is tested first, which
08 R208 does not order. The model's choice (log entry 59). -/
def effBset (d : Opd) (buf : BitVec 6) (tmo : BitVec 2) (try_ : Bool) : Effect :=
  bufEff buf.toNat (fun tile b x s =>
    match b with
    | none => .stop (bufFault x buf.toNat none tile)
    | some c =>
      if c.ring then (if try_ then .ok (tableAnswer x d 2 s) else .stop (bufFault x buf.toNat b tile))
      else if (BufReq.set (bsetTo tmo)).legal c then .ok (sendReq x d ⟨x.st.ctx, tile⟩ buf.toNat (.set (bsetTo tmo)) s)
      else if try_ then .ok (tableAnswer x d 1 s)
      else .stop (bufFault x buf.toNat b tile))
/-- BSET (08 R206, R208). -/
def execBset (h : Hdr) (d a : Opd) (buf : BitVec 6) (tmo : BitVec 2) (try_ : Bool) (s : State) : Result :=
  issue (.bset h d a buf tmo try_) (effBset d buf tmo try_) s

def effBrel (buf : BitVec 6) : Effect := reqEff buf.toNat .brel
/-- BREL (08 R206, R209). -/
def execBrel (h : Hdr) (a : Opd) (buf : BitVec 6) (s : State) : Result :=
  issue (.brel h a buf) (effBrel buf) s

/-- The status word of BQRY (08 R210). -/
def bqryWord (b : Option Buf) : Word :=
  match b with
  | none => 0
  | some b => BitVec.ofNat 32 (at_ (b.size / 4096) 20 + at_ (b.base / 4096) 9 + at_ b.ring.toNat 3 + b.st.code)

def effBqry (d : Opd) (buf : BitVec 6) : Effect := fun x s =>
  let tile := (readOpd s x (srcAt x.sh .a) x.lead).toNat
  if (s.part x.st.part).tiles ≤ tile then .stop { cause := 0x0E, lowt := x.lead }
  else .ok (tableAnswer x d (bqryWord (aget (s.tc ⟨x.st.ctx, tile⟩).bufs buf.toNat)) s)
/-- BQRY (08 R206, R210). -/
def execBqry (h : Hdr) (d a : Opd) (buf : BitVec 6) (s : State) : Result :=
  issue (.bqry h d a buf) (effBqry d buf) s

def effStat (buf : BitVec 6) : Effect := reqEff buf.toNat .stat
/-- STAT (08 R206, R209). -/
def execStat (h : Hdr) (a : Opd) (buf : BitVec 6) (s : State) : Result :=
  issue (.stat h a buf) (effStat buf) s

def effUnstat (buf : BitVec 6) : Effect := reqEff buf.toNat .unstat
/-- UNSTAT (08 R206, R209, 12 R278). -/
def execUnstat (h : Hdr) (a : Opd) (buf : BitVec 6) (s : State) : Result :=
  issue (.unstat h a buf) (effUnstat buf) s

/-! ## BUFFER_STATE_CHANGE (08 R212) -/

/-- Every store and atomic of the strand that left before message `n` has been accepted. -/
def acceptedBefore (s : State) (k n : Nat) : Bool :=
  s.ops.all (fun o => !(o.2.strand == k && o.2.stores && o.2.stage == .mesh && decide (o.1 < n)))

/-- No operation is pending at a slice port on the words of a region. -/
def regionQuiet (s : State) (tc : TileCtx) (b : Buf) : Bool :=
  let base := scratchKey tc.ctx.part.pkg (s.part tc.ctx.part) tc.t b.base
  s.homes.all (fun h => h.2.queue.all (fun e => !decide (e.addr < base + b.size ∧ base < e.addr + e.size)))

/-- A task of the queue, accepted before the UNSTAT, that names the buffer. -/
def TItem.names (buf : Nat) (i : TItem) : Bool :=
  match i.kind with
  | .task r _ => (r.extractLsb' 16 6).toNat == buf && !i.late
  | _ => false

def BufReq.waits (s : State) (tc : TileCtx) (buf : Nat) (b : Buf) : BufReq → Bool
  | .set .full | .stat => !regionQuiet s tc b
  | .set .empty | .brel => b.st == .filling && !regionQuiet s tc b
  | .unstat => (s.tc tc).tq.any (TItem.names buf)
  | _ => false

def BufReq.apply (buf : Nat) (r : BufReq) (t : TCtx) : TCtx :=
  match r with
  | .set st => { t with bufs := amod t.bufs buf (fun b => { b with st := st }) }
  | .brel => { t with bufs := adel t.bufs buf }
  | .stat => { t with bufs := amod t.bufs buf (fun b => { b with st := .stationary }) }
  | .unstat => { t with bufs := amod t.bufs buf (fun b => { b with st := .full, unstat := false }) }

def evBufferStateChange (n : Nat) (s : State) : Option State :=
  match aget s.msgs n with
  | some (.bufReq txn k tc buf r) =>
    let s' := s.dropMsg n
    (match aget (s.tc tc).bufs buf with
      | none => some (landResult txn [] s')
      | some b =>
        if !acceptedBefore s k n || r.waits s tc buf b then none
        else
          let dst := match aget s.txns txn with
            | some t => t.dst
            | none => .zero
          some (landResult txn (resultWords dst false [] 0) (s'.modTc tc (r.apply buf))))
  | _ => none
/-- BUFFER_STATE_CHANGE (08 R212). -/
def execBufferStateChange (n : Nat) (s : State) : Result :=
  event (evBufferStateChange n) s

end Sys2Proof.Machine
end

