-- ==== Sys2Proof/Machine/Units.lean ====
section
/-! DEFINITION. What the units beside the lanes share: when they run (17 R344), their faults (09 R215, 17 R345), their accesses
to memory (17 R339, 10 R240), commands that QFENCE waits for (09 R234), and a fault found at a table or a home for an
instruction that holds its strand (07 R173, 09 R215). -/

namespace Sys2Proof.Machine

/-- Units of a context run while the line is not raised and the context is running or its knell has rung (17 R344, R356). -/
def ctxRuns (s : State) (c : CtxId) : Bool :=
  (s.part c.part).line.isNone && ((s.ctx c).st == 1 || (s.ctx c).st == 2) && (s.pkg c.part.pkg).powered

/-! ## Faults -/

def UnitId.loc : UnitId → Nat
  | .sched t | .engine t _ => at_ t 16
  | _ => 0

/-- An imprecise fault that a unit finds: it writes a record of its own beside the strand's (09 R215). -/
def State.unitFault (s : State) (p : PartId) (u : UnitId) (f : Flt) (k : Nat) (pc : Pc) (ust : Nat) : State :=
  let info : StopInfo :=
    { flt := f, pc := pc.toNat, loc := UnitId.loc u, unit := UnitId.selector s u, coinc := 2, impr := true, ust := ust }
  (s.impreciseFault k f pc).putStop p u (info.bits s.clk)

/-- A fault of an instruction whose strand has issued nothing since: it changes nothing. The PCs stay at it and the region start at
what it was; one that drained is the oldest entry again, and its fault a drain fault (07 R173; 02 R55; 09 R215). -/
def faultBack (n : Nat) (f : Flt) (s : State) : State :=
  match aget s.txns n with
  | none => s
  | some t =>
    let s := (completeTxn n s).modStrand t.strand (fun st => { st with region := t.region })
    let f := { f with lowt := t.act.headD 0 }
    match t.ent with
    | none => (setPcs t.strand (t.exm.map (fun u => (u, t.pc))) s).preciseFault t.strand f t.pc t.exm t.act
    | some e => (s.modStrand t.strand (fun st => { st with ents := e :: st.ents, win := true })).drainFault t.strand f e t.act

/-! ## Memory accesses of engines -/

/-- Where an engine's access of a block goes. -/
inductive EAddr where
  | page
  | bad
  | key (key : Nat) (home : Home)
  deriving DecidableEq, Repr

/-- An access of an engine, given what a walk of its address answers; the scratchpad window is not translated (17 R339). -/
def accessAt (s : State) (p : PartId) (need : Need) (va : Nat) (leaf : Walk) : EAddr :=
  if 2 ^ 56 ≤ va ∨ va / 2 ^ 48 = 0xFE then .bad
  else if va / 2 ^ 48 = 0xFF then
    let t := va % 2 ^ 48 / 2 ^ 23
    if (s.part p).tiles ≤ t then .bad
    else let k := scratchKey p.pkg (s.part p) t (va % 2 ^ 23); .key k (homeOf p t k)
  else match leaf with
    | .page => .page
    | .bad => .bad
    | .leaf log e =>
      if permits e need then let k := leafKey s p.pkg e (va % 2 ^ log); .key k (homeOf p 0 k) else .bad

/-- A stream engine translates through its tile's cache (17 R338). -/
def engineAddr (s : State) (tc : TileCtx) (need : Need) (va : Nat) : EAddr :=
  accessAt s tc.ctx.part need va (s.translate ⟨tc.ctx.part, tc.t⟩ tc.ctx va)

/-- The table entries that the walk of an engine's address reads; none where it needs no walk. -/
def engineReads (s : State) (tc : TileCtx) (va : Nat) : List (Nat × Home) :=
  let t : TileId := ⟨tc.ctx.part, tc.t⟩
  if va / 2 ^ 48 = 0xFF ∨ (s.tlbFind t tc.ctx va).isSome then [] else s.walkPlaces (s.walkCache t) tc.ctx va

/-- What the walk leaves in the die's walk cache and the tile's translation cache (17 R338). -/
def engineFill (tc : TileCtx) (s : State) (va : Nat) : State :=
  let t : TileId := ⟨tc.ctx.part, tc.t⟩
  if va / 2 ^ 48 = 0xFF ∨ (s.tlbFind t tc.ctx va).isSome then s
  else match s.walkVia t tc.ctx va with
    | .leaf log e => (s.walkFill t tc.ctx va).tlbFill t { ctx := tc.ctx, va := va, log := log, leaf := e }
    | _ => s.walkFill t tc.ctx va

/-- The collective engine and the launch scheduler translate on the I/O die (17 R338). -/
def ioAddr (s : State) (c : CtxId) (need : Need) (va : Nat) : EAddr := accessAt s c.part need va (s.walk c va)

/-- The same for a walk on the I/O die. -/
def ioReads (s : State) (c : CtxId) (va : Nat) : List (Nat × Home) := if va / 2 ^ 48 = 0xFF then [] else s.walkPlaces [] c va

/-- The refusal of the first of the places that the partition may not use or a declared buffer does not admit (12 R277, 17 R341). -/
def placesRefused (s : State) (c : CtxId) (load : Bool) (ks : List (Nat × Home)) : Option Flt := ks.findSome? (placeRefused s c load)

/-- A write that no strand's instruction makes: performed once its invalidations are acknowledged (10 R240). -/
def bareOp (c : CtxId) (n key size : Nat) (h : Home) (acks : List TileId) : Nat × Op :=
  (n, { txn := 0, strand := 0, gen := 0, ctx := c, tile := 0, thread := 0, pc := 0, va := 0, addr := key, home := h, size := size
        ty := .i32, opr := 1, stage := .applied, acks := acks })

/-- A write of an engine, the host or a scheduler, applied at its home; its number while it is not performed. One that covers a whole
word replaces it, errors and all; one that does not is refused where an error stops it, and changes nothing (18 R363). -/
def bareWrite (c : CtxId) (h : Home) (key size v : Nat) (s : State) : List Nat × State :=
  match s.consume (.word (lineKey key)) (size == 64) 0 c.part with
  | (s, .stop _) => ([], s)
  | (s, .ok) =>
    let n := s.uid + 1
    let (tiles, s) := applyWrite h key size v n { s.cutSyncs key size with uid := n }
    match tiles with
    | [] => ([], s)
    | _ => ([n], { s with ops := s.ops ++ [bareOp c n key size h tiles] })

/-! ## Commands that QFENCE waits for (09 R234) -/

/-- The bits of a QFENCE mask: task queues, stream engines, collective queue q. -/
def tqBit : Nat := 21
def seBit : Nat := 20
def cqBit (q : Nat) : Nat := 16 + q

def place (k bit n : Nat) (s : State) : State := s.modStrand k (fun st => { st with placed := st.placed ++ [(bit, n)] })

def unplace (k n : Nat) (s : State) : State :=
  s.modStrand k (fun st => { st with
    placed := st.placed.filter (fun p => p.2 != n)
    qfences := (st.qfences.map (fun q => (q.1, q.2.filter (fun m => m != n)))).filter (fun q => !q.2.isEmpty) })

/-- A QFENCE holds the instruction that would place a command in the queue. -/
def fenced (st : Strand) (bit : Nat) : Bool := st.qfences.any (fun q => q.1 / 2 ^ bit % 2 == 1)

/-- The common form of groups 0xB and 0xC: the tile that an operand names (09 R215). -/
def tileEff (pos : Pos) (f : Nat → Effect) : Effect := fun x s =>
  let tile := (readOpd s x (srcAt x.sh pos) x.lead).toNat
  if (s.part x.st.part).tiles ≤ tile then .stop { cause := 0x0E, lowt := x.lead }
  else f tile x s

end Sys2Proof.Machine
end

