-- ==== Sys2Proof/Machine/Tasks.lean ====
section
/-! DEFINITION. What a matrix task reads and computes (09 R219-R223, 03 R67-R71), and the task queue of a tile (09 R217-R228,
17 R354). -/

namespace Sys2Proof.Machine

/-! ## The record (09 R219, R220) -/

/-- Bits `lo` to `lo + w - 1` of a record. -/
def fld {n : Nat} (r : BitVec n) (lo w : Nat) : Nat := (r.extractLsb' lo w).toNat

/-- The bits of a task record that are zero, SPEC among them. -/
def taskZero : List (Nat × Nat) :=
  [(192, 320), (177, 15), (145, 15), (121, 7), (105, 7), (84, 12), (60, 4), (54, 2), (47, 1), (37, 3), (25, 7), (24, 1), (22, 2)
  , (12, 4), (5, 3)]

def taskBad (r : Line) : Bool :=
  taskZero.any (fun z => fld r z.1 z.2 != 0) || fld r 32 5 == 0 || decide (16 < fld r 32 5) || fld r 40 7 == 0
  || decide (64 < fld r 40 7) || fld r 64 20 == 0 || decide (16 < fld r 56 4 + fld r 32 5) || decide (64 < fld r 48 6 + fld r 40 7)

def tAcc (r : Line) : Nat := fld r 0 5
def tSlot (r : Line) : Nat := fld r 8 4
def tBuf (r : Line) : Nat := fld r 16 6
def tRows (r : Line) : Nat := fld r 32 5
def tCols (r : Line) : Nat := fld r 40 7
def tLen (r : Line) : Nat := fld r 64 20

/-- DETAIL of task, accumulator and operand-slot faults (17 R346). -/
def matDetail (acc slot buf off : Nat) : BitVec 256 := BitVec.ofNat 256 (acc + at_ slot 8 + at_ buf 16 + at_ off 32)
def taskDetail (r : Line) (off : Nat) : BitVec 256 := matDetail (tAcc r) (tSlot r) (tBuf r) off

/-! ## Runs of blocks (09 R222) -/

/-- The check of a header that fails, as STEP (06 R152): 03 R67 for an FP40 accumulator, 03 R71 for an INT40 one. -/
def hdrStep (int : Bool) (b : Line) : Option Nat :=
  let h := blkHdr b
  if fmtReserved h.fmt then some 1
  else if !int || h.fmt == 0x3F then none
  else if h.fmt != 1 && h.fmt != 4 && h.fmt != 6 then some 8
  else if h.fmt == 1 && (q4xSeq b).esc then some 9
  else if h.sexp == 255 then some 10
  else none

/-- What stops a run: a block beyond the end, or a header. -/
inductive RunErr where
  | beyond (off : Nat)
  | header (off : Nat) (hdr step : Nat)
  deriving DecidableEq, Repr

/-- The blocks of a run that holds `need` elements, from block `i`. -/
def runBlocks (get : Nat → Line) (lim : Nat) (int : Bool) : Nat → Nat → Nat → Except RunErr (List Nat)
  | 0, _, _ => .ok []
  | fuel + 1, i, need =>
    if lim ≤ i then .error (.beyond i)
    else
      let b := get i
      match hdrStep int b with
      | some st => .error (.header i (fld b 0 16) st)
      | none =>
        let n := fmtElems (blkHdr b).fmt
        if need ≤ n then .ok [i]
        else match runBlocks get lim int fuel (i + 1) (need - n) with
          | .ok is => .ok (i :: is)
          | .error e => .error e

/-- The element values of a block: exact, or unscaled for an INT40 accumulator. -/
def blkValues (int : Bool) (b : Line) : List FVal :=
  if int then
    (if (blkHdr b).fmt == 0x3F || (blkHdr b).sexp == 0 then List.replicate (fmtElems (blkHdr b).fmt) (.zero false)
     else rawElems b (blkHdr b).fmt)
  else (decodeBlock b).getD []

/-- A run as elements with the block each lies in. -/
def runElems (get : Nat → Line) (int : Bool) (klen : Nat) (is : List Nat) : List (Nat × FVal) :=
  (is.flatMap (fun i => (blkValues int (get i)).map (fun v => (i, v)))).take klen

/-! ## Segments (03 R70, R71) -/

/-- A list cut into maximal runs of one key. -/
def cutRuns {κ β : Type} [DecidableEq κ] : List (κ × β) → List (κ × List β)
  | [] => []
  | (k, p) :: r => match cutRuns r with
    | (k', ps) :: rest => if k = k' then (k, p :: ps) :: rest else (k, [p]) :: (k', ps) :: rest
    | [] => [(k, [p])]

/-- The blocks of the slot and of the buffer that the segments of an element lie in. -/
def segBlocks (a w : List (Nat × FVal)) : List (Nat × Nat) :=
  (cutRuns ((a.zip w).map (fun p => ((p.1.1, p.2.1), (p.1.2, p.2.2))))).map (fun s => s.1)

/-- The segments of an element: the pairs of operands over which neither changes block. -/
def segments (a w : List (Nat × FVal)) : List (List (FVal × FVal)) :=
  (cutRuns ((a.zip w).map (fun p => ((p.1.1, p.2.1), (p.1.2, p.2.2))))).map (fun s => s.2)

def FVal.int : FVal → Int
  | .fin x => x.num
  | _ => 0

/-- An accumulator element plus an exact integer (03 R69). -/
def addInt40 (kind : Nat) (acc : BitVec 40) (v : Int) : BitVec 40 :=
  let t := acc.toInt + v
  BitVec.ofInt 40 (if kind = 2 then clampInt (-(2 ^ 39)) (2 ^ 39 - 1) t else t)

/-- One segment added to an element (03 R70, R71). -/
def addSegment (kind : Nat) (acc : BitVec 40) (seg : List (FVal × FVal)) : BitVec 40 :=
  if kind = 0 then
    let p := sumTerms .rne (seg.map (fun q => q.1.mul q.2))
    BitVec.ofNat 40 (fp40.arith .rne false ((fp40.decode acc.toNat).add .rne p))
  else addInt40 kind acc ((seg.map (fun q => q.1.int * q.2.int)).sum)

/-! ## A task's operands -/

structure TaskOps where
  rows : List (List (Nat × FVal))
  cols : List (List (Nat × FVal))
  slotBlks : List Nat
  bufBlks : List Nat
  deriving DecidableEq, Repr

def mapExcept {ε β γ : Type} (f : β → Except ε γ) : List β → Except ε (List γ)
  | [] => .ok []
  | x :: xs => match f x with
    | .error e => .error e
    | .ok y => (match mapExcept f xs with
      | .error e => .error e
      | .ok ys => .ok (y :: ys))

def slotBlock (sl : OSlot) (i : Nat) : Line := agetD sl.blocks i 0#512
/-- Key of a block of a buffer's region. -/
def bufKey (s : State) (tc : TileCtx) (b : Buf) (i : Nat) : Nat :=
  scratchKey tc.ctx.part.pkg (s.part tc.ctx.part) tc.t (b.base + 64 * i)

/-- The runs of a task: its rows first, then its columns. -/
def taskOps (s : State) (tc : TileCtx) (r : Line) (sl : OSlot) (b : Buf) (int : Bool) : Except RunErr TaskOps :=
  let k := tLen r
  let getW (i : Nat) : Line := s.lineAt (bufKey s tc b i)
  match mapExcept (fun m => runBlocks (slotBlock sl) 512 int k (fld r 96 9 + m * fld r 112 9) k) (List.range (tRows r)) with
  | .error e => .error e
  | .ok as => match mapExcept (fun n => runBlocks getW (b.size / 64) int k (fld r 128 17 + n * fld r 160 17) k) (List.range (tCols r)) with
    | .error e => .error e
    | .ok ws => .ok
      { rows := as.map (runElems (slotBlock sl) int k), cols := ws.map (runElems getW int k)
        slotBlks := as.flatten.eraseDups, bufBlks := ws.flatten.eraseDups }

/-- Segment `j` added into every element that has one. -/
def addSegments (r : Line) (kind : Nat) (o : TaskOps) (j : Nat) (els : Assoc Nat (BitVec 40)) : Assoc Nat (BitVec 40) :=
  ((List.range o.rows.length).zip o.rows).foldl (fun els p =>
    ((List.range o.cols.length).zip o.cols).foldl (fun els q =>
      match (segments p.2 q.2)[j]? with
      | none => els
      | some sg =>
        let e := 64 * (fld r 56 4 + p.1) + fld r 48 6 + q.1
        aput els e (addSegment kind (agetD els e 0#40) sg)) els) els

/-- The blocks that segment `j` of a task reads: of its slot, and of its buffer. -/
def TaskOps.blocksAt (o : TaskOps) (j : Nat) : List Nat × List Nat :=
  let bs := o.rows.flatMap (fun a => o.cols.filterMap (fun w => (segBlocks a w)[j]?))
  ((bs.map (fun p => p.1)).eraseDups, (bs.map (fun p => p.2)).eraseDups)

/-- The residue modulo 3 of a segment's exact sum, which the operands' residues give: of an integer sum, or in units of the smallest power
of two of its products. 18 R361 does not say what the smallest product unit is: the model's choice (log entry 63). -/
def segResidue (kind : Nat) (seg : List (FVal × FVal)) : Nat :=
  let terms : List (Int × Int) :=
    if kind = 0 then seg.filterMap (fun q => match q.1.mul q.2 with
      | .fin x => some (x.num, x.e)
      | _ => none)
    else seg.map (fun q => (q.1.int * q.2.int, 0))
  let unit := terms.foldl (fun u t => min u t.2) ((terms.head?.map (fun t => t.2)).getD 0)
  ((terms.map (fun (t : Int × Int) => t.1 * 2 ^ (t.2 - unit).toNat)).sum % 3).toNat

/-- The residue of segment `j` of one of the elements that have it; which element's sum was wrong is a free value (log entry 3). -/
def TaskOps.residueAt (o : TaskOps) (kind j : Nat) (w : Word) : Nat :=
  let segs := o.rows.flatMap (fun a => o.cols.filterMap (fun c => (segments a c)[j]?))
  segResidue kind (segs.getD (w.toNat % max 1 segs.length) [])

/-- The most segments that an element of the task has. -/
def segCount (o : TaskOps) : Nat :=
  o.rows.foldl (fun n a => o.cols.foldl (fun n w => max n (segments a w).length) n) 0

/-! ## The queue -/

/-- Items in the task queue of a tile, with the places promised to commands on their way (09 R221). -/
def State.tqUsed (s : State) (p : PartId) (t : Nat) : Nat :=
  s.tctx.foldl (fun n x => if x.1.ctx.part = p ∧ x.1.t = t then n + x.2.tq.length + x.2.promised else n) 0

def State.tqRoom (s : State) (x : Iss) (t : Nat) : Bool := decide (s.tqUsed x.st.part t < 64)

/-- The items of one accumulator tile in order. -/
def TCtx.order (t : TCtx) (acc : Nat) : List TItem := t.tq.filter (fun i => i.acc == some acc)
def TCtx.setItem (t : TCtx) (n : Nat) (f : TItem → TItem) : TCtx :=
  { t with tq := t.tq.map (fun i => if i.txn = n then f i else i) }
def TCtx.drop (t : TCtx) (n : Nat) : TCtx := { t with tq := t.tq.filter (fun i => i.txn != n) }
def TCtx.acc (t : TCtx) (a : Nat) : Acc := agetD t.accs a {}
def TCtx.setAcc (t : TCtx) (a : Nat) (f : Acc → Acc) : TCtx := { t with accs := aput t.accs a (f (t.acc a)) }

/-- The tasks of a queue that name a slot. -/
def TCtx.naming (t : TCtx) (slot : Nat) : List Nat :=
  (t.tq.filter (fun i => match i.kind with
    | .task r _ => tSlot r == slot
    | _ => false)).map (fun i => i.txn)

/-- A slot starts to be released (09 R217). -/
def TCtx.release (t : TCtx) (slot : Nat) : TCtx :=
  { t with slots := aput t.slots slot { agetD t.slots slot {} with st := .releasing, before := t.naming slot } }

/-- All transfers done, and for a fill ring every entry released and every slot past RELEASING (09 R232). -/
def Ring.complete (r : Ring) : Bool :=
  r.done == r.total && (!r.fill || (r.signalled == r.total && (!r.slots || r.freed == r.total)))

/-- A ring that is complete: its entries are empty or free, and unbound. -/
def Ring.entries (r : Ring) : List Nat := (List.range r.n).map (fun i => r.first + i)

def TCtx.unbind (t : TCtx) (r : Ring) : TCtx :=
  if r.slots then
    { t with slots := r.entries.foldl (fun m i => amod m i (fun sl => { sl with st := .free, ring := false, before := [] })) t.slots }
  else { t with bufs := r.entries.foldl (fun m i => amod m i (fun b => { b with st := .empty, ring := false })) t.bufs }

def ringSweep (tc : TileCtx) (s : State) : State :=
  let t := s.tc tc
  let fin := t.engines.flatMap (fun e => (e.2.rings.filter (fun r => r.2.complete)).map (fun r => r.2))
  let s := s.modTc tc (fun t => fin.foldl TCtx.unbind
    { t with engines := t.engines.map (fun e => (e.1, { e.2 with rings := e.2.rings.filter (fun r => !r.2.complete) })) })
  fin.foldl (fun s r => unplace r.strand r.txn s) s

/-- Slots whose tasks have retired leave RELEASING: free, or open for their ring's next fill, and the ORELS items of the free
ones are done (09 R216, R217, R232). -/
def slotSweep (tc : TileCtx) (s : State) : State :=
  let t := s.tc tc
  let done (p : Nat × OSlot) : Bool := p.2.st == .releasing && p.2.before.all (fun n => !t.tq.any (fun i => i.txn == n))
  let freed := (t.slots.filter done).map (fun p => p.1)
  match freed with
  | [] => s
  | _ =>
    let items := t.tq.filter (fun i => match i.kind with
      | .orels sl => freed.contains sl
      | _ => false)
    let ringOf (sl : Nat) (r : Ring) : Bool :=
      r.slots && decide (r.first ≤ sl ∧ sl < r.first + r.n)
    let s := s.modTc tc (fun t => { t with
      slots := t.slots.map (fun p => if done p then (p.1, { p.2 with st := if p.2.ring then .open_ else .free, before := [] }) else p)
      tq := t.tq.filter (fun i => !items.any (fun j => j.txn == i.txn))
      engines := t.engines.map (fun e => (e.1, { e.2 with rings := e.2.rings.map (fun r =>
        (r.1, { r.2 with freed := r.2.freed + (freed.filter (fun sl => ringOf sl r.2)).length })) })) })
    ringSweep tc (items.foldl (fun s i => unplace i.strand i.txn s) s)

/-- An item leaves the queue, retired or applied: QFENCE no longer waits for it. -/
def leaveQueue (tc : TileCtx) (i : TItem) (s : State) : State :=
  slotSweep tc (unplace i.strand i.txn (s.modTc tc (fun t => t.drop i.txn)))

/-- A running task is cut, or a speculative one stopped at a segment boundary (17 R354). -/
def TItem.cut (i : TItem) : TItem :=
  match i.kind with
  | .task _ true => { i with running := false }
  | _ => { i with running := false, seg := 0, ckpt := none }

def TCtx.cutTasks (t : TCtx) : TCtx :=
  let t' := t.tq.foldl (fun t i => match i.acc, i.ckpt with
    | some a, some c => if i.running then t.setAcc a (fun x => { x with els := c }) else t
    | _, _ => t) t
  { t' with tq := t'.tq.map (fun i => if i.running then i.cut else i) }

/-- A tile's scheduler stops: the running tasks of every context of the partition are cut (17 R344, R354). -/
def State.cutTile (s : State) (p : PartId) (t : Nat) : State :=
  { s with tctx := s.tctx.map (fun x => if x.1.ctx.part = p ∧ x.1.t = t then (x.1, x.2.cutTasks) else x) }

/-- A fault that a task scheduler detects: the line that it raises stops the scheduler itself (09 R215; 17 R344, R354). -/
def schedFault (tc : TileCtx) (f : Flt) (k txn : Nat) (pc : Pc) (s : State) : State :=
  (s.unitFault tc.ctx.part (.sched tc.t) { f with lowt := s.lowtOf txn } k pc 0).cutTile tc.ctx.part tc.t

/-- A fault of an item: it stays at the head of its order until the line is cleared (17 R349). -/
def itemFault (tc : TileCtx) (i : TItem) (f : Flt) (s : State) : State :=
  schedFault tc f i.strand i.txn i.pc (s.modTc tc (fun t => t.setItem i.txn (fun i => { i with stuck := true })))

end Sys2Proof.Machine
end

