-- ==== Sys2Proof/Machine/Matrix.lean ====
section
/-! DEFINITION. Operand slots, tasks and accumulator tiles, group 0xB, and the events of the task queue (09 R216-R228,
12 R278-R281, 17 R354). -/

namespace Sys2Proof.Machine

/-! ## Operand slots (09 R217, R218) -/

def slotFault (x : Iss) (slot : Nat) : Flt := { cause := 0x13, lowt := x.lead, detail := matDetail 0 slot 0 0 }

def effOclaim (d : Opd) (slot : BitVec 4) (try_ : Bool) : Effect := tileEff .a (fun tile x s =>
  let tc : TileCtx := ⟨x.st.ctx, tile⟩
  let sl := agetD (s.tc tc).slots slot.toNat {}
  if sl.st = .free then
    .ok (tableAnswer x d 0 (s.modTc tc (fun t => { t with slots := aput t.slots slot.toNat { sl with st := .open_ } })))
  else if try_ then .ok (tableAnswer x d 1 s)
  else .stop (slotFault x slot.toNat))
/-- OCLAIM (09 R217). -/
def execOclaim (h : Hdr) (d a : Opd) (slot : BitVec 4) (try_ : Bool) (s : State) : Result :=
  issue (.oclaim h d a slot try_) (effOclaim d slot try_) s

/-- Tasks of the strand on their way to a tile's queue (12 R280). -/
def tasksOut (s : State) (k : Nat) (tc : TileCtx) : Bool :=
  s.msgs.any (fun m => match m.2 with
    | .tqItem tc' i => tc' == tc && i.strand == k
    | _ => false)

def effOrels (slot : BitVec 4) : Effect := tileEff .a (fun tile x s =>
  let tc : TileCtx := ⟨x.st.ctx, tile⟩
  let sl := agetD (s.tc tc).slots slot.toNat {}
  if !s.tqRoom x tile then .cond
  else if fenced x.st tqBit || tasksOut s x.k tc then .wait
  else if sl.ring || !(sl.st == .open_ || sl.st == .sealed_) then .stop (slotFault x slot.toNat)
  else
    let (n, s) := s.newId
    let i : TItem := { txn := n, strand := x.k, pc := x.pc, acc := none, kind := .orels slot.toNat }
    let s := place x.k tqBit n (s.modTc tc (fun t => { (t.release slot.toNat) with tq := t.tq ++ [i] }))
    .ok (tableAnswer x .zero 0 (slotSweep tc s)))
/-- ORELS (09 R217, 12 R280). -/
def execOrels (h : Hdr) (a : Opd) (slot : BitVec 4) (s : State) : Result :=
  issue (.orels h a slot) (effOrels slot) s

def effOput (d : Opd) (slot : BitVec 4) (sealed : Bool) : Effect := tileEff .b (fun tile x s =>
  let off := (readOpd s x (srcAt x.sh .c) x.lead).toNat
  if 512 ≤ off then .stop { slotFault x slot.toNat with detail := matDetail 0 slot.toNat 0 off }
  else
    let (n, s) := openTxn x 1 .zero s
    let b := if d = .zero then none else some (lineOfWords (readLine s x (srcAt x.sh .a) 0))
    .ok (s.send (.oput n x.k x.pc ⟨x.st.ctx, tile⟩ slot.toNat off b sealed)))
/-- OPUT (09 R218). -/
def execOput (h : Hdr) (d a b : Opd) (slot : BitVec 4) (sealed : Bool) (s : State) : Result :=
  issue (.oput h d a b slot sealed) (effOput d slot sealed) s

/-- The strand's OPUTs are performed in program order. The tile's task scheduler, which holds the slots, is the unit that detects a
fault (DEDUCED from 09 R215 and 17 R347: log entry 60). -/
def evOputApply (n : Nat) (s : State) : Option State :=
  match aget s.msgs n with
  | some (.oput txn k pc tc slot blk data seal_) =>
    if s.msgs.any (fun m => match m.2 with
        | .oput _ k' .. => k' == k && decide (m.1 < n)
        | _ => false) || (data.isSome && s.testing (.slot tc slot blk)) then none
    else if data.isSome && s.banned (.slot tc slot blk) then
      some (schedFault tc { cause := 0x20 } k txn pc (s.dropMsg n))
    else
      let sl := agetD (s.tc tc).slots slot {}
      let s := s.dropMsg n
      if sl.st ≠ .open_ ∨ sl.ring then
        some (schedFault tc { cause := 0x13, detail := matDetail 0 slot 0 blk } k txn pc s)
      else
        let s := match data with
          | some _ => s.clean (.slot tc slot blk)
          | none => s
        let sl := { sl with
          blocks := (match data with
            | some b => aput sl.blocks blk b
            | none => sl.blocks)
          st := if seal_ then SlotSt.sealed_ else .open_ }
        some (landResult txn [] (s.modTc tc (fun t => { t with slots := aput t.slots slot sl })))
  | _ => none
/-- OPUT_APPLY (09 R218). -/
def execOputApply (n : Nat) (s : State) : Result :=
  event (evOputApply n) s

/-! ## Items of the task queue (09 R221, R225-R228) -/

/-- An item leaves for the queue of its tile. -/
def enqueue (x : Iss) (tile : Nat) (acc : Option Nat) (dst : Opd) (kind : TKind) (s : State) : State :=
  let tc : TileCtx := ⟨x.st.ctx, tile⟩
  let (n, s) := openTxn x 1 dst s
  let s := place x.k tqBit n (s.modTc tc (fun t => { t with promised := t.promised + 1 }))
  s.send (.tqItem tc { txn := n, strand := x.k, pc := x.pc, acc := acc, kind := kind, rel := s.relIds x.k })

/-- The common form: a place in the queue, no QFENCE that holds it, then its own check. -/
def itemEff (pos : Pos) (held : Bool) (f : Nat → Effect) : Effect := tileEff pos (fun tile x s =>
  if !s.tqRoom x tile then .cond else if held && fenced x.st tqBit then .wait else f tile x s)

def effTask (spec : Bool) : Effect := itemEff .b true (fun tile x s =>
  let r := lineOfWords (readLine s x (srcAt x.sh .a) 0)
  if taskBad r then .stop { cause := 0x14, lowt := x.lead, detail := taskDetail r 0 }
  else .ok (enqueue x tile (some (tAcc r)) .zero (.task (if spec then r ||| (1#512 <<< 24) else r) spec) s))
/-- TASK (09 R219-R221). -/
def execTask (h : Hdr) (d a : Opd) (spec : Bool) (s : State) : Result :=
  issue (.task h d a spec) (effTask spec) s

def effAccz (acc : BitVec 5) (kind : BitVec 2) : Effect := itemEff .a true (fun tile x s =>
  .ok (enqueue x tile (some acc.toNat) .zero (.accz kind.toNat) s))
/-- ACCZ (09 R225). -/
def execAccz (h : Hdr) (a : Opd) (acc : BitVec 5) (kind : BitVec 2) (s : State) : Result :=
  issue (.accz h a acc kind) (effAccz acc kind) s

/-- The columns that ACCRD and ACCWR name lie in the accumulator tile (09 R225). -/
def colEff (pos first : Pos) (acc : BitVec 5) (cnt : BitVec 4) (f : Nat → Nat → Effect) : Effect := itemEff pos true (fun tile x s =>
  let c0 := (readOpd s x (srcAt x.sh first) x.lead).toNat
  if 64 < c0 + cnt.toNat + 1 then .stop { cause := 0x15, lowt := x.lead, detail := matDetail acc.toNat 0 0 0 }
  else f tile c0 x s)

def effAccrd (d : Opd) (acc : BitVec 5) (ty : Ty) (rm : Rm) (sat sh : Bool) (cnt : BitVec 4) : Effect :=
  colEff .a .b acc cnt (fun tile c0 x s =>
    .ok (enqueue x tile (some acc.toNat) d (.accrd ty (x.st.rounding rm) sat sh c0 (cnt.toNat + 1)) s))
/-- ACCRD (09 R225, R226). -/
def execAccrd (h : Hdr) (d a b : Opd) (acc : BitVec 5) (ty : Ty) (rm : Rm) (sat sh : Bool) (cnt : BitVec 4) (s : State) : Result :=
  issue (.accrd h d a b acc ty rm sat sh cnt) (effAccrd d acc ty rm sat sh cnt) s

def effAccwr (acc : BitVec 5) (ty : Ty) (cnt : BitVec 4) : Effect := colEff .b .c acc cnt (fun tile c0 x s =>
  .ok (enqueue x tile (some acc.toNat) .zero (.accwr ty c0 (cnt.toNat + 1) (readLines s x (srcAt x.sh .a))) s))
/-- ACCWR (09 R225). -/
def execAccwr (h : Hdr) (d a b : Opd) (acc : BitVec 5) (ty : Ty) (cnt : BitVec 4) (s : State) : Result :=
  issue (.accwr h d a b acc ty cnt) (effAccwr acc ty cnt) s

def effAcccmt (acc : BitVec 5) : Effect := itemEff .a true (fun tile x s =>
  .ok (enqueue x tile (some acc.toNat) .zero .acccmt s))
/-- ACCCMT (09 R227). -/
def execAcccmt (h : Hdr) (a : Opd) (acc : BitVec 5) (s : State) : Result :=
  issue (.acccmt h a acc) (effAcccmt acc) s

def effAccdsc (acc : BitVec 5) : Effect := itemEff .a true (fun tile x s =>
  .ok (enqueue x tile (some acc.toNat) .zero .accdsc s))
/-- ACCDSC (09 R227). -/
def execAccdsc (h : Hdr) (a : Opd) (acc : BitVec 5) (s : State) : Result :=
  issue (.accdsc h a acc) (effAccdsc acc) s

def effTwait (acc : BitVec 5) (all : Bool) : Effect := itemEff .a false (fun tile x s =>
  .ok (enqueue x tile (if all then none else some acc.toNat) .zero (if all then .twaitAll else .twait) s))
/-- TWAIT (09 R228). -/
def execTwait (h : Hdr) (a : Opd) (acc : BitVec 5) (all : Bool) (s : State) : Result :=
  issue (.twait h a acc all) (effTwait acc all) s

/-- A strand's items to one tile are accepted in program order (09 R223). -/
def evTaskQueueAccept (n : Nat) (s : State) : Option State :=
  match aget s.msgs n with
  | some (.tqItem tc i) =>
    if s.msgs.any (fun m => match m.2 with
        | .tqItem tc' j => tc' == tc && j.strand == i.strand && decide (m.1 < n)
        | _ => false) then none
    else
      let late : Bool := match i.kind with
        | .task r _ => (match aget (s.tc tc).bufs (tBuf r) with
          | some b => b.unstat
          | none => false)
        | _ => false
      some ((s.dropMsg n).modTc tc (fun t => { t with tq := t.tq ++ [{ i with late := late }], promised := t.promised - 1 }))
  | _ => none
/-- TASK_QUEUE_ACCEPT (09 R221, R223). -/
def execTaskQueueAccept (n : Nat) (s : State) : Result :=
  event (evTaskQueueAccept n) s

/-! ## Tasks (09 R222, R223, R226; 12 R278) -/

/-- The head of an accumulator tile's order. -/
def headItem (s : State) (tc : TileCtx) (acc : Nat) : Option TItem := ((s.tc tc).order acc).head?

/-- The slot lets the task start (09 R223). -/
def slotReady (sl : OSlot) (txn : Nat) : Bool := sl.st == .sealed_ || (sl.st == .releasing && sl.before.contains txn)

/-- The buffer lets the task start, or the state that it faults with (12 R278). -/
def bufferChk (s : State) (tc : TileCtx) (r : Line) (late : Bool) : Except Nat Buf :=
  match aget (s.tc tc).bufs (tBuf r) with
  | none => .error 0
  | some b => if b.st = .stationary ∧ !late then .ok b else .error b.st.code

/-- Where a task adds: the shadow of a speculative task where it is open, or the accumulator tile. -/
def sumSite (s : State) (tc : TileCtx) (acc : Nat) (spec : Bool) : Site :=
  if spec && ((s.tc tc).acc acc).shadow.isSome then .shadow tc acc else .acc tc acc

/-- The words that a task reads: blocks of its slot and of its buffer, and what it adds to (18 R360). -/
def taskSites (s : State) (tc : TileCtx) (r : Line) (spec : Bool) (b : Buf) (slots bufs : List Nat) : List Site :=
  slots.map (fun i => Site.slot tc (tSlot r) i) ++ bufs.map (fun i => Site.word (bufKey s tc b i)) ++ [sumSite s tc (tAcc r) spec]

/-- What a failing run is reported with. Word 0 of a format fault is that of 17 R346; ACC and the block's offset, for which 09 R222 asks
and R346 has no place, stand in words 1 and 2 as in a task fault: the model's choice (log entry 60). -/
def RunErr.flt (r : Line) : RunErr → Flt
  | .beyond off => { cause := 0x14, detail := taskDetail r off }
  | .header off hdr step =>
    { cause := 0x11, detail := BitVec.ofNat 256 (0xF0 + at_ hdr 8 + at_ step 24 + at_ (taskDetail r off).toNat 32) }

/-- DETAIL of a task's buffer-state fault: word 0 of 17 R346, and in word 1 ACC and SBUF, for which 12 R278 asks: the model's choice
(log entry 60). -/
def taskBufDetail (r : Line) (st tile : Nat) : BitVec 256 :=
  BitVec.ofNat 256 ((bufferDetail (tBuf r) st tile).toNat + at_ (taskDetail r 0).toNat 32)

/-- The shadow, or the checkpoint, as a task starts (09 R226, 17 R354). -/
def startTask (tc : TileCtx) (i : TItem) (acc : Nat) (spec : Bool) (s : State) : State :=
  let a := (s.tc tc).acc acc
  s.modTc tc (fun t =>
    let t := if spec then t.setAcc acc (fun x => { x with shadow := some (x.shadow.getD x.els) }) else t
    t.setItem i.txn (fun i => { i with running := true, ckpt := if spec then none else some a.els }))

/-- A task at its place starts once its slot is ready, or faults. Where its shadow is open as well, 09 R226 faults it at its place and R223
lets it wait for its slot: it waits first, the model's choice (log entry 62). -/
def evTaskStart (tc : TileCtx) (acc : Nat) (s : State) : Option State :=
  match headItem s tc acc with
  | some i => match i.kind with
    | .task r spec =>
      let sl := agetD (s.tc tc).slots (tSlot r) {}
      let a := (s.tc tc).acc acc
      if i.running || i.stuck || i.drop || !ctxRuns s tc.ctx || !slotReady sl i.txn || !s.relMet i.strand .pkg i.rel then none
      else if !spec && a.shadow.isSome then some (itemFault tc i { cause := 0x15, detail := taskDetail r 0 } s)
      else match bufferChk s tc r i.late with
        | .error st => some (itemFault tc i { cause := 0x12, detail := taskBufDetail r st tc.t } s)
        | .ok b => match taskOps s tc r sl b (a.kind != 0) with
          | .error e => some (itemFault tc i (RunErr.flt r e) s)
          | .ok o =>
            let sites := taskSites s tc r spec b o.slotBlks o.bufBlks
            if sites.any s.testing then none
            else match s.consumeAll sites (UnitId.selector s (.sched tc.t)) tc.ctx.part with
              | (s, .stop c) => some (itemFault tc i { cause := c } s)
              | (s, .ok) => some (startTask tc i acc spec s)
    | _ => none
  | none => none
/-- TASK_START (09 R222, R223, R226, 12 R278). -/
def execTaskStart (tc : TileCtx) (acc : Nat) (s : State) : Result :=
  event (evTaskStart tc acc) s

/-- The macros that a task engages, as repairable units. -/
def taskUnits (s : State) (tc : TileCtx) (b : Buf) (o : TaskOps) : List RUnit :=
  (o.bufBlks.filterMap (fun i => (siteUnit s (.word (bufKey s tc b i))).map (fun u => u.2.1))).eraseDups

/-- The operands of a running task. -/
def runningOps (s : State) (tc : TileCtx) (acc : Nat) : Option (TItem × Line × Bool × Buf × TaskOps) :=
  match headItem s tc acc with
  | some i => match i.kind with
    | .task r spec =>
      if !i.running then none
      else match aget (s.tc tc).bufs (tBuf r) with
        | none => none
        | some b => match taskOps s tc r (agetD (s.tc tc).slots (tSlot r) {}) b (((s.tc tc).acc acc).kind != 0) with
          | .ok o => some (i, r, spec, b, o)
          | .error _ => none
    | _ => none
  | none => none

/-- The sum of a segment goes into the accumulator, or into the shadow of a speculative task. -/
def addSegmentTo (tc : TileCtx) (acc : Nat) (r : Line) (spec : Bool) (o : TaskOps) (j : Nat) (s : State) : State :=
  s.modTc tc (fun t => t.setAcc acc (fun x =>
    if spec then { x with shadow := some (addSegments r x.kind o j (x.shadow.getD x.els)) }
    else { x with els := addSegments r x.kind o j x.els }))

def evSegmentComplete (tc : TileCtx) (acc : Nat) (s : State) : Option State :=
  match runningOps s tc acc with
  | none => none
  | some (i, r, spec, b, o) =>
    let us := taskUnits s tc b o
    let pkg := tc.ctx.part.pkg
    let blks := o.blocksAt i.seg
    let sites := taskSites s tc r spec b blks.1 blks.2
    if !ctxRuns s tc.ctx || decide (segCount o ≤ i.seg) || us.any (fun u => (s.testOf pkg u).isSome) || sites.any s.testing then none
    else if us.any (s.unusable pkg) then
      some (itemFault tc i { cause := 0x20 } s)
    else match s.consumeAll sites (UnitId.selector s (.sched tc.t)) tc.ctx.part with
    | (s, .stop c) => some (itemFault tc i { cause := c } s)
    | (s, .ok) => match us.find? (fun u => s.residues.contains u) with
      | some u =>
        let s : State := { s with residues := s.residues.erase u }
        let s := s.modTc tc (fun t => t.setItem i.txn (fun i => { i with retest := true }))
        let res := o.residueAt ((s.tc tc).acc acc).kind i.seg (Config.freeWord s.fresh)
        some ({ s with fresh := s.fresh + 1 }.detect pkg u [tc.ctx.part] 3 2 0 0 res (if i.retest then 2 else 0))
      | none =>
        let s := addSegmentTo tc acc r spec o i.seg s
        some (s.modTc tc (fun t => t.setItem i.txn (fun i =>
          { i with seg := i.seg + 1, retest := false, running := !i.drop })))
/-- SEGMENT_COMPLETE (18 R363; 09 R222, 18 R361, R362). -/
def execSegmentComplete (tc : TileCtx) (acc : Nat) (s : State) : Result :=
  event (evSegmentComplete tc acc) s

def evTaskRetire (tc : TileCtx) (acc : Nat) (s : State) : Option State :=
  match runningOps s tc acc with
  | none => none
  | some (i, _, _, _, o) =>
    if i.seg < segCount o then none else some (landResult i.txn [] (leaveQueue tc i s))
/-- TASK_RETIRE (09 R217, R222). -/
def execTaskRetire (tc : TileCtx) (acc : Nat) (s : State) : Result :=
  event (evTaskRetire tc acc) s

/-! ## The other items (09 R225-R228) -/

/-- ACCRD's conversion of an element to the 64 bits of its destination (09 R225). -/
def accOut (kind : Nat) (ty : Ty) (rm : RMode) (sat : Bool) (e : BitVec 40) : Dword :=
  match ty with
  | .f32 =>
    if kind = 0 then BitVec.ofNat 64 (fp32.conv rm sat (fp40.decode e.toNat))
    else BitVec.ofNat 64 (fp32.conv rm sat (FVal.ofInt e.toInt))
  | .i64 => if kind = 0 then e.zeroExtend 64 else e.signExtend 64
  | _ =>
    let v : Int := if kind = 0 then (fp40.decode e.toNat).toIntFmt rm sat true 32
      else if sat then clampInt (-(2 ^ 31)) (2 ^ 31 - 1) e.toInt else e.toInt
    BitVec.ofInt 64 v &&& 0xFFFFFFFF#64

/-- Every thread's words of ACCRD's destinations. -/
def accWords (d : Opd) (wide : Bool) (n : Nat) (el : Nat → Nat → Dword) : List (Nat × Word) :=
  (List.range n).flatMap (fun j => (List.range 16).flatMap (fun t =>
    if wide then
      [(vecKey (Opd.num d + 2 * j) t, (el j t).truncate 32), (vecKey (Opd.num d + 2 * j + 1) t, (el j t).extractLsb' 32 32)]
    else [(vecKey (Opd.num d + j) t, (el j t).truncate 32)]))

/-- ACCWR's conversion of its words to an element; none where the types do not match (09 R225). -/
def accIn (kind : Nat) (ty : Ty) (lo hi : Word) : Option (BitVec 40) :=
  match ty with
  | .f32 => if kind = 0 then some (BitVec.ofNat 40 (fp40.conv .rne false (fp32.decode lo.toNat))) else none
  | .i64 => some ((hi ++ lo).truncate 40)
  | _ => if kind = 0 then none else some (lo.signExtend 40)

def accWrite (ty : Ty) (c0 n : Nat) (data : List (List Word)) (a : Acc) : Option Acc :=
  let w (j t : Nat) : Word := (data.getD j []).getD t 0#32
  let el (j t : Nat) : Option (BitVec 40) :=
    if ty = .i64 then accIn a.kind ty (w (2 * j) t) (w (2 * j + 1) t) else accIn a.kind ty (w j t) 0
  if (accIn a.kind ty 0 0).isNone then none
  else some { a with els := (List.range n).foldl (fun els j => (List.range 16).foldl (fun els t =>
    aput els (64 * t + c0 + j) ((el j t).getD 0)) els) a.els }

/-- An item is applied at its place and leaves the queue. -/
def applied (tc : TileCtx) (i : TItem) (s : State) : State := landResult i.txn [] (leaveQueue tc i s)

/-- ACCDSC: the speculative tasks before it are dropped, and the shadow closes; a running one stops first (09 R227). -/
def discard (tc : TileCtx) (acc : Nat) (pre : List TItem) (i : TItem) (s : State) : Option State :=
  match pre.find? (fun j => j.running) with
  | some j => if j.drop then none else some (s.modTc tc (fun t => t.setItem j.txn (fun j => { j with drop := true })))
  | none =>
    let s := pre.foldl (fun s j => applied tc j s) s
    some (applied tc i ((s.clean (.shadow tc acc)).modTc tc (fun t => t.setAcc acc (fun a => { a with shadow := none }))))

/-- What an item of an accumulator tile reads, and what it replaces whole: ACCZ writes the tile anew; ACCWR writes some of its columns and
so reads the rest; ACCRD reads the tile or its shadow; ACCCMT puts an open shadow in the tile's place (18 R360, R363). -/
def itemSites (a : Acc) (tc : TileCtx) (acc : Nat) : TKind → List Site × List Site
  | .accz _ => ([], [.acc tc acc])
  | .accwr .. => ([.acc tc acc], [])
  | .accrd _ _ _ sh _ _ => ([if sh && a.shadow.isSome then .shadow tc acc else .acc tc acc], [])
  | .acccmt => if a.shadow.isSome then ([.shadow tc acc], [.acc tc acc]) else ([], [])
  | _ => ([], [])

/-- Leading speculative tasks of an order, and what follows them. -/
def specTask (i : TItem) : Bool := match i.kind with
  | .task _ spec => spec
  | _ => false

def evAccumulatorItemApply (tc : TileCtx) (acc : Nat) (s : State) : Option State :=
  if !ctxRuns s tc.ctx then none
  else if 32 ≤ acc then
    (match (s.tc tc).tq.filter (fun i => match i.kind with
        | .orels _ => false
        | _ => true) with
      | i :: _ => if i.kind = .twaitAll then some (applied tc i s) else none
      | [] => none)
  else
    let ord := (s.tc tc).order acc
    let a := (s.tc tc).acc acc
    let bad (i : TItem) : Option State :=
      if i.stuck then none else some (itemFault tc i { cause := 0x15, detail := matDetail acc 0 0 0 } s)
    match ord.dropWhile specTask with
    | [] => none
    | i :: _ =>
      let pre := ord.takeWhile specTask
      match i.kind with
      | .accdsc => discard tc acc pre i s
      | k =>
        let sites := itemSites a tc acc k
        if !pre.isEmpty || i.stuck || (sites.1 ++ sites.2).any s.testing then none
        else if sites.2.any s.banned then some (itemFault tc i { cause := 0x20 } s)
        else match s.consumeAll sites.1 (UnitId.selector s (.sched tc.t)) tc.ctx.part with
        | (s, .stop c) => some (itemFault tc i { cause := c } s)
        | (s, .ok) =>
        let s := sites.2.foldl (fun s x => s.clean x) s
        match k with
          | .accz kind =>
            if a.shadow.isSome then bad i
            else some (applied tc i (s.modTc tc (fun t => t.setAcc acc (fun _ => { kind := kind }))))
          | .accwr ty c0 n data =>
            if a.shadow.isSome then bad i
            else (match accWrite ty c0 n data a with
              | some b => some (applied tc i (s.modTc tc (fun t => t.setAcc acc (fun _ => b))))
              | none => bad i)
          | .accrd ty rm sat sh c0 n =>
            let els := if sh then a.shadow.getD a.els else a.els
            let d := match aget s.txns i.txn with
              | some t => t.dst
              | none => .zero
            some ((leaveQueue tc i s).send (.result i.txn 0 (accWords d (ty == .i64) n (fun j t =>
              accOut a.kind ty rm sat (agetD els (64 * t + c0 + j) 0#40)))))
          | .acccmt =>
            some (applied tc i (s.modTc tc (fun t => t.setAcc acc (fun a => match a.shadow with
              | some e => { a with els := e, shadow := none }
              | none => a))))
          | .twait => some (applied tc i s)
          | _ => none
/-- ACCUMULATOR_ITEM_APPLY (09 R225-R228). -/
def execAccumulatorItemApply (tc : TileCtx) (acc : Nat) (s : State) : Result :=
  event (evAccumulatorItemApply tc acc) s

end Sys2Proof.Machine
end

