-- ==== Sys2Proof/Machine/Engines.lean ====
section
/-! DEFINITION. Stream engines and QFENCE, EWAIT, part of group 0xC, and the events of the engines (09 R229-R234, R238; 12 R277,
R280). -/

namespace Sys2Proof.Machine

/-! ## Layouts (09 R229, R230) -/

def layBase (r : Line) : Nat := fld r 0 56
def layChk (r : Line) : Nat := fld r 64 6
def layExt (r : Line) (i : Nat) : Nat := fld r (256 + 16 * i) 16
/-- The signed strides of dimensions 1 to 3. -/
def layStr (r : Line) (i : Nat) : Int := (r.extractLsb' (320 + 32 * (i - 1)) 32).toInt

def layBad (r : Line) : Bool :=
  fld r 56 8 != 0 || fld r 70 186 != 0 || fld r 416 96 != 0 || [0, 1, 2, 3].any (fun i => layExt r i == 0)
  || [1, 2, 3].any (fun i => layStr r i % 64 != 0) || layBase r % 64 != 0 || decide (6 < layChk r)

def layBlocks (r : Line) : Nat := layExt r 0 * layExt r 1

/-- The address of block (i0, i1) of transfer `j`. -/
def layAddr (r : Line) (j i0 i1 : Nat) : Nat :=
  let p := j % (layExt r 2 * layExt r 3)
  (BitVec.ofInt 64 ((layBase r : Int) + 64 * i0 + layStr r 1 * i1 + layStr r 2 * (p % layExt r 2 : Nat)
    + layStr r 3 * (p / layExt r 2 : Nat))).toNat

/-- The addresses of a transfer in order of their place in the entry. -/
def layAddrs (r : Line) (j : Nat) : List Nat :=
  (List.range (layExt r 1)).flatMap (fun i1 => (List.range (layExt r 0)).map (fun i0 => layAddr r j i0 i1))

def engDetail (eng ring idx : Nat) : BitVec 256 := BitVec.ofNat 256 (eng + at_ ring 8 + at_ (idx % 2 ^ 32) 32)
def engFault (x : Iss) (eng ring : Nat) : Flt := { cause := 0x16, lowt := x.lead, detail := engDetail eng ring 0 }

def TCtx.engine (t : TCtx) (e : Nat) : Engine := agetD t.engines e {}
def TCtx.setEngine (t : TCtx) (e : Nat) (f : Engine → Engine) : TCtx := { t with engines := aput t.engines e (f (t.engine e)) }
def TCtx.setRing (t : TCtx) (e r : Nat) (f : Ring → Ring) : TCtx := t.setEngine e (fun x => { x with rings := amod x.rings r f })

def effSlay (eng : Bool) (lay : BitVec 3) : Effect := tileEff .b (fun tile x s =>
  let r := lineOfWords (readLine s x (srcAt x.sh .a) 0)
  if fenced x.st seBit then .wait
  else if layBad r then .stop (engFault x eng.toNat 0)
  else
    let (n, s) := openTxn x 1 .zero s
    .ok (place x.k seBit n (s.modTc ⟨x.st.ctx, tile⟩ (fun t => t.setEngine eng.toNat (fun e =>
      { e with cq := e.cq ++ [.slay n x.k x.pc lay.toNat r] })))))
/-- SLAY (09 R230). -/
def execSlay (h : Hdr) (d a : Opd) (eng : Bool) (lay : BitVec 3) (s : State) : Result :=
  issue (.slay h d a eng lay) (effSlay eng lay) s

def evSlayInstall (tc : TileCtx) (eng : Nat) (s : State) : Option State :=
  let e := (s.tc tc).engine eng
  match e.cq with
  | .slay n k _ lay r :: rest =>
    if !ctxRuns s tc.ctx || e.rings.any (fun q => q.2.layNo == lay) then none
    else
      let s := s.modTc tc (fun t => t.setEngine eng (fun e => { e with cq := rest, lays := aput e.lays lay r }))
      some (landResult n [] (unplace k n s))
  | _ => none
/-- SLAY_INSTALL (09 R230). -/
def execSlayInstall (tc : TileCtx) (eng : Nat) (s : State) : Result :=
  event (evSlayInstall tc eng) s

/-! ## Rings (09 R231) -/

/-- Why a ring cannot be bound. -/
def bindBad (s : State) (tc : TileCtx) (eng : Nat) (slots : Bool) (ring lay first n total : Nat) : Bool :=
  let t := s.tc tc
  let e := t.engine eng
  match aget e.lays lay with
  | none => true
  | some r =>
    total == 0 || (aget e.rings ring).isSome ||
    ((List.range n).map (fun i => first + i)).any (fun i =>
      if slots then
        let sl := agetD t.slots i {}
        sl.ring || sl.st != .free || decide (512 < layBlocks r)
      else match aget t.bufs i with
        | none => true
        | some b => b.ring || b.st != .empty || decide (b.size < 64 * layBlocks r))

/-- The ring and its entries as they start. -/
def bindRing (tc : TileCtx) (eng : Nat) (k : Nat) (pc : Pc) (fill slots : Bool) (ring lay first n total rid lowt : Nat) (s : State) : State :=
  s.modTc tc (fun t =>
    let r : Ring := { fill := fill, slots := slots, layNo := lay, lay := agetD (t.engine eng).lays lay 0#512, first := first, n := n
                      total := total, strand := k, pc := pc, lowt := lowt, txn := rid }
    let t := t.setEngine eng (fun e => { e with rings := aput e.rings ring r })
    if slots then { t with slots := r.entries.foldl (fun m i => aput m i { agetD m i {} with st := .open_, ring := true }) t.slots }
    else { t with bufs := r.entries.foldl (fun m i => amod m i (fun b =>
      { b with ring := true, st := if fill then .empty else .filling })) t.bufs })

/-- SFILL and SDRAIN: the strand waits until the binding has been checked at the head of the engine's queue. A residual entry
is checked as it drains, so that its fault keeps it (02 R55). -/
def bindEff (fill slots eng : Bool) (ring : BitVec 2) (lay : BitVec 3) (first : BitVec 6) (cnt : BitVec 3) : Effect :=
  tileEff .a (fun tile x s =>
    let tc : TileCtx := ⟨x.st.ctx, tile⟩
    let total := (readOpd s x (srcAt x.sh .b) x.lead).toNat
    let n := cnt.toNat + 1
    let rel := s.relIds x.k
    if fenced x.st seBit then .wait
    else if x.ent.isSome then
      (if !((s.tc tc).engine eng.toNat).cq.isEmpty || !s.relMet x.k .pkg rel then .wait
       else if bindBad s tc eng.toNat slots ring.toNat lay.toNat first.toNat n total then .stop (engFault x eng.toNat ring.toNat)
       else
         let (rid, s) := s.newId
         .ok (tableAnswer x .zero 0 (place x.k seBit rid
           (bindRing tc eng.toNat x.k x.pc fill slots ring.toNat lay.toNat first.toNat n total rid x.lead s))))
    else
      let (rid, s) := s.newId
      let (t, s) := openTxn x 1 .zero s
      let cmd : ECmd := .bind t x.k x.pc fill slots ring.toNat lay.toNat first.toNat n total rid rel
      .ok (holdFor x t (place x.k seBit rid (s.modTc tc (fun t => t.setEngine eng.toNat (fun e => { e with cq := e.cq ++ [cmd] }))))))

def effSfill (eng : Bool) (ring : BitVec 2) (lay : BitVec 3) (slots : Bool) (first : BitVec 6) (cnt : BitVec 3) : Effect :=
  bindEff true slots eng ring lay first cnt
/-- SFILL (09 R231). -/
def execSfill (h : Hdr) (a b : Opd) (eng : Bool) (ring : BitVec 2) (lay : BitVec 3) (slots : Bool) (first : BitVec 6) (cnt : BitVec 3) (s : State) : Result :=
  issue (.sfill h a b eng ring lay slots first cnt) (effSfill eng ring lay slots first cnt) s

def effSdrain (eng : Bool) (ring : BitVec 2) (lay : BitVec 3) (first : BitVec 6) (cnt : BitVec 3) : Effect :=
  bindEff false false eng ring lay first cnt
/-- SDRAIN (09 R231). -/
def execSdrain (h : Hdr) (a b : Opd) (eng : Bool) (ring : BitVec 2) (lay : BitVec 3) (first : BitVec 6) (cnt : BitVec 3) (s : State) : Result :=
  issue (.sdrain h a b eng ring lay first cnt) (effSdrain eng ring lay first cnt) s

def evRingBindCheck (tc : TileCtx) (eng : Nat) (s : State) : Option State :=
  match ((s.tc tc).engine eng).cq with
  | .bind t k pc fill slots ring lay first n total rid rel :: rest =>
    let busy := !slots && ((List.range n).any (fun i => s.bufBusy tc (first + i)))
    if !ctxRuns s tc.ctx || !s.relMet k .pkg rel || busy then none
    else
      let s := s.modTc tc (fun t => t.setEngine eng (fun e => { e with cq := rest }))
      if bindBad s tc eng slots ring lay first n total then
        some (faultBack t { cause := 0x16, detail := engDetail eng ring 0 } (unplace k rid s))
      else some (landResult t [] (bindRing tc eng k pc fill slots ring lay first n total rid (s.lowtOf t) s))
  | _ => none
/-- RING_BIND_CHECK (09 R231). -/
def execRingBindCheck (tc : TileCtx) (eng : Nat) (s : State) : Result :=
  event (evRingBindCheck tc eng) s

/-! ## Transfers (09 R232) -/

def ringOf (s : State) (tc : TileCtx) (eng ring : Nat) : Option Ring := aget ((s.tc tc).engine eng).rings ring

/-- The entry of a transfer. -/
def Ring.entry (r : Ring) (j : Nat) : Nat := r.first + j % r.n

def Ring.runs (r : Ring) : Bool := !r.stopped && !r.paused && decide (r.done < r.total)

/-- The state in which the entry of the next transfer waits for it. -/
def entryReady (t : TCtx) (r : Ring) : Bool :=
  if r.slots then (agetD t.slots (r.entry r.done) {}).st == .open_
  else match aget t.bufs (r.entry r.done) with
    | some b => b.st == (if r.fill then .empty else .draining)
    | none => false

def TCtx.setBuf (t : TCtx) (n : Nat) (st : BufSt) : TCtx := { t with bufs := amod t.bufs n (fun b => { b with st := st }) }

def evRingTransferStart (tc : TileCtx) (eng ring : Nat) (s : State) : Option State :=
  match ringOf s tc eng ring with
  | none => none
  | some r =>
    if !ctxRuns s tc.ctx || !r.runs || r.moving || !entryReady (s.tc tc) r then none
    else some (s.modTc tc (fun t =>
      let t := t.setRing eng ring (fun r => { r with moving := true })
      if r.fill && !r.slots then t.setBuf (r.entry r.done) .filling else t))
/-- RING_TRANSFER_START (09 R232). -/
def execRingTransferStart (tc : TileCtx) (eng ring : Nat) (s : State) : Result :=
  event (evRingTransferStart tc eng ring) s

/-- UST of a stream engine (17 R345). -/
def Ring.ust (ring : Nat) (r : Ring) : Nat := ring + at_ (r.done % 2 ^ 32) 32

/-- A fault stops the ring at its transfer. -/
def ringFault (tc : TileCtx) (eng ring : Nat) (r : Ring) (f : Flt) (s : State) : State :=
  let f := { f with lowt := r.lowt }
  (s.modTc tc (fun t => t.setRing eng ring (fun r => { r with stopped := true }))).unitFault tc.ctx.part (.engine tc.t eng) f
    r.strand r.pc (Ring.ust ring r)

/-- A page fault pauses it until REPLAY (17 R343). -/
def ringPause (tc : TileCtx) (eng ring va : Nat) (s : State) : State :=
  (s.modTc tc (fun t => t.setRing eng ring (fun r => { r with paused := true }))).postBy tc.ctx.part (.engine tc.t eng) 0x8001
    (va + at_ (UnitId.selector s (.engine tc.t eng)) 64)

/-- The places of the blocks of a transfer, or what stops it. -/
def transferAddrs (s : State) (tc : TileCtx) (need : Need) : List Nat → Except (Option Nat) (List (Nat × Home))
  | [] => .ok []
  | va :: rest => match engineAddr s tc need va with
    | .page => .error (some va)
    | .bad => .error none
    | .key k h => match transferAddrs s tc need rest with
      | .ok ks => .ok ((k, h) :: ks)
      | .error e => .error e

/-- The header of a block that CHK refuses. -/
def chkBad (chk : Nat) (b : Line) : Bool := chk != 0 && (blkHdr b).fmt != chk && (blkHdr b).fmt != 0x3F

/-- A fill's blocks written into its entry, which is then full or sealed. -/
def fillEntry (tc : TileCtx) (r : Ring) (ls : List Line) (s : State) : State :=
  let e := r.entry r.done
  let ix := (List.range ls.length).zip ls
  if r.slots then
    let s := ix.foldl (fun s p => s.clean (.slot tc e p.1)) s
    s.modTc tc (fun t => { t with slots := amod t.slots e (fun sl =>
      { sl with blocks := ix.foldl (fun m p => aput m p.1 p.2) sl.blocks, st := .sealed_ }) })
  else match aget (s.tc tc).bufs e with
    | none => s
    | some b =>
      let s := ix.foldl (fun s p =>
        let k := bufKey s tc b p.1
        (bareWrite tc.ctx (homeOf tc.ctx.part tc.t k) k 64 p.2.toNat s).2) s
      s.modTc tc (fun t => t.setBuf e .full)

def doneOne (tc : TileCtx) (eng ring : Nat) (s : State) : State :=
  ringSweep tc (s.modTc tc (fun t => t.setRing eng ring (fun r =>
    { r with done := r.done + 1, moving := false, wrote := false, waits := [] })))

/-- The places of the first `n` blocks of a ring's entry in its buffer. -/
def entryPlaces (s : State) (tc : TileCtx) (r : Ring) (n : Nat) : List (Nat × Home) :=
  match aget (s.tc tc).bufs (r.entry r.done) with
  | none => []
  | some b => (List.range n).map (fun i => let k := bufKey s tc b i; (k, homeOf tc.ctx.part tc.t k))

/-- Blocks read by an engine at places where they are settled: none while one of them is being tested; the state in which they are
read, with what stops the ring. -/
def ringRead (tc : TileCtx) (eng : Nat) (ks : List (Nat × Home)) (s : State) : Option (State × Option Flt) :=
  match placesRefused s tc.ctx true ks with
    | some f => some (s, some f)
    | none => (unitRead 64 ks (UnitId.selector s (.engine tc.t eng)) tc.ctx.part s).map (fun r => (r.1, r.2.map (fun c => { cause := c })))

/-- The words of a ring's entry that a fill of `n` blocks writes. -/
def fillSites (s : State) (tc : TileCtx) (r : Ring) (n : Nat) : List Site :=
  if r.slots then (List.range n).map (fun i => Site.slot tc (r.entry r.done) i)
  else (entryPlaces s tc r n).map (fun p => Site.word (lineKey p.1))

/-- A fill: read, check, write. Words under test make it wait, and a unit out of use that it would write stops it (18 R365, R366). -/
def fillDone (tc : TileCtx) (eng ring : Nat) (r : Ring) (ks : List (Nat × Home)) (s : State) : Option State :=
  let sites := fillSites s tc r ks.length
  if (!r.slots && !placesSettled s 64 (entryPlaces s tc r ks.length)) || sites.any s.testing then none
  else if sites.any s.banned then some (ringFault tc eng ring r { cause := 0x20 } s)
  else match ringRead tc eng ks s with
    | none => none
    | some (s, some f) => some (ringFault tc eng ring r f s)
    | some (s, none) =>
      let ls := ks.map (fun p => s.lineAt p.1)
      match ls.find? (chkBad (layChk r.lay)) with
      | some b =>
        let step := blkStep (blkHdr b).fmt
        some (ringFault tc eng ring r
          { cause := 0x11, detail := BitVec.ofNat 256 (0xF0 + at_ (fld b 0 16) 8 + at_ step 24) } s)
      | none => some (doneOne tc eng ring (fillEntry tc r ls s))

/-- A drain's writes. -/
def drainWrite (tc : TileCtx) (eng ring : Nat) (r : Ring) (ks : List (Nat × Home)) (s : State) : State :=
  match aget (s.tc tc).bufs (r.entry r.done) with
  | none => s
  | some b =>
    let (ws, s) := ((List.range ks.length).zip ks).foldl (fun (acc : List Nat × State) p =>
      let w := bareWrite tc.ctx p.2.2 p.2.1 64 (acc.2.lineAt (bufKey acc.2 tc b p.1)).toNat acc.2
      (acc.1 ++ w.1, w.2)) (([] : List Nat), s)
    s.modTc tc (fun t => t.setRing eng ring (fun r => { r with wrote := true, waits := ws }))

/-- A drain: its entry read, then written where the layout says. -/
def drainDone (tc : TileCtx) (eng ring : Nat) (r : Ring) (ks : List (Nat × Home)) (s : State) : Option State :=
  let sites := ks.map (fun p => Site.word (lineKey p.1))
  if !placesSettled s 64 ks || sites.any s.testing then none
  else if sites.any s.banned then some (ringFault tc eng ring r { cause := 0x20 } s)
  else match placesRefused s tc.ctx false ks with
    | some f => some (ringFault tc eng ring r f s)
    | none => match ringRead tc eng (entryPlaces s tc r ks.length) s with
      | none => none
      | some (s, some f) => some (ringFault tc eng ring r f s)
      | some (s, none) => some (drainWrite tc eng ring r ks s)

def evRingTransferDone (tc : TileCtx) (eng ring : Nat) (s : State) : Option State :=
  match ringOf s tc eng ring with
  | none => none
  | some r =>
    if !r.moving || r.stopped || r.paused then none
    else if r.wrote then
      (if r.waits.any (fun n => !s.opPerformed n) then none
       else some (doneOne tc eng ring (s.modTc tc (fun t => t.setBuf (r.entry r.done) .filling))))
    else if !ctxRuns s tc.ctx then none
    else
      let vas := layAddrs r.lay r.done
      match unitRead 8 (vas.flatMap (engineReads s tc)) (UnitId.selector s (.engine tc.t eng)) tc.ctx.part s with
      | none => none
      | some (s, some c) => some (ringFault tc eng ring r { cause := c } s)
      | some (s, none) =>
        let s := vas.foldl (engineFill tc) s
        match transferAddrs s tc (if r.fill then .rd else .w) vas with
        | .error (some va) => some (ringPause tc eng ring va s)
        | .error none => some (ringFault tc eng ring r { cause := 0x16, detail := engDetail eng ring r.done } s)
        | .ok ks => if r.fill then fillDone tc eng ring r ks s else drainDone tc eng ring r ks s
/-- RING_TRANSFER_DONE (09 R232). -/
def execRingTransferDone (tc : TileCtx) (eng ring : Nat) (s : State) : Result :=
  event (evRingTransferDone tc eng ring) s

/-! ## Signals (09 R233, 12 R280) -/

def effSsig (eng : Bool) (ring : BitVec 2) (full : Bool) : Effect := tileEff .a (fun tile x s =>
  let (n, s) := openTxn x 1 .zero s
  let own := s.ops.filter (fun o => o.2.strand == x.k && (if full then o.2.stores else o.2.ret))
  .ok (s.send (.ssig n x.k x.pc ⟨x.st.ctx, tile⟩ eng.toNat ring.toNat full (own.map (fun o => o.1)))))
/-- SSIG (09 R233, 12 R280). -/
def execSsig (h : Hdr) (a : Opd) (eng : Bool) (ring : BitVec 2) (full : Bool) (s : State) : Result :=
  issue (.ssig h a eng ring full) (effSsig eng ring full) s

/-- The loads, or the stores, that the signal comes after. -/
def ssigWaits (s : State) (full : Bool) (ws : List Nat) : Bool :=
  ws.any (fun n => match aget s.ops n with
    | some o => if full then o.stage == .mesh else o.ret
    | none => false)

/-- The signal applied to a ring, or none where it faults. -/
def signalRing (tc : TileCtx) (eng ring : Nat) (r : Ring) (full : Bool) (s : State) : Option State :=
  let e := r.entry r.signalled
  let next (t : TCtx) : TCtx := t.setRing eng ring (fun r => { r with signalled := r.signalled + 1 })
  if r.fill = full then none
  else if r.fill then
    (if r.done ≤ r.signalled then none
     else if r.slots then some (slotSweep tc (s.modTc tc (fun t => next (t.release e))))
     else some (ringSweep tc (s.modTc tc (fun t => next (t.setBuf e .empty)))))
  else match aget (s.tc tc).bufs e with
    | some b => if b.st = .filling ∧ r.signalled < r.total then some (s.modTc tc (fun t => next (t.setBuf e .draining))) else none
    | none => none

def evSsigApply (n : Nat) (s : State) : Option State :=
  match aget s.msgs n with
  | some (.ssig txn k pc tc eng ring full ws) =>
    let earlierTask := s.msgs.any (fun m => match m.2 with
      | .tqItem tc' i => tc' == tc && i.strand == k && decide (m.1 < n)
      | _ => false)
    let r := ringOf s tc eng ring
    let quiet := match r with
      | some r => r.fill || (match aget (s.tc tc).bufs (r.entry r.signalled) with
        | some b => regionQuiet s tc b
        | none => true)
      | none => true
    if ssigWaits s full ws || (!full && earlierTask) || !quiet then none
    else match r.bind (fun r => signalRing tc eng ring r full (s.dropMsg n)) with
      | some s => some (landResult txn [] s)
      | none =>
        let idx := match r with
          | some r => r.signalled
          | none => 0
        some ((s.dropMsg n).unitFault tc.ctx.part (.engine tc.t eng) { cause := 0x16, lowt := s.lowtOf txn, detail := engDetail eng ring idx } k pc
          (match r with
            | some r => Ring.ust ring r
            | none => 0))
  | _ => none
/-- SSIG_APPLY (09 R233, 12 R280). -/
def execSsigApply (n : Nat) (s : State) : Result :=
  event (evSsigApply n) s

/-! ## QFENCE and EWAIT (09 R234, R238) -/

def qMask (tq se : Bool) (cq : BitVec 4) : Nat := at_ tq.toNat tqBit + at_ se.toNat seBit + at_ cq.toNat (cqBit 0)

def effQfence (tq se : Bool) (cq : BitVec 4) : Effect := fun x s =>
  let m := qMask tq se cq
  let ids := (x.st.placed.filter (fun p => m / 2 ^ p.1 % 2 == 1)).map (fun p => p.2)
  let (n, s) := openTxn x 1 .zero s
  let s := if ids.isEmpty then s else s.modStrand x.k (fun st => { st with qfences := st.qfences ++ [(m, ids)] })
  .ok (s.send (.qwait n x.k ids))
/-- QFENCE (09 R234). -/
def execQfence (h : Hdr) (tq se : Bool) (cq : BitVec 4) (s : State) : Result :=
  issue (.qfence h tq se cq) (effQfence tq se cq) s

/-- What the commands applied to a region have written is performed: EWAIT.seq observes it (10 R257). -/
def State.regionPerformed (s : State) (p : PartId) (region : Nat) : Bool :=
  match aget (s.part p).regions region with
  | some r => r.waits.all s.opPerformed
  | none => true

/-- Whether the region has reached a sequence number (09 R237); an unset one has reached none. -/
def State.reached (s : State) (p : PartId) (region w : Nat) : Bool :=
  match aget (s.part p).regions region with
  | some r => decide ((r.next + 2 ^ 32 - w) % 2 ^ 32 < 2 ^ 31)
  | none => false

/-- The commands of a strand that are not complete. -/
def State.placedBy (s : State) (k : Nat) (ids : List Nat) : Bool :=
  match s.strand k with
  | some st => st.placed.any (fun p => ids.contains p.2)
  | none => false

/-- What an EWAIT writes to D, once its condition holds. -/
def EWait.holds (s : State) (k : Nat) : EWait → Option Word
  | .ready tc eng ring => match ringOf s tc eng ring with
    | none => none
    | some r =>
      let ok := if r.fill then decide (r.signalled < r.done)
        else decide (r.signalled < r.total) && (match aget (s.tc tc).bufs (r.entry r.signalled) with
          | some b => b.st == .filling
          | none => false)
      if ok then some (BitVec.ofNat 32 (r.signalled % r.n)) else none
  | .done tc eng ring => if (ringOf s tc eng ring).isNone then some 0 else none
  | .coll ids => if s.placedBy k ids then none else some 0
  | .seq p region w => if s.reached p region w && s.regionPerformed p region then (aget (s.part p).regions region).map (fun r => BitVec.ofNat 32 r.next) else none

def ewaitEff (d : Opd) (c : State → Iss → EWait) : Effect := fun x s =>
  let w := c s x
  let (n, s) := openTxn x 1 d s
  .ok (s.send (.ewait n x.k w))

def effEwait (d : Opd) (kind : BitVec 2) (res : BitVec 8) : Effect :=
  let eng := res.toNat / 128
  let ring := res.toNat / 32 % 4
  match kind.toNat with
  | 0 => tileEff .a (fun tile => ewaitEff d (fun _ x => .ready ⟨x.st.ctx, tile⟩ eng ring))
  | 1 => tileEff .a (fun tile => ewaitEff d (fun _ x => .done ⟨x.st.ctx, tile⟩ eng ring))
  | 2 => fun x s =>
    ewaitEff d (fun _ x => .coll ((x.st.placed.filter (fun p => p.1 == cqBit (res.toNat % 4))).map (fun p => p.2))) x s
  | _ => fun x s =>
    ewaitEff d (fun s x => .seq x.st.part res.toNat (readOpd s x (srcAt x.sh .b) x.lead).toNat) x s
/-- EWAIT (09 R238). -/
def execEwait (h : Hdr) (d a b : Opd) (kind : BitVec 2) (res : BitVec 8) (s : State) : Result :=
  issue (.ewait h d a b kind res) (effEwait d kind res) s

/-! ## RESULT_LANDS (01 R23, R25, R33; 08 R203; 09 R234, R238) -/

/-- A fence is done when nothing it waits for is left. -/
def fenceOpen (s : State) (txn : Nat) : Bool :=
  match aget s.txns txn with
  | none => true
  | some t => match s.strand t.strand with
    | none => true
    | some st => match aget st.fences txn with
      | some f => !(s.fenceList t.strand f).any (s.waitsFor t.strand f.scope)
      | none => true

/-- A fence whose condition holds: one that is an acquire takes in what the reads before it returned (10 R250, R252). -/
def dropFence (txn : Nat) (s : State) : State :=
  match aget s.txns txn with
  | none => s
  | some t =>
    let s' := s.modStrand t.strand (fun st => { st with fences := adel st.fences txn })
    match (s.strand t.strand).bind (fun st => aget st.fences txn) with
    | some f => if f.ord = 1 then s' else s'.fenceAcquires t.strand f.scope
    | none => s'

def unparkOwner (txn : Nat) (s0 s : State) : State :=
  match aget s0.txns txn with
  | some t => s.unparkBranch t.strand
  | none => s

def evResultLands (n : Nat) (s : State) : Option State :=
  match aget s.msgs n with
  | some (.result txn op ws) =>
    if !fenceOpen s txn then none
    else (s.arrives n).map (fun s =>
      let s' := dropFence txn (s.dropMsg n)
      unparkOwner txn s (landResult txn ws ((s'.modOp op (fun o => { o with ret := false })).retire op)))
  | some (.ewait txn k c) =>
    (match c.holds s k with
      | none => none
      | some v =>
        let d := match aget s.txns txn with
          | some t => t.dst
          | none => .zero
        some (unparkOwner txn s (landResult txn (resultWords d false [] (v.zeroExtend 64)) (s.dropMsg n))))
  | some (.qwait txn k ids) =>
    if s.placedBy k ids then none else some (unparkOwner txn s (landResult txn [] (s.dropMsg n)))
  | _ => none
/-- RESULT_LANDS (01 R23, R25, R33, 08 R203, 09 R234, R238). -/
def execResultLands (n : Nat) (s : State) : Result :=
  event (evResultLands n) s

end Sys2Proof.Machine
end

