-- ==== Sys2Proof/Machine/Collectives.lean ====
section
/-! DEFINITION. Collective step commands, COLL and CSEQ, and the events of the collective engine (09 R235-R237, 15 R308-R314). -/

namespace Sys2Proof.Machine

/-! ## The record (09 R235, R236) -/

def cSrc (r : Line) : Nat := fld r 0 56
def cCount (r : Line) : Nat := fld r 64 32
def cReg (r : Line) : Nat := fld r 96 8
def cPkg (r : Line) : Nat := fld r 112 9
def cOff (r : Line) : Nat := fld r 128 32
def cSeq (r : Line) : Nat := fld r 160 32
def cWreg (r : Line) : Nat := fld r 192 8
def cWen (r : Line) : Bool := r.getLsbD 200
def cWseq (r : Line) : Nat := fld r 208 32
def cKind (r : Line) : Nat := fld r 240 4
def cSty (r : Line) : Nat := fld r 244 4
def cChain (r : Line) : Bool := r.getLsbD 252

/-- The size and format of a source element (15 R309). -/
def styFmt (sty : Nat) : Nat × Fmt :=
  match sty with
  | 0 => (4, fp32)
  | 1 => (2, bf16)
  | 2 => (2, fp16)
  | 3 => (1, e4m3)
  | _ => (1, e5m2)

def collBad (r : Line) : Bool :=
  [(253, 259), (248, 4), (201, 7), (121, 7), (104, 8), (56, 8)].any (fun z => fld r z.1 z.2 != 0)
  || decide (1 < cKind r) || decide (4 < cSty r) || cCount r == 0 || decide (2 ^ 24 < cCount r)
  || cSrc r % (styFmt (cSty r)).1 != 0

def collDetail (q region seq : Nat) : BitVec 256 := BitVec.ofNat 256 (q + at_ region 8 + at_ seq 32)

def State.cq (s : State) (p : PartId) (q : Nat) : List Coll := agetD (s.part p).cqs q []
def State.modCq (s : State) (p : PartId) (q : Nat) (f : List Coll → List Coll) : State :=
  s.modPart p (fun x => { x with cqs := aput x.cqs q (f (agetD x.cqs q [])) })

/-- A command at the tail of a queue, with a new number. -/
def pushColl (p : PartId) (q : Nat) (c : Coll) (s : State) : State :=
  let n := (s.part p).cqNo + 1
  let prev := match (s.cq p q).getLast? with
    | some l => l.no
    | none => 0
  (s.modPart p (fun x => { x with cqNo := n })).modCq p q (fun l => l ++ [{ c with no := n, prev := prev }])

def effColl (cq : BitVec 2) : Effect := fun x s =>
  let r := lineOfWords (readLine s x (srcAt x.sh .a) 0)
  let q := cq.toNat
  if fenced x.st (cqBit q) || decide (64 ≤ (s.cq x.st.part q).length) then .wait
  else if collBad r then .stop { cause := 0x17, lowt := x.lead, detail := collDetail q (cReg r) (cSeq r) }
  else
    let (n, s) := openTxn x 1 .zero s
    .ok (place x.k (cqBit q) n (pushColl x.st.part q
      { txn := n, strand := x.k, pc := x.pc, ctx := x.st.ctx, rcd := r, no := 0, rel := s.relIds x.k } s))
/-- COLL (09 R236). -/
def execColl (h : Hdr) (d : Opd) (cq : BitVec 2) (s : State) : Result :=
  issue (.coll h d cq) (effColl cq) s

/-! ## Regions (09 R237, 15 R314) -/

/-- The first address of each 64 KiB page of a region. -/
def regionPages (base len : Nat) : List Nat :=
  (List.range ((base + len - 1) / 2 ^ 16 - base / 2 ^ 16 + 1)).map (fun i => (base / 2 ^ 16 + i) * 2 ^ 16)

/-- The table entries that the walks of a span of bytes read (17 R338). -/
def spanReads (s : State) (c : CtxId) (base len : Nat) : List (Nat × Home) := (regionPages base len).flatMap (ioReads s c)

/-- A page of a region: writable near memory of the package. -/
def regionPage (s : State) (c : CtxId) (va : Nat) : EAddr :=
  match ioAddr s c .w va with
  | .key k h => (match h with
    | .near pkg _ _ => if pkg = c.part.pkg then .key k h else .bad
    | _ => .bad)
  | r => r

/-- The first page of a region that is not as it must be: its page fault, or none for a collective fault. -/
def regionBad (s : State) (c : CtxId) : List Nat → Option (Option Nat)
  | [] => none
  | va :: rest => match regionPage s c va with
    | .page => some (some va)
    | .bad => some none
    | .key .. => regionBad s c rest

def effCseqSet (region : Nat) (dty : Bool) : Effect := fun x s =>
  let base := (readOpd s x (srcAt x.sh .b) x.lead).toNat
  let len := (readOpd s x (srcAt x.sh .c) x.lead).toNat
  let first := (readOpd s x (srcAt x.sh .a) x.lead).toNat
  let size := if dty then 2 else 4
  let bad : Eff := .stop { cause := 0x17, lowt := x.lead, addr := base, detail := collDetail 0 region first }
  if base % 64 ≠ 0 ∨ len = 0 ∨ len % size ≠ 0 ∨ (s.part x.st.part).held.any (fun h => cReg h.2.2.rcd == region) then bad
  else match regionBad s x.st.ctx (regionPages base len) with
    | some (some va) => .walk va
    | some none => bad
    | none =>
      let r : Region := { ctx := x.st.ctx, base := base, len := len, bf16 := dty, next := first }
      .ok (tableAnswer x .zero 0 (s.modPart x.st.part (fun p => { p with regions := aput p.regions region r })))

def effCseq (d : Opd) (region : BitVec 8) (rd dty : Bool) : Effect :=
  if rd then fun x s =>
    .ok (tableAnswer x d (match aget (s.part x.st.part).regions region.toNat with
      | some r => BitVec.ofNat 32 r.next
      | none => 0) s)
  else effCseqSet region.toNat dty
/-- CSEQ (09 R237, 15 R314). -/
def execCseq (h : Hdr) (d a b : Opd) (region : BitVec 8) (rd dty : Bool) (s : State) : Result :=
  issue (.cseq h d a b region rd dty) (effCseq d region rd dty) s

/-! ## A command starts (09 R236, 15 R308, R309) -/

/-- The partition that a command goes to. -/
def collDest (s : State) (p : PartId) (rank : Nat) : Option PartId :=
  match s.ofRank p.pkg rank with
  | none => none
  | some pkg =>
    if pkg = p.pkg then some p
    else match (s.part p).group with
      | none => none
      | some g => (s.parts.find? (fun q => q.1.pkg == pkg && q.2.group == some g)).map (fun q => q.1)

/-- A source element's place: near memory of the package, or the partition's own window. -/
def srcPlace (s : State) (c : CtxId) (va : Nat) : EAddr :=
  match ioAddr s c .rd va with
  | .key k h => (match h with
    | .near pkg _ _ => if pkg = c.part.pkg then .key k h else .bad
    | .slicePort .. => .key k h
    | _ => .bad)
  | r => r

/-- The places of the source elements in ascending order, or what stops the command: a page, or a fault. -/
def srcPlaces (s : State) (c : CtxId) (size : Nat) : Nat → Nat → Except (Sum Nat Flt) (List (Nat × Home))
  | 0, _ => .ok []
  | n + 1, va => match srcPlace s c va with
    | .page => .error (.inl va)
    | .bad => .error (.inr { cause := 0x17, addr := va })
    | .key k h => match s.bufferRefuses c h k true with
      | some f => .error (.inr { f with addr := va })
      | none => match srcPlaces s c size n (va + size) with
        | .ok ks => .ok ((k, h) :: ks)
        | .error e => .error e

def modColl (p : PartId) (q no : Nat) (f : Coll → Coll) (s : State) : State :=
  s.modCq p q (fun l => l.map (fun c => if c.no = no then f c else c))

/-- The selector and the queue's UST (17 R345); only the collective fault has a DETAIL of its own here (17 R346). -/
def collFault (p at_part : PartId) (q : Nat) (c : Coll) (f : Flt) (s : State) : State :=
  let s := modColl p q c.no (fun c => { c with started := false, stuck := some at_part }) s
  let f := { f with lowt := s.lowtOf c.txn
                    detail := if f.cause = 0x17 then collDetail q (cReg c.rcd) (cSeq c.rcd) else f.detail }
  if at_part = p then s.unitFault p (.collective q) f c.strand c.pc (at_ (cSeq c.rcd) 32)
  else
    let info : StopInfo := { flt := f, pc := c.pc.toNat, unit := UnitId.selector s (.collective q), coinc := 2, impr := true
                             ust := at_ (cSeq c.rcd) 32 }
    (s.raiseLine at_part f.cause (some (.collective q))).putStop at_part (.collective q) (info.bits s.clk)

/-- The first command of a queue that has not started. -/
def nextColl (s : State) (p : PartId) (q : Nat) : Option Coll := (s.cq p q).find? (fun c => !c.started)

def evCollCommandStart (p : PartId) (q : Nat) (s : State) : Option State :=
  match nextColl s p q with
  | none => none
  | some c =>
    let r := c.rcd
    let chained := cChain r && (s.cq p q).any (fun d => d.no == c.prev)
    if !ctxRuns s c.ctx || c.paused || c.stuck.isSome || chained || (cWen r && !s.reached p (cWreg r) (cWseq r))
      || !s.relMet c.strand .dom c.rel then none
    else match collDest s p (cPkg r) with
      | none => some (collFault p p q c { cause := 0x17 } s)
      | some dest =>
      let size := (styFmt (cSty r)).1
      let sel := UnitId.selector s (.collective q)
      match unitRead 8 (spanReads s c.ctx (cSrc r) (size * cCount r)) sel p s with
      | none => none
      | some (s, some cause) => some (collFault p p q c { cause := cause } s)
      | some (s, none) => match srcPlaces s c.ctx size (cCount r) (cSrc r) with
        | .error (.inl va) =>
          some ((modColl p q c.no (fun c => { c with paused := true }) s).postBy p (.collective q) 0x8001
            (va + at_ (UnitId.selector s (.collective q)) 64))
        | .error (.inr f) => some (collFault p p q c f s)
        | .ok ks => match unitRead size ks sel p s with
            | none => none
            | some (s, some cause) => some (collFault p p q c { cause := cause } s)
            | some (s, none) =>
              let src := ks.map (fun k => BitVec.ofNat 32 (s.read size k.1))
              some ((modColl p q c.no (fun c => { c with started := true }) s).send
                (.coll dest q { c with started := true, src := src }))
/-- COLL_COMMAND_START (09 R236, 15 R308, R309). -/
def execCollCommandStart (p : PartId) (q : Nat) (s : State) : Result :=
  event (evCollCommandStart p q) s

/-! ## It arrives and is applied (09 R237, 15 R310-R312) -/

/-- A command held at a region whose turn has come. -/
def turnHeld (s : State) (p : PartId) (region : Nat) (r : Region) : Bool :=
  (s.part p).held.any (fun h => cReg h.2.2.rcd == region && cSeq h.2.2.rcd == r.next)

/-- Commands held, those apart that have the further place of their region: one each, whose turn it is (15 R311). -/
def aheadHeld (s : State) (p : PartId) : Nat :=
  (s.part p).held.length - ((s.part p).regions.filter (fun r => turnHeld s p r.1 r.2)).length

/-- A command reaches its package: in the order of its route, and its flit once only. -/
def collEnters (s : State) (n : Nat) (p : PartId) (q : Nat) (c : Coll) (refused : Bool) : Option State :=
  match Msg.route s (.coll p q c) with
  | none => some s
  | some r => if s.behind [] n r then none else s.transmit r n c.refusedAt.isSome refused

/-- A command refused: its flit with a NACK where it comes from another package, and once only (19 R378). -/
def refuseColl (n : Nat) (p : PartId) (q : Nat) (c : Coll) (s : State) : Option State :=
  if c.refusedAt.isSome then none
  else (collEnters s n p q c true).map (fun s => { s with msgs := amod s.msgs n (fun _ => .coll p q { c with refusedAt := some (s.cycle p) }) })

/-- COLL_ARRIVAL behind what its source sent to the package before it waits (19 R377). -/
def evCollArrival (n : Nat) (s : State) : Option State :=
  match aget s.msgs n with
  | some (.coll p q c) =>
    if (s.part p).line.isSome then none
    else match aget (s.part p).regions (cReg c.rcd) with
      | none => refuseColl n p q c s
      | some r =>
        let hold (s : State) : State := (s.dropMsg n).modPart p (fun x => { x with held := x.held ++ [(c.ctx.part, q, c)] })
        if cSeq c.rcd = r.next ∧ !turnHeld s p (cReg c.rcd) r then (collEnters s n p q c false).map hold
        else if cSeq c.rcd ≠ r.next ∧ s.reached p (cReg c.rcd) (cSeq c.rcd) then
          (collEnters s n p q c false).map (fun s => collFault c.ctx.part p q c { cause := 0x17 } (s.dropMsg n))
        else if aheadHeld s p < 64 then (collEnters s n p q c false).map hold
        else refuseColl n p q c s
  | _ => none
/-- COLL_ARRIVAL (15 R311). -/
def execCollArrival (n : Nat) (s : State) : Result :=
  event (evCollArrival n) s

/-- The places of the destination elements, or a page, or a fault. -/
def dstPlaces (s : State) (c : CtxId) (size : Nat) : Nat → Nat → Except (Option Nat) (List (Nat × Home))
  | 0, _ => .ok []
  | n + 1, va => match regionPage s c va with
    | .page => .error (some va)
    | .bad => .error none
    | .key k h => match dstPlaces s c size n (va + size) with
      | .ok ks => .ok ((k, h) :: ks)
      | .error e => .error e

/-- One element (09 R237, 15 R310). -/
def collElem (dst : Fmt) (reduce : Bool) (sty : Fmt) (old src : Nat) : Nat :=
  if reduce then dst.arith .rne false ((dst.decode old).add .rne (sty.decode src))
  else dst.conv .rne false (sty.decode src)

/-- Every element of a command applied in ascending order; the writes that are not performed. -/
def applyElems (c : CtxId) (dst : Fmt) (size : Nat) (reduce : Bool) (sty : Fmt) :
    List ((Nat × Home) × BitVec 32) → State → List Nat × State
  | [], s => ([], s)
  | ((k, h), v) :: rest, s =>
    let w := bareWrite c h k size (collElem dst reduce sty (s.read size k) v.toNat) s
    let r := applyElems c dst size reduce sty rest w.2
    (w.1 ++ r.1, r.2)

/-- A command leaves the places where it was held at a region. -/
def unhold (p src : PartId) (c : Coll) (s : State) : State :=
  s.modPart p (fun x => { x with held := x.held.filter (fun h => !(h.1 == src && h.2.2.no == c.no)) })

/-- The command held at a region that is dealt with next: one whose number has passed, for the region has applied another of that
number, or the one whose turn it is (09 R237, 15 R311). -/
def heldNext (s : State) (p : PartId) (region : Nat) (r : Region) : Option (PartId × Nat × Coll) :=
  let mine := (s.part p).held.filter (fun h => cReg h.2.2.rcd == region)
  match mine.find? (fun h => cSeq h.2.2.rcd != r.next && s.reached p region (cSeq h.2.2.rcd)) with
  | some h => some h
  | none => mine.find? (fun h => cSeq h.2.2.rcd == r.next)

/-- A command whose turn it is, applied whole (15 R311, R312). A region whose owner has ended stays set, for it belongs to the partition
(09 R237), and its addresses have no translation: the model's choice (log entry 62). -/
def applyColl (p : PartId) (region : Nat) (r : Region) (src : PartId) (q : Nat) (c : Coll) (s : State) : Option State :=
  let size := if r.bf16 then 2 else 4
  let sel := UnitId.selector s (.collective q)
  let base := r.base + cOff c.rcd
  if cOff c.rcd % size ≠ 0 ∨ r.len < cOff c.rcd + size * cCount c.rcd then
    some (collFault src p q c { cause := 0x17 } (unhold p src c s))
  else if r.gone then some (collFault src p q c { cause := 0x17 } (unhold p src c s))
  else match unitRead 8 (spanReads s r.ctx base (size * cCount c.rcd)) sel p s with
    | none => none
    | some (s, some cause) => some (collFault src p q c { cause := cause } (unhold p src c s))
    | some (s, none) => match dstPlaces s r.ctx size (cCount c.rcd) base with
      | .error (some va) =>
        some ((s.modPart p (fun x => { x with regions := amod x.regions region (fun r => { r with paused := true }) })).postBy p (.collective q) 0x8001
          (va + at_ sel 64))
      | .error none => some (collFault src p q c { cause := 0x17 } (unhold p src c s))
      | .ok ks => match unitRead size ks sel p s with
        | none => none
        | some (s, some cause) => some (collFault src p q c { cause := cause } (unhold p src c s))
        | some (s, none) =>
          let (ws, s) := applyElems r.ctx (if r.bf16 then bf16 else fp32) size (cKind c.rcd == 1) (styFmt (cSty c.rcd)).2
            (ks.zip c.src) (unhold p src c s)
          let s := s.modPart p (fun x => { x with
            regions := amod x.regions region (fun r => { r with
              next := (r.next + 1) % 2 ^ 32, waits := (r.waits.filter (fun n => !s.opPerformed n)) ++ ws }) })
          some (s.send (.collAck src q c.no ws p.pkg))

def evCollApply (p : PartId) (region : Nat) (s : State) : Option State :=
  match aget (s.part p).regions region with
  | none => none
  | some r => match heldNext s p region r with
    | none => none
    | some (src, q, c) =>
      if r.paused || (s.part p).line.isSome then none
      else if cSeq c.rcd ≠ r.next then some (collFault src p q c { cause := 0x17 } (unhold p src c s))
      else applyColl p region r src q c s
/-- COLL_APPLY (09 R237, 15 R310-R312). -/
def execCollApply (p : PartId) (region : Nat) (s : State) : Result :=
  event (evCollApply p region) s

/-- The acknowledgement of a command whose writes are performed completes it (09 R237). -/
def evCollAck (n : Nat) (s : State) : Option State :=
  match aget s.msgs n with
  | some (.collAck p q no ws _) =>
    if ws.any (fun o => !s.opPerformed o) then none
    else (s.arrives n).bind (fun s =>
      let s' := s.dropMsg n
      match (s.cq p q).find? (fun c => c.no == no) with
        | none => some s'
        | some c => some (landResult c.txn [] (unplace c.strand c.txn (s'.modCq p q (fun l => l.filter (fun c => c.no != no))))))
  | _ => none
/-- COLL_ACK (09 R237). -/
def execCollAck (n : Nat) (s : State) : Result :=
  event (evCollAck n) s

/-- After 2^24 cycles of refusals at a region that is not set (15 R311). -/
def evCollRefusalTimeout (n : Nat) (s : State) : Option State :=
  match aget s.msgs n with
  | some (.coll p q c) =>
    (match c.refusedAt, aget (s.part p).regions (cReg c.rcd) with
      | some t, none =>
        if s.cycle p < t + 2 ^ 24 then none
        else some (collFault c.ctx.part c.ctx.part q c { cause := 0x17 } (s.dropMsg n))
      | _, _ => none)
  | _ => none
/-- COLL_REFUSAL_TIMEOUT (15 R311). -/
def execCollRefusalTimeout (n : Nat) (s : State) : Result :=
  event (evCollRefusalTimeout n) s

end Sys2Proof.Machine
end

