-- ==== Sys2Proof/Machine/Lines.lean ====
section
/-! DEFINITION. The gong line while it is raised and when it is cleared (17 R344, R348, R349), the stops of units, and the
commands HALT, RELEASE and INVAL (17 R342, R356). -/

namespace Sys2Proof.Machine

/-! ## Stopping (17 R344, R354) -/

/-- The units of a partition that are no strands. -/
def unitsOf (q : Part) : List UnitId :=
  (List.range q.tiles).flatMap (fun t => [UnitId.sched t, .engine t 0, .engine t 1])
    ++ [.collective 0, .collective 1, .collective 2, .collective 3, .launcher]

/-- Contexts of one partition on one tile. -/
def State.onTile (s : State) (p : PartId) (t : Nat) : List (TileCtx × TCtx) :=
  s.tctx.filter (fun x => x.1.ctx.part == p && x.1.t == t)

/-- UST of a unit that is no strand: the ring that a stream engine works on or stopped at; the head of a collective queue. -/
def unitUst (s : State) (p : PartId) : UnitId → Nat
  | .engine t e =>
    ((s.onTile p t).findSome? (fun x =>
      ((x.2.engine e).rings.find? (fun r => r.2.moving || r.2.stopped)).map (fun r => Ring.ust r.1 r.2))).getD 0
  | .collective q => match (s.cq p q).head? with
    | some c => at_ (cSeq c.rcd) 32
    | none => 0
  | _ => 0

/-- The record of a unit that did not raise the line. -/
def stoppedInfo (s : State) (p : PartId) (u : UnitId) : StopInfo :=
  { flt := { cause := 0x36 }, loc := UnitId.loc u, unit := UnitId.selector s u, orig := false, ust := unitUst s p u }

def stoppedStrand (s : State) (st : Strand) : StopInfo :=
  let pc := match st.issueAddr with
    | some a => a
    | none => 0
  { flt := { cause := 0x36 }, issue := pc.toNat, pc := pc.toNat, exm := (maskOf (st.executing pc)).toNat, loc := st.loc
    unit := st.unit, orig := false, ust := st.ust (s.cycle st.part) }

/-- A unit stops and writes its record; a scheduler cuts its running tasks. -/
def evUnitStop (p : PartId) (u : UnitId) (s : State) : Option State :=
  if (s.part p).line.isNone then none
  else match u with
  | .strand k =>
    (match s.strand k with
      | none => none
      | some st =>
        if st.part ≠ p ∨ st.status ≠ .resident ∨ st.stopped then none
        else some (s.putStop p u ((stoppedStrand s st).bits s.clk)))
  | u =>
    if !(unitsOf (s.part p)).contains u || (s.part p).quiet.contains u then none
    else
      let s := s.putStop p u ((stoppedInfo s p u).bits s.clk)
      match u with
      | .sched t => some (s.cutTile p t)
      | _ => some s
/-- UNIT_STOP (17 R344, R354). -/
def execUnitStop (p : PartId) (unit : UnitId) (s : State) : Result :=
  event (evUnitStop p unit) s

/-- Every unit has written its record. -/
def allStopped (s : State) (p : PartId) : Bool :=
  (unitsOf (s.part p)).all (fun u => (s.part p).quiet.contains u) &&
  s.strands.all (fun x => x.2.part != p || x.2.status != .resident || x.2.stopped)

/-! ## The originator (17 R348) -/

def evOriginatorHandlerEntry (k : Nat) (s : State) : Option State :=
  match s.strand k with
  | none => none
  | some st => match st.orig with
    | none => none
    | some (kind, code, mask) =>
      if (s.part st.part).line.isNone || st.status != .resident || st.allExited || st.tvec == 0 || st.priv
          || !allStopped s st.part then none
      else
        let s := s.enterHandler k kind code mask
        let s := s.modPart st.part (fun q => { q with originators := q.originators.filter (fun m => m != k) })
        some (s.modStrand k (fun st => { st with orig := none, inLine := true, entHeld := st.stopRec.getLsbD 259 }))
/-- ORIGINATOR_HANDLER_ENTRY (17 R348, 07 R167). -/
def execOriginatorHandlerEntry (k : Nat) (s : State) : Result :=
  event (evOriginatorHandlerEntry k) s

/-! ## The line is cleared (17 R349; 16 R328) -/

/-- Commands and items that a fault held are tried again. -/
def unstick (p : PartId) (s : State) : State :=
  { s with
    tctx := s.tctx.map (fun x => if x.1.ctx.part = p then (x.1, { x.2 with
      tq := x.2.tq.map (fun i => { i with stuck := false })
      engines := x.2.engines.map (fun e => (e.1, { e.2 with rings := e.2.rings.map (fun r => (r.1, { r.2 with stopped := false })) })) })
      else x)
    parts := s.parts.map (fun x => (x.1, { x.2 with
      cqs := x.2.cqs.map (fun q => (q.1, q.2.map (fun c => if c.stuck = some p then { c with stuck := none } else c))) })) }

/-- The slice of a strand has ended by budget. -/
def State.budgetEnded (s : State) (st : Strand) : Bool :=
  match aget s.launches st.launch with
  | some l => l.st == .byBudget
  | none => false

def State.clearLine (s : State) (p : PartId) : State :=
  if (s.part p).line.isNone then s
  else
    let s := unstick p s
    let s := s.modPart p (fun q => { q with line := none, originators := [], quiet := [] })
    let s := (contextsOf p).foldl (fun s c => s.modCtx c (fun x => if x.st = 4 then { x with st := x.before } else x)) s
    let mine := s.strands.filter (fun x => x.2.part == p && x.2.status != .ended)
    let s := mine.foldl (fun s x => s.modStrand x.1 (fun st => { st with stopped := false, orig := none, inLine := false })) s
    mine.foldl (fun s x => if s.budgetEnded x.2 then strandEnd x.1 s
      else if x.2.status = .resident then releaseRecorded x.1 s else s) s

/-! ## HALT, RELEASE and INVAL (17 R342, R356) -/

/-- A command that completes posts its event. -/
def State.cmdDone (s : State) (c : CtxId) (cmd : Nat) : State := s.post c.part (0x8040 + cmd) c.n

def evHalt (c : CtxId) (s : State) : Option State :=
  if (s.ctx c).st ≠ 1 then none
  else some ((s.raiseLine c.part 0x30 none).cmdDone c 4)
/-- HALT (17 R344, R356). -/
def execHalt (c : CtxId) (s : State) : Result :=
  event (evHalt c) s

def evRelease (c : CtxId) (s : State) : Option State :=
  if (s.ctx c).st ≠ 4 then none
  else some ((s.clearLine c.part).cmdDone c 5)
/-- RELEASE (17 R349, R356). -/
def execRelease (c : CtxId) (s : State) : Result :=
  event (evRelease c) s

/-- Leaf translations leave the tiles' caches. -/
def State.dropTlb (s : State) (keep : TileId → TlbE → Bool) : State :=
  { s with tiles := s.tiles.map (fun t => (t.1, { t.2 with tlb := t.2.tlb.filter (keep t.1) })) }

/-- Table entries leave the walk caches of the dies. -/
def State.dropWalks (s : State) (keep : Nat × Nat → WalkE → Bool) : State :=
  { s with walks := s.walks.map (fun d => (d.1, d.2.filter (keep d.1))) }

/-- As TLBINV.part .all: every translation of a partition is dropped, in its tiles and in the walk caches (17 R342). -/
def State.dropPart (s : State) (p : PartId) : State :=
  (s.dropTlb (fun t _ => t.part != p)).dropWalks (fun _ e => e.ctx.part != p)

/-- A context that leaves its place leaves no translation behind. -/
def State.dropCtx (s : State) (c : CtxId) : State :=
  (s.dropTlb (fun _ e => e.ctx != c)).dropWalks (fun _ e => e.ctx != c)

def evInval (c : CtxId) (s : State) : Option State :=
  if (aget s.parts c.part).isNone ∨ 4 ≤ c.n then none else some ((s.dropPart c.part).cmdDone c 7)
/-- INVAL (17 R342, R356). -/
def execInval (c : CtxId) (s : State) : Result :=
  event (evInval c) s

end Sys2Proof.Machine
end

