-- ==== Sys2Proof/Machine/System.lean ====
section
/-! DEFINITION. Random numbers, control and status registers, the clock and the privileged instructions, groups 0xD and 0xE
(07 R168, R183-R188; 17 R342, R345, R347; 18 R364, R367). -/

namespace Sys2Proof.Machine

/-! ## The generator (07 R183, R184) -/

def wordsAt {n : Nat} (x : BitVec n) (i : Nat) : Word := x.extractLsb' (32 * i) 32

/-- The four words of a block while it is mixed. -/
structure Mix where
  a : Word
  b : Word
  c : Word
  d : Word
  deriving DecidableEq, Repr

/-- The four steps of one half of a round, with their rotation counts. -/
def Mix.half (m : Mix) (r1 r2 : Nat) : Mix :=
  let a := m.a + m.b
  let d := (m.d ^^^ a).rotateLeft r1
  let c := m.c + d
  let b := (m.b ^^^ c).rotateLeft r2
  ⟨a, b, c, d⟩

def Mix.addKey (m : Mix) (key : BitVec 128) (i : Nat) : Mix :=
  let r : Word := BitVec.ofNat 32 ((i + 1) * 0x9E3779B9)
  ⟨m.a + wordsAt key 0 + r, m.b + wordsAt key 1 + r, m.c + wordsAt key 2 + r, m.d + wordsAt key 3 + r⟩

def Mix.round (key : BitVec 128) (m : Mix) (i : Nat) : Mix := ((m.half 16 12).half 8 7).addKey key i

/-- G(key, n). -/
def rngG (key n : BitVec 128) : Word :=
  let x := n >>> 2
  let m := (List.range 10).foldl (Mix.round key) ⟨wordsAt x 0, wordsAt x 1, wordsAt x 2, wordsAt x 3⟩
  match (n &&& 3).toNat with
  | 0 => m.a
  | 1 => m.b
  | 2 => m.c
  | _ => m.d

/-- The four registers of a quad for thread `t`, read in cycle `c`. -/
def readQuad (s : State) (x : Iss) (p : Pos) (t c : Nat) : BitVec 128 :=
  let u := srcAt x.sh p
  readWord s x u 3 t c ++ readWord s x u 2 t c ++ readWord s x u 1 t c ++ readWord s x u 0 t c

/-- A quad written for thread `t`, visible from the cycle on. -/
def quadWrites (o : Opd) (v : BitVec 128) (t vis : Nat) : List RegWr :=
  match o with
  | .v j => (List.range 4).map (fun i => ⟨vis, vecKey (j.val + i) t, wordsAt v i, vis - 6⟩)
  | .u j => (List.range 4).map (fun i => ⟨vis, uniKey (j.val + i), wordsAt v i, vis - 6⟩)
  | _ => []

def effRand (d b : Opd) : Effect := fun x s =>
  let draw (v : Word) (t : Nat) : List RegWr := destWrites ⟨.a, d, 1, 1, []⟩ (v.zeroExtend 64) t (x.wcyc t)
  if Opd.isUni b && Opd.isVec d then
    let ctr := readQuad s x .b x.lead x.t0
    let ws := x.act.flatMap (fun t =>
      draw (rngG (readQuad s x .a t (x.cyc t)) (ctr + BitVec.ofNat 128 (indexIn t x.act))) t)
    .ok (s.putRegs x.k (ws ++ quadWrites b (ctr + BitVec.ofNat 128 x.act.length) x.lead (x.last + 6)))
  else
    .ok (s.putRegs x.k (x.poppers.flatMap (fun t =>
      let ctr := readQuad s x .b t (x.cyc t)
      draw (rngG (readQuad s x .a t (x.cyc t)) ctr) t ++ quadWrites b (ctr + 1) t (x.wcyc t + 6))))
/-- RAND (07 R183, R184). -/
def execRand (h : Hdr) (d a b : Opd) (s : State) : Result :=
  issue (.rand h d a b) (effRand d b) s

/-! ## The reservation table (07 R185) -/

/-- Two ranges modulo 2^128 have a value in common. -/
def rangesMeet (a : BitVec 128) (n : Nat) (b : BitVec 128) (m : Nat) : Bool :=
  decide ((b - a).toNat < n) || decide ((a - b).toNat < m)

def Part.reserved (p : Part) (key start : BitVec 128) (len : Nat) : Bool :=
  p.resv.any (fun r => r.key == key && rangesMeet start len r.start r.len)

/-- A range registered, as far as the table has room; RNGST notes what went wrong. A range that overlaps one while the table is full
sets both bits, here and in D: the model's choice, since 07 R185 names OVL with a range that is registered (log entry 59). -/
def Part.reserve (p : Part) (r : Resv) : Part :=
  let ovl := p.reserved r.key r.start r.len
  let full := decide (64 ≤ p.resv.length)
  { p with
    rngst := p.rngst ||| (if ovl then 1#2 else 0#2) ||| (if full then 2#2 else 0#2)
    resv := if full then p.resv else p.resv ++ [r] }

def effRres (d : Opd) (rel : Bool) : Effect := fun x s =>
  let key := readQuad s x .a x.lead x.t0
  let start := readQuad s x .b x.lead x.t0
  let len := (readOpd s x (srcAt x.sh .c) x.lead).toNat
  let p := s.part x.st.part
  let r : Resv := { ctx := x.st.ctx, key := key, start := start, len := len }
  if len = 0 then .ok (tableAnswer x d 0 s)
  else if rel then
    if p.resv.contains r then .ok (tableAnswer x d 0 (s.modPart x.st.part (fun p => { p with resv := p.resv.erase r })))
    else .ok (tableAnswer x d 4 s)
  else if p.reserved key start len && x.st.modew.getLsbD 19 then .stop { cause := 0x19, lowt := x.lead }
  else
    let v := (p.reserved key start len).toNat + 2 * (decide (64 ≤ p.resv.length)).toNat
    .ok (tableAnswer x d (BitVec.ofNat 32 v) (s.modPart x.st.part (fun p => p.reserve r)))
/-- RRES (07 R185, 17 R358). -/
def execRres (h : Hdr) (d a b c : Opd) (rel : Bool) (s : State) : Result :=
  issue (.rres h d a b c rel) (effRres d rel) s

/-! ## Control and status registers (07 R186) -/

/-- Cycles left of the budget of a strand's slice; all ones for none (16 R328). -/
def State.budgetLeft (s : State) (st : Strand) : Nat :=
  match aget s.launches st.launch with
  | some l =>
    let b := (l.rcd.extractLsb' 448 64).toNat
    if b = 0 then 2 ^ 64 - 1 else b - l.used
  | none => 2 ^ 64 - 1

def Strand.ctxst (st : Strand) : Nat := st.knell.toNat + 2 * st.det.toNat + 4 * st.hold.toNat + 8 * st.priv.toNat

/-- A register as CSRR reads it; none for an address that is not in the table. -/
def csrRead (s : State) (st : Strand) (a : Nat) : Option Word :=
  let n (v : Nat) : Option Word := some (BitVec.ofNat 32 v)
  match a with
  | 0x000 => some st.modew
  | 0x001 => n st.ctxst
  | 0x002 => n (s.part st.part).rngst.toNat
  | 0x003 => n st.loc
  | 0x004 => n (s.budgetLeft st)
  | 0x005 => n (s.budgetLeft st / 2 ^ 32)
  | 0x006 => some (s.pkg st.part.pkg).feat
  | 0x800 => n st.tvec.toNat
  | 0x801 => n (st.tvec.toNat / 2 ^ 32)
  | 0x802 => some st.tcause
  | 0x803 => n st.tmask.toNat
  | _ => none

/-- An address of the privileged half. -/
def csrPriv (st : Strand) (csr : BitVec 12) : Bool := decide (0x800 ≤ csr.toNat) && !st.priv

def effCsrr (csr : BitVec 12) : Effect := fun x s =>
  if csrPriv x.st csr then .stop { cause := 2, lowt := x.lead }
  else match csrRead s x.st csr.toNat with
    | none => .stop { cause := 1, lowt := x.lead }
    | some v => .ok (writeRows x (x.poppers.map (fun t => (t, w32 v))) s)
/-- CSRR (07 R186). -/
def execCsrr (h : Hdr) (d : Opd) (csr : BitVec 12) (s : State) : Result :=
  issue (.csrr h d csr) (effCsrr csr) s

/-- A write of a register; none where it is illegal. -/
def csrWrite (k : Nat) (st : Strand) (a : Nat) (v : Word) (s : State) : Option State :=
  match a with
  | 0x002 =>
    if v.toNat / 4 ≠ 0 then none
    else some (s.modPart st.part (fun p => { p with rngst := p.rngst &&& ~~~(v.truncate 2) }))
  | 0x800 => some (s.modStrand k (fun st => { st with tvec := BitVec.ofNat 56 (st.tvec.toNat / 2 ^ 32 * 2 ^ 32 + v.toNat) }))
  | 0x801 =>
    if v.toNat / 2 ^ 24 ≠ 0 then none
    else some (s.modStrand k (fun st => { st with tvec := BitVec.ofNat 56 (st.tvec.toNat % 2 ^ 32 + at_ v.toNat 32) }))
  | _ => none

def effCsrw (csr : BitVec 12) : Effect := fun x s =>
  if csrPriv x.st csr then .stop { cause := 2, lowt := x.lead }
  else match csrWrite x.k x.st csr.toNat ((readOpd s x (srcAt x.sh .a) x.lead).truncate 32) s with
    | none => .stop { cause := 1, lowt := x.lead }
    | some s => .ok s
/-- CSRW (07 R186). -/
def execCsrw (h : Hdr) (a : Opd) (csr : BitVec 12) (s : State) : Result :=
  issue (.csrw h a csr) (effCsrw csr) s

/-- Package time as a lane sees it (07 R187, log entry 6). -/
def State.pktTime (s : State) (st : Strand) : Nat :=
  let p := s.part st.part
  let tile := (st.part.pkg * 48 + p.gran.getD (st.tile / 4) 0) * 4 + st.tile % 4
  s.clk + (Config.clockSkew (64 * tile + st.lane)).toNat

def effClock (lane : Bool) : Effect := fun x s =>
  let v := if lane then s.cycle x.st.part else s.pktTime x.st
  .ok (writeRows x (x.poppers.map (fun t => (t, ({ d := BitVec.ofNat 64 v } : Wv)))) s)
/-- CLOCK (07 R187). -/
def execClock (h : Hdr) (d : Opd) (lane : Bool) (s : State) : Result :=
  issue (.clock h d lane) (effClock lane) s

/-! ## TRET (07 R168, 17 R335) -/

/-- The trap of a budget that has run out. For a strand that is being cut back it comes at resumption (16 R328); for one that runs its
handler with PRIV = 1, which R328 does not speak of, it comes as TRET returns: the model's choice (log entry 62). -/
def budgetTrap (k : Nat) (s : State) : State :=
  match s.strand k with
  | none => s
  | some st =>
    let live := st.liveThreads
    let ts := if live = [] then (List.range 16).filter (fun t => (st.thread t).st == .parked) else live
    if st.priv || st.tvec == 0 || st.trapped || st.status != .resident || knellOver s st then s
    else (s.enterHandler k 5 0x35 (maskOf ts)).modStrand k (fun st => { st with trapped := true })

/-- A trap that its slice's grace period owes the strand (16 R328). -/
def owedTrap (k launch : Nat) (s : State) : State :=
  match aget s.launches launch with
  | some l => if l.grace.isSome then budgetTrap k s else s
  | none => s

/-- A record that 17 R335 refuses is reported before a PC with a bad slot: the model's choice, since 07 R168 and 17 R335 do not
order the two (log entry 59). A strand whose threads have all exited then ends (01 R18). -/
def effTret : Effect := fun x s =>
  if !x.st.framed then .stop { cause := 1, lowt := x.lead }
  else match frameRecords x.st.image 16 with
    | none => .stop { cause := 1, lowt := x.lead }
    | some rs =>
      let back := (List.range 16).filter (fun t => !x.st.exitedInside t)
      match back.find? (fun t => match rs[t]? with
          | some r => decide (5 ≤ slotPc r.pc)
          | none => false) with
      | some t => .stop { targetFault t (match rs[t]? with
          | some r => r.pc.toNat
          | none => 0) with lowt := x.lead }
      | none =>
        let s' := releaseRecorded x.k (s.modStrand x.k (fun st => { st.leaveHandler rs with inLine := false }))
        match s'.strand x.k with
        | none => .ok s'
        | some st => if !st.allExited then .ok (owedTrap x.k st.launch s') else if mayEnd s' x.k then .ok (strandEnd x.k s') else .wait
/-- TRET (07 R168, 17 R335). -/
def execTret (h : Hdr) (s : State) : Result :=
  issue (.tret h) effTret s

/-! ## The other privileged instructions (07 R188) -/

def recTime (r : BitVec 1024) : Nat := (r.extractLsb' 448 64).toNat

/-- The later of two stop records. -/
def laterRec (a b : BitVec 1024) : BitVec 1024 := if recTime a ≤ recTime b then b else a

/-- The latest stop record of the unit that a selector names; 0 for none. -/
def stopRecOf (s : State) (p : PartId) (sel : Nat) : BitVec 1024 :=
  let st := (s.strands.filter (fun x => x.2.part == p && x.2.unit == sel)).map (fun x => x.2.stopRec)
  let un := ((s.part p).recs.filter (fun r => UnitId.selector s r.1 == sel && (match r.1 with
    | .strand _ => false
    | _ => true))).map (fun r => r.2)
  (st ++ un).foldl laterRec 0

def recWord {n : Nat} (r : BitVec n) (i : Nat) : Word := r.extractLsb' (32 * i) 32

def lowWord (s : State) (x : Iss) (p : Pos) : Nat := (readOpd s x (srcAt x.sh p) x.lead).toNat

def effStoprd (d : Opd) : Effect := fun x s =>
  .ok (answer x d (recWord (stopRecOf s x.st.part (lowWord s x .a)) (lowWord s x .b % 32)) s)
/-- STOPRD (07 R188, 17 R345, R347). -/
def execStoprd (h : Hdr) (d a b : Opd) (s : State) : Result :=
  issue (.stoprd h d a b) (effStoprd d) s

def effRegev : Effect := fun x s =>
  .ok ((s.postBy x.st.part (.strand x.k) (lowWord s x .a % 2 ^ 16) (lowWord s x .b)).modPart x.st.part (fun p => { p with irq := true }))
/-- REGEV (07 R188). -/
def execRegev (h : Hdr) (a b : Opd) (s : State) : Result :=
  issue (.regev h a b) effRegev s

/-- HALTL.set: the strand is the unit that raises the line, by no fault. -/
def softwareHalt (x : Iss) (s : State) : State :=
  if (s.part x.st.part).line.isSome then s
  else
    let info : StopInfo :=
      { flt := { cause := 0x33 }, issue := (nextPc x.pc).toNat, pc := x.pc.toNat, exm := (maskOf x.exm).toNat
        act := (maskOf x.act).toNat, loc := x.st.loc, unit := x.st.unit, ust := x.st.ust x.t0 }
    (s.raiseLine x.st.part 0x33 (some (.strand x.k))).putStop x.st.part (.strand x.k) (info.bits s.clk)

def effHaltl (clr : Bool) : Effect := fun x s =>
  .ok (if clr then s.clearLine x.st.part else softwareHalt x s)
/-- HALTL (07 R188, 17 R344, R349). -/
def execHaltl (h : Hdr) (clr : Bool) (s : State) : Result :=
  issue (.haltl h clr) (effHaltl clr) s

/-- Word `i` of an error record (18 R367). -/
def ErrRec.bits (r : ErrRec) : BitVec 1024 :=
  BitVec.ofNat 1024 (1 + at_ (r.unit.toNat / 2 ^ 28) 8 + at_ r.cls 16 + at_ r.action 24 + at_ r.result 28 + at_ (r.time % 2 ^ 64) 32
    + at_ r.unit.toNat 96 + at_ r.sseq 128 + at_ r.cons 160 + at_ (r.addr % 2 ^ 64) 192 + at_ r.detail 256)

def effErrlog (d : Opd) (pop : Bool) : Effect := fun x s =>
  let log := (s.part x.st.part).log
  if pop then .ok (answer x .zero 0 (s.modPart x.st.part (fun p => { p with log := { p.log with recs := p.log.recs.tail } })))
  else .ok (answer x d (match log.recs with
    | r :: _ => recWord r.bits (lowWord s x .a % 32)
    | [] => 0) s)
/-- ERRLOG (07 R188, 18 R367, R368). -/
def execErrlog (h : Hdr) (d a : Opd) (pop : Bool) (s : State) : Result :=
  issue (.errlog h d a pop) (effErrlog d pop) s

/-- The unit that a repair selector names for a partition (18 R364); log entry 33 for links and ports. -/
def repairUnit (s : State) (p : PartId) (sel : Word) : Option RUnit :=
  let site := fld sel 28 4
  let place := fld sel 20 8
  let index := fld sel 8 12
  let q := s.part p
  let own (ok : Bool) : Option RUnit := if ok then some ⟨some p, sel⟩ else none
  let pkg (ok : Bool) : Option RUnit := if ok then some ⟨none, sel⟩ else none
  if fld sel 0 8 ≠ 0 then none
  else match site with
    | 0 => own (decide (place < q.tiles ∧ index < 64))
    | 1 => own (decide (place < q.tiles ∧ index < 256))
    | 2 => own (decide (place < q.tiles ∧ index < 16))
    | 3 => pkg (decide (place < 8 ∧ index < 512) && !q.gran.isEmpty)
    | 4 => pkg (decide (place < 8 ∧ index < 64))
    | 5 => pkg (decide (place < 16 ∧ index < 64) && q.group.isSome)
    | 6 => pkg (decide (place < 20 ∧ index = 0))
    | _ => none

def effStest (d : Opd) : Effect := fun x s =>
  match repairUnit s x.st.part ((readOpd s x (srcAt x.sh .a) x.lead).truncate 32) with
  | none => .ok (answer x d 4 s)
  | some u =>
    let (n, s) := openTxn x 1 d s
    .ok (s.startTest x.st.part.pkg u [(n, d)] [])
/-- STEST (07 R188, 18 R364, R365). -/
def execStest (h : Hdr) (d a : Opd) (s : State) : Result :=
  issue (.stest h d a) (effStest d) s

def effTlbinv (part va : Bool) : Effect := fun x s =>
  let v := (readOpd s x (srcAt x.sh .a) x.lead).toNat
  let here (t : TileId) : Bool := if part then t.part == x.st.part else t == x.st.tileId
  let keep (t : TileId) (e : TlbE) : Bool := !(here t && (!va || e.covers x.st.ctx v))
  let die (d : Nat × Nat) : Bool := if part then d.1 == x.st.part.pkg else d == dieOf x.st.tileId
  let stays (d : Nat × Nat) (e : WalkE) : Bool :=
    !(die d && e.ctx.part == x.st.part && (!va || (e.ctx == x.st.ctx && e.va == v / 2 ^ e.sh)))
  .ok (answer x .zero 0 ((s.dropTlb keep).dropWalks stays))
/-- TLBINV (07 R188, 17 R342). -/
def execTlbinv (h : Hdr) (a : Opd) (part va : Bool) (s : State) : Result :=
  issue (.tlbinv h a part va) (effTlbinv part va) s

end Sys2Proof.Machine
end

