-- ==== Sys2Proof/Machine/Barriers.lean ====
section
/-! DEFINITION. The barrier units and the counters of the fabric switches (13 R286-R294), and the messages back to the lanes. -/

namespace Sys2Proof.Machine

/-! ## Order of messages (13 R288) -/

/-- A message at a barrier home or a counter. -/
structure BarMsg where
  n : Nat
  b : BarId
  txn : Nat
  strand : Nat
  cnt : Nat
  kind : BarKind
  pc : Pc
  lowt : Nat
  bid : Nat
  deriving DecidableEq, Repr

def BarKind.rank : BarKind → Nat
  | .bari .. => 0
  | .bard _ => 1
  | .bara .. | .barw _ => 2
  | .barq => 3

/-- What an arrival carries (13 R291). -/
def BarKind.before : BarKind → List Nat
  | .bard l | .bara _ l | .barw l => l
  | _ => []

def BarKind.drops : BarKind → Bool
  | .bard _ => true
  | _ => false

/-- Kind, then tile, lane and slot, and at a counter last package and partition, which R288 does not order (log entry 62); above 0,
which stands for no message. -/
def BarMsg.place (s : State) (m : BarMsg) : Nat :=
  match s.strand m.strand with
  | some st => 1 + at_ m.kind.rank 96 + at_ st.tile 64 + at_ st.lane 56 + at_ st.slot 48 + at_ (st.part.pkg % 512) 16 + st.part.pid % 256
  | none => 1 + at_ m.kind.rank 96

def insertBy {β : Type} (f : β → Nat) (x : β) : List β → List β
  | [] => [x]
  | y :: ys => if f x < f y then x :: y :: ys else y :: insertBy f x ys

def sortBy {β : Type} (f : β → Nat) : List β → List β
  | [] => []
  | x :: xs => insertBy f x (sortBy f xs)

/-- No two of the list are of one strand. -/
def distinctStrands : List BarMsg → Bool
  | [] => true
  | m :: ms => !(ms.any (fun n => n.strand == m.strand)) && distinctStrands ms

/-! ## Effects on the arriving strand -/

/-- PARG of a thread record in the trap frame. -/
def framePhase (im : List Host.Cell) (t phase : Nat) : List Host.Cell :=
  imagePut im 8 (0x2C0 + 8 * t) (imageGet im 8 (0x2C0 + 8 * t) % 2 ^ 29 + at_ phase 29)

def ThreadRec.phase (n phase : Nat) (r : ThreadRec) : ThreadRec :=
  if r.ptxn = n ∧ r.park = .barw then { r with parg := phase } else r

/-- The phase in which a BARW was counted becomes what its threads wait for, in every copy of their records (17 R335). -/
def notePhase (k n phase : Nat) (s : State) : State :=
  s.modStrand k (fun st => { st with
    threads := st.threads.map (fun th => if th.ptxn = n ∧ th.park = .barw then { th with parg := phase } else th)
    region := st.region.map (ThreadRec.phase n phase)
    ents := st.ents.map (fun e => { e with snap := e.snap.map (ThreadRec.phase n phase) })
    image := if st.framed then
        ((List.range 16).filter (fun t => st.frameTx.getD t 0 == n)).foldl (fun im t => framePhase im t phase) st.image
      else st.image })

/-- The threads of a refused BARW stay parked, and no completion releases them (13 R292). -/
def strandedBarw (k n : Nat) (s : State) : State :=
  (s.modTxn n (fun t => { t with left := 0 })).modStrand k (fun st => { st with
    threads := st.threads.map (fun th => if th.ptxn = n then { th with ptxn := 0 } else th)
    frameTx := st.frameTx.map (fun m => if m = n then 0 else m) })

/-- DETAIL of the over-arrival fault (17 R346). -/
def overDetail (bid phase exp count n : Nat) : BitVec 256 :=
  BitVec.ofNat 256 (bid + at_ (phase % 2 ^ 32) 32 + at_ exp 64 + at_ count 96 + at_ n 128)

/-- A refusal on its way to the strand; a BARA that waits for an answer gets none that writes. -/
def refuseArrival (m : BarMsg) (phase exp count : Nat) (s : State) : State :=
  let s := s.send (.barRefuse m.strand m.pc { cause := 0x0B, lowt := m.lowt, detail := overDetail m.bid phase exp count m.cnt })
  match m.kind with
  | .bara true _ => s.send (.result m.txn 0 [])
  | .barw _ => strandedBarw m.strand m.txn s
  | _ => s

/-- A counted arrival: BARW's threads learn their phase, BARA with D is answered. -/
def countedArrival (m : BarMsg) (phase : Nat) (s : State) : State :=
  match m.kind with
  | .bara true _ => s.send (.barAns m.txn (BitVec.ofNat 32 phase) false)
  | .barw _ => notePhase m.strand m.txn phase s
  | _ => s

/-! ## One message at a record (13 R287, R294) -/

/-- The counter that the launch record names for a key. -/
def domCtr (s : State) (b : BarId) : Option Nat :=
  match aget s.launches b.launch with
  | some l => if l.rcd.getLsbD (816 + b.key) then some (fld l.rcd (832 + 12 * b.key) 12) else none
  | none => none

/-- The completion of a phase reaches every member's lane, with what happens before its arrivals (13 R290, R291). -/
def releaseMembers (b : BarId) (phase : Nat) (before : List Nat) (s : State) : State :=
  (s.bandOf b.launch b.key).members.foldl (fun s k => s.send (.barRel k b.key phase before)) s

/-- What happens before the arrivals of completed phases, and is not performed yet. -/
def State.pastOf (s : State) (x : Band) (before : List Nat) : List Nat :=
  (x.past ++ before).eraseDups.filter (fun n => !s.opPerformed n)

/-- A message goes on to a counter under its own number, so that what waits for it to be applied goes on waiting (13 R291, R294). -/
def forward (ctr : Nat) (m : BarMsg) (s : State) : State :=
  { s with msgs := s.msgs ++ [(m.n, .dom ctr m.b m.txn m.strand m.cnt m.kind m.pc m.lowt m.bid)] }

def bandFault (m : BarMsg) (s : State) : State := s.send (.barAns m.txn 0 true)

/-- BARI at a record. One whose phases a counter counts is asked of that counter, which holds the arrivals of the current phase
(07 R173, 13 R294; log entry 24). BARI.dom writes EXP and DOM as it arrives, so that every later arrival is forwarded; what they were
is kept for the case that the counter finds a fault. -/
def applyBari (m : BarMsg) (count : Nat) (dom : Bool) (s : State) : State :=
  let band := s.bandOf m.b.launch m.b.key
  if band.count ≠ 0 then bandFault m s
  else if dom || band.dom then
    match domCtr s m.b with
    | some ctr => forward ctr m (if dom then s.modBand m.b.launch m.b.key (fun x =>
        { x with exp := count, dom := true, asked := aput x.asked m.txn (band.exp, band.dom) }) else s)
    | none => bandFault m s
  else (s.modBand m.b.launch m.b.key (fun x => { x with exp := count, dom := false })).send (.barAns m.txn 0 false)

/-- An arrival at a record whose phases it counts itself. -/
def applyArrival (m : BarMsg) (s : State) : State :=
  let band := s.bandOf m.b.launch m.b.key
  if band.exp < band.count + m.cnt then refuseArrival m band.phase band.exp band.count s
  else
    let count := band.count + m.cnt
    let drop := band.drop + if m.kind.drops then m.cnt else 0
    let before := band.before ++ m.kind.before
    let s := countedArrival m band.phase s
    if count = band.exp then
      (releaseMembers m.b band.phase before s).modBand m.b.launch m.b.key (fun x =>
        { x with exp := band.exp - drop, count := 0, drop := 0, phase := (band.phase + 1) % 2 ^ 32
                 before := [], past := s.pastOf x before })
    else s.modBand m.b.launch m.b.key (fun x => { x with count := count, drop := drop, before := before })

/-- BARQ's answer acquires every arrival of the phases completed (13 R290, R291). -/
def applyBarq (m : BarMsg) (s : State) : State :=
  let band := s.bandOf m.b.launch m.b.key
  (s.modStrand m.strand (fun st => { st with seen := st.seen ++ band.past.map (fun n => (0, n)) })).send
    (.barAns m.txn (BitVec.ofNat 32 band.phase) false)

def applyBar (m : BarMsg) (s : State) : State :=
  let s := s.dropMsg m.n
  let band := s.bandOf m.b.launch m.b.key
  if band.members.isEmpty || band.bid != m.bid then (if m.txn = 0 then s else s.send (.result m.txn 0 []))
  else match m.kind with
    | .bari count dom => applyBari m count dom s
    | .barq => applyBarq m s
    | _ =>
      if band.dom then
        match domCtr s m.b with
        | some ctr => forward ctr m s
        | none => s
      else applyArrival m s

/-- The messages named, in the order of R288, or none where one does not stand at the record (`f`), or is not the first of its
strand at the home (`g`), or comes after one applied in the same cycle that it ought to precede. -/
def barMsgs (s : State) (f g : Nat → Msg → Option BarMsg) (now lastAt lastBy : Nat) (ns : List Nat) : Option (List BarMsg) :=
  let pick (n : Nat) : Option BarMsg := (aget s.msgs n).bind (f n)
  let all := s.msgs.filterMap (fun m => g m.1 m.2)
  let ms := ns.filterMap pick
  if ms.length = ns.length ∧ ns ≠ [] ∧ distinctStrands ms ∧
      ms.all (fun m => all.all (fun o => !(o.strand == m.strand && decide (o.n < m.n)))
        && !(lastAt == now && decide (m.place s ≤ lastBy))) then
    some (sortBy (BarMsg.place s) ms)
  else none

/-- The place of the last message of a list in the order of its cycle. -/
def lastPlace (s : State) (ms : List BarMsg) : Nat := ms.foldl (fun _ m => m.place s) 0

def asBar (b : BarId) (n : Nat) : Msg → Option BarMsg
  | .bar b' txn k c kind pc lowt bid => if b' = b then some ⟨n, b, txn, k, c, kind, pc, lowt, bid⟩ else none
  | _ => none

/-- A message on its way to the home of a launch's records, which is one for all its keys (13 R286). -/
def asHome (l n : Nat) : Msg → Option BarMsg
  | .bar b txn k c kind pc lowt bid => if b.launch = l then some ⟨n, b, txn, k, c, kind, pc, lowt, bid⟩ else none
  | _ => none

/-- The cycle that the home of a launch's records is in. -/
def barCycle (s : State) (b : BarId) : Nat :=
  match aget s.launches b.launch with
  | some l => s.cycle l.ctx.part
  | none => 0

/-- Messages that reach a record's home in one cycle. -/
def evBarrierMessage (b : BarId) (ns : List Nat) (s : State) : Option State :=
  let band := s.bandOf b.launch b.key
  (barMsgs s (asBar b) (asHome b.launch) (barCycle s b) band.lastAt band.lastBy ns).map (fun ms =>
    (ms.foldl (fun s m => applyBar m s) s).modBand b.launch b.key (fun x =>
      { x with lastAt := barCycle s b, lastBy := lastPlace s ms }))
/-- BARRIER_MESSAGE (13 R287, R288). -/
def execBarrierMessage (b : BarId) (ns : List Nat) (s : State) : Result :=
  event (evBarrierMessage b ns) s

/-! ## The counters of the switches (13 R294) -/

def State.modDom (s : State) (ctr : Nat) (f : DomCtr → DomCtr) : State := { s with domCtrs := amodD s.domCtrs ctr {} f }

/-- A record takes back the EXP and DOM that it had before a BARI.dom in which its counter finds a fault. -/
def Band.unasked (txn : Nat) (x : Band) : Band :=
  match aget x.asked txn with
  | some (exp, dom) => { x with exp := exp, dom := dom, asked := adel x.asked txn }
  | none => x

def domFault (m : BarMsg) (s : State) : State := bandFault m (s.modBand m.b.launch m.b.key (Band.unasked m.txn))

/-- A BARI at a counter; one that nobody uses starts afresh. Whatever DOM holds, arrivals of the current phase make it a fault (07
R173); a plain BARI takes the record from the counter and counts there again, where the record too holds no arrival. -/
def domBari (ctr : Nat) (m : BarMsg) (count : Nat) (dom : Bool) (s : State) : State :=
  let c0 := agetD s.domCtrs ctr {}
  let c : DomCtr := if c0.users.isEmpty then {} else c0
  if c.count ≠ 0 then domFault m s
  else if !dom then
    if (s.bandOf m.b.launch m.b.key).count ≠ 0 then domFault m s
    else ((s.modDom ctr (fun c => { c with users := c.users.filter (fun b => b != m.b) })).modBand m.b.launch m.b.key (fun x =>
      { x with exp := count, dom := false })).send (.barAns m.txn 0 false)
  else if !c.setIn || c.exp == count then
    let users := if c.users.contains m.b then c.users else c.users ++ [m.b]
    let s := s.modDom ctr (fun _ => { c with exp := count, setIn := true, users := users })
    (s.modBand m.b.launch m.b.key (fun x => { x with asked := adel x.asked m.txn })).send (.barAns m.txn 0 false)
  else domFault m s

def domArrival (ctr : Nat) (m : BarMsg) (s : State) : State :=
  let c := agetD s.domCtrs ctr {}
  if c.exp < c.count + m.cnt then refuseArrival m c.phase c.exp c.count s
  else
    let count := c.count + m.cnt
    let drop := c.drop + if m.kind.drops then m.cnt else 0
    let before := c.before ++ m.kind.before
    let s := countedArrival m c.phase s
    if count = c.exp then
      (c.users.foldl (fun s b => s.send (.domPhase ctr b c.phase (c.exp - drop) before)) s).modDom ctr (fun c =>
        { c with exp := c.exp - drop, count := 0, drop := 0, setIn := false, phase := (c.phase + 1) % 2 ^ 32, before := [] })
    else s.modDom ctr (fun c => { c with count := count, drop := drop, before := before })

def applyDom (ctr : Nat) (m : BarMsg) (s : State) : State :=
  let s := s.dropMsg m.n
  match m.kind with
  | .bari count dom => domBari ctr m count dom s
  | .barq => s
  | _ => domArrival ctr m s

def asDom (ctr n : Nat) : Msg → Option BarMsg
  | .dom c b txn k cnt kind pc lowt bid => if c = ctr then some ⟨n, b, txn, k, cnt, kind, pc, lowt, bid⟩ else none
  | _ => none

/-- A BARI reaches the counter after the completions that it has sent to the record have arrived, so that the record's PHASE is the
counter's (DEDUCED: log entry 24). -/
def phasesOut (s : State) (ctr : Nat) (b : BarId) : Bool :=
  s.msgs.any (fun m => match m.2 with
    | .domPhase c b' .. => c == ctr && b' == b
    | _ => false)

def bariBehindPhase (s : State) (ctr : Nat) (ns : List Nat) : Bool :=
  ns.any (fun n => match aget s.msgs n with
    | some (.dom _ b _ _ _ (.bari _ _) ..) => phasesOut s ctr b
    | _ => false)

def evDomainCounterMessage (ctr : Nat) (ns : List Nat) (s : State) : Option State :=
  let c := agetD s.domCtrs ctr {}
  if bariBehindPhase s ctr ns then none
  else (barMsgs s (asDom ctr) (asDom ctr) s.clk c.lastAt c.lastBy ns).bind (fun ms => (s.arriveAll ns).map (fun s =>
    (ms.foldl (fun s m => applyDom ctr m s) s).modDom ctr (fun c => { c with lastAt := s.clk, lastBy := lastPlace s ms })))
/-- DOMAIN_COUNTER_MESSAGE (13 R294, R287, R288). -/
def execDomainCounterMessage (ctr : Nat) (ns : List Nat) (s : State) : Result :=
  event (evDomainCounterMessage ctr ns) s

/-- The multicast of a completion reaches a home: it releases its threads and updates its record. A record that no counter counts for has
been made anew since, and is left alone (13 R282). -/
def evDomainPhaseMulticast (n : Nat) (s : State) : Option State :=
  match aget s.msgs n with
  | some (.domPhase _ b phase exp before) =>
    (s.arrives n).map (fun s =>
    let s := s.dropMsg n
    if !(s.bandOf b.launch b.key).dom then s
    else (releaseMembers b phase before s).modBand b.launch b.key (fun x =>
      { x with exp := if x.asked.isEmpty then exp else x.exp, count := 0, drop := 0, phase := (phase + 1) % 2 ^ 32
               past := s.pastOf x before }))
  | _ => none
/-- DOMAIN_PHASE_MULTICAST (13 R294). -/
def execDomainPhaseMulticast (n : Nat) (s : State) : Result :=
  event (evDomainPhaseMulticast n) s

/-! ## Back at the lanes (13 R290, R292, R293) -/

/-- A completion reaches a lane (13 R290, R293; 17 R344, R355). -/
def evBarrierRelease (n : Nat) (s : State) : Option State :=
  match aget s.msgs n with
  | some (.barRel k key phase before) =>
    some ((completionArrives k key phase before (s.dropMsg n)).unparkBranch k)
  | _ => none
/-- BARRIER_RELEASE (13 R290, R293). -/
def execBarrierRelease (n : Nat) (s : State) : Result :=
  event (evBarrierRelease n) s

/-- An answer of a home: a fault of BARI, or D. -/
def evBarrierAnswer (n : Nat) (s : State) : Option State :=
  match aget s.msgs n with
  | some (.barAns txn v band) =>
    let s' := s.dropMsg n
    if band then some (faultBack txn { cause := 0x0A } s')
    else match aget s.txns txn with
      | none => some s'
      | some t => some (unparkOwner txn s (landResult txn (resultWords t.dst false t.act (v.zeroExtend 64)) s'))
  | _ => none
/-- BARRIER_ANSWER (07 R173, 13 R290). -/
def execBarrierAnswer (n : Nat) (s : State) : Result :=
  event (evBarrierAnswer n) s

def evOverArrivalRefusal (n : Nat) (s : State) : Option State :=
  match aget s.msgs n with
  | some (.barRefuse k pc f) => some ((s.dropMsg n).impreciseFault k f pc)
  | _ => none
/-- OVER_ARRIVAL_REFUSAL (13 R292). -/
def execOverArrivalRefusal (n : Nat) (s : State) : Result :=
  event (evOverArrivalRefusal n) s

end Sys2Proof.Machine
end

