-- ==== Sys2Proof/Machine/Blocks.lean ====
section
/-! DEFINITION. The block instructions, group 0x6 (06 R149-R158). -/

namespace Sys2Proof.Machine

/-- The format fault: operand code, header and STEP (06 R152, 17 R346). -/
def formatFault (opnd : BitVec 8) (hdr step : Nat) : Flt :=
  { cause := 0x11, detail := BitVec.ofNat 256 (opnd.toNat + at_ (hdr % 65536) 8 + at_ step 24) }

def headLine (ls : List (List Word)) : Line := lineOfWords (ls.headD [])

/-- The header of a line as a number. -/
def hdrBits (b : Line) : Nat := (b.extractLsb' 0 16).toNat

/-- One word to every active thread, or once to a uniform destination (06 R153, R158). -/
def giveWord (x : Iss) (v : Word) (s : State) : State := writeRows x (x.act.map (fun t => (t, w32 v))) s

def effBlkh : Effect := fun x s =>
  .ok (giveWord x (blkStatus (lineOfWords (readLine s x (srcAt x.sh .a) 0))) s)
/-- BLKH (06 R153). -/
def execBlkh (h : Hdr) (d a : Opd) (s : State) : Result :=
  issue (.blkh h d a) effBlkh s

/-- A line with its first sixteen bits replaced (06 R154). -/
def setHdr (b : Line) (h : Nat) : Line := (b &&& ~~~(0xFFFF#512)) ||| BitVec.ofNat 512 (h % 65536)

/-- The check of `.chk` names the operand code of B, which holds the header that failed (log entry 13). -/
def effBlkhw (b : Opd) (chk : Bool) : Effect := lineEff (fun ls w =>
  let h := w.toNat % 65536
  if chk && fmtReserved (h % 64) then .error (formatFault (Decode.opdCode b) h 1)
  else .ok [wordsOfLine (setHdr (headLine ls) h)])
/-- BLKHW (06 R154). -/
def execBlkhw (h : Hdr) (d a b : Opd) (chk : Bool) (s : State) : Result :=
  issue (.blkhw h d a b chk) (effBlkhw b chk) s

def effBlkpack (ty : Ty) (rm : Rm) (sat esc i4 : Bool) : Effect := fun x =>
  lineEff (fun ls w => match pack ty i4 with
    | some pf => .ok [wordsOfLine (packBlock pf (x.st.rounding rm) sat esc w.toNat ls.flatten)]
    | none => .error { cause := 1 }) x
/-- BLKPACK (06 R155, R156). -/
def execBlkpack (h : Hdr) (d a b : Opd) (ty : Ty) (rm : Rm) (sat esc i4 : Bool) (s : State) : Result :=
  issue (.blkpack h d a b ty rm sat esc i4) (effBlkpack ty rm sat esc i4) s

/-- Words in lines of sixteen. -/
def chunk16 : Nat → List Word → List (List Word)
  | 0, _ => []
  | n + 1, ws => ws.take 16 :: chunk16 n (ws.drop 16)

def effBlkunp (a : Opd) (cnt : BitVec 3) (rm : Rm) (sat : Bool) : Effect := fun x =>
  lineEff (fun ls _ => match unpackBlock (x.st.rounding rm) sat (16 * (cnt.toNat + 1)) (headLine ls) with
    | some ws => .ok (chunk16 (cnt.toNat + 1) ws)
    | none => .error (formatFault (Decode.opdCode a) (hdrBits (headLine ls)) 1)) x
/-- BLKUNP (06 R157). -/
def execBlkunp (h : Hdr) (d a : Opd) (cnt : BitVec 3) (rm : Rm) (sat : Bool) (s : State) : Result :=
  issue (.blkunp h d a cnt rm sat) (effBlkunp a cnt rm sat) s

def effBlkscl (a : Opd) (fit : Bool) (ty : Ty) (sat i4 : Bool) : Effect := fun x s =>
  if fit then
    match pack ty i4 with
    | some pf => .ok (giveWord x (BitVec.ofNat 32 (fitTemplate pf (readLines s x (srcAt x.sh .a)).flatten)) s)
    | none => .stop { cause := 1 }
  else lineEff (fun ls w => match blkAdjust (headLine ls) w.toInt sat with
    | some b => .ok [wordsOfLine b]
    | none => .error (formatFault (Decode.opdCode a) (hdrBits (headLine ls)) 1)) x s
/-- BLKSCL (06 R158). -/
def execBlkscl (h : Hdr) (d a b : Opd) (fit : Bool) (ty : Ty) (sat i4 : Bool) (s : State) : Result :=
  issue (.blkscl h d a b fit ty sat i4) (effBlkscl a fit ty sat i4) s

end Sys2Proof.Machine
end

