-- ==== Sys2Proof/Machine/Fetch.lean ====
section
/-! DEFINITION. How instructions and register lines reach a lane (04 R79-R87, 01 R30), and the ends of times that run in it
(01 R23, 07 R161, R165, R175). -/

namespace Sys2Proof.Machine

/-! ## Fetch lines (04 R79-R82, R86, R87) -/

/-- Slot `k` of a line. -/
def slotOf (b : Line) (k : Nat) : Slot := b.extractLsb' (32 + 96 * k) 96

def parity {n : Nat} (x : BitVec n) : Bool := ((List.range n).filter (fun i => x.getLsbD i)).length % 2 == 1

/-- Every slot agrees with its parity bit. -/
def parityOk (b : Line) : Bool := [0, 1, 2, 3, 4].all (fun k => parity (slotOf b k) == b.getLsbD (8 + k))

/-- A pair is legal by its second slot, which holds an instruction (04 R96 rows 1, 3 and 4). -/
def pairOk (b : Line) (k : Nat) : Bool :=
  !b.getLsbD k &&
  (match decode (slotOf b k) with
    | .ok i => (match shape i, Instr.hdr? i with
      | some sh, some h => sh.uniformClass && h.after == 0 && Instr.legal i
      | _, _ => false)
    | .error _ => false)

/-- The checks of a line as a whole. -/
def lineOk (b : Line) : Bool :=
  fld b 13 3 == 0 && fld b 16 4 == 0 && fld b 20 12 == 0 &&
  [0, 1, 2, 3].all (fun k => !pairFirst (fld b 5 3) k || pairOk b (k + 1))

/-! ## What a strand waits for -/

/-- The instruction of a slot of a fetched line. -/
def fetchedInstr (s : State) (st : Strand) (pc : Pc) : Option (Except Reject Instr) :=
  (s.fetched st pc).map (fun f => decode (slotOf f.data (slotPc pc)))

/-- The instruction at a strand's issue address, where its line has been fetched. -/
def nextInstr (s : State) (st : Strand) : Option Instr :=
  match st.issueAddr with
  | none => none
  | some pc => match fetchedInstr s st pc with
    | some (.ok i) => some i
    | _ => none

/-- The targets that a checked branch at `pc` has for its active threads (04 R85). -/
def branchTargets (s : State) (k : Nat) (i : Instr) : List Pc :=
  match issueOf i { s with cur := k } with
  | none => []
  | some x => match i with
    | .bra _ off slot | .call _ off slot | .bpend _ off slot _ _ _ => if x.act.isEmpty then [] else [branchTarget x.pc off slot]
    | .brx .. | .callx .. => (match regTargets s x with
      | .ok ts => ts.map (fun p => p.2)
      | .error _ => [])
    | _ => []

/-- The addresses whose lines a strand waits for: its issue address, or the targets of the branch there. -/
def wantedLines (s : State) (k : Nat) (st : Strand) : List Pc :=
  match st.issueAddr with
  | none => []
  | some pc =>
    let ts := match nextInstr s st with
      | some i => branchTargets s k i
      | none => []
    (pc :: ts).filter (fun p => (s.fetched st p).isNone)

/-- The register lines that a strand's next instruction and its oldest entry name and its lane does not hold. -/
def wantedRegLines (s : State) (k : Nat) (st : Strand) : List Nat :=
  let of (i : Option Instr) : List Nat := match i.bind (fun i => shape i) with
    | some sh => sh.namedLocs ++ sh.windowLocs st
    | none => []
  let entry := match st.ents with
    | e :: _ => (match decode e.inst with
      | .ok i => some i
      | .error _ => none)
    | [] => none
  ((of (nextInstr s st) ++ of entry).filter (fun l => !lineHeld s k st l)).map lineOfLoc

/-! ## LINE_FETCH (04 R81, R82; 18 R362, R363) -/

/-- A fault that meets a strand at its issue address, before any instruction issues. -/
def State.issueFault (s : State) (k : Nat) (f : Flt) : State :=
  match s.strand k with
  | none => s
  | some st =>
    let pc := (st.issueAddr).getD 0
    let ex := st.executing pc
    s.preciseFault k { f with lowt := ex.headD 0 } pc ex ex

/-- The bank of a tile's cache that a line lies in. -/
def cacheBank (st : Strand) (line : Nat) : RUnit := ⟨some st.part, repairSel 2 st.tile (line / 64 % 16)⟩

/-- Every cached copy of a line on a tile is discarded: in the tile's cache and in its lanes' buffers (04 R81). -/
def discardLine (t : TileId) (key : Nat) (s : State) : State :=
  let s := s.modTile t (fun x => { x with copies := adel x.copies key })
  { s with lanes := s.lanes.map (fun x =>
      if x.1.tile = t then (x.1, { x.2 with buf := x.2.buf.filter (fun f => f.key != key) }) else x) }

/-- A line with its parities right enters the buffer. One whose parities are wrong is refetched once from its home, which reads it as
any access does: none while the word is being tested. -/
def enterLine (k : Nat) (st : Strand) (pc : Pc) (key : Nat) (b : Line) (s : State) : Option State :=
  let put (b : Line) (s : State) : State :=
    s.modLane st.laneId (fun l => { l with
      buf := l.buf ++ [{ launch := st.launch, va := (linePc pc).toNat, data := b, bad := !lineOk b, key := key }] })
  if parityOk b then some (put b s)
  else if s.testing (.word key) then none
  else match (discardLine st.tileId key s).consume (.word key) false st.unit st.part with
    | (s, .stop c) => some (s.issueFault k { cause := c, addr := pc.toNat })
    | (s, .ok) =>
      let again := s.lineAt key
      if parityOk again then some (put again (s.detect st.part.pkg (cacheBank st key) [st.part] 5 1 (key % 2 ^ 45) 0 0))
      else some ((s.detect st.part.pkg (cacheBank st key) [st.part] 5 3 (key % 2 ^ 45) st.unit 0).issueFault k
        { cause := 0x20, addr := pc.toNat })

def evLineFetch (k : Nat) (s : State) : Option State :=
  match s.strand k with
  | none => none
  | some st =>
    if !st.runs s then none
    else match wantedLines s k st with
      | [] => none
      | pc :: _ => match checkFetch s st pc with
        | .walk _ => none
        | .stop c =>
          if some (linePc pc) = (st.issueAddr).map linePc then some (s.issueFault k { cause := c, addr := (linePc pc).toNat }) else none
        | .at_ (.image _) => none
        | .at_ (.mem key0 _ _) =>
          let key := lineKey key0
          if !remoteAllowed s st.part (homeOf st.part st.tile key) key then
            some (s.issueFault k { cause := 0x10, addr := (linePc pc).toNat })
          else
          match aget (s.tile st.tileId).copies key with
          | some c =>
            if s.testing (.copy st.tileId key) then none
            else (match s.consume (.copy st.tileId key) false st.unit st.part with
              | (s, .stop c) => some (s.issueFault k { cause := c, addr := pc.toNat })
              | (s, .ok) => enterLine k st pc key c.data s)
          | none =>
            if s.testing (.word key) then none
            else match s.consume (.word key) false st.unit st.part with
              | (s, .stop c) => some (s.issueFault k { cause := c, addr := pc.toNat })
              | (s, .ok) => enterLine k st pc key (s.lineAt key) s
/-- LINE_FETCH (04 R81, R82). -/
def execLineFetch (k : Nat) (s : State) : Result :=
  event (evLineFetch k) s

/-! ## REGISTER_LINE_FILL (01 R30) -/

/-- A line comes into the lane's cache, where one has its place there it is replaced; none while every line is pinned. -/
def fillLine (k line : Nat) (l : LaneId) (now : Nat) (s : State) : Option State :=
  (makeRoom l 1 now 1 s).map (fun s =>
    s.modLane l (fun x => { x with lines := x.lines ++ [({ strand := k, line := line, used := now } : HeldLine)] }))

def evRegisterLineFill (k line : Nat) (s : State) : Option State :=
  match s.strand k with
  | none => none
  | some st =>
    if st.status ≠ .resident ∨ !(wantedRegLines s k st).contains line ∨ s.testing (.reg k line) then none
    else fillLine k line st.laneId (s.cycle st.part) s
/-- REGISTER_LINE_FILL (01 R30). -/
def execRegisterLineFill (k line : Nat) (s : State) : Result :=
  event (evRegisterLineFill k line) s

/-! ## Return stacks and times (01 R23; 07 R161, R165, R175) -/

def evReturnStackFill (k : Nat) (s : State) : Option State :=
  match s.strand k with
  | none => none
  | some st =>
    if !st.stackBusy && !(st.threads.any Thread.needsFill) then none
    else some (s.modStrand k (fun st => { st with
      stackBusy := false
      threads := st.threads.map (fun th => if th.needsFill then { th with inLane := min 4 th.depth } else th) }))
/-- RETURN_STACK_FILL (07 R161). -/
def execReturnStackFill (k : Nat) (s : State) : Result :=
  event (evReturnStackFill k) s

/-- Fixed-latency completions that are due leave the counts, and residual tags that are due leave (01 R23, 02 R44). -/
def evFixedLatencyCompletion (k : Nat) (s : State) : Option State :=
  match s.strand k with
  | none => none
  | some st =>
    let now := s.cycle st.part
    let due := st.timers.filter (fun c => decide (c.1 ≤ now))
    if due.isEmpty && st.rtags.all (fun r => decide (now < r.1)) then none
    else some ((s.modStrand k (fun st => ({ st with
      flags := due.foldl (fun fs c => lset fs c.2 (fun n => n - 1)) st.flags
      timers := st.timers.filter (fun c => decide (now < c.1))
      rtags := st.rtags.filter (fun r => decide (now < r.1)) } : Strand).follow now)).unparkBranch k)
/-- FIXED_LATENCY_COMPLETION (01 R23, R36, 02 R44). -/
def execFixedLatencyCompletion (k : Nat) (s : State) : Result :=
  event (evFixedLatencyCompletion k) s

/-- A thread's NAP has run out. -/
def Strand.napDue (st : Strand) (t now : Nat) : Bool :=
  let th := st.thread t
  st.status == .resident && th.st == .parked && th.park == .nap && decide (th.parg ≤ now)

def evNapExpiry (k t : Nat) (s : State) : Option State :=
  match s.strand k with
  | none => none
  | some st => if st.napDue t (s.cycle st.part) then some (s.modStrand k (fun st => st.modThread t Thread.release)) else none
/-- NAP_EXPIRY (07 R165). -/
def execNapExpiry (k t : Nat) (s : State) : Result :=
  event (evNapExpiry k t) s

def evDozeTimeout (k : Nat) (s : State) : Option State :=
  match s.strand k with
  | none => none
  | some st =>
    if st.status ≠ .resident ∨ s.lineHolds st ∨ (dozers st (s.cycle st.part)).isEmpty then none
    else some ((dozeCheck k s).unparkBranch k)
/-- DOZE_TIMEOUT (07 R175, 14 R298). -/
def execDozeTimeout (k : Nat) (s : State) : Result :=
  event (evDozeTimeout k) s

end Sys2Proof.Machine
end

