-- ==== Sys2Proof/Machine/Watches.lean ====
section
/-! DEFINITION. Homes and copies seen from outside an instruction: the events of pending operations, invalidations and fills
(10 R242, R260; 11 R262-R270), of watches (14 R298-R304), and the snare (14 R307). -/

namespace Sys2Proof.Machine

/-! ## Operations at homes -/

/-- HOME_ACCEPT (11 R262, 08 R211, 14 R299). -/
def execHomeAccept (n : Nat) (s : State) : Result :=
  event (evHomeAccept n) s
/-- PENDING_REWRITE (11 R265, R266). -/
def execPendingRewrite (hm : Home) (pos : Nat) (rw : Rewrite) (s : State) : Result :=
  event (evPendingRewrite hm pos rw) s
/-- HOME_APPLY (11 R270, 14 R300). -/
def execHomeApply (hm : Home) (s : State) : Result :=
  event (evHomeApply hm) s
/-- INVALIDATION_ARRIVAL (10 R242). -/
def execInvalidationArrival (n : Nat) (s : State) : Result :=
  event (evInvalidationArrival n) s
/-- TILE_CACHE_FILL (10 R242). -/
def execTileCacheFill (n : Nat) (s : State) : Result :=
  event (evTileCacheFill n) s
/-- INVALIDATION_ACKNOWLEDGEMENT (10 R240, R242). -/
def execInvalidationAcknowledgement (n : Nat) (s : State) : Result :=
  event (evInvalidationAcknowledgement n) s
/-- IMPRECISE_FAULT_REPORT (08 R192, 18 R363). -/
def execImpreciseFaultReport (n : Nat) (s : State) : Result :=
  event (evImpreciseFaultReport n) s
/-- WATCH_ARM (14 R299, R303). -/
def execWatchArm (hm : Home) (s : State) : Result :=
  event (evWatchArm hm) s

/-! ## A slot's messages at its lane (14 R298) -/

/-- A slot changed where it still holds the arm; then the DOZEs on it are looked at. -/
def slotMsg (k slot arm : Nat) (f : Watch → Watch) (s : State) : State :=
  match s.strand k with
  | none => s
  | some st =>
    if st.status = .ended ∨ (st.watch.getD slot {}).arm ≠ arm then s
    else (dozeCheck k (s.modStrand k (fun st => { st with watch := lset st.watch slot f }))).unparkBranch k

/-- The acknowledgement of an arm that its home has taken. -/
def Watch.acked (satisfied refused again : Bool) (w : Watch) : Watch :=
  if refused then { w with st := .disarmed }
  else if satisfied then { w with st := .satisfied }
  else { w with st := if w.st = .arming then .armed else w.st, resumed := w.resumed || again }

/-- The acknowledgement of an arm completes its WATCH, a refused one too: 08 R192 keeps the flag of a refused operation up, 07 R174 and
14 R299 complete a WATCH at its home's acknowledgement, and which holds is the model's choice (log entry 62). -/
def evArmAck (n : Nat) (s : State) : Option State :=
  match aget s.msgs n with
  | some (.armAck k slot arm satisfied refused again f _) =>
    (s.arrives n).map (fun s =>
    let pc := match aget s.txns arm with
      | some t => t.pc
      | none => ((s.strand k).bind (fun st => st.issueAddr)).getD 0
    let alive := match s.strand k with
      | some st => st.status != .ended
      | none => false
    let s := unparkOwner arm s (landResult arm [] (s.dropMsg n))
    let s := s.modStrand k (fun st => { st with rearms := st.rearms.filter (fun a => a != arm) })
    let s := dozeCheck k (slotMsg k slot arm (Watch.acked satisfied refused again) s)
    if refused && alive then s.impreciseFault k f pc else s)
  | _ => none
/-- ARM_ACK (14 R298, R299, R305). -/
def execArmAck (n : Nat) (s : State) : Result :=
  event (evArmAck n) s

/-- A wake waits until its write has been performed (14 R300), and for the earlier wakes of its home to the same lane (18 R369). -/
def evWakeMessage (n : Nat) (s : State) : Option State :=
  match aget s.msgs n with
  | some (.wake k slot arm op home) =>
    let laneOf (k : Nat) : Option LaneId := (s.strand k).map (fun st => st.laneId)
    if !s.opPerformed op || s.msgs.any (fun m => match m.2 with
        | .wake k' _ _ _ h => decide (m.1 < n) && h == home && laneOf k' == laneOf k
        | _ => false) then none
    else (s.arrives n).map (fun s =>
      slotMsg k slot arm (fun w => if w.st = .armed ∨ w.st = .arming then { w with st := .satisfied } else w) (s.dropMsg n))
  | _ => none
/-- WAKE_MESSAGE (14 R298, R300). -/
def execWakeMessage (n : Nat) (s : State) : Result :=
  event (evWakeMessage n) s

def evEvictionMessage (n : Nat) (s : State) : Option State :=
  match aget s.msgs n with
  | some (.evict k slot arm _) =>
    (s.arrives n).map (fun s => slotMsg k slot arm (fun w => { w with st := .disarmed, evicted := true }) (s.dropMsg n))
  | _ => none
/-- EVICTION_MESSAGE (14 R298, R303). -/
def execEvictionMessage (n : Nat) (s : State) : Result :=
  event (evEvictionMessage n) s

/-- An entry of one arm of a slot is taken out of its table. -/
def withdrawEntry (k slot arm : Nat) (s : State) : State :=
  { s with homes := s.homes.map (fun h => (h.1, { h.2 with
      table := h.2.table.filter (fun e => !(e.strand == some k && e.slot == slot && e.arm == arm)) })) }

def evDisarmAck (n : Nat) (s : State) : Option State :=
  match aget s.msgs n with
  | some (.disarm txn k slot arm) => some (unparkOwner txn s (landResult txn [] (withdrawEntry k slot arm (s.dropMsg n))))
  | _ => none
/-- DISARM_ACK (07 R176). -/
def execDisarmAck (n : Nat) (s : State) : Result :=
  event (evDisarmAck n) s

/-! ## The host's side (08 R199; 10 R260; 14 R304; 19 R372) -/

/-- A write-back of a modified host-homed line is acknowledged. -/
def evHostWritebackAck (n : Nat) (s : State) : Option State :=
  match aget s.msgs n with
  | some (.writeback txn tile line drop) =>
    let s' := (s.dropMsg n).modTile tile (fun t => { t with
      copies := if drop then adel t.copies line else amod t.copies line (fun c => { c with modified := false }) })
    some (unparkOwner txn s (landResult txn [] s'))
  | _ => none
/-- HOST_WRITEBACK_ACK (08 R199). -/
def execHostWritebackAck (n : Nat) (s : State) : Result :=
  event (evHostWritebackAck n) s

/-- Where a host access goes: through a virtual function to near memory of its partition's slice, granule by granule in ascending
order; to the host's own memory, whose addresses count from the base of Ops.lean; through the physical function nowhere. -/
def hostPlace (s : State) (pkg : Nat) : HostFn → Nat → Option (Nat × Home)
  | .own, addr => if hostBase ≤ addr then some (addr, .hostLine pkg) else none
  | .vf pid, off => ((s.part ⟨pkg, pid⟩).gran[off / (10 * gb)]?).map (fun g =>
      let a := 10 * gb * g + off % (10 * gb)
      (devKey pkg a, devHome pkg a))
  | .pf, _ => none

/-- The selector that records use for the host link, of which 18 R364 has none (log entry 63). -/
def hostUnit : RUnit := ⟨none, repairSel 7 0 0⟩

/-- The number that bytes stand for, byte 0 lowest. -/
def bytesNat : List (BitVec 8) → Nat
  | [] => 0
  | b :: bs => b.toNat + 256 * bytesNat bs

/-- The context under which an access of the host is applied: it belongs to none, and carries the partition of its function. -/
def hostCtx (pkg : Nat) : HostFn → CtxId
  | .vf pid => ⟨⟨pkg, pid⟩, 0⟩
  | _ => ⟨⟨pkg, 0⟩, 0⟩

/-- An access of the host takes its place after what its home has accepted on the same bytes (10 R248, R260), and waits while the host link
is tested. A failed lane of the link is tested as a fabric port's is (19 R375). -/
def evHostMemAccess (pkg : Nat) (acc : HostAcc) (s : State) : Option State :=
  if (s.testOf pkg hostUnit).isSome then none
  else match acc with
  | .laneFault => if (aget s.pkgs pkg).isNone then none else some (s.detect pkg hostUnit [] 4 2 0 0 0)
  | .write fn addr bytes =>
    if bytes.length = 0 ∨ 64 < addr % 64 + bytes.length then none
    else (hostPlace s pkg fn addr).bind (fun k =>
      if !s.settledAt k.2 k.1 bytes.length || s.testing (.word (lineKey k.1)) then none
      else some (bareWrite (hostCtx pkg fn) k.2 k.1 bytes.length (bytesNat bytes) s).2)
  | .read fn addr size =>
    if size = 0 ∨ 64 < addr % 64 + size then none
    else (hostPlace s pkg fn addr).bind (fun k =>
      let line := lineKey k.1
      if !s.settledAt k.2 k.1 size || s.testing (.word line) then none
      else match k.2 with
      | .hostLine _ => some (s.unmodify none line)
      | _ =>
        let s := s.glance (.word line)
        some { s with hostHeld := if s.hostHeld.contains line then s.hostHeld else line :: s.hostHeld })
/-- HOST_MEM_ACCESS (10 R260, 14 R300, 19 R371, R372, R375). -/
def execHostMemAccess (pkg : Nat) (acc : HostAcc) (s : State) : Result :=
  event (evHostMemAccess pkg acc) s

/-- Strands whose DOZE may be released after a change of their slots. -/
def dozeAll (ks : List Nat) (s : State) : State := ks.foldl (fun s k => dozeCheck k s) s

/-- The strands with entries on a host-homed line. -/
def lineWatchers (s : State) (pkg line : Nat) : List Nat :=
  ((s.home (.hostLine pkg)).table.filter (fun e => lineKey e.addr == line)).filterMap (fun e => e.strand)

def evBackInvalidation (pkg line : Nat) (s : State) : Option State :=
  if !(s.pkg pkg).hostCopies.contains line then none
  else some (dozeAll (lineWatchers s pkg line) (backInvalidate pkg line s))
/-- BACK_INVALIDATION (14 R304). -/
def execBackInvalidation (pkg line : Nat) (s : State) : Result :=
  event (evBackInvalidation pkg line) s

def evHostLineRefetch (pkg line : Nat) (s : State) : Option State :=
  if (s.pkg pkg).hostCopies.contains line || (lineWatchers s pkg line).isEmpty then none
  else some (watchCopy (.hostLine pkg) line s)
/-- HOST_LINE_REFETCH (14 R304). -/
def execHostLineRefetch (pkg line : Nat) (s : State) : Result :=
  event (evHostLineRefetch pkg line) s

/-! ## The snare (14 R307) -/

/-- A strand with live threads that waits on a flag, on an unsettled location or for ordered entries. -/
def waitsInside (s : State) (st : Strand) : Bool :=
  let now := s.cycle st.part
  match nextInstr s st with
  | none => false
  | some i => match shape i, Instr.hdr? i with
    | some sh, some h =>
      let unsettled := st.deferring && (sh.srcLocs st ++ sh.dstLocs st).any (fun l => st.tagged l now)
      (!waitClear st h now && (!st.deferring || !sh.deferrable))
        || (match sh.cls with
            | .precise => !st.ents.isEmpty
            | .stateOrdered => st.orderedEnts || unsettled
            | .plain => unsettled
            | _ => false)
    | _, _ => false

/-- A parked thread that something outside may release, or a time. -/
def parkedLive (s : State) (st : Strand) (th : Thread) : Bool :=
  th.st == .parked && (match th.park with
    | .nap => true
    | .doze => th.parg != 0 || (slotsOf th.psel).any (fun n =>
        let w := st.watch.getD n {}
        w.outside && (w.st == .arming || w.st == .armed))
    | .barw => (s.bandOf st.launch th.psel).dom
    | _ => false)

/-- The class of a strand with a live or a parked thread: internal, or else live. -/
def internalWait (s : State) (st : Strand) : Bool :=
  if st.repl ∨ st.threads.any (parkedLive s st) then false
  else if st.liveThreads = [] then true
  else if st.status ≠ .resident then false
  else waitsInside s st

def lNstr (r : BitVec 1024) : Nat := fld r 356 28
def lSnlog (r : BitVec 1024) : Nat := fld r 295 5

/-- A strand of the launch is on its lane. -/
def Launch.onLane (s : State) (l : Launch) : Bool :=
  l.live.any (fun k => match s.strand k with
    | some st => st.status == .resident
    | none => false)

/-- The snare interval of a context: of its launches with a strand resident or still to be created. -/
def snareInterval (s : State) (c : CtxId) : Nat :=
  let ls := s.launches.filter (fun l => l.2.ctx == c && (l.2.onLane s || (l.2.st == .creating && decide (l.2.nextSid < lNstr l.2.rcd))))
  (ls.map (fun l => 2 ^ (if lSnlog l.2.rcd = 0 then 30 else lSnlog l.2.rcd))).foldl (fun m v => match m with
    | none => some v
    | some w => some (min v w)) none |>.getD (2 ^ 30)

/-- What the snare writes for an internal strand: its lowest parked thread's condition. -/
def snareStrand (k : Nat) (s : State) : State :=
  match s.strand k with
  | none => s
  | some st =>
    let parked := (List.range 16).filter (fun t => (st.thread t).st == .parked)
    let now := s.cycle st.part
    let d := match parked with
      | t :: _ => let th := st.thread t; th.park.code + at_ (th.psel % 16) 3 + at_ (th.left now % 2 ^ 32) 32
      | [] => 0
    let pc := (st.issueAddr).getD (st.thread (parked.headD 0)).pc
    let info : StopInfo :=
      { flt := { cause := 0x34, lowt := parked.headD 0, detail := BitVec.ofNat 256 d }, issue := (st.issueAddr.getD 0).toNat
        pc := pc.toNat, exm := (maskOf (st.executing pc)).toNat, act := (maskOf parked).toNat, loc := st.loc, unit := st.unit
        ust := st.ust now }
    let s := s.putStop st.part (.strand k) (info.bits s.clk)
    if st.priv || parked.isEmpty || st.status != .resident then s
    else (s.modPart st.part (fun q => { q with originators := q.originators ++ [k] })).modStrand k (fun st =>
      { st with orig := some (4, 0x34, maskOf parked) })

def evSnare (c : CtxId) (s : State) : Option State :=
  if (s.part c.part).line.isSome || ((s.ctx c).st != 1 && (s.ctx c).st != 2) || decide ((s.ctx c).snare < snareInterval s c) then none
  else
    let ks := (s.strands.filter (fun x => x.2.ctx == c && x.2.status != .ended && !x.2.allExited && internalWait s x.2)).map (fun x => x.1)
    some (ks.foldl (fun s k => snareStrand k s) ((s.raiseLine c.part 0x34 none).modCtx c (fun x => { x with snare := 0 })))
/-- SNARE (14 R307, 17 R348). -/
def execSnare (c : CtxId) (s : State) : Result :=
  event (evSnare c) s

end Sys2Proof.Machine
end

