-- ==== Sys2Proof/Machine/Launches.lean ====
section
/-! DEFINITION. Launch queues and records, LAUNCH, strands from records, job slices and their completion (07 R172; 16 R319-R331),
and strands that come back to a lane (17 R337, R355, R357). -/

namespace Sys2Proof.Machine

/-! ## The record (16 R322) -/

abbrev Rcd := BitVec 1024

def rType (r : Rcd) : Nat := fld r 0 4
def rDet (r : Rcd) : Bool := r.getLsbD 8
def rIntr (r : Rcd) : Bool := r.getLsbD 9
def rAlgv (r : Rcd) : Bool := r.getLsbD 10
def rDrv (r : Rcd) : Bool := r.getLsbD 11
def rDrnds (r : Rcd) : Nat := fld r 12 3
def rTag (r : Rcd) : Nat := fld r 16 32
def rSucc (r : Rcd) (j : Nat) : Nat := fld r (208 + 8 * j) 8
def rNsucc (r : Rcd) : Nat := fld r 272 4
def rNpred (r : Rcd) : Nat := fld r 276 4
def rNode (r : Rcd) : Nat := fld r 280 8
def rSpl (r : Rcd) : Nat := fld r 300 4
def rNtile (r : Rcd) : Nat := fld r 304 8
def rTile0 (r : Rcd) : Nat := fld r 312 8
def rMode0 (r : Rcd) : Nat := fld r 320 12
def rUregs (r : Rcd) : Nat := fld r 338 6
def rVregs (r : Rcd) : Nat := fld r 344 8
def rLastt (r : Rcd) : Nat := fld r 352 4
def rPaddr (r : Rcd) : Nat := fld r 392 56
def rBudget (r : Rcd) : Nat := fld r 448 64
def rDeadline (r : Rcd) : Nat := fld r 512 64
def rArg (r : Rcd) : Dword := r.extractLsb' 576 64
def rCaddr (r : Rcd) : Nat := fld r 640 56
def rEntry (r : Rcd) : Nat := fld r 696 56
def rTvec (r : Rcd) : Nat := fld r 760 56
def rDctrv (r : Rcd) (key : Nat) : Bool := r.getLsbD (816 + key)

/-- The strands of the launch's placement (16 R324). -/
def placeTile (r : Rcd) (sid : Nat) : Nat := rTile0 r + sid / (64 * rSpl r) % rNtile r
def placeLane (r : Rcd) (sid : Nat) : Nat := sid / rSpl r % 64

/-- Zero fields, and fields that the type does not use (16 R322). -/
def zeroFields (r : Rcd) (node : Bool) : List (Nat × Nat) :=
  [(752, 8), (384, 8), (332, 6), (288, 7), (48, 160), (15, 1), (4, 4)] ++
  (match rType r with
    | 1 => if node then [(10, 5)] else [(208, 80), (10, 5)]
    | 2 => [(760, 264), (208, 432)]
    | _ => [(760, 264), (448, 192), (288, 104), (208, 72), (10, 5), (8, 1)])

def modeOk (r : Rcd) : Bool :=
  let q := rMode0 r % 64
  q != 0 && decide (q < 33) && rMode0 r / 2 ^ 8 % 8 == 0

/-- The checks of a compute record or a node, CAUSE 1 to 6 (16 R323). Log entry 34 for a rounding code above 3. -/
def computeCause (s : State) (p : PartId) (own : Bool) (det : Bool) (r : Rcd) (node : Bool) : Option Nat :=
  if (zeroFields r node).any (fun z => fld r z.1 z.2 != 0) then some 1
  else if rVregs r = 0 ∨ 192 < rVregs r ∨ 48 < rUregs r ∨ (lSnlog r ≠ 0 ∧ (lSnlog r < 20 ∨ 31 < lSnlog r)) ∨ rSpl r = 0 ∨ 8 < rSpl r
      ∨ rNtile r = 0 ∨ 192 < rNtile r ∨ lNstr r = 0 ∨ rCaddr r % 32 ≠ 0 ∨ rPaddr r % 32 ≠ 0 ∨ !modeOk r then some 2
  else if (s.part p).tiles < rTile0 r + rNtile r then some 3
  else if rBudget r = 0 ∧ !own then some 4
  else if (rDet r || det) ∧ rNtile r * 64 * rSpl r < lNstr r then some 5
  else if (List.range 16).any (fun k => rDctrv r k && !allotted s p (fld r (832 + 12 * k) 12)) then some 6
  else none
where
  /-- Counters allotted to a partition by its enrolment (19 R379, log entry 35). -/
  allotted (s : State) (p : PartId) (ctr : Nat) : Bool :=
    match (s.part p).group with
    | some g => ctr / 64 == g % 64
    | none => false

/-- The nodes of a graph as a list of records, or none where the array cannot be read. -/
def readRcd (s : State) (c : CtxId) (va : Nat) : Option Rcd :=
  match ioAddr s c .rd va, ioAddr s c .rd (va + 64) with
  | .key k _, .key k' _ => some (BitVec.ofNat 1024 (s.read 64 k + at_ (s.read 64 k') 512))
  | _, _ => none

/-- A place of device memory in its package's form. -/
def devPlace (key : Nat) : Nat × Home := (key, devHome (key / 2 ^ 45) (key % 2 ^ 45))

/-- Words that the launch scheduler reads or writes: none of them is tested, and nothing that was accepted is pending on them. -/
def State.quietAt (s : State) (size : Nat) (ks : List (Nat × Home)) : Bool :=
  ks.all (fun p => !s.testing (.word (lineKey p.1))) && placesSettled s size ks

/-- The table entries and the lines that a read of `n` lines at a virtual address takes on the I/O die. -/
def linesQuiet (s : State) (c : CtxId) (va n : Nat) : Bool :=
  (List.range n).all (fun i => s.quietAt 8 (ioReads s c (va + 64 * i)) && (match ioAddr s c .rd (va + 64 * i) with
    | .key k h => s.quietAt 64 [(k, h)]
    | _ => true))

/-- What the check of a record reads besides it. -/
def recordQuiet (s : State) (c : CtxId) (r : Rcd) : Bool :=
  match rType r with
  | 2 => !rAlgv r || linesQuiet s c (rEntry r) 2
  | 3 => linesQuiet s c (rEntry r) (2 * (rNode r + 1))
  | _ => true

/-- Writes of 32 bytes at virtual addresses of a context find their places quiet. -/
def writesQuiet (s : State) (c : CtxId) (vas : List Nat) : Bool :=
  vas.all (fun va => s.quietAt 8 (ioReads s c va) && (match ioAddr s c .w va with
    | .key k h => s.quietAt 32 [(k, h)]
    | _ => true))

/-! ### What the launch scheduler meets as it reads and writes (18 R360-R363)

A read of the scheduler is none of the consumers of 18 R363, so an error stops nothing there and its detection says so; one that a walk of
its meets acts as a translation fault would; a write that covers part of an uncorrectable word is refused, and the scheduler is the
consumer that is stopped. -/

/-- The walk for an address; whether it can end. -/
def schedWalk (c : CtxId) (va : Nat) (s : State) : State × Bool :=
  match s.consumeAll (((ioReads s c va).map (fun p => Site.word (lineKey p.1))).eraseDups) (UnitId.selector s .launcher) c.part with
  | (s, .ok) => (s, true)
  | (s, .stop _) => (s, false)

/-- The line at a virtual address is read. -/
def schedLine (c : CtxId) (va : Nat) (s : State) : State :=
  match ioAddr s c .rd va with
  | .key k _ => s.glance (.word (lineKey k))
  | _ => s

/-- `n` lines from a virtual address on are read; whether their walks end. -/
def schedLines (c : CtxId) (va : Nat) : Nat → State → State × Bool
  | 0, s => (s, true)
  | n + 1, s => match schedWalk c va s with
    | (s, false) => (s, false)
    | (s, true) => schedLines c (va + 64) n (schedLine c va s)

/-- What the check of a record reads besides it; whether it can be read. -/
def recordReads (c : CtxId) (r : Rcd) (s : State) : State × Bool :=
  match rType r with
  | 2 => if rAlgv r then schedLines c (rEntry r) 2 s else (s, true)
  | 3 => schedLines c (rEntry r) (2 * (rNode r + 1)) s
  | _ => (s, true)

/-- The scheduler is stopped with a fault of its own: the line rises. -/
def launcherFault (p : PartId) (cause : Nat) (s : State) : State :=
  let f : Flt := { cause := cause }
  let info : StopInfo := { flt := f, unit := UnitId.selector s .launcher, coinc := f.coinc }
  (s.raiseLine p cause (some .launcher)).putStop p .launcher (info.bits s.clk)

def readNodes (s : State) (c : CtxId) (va : Nat) : Nat → Option (List Rcd)
  | 0 => some []
  | n + 1 => match readRcd s c va, readNodes s c (va + 128) n with
    | some r, some rs => some (r :: rs)
    | _, _ => none

def succs (r : Rcd) : List Nat := (List.range (rNsucc r)).map (rSucc r)
def preds (ns : List Rcd) (i : Nat) : List Nat :=
  (List.range ns.length).filter (fun j => match ns[j]? with
    | some r => (succs r).contains i
    | none => false)

/-- Nodes with no predecessor left are taken away, `fuel` times: nothing stays when there is no cycle. -/
def peel (ns : List Rcd) : Nat → List Nat → List Nat
  | 0, left => left
  | fuel + 1, left => peel ns fuel (left.filter (fun i => (preds ns i).any (fun j => left.contains j)))

/-- CAUSE 7. -/
def graphBad (ns : List Rcd) : Bool :=
  let ix := (List.range ns.length).zip ns
  ns.any (fun r => rType r != 1 || rCaddr r != 0 || rPaddr r != 0 || rIntr r || decide (8 < rNsucc r) || decide (8 < rNpred r)
    || (succs r).any (fun i => decide (ns.length ≤ i)))
  || ix.any (fun p => rNpred p.2 != (ns.flatMap succs).countP (fun i => i == p.1))
  || ns.countP (fun r => rNsucc r == 0) != 1
  || !(peel ns ns.length (List.range ns.length)).isEmpty

def firstCause (f : Rcd → Option Nat) : List Rcd → Option Nat
  | [] => none
  | r :: rs => match f r, firstCause f rs with
    | some a, some b => some (min a b)
    | some a, none => some a
    | none, o => o

/-- The check of a record for a queue (16 R323); for a graph its nodes are read, where they can be. -/
def recordCause (s : State) (p : PartId) (c : CtxId) (own : Bool) (r : Rcd) (readable : Bool := true) : Option Nat :=
  let det := (s.ctx c).det
  match rType r with
  | 1 => computeCause s p own det r false
  | 2 =>
    if (zeroFields r false).any (fun z => fld r z.1 z.2 != 0) ∨ (rDrv r ∧ 3 < rDrnds r) then some 1
    else if rCaddr r % 32 ≠ 0 then some 2
    else if !rAlgv r then none
    else match (if readable then readRcd s c (rEntry r) else none) with
      | some t => if (algCheck t).isSome then some 8 else none
      | none => some 8
  | 3 =>
    if (zeroFields r false).any (fun z => fld r z.1 z.2 != 0) then some 1
    else if rCaddr r % 32 ≠ 0 ∨ rPaddr r % 32 ≠ 0 then some 2
    else if rEntry r % 128 ≠ 0 then some 7
    else match (if readable then readNodes s c (rEntry r) (rNode r + 1) else none) with
      | none => some 7
      | some ns =>
        if ns.any (fun n => rType n != 1) then some 7
        else match firstCause (fun n => computeCause s p own det n true) ns with
          | some k => some k
          | none => if graphBad ns then some 7 else none
  | _ => some 1

/-! ## Queues (16 R320, R321) -/

def qEn (d : BitVec 128) : Bool := d.getLsbD 0
def qDevf (d : BitVec 128) : Bool := d.getLsbD 2
def qOwn (d : BitVec 128) : Bool := d.getLsbD 3
def qCtx (d : BitVec 128) : Nat := fld d 4 2
def qSize (d : BitVec 128) : Nat := 2 ^ (fld d 12 4 + 4)
def qBase (d : BitVec 128) : Nat := fld d 16 56
def qTaddr (d : BitVec 128) : Nat := fld d 72 56

def State.queue (s : State) (p : PartId) (q : Nat) : BitVec 128 := agetD (s.part p).queues q 0#128
def State.setQueue (s : State) (p : PartId) (q : Nat) (d : BitVec 128) : State :=
  s.modPart p (fun x => { x with queues := aput x.queues q d })

def tailKey (p : PartId) (d : BitVec 128) : Nat := devKey p.pkg (qTaddr d)
def headKey (p : PartId) (d : BitVec 128) : Nat := devKey p.pkg (qTaddr d + 4)
def State.qTail (s : State) (p : PartId) (d : BitVec 128) : Nat := s.read 4 (tailKey p d)
def State.qHead (s : State) (p : PartId) (d : BitVec 128) : Nat := s.read 4 (headKey p d)
def State.qHeld (s : State) (p : PartId) (d : BitVec 128) : Nat := (s.qTail p d + 2 ^ 32 - s.qHead p d) % 2 ^ 32
def slotKey (p : PartId) (d : BitVec 128) (i : Nat) : Nat := devKey p.pkg (qBase d + 128 * (i % qSize d))

/-- The tail and head words of a queue, and the place of the record at its head or tail. -/
def queueQuiet (s : State) (p : PartId) (d : BitVec 128) (i : Nat) : Bool :=
  s.quietAt 4 [devPlace (tailKey p d), devPlace (headKey p d)]
    && s.quietAt 64 [devPlace (slotKey p d i), devPlace (slotKey p d i + 64)]

/-- A write of a scheduler to device memory. -/
def devWrite (c : CtxId) (key size v : Nat) (s : State) : List Nat × State :=
  bareWrite c (devHome (key / 2 ^ 45) (key % 2 ^ 45)) key size v s

def advanceHead (p : PartId) (c : CtxId) (d : BitVec 128) (s : State) : State :=
  (devWrite c (headKey p d) 4 ((s.qHead p d + 1) % 2 ^ 32) s).2

/-- The record copied to the tail, and the tail advanced. -/
def enqueueRcd (p : PartId) (c : CtxId) (d : BitVec 128) (r : Rcd) (s : State) : State :=
  let t := s.qTail p d
  let k := slotKey p d t
  let s := (devWrite c k 64 (fld r 0 512) s).2
  let s := (devWrite c (k + 64) 64 (fld r 512 512) s).2
  (devWrite c (tailKey p d) 4 ((t + 1) % 2 ^ 32) s).2

/-- A store or atomic of the strand to the record has not been applied. -/
def recordBusy (s : State) (k key : Nat) : Bool :=
  s.ops.any (fun o => o.2.strand == k && o.2.opr != 0 && o.2.stage != .applied && decide (o.2.addr < key + 128 ∧ key < o.2.addr + o.2.size))

/-- The words that LAUNCH reads and writes besides its record. -/
def launchQuiet (s : State) (p : PartId) (q : Nat) (r : Rcd) : Bool :=
  let desc := s.queue p q
  decide (16 ≤ q) || !qEn desc || !qDevf desc
    || (queueQuiet s p desc (s.qTail p desc) && recordQuiet s ⟨p, qCtx desc⟩ r)

/-- What LAUNCH does with a record it has read (07 R172). An error in the queue's tail word stops it (18 R363). -/
def launchRecord (x : Iss) (d : Opd) (va q : Nat) (r : Rcd) (s : State) : State :=
  let p := x.st.part
  let desc := s.queue p q
  let c : CtxId := ⟨p, qCtx desc⟩
  if 16 ≤ q ∨ !qEn desc ∨ !qDevf desc then answer x d 2 s
  else match recordReads c r s with
    | (s, readable) =>
      if (recordCause s p c (qOwn desc) r readable).isSome then answer x d 2 s
      else match s.consume (.word (lineKey (tailKey p desc))) false x.st.unit p with
        | (s, .stop cause) => reportAt x d va { cause := cause } s
        | (s, .ok) => if s.qHeld p desc = qSize desc then answer x d 1 s else answer x d 0 (enqueueRcd p c desc r s)

/-- LAUNCH reads its record with acquire order, so that it comes after earlier acquires and fences (07 R172, 10 R250). A record in the
strand's own image raises the address fault: the model's choice (log entry 21). -/
def effLaunch (d : Opd) : Effect := fun x s =>
  let va := readOpd s x (srcAt x.sh .a) x.lead
  let q := lowWord s x .b
  let bad (c : Nat) : Eff := .stop { cause := c, addr := va.toNat, lowt := x.lead }
  match checkAddr s x.st .rd va 128 with
  | .walk v => .walk v
  | .stop c => bad c
  | .at_ (.image _) => bad 0x0E
  | .at_ (.mem key _ tile) =>
    let r : Rcd := BitVec.ofNat 1024 (s.read 128 key)
    if !memGate s x || recordBusy s x.k key || !launchQuiet s x.st.part q r then .wait
    else match pairRead x tile key s with
      | none => .wait
      | some (s, some f) => .ok (reportAt x d va.toNat f s)
      | some (s, none) => .ok (launchRecord x d va.toNat q r (readsPair x (some .pkg) key s))
/-- LAUNCH (07 R172, 16 R321, R323). -/
def execLaunch (h : Hdr) (d a b : Opd) (s : State) : Result :=
  issue (.launch h d a b) (effLaunch d) s

/-! ## Descriptor writes (16 R320, 14 R297) -/

/-- Entries of a pseudo-channel that are reserved for launch queues, and room for one more. -/
def reserveWatch (p : PartId) (q : Nat) (d : BitVec 128) (s : State) : Option State :=
  let h := devHome p.pkg (qTaddr d)
  if decide (16 ≤ (s.home h).reserved.length) then none
  else some (s.modHome h (fun x => { x with reserved := x.reserved ++ [(p, q)] }))

def releaseWatch (p : PartId) (q : Nat) (s : State) : State :=
  let s : State := { s with homes := s.homes.map (fun h => (h.1, { h.2 with reserved := h.2.reserved.filter (fun e => e != (p, q)) })) }
  s.modPart p (fun x => { x with polled := x.polled.filter (fun n => n != q) })

/-- Every field as it can be written. -/
def descFields (d : BitVec 128) : BitVec 128 := d &&& ~~~(0xFC2#128)

def descOk (s : State) (p : PartId) (d : BitVec 128) : Bool :=
  let own (a : Nat) : Bool := decide (a < 2 ^ 43) && (s.part p).owns a
  qTaddr d % 8 == 0 && own (qTaddr d) && own (qTaddr d + 4) && own (qBase d) && own (qBase d + 128 * qSize d - 1)

/-- OWN is the physical function's: a write through a virtual function leaves it as it was. -/
def ownBit (vf : Bool) (old new : BitVec 128) : BitVec 128 := if vf then (new &&& ~~~8#128) ||| (old &&& 8#128) else new

def evQueueEnable (p : PartId) (q : Nat) (desc : DescWrite) (s : State) : Option State :=
  if (aget s.parts p).isNone || decide (16 ≤ q) || !qEn desc.bits || qEn (s.queue p q) then none
  else
    let d := descFields (ownBit desc.vf (s.queue p q) desc.bits)
    if !descOk s p d then some ((s.setQueue p q (d &&& ~~~1#128)).postBy p .launcher 0x8011 q)
    else
      let s := s.setQueue p q d
      match reserveWatch p q d s with
      | some s => some s
      | none => some ((s.modPart p (fun x => { x with polled := x.polled ++ [q] })).postBy p .launcher 0x8010 q)
/-- QUEUE_ENABLE (16 R320, 14 R297). -/
def execQueueEnable (p : PartId) (q : Nat) (desc : DescWrite) (s : State) : Result :=
  event (evQueueEnable p q desc) s

def evQueueDisable (p : PartId) (q : Nat) (s : State) : Option State :=
  if !qEn (s.queue p q) then none
  else some (releaseWatch p q (s.setQueue p q (s.queue p q &&& ~~~1#128)))
/-- QUEUE_DISABLE (16 R320). -/
def execQueueDisable (p : PartId) (q : Nat) (s : State) : Result :=
  event (evQueueDisable p q) s

/-- A polled queue goes back to being watched as soon as an entry is free (14 R297). -/
def evTailPoll (p : PartId) (q : Nat) (s : State) : Option State :=
  if !(s.part p).polled.contains q then none
  else (reserveWatch p q (s.queue p q) s).map (fun s => s.modPart p (fun x => { x with polled := x.polled.filter (fun n => n != q) }))
/-- TAIL_POLL (14 R297). -/
def execTailPoll (p : PartId) (q : Nat) (s : State) : Result :=
  event (evTailPoll p q) s

/-! ## Completion records (16 R330) -/

structure Done where
  start : Nat := 0
  used : Nat := 0
  cause : Nat := 0
  miss : Bool := false
  status : Nat := 0

def Done.bits (d : Done) (now tag : Nat) : Nat :=
  d.status + at_ d.miss.toNat 3 + at_ d.cause 16 + at_ tag 32 + at_ (d.used % 2 ^ 64) 64 + at_ (d.start % 2 ^ 64) 128 + at_ (now % 2 ^ 64) 192

/-- A record of 32 bytes at a virtual address of a context: the writes that are not performed, or none where it is not written, since a
check fails, a declared buffer that does not admit the write among them (08 R211, 12 R279), or an error in the word stops the scheduler
(18 R363). -/
def putRecord (c : CtxId) (va v : Nat) (s : State) : State × Option (List Nat) :=
  match schedWalk c va s with
  | (s, false) => (s, none)
  | (s, true) => match ioAddr s c .w va with
    | .key k h =>
      if (placeRefused s c false (k, h)).isSome then (s, none)
      else (match s.consume (.word (lineKey k)) false (UnitId.selector s .launcher) c.part with
        | (s, .stop cause) => (launcherFault c.part cause s, none)
        | (s, .ok) => let w := bareWrite c h k 32 v (s.numbered c.part .launcher); (w.2, some w.1))
    | _ => (s, none)

/-- The completion record of `r`, as far as it is asked for. -/
def Done.record (d : Done) (r : Rcd) (now : Nat) : Option (BitVec 256) :=
  if rCaddr r = 0 ∨ rCaddr r % 32 ≠ 0 then none else some (BitVec.ofNat 256 (d.bits now (rTag r)))

/-- What has retired has its record and its events left: SLICE_RETIRE delivers them, in the order of the retirements. Its number is the
place in that order; `ws` are writes that the record's release covers. -/
def closing (c : CtxId) (q : Nat) (r : Rcd) (d : Done) (ws : List Nat) (s : State) : State :=
  let (n, s) := s.newId
  { s with launches := s.launches ++ [(n, ({ ctx := c, queue := q, rcd := r, st := .retired, waits := ws
                                             record := d.record r s.clk } : Launch))] }

/-! ## Taking a record (16 R321, R323, R326, R327) -/

/-- A queue's record is taken, and its strands are not all created; or its graph has not ended. -/
def queueBlocked (s : State) (p : PartId) (q : Nat) : Bool :=
  s.launches.any (fun l => l.2.ctx.part == p && l.2.queue == q && l.2.node.isNone && (l.2.st == .taken || l.2.st == .creating))
  || s.graphs.any (fun g => g.2.ctx.part == p && g.2.queue == q)

def schedRuns (s : State) (c : CtxId) : Bool :=
  (s.part c.part).line.isNone && (s.ctx c).st == 1 && (s.pkg c.part.pkg).powered

/-- A graph and its nodes, all waiting to be chosen. -/
def takeGraph (c : CtxId) (q : Nat) (r : Rcd) (ns : List Rcd) (s : State) : State :=
  let (g, s) := s.newId
  let s : State := { s with graphs := s.graphs ++ [(g, ({ ctx := c, queue := q, rcd := r, nodes := ns } : Graph))] }
  ((List.range ns.length).zip ns).foldl (fun s p =>
    let (n, s) := s.newId
    { s with launches := s.launches ++ [(n, ({ ctx := c, queue := q, rcd := p.2, node := some (g, p.1), st := .taken } : Launch))] }) s

/-- What the scheduler reads as it takes the record at a queue's head: the record, what its check reads, and the line of the head word,
which it also writes and an error in which stops it. -/
def takeReads (p : PartId) (c : CtxId) (d : BitVec 128) (r : Rcd) (s : State) : State × Except Nat Bool :=
  let k := slotKey p d (s.qHead p d)
  match s.consume (.word (lineKey (headKey p d))) false (UnitId.selector s .launcher) p with
  | (s, .stop cause) => (s, .error cause)
  | (s, .ok) =>
    let r := recordReads c r (s.glanceAll [.word (lineKey k), .word (lineKey (k + 64))])
    (r.1, .ok r.2)

def evLaunchRecordTake (p : PartId) (q : Nat) (s : State) : Option State :=
  let d := s.queue p q
  let c : CtxId := ⟨p, qCtx d⟩
  let r : Rcd := BitVec.ofNat 1024 (s.read 128 (slotKey p d (s.qHead p d)))
  if !qEn d || !schedRuns s c || queueBlocked s p q || s.qHeld p d == 0 || !queueQuiet s p d (s.qHead p d) || !recordQuiet s c r then none
  else match takeReads p c d r s with
  | (s, .error cause) => some (launcherFault p cause s)
  | (s, .ok readable) =>
    match (if qDevf d then none else recordCause s p c (qOwn d) r readable) with
    | some cause => some (closing c q r { cause := cause, status := 1 } [] (advanceHead p c d s))
    | none => match rType r with
      | 2 => none
      | 3 => some (match (if readable then readNodes s c (rEntry r) (rNode r + 1) else none) with
        | some ns => takeGraph c q r ns (advanceHead p c d s)
        | none => closing c q r { cause := 7, status := 1 } [] (advanceHead p c d s))
      | _ =>
        let (n, s) := (advanceHead p c d s).newId
        some { s with launches := s.launches ++ [(n, ({ ctx := c, queue := q, rcd := r, st := .taken } : Launch))] }
/-- LAUNCH_RECORD_TAKE (16 R321, R323). -/
def execLaunchRecordTake (p : PartId) (q : Nat) (s : State) : Result :=
  event (evLaunchRecordTake p q) s

/-- A launch of the context is running, or has strands to create. -/
def ctxBusy (s : State) (c : CtxId) : Bool :=
  s.launches.any (fun l => l.2.ctx == c && l.2.st != .retired && l.2.st != .taken)
  || s.graphs.any (fun g => g.2.ctx == c && !g.2.began.isEmpty)

def evModeSetApply (p : PartId) (q : Nat) (s : State) : Option State :=
  let d := s.queue p q
  let c : CtxId := ⟨p, qCtx d⟩
  let r : Rcd := BitVec.ofNat 1024 (s.read 128 (slotKey p d (s.qHead p d)))
  if !qEn d || !schedRuns s c || queueBlocked s p q || s.qHeld p d == 0 || ctxBusy s c || !queueQuiet s p d (s.qHead p d)
      || !recordQuiet s c r then none
  else
    if rType r ≠ 2 ∨ (!qDevf d && (recordCause s p c (qOwn d) r).isSome) ∨ (rAlgv r ∧ s.genHeld c (((s.ctx c).gen + 1) % 16)) then none
    else match takeReads p c d r s with
    | (s, .error cause) => some (launcherFault p cause s)
    | (s, .ok readable) =>
      let table := if rAlgv r ∧ readable then readRcd s c (rEntry r) else none
      if rAlgv r ∧ table.isNone then some (closing c q r { cause := 8, status := 1 } [] (advanceHead p c d s))
      else
        let s := (advanceHead p c d s).modCtx c (fun x =>
          let x := match table with
            | some t => x.install t
            | none => x
          { x with det := rDet r, drnd := if rDrv r then rDrnds r else x.drnd })
        some (closing c q r { start := s.clk } [] s)
/-- MODE_SET_APPLY (16 R326). -/
def execModeSetApply (p : PartId) (q : Nat) (s : State) : Result :=
  event (evModeSetApply p q) s

/-! ## Slots of lanes (16 R324, R327) -/

def laneOf (l : Launch) (sid : Nat) : LaneId := ⟨⟨l.ctx.part, placeTile l.rcd sid⟩, placeLane l.rcd sid⟩

def slotTaken (s : State) (l : LaneId) (n : Nat) : Bool :=
  s.strands.any (fun x => x.2.laneId == l && x.2.slot == n && x.2.status == .resident)

def freeSlots (s : State) (l : LaneId) : List Nat := (List.range 8).filter (fun n => !slotTaken s l n)

/-- The generation that the slot would have is still carried by an outstanding write (01 R33). -/
def genCarried (s : State) (l : LaneId) (slot gen : Nat) : Bool :=
  s.txns.any (fun t => t.2.gen == gen && decide (0 < t.2.left) && !t.2.locs.isEmpty && t.2.place == some (l, slot))

def nextGen (s : State) (l : LaneId) (slot : Nat) : Nat := ((s.lane l).gens.getD slot 0 + 1) % 65536

/-- The lowest free slot of a lane, when it may be granted. -/
def grant (s : State) (l : LaneId) : Option (Nat × Nat) :=
  match freeSlots s l with
  | [] => none
  | n :: _ => let g := nextGen s l n; if genCarried s l n g then none else some (n, g)

/-- Every strand of a deterministic launch finds a slot. -/
def allFit (s : State) (l : Launch) (sids : List Nat) : Bool :=
  sids.all (fun a => decide ((sids.filter (fun b => laneOf l b == laneOf l a)).length ≤ (freeSlots s (laneOf l a)).length))

def launchDet (s : State) (l : Launch) : Bool := rDet l.rcd || (s.ctx l.ctx).det

/-- The strands of a slice that are saved, by sid. -/
def savedStrands (s : State) (l : Launch) : List (Nat × Nat × Strand) :=
  sortBy (fun x => x.1) (l.live.filterMap (fun k => (s.strand k).bind (fun st => if st.status = .saved then some (st.sid, k, st) else none)))

/-! ## Choosing (16 R327) -/

/-- A slice pre-empted by the scheduler and wholly saved, with strands left or still to be created: a candidate again. -/
def preempted (s : State) (l : Launch) : Bool :=
  l.knell.isSome && (l.st == .creating || (l.st == .running && !l.live.isEmpty)) && (savedStrands s l).length == l.live.length

def predsDone (s : State) (l : Launch) : Bool :=
  match l.node with
  | none => true
  | some (g, i) => match aget s.graphs g with
    | some gr => gr.ended.isNone && (preds gr.nodes i).all (fun j => gr.retired.contains j)
    | none => false

def candidates (s : State) (p : PartId) : List (Nat × Launch) :=
  s.launches.filter (fun l => l.2.ctx.part == p && schedRuns s l.2.ctx && ((l.2.st == .taken && predsDone s l.2) || preempted s l.2))

/-- The strand whose lane a candidate that is not deterministic needs a slot of: strand 0, the first of those that come back, or the
next to be created. -/
def firstSid (s : State) (l : Launch) : Nat :=
  if l.st = .taken then 0
  else match savedStrands s l with
    | x :: _ => x.1
    | [] => l.nextSid

def startable (s : State) (l : Launch) : Bool :=
  if launchDet s l then
    allFit s l (if l.st = .taken then List.range (lNstr l.rcd) else (savedStrands s l).map (fun x => x.1))
  else !(freeSlots s (laneOf l (firstSid s l))).isEmpty

/-- The earlier of two candidates. -/
def beforeL (a b : Nat × Launch) : Bool :=
  let key (l : Launch) : Nat := at_ (rDeadline l.rcd) 16 + at_ (l.queue % 256) 8 + (match l.node with
    | some (_, i) => i
    | none => 0)
  decide (key a.2 < key b.2)

def firstL : List (Nat × Launch) → Option (Nat × Launch)
  | [] => none
  | x :: xs => match firstL xs with
    | none => some x
    | some y => if beforeL y x then some y else some x

def placement (l : Launch) : List Nat := (List.range (rNtile l.rcd)).map (fun i => rTile0 l.rcd + i)
def sharesTile (a b : Launch) : Bool := (placement a).any (fun t => (placement b).contains t)

/-- The tiles that keep a candidate from starting. -/
def shortTiles (s : State) (l : Launch) : List Nat := if launchDet s l then placement l else [placeTile l.rcd (firstSid s l)]

/-- The running slice to pre-empt: the latest deadline of those later than the candidate's, the most recently started at a tie. -/
def laterStart (a b : Nat × Launch) : Bool :=
  decide (rDeadline a.2.rcd < rDeadline b.2.rcd)
    || (rDeadline a.2.rcd == rDeadline b.2.rcd && decide ((a.2.started.getD 0) ≤ (b.2.started.getD 0)))

def lastL : List (Nat × Launch) → Option (Nat × Launch)
  | [] => none
  | x :: xs => match lastL xs with
    | none => some x
    | some y => if laterStart x y then some y else some x

def holdsOn (s : State) (l : Launch) (ts : List Nat) : Bool :=
  l.live.any (fun k => match s.strand k with
    | some st => st.status == .resident && ts.contains st.tile
    | none => false)

/-- The running slices of a later deadline that hold slots a candidate is short of; one that is being pre-empted holds them still. -/
def victims (s : State) (p : PartId) (best : Launch) : List (Nat × Launch) :=
  s.launches.filter (fun l => l.2.ctx.part == p && (l.2.st == .creating || l.2.st == .running)
    && decide (rDeadline best.rcd < rDeadline l.2.rcd) && holdsOn s l.2 (shortTiles s best))

/-- KCNT, 0 acting as 1 (17 R356). -/
def Ctx.count (c : Ctx) : Nat := max 1 c.kcnt

/-- The knell rings for a slice (17 R351). -/
def ringSlice (n : Nat) (l : Launch) (s : State) : State :=
  let s := l.live.foldl (fun s k => s.modStrand k (fun st => { st with knell := true })) s
  s.modLaunch n (fun x => { x with knell := some (s.ctx l.ctx).count })

/-- A candidate starts, or comes back. -/
def startSlice (n : Nat) (l : Launch) (s : State) : State :=
  let s := s.modLaunch n (fun x => if x.st = .taken then { x with st := .creating } else { x with knell := none })
  match l.node with
  | some (g, i) => { s with graphs := amod s.graphs g (fun x => { x with began := if x.began.contains i then x.began else x.began ++ [i] }) }
  | none => s

def evSliceSelect (p : PartId) (s : State) : Option State :=
  match firstL (candidates s p) with
  | none => none
  | some (n, best) =>
    if startable s best then some (startSlice n best s)
    else match (if (victims s p best).any (fun v => v.2.knell.isSome) then none else lastL (victims s p best)) with
      | some (m, v) => some (ringSlice m v s)
      | none => (firstL ((candidates s p).filter (fun c => startable s c.2 && !sharesTile c.2 best))).map (fun c => startSlice c.1 c.2 s)
/-- SLICE_SELECT (16 R327). -/
def execSliceSelect (p : PartId) (s : State) : Result :=
  event (evSliceSelect p) s

/-! ## Strands are created (16 R324, R325) -/

/-- The first values of a strand's registers. -/
def firstRegs (r : Rcd) (now : Nat) : List RegWr :=
  if 2 ≤ rUregs r then [⟨now, uniKey 0, (rArg r).extractLsb' 0 32, now⟩, ⟨now, uniKey 1, (rArg r).extractLsb' 32 32, now⟩] else []

/-- The image of a strand that has just been created holds the same values, which a fill of their line takes from it (01 R30). -/
def firstImage (r : Rcd) : List Host.Cell :=
  if 2 ≤ rUregs r then imagePut [] 8 (imageOff (uniKey 0)) (rArg r).toNat else []

def firstThreads (r : Rcd) (sid : Nat) : List Thread :=
  (List.range 16).map (fun t =>
    { pc := BitVec.ofNat 56 (rEntry r), st := if sid + 1 = lNstr r ∧ rLastt r < t then .exited else .live })

def newStrand (s : State) (n : Nat) (l : Launch) (sid slot gen : Nat) : Strand :=
  let now := s.cycle l.ctx.part
  let ths := firstThreads l.rcd sid
  let det := launchDet s l
  { ctx := l.ctx, launch := n, sid := sid, tile := placeTile l.rcd sid, lane := placeLane l.rcd sid, slot := slot, gen := gen
    vregs := rVregs l.rcd, uregs := rUregs l.rcd, threads := ths, regs := firstRegs l.rcd now
    image := firstImage l.rcd
    modew := BitVec.ofNat 32 (at_ (rMode0 l.rcd) 8 + at_ (s.ctx l.ctx).drnd 16)
    region := ths.map (fun t => t.record now), hold := det && sid == 0, det := det
    tvec := BitVec.ofNat 56 (rTvec l.rcd), lastS := now }

def createStrand (n : Nat) (l : Launch) (slot gen : Nat) (s : State) : State :=
  let sid := l.nextSid
  let st := newStrand s n l sid slot gen
  let (k, s) := s.newId
  let s : State := { s with strands := s.strands ++ [(k, st)] }
  let s := s.modLane st.laneId (fun x => { x with gens := lset x.gens slot (fun _ => gen) })
  s.modLaunch n (fun x => { x with
    nextSid := sid + 1, live := x.live ++ [k], started := some (x.started.getD s.clk)
    mallet := if st.det ∧ sid = 0 then some 0 else x.mallet
    st := if sid + 1 = lNstr l.rcd then .running else .creating })

/-- The budget has run out (16 R328). -/
def budgetOut (l : Launch) : Bool := rBudget l.rcd != 0 && decide (rBudget l.rcd ≤ l.used)

/-! ## Strands come back (17 R337, R355, R357; 14 R305) -/

/-- Long-latency register writes outstanding, parked instructions apart: what a cutback, a save in a handler and a restoration wait for
(17 R351, R353, R357). A command with no destination is none. -/
def outstanding (s : State) (k : Nat) : Bool :=
  s.txns.any (fun t => t.2.strand == k && decide (0 < t.2.left) && (!t.2.locs.isEmpty || t.2.dst != .zero) && !(match s.strand k with
    | some st => st.threads.any (fun th => th.ptxn == t.1) || (st.framed && st.frameTx.contains t.1)
    | none => false))

/-- An arm sent anew to the word's present home; its faults are those of WATCH (14 R305, 07 R174). -/
def sendRearm (k slot : Nat) (s : State) : State :=
  match s.strand k with
  | none => s
  | some st =>
    let w := st.watch.getD slot {}
    let wrong (c : Nat) : State :=
      (s.modStrand k (fun st => { st with watch := lset st.watch slot (fun w => { w with st := .disarmed })
                                          rearms := st.rearms.filter (fun a => a != w.arm) })).impreciseFault k
        { cause := c, addr := w.va } ((st.issueAddr).getD 0)
    match accessAt s st.part .rd w.va (s.walk st.ctx w.va) with
    | .page => s.pageFault k w.va
    | .bad => wrong (if 2 ^ 56 ≤ w.va ∨ 0xFE ≤ w.va / 2 ^ 48 then 0x0E else 0x10)
    | .key key h => if Home.far h then wrong 0x0C
      else (s.modStrand k (fun st => { st with watch := lset st.watch slot (fun w => { w with outside := Home.outside h }) })).send
        (.arm k slot w.arm w.va key h)

/-- A wake or an eviction of a slot's arm is on its way: it reports the slot, which needs no new arm (14 R301, R303). -/
def State.told (s : State) (k slot arm : Nat) : Bool :=
  s.msgs.any (fun m => match m.2 with
    | .wake k' n a _ _ => k' == k && n == slot && a == arm
    | .evict k' n a _ => k' == k && n == slot && a == arm
    | _ => false)

/-- A slot that was ARMED or ARMING gets a new arm. -/
def rearmSlot (k slot : Nat) (s : State) : State :=
  match s.strand k with
  | none => s
  | some st =>
    let w := st.watch.getD slot {}
    if (w.st ≠ .armed ∧ w.st ≠ .arming) ∨ s.told k slot w.arm then s
    else
      let (n, s) := s.newId
      sendRearm k slot (s.modStrand k (fun st => { st with
        watch := lset st.watch slot (fun w => { w with st := .arming, arm := n }), rearms := st.rearms ++ [n] }))

/-- Threads parked in BARW whose phase has passed are released with it (17 R355); no completion releases a refused one (13 R292). -/
def releasePassed (k : Nat) (s : State) : State :=
  match s.strand k with
  | none => s
  | some st =>
    let due := (List.range 16).filter (fun t =>
      let th := st.thread t
      let gone := ((s.bandOf st.launch th.psel).phase + 2 ^ 32 - th.parg) % 2 ^ 32
      th.st == .parked && th.park == .barw && th.ptxn != 0 && !s.arrivalOut th.ptxn && decide (0 < gone ∧ gone < 2 ^ 31))
    releaseThreads k (due.map (fun t => (t, BitVec.ofNat 32 (st.thread t).parg))) s

/-- A strand on a slot of its lane again, with the slot's new generation; its surviving lines are kept. -/
def restoreStrand (k slot gen : Nat) (s : State) : State :=
  match s.strand k with
  | none => s
  | some st =>
    let now := s.cycle st.part
    let s := s.modStrand k (fun st => { st with
      status := .resident, slot := slot, gen := gen, knell := false, lastS := now, pairAt := none
      threads := st.threads.map (fun t => t.unpause now)
      ents := ((List.range st.ents.length).zip st.ents).map (fun p => p.2.reread p.1 st.image) })
    let s : State := { s with txns := s.txns.map (fun t =>
      if t.2.strand = k then (t.1, { t.2 with gen := gen, place := some (st.laneId, slot) }) else t) }
    let s := s.modLane st.laneId (fun l => { l with
      gens := lset l.gens slot (fun _ => gen)
      lines := l.lines.map (fun h => if h.strand = k then { h with evictable := false } else h) })
    let s := [0, 1, 2, 3].foldl (fun s n => rearmSlot k n s) s
    let s := (releasePassed k s).modStrand k (fun st => if st.hold then unparkAll .tokw st else st)
    owedTrap k st.launch ((dozeCheck k s).unparkBranch k)

/-- The table entries that the walks for a strand's new arms read have nothing accepted pending on them. -/
def armsQuiet (s : State) (st : Strand) : Bool :=
  st.watch.all (fun w => !(w.st == .armed || w.st == .arming) || s.quietAt 8 (ioReads s st.ctx w.va))

/-- The next saved strand of a slice comes back, in ascending sid; all of them of a deterministic one. -/
def restoreNext (l : Launch) (s : State) : Option State :=
  match savedStrands s l with
  | [] => none
  | (sid, k, st) :: rest =>
    let all := (sid, k, st) :: rest
    if launchDet s l then
      if all.any (fun x => outstanding s x.2.1 || !armsQuiet s x.2.2) || !allFit s l (all.map (fun x => x.1)) then none
      else some (all.foldl (fun s x => match grant s x.2.2.laneId with
        | some (slot, gen) => restoreStrand x.2.1 slot gen s
        | none => s) s)
    else if outstanding s k || !armsQuiet s st then none
    else (grant s st.laneId).map (fun g => restoreStrand k g.1 g.2 s)

def evStrandCreate (n : Nat) (s : State) : Option State :=
  match aget s.launches n with
  | none => none
  | some l =>
    if !schedRuns s l.ctx || l.knell.isSome || (l.st != .creating && l.st != .running) then none
    else if !(savedStrands s l).isEmpty then restoreNext l s
    else if l.st ≠ .creating ∨ lNstr l.rcd ≤ l.nextSid ∨ budgetOut l then none
    else (grant s (laneOf l l.nextSid)).map (fun g => createStrand n l g.1 g.2 s)
/-- STRAND_CREATE (16 R324, R325, 17 R357). -/
def execStrandCreate (l : Nat) (s : State) : Result :=
  event (evStrandCreate l) s

/-! ## Budgets (16 R328) -/

/-- The line rises with cause budget, and the slice is ended by it, with the graph that it is a node of; the launch scheduler is the
unit that raised it. -/
def budgetLine (n : Nat) (l : Launch) (s : State) : State :=
  let p := l.ctx.part
  let info : StopInfo := { flt := { cause := 0x35 }, unit := UnitId.selector s .launcher, coinc := 16 }
  let s := ((s.raiseLine p 0x35 (some .launcher)).putStop p .launcher (info.bits s.clk)).modLaunch n (fun x =>
    { x with st := .byBudget, grace := none })
  match l.node with
  | some (g, _) => { s with graphs := amod s.graphs g (fun x => { x with ended := some (x.ended.getD s.clk) }) }
  | none => s

def evBudgetExpiry (n : Nat) (s : State) : Option State :=
  match aget s.launches n with
  | none => none
  | some l =>
    if !budgetOut l || l.live.isEmpty || l.grace.isSome || (l.st != .creating && l.st != .running)
        || (s.part l.ctx.part).line.isSome then none
    else if rTvec l.rcd = 0 then some (budgetLine n l s)
    else some (l.live.foldl (fun s k => budgetTrap k s) (s.modLaunch n (fun x => { x with grace := some 65536 })))
/-- BUDGET_EXPIRY (16 R328). -/
def execBudgetExpiry (l : Nat) (s : State) : Result :=
  event (evBudgetExpiry l) s

def evBudgetGraceExpiry (n : Nat) (s : State) : Option State :=
  match aget s.launches n with
  | none => none
  | some l =>
    if l.grace ≠ some 0 ∨ (s.part l.ctx.part).line.isSome ∨ (l.st ≠ .creating ∧ l.st ≠ .running) then none
    else some (budgetLine n l s)
/-- BUDGET_GRACE_EXPIRY (16 R328). -/
def execBudgetGraceExpiry (l : Nat) (s : State) : Result :=
  event (evBudgetGraceExpiry l) s

/-! ## Retirement (16 R329-R331) -/

/-- Every strand of the slice has ended, its last EXIT with the datapath's last cycle of it, every command it placed has completed, every write has been performed. -/
def sliceDone (s : State) (n : Nat) (l : Launch) : Bool :=
  let mine (k : Nat) : Bool := match s.strand k with
    | some st => st.launch == n
    | none => false
  l.live.isEmpty
    && s.strands.all (fun x => x.2.launch != n || (x.2.status == .ended && x.2.placed.isEmpty))
    && s.lanes.all (fun x => !x.2.busyWith n (s.cycle l.ctx.part))
    && s.ops.all (fun o => !mine o.2.strand || o.2.opr == 0 || o.2.performed)
    && s.tctx.all (fun t => t.2.tq.all (fun i => !mine i.strand))
    && s.msgs.all (fun m => match m.2 with
        | .tqItem _ i => !mine i.strand
        | .oput _ k .. => !mine k
        | .ssig _ k .. => !mine k
        | .bufReq _ k .. => !mine k
        | _ => true)

/-- One profile entry of a tile (16 R331). -/
def profBits (l : Launch) (t : Nat) : Nat :=
  let c := agetD l.prof t (0, 0, 0, 0)
  (c.2.2.2 % 2 ^ 64) + at_ (c.2.2.1 % 2 ^ 64) 64 + at_ (c.2.1 % 2 ^ 64) 128 + at_ (c.1 % 2 ^ 64) 192

def putProfile (l : Launch) (base node : Nat) (s : State) : List Nat × State :=
  if base = 0 then ([], s)
  else (placement l).foldl (fun (w : List Nat × State) t =>
    match putRecord l.ctx (base + 32 * (192 * node + t)) (profBits l t) w.2 with
    | (s, some v) => (w.1 ++ v, s)
    | (s, none) => (w.1, s)) (([] : List Nat), s)

/-- The addresses of the profile entries of a slice, and where the entries of its launch or graph lie (16 R331). -/
def profBase (s : State) (l : Launch) : Nat :=
  match l.node with
  | some (g, _) => (match aget s.graphs g with
    | some gr => rPaddr gr.rcd
    | none => 0)
  | none => rPaddr l.rcd

def profVas (s : State) (l : Launch) : List Nat :=
  let node := match l.node with
    | some (_, i) => i
    | none => 0
  if profBase s l = 0 then [] else (placement l).map (fun t => profBase s l + 32 * (192 * node + t))

def missed (s : State) (l : Launch) : Bool := decide (rDeadline l.rcd < s.clk)

/-- A slice that is over leaves no launch, strand or fetch line behind. -/
def cleanSlice (n : Nat) (s : State) : State :=
  { s with
    launches := adel s.launches n
    strands := s.strands.filter (fun x => x.2.launch != n)
    lanes := s.lanes.map (fun x => (x.1, { x.2 with buf := x.2.buf.filter (fun f => f.launch != n) })) }

/-- A launch outside a graph retires. -/
def retireAlone (n : Nat) (l : Launch) (s : State) : State :=
  let w := putProfile l (rPaddr l.rcd) 0 s
  let b := l.st == .byBudget
  closing l.ctx l.queue l.rcd { start := l.started.getD 0, used := l.used, miss := missed s l
                                cause := if b then 0x35 else 0, status := if b then 3 else 0 } w.1 (cleanSlice n w.2)

/-- A graph that is over leaves its record and its events to a closing launch; the nodes that never started go with it. -/
def endGraph (g : Nat) (gr : Graph) (d : Done) (s : State) : State :=
  closing gr.ctx gr.queue gr.rcd d gr.waits { s with
    graphs := adel s.graphs g
    launches := s.launches.filter (fun x => !(x.2.st == .taken && (x.2.node.map (fun p => p.1)) == some g)) }

/-- A node retires; the sink, or the last running node after one ended by budget, ends the graph. -/
def retireNode (n g i : Nat) (l : Launch) (s : State) : State :=
  match aget s.graphs g with
  | none => s.modLaunch n (fun x => { x with st := .retired, rcd := 0 })
  | some gr =>
    let w := putProfile l (rPaddr gr.rcd) i s
    let b := l.st == .byBudget
    let gr : Graph := { gr with
      retired := gr.retired ++ [i], miss := gr.miss || missed s l
      start := some (match gr.start with
        | some t => min t (l.started.getD t)
        | none => l.started.getD 0)
      ended := if b ∧ gr.ended.isNone then some s.clk else gr.ended
      waits := gr.waits ++ w.1 }
    let s := cleanSlice n { w.2 with graphs := aput w.2.graphs g gr }
    let sink := rNsucc l.rcd == 0
    let ends := gr.ended.isSome && gr.began.all (fun j => gr.retired.contains j)
    let d : Done := { start := gr.start.getD 0, used := if sink then l.used else 0, miss := gr.miss
                      cause := if gr.ended.isSome then 0x35 else 0, status := if gr.ended.isSome then 3 else 0 }
    if sink || ends then endGraph g gr d s else s

/-- What has retired is forgotten; then its events are posted. -/
def forget (n : Nat) (l : Launch) (s : State) : State :=
  let s := cleanSlice n s
  let s := if l.lost then s.postBy l.ctx.part .launcher 0x8012 (rTag l.rcd) else s
  if rIntr l.rcd then (s.postBy l.ctx.part .launcher 0x8003 (rTag l.rcd)).modPart l.ctx.part (fun p => { p with irq := true }) else s

/-- Something of the partition that retired earlier still has its record or its events to come (16 R330). -/
def earlierClosing (s : State) (n : Nat) (l : Launch) : Bool :=
  s.launches.any (fun x => x.2.ctx.part == l.ctx.part && x.2.st == .retired && decide (x.1 < n))

def evSliceRetire (n : Nat) (s : State) : Option State :=
  match aget s.launches n with
  | none => none
  | some l =>
    if (s.part l.ctx.part).line.isSome then none
    else if l.st = .retired then
      (if l.waits.any (fun o => !s.opPerformed o) || earlierClosing s n l then none
      else match l.record with
        | none => some (forget n l s)
        | some v =>
          if !writesQuiet s l.ctx [rCaddr l.rcd] then none
          else match putRecord l.ctx (rCaddr l.rcd) v.toNat s with
            | (s, some w) => some (s.modLaunch n (fun x => { x with waits := w, record := none }))
            | (s, none) => some (s.modLaunch n (fun x => { x with waits := [], record := none, lost := true })))
    else
      let all := l.st == .running || (l.st == .creating && budgetOut l && l.started.isSome)
        || l.st == .byBudget
      if !all || !sliceDone s n l || !writesQuiet s l.ctx (profVas s l) then none
      else match l.node with
        | none => some (retireAlone n l s)
        | some (g, i) => some (retireNode n g i l s)
/-- SLICE_RETIRE (16 R329-R331). -/
def execSliceRetire (l : Nat) (s : State) : Result :=
  event (evSliceRetire l) s

end Sys2Proof.Machine
end

