-- ==== Sys2Proof/Machine/Contexts.lean ====
section
/-! DEFINITION. The knell, saving, resuming, moving and ending contexts (17 R351, R353-R358), and the configuration of
partitions and contexts by the physical function (16 R319; 17 R339; 19 R373, R379). -/

namespace Sys2Proof.Machine

/-! ## The knell (17 R351) -/

/-- The knell rings for every strand of a context. -/
def ringContext (c : CtxId) (s : State) : State :=
  let s : State := { s with
    strands := s.strands.map (fun x => if x.2.ctx = c ∧ x.2.status ≠ .ended then (x.1, { x.2 with knell := true }) else x) }
  s.modCtx c (fun x => { x with st := 2, knell := some x.count, refd := false })

def evSave (c : CtxId) (s : State) : Option State :=
  if (s.ctx c).st ≠ 1 then none
  else some (ringContext c (s.modCtx c (fun x => { x with moving := false })))
/-- SAVE (17 R356, R351). -/
def execSave (c : CtxId) (s : State) : Result :=
  event (evSave c) s

/-- What becomes of a strand when the count has run out; none while register writes are outstanding. -/
def afterCount (k : Nat) (st : Strand) (s : State) : Option State :=
  if st.liveThreads = [] then some (saveStrand k s)
  else if outstanding s k then none
  else if st.priv then some (saveStrand k s)
  else some (cutBack k s)

/-- The strands of a context whose count has run out, still on their lanes. -/
def overdue (s : State) (c : CtxId) : List (Nat × Strand) :=
  s.strands.filter (fun x => x.2.ctx == c && x.2.status == .resident && knellOver s x.2)

def evKnellCountExpiry (c : CtxId) (s : State) : Option State :=
  if (s.part c.part).line.isSome then none
  else
    let ks := (overdue s c).filter (fun x => (afterCount x.1 x.2 s).isSome)
    if ks.isEmpty then none
    else some (ks.foldl (fun s x => (afterCount x.1 x.2 s).getD s) s)
/-- KNELL_COUNT_EXPIRY (17 R351, R353). -/
def execKnellCountExpiry (c : CtxId) (s : State) : Result :=
  event (evKnellCountExpiry c) s

/-! ## A save completes (17 R354, R357) -/

/-- Commands of the context that have not started leave their queues, in order. -/
def holdCommands (c : CtxId) (s : State) : State :=
  let out := (s.part c.part).cqs.flatMap (fun q => (q.2.filter (fun d => d.ctx == c && !d.started)).map (fun d => (q.1, d)))
  (s.modPart c.part (fun p => { p with cqs := p.cqs.map (fun q => (q.1, q.2.filter (fun d => !(d.ctx == c && !d.started)))) })).modCtx c
    (fun x => { x with held := x.held ++ out })

/-- The lines of a context's declared buffers, by tile and offset. -/
def bufferLines (s : State) (c : CtxId) : List (Nat × Nat) :=
  (s.tctx.filter (fun t => t.1.ctx == c)).flatMap (fun t => t.2.bufs.flatMap (fun b =>
    (List.range (b.2.size / 64)).map (fun i => (t.1.t, b.2.base + 64 * i))))

/-- What the context header keeps of its tiles while the context is saved: the bytes of its declared buffers, which another context that
needs the tiles may overwrite, and the stop records of its engines (17 R344, R357). Its tables stay with it in `tctx`. -/
def keepHeader (c : CtxId) (s : State) : State :=
  let p := s.part c.part
  s.modCtx c (fun x => { x with
    bytes := (bufferLines s c).map (fun o => (o, BitVec.ofNat 512 (s.read 64 (scratchKey c.part.pkg p o.1 o.2))))
    stops := p.recs })

/-- The bytes go back to the tiles, each as a whole word (18 R363). -/
def restoreBytes (c : CtxId) (s : State) : State :=
  let s := (s.ctx c).bytes.foldl (fun s b =>
    let k := scratchKey c.part.pkg (s.part c.part) b.1.1 b.1.2
    (s.consume (.word k) true 0 c.part).1.write 64 k b.2.toNat) s
  s.modCtx c (fun x => { x with bytes := [], stops := [] })

/-- A declared buffer of a saved context overlaps one that another context has on the tile. -/
def buffersTaken (s : State) (c : CtxId) : Bool :=
  s.tctx.any (fun t => t.1.ctx == c && t.2.bufs.any (fun b => s.regionTaken { t.1 with ctx := ⟨c.part, 4⟩ } b.2.base b.2.size))

def cutContext (c : CtxId) (s : State) : State :=
  { s with tctx := s.tctx.map (fun t => if t.1.ctx = c then (t.1, t.2.cutTasks) else t) }

/-! ### MOVE -/

/-- A context is on its way from the place, or to it. -/
def State.inMove (s : State) (c : CtxId) : Bool :=
  s.msgs.any (fun m => match m.2 with
    | .move d dest slot => d == c || c == ⟨⟨d.part.pkg, dest⟩, slot⟩
    | _ => false)

/-- A place that holds no context. -/
def freePlace (s : State) (p : PartId) : Option CtxId :=
  (contextsOf p).find? (fun c => ((s.ctx c).st == 0 || (s.ctx c).st == 5) && !s.inMove c)

/-- Something of the context lies on a tile that the destination does not have (17 R357). -/
def tooWide (s : State) (c : CtxId) (tiles : Nat) : Bool :=
  s.tctx.any (fun t => t.1.ctx == c && decide (tiles ≤ t.1.t) && (!t.2.bufs.isEmpty
    || t.2.slots.any (fun x => x.2.st != .free) || t.2.engines.any (fun e => !e.2.rings.isEmpty)))

def countersMissing (s : State) (c : CtxId) (p : PartId) : Bool :=
  s.launches.any (fun l => l.2.ctx == c && l.2.st != .retired && (List.range 16).any (fun k =>
    rDctrv l.2.rcd k && !computeCause.allotted s p (fld l.2.rcd (832 + 12 * k) 12)))

def regionClash (s : State) (c : CtxId) (p : PartId) : Bool :=
  (s.part c.part).regions.any (fun r => r.2.ctx == c && !r.2.gone && (aget (s.part p).regions r.1).isSome)

/-- Every queue has room for the context's held commands. -/
def heldFit (s : State) (c : CtxId) (p : PartId) : Bool :=
  [0, 1, 2, 3].all (fun q => decide ((s.cq p q).length + ((s.ctx c).held.filter (fun h => h.1 == q)).length ≤ 64))

def moveRefused (s : State) (c : CtxId) (p : PartId) : Bool :=
  (aget s.parts p).isNone || (freePlace s p).isNone || (s.pkg p.pkg).feat != (s.pkg c.part.pkg).feat
  || fld (s.pkg p.pkg).vers 32 12 != fld (s.pkg c.part.pkg).vers 32 12
  || tooWide s c (s.part p).tiles || countersMissing s c p || regionClash s c p || !heldFit s c p

/-- A saved context leaves for its destination, or the move is refused. -/
def departs (c : CtxId) (s : State) : State :=
  let p : PartId := ⟨c.part.pkg, (s.ctx c).dest⟩
  match freePlace s p with
  | none => s.modCtx c (fun x => { x with refd := true, moving := false })
  | some c' =>
    if moveRefused s c p then s.modCtx c (fun x => { x with refd := true, moving := false })
    else ((s.modCtx c (fun x => { x with st := 5, moving := false })).send (.move c (s.ctx c).dest c'.n)).cmdDone c 3

/-- Everything that a save waits for. -/
def saveReady (s : State) (c : CtxId) : Bool :=
  s.strands.all (fun x => x.2.ctx != c || x.2.status != .resident)
    && s.ops.all (fun o => !(o.2.strand != 0 && o.2.ctx == c && o.2.opr != 0 && !o.2.performed))
    && (s.part c.part).cqs.all (fun q => q.2.all (fun d => d.ctx != c || !d.started))

def evSaveCompletion (c : CtxId) (s : State) : Option State :=
  if (s.ctx c).st ≠ 2 ∨ (s.part c.part).line.isSome ∨ !saveReady s c then none
  else
    let s := (keepHeader c (holdCommands c (cutContext c s))).modCtx c (fun x => { x with st := 3, knell := none })
    some (if (s.ctx c).moving then departs c s else s.cmdDone c 1)
/-- SAVE_COMPLETION (17 R357, R354, R332). -/
def execSaveCompletion (c : CtxId) (s : State) : Result :=
  event (evSaveCompletion c) s

def evMove (c : CtxId) (dest : Nat) (s : State) : Option State :=
  let set := s.modCtx c (fun x => { x with dest := dest, moving := true, refd := false })
  if (s.ctx c).st = 1 then some (ringContext c set)
  else if (s.ctx c).st = 3 then some (departs c set)
  else none
/-- MOVE (17 R356, R357). -/
def execMove (c : CtxId) (dest : Nat) (s : State) : Result :=
  event (evMove c dest) s

/-- TIME of a stop record (17 R345). -/
def stopTime (r : BitVec 1024) : Nat := fld r 448 64

/-- The stop records in a header join those of the partition that the context has come to, as far as they are later. -/
def joinStops (stops recs : Assoc UnitId (BitVec 1024)) : Assoc UnitId (BitVec 1024) :=
  stops.foldl (fun m r => match aget m r.1 with
    | some old => if stopTime old < stopTime r.2 then aput m r.1 r.2 else m
    | none => aput m r.1 r.2) recs

/-- Names of the context and of its lanes, in every table. -/
def renameCtx (c c' : CtxId) (s : State) : State :=
  let mine (l : Nat) : Bool := match aget s.launches l with
    | some x => x.ctx == c
    | none => false
  let moved := s.lanes.filter (fun l => l.1.tile.part == c.part && l.2.ranges.any (fun r => mine r.launch))
  let s : State := { s with
    strands := s.strands.map (fun x => if x.2.ctx = c then (x.1, { x.2 with ctx := c' }) else x)
    tctx := (s.tctx.filter (fun t => t.1.ctx != c')).map (fun t => if t.1.ctx = c then (⟨c', t.1.t⟩, t.2) else t)
    launches := s.launches.map (fun l => if l.2.ctx = c then (l.1, { l.2 with ctx := c' }) else l)
    graphs := s.graphs.map (fun g => if g.2.ctx = c then (g.1, { g.2 with ctx := c' }) else g)
    lanes := s.lanes.map (fun l => (l.1, if l.1.tile.part = c.part then { l.2 with ranges := l.2.ranges.filter (fun r => !mine r.launch) } else l.2)) }
  moved.foldl (fun s l => s.modLane { l.1 with tile := { l.1.tile with part := c'.part } } (fun x =>
    { x with ranges := x.ranges ++ l.2.ranges.filter (fun r => mine r.launch) })) s

/-- Register lines that a lane still holds of a context go back to their images. -/
def dropLines (c : CtxId) (s : State) : State :=
  let mine (k : Nat) : Bool := match s.strand k with
    | some st => st.ctx == c
    | none => false
  let hs := s.lanes.flatMap (fun l => l.2.lines.filter (fun h => mine h.strand))
  let s := hs.foldl (fun s h => writeLine h s) s
  { s with lanes := s.lanes.map (fun l => (l.1, { l.2 with lines := l.2.lines.filter (fun h => !mine h.strand) })) }

/-- Reservations, regions and stop records go over to the new partition (17 R357, R358). -/
def moveTables (c c' : CtxId) (s : State) : State :=
  let src := s.part c.part
  let rs := src.resv.filter (fun r => r.ctx == c)
  let mine (r : Region) : Bool := r.ctx == c && !r.gone
  let gs := src.regions.filter (fun r => mine r.2)
  let s := s.modPart c.part (fun p => { p with resv := p.resv.filter (fun r => r.ctx != c), regions := p.regions.filter (fun r => !mine r.2) })
  s.modPart c'.part (fun p =>
    let p := rs.foldl (fun (p : Part) r => p.reserve { r with ctx := c' }) p
    { p with recs := joinStops (s.ctx c).stops p.recs, regions := p.regions ++ gs.map (fun r => (r.1, { r.2 with ctx := c' })) })

/-- A context in a place whose CTXCTL holds KCNT and DEST: they are the place's, whatever context stands there (17 R356). -/
def Ctx.inPlace (old x : Ctx) : Ctx := { x with kcnt := old.kcnt, dest := old.dest }

/-- A moved context arrives saved, in the place found for it. -/
def evMoveArrival (n : Nat) (s : State) : Option State :=
  match aget s.msgs n with
  | some (.move c dest slot) =>
    let c' : CtxId := ⟨⟨c.part.pkg, dest⟩, slot⟩
    let x := s.ctx c
    let s := moveTables c c' (renameCtx c c' (dropLines c ((s.dropMsg n).dropCtx c)))
    let s : State := { s with ctxs := aput s.ctxs c' ((s.ctx c').inPlace
      { x with st := 3, held := x.held.map (fun h => (h.1, { h.2 with ctx := c' })) }) }
    some ((s.modCtx c (fun x => { x with held := [], bytes := [], stops := [] })).cmdDone c' 3)
  | _ => none
/-- MOVE_ARRIVAL (17 R356-R358). -/
def execMoveArrival (n : Nat) (s : State) : Result :=
  event (evMoveArrival n) s

/-! ## RESUME (17 R357) -/

/-- A field of a record. -/
def setFld (r : Rcd) (lo w v : Nat) : Rcd :=
  let old := fld r lo w
  BitVec.ofNat 1024 (r.toNat - at_ old lo + at_ (v % 2 ^ w) lo)

/-- The shared ranges of a launch stand on the lanes of the strands that map them: `was` is where each strand was before its launch was
placed again. Where the strands of one range come to several lanes, each lane has it: the model's choice (log entry 39). -/
def placeRanges (n : Nat) (was : List (Nat × LaneId)) (s : State) : State :=
  let moved := s.lanes.flatMap (fun l => (l.2.ranges.filter (fun r => r.launch == n)).flatMap (fun r =>
    ((was.filter (fun w => w.2 == l.1)).filterMap (fun w => (s.strand w.1).bind (fun st =>
      if st.shr.any (fun m => Range.is st m r) then some st.laneId else none))).eraseDups.map (fun i => (i, r))))
  let s : State := { s with lanes := s.lanes.map (fun l => (l.1, { l.2 with ranges := l.2.ranges.filter (fun r => r.launch != n) })) }
  moved.foldl (fun s m => s.modLane m.1 (fun l => { l with ranges := l.ranges ++ [m.2] })) s

/-- A launch whose placement exceeds the partition is placed again, with the strands it has and their shared ranges. -/
def replaceLaunch (n : Nat) (s : State) : State :=
  match aget s.launches n with
  | none => s
  | some l =>
    let tiles := (s.part l.ctx.part).tiles
    if rTile0 l.rcd + rNtile l.rcd ≤ tiles then s
    else
      let r := setFld (setFld l.rcd 312 8 0) 304 8 (min (rNtile l.rcd) tiles)
      let s := s.modLaunch n (fun x => { x with rcd := r })
      let was := l.live.filterMap (fun k => (s.strand k).map (fun st => (k, st.laneId)))
      placeRanges n was (l.live.foldl (fun s k =>
        s.modStrand k (fun st => { st with tile := placeTile r st.sid, lane := placeLane r st.sid })) s)

/-- A context is not restored, and REFD set, while its collective queues lack room, or a buffer of another context stands where one of
its own was: the model's choice (log entry 39). -/
def evResume (c : CtxId) (s : State) : Option State :=
  let x := s.ctx c
  if x.st ≠ 3 then none
  else if !heldFit s c c.part || buffersTaken s c then some (s.modCtx c (fun x => { x with refd := true }))
  else
    let s := x.held.foldl (fun s h => pushColl c.part h.1 h.2 s) (restoreBytes c s)
    let s := s.modCtx c (fun x => { x with st := 1, knell := none, held := [], refd := false, snare := 0 })
    let s := (s.launches.filter (fun l => l.2.ctx == c)).foldl (fun s l => replaceLaunch l.1 s) s
    some (s.cmdDone c 2)
/-- RESUME (17 R356, R357). -/
def execResume (c : CtxId) (s : State) : Result :=
  event (evResume c) s

/-! ## REPLAY (17 R343; 14 R305) -/

/-- REPL is cleared, and paused engines and regions go on. -/
def replay (c : CtxId) (s : State) : State :=
  { s with
    strands := s.strands.map (fun x => if x.2.ctx = c then (x.1, { x.2 with repl := false }) else x)
    tctx := s.tctx.map (fun x => if x.1.ctx = c then (x.1, { x.2 with
      engines := x.2.engines.map (fun e => (e.1, { e.2 with rings := e.2.rings.map (fun r => (r.1, { r.2 with paused := false })) })) })
      else x)
    parts := s.parts.map (fun x => (x.1, { x.2 with
      cqs := x.2.cqs.map (fun q => (q.1, q.2.map (fun d => if d.ctx = c then { d with paused := false } else d)))
      regions := x.2.regions.map (fun r => if r.2.ctx = c then (r.1, { r.2 with paused := false }) else r) })) }

/-- Slots whose re-arm met a page fault: their arm is on no way to a home (14 R305). -/
def unsentRearms (s : State) (st : Strand) : List Nat :=
  (List.range 4).filter (fun n =>
    let a := (st.watch.getD n {}).arm
    st.rearms.contains a && !s.msgs.any (fun m => match m.2 with
      | .arm _ _ b _ _ _ => b == a
      | .armAck _ _ b _ _ _ _ _ => b == a
      | _ => false) && !s.homes.any (fun h => h.2.queue.any (fun e => (e.arm.map (fun b => b.2.2)) == some a)))

def resendRearms (c : CtxId) (s : State) : State :=
  (s.strands.filter (fun x => x.2.ctx == c && x.2.status == .resident)).foldl (fun s x =>
    (unsentRearms s x.2).foldl (fun s n => sendRearm x.1 n s) s) s

def evReplay (c : CtxId) (s : State) : Option State :=
  if (aget s.parts c.part).isNone ∨ 4 ≤ c.n then none else some ((resendRearms c (replay c s)).cmdDone c 6)
/-- REPLAY (17 R343, R356, 14 R305). -/
def execReplay (c : CtxId) (s : State) : Result :=
  event (evReplay c) s

/-! ## The end of a context (12 R281, 17 R358) -/

/-- Its reservations are freed; its regions stay with the partition, whose contexts share them, until a CSEQ.set gives them another owner
(09 R237); CTXCTL keeps KCNT and DEST. -/
def evContextEnd (c : CtxId) (s : State) : Option State :=
  let x := s.ctx c
  if (x.st ≠ 1 ∧ x.st ≠ 3) ∨ s.strands.any (fun y => y.2.ctx == c && y.2.status != .ended)
      ∨ s.launches.any (fun l => l.2.ctx == c) ∨ s.graphs.any (fun g => g.2.ctx == c) then none
  else
    let s : State := { s with
      ctxs := aput s.ctxs c (x.inPlace { st := 0 })
      tctx := s.tctx.map (fun t => if t.1.ctx = c then (t.1, { t.2 with accs := t.2.accs.map (fun a => (a.1, { a.2 with shadow := none })) }) else t) }
    some ((s.dropCtx c).modPart c.part (fun p => { p with
      resv := p.resv.filter (fun r => r.ctx != c), regions := p.regions.map (fun r => if r.2.ctx = c then (r.1, { r.2 with gone := true }) else r) }))
/-- CONTEXT_END (12 R281, 17 R358). -/
def execContextEnd (c : CtxId) (s : State) : Result :=
  event (evContextEnd c) s

/-! ## Configuration by the physical function (16 R319; 17 R339, R356; 19 R373, R379, R386) -/

/-- The physical function accepts partition configuration. -/
def configurable (s : State) (pkg : Nat) : Bool :=
  match aget s.pkgs pkg with
  | some p => decide (6 ≤ p.stepNo) && !p.fw.recovery
  | none => false

def evCreatePartition (p : PartId) (s : State) : Option State :=
  if !configurable s p.pkg || decide (48 ≤ p.pid) || (aget s.parts p).isSome then none
  else some { s with parts := s.parts ++ [(p, {})] }
/-- CREATE_PARTITION (19 R373, 16 R319). -/
def execCreatePartition (p : PartId) (s : State) : Result :=
  event (evCreatePartition p) s

/-- The keys of the slices of a granule. -/
def inGranule (pkg g key : Nat) : Bool :=
  let lo := scratchBase + (pkg * 48 + g) * 4 * 2 ^ 23
  decide (lo ≤ key ∧ key < lo + 4 * 2 ^ 23)

def noDups : List Nat → Bool
  | [] => true
  | x :: xs => !xs.contains x && noDups xs

/-- Granules that no partition has, to a partition that has no context yet; their slices are zero. -/
def evAssignGranules (p : PartId) (gs : List Nat) (s : State) : Option State :=
  let taken (g : Nat) : Bool := s.parts.any (fun q => q.1.pkg == p.pkg && q.2.gran.contains g)
  if !configurable s p.pkg || (aget s.parts p).isNone || gs.any (fun g => decide (48 ≤ g) || taken g) || !noDups gs
      || (contextsOf p).any (fun c => (s.ctx c).st != 0) then none
  else some (s.modPart p (fun x => { x with gran := sortBy (fun g => g) (x.gran ++ gs) }))
/-- ASSIGN_GRANULES (16 R319, 12 R276). -/
def execAssignGranules (p : PartId) (gs : List Nat) (s : State) : Result :=
  clearing (fun key => !gs.any (fun g => inGranule p.pkg g key)) (evAssignGranules p gs) s

/-- A context starts with nothing on any tile; CTXCTL keeps what was written to KCNT and DEST (17 R356; 12 R276; 16 R326). -/
def evCreateContext (c : CtxId) (s : State) : Option State :=
  if !configurable s c.part.pkg || (aget s.parts c.part).isNone || decide (4 ≤ c.n) || ((s.ctx c).st != 0 && (s.ctx c).st != 5)
      || (s.part c.part).line.isSome || s.inMove c then none
  else some { s.dropCtx c with ctxs := aput s.ctxs c ((s.ctx c).inPlace {}), tctx := s.tctx.filter (fun t => t.1.ctx != c) }
/-- CREATE_CONTEXT (17 R356, 12 R276, 16 R326). -/
def execCreateContext (c : CtxId) (s : State) : Result :=
  event (evCreateContext c) s

def evSetTranslationRoot (c : CtxId) (root : Nat) (s : State) : Option State :=
  if !configurable s c.part.pkg || (s.ctx c).st == 0 || root % 4096 != 0 then none
  else some (s.modCtx c (fun x => { x with root := root }))
/-- SET_TRANSLATION_ROOT (17 R339). -/
def execSetTranslationRoot (c : CtxId) (root : Nat) (s : State) : Result :=
  event (evSetTranslationRoot c root) s

/-- A message that one of the partitions that go away sent, or waits for. -/
def Msg.ofParts (s : State) (gone : PartId → Bool) (m : Msg) : Bool :=
  let strand (k : Nat) : Bool := match s.strand k with
    | some st => gone st.part
    | none => false
  let txn (n : Nat) : Bool := match aget s.txns n with
    | some t => strand t.strand
    | none => false
  let launch (l : Nat) : Bool := match aget s.launches l with
    | some x => gone x.ctx.part
    | none => false
  match m with
  | .result t .. | .barAns t .. => txn t
  | .arm k .. | .armAck k .. | .wake k .. | .evict k .. | .disarm _ k .. | .faultReport k .. | .barRel k .. | .barRefuse k ..
  | .ewait _ k _ | .qwait _ k _ => strand k
  | .inval _ t _ | .ack _ t | .fill t .. | .writeback _ t .. => gone t.part
  | .bar b .. | .dom _ b .. | .domPhase _ b .. => launch b.launch
  | .bufReq _ _ tc .. | .oput _ _ _ tc .. | .tqItem tc _ | .ssig _ _ _ tc .. => gone tc.ctx.part
  | .coll p _ c => gone p || gone c.ctx.part
  | .collAck p .. => gone p
  | .move c .. => gone c.part
  | .selfTest _ u .. => match u.part with
    | some p => gone p
    | none => false

def Home.ofParts (gone : PartId → Bool) : Home → Bool
  | .slicePort t _ => gone t.part
  | _ => false

/-- Partitions and everything of them are gone; they leave their domain groups (19 R379). What they had under way is dropped. -/
def State.forgetParts (gone : PartId → Bool) (s : State) : State :=
  let ours (c : CtxId) : Bool := gone c.part
  let launch (l : Nat) : Bool := match aget s.launches l with
    | some x => ours x.ctx
    | none => false
  { s with
    parts := (s.parts.filter (fun p => !gone p.1)).map (fun p => (p.1, { p.2 with
      held := p.2.held.filter (fun h => !gone h.1 && !ours h.2.2.ctx) }))
    ctxs := s.ctxs.filter (fun c => !ours c.1)
    strands := s.strands.filter (fun x => !ours x.2.ctx)
    launches := s.launches.filter (fun l => !ours l.2.ctx)
    graphs := s.graphs.filter (fun g => !ours g.2.ctx)
    tctx := s.tctx.filter (fun t => !ours t.1.ctx)
    tiles := s.tiles.filter (fun t => !gone t.1.part)
    lanes := s.lanes.filter (fun l => !gone l.1.tile.part)
    walks := s.walks.map (fun d => (d.1, d.2.filter (fun e => !ours e.ctx)))
    ops := s.ops.filter (fun o => !ours o.2.ctx)
    txns := s.txns.filter (fun t => match s.strand t.2.strand with
      | some st => !gone st.part
      | none => true)
    msgs := s.msgs.filter (fun m => !m.2.ofParts s gone)
    homes := (s.homes.filter (fun h => !Home.ofParts gone h.1)).map (fun h => (h.1, { h.2 with
      queue := h.2.queue.filter (fun e => !ours e.ctx || e.strands.isEmpty)
      table := h.2.table.filter (fun e => !gone e.part), reserved := h.2.reserved.filter (fun r => !gone r.1) }))
    domCtrs := s.domCtrs.map (fun d => (d.1, { d.2 with users := d.2.users.filter (fun b => !launch b.launch) }))
    groups := s.groups.map (fun g => (g.1, g.2.filter (fun q => !gone q))) }

def evDestroyPartition (p : PartId) (s : State) : Option State :=
  if !configurable s p.pkg || (aget s.parts p).isNone then none else some (s.forgetParts (fun q => q == p))
/-- DESTROY_PARTITION (19 R373, R379). -/
def execDestroyPartition (p : PartId) (s : State) : Result :=
  event (evDestroyPartition p) s

def evEnrolDomainGroup (p : PartId) (g : Nat) (s : State) : Option State :=
  if (aget s.parts p).isNone || !(s.pkg p.pkg).inDomain || (s.part p).group.isSome
      || (agetD s.groups g []).any (fun q => q.pkg == p.pkg) then none
  else some ({ s with groups := amodD s.groups g [] (fun l => l ++ [p]) }.modPart p (fun x => { x with group := some g }))
/-- ENROL_DOMAIN_GROUP (19 R379). -/
def execEnrolDomainGroup (p : PartId) (g : Nat) (s : State) : Result :=
  event (evEnrolDomainGroup p g) s

end Sys2Proof.Machine
end

