-- ==== Sys2Proof/Machine/Special.lean ====
section
/-! DEFINITION. The special functions of group 0x5 (06 R144, R145): the exact rows, the bounds, and the free bits inside them. -/

namespace Sys2Proof.Machine

open Sys2Proof.Config (SpecialFn)

/-- `2 ^ 120`, the scale of the fixed-point constants below. -/
def fixOne : Nat := 2 ^ 120
/-- `floor (pi * 2 ^ 120)`. -/
def piFix : Nat := 4175892906503776358826876457663557747
/-- `floor (ln 2 * 2 ^ 120)`. -/
def ln2Fix : Nat := 921350637599661305226344307672478454

/-- The next power of a Taylor series: `term * x / k`. -/
def Exact.stepTerm (term x : Exact) (k : Nat) : Exact :=
  let t := term.mul x
  { t with den := t.den * k }

def Exact.addO (x : Option Exact) (y : Exact) : Option Exact :=
  match x with
  | none => some y
  | some a => a.add y

/-- `sum x^k / k!` for the next `fuel` terms, from the term numbered `k`. -/
def expSeries (x : Exact) : Nat → Nat → Exact → Option Exact → Option Exact
  | 0, _, _, acc => acc
  | fuel + 1, k, term, acc => expSeries x fuel (k + 1) (term.stepTerm x (k + 1)) (Exact.addO acc term)

/-- The sine series in steps of `-x^2 / (k+1)(k+2)`. -/
def sinSeries (negx2 : Exact) : Nat → Nat → Exact → Option Exact → Option Exact
  | 0, _, _, acc => acc
  | fuel + 1, k, term, acc =>
    sinSeries negx2 fuel (k + 2) (term.stepTerm negx2 ((k + 1) * (k + 2))) (Exact.addO acc term)

/-- A value so near to 1 that no bound of 06 R144 falls between them, on the same side of 1 as the exact result. -/
def justBeside1 (below : Bool) : Exact := ⟨if below then 2 ^ 100 - 1 else 2 ^ 100 + 1, 1, -100⟩

/-- `2 ^ x` for a value that is no integer: within a relative `2 ^ -90`, and on the right side of 1. -/
def exp2Approx (x : Exact) : Option Exact :=
  if x.binade ≤ -61 then some (justBeside1 (decide (x.num < 0)))
  else
  let n := x.toInteger .rd
  let fr := match x.add ⟨-n, 1, 0⟩ with
    | none => (⟨1, fixOne, 0⟩ : Exact)
    | some f => f
  -- the argument of the series, cut to 120 fraction bits
  let p := fr.over (-120)
  let t : Exact := ⟨((p.1 / p.2) * ln2Fix : Nat), 1, -240⟩
  (expSeries t 30 0 ⟨1, 1, 0⟩ none).map (fun v => v.scale n)

/-- Binary digits of `log2 m` for `m / 2 ^ 120` in `[1, 2)`, most significant first, by repeated squaring. -/
def log2Digits : Nat → Nat → Nat → Nat
  | 0, _, acc => acc
  | k + 1, m, acc =>
    let sq := m * m / fixOne
    if 2 * fixOne ≤ sq then log2Digits k (sq / 2) (2 * acc + 1) else log2Digits k sq (2 * acc)

/-- `log2 x` of a positive value: within `2 ^ -75`. -/
def log2Approx (x : Exact) : Option Exact :=
  let k := x.binade
  let p := x.over (k - 120)
  let d := log2Digits 80 (p.1 / p.2) 0
  Exact.addO (if k = 0 then none else some ⟨k, 1, 0⟩) ⟨(d : Int), 1, -80⟩

/-- `sin (pi * r)` for a nonzero `r` of magnitude at most one half. -/
def sinPiApprox (r : Exact) : Option Exact :=
  let x := r.mul ⟨(piFix : Int), 1, -120⟩
  sinSeries (x.mul x).neg 16 1 x none

/-- A value's distance from the nearest integer below or equal to it plus one half, and that integer's parity. -/
def nearestInt (x : Exact) : Int := x.toInteger .rne

def Exact.sub (x y : Exact) : Option Exact := x.add y.neg

/-- `|x - y| ≤ 2 ^ k * m`. -/
def Exact.within (x y : Exact) (m : Nat) (k : Int) : Bool :=
  match x.sub y with
  | none => true
  | some d =>
    match (⟨d.num.natAbs, d.den, d.e⟩ : Exact).sub ⟨(m : Int), 1, k⟩ with
    | none => true
    | some r => decide (r.num < 0)

/-- The spacing of FP32 values at a magnitude (06 R144). -/
def ulpUnit (x : Exact) : Int := max (x.binade - 23) (-149)

/-- A word as an exact value, zero included as `none`. -/
def finiteOf (w : Word) : Option (Option Exact) :=
  match fp32.decode w.toNat with
  | .fin x => some (some x)
  | .zero _ => some none
  | _ => none

/-- Whether a word lies within `m` ulp of a value. -/
def nearUlp (w : Word) (y : Exact) (m : Nat) : Bool :=
  match finiteOf w with
  | none => false
  | some none => (⟨0, 1, 0⟩ : Exact).within y m (ulpUnit y)
  | some (some x) => x.within y m (ulpUnit y)

/-- The magnitude of a word is at most 1. -/
def atMostOne (w : Word) : Bool := decide ((w &&& 0x7FFFFFFF#32).toNat ≤ 0x3F800000)

/-- Takes the free bits where the bound admits them, and the nearest value otherwise. -/
def pick (fn : SpecialFn) (a : Word) (ok : Word → Bool) (y : Exact) : Word :=
  let w := Config.specialBits fn a
  if ok w then w else BitVec.ofNat 32 (fp32.roundFin .rne false y)

def f32Nan : Word := 0x7FC00000#32
def f32Inf (neg : Bool) : Word := if neg then 0xFF800000#32 else 0x7F800000#32
def f32Zero (neg : Bool) : Word := if neg then 0x80000000#32 else 0#32
def f32One (neg : Bool) : Word := if neg then 0xBF800000#32 else 0x3F800000#32

/-- The exponent of a power of two, when the value is one. -/
def Exact.pow2? (x : Exact) : Option Int :=
  let n := x.num.natAbs
  if x.den = 1 ∧ n = 2 ^ n.log2 then some (x.e + n.log2) else none

/-- The integer that a dyadic value is, when it is one. -/
def Exact.int? (x : Exact) : Option Int :=
  if (x.onUnit 0).exact then some (x.toInteger .rz) else none

/-- FRCP (06 R144, R145). -/
def frcpVal (a : Word) : Word :=
  match fp32.decode a.toNat with
  | .nan => f32Nan
  | .inf n => f32Zero n
  | .zero n => f32Inf n
  | .fin x =>
    let y := Exact.div ⟨1, 1, 0⟩ x
    let neg := decide (x.num < 0)
    if fp32.beyond 1 y.binade then f32Inf neg
    else match x.pow2? with
      | some _ => BitVec.ofNat 32 (fp32.roundFin .rne false y)
      | none => pick .rcp a (fun w => nearUlp w y 1) y

/-- Whether a positive word lies within one ulp of the reciprocal square root of a positive value. -/
def nearRsq (x : Exact) (w : Word) : Bool :=
  let inv := Exact.div ⟨1, 1, 0⟩ x
  let u : Exact := ⟨1, 1, max (inv.binade / 2 - 23) (-149)⟩
  match finiteOf w with
  | some (some y) =>
    let geOne (v : Exact) : Bool := match v.sub ⟨1, 1, 0⟩ with
      | none => true
      | some d => decide (0 < d.num)
    let leOne (v : Exact) : Bool := match v.sub ⟨1, 1, 0⟩ with
      | none => true
      | some d => decide (d.num < 0)
    let lowOk := match y.sub u with
      | none => true
      | some l => if l.num < 0 then true else leOne ((l.mul l).mul x)
    let highOk := match y.add u with
      | none => false
      | some h => if h.num < 0 then false else geOne ((h.mul h).mul x)
    decide (0 < y.num) && lowOk && highOk
  | _ => false

/-- The reciprocal square root rounded to nearest. -/
def rsqNearest (x : Exact) : Word :=
  let g := fp32.sqrtGrid (Exact.div ⟨1, 1, 0⟩ x)
  BitVec.ofNat 32 (fp32.finish .rne false false (g.n + (if g.up .rne false then 1 else 0)) g.q)

/-- FRSQ (06 R144, R145). -/
def frsqVal (a : Word) : Word :=
  match fp32.decode a.toNat with
  | .nan => f32Nan
  | .inf n => if n then f32Nan else 0#32
  | .zero n => f32Inf n
  | .fin x =>
    if x.num < 0 then f32Nan
    else match x.pow2? with
      | some k => if k % 2 = 0 then rsqNearest x else
          (let w := Config.specialBits .rsq a; if nearRsq x w then w else rsqNearest x)
      | none => (let w := Config.specialBits .rsq a; if nearRsq x w then w else rsqNearest x)

/-- FEXP2 (06 R144, R145). -/
def fexp2Val (a : Word) : Word :=
  match fp32.decode a.toNat with
  | .nan => f32Nan
  | .inf n => if n then 0#32 else f32Inf false
  | .zero _ => f32One false
  | .fin x =>
    let lo := x.toInteger .rd
    if 128 ≤ lo then f32Inf false
    else if x.toInteger .ru ≤ -151 then 0#32
    else match x.int? with
      | some n =>
        if -149 ≤ n then BitVec.ofNat 32 (fp32.roundFin .rne false ⟨1, 1, n⟩)
        else pick .exp2 a (fun w => nearUlp w ⟨1, 1, n⟩ 2) ⟨1, 1, n⟩
      | none =>
        match exp2Approx x with
        | none => f32One false
        | some y => pick .exp2 a (fun w => nearUlp w y 2) y

/-- FLOG2 (06 R144, R145). -/
def flog2Val (a : Word) : Word :=
  match fp32.decode a.toNat with
  | .nan => f32Nan
  | .inf n => if n then f32Nan else f32Inf false
  | .zero _ => f32Inf true
  | .fin x =>
    if x.num < 0 then f32Nan
    else match x.pow2? with
      | some k => BitVec.ofNat 32 (fp32.arith .rne false (FVal.ofInt k))
      | none =>
        match log2Approx x with
        | none => 0#32
        | some y =>
          let absolute (w : Word) : Bool := match finiteOf w with
            | none => false
            | some none => (⟨0, 1, 0⟩ : Exact).within y 1 (-21)
            | some (some v) => v.within y 1 (-21)
          let k := x.binade
          let near1 := k == -1 || k == 0
          pick .log2 a (fun w => if near1 then absolute w else nearUlp w y 2) y

/-- FSINP (06 R144, R145). -/
def fsinpVal (a : Word) : Word :=
  match fp32.decode a.toNat with
  | .nan | .inf _ => f32Nan
  | .zero n => f32Zero n
  | .fin x =>
    match x.int? with
    | some _ => f32Zero (decide (x.num < 0))
    | none =>
      match (x.scale 1).int? with
      | some k2 => f32One (decide ((k2 / 2) % 2 ≠ 0))
      | none =>
        let n := nearestInt x
        match x.sub ⟨n, 1, 0⟩ with
        | none => 0#32
        | some r =>
          match sinPiApprox r with
          | none => 0#32
          | some s =>
            let y := if n % 2 = 0 then s else s.neg
            pick .sinp a (fun w => nearUlp w y 2 && atMostOne w) y

/-- FCOSP (06 R144, R145). -/
def fcospVal (a : Word) : Word :=
  match fp32.decode a.toNat with
  | .nan | .inf _ => f32Nan
  | .zero _ => f32One false
  | .fin x =>
    match x.int? with
    | some n => f32One (decide (n % 2 ≠ 0))
    | none =>
      match (x.scale 1).int? with
      | some _ => 0#32
      | none =>
        let n := nearestInt x
        match x.sub ⟨n, 1, 0⟩ with
        | none => 0#32
        | some r =>
          match (⟨1, 1, -1⟩ : Exact).sub ⟨r.num.natAbs, r.den, r.e⟩ with
          | none => 0#32
          | some u =>
            match (if r.binade ≤ -31 then some (justBeside1 true) else sinPiApprox u) with
            | none => 0#32
            | some s =>
              let y := if n % 2 = 0 then s else s.neg
              pick .cosp a (fun w => nearUlp w y 2 && atMostOne w) y

end Sys2Proof.Machine
end

