-- ==== Sys2Proof/Machine/Fp.lean ====
section
/-! DEFINITION. Floating point, special functions and conversions, groups 0x4 and 0x5 (06 R136-R148). -/

namespace Sys2Proof.Machine

/-- A result of three operands under the instruction's rounding. -/
def effFloat (rm : Rm) (f : RMode → Word → Word → Word → Word) : Effect := fun x => eff3 (f (x.st.rounding rm)) x

def effFadd (ty : Ty) (rm : Rm) (sat : Bool) : Effect := effFloat rm (fun m a b _ => faddVal ty m sat a b)
/-- FADD (06 R137). -/
def execFadd (h : Hdr) (d a b : Opd) (ty : Ty) (rm : Rm) (sat : Bool) (s : State) : Result :=
  issue (.fadd h d a b ty rm sat) (effFadd ty rm sat) s

def effFsub (ty : Ty) (rm : Rm) (sat : Bool) : Effect := effFloat rm (fun m a b _ => fsubVal ty m sat a b)
/-- FSUB (06 R137). -/
def execFsub (h : Hdr) (d a b : Opd) (ty : Ty) (rm : Rm) (sat : Bool) (s : State) : Result :=
  issue (.fsub h d a b ty rm sat) (effFsub ty rm sat) s

def effFmul (ty : Ty) (rm : Rm) (sat : Bool) : Effect := effFloat rm (fun m a b _ => fmulVal ty m sat a b)
/-- FMUL (06 R137). -/
def execFmul (h : Hdr) (d a b : Opd) (ty : Ty) (rm : Rm) (sat : Bool) (s : State) : Result :=
  issue (.fmul h d a b ty rm sat) (effFmul ty rm sat) s

def effFfma (ty : Ty) (rm : Rm) (sat : Bool) : Effect := effFloat rm (fun m a b c => ffmaVal ty m sat a b c)
/-- FFMA (06 R137). -/
def execFfma (h : Hdr) (d a b c : Opd) (ty : Ty) (rm : Rm) (sat : Bool) (s : State) : Result :=
  issue (.ffma h d a b c ty rm sat) (effFfma ty rm sat) s

def effFmin (ty : Ty) : Effect := eff3 (fun a b _ => fminVal ty a b)
/-- FMIN (06 R139). -/
def execFmin (h : Hdr) (d a b : Opd) (ty : Ty) (s : State) : Result :=
  issue (.fmin h d a b ty) (effFmin ty) s

def effFmax (ty : Ty) : Effect := eff3 (fun a b _ => fmaxVal ty a b)
/-- FMAX (06 R139). -/
def execFmax (h : Hdr) (d a b : Opd) (ty : Ty) (s : State) : Result :=
  issue (.fmax h d a b ty) (effFmax ty) s

def effFclass (ty : Ty) : Effect := regEff (fun r =>
  { d := (fclassVal ty r.aw).zeroExtend 64, ps := [(fclassVal ty r.aw &&& r.bw) != 0#32] })
/-- FCLASS (06 R140). -/
def execFclass (h : Hdr) (d a b : Opd) (ty : Ty) (p : Bool) (pd : BitVec 3) (s : State) : Result :=
  issue (.fclass h d a b ty p pd) (effFclass ty) s

def effFscale (ty : Ty) (rm : Rm) (sat : Bool) : Effect := effFloat rm (fun m a b _ => fscaleVal ty m sat a b)
/-- FSCALE (06 R141). -/
def execFscale (h : Hdr) (d a b : Opd) (ty : Ty) (rm : Rm) (sat : Bool) (s : State) : Result :=
  issue (.fscale h d a b ty rm sat) (effFscale ty rm sat) s

def effFrnd (ty : Ty) (rm : Rm) : Effect := effFloat rm (fun m a _ _ => frndVal ty m a)
/-- FRND (06 R142). -/
def execFrnd (h : Hdr) (d a : Opd) (ty : Ty) (rm : Rm) (s : State) : Result :=
  issue (.frnd h d a ty rm) (effFrnd ty rm) s

def effFdot2 (ty : Ty) (rm : Rm) (sat : Bool) : Effect := effFloat rm (fun m a b c => fdot2Val ty m sat a b c)
/-- FDOT2 (06 R143). -/
def execFdot2 (h : Hdr) (d a b c : Opd) (ty : Ty) (rm : Rm) (sat : Bool) (s : State) : Result :=
  issue (.fdot2 h d a b c ty rm sat) (effFdot2 ty rm sat) s

/-! ## Special functions (06 R144, R145) -/

def effFrcp : Effect := eff3 (fun a _ _ => frcpVal a)
/-- FRCP (06 R144, R145). -/
def execFrcp (h : Hdr) (d a : Opd) (s : State) : Result :=
  issue (.frcp h d a) effFrcp s

def effFrsq : Effect := eff3 (fun a _ _ => frsqVal a)
/-- FRSQ (06 R144, R145). -/
def execFrsq (h : Hdr) (d a : Opd) (s : State) : Result :=
  issue (.frsq h d a) effFrsq s

def effFsqrt (rm : Rm) (sat : Bool) : Effect := effFloat rm (fun m a _ _ => fsqrtVal m sat a)
/-- FSQRT (06 R144, R145). -/
def execFsqrt (h : Hdr) (d a : Opd) (rm : Rm) (sat : Bool) (s : State) : Result :=
  issue (.fsqrt h d a rm sat) (effFsqrt rm sat) s

def effFexp2 : Effect := eff3 (fun a _ _ => fexp2Val a)
/-- FEXP2 (06 R144, R145). -/
def execFexp2 (h : Hdr) (d a : Opd) (s : State) : Result :=
  issue (.fexp2 h d a) effFexp2 s

def effFlog2 : Effect := eff3 (fun a _ _ => flog2Val a)
/-- FLOG2 (06 R144, R145). -/
def execFlog2 (h : Hdr) (d a : Opd) (s : State) : Result :=
  issue (.flog2 h d a) effFlog2 s

def effFsinp : Effect := eff3 (fun a _ _ => fsinpVal a)
/-- FSINP (06 R144, R145). -/
def execFsinp (h : Hdr) (d a : Opd) (s : State) : Result :=
  issue (.fsinp h d a) effFsinp s

def effFcosp : Effect := eff3 (fun a _ _ => fcospVal a)
/-- FCOSP (06 R144, R145). -/
def execFcosp (h : Hdr) (d a : Opd) (s : State) : Result :=
  issue (.fcosp h d a) effFcosp s

/-! ## Conversions -/

def effCvt (ty sty : Ty) (rm : Rm) (sat : Bool) (pos : BitVec 2) : Effect :=
  effFloat rm (fun m a _ c => cvtVal ty sty m sat pos.toNat a c)
/-- CVT (06 R147). -/
def execCvt (h : Hdr) (d a c : Opd) (ty sty : Ty) (rm : Rm) (sat : Bool) (pos : BitVec 2) (s : State) : Result :=
  issue (.cvt h d a c ty sty rm sat pos) (effCvt ty sty rm sat pos) s

def effCvtef (ty : Ty) (sat : Bool) (pos : BitVec 2) : Effect := regEff (fun r =>
  { d := (cvtefVal ty sat pos.toNat r.aw r.bw r.cw).1.zeroExtend 64
    e := (cvtefVal ty sat pos.toNat r.aw r.bw r.cw).2.zeroExtend 64 })
/-- CVTEF (06 R148, 03 R78). -/
def execCvtef (h : Hdr) (d a b c : Opd) (ty : Ty) (sat : Bool) (pos : BitVec 2) (s : State) : Result :=
  issue (.cvtef h d a b c ty sat pos) (effCvtef ty sat pos) s

def effCvtsr (ty : Ty) (sat : Bool) (pos : BitVec 2) : Effect := eff3 (cvtsrVal ty sat pos.toNat)
/-- CVTSR (06 R148, 03 R77). -/
def execCvtsr (h : Hdr) (d a b c : Opd) (ty : Ty) (sat : Bool) (pos : BitVec 2) (s : State) : Result :=
  issue (.cvtsr h d a b c ty sat pos) (effCvtsr ty sat pos) s

end Sys2Proof.Machine
end

