-- ==== Sys2Proof/Machine/Links.lean ====
section
/-! DEFINITION. What the host, the management controller and the fabric do to a package: management registers (16 R320, 17 R356,
19 R384), attestation and firmware (19 R382, R383), links (19 R375-R380), power, temperature and cold reset (19 R384-R386), and
the end of a self-test (18 R365-R370). -/

namespace Sys2Proof.Machine

/-- The physical function and the management controller of a package answer: it is not in recovery, and its bring-up has reached the end of
step 4 (19 R382, R386). What takes power from the compute dies leaves them running (19 R385). -/
def pkgUp (s : State) (n : Nat) : Bool :=
  match aget s.pkgs n with
  | some p => decide (5 ≤ p.stepNo) && !p.fw.recovery
  | none => false

/-! ## Registers -/

/-- The fields of CTXCTL that a write changes before its command: KCNT, and DEST through the physical function (17 R356). -/
def Ctx.write (val : BitVec 64) (vf : Bool) (c : Ctx) : Ctx :=
  { c with kcnt := fld val 40 24, dest := if vf then c.dest else fld val 32 8 }

/-- The command in CMD of a written CTXCTL; one that is not accepted has no effect, and MOVE none through the virtual function (17 R356). -/
def ctxCommand (c : CtxId) (val : BitVec 64) (vf : Bool) (s : State) : State :=
  (match fld val 8 4 with
    | 1 => evSave c s
    | 2 => evResume c s
    | 3 => if vf then none else evMove c (s.ctx c).dest s
    | 4 => evHalt c s
    | 5 => evRelease c s
    | 6 => evReplay c s
    | 7 => evInval c s
    | _ => none).getD s

def evRegisterWrite (r : MgmtReg) (val : BitVec 64) (s : State) : Option State :=
  match r with
  | .ctxctl c vf =>
    if pkgUp s c.part.pkg && (aget s.parts c.part).isSome && decide (c.n < 4) then
      some (ctxCommand c val vf { s with ctxs := amodD s.ctxs c { st := 0 } (Ctx.write val vf) })
    else none
  | .pshare p => if pkgUp s p.pkg then some (s.modPart p (fun q => { q with pshare := fld val 0 16 })) else none
  | .counter p _ => if pkgUp s p.pkg then some s else none
  | .vers n | .energy n | .temp n => if pkgUp s n then some s else none
/-- REGISTER_WRITE (00 R9, 17 R356, 18 R370, 19 R381, R384, R385). -/
def execRegisterWrite (r : MgmtReg) (val : BitVec 64) (s : State) : Result :=
  event (evRegisterWrite r val) s

/-- CAPW of PCAP. -/
def capw (val : BitVec 64) : Nat := min 1600 (max 300 (fld val 0 16))

def evPcapWrite (n : Nat) (val : BitVec 64) (s : State) : Option State :=
  if pkgUp s n then
    some (s.modPkg n (fun p => { p with pcap := BitVec.ofNat 64 (at_ (fld p.pcap 32 16) 32 + capw val) }))
  else none
/-- PCAP_WRITE (19 R384). -/
def execPcapWrite (pkg : Nat) (val : BitVec 64) (s : State) : Result :=
  event (evPcapWrite pkg val) s

/-! ## Power and temperature (19 R384, R385) -/

/-- A partition above its share starts to skip issue cycles; back within it, it stops. -/
def evPartitionShareThrottle (p : PartId) (s : State) : Option State :=
  let q := s.part p
  if !pkgUp s p.pkg || (q.pshare == 0 && !q.skip) then none
  else some (s.modPart p (fun q => { q with skip := !q.skip }))
/-- PARTITION_SHARE_THROTTLE (19 R384). -/
def execPartitionShareThrottle (p : PartId) (s : State) : Result :=
  event (evPartitionShareThrottle p) s

/-- The arithmetic clock one step down, to no lower than 1.0 GHz. -/
def stepDown (n : Nat) (s : State) : Option State :=
  if !pkgUp s n || decide ((s.pkg n).mhz ≤ 1000) then none
  else some (s.modPkg n (fun p => { p with mhz := max 1000 (p.mhz - 100) }))

/-- POWER_CAP_STEP (19 R384). -/
def execPowerCapStep (pkg : Nat) (s : State) : Result :=
  event (stepDown pkg) s

def evThermalThrottle (n : Nat) (s : State) : Option State :=
  stepDown n (s.modPkg n (fun p => { p with temp := max p.temp (fld p.pcap 32 16) }))
/-- THERMAL_THROTTLE (19 R385). -/
def execThermalThrottle (pkg : Nat) (s : State) : Result :=
  event (evThermalThrottle pkg) s

/-- 1 ms in ticks of package time. -/
def msTicks : Nat := 3000000

def partsOf (s : State) (n : Nat) : List PartId := (s.parts.filter (fun p => p.1.pkg == n)).map (fun p => p.1)

def evThermalShutdown (n : Nat) (s : State) : Option State :=
  if !pkgUp s n || (s.pkg n).offAt.isSome then none
  else
    let s := (partsOf s n).foldl (fun s p => s.raiseLine p 0x20 none) s
    some (s.modPkg n (fun p => { p with temp := max p.temp 115, offAt := some (s.clk + msTicks) }))
/-- THERMAL_SHUTDOWN (19 R385, 17 R344). -/
def execThermalShutdown (pkg : Nat) (s : State) : Result :=
  event (evThermalShutdown pkg) s

def evPowerRemoval (n : Nat) (s : State) : Option State :=
  match (s.pkg n).offAt with
  | some t => if s.clk < t ∨ !(s.pkg n).powered then none else some (s.modPkg n (fun p => { p with powered := false }))
  | none => none
/-- POWER_REMOVAL (19 R385). -/
def execPowerRemoval (pkg : Nat) (s : State) : Result :=
  event (evPowerRemoval pkg) s

/-! ## Firmware and attestation (19 R382, R383) -/

/-- The checks of an image. -/
def FwImage.passes (f : Fw) (i : FwImage) : Bool :=
  i.keyDigest == Config.fusedKey && Config.verifies i.keyDigest i.imageDigest i.signature && decide (f.rollback ≤ i.secVersion)

/-- An image that fails a check is not staged, and a further one, for a switch or an expander, is not loaded. The mailbox answers in
recovery too, where Solstice does not run and loads nothing. -/
def evFirmwareUpdateStage (n : Nat) (img : FwImage) (s : State) : Option State :=
  match aget s.pkgs n with
  | none => none
  | some p =>
    if !pkgUp s n && !p.fw.recovery then none
    else if !FwImage.passes p.fw img then some s
    else match img.kind with
      | .solstice => some (s.modPkg n (fun p => { p with fw := { p.fw with staged := some img } }))
      | _ => if p.fw.recovery then some s else some (s.modPkg n (fun p => { p with fw := { p.fw with loaded := p.fw.loaded ++ [img] } }))
/-- FIRMWARE_UPDATE_STAGE (19 R382). -/
def execFirmwareUpdateStage (pkg : Nat) (img : FwImage) (s : State) : Result :=
  event (evFirmwareUpdateStage pkg img) s

/-- The boot ROM checks the image that a reset starts, a staged one in the place of the last, and goes to recovery where a check fails. A
staged image that starts raises the rollback counter to its security version. -/
def Fw.boot (f : Fw) : Fw :=
  let i := f.staged.getD f.image
  if FwImage.passes f i then
    { image := i, rollback := if f.staged.isSome then max f.rollback i.secVersion else f.rollback }
  else { f with staged := none, recovery := true, loaded := [] }

/-- What the package configuration's digest covers: partitions, granules, rank and VERS. -/
def configFields (s : State) (n : Nat) : List Nat :=
  (s.parts.filter (fun p => p.1.pkg == n)).flatMap (fun p => p.1.pid :: p.2.gran)
    ++ [(s.pkg n).rank, (s.pkg n).vers.toNat]

/-- The table of a context is read as all ORDER (08 R204). -/
def ctxDetm (s : State) (c : CtxId) (x : Ctx) : Bool :=
  x.det || s.launches.any (fun l => l.2.ctx == c && l.2.st != .retired && rDet l.2.rcd)

def attestFields (s : State) (n : Nat) (p : Option PartId) : List Nat :=
  let cs := s.ctxs.filter (fun c => c.1.part.pkg == n && (p.isNone || p == some c.1.part) && c.2.st != 0)
  [(s.pkg n).fw.image.imageDigest.toNat, (Config.shake256 (configFields s n)).toNat] ++ cs.flatMap (fun c =>
    [c.1.part.pid, c.1.n, c.2.gen, (ctxDetm s c.1 c.2).toNat, (Config.shake256 [c.2.table.toNat]).toNat])

def evAttestationRequest (n : Nat) (p : Option PartId) (nonce : BitVec 256) (s : State) : Option State :=
  let known := match p with
    | some q => q.pkg == n && (aget s.parts q).isSome
    | none => true
  if !pkgUp s n || !known then none
  else
    let fs := attestFields s n p
    some (s.modPkg n (fun x => { x with attest := x.attest ++
      [⟨nonce, fs, Config.signature (Config.shake256 (nonce.toNat :: fs)), Config.certChain⟩] }))
/-- ATTESTATION_REQUEST (19 R383). -/
def execAttestationRequest (pkg : Nat) (p : Option PartId) (nonce : BitVec 256) (s : State) : Result :=
  event (evAttestationRequest pkg p nonce) s

/-! ## The end of a self-test (18 R365-R370) -/

def selSite (u : RUnit) : Nat := fld u.sel 28 4
def selPlace (u : RUnit) : Nat := fld u.sel 20 8
def selIndex (u : RUnit) : Nat := fld u.sel 8 12

/-- The direction of a link that a lane number 0-63 lies in: 0-31 one, 32-63 the other. 18 R364 numbers the lanes and R366 spares them by
direction; which lanes are which is the model's choice (log entry 63). -/
def linkDir (u : RUnit) : Nat := selIndex u / 32 % 2

/-- What shares the spares of a unit, as its package counts it, and how many there are (18 R366). A port counts its own; the host link, of
which the rule gives none, has none. -/
def sparePool (u : RUnit) : RUnit × Nat :=
  match selSite u with
  | 0 => (⟨u.part, repairSel 0 (selPlace u) 0⟩, 4)
  | 1 => (⟨u.part, repairSel 1 (selPlace u) 0⟩, 1)
  | 2 => (⟨u.part, repairSel 2 (selPlace u) 0⟩, 1)
  | 4 => (⟨none, repairSel 4 (selPlace u) (32 * linkDir u)⟩, 2)
  | 5 => (⟨none, repairSel 5 (selPlace u) (32 * linkDir u)⟩, 2)
  | 7 => (u, 0)
  | _ => (u, 64)

def spareLeft (s : State) (n : Nat) (u : RUnit) : Bool :=
  if selSite u = 5 then decide (0 < ((portOf s n (selPlace u)).dirs.getD (linkDir u) {}).spares)
  else decide (agetD (s.pkg n).spares (sparePool (s.place u)).1 0 < (sparePool u).2)

/-- The strands of a lane are saved, and its lines go back to their images: they resume on the spare (18 R366). -/
def moveLane (l : LaneId) (s : State) : State :=
  let ks := (s.strands.filter (fun x => x.2.laneId == l && x.2.status == .resident)).map (fun x => x.1)
  let s := ks.foldl (fun s k => saveStrand k s) s
  let s := (s.lane l).lines.foldl (fun s h => writeLine h s) s
  s.modLane l (fun x => { x with lines := [] })

/-- A bank's clean lines are dropped, modified ones written back; an error in one of these is met by no consumer, and none stays with a copy
that is gone (18 R363). -/
def flushBank (t : TileId) (bank : Nat) (s : State) : State :=
  (s.tile t).copies.foldl (fun s c =>
    if c.1 / 64 % 16 ≠ bank then s
    else if c.2.modified then (s.glance (.copy t c.1)).send (.writeback 0 t c.1 true)
    else (s.clean (.copy t c.1)).modTile t (fun x => { x with copies := adel x.copies c.1 })) s

/-- Words that a unit's repair copies: single errors are corrected, double errors move with them, and each is a detection without a
consumer (18 R363, R366). -/
def scrubUnit (u : RUnit) (s : State) : State :=
  s.glanceAll ((s.latent.filter (fun l => (siteUnit s l.site).map (fun x => x.2.1) == some u)).map (fun l => l.site))

/-- A spare takes the place of the unit, which is a new one. -/
def takeSpare (n : Nat) (u : RUnit) (s : State) : State :=
  let v := s.place u
  let s := s.modPkg n (fun p => { p with history := p.history.filter (fun h => h.1 != v) })
  if selSite u = 5 then s.modPort n (selPlace u) (fun x => { x with dirs := lset x.dirs (linkDir u) (fun d => { d with spares := d.spares - 1 }) })
  else s.modPkg n (fun p => { p with spares := amodD p.spares (sparePool v).1 0 (· + 1) })

/-- The repair with a spare (18 R366). -/
def repairWith (n : Nat) (u : RUnit) (s : State) : State :=
  let s := takeSpare n u s
  match selSite u, u.part with
  | 1, some q => moveLane ⟨⟨q, selPlace u⟩, selIndex u / 4⟩ s
  | 2, some q => flushBank ⟨q, selPlace u⟩ (selIndex u) s
  | _, _ => scrubUnit u s

/-- With no spare left, a unit of a tile goes out of use, a link or a port runs at a reduced width (18 R366, 19 R375). -/
def withoutSpare (n : Nat) (u : RUnit) (s : State) : State :=
  let v := s.place u
  match selSite u with
  | 0 | 1 | 2 => s.modPkg n (fun p => { p with outOfUse := if p.outOfUse.contains v then p.outOfUse else v :: p.outOfUse })
  | 4 => s.modPkg n (fun p => { p with narrow := if p.narrow.contains (sparePool u).1 then p.narrow else (sparePool u).1 :: p.narrow })
  | 5 => s.modPort n (selPlace u) (fun x => { x with dirs := lset x.dirs (linkDir u) (fun d => { d with lanes := 8 }) })
  | 7 => s.modPkg n (fun p => { p with hostLanes := 8 })
  | _ => s

/-- A record enters a log of a given size, or is counted as lost (18 R368). -/
def Log.enter (size : Nat) (r : ErrRec) (l : Log) : Log :=
  if size ≤ l.recs.length then { l with lost := l.lost + 1 } else { l with recs := l.recs ++ [r] }

def enterRecord (n : Nat) (d : List PartId × ErrRec) (s : State) : State :=
  let s := d.1.foldl (fun s p =>
    let room := decide ((s.part p).log.recs.length < 64)
    let s := s.modPart p (fun q => { q with log := q.log.enter 64 d.2 })
    if room then s.post p 0x8100 d.2.sseq else s) s
  s.modPkg n (fun p => { p with log := p.log.enter 1024 d.2 })

def Counters.tested (c : Counters) (lasting : Bool) : Counters :=
  { c with st := c.st + 1, lst := c.lst + lasting.toNat }

/-- The unit has reported four errors within 2^36 ticks. -/
def manyErrors (s : State) (n : Nat) (u : RUnit) : Bool :=
  decide (4 ≤ ((s.pkg n).history.filter (fun h => h.1 == s.place u && decide (s.clk - h.2 ≤ 2 ^ 36))).length)

def evSelfTestDone (m : Nat) (passes : Bool) (s : State) : Option State :=
  match aget s.msgs m with
  | some (.selfTest n u txns dets _) =>
    let lasting := !passes || dets.any (fun d => d.2.result == 2) || (!dets.isEmpty && manyErrors s n u)
    let left := spareLeft s n u
    let code := if lasting then (if left then 2 else 3) else if dets.isEmpty then 0 else 1
    let s := s.dropMsg m
    let s := if lasting then (if left then repairWith n u s else withoutSpare n u s) else s
    let s := s.modPkg n (fun p => { p with ctrs := p.ctrs.tested lasting })
    let askers := txns.filterMap (fun t => (aget s.txns t.1).bind (fun x => (s.strand x.strand).map (fun st => st.part)))
    let s := (u.part.toList ++ dets.flatMap (fun d => d.1) ++ askers).eraseDups.foldl (fun s q =>
      s.modPart q (fun p => { p with ctrs := p.ctrs.tested lasting })) s
    let s := dets.foldl (fun s d => enterRecord n (d.1, { d.2 with result := code }) s) s
    some (txns.foldl (fun s t =>
      let act := match aget s.txns t.1 with
        | some x => x.act
        | none => []
      unparkOwner t.1 s (landResult t.1 (resultWords t.2 false act (BitVec.ofNat 64 code)) s)) s)
  | _ => none
/-- SELF_TEST_DONE (18 R365-R370). -/
def execSelfTestDone (n : Nat) (passes : Bool) (s : State) : Result :=
  event (evSelfTestDone n passes) s

/-! ### SPARE and LOGST (18 R370) -/

/-- SPARE of some tiles of a package: the fewest spare macros left on a tile, the tiles whose spare lane is in use, and the tiles with no spare
macro left. -/
def spareOf (s : State) (n : Nat) (tiles : List Nat) : BitVec 64 :=
  let used (site t : Nat) : Nat := agetD (s.pkg n).spares ⟨none, repairSel site t 0⟩ 0
  let left := tiles.map (fun t => 4 - used 0 t)
  BitVec.ofNat 64 (left.foldl min 4 + at_ (tiles.countP (fun t => used 1 t != 0)) 8 + at_ (left.countP (fun x => x == 0)) 16)

/-- The words of a partition at 0x428 and 0x430. -/
def spareWord (s : State) (p : PartId) : BitVec 64 :=
  spareOf s p.pkg ((s.part p).gran.flatMap (fun g => (List.range 4).map (fun d => 4 * g + d)))
def Log.word (l : Log) : BitVec 64 := BitVec.ofNat 64 (min l.recs.length 127 + at_ (l.lost % 65536) 16)
def logstWord (s : State) (p : PartId) : BitVec 64 := (s.part p).log.word

/-- The same for the physical function, counted over the package. -/
def pkgSpareWord (s : State) (n : Nat) : BitVec 64 := spareOf s n (List.range 192)
def pkgLogstWord (s : State) (n : Nat) : BitVec 64 := (s.pkg n).log.word

/-! ## Fabric flits (19 R376-R378) -/

/-- `a` comes before `b`, modulo 4,096, or is `b`. -/
def seqUpTo (a b : Nat) : Bool := decide ((b + 4096 - a) % 4096 < 2048)

/-- A link error at a port: its record with the link's retry count, and the test of its lanes of a direction (18 R360, R362, R367). -/
def portError (n port dir : Nat) (s : State) : State :=
  s.detect n (portUnit port dir) [] 4 2 0 0 ((portOf s n port).retries % 65536)

def portUp (s : State) (n port : Nat) : Bool := pkgUp s n && decide (port < 16) && (portOf s n port).up

def evFlitReceive (n port : Nat) (h : BitVec 64) (payload : List Byte) (crc : BitVec 64) (room : Bool) (s : State) : Option State :=
  let c := (portOf s n port).vc (hVc h)
  if !portUp s n port || hKind h != 0 || payload.length != 240 || (s.testOf n (portUnit port 0)).isSome then none
  else if crc ≠ Config.flitCrc (flitBytes h payload) ∨ hZero h ≠ 0 then some (portError n port 0 (refuseFlit n port h s))
  else if hSeq h ≠ c.expect then
    (if c.refusing || seqUpTo (hSeq h) c.expect then some s else some (refuseFlit n port h s))
  else if !room then some (refuseFlit n port h s)
  else some (acceptData n port (hVc h) (hDst h) (hSrc h) payload s)
/-- FLIT_RECEIVE (19 R376-R378). -/
def execFlitReceive (pkg port : Nat) (hdr : BitVec 64) (payload : List (BitVec 8)) (crc : BitVec 64) (room : Bool) (s : State) : Result :=
  event (evFlitReceive pkg port hdr payload crc room) s

def evAckReceive (n port : Nat) (h : BitVec 64) (s : State) : Option State :=
  if !portUp s n port || hKind h != 1 then none
  else some (s.modVc n port (hVc h) (fun c => { c with
    replay := c.replay.filter (fun f => !seqUpTo (hSeq f.hdr) (hAseq h))
    resend := match c.resend with
      | some (q, t) => if seqUpTo q (hAseq h) then none else some (q, t)
      | none => none }))
/-- ACK_RECEIVE (19 R378). -/
def execAckReceive (pkg port : Nat) (hdr : BitVec 64) (s : State) : Result :=
  event (evAckReceive pkg port hdr) s

/-- Eight NACKs for a failed CRC of one flit start the test of the port's lanes. -/
def evNackReceive (n port : Nat) (h : BitVec 64) (crc : Bool) (s : State) : Option State :=
  let c := (portOf s n port).vc (hVc h)
  if !portUp s n port || hKind h != 2 then none
  else
    let count := if !crc then c.crcNacks else if c.crcSeq = hAseq h then c.crcNacks + 1 else 1
    let due := (s.pkg n).cyc + 64
    let s := s.modVc n port (hVc h) (fun c => { c with
      resend := some (hAseq h, due), crcNacks := if count = 8 then 0 else count, crcSeq := if crc then hAseq h else c.crcSeq })
    some (if crc ∧ count = 8 then portError n port 1 s else s)
/-- NACK_RECEIVE (19 R378). -/
def execNackReceive (pkg port : Nat) (hdr : BitVec 64) (crc : Bool) (s : State) : Result :=
  event (evNackReceive pkg port hdr crc) s

def evRetransmit (n port vc : Nat) (s : State) : Option State :=
  let c := (portOf s n port).vc vc
  match c.resend with
  | none => none
  | some (q, due) =>
    if !portUp s n port || decide ((s.pkg n).cyc < due) then none
    else
      let s := s.modVc n port vc (fun c => { c with resend := none })
      let s := s.modPort n port (fun p => { p with retries := p.retries + 1 })
      some ((c.replay.filter (fun f => seqUpTo q (hSeq f.hdr))).foldl (fun s f => sendFlit n port f s) s)
/-- RETRANSMIT (19 R378). -/
def execRetransmit (pkg port vc : Nat) (s : State) : Result :=
  event (evRetransmit pkg port vc) s

/-! ## Training (19 R379-R381, R386 step 5) -/

/-- The lowest version among the ports that are up; 0 when none is. -/
def linkMin (p : Pkg) : Nat :=
  (p.ports.filter (fun x => x.2.up)).foldl (fun m x => if m = 0 then x.2.version else min m x.2.version) 0

/-- LINKMIN and DOM of VERS; outside a domain, with switches that name no fabric manager, LINKMIN reads 0 (19 R379). -/
def Pkg.setVers (dom : Nat) (p : Pkg) : Pkg :=
  { p with vers := BitVec.ofNat 64 (at_ (fld p.vers 32 32) 32 + at_ (if p.managed then linkMin p else 0) 24 + at_ dom 16 + fld p.vers 0 16) }

/-- The lowest rank that no package of the domain has; none in a domain of 512 packages, the most that a domain has (00 R5). -/
def freeRank (s : State) : Option Nat :=
  (List.range 512).find? (fun r => !s.pkgs.any (fun p => p.2.inDomain && p.2.rank == r))

/-! The versions that this part supports, as masks with bit v for version v (19 R380). -/
def hostVersions : Nat := 0b110
def linkVersions : Nat := 0b1110
def domVersions : Nat := 0b110

/-- The highest version that both masks have. -/
def agree (a b : Nat) : Option Nat := ((List.range 8).reverse).find? (fun v => a.testBit v && b.testBit v)

/-- The lowest, which a domain takes when it is formed. -/
def agreeLowest (a b : Nat) : Option Nat := (List.range 8).find? (fun v => a.testBit v && b.testBit v)

/-- What event 0x8200 carries: the number of the port, 16 for the host link, 17 for the domain protocol: the spec does not say (log entry
35). -/
def hostIface : Nat := 16
def domIface : Nat := 17

/-- A package of a machine is in the running domain; its version. -/
def domVersion (s : State) : Option Nat := (s.pkgs.find? (fun p => p.2.inDomain)).map (fun p => fld p.2.vers 16 8)

/-- A port trains, at the highest version that its other end supports too. What that supports is a free value (log entry 35). -/
def trainPort (n port : Nat) (s : State) : State :=
  let w := (Config.freeWord s.fresh).toNat
  let s : State := { s with fresh := s.fresh + 1 }
  match agree linkVersions w with
  | none => s.modPkg n (fun p => { p with events := p.events ++ [(0x8200, port)] })
  | some v => s.modPort n port (fun p => { p with up := true, version := v })

/-- A package with a port up, whose switches name a fabric manager, joins the running domain at the version that runs, with a free rank, or
forms one. Entry is refused where it does not support the version, and where no rank is free. Whether the switches name a manager, and the
versions of packages that the machine does not hold, are free values (19 R379, R380; log entry 35). -/
def joinDomain (n : Nat) (s : State) : State :=
  let w := (Config.freeWord s.fresh).toNat
  let s : State := { s with fresh := s.fresh + 1 }
  let p := s.pkg n
  let managed := p.managed || (p.ports.any (fun x => x.2.up) && w.testBit 0)
  if !managed || p.inDomain then s.modPkg n (fun p => Pkg.setVers (fld p.vers 16 8) { p with managed := managed })
  else
    let running := match domVersion s with
      | some v => some v
      | none => if w.testBit 1 then some (w / 4 % 4) else none
    let version := match running with
      | some v => if domVersions.testBit v then some v else none
      | none => agreeLowest domVersions (w / 16)
    match version, freeRank s with
    | some v, some r => s.modPkg n (fun p => Pkg.setVers v { p with managed := true, inDomain := true, rank := r })
    | some _, none => s.modPkg n (fun p => Pkg.setVers 0 { p with managed := true })
    | none, _ => s.modPkg n (fun p => Pkg.setVers 0 { p with managed := true, events := p.events ++ [(0x8200, domIface)] })

/-- A link control flit on a port that is down trains it. -/
def evLinkControl (n port : Nat) (h : BitVec 64) (s : State) : Option State :=
  if !pkgUp s n || decide (16 ≤ port) || hKind h != 3 then none
  else if (portOf s n port).up then some s
  else some (joinDomain n (trainPort n port s))
/-- LINK_CONTROL (19 R376, R379-R381, R386). -/
def execLinkControl (pkg port : Nat) (hdr : BitVec 64) (s : State) : Result :=
  event (evLinkControl pkg port hdr) s

/-! ## Cold reset (19 R386) -/

def Home.ofPkg (n : Nat) : Home → Bool
  | .slicePort t _ => t.part.pkg == n
  | .near p .. | .lpddr p _ | .expander p _ | .hostLine p => p == n

/-- A byte of the package's memory or of its slices. -/
def keyOfPkg (n key : Nat) : Bool :=
  decide ((n * 2 ^ 45 ≤ key ∧ key < (n + 1) * 2 ^ 45) ∨
    (scratchBase + n * 192 * 2 ^ 23 ≤ key ∧ key < scratchBase + (n + 1) * 192 * 2 ^ 23))

def Site.ofPkg (n : Nat) : Site → Bool
  | .word key => keyOfPkg n key
  | .copy t _ => t.part.pkg == n
  | .slot tc .. => tc.ctx.part.pkg == n
  | .acc tc _ | .shadow tc _ => tc.ctx.part.pkg == n
  | .link p .. => p == n
  | .reg .. => false

/-- What a cold reset leaves of a machine: the partitions of the package, its memory and what it had under way are gone. -/
def forgetPkg (n : Nat) (s : State) : State :=
    let s := s.forgetParts (fun q => q.pkg == n)
    { s with
      latent := s.latent.filter (fun l => !Site.ofPkg n l.site && (match l.site with
        | .reg k _ => (s.strand k).isSome
        | _ => true))
      residues := s.residues.filter (fun u => (u.part.map (fun q => q.pkg)) != some n)
      hostHeld := s.hostHeld.filter (fun k => !keyOfPkg n k)
      homes := s.homes.filter (fun h => !Home.ofPkg n h.1)
      msgs := s.msgs.filter (fun m => match m.2 with
        | .selfTest q .. => q != n
        | _ => true) }

/-- A package in which bring-up has begun: no register of Solstice is written yet. -/
def Pkg.blank (fw : Fw) (k : Nat) : Pkg := { stepNo := k, vers := 0, feat := 0, pcap := 0x640, fw := fw }

/-- A value that the spec does not state. -/
def State.draw (s : State) : Nat × State := ((Config.freeWord s.fresh).toNat, { s with fresh := s.fresh + 1 })

/-- Step 2: a unit of those that fail their self-test takes a spare or goes out of use. Its record has the class of what the march met,
which nothing consumed; the spec does not say which (log entry 63). -/
def bringUpUnit (n : Nat) (s : State) (sel : Word) : State :=
  let u : RUnit := ⟨none, sel⟩
  let left := spareLeft s n u
  let (w, s) := (if left then takeSpare n u s else withoutSpare n u s).draw
  let r : ErrRec := { detail := w % 2048, addr := 0, cons := 0, sseq := 0, unit := sel, time := s.clk, result := if left then 2 else 3
                      action := 4, cls := 1 + w / 2048 % 2 }
  s.modPkg n (fun p => { p with log := p.log.enter 1024 r })

/-- Step 3: the fields that Solstice writes. SPARE is read from the spares that are left. -/
def Pkg.writeFw (p : Pkg) : Pkg :=
  { p with feat := Pkg.reset.feat, pcap := Pkg.reset.pcap, vers := BitVec.ofNat 64 (at_ 1 48 + at_ 4 32) }

/-- A step fails: event 0x8300 where the physical function is up, and the package stays there. -/
def failStep (n k : Nat) (s : State) : State :=
  s.modPkg n (fun p => { p with stepNo := k, events := if 5 ≤ k then p.events ++ [(0x8300, k)] else p.events })

/-- Step 6: RDY, and what bring-up met is counted: lasting faults. -/
def ready (n : Nat) (s : State) : State :=
  s.modPkg n (fun p => { p with stepNo := 6, vers := p.vers ||| 1, ctrs := { p.ctrs with lst := p.log.recs.length + p.log.lost } })

/-- Step 5: ports that have another end train, and the package joins its domain. Whether a port has one, and whether the step fails, are
free values. -/
def bringUpFabric (n : Nat) (s : State) : State :=
  let (w, s) := s.draw
  let s := (joinDomain n ((List.range 16).foldl (fun s port => if w.testBit port then trainPort n port s else s) s))
  if w.testBit 16 then failStep n 5 s else ready n s

/-- Step 4: the host link trains, and the protocol is agreed. With no common version the interface stays down. -/
def bringUpHost (n : Nat) (s : State) : State :=
  let (w, s) := s.draw
  if w.testBit 16 then failStep n 4 s
  else match agree hostVersions w with
    | none => failStep n 4 (s.modPkg n (fun p => { p with events := p.events ++ [(0x8200, hostIface)] }))
    | some v => bringUpFabric n (s.modPkg n (fun p => { p with stepNo := 5, vers := p.vers ||| BitVec.ofNat 64 (at_ v 8) }))

/-- Steps 2 to 6 after the boot ROM has started Solstice. Which steps fail and which units are lasting are free values (log entry 50). -/
def bringUp (n : Nat) (s : State) : State :=
  let (w, s) := s.draw
  if w.testBit 0 then failStep n 2 s
  else bringUpHost n (((Config.bringUpUnits w).foldl (bringUpUnit n) s).modPkg n Pkg.writeFw)

/-- COLD_RESET: the checks of the image decide whether the package leaves recovery, at step 1. -/
def evColdReset (n : Nat) (s : State) : Option State :=
  match aget s.pkgs n with
  | none => none
  | some p =>
    let fw := p.fw.boot
    let s := (forgetPkg n s).modPkg n (fun _ => Pkg.blank fw (if fw.recovery then 1 else 2))
    some (if fw.recovery then s else bringUp n s)
/-- COLD_RESET (19 R382, R386, 16 R319). -/
def execColdReset (pkg : Nat) (s : State) : Result :=
  clearing (fun key => !keyOfPkg pkg key) (evColdReset pkg) s

end Sys2Proof.Machine
end

