-- ==== Sys2Proof/Machine/Logic.lean ====
section
/-! DEFINITION. Logic, bit fields, comparisons, predicates and the strand-wide instructions, groups 0x2 and 0x3
(05 R121-R134). -/

namespace Sys2Proof.Machine

def effAnd : Effect := regEff (fun r => w32 (r.aw &&& r.bw))
/-- AND (05 R121). -/
def execAnd (h : Hdr) (d a b : Opd) (s : State) : Result :=
  issue (.and h d a b) effAnd s

def effOr : Effect := regEff (fun r => w32 (r.aw ||| r.bw))
/-- OR (05 R121). -/
def execOr (h : Hdr) (d a b : Opd) (s : State) : Result :=
  issue (.or h d a b) effOr s

def effXor : Effect := regEff (fun r => w32 (r.aw ^^^ r.bw))
/-- XOR (05 R121). -/
def execXor (h : Hdr) (d a b : Opd) (s : State) : Result :=
  issue (.xor h d a b) effXor s

def effNot : Effect := regEff (fun r => w32 (~~~r.aw))
/-- NOT (05 R121). -/
def execNot (h : Hdr) (d a : Opd) (s : State) : Result :=
  issue (.not h d a) effNot s

def effAndn : Effect := regEff (fun r => w32 (r.aw &&& ~~~r.bw))
/-- ANDN (05 R121). -/
def execAndn (h : Hdr) (d a b : Opd) (s : State) : Result :=
  issue (.andn h d a b) effAndn s

def effShl (wrap : Bool) : Effect := regEff (fun r => w32 (shlVal r.aw (shiftCount wrap r.bw)))
/-- SHL (05 R122). -/
def execShl (h : Hdr) (d a b : Opd) (wrap : Bool) (s : State) : Result :=
  issue (.shl h d a b wrap) (effShl wrap) s

def effShr (wrap : Bool) : Effect := regEff (fun r => w32 (shrVal r.aw (shiftCount wrap r.bw)))
/-- SHR (05 R122). -/
def execShr (h : Hdr) (d a b : Opd) (wrap : Bool) (s : State) : Result :=
  issue (.shr h d a b wrap) (effShr wrap) s

def effSar (wrap : Bool) : Effect := regEff (fun r => w32 (sarVal r.aw (shiftCount wrap r.bw)))
/-- SAR (05 R122). -/
def execSar (h : Hdr) (d a b : Opd) (wrap : Bool) (s : State) : Result :=
  issue (.sar h d a b wrap) (effSar wrap) s

def effRol : Effect := regEff (fun r => w32 (rolVal r.aw r.bw.toNat))
/-- ROL (05 R122). -/
def execRol (h : Hdr) (d a b : Opd) (s : State) : Result :=
  issue (.rol h d a b) effRol s

def effFshl (wrap : Bool) : Effect := regEff (fun r => w32 (fshlVal r.aw r.bw (shiftCount wrap r.cw)))
/-- FSHL (05 R122). -/
def execFshl (h : Hdr) (d a b c : Opd) (wrap : Bool) (s : State) : Result :=
  issue (.fshl h d a b c wrap) (effFshl wrap) s

def effBfe (ty : Ty) : Effect := regEff (fun r => w32 (bfeVal (Ty.signed ty) r.aw r.bw))
/-- BFE (05 R123). -/
def execBfe (h : Hdr) (d a b : Opd) (ty : Ty) (s : State) : Result :=
  issue (.bfe h d a b ty) (effBfe ty) s

def effBfi : Effect := eff3 bfiVal
/-- BFI (05 R123). -/
def execBfi (h : Hdr) (d a b c : Opd) (s : State) : Result :=
  issue (.bfi h d a b c) effBfi s

def effPopc (w : Bool) : Effect := regEff (fun r => w32 (BitVec.ofNat 32 (popcount (if w then 64 else 32) r.a.toNat)))
/-- POPC (05 R124). -/
def execPopc (h : Hdr) (d a : Opd) (w : Bool) (s : State) : Result :=
  issue (.popc h d a w) (effPopc w) s

def effClz (w : Bool) : Effect := regEff (fun r => w32 (BitVec.ofNat 32 (leading (if w then 64 else 32) r.a.toNat)))
/-- CLZ (05 R124). -/
def execClz (h : Hdr) (d a : Opd) (w : Bool) (s : State) : Result :=
  issue (.clz h d a w) (effClz w) s

def effCtz (w : Bool) : Effect := regEff (fun r => w32 (BitVec.ofNat 32 (trailing (if w then 64 else 32) r.a.toNat)))
/-- CTZ (05 R124). -/
def execCtz (h : Hdr) (d a : Opd) (w : Bool) (s : State) : Result :=
  issue (.ctz h d a w) (effCtz w) s

def effBrev : Effect := regEff (fun r => w32 (brevVal r.aw))
/-- BREV (05 R124). -/
def execBrev (h : Hdr) (d a : Opd) (s : State) : Result :=
  issue (.brev h d a) effBrev s

def effPrmt : Effect := eff3 prmtVal
/-- PRMT (05 R125). -/
def execPrmt (h : Hdr) (d a b c : Opd) (s : State) : Result :=
  issue (.prmt h d a b c) effPrmt s

def effLop3 (fn : BitVec 8) : Effect := regEff (fun r =>
  { d := (lop3Val fn r.aw r.bw r.cw).zeroExtend 64, ps := [lop3Val fn r.aw r.bw r.cw == 0#32] })
/-- LOP3 (05 R121). -/
def execLop3 (h : Hdr) (d a b c : Opd) (fn : BitVec 8) (ze : Bool) (pz : BitVec 3) (s : State) : Result :=
  issue (.lop3 h d a b c fn ze pz) (effLop3 fn) s

/-! ## Comparisons and predicates -/

/-- An operand of ICMP as an exact integer (05 R126). -/
def icmpArg (ty : Ty) (a : Dword) : Int :=
  if isWide ty then intOf (Ty.signed ty) a else intOf (Ty.signed ty) (a.truncate 32 : Word)

def effIcmp (ty : Ty) (cmp : Cmp) (comb : BitVec 2) : Effect := regEff (fun r =>
  { ps := [combine comb (intCmp cmp (icmpArg ty r.a) (icmpArg ty r.b)) (r.p 0)] })
/-- ICMP (05 R126). -/
def execIcmp (h : Hdr) (a b : Opd) (ty : Ty) (pd : BitVec 3) (cmp : Cmp) (comb : BitVec 2) (pc : BitVec 3) (s : State) : Result :=
  issue (.icmp h a b ty pd cmp comb pc) (effIcmp ty cmp comb) s

def effFcmp (cmp : Cmp) (comb : BitVec 2) : Effect := regEff (fun r =>
  { ps := [combine comb (floatCmp cmp r.aw r.bw) (r.p 0)] })
/-- FCMP (05 R126). -/
def execFcmp (h : Hdr) (a b : Opd) (pd : BitVec 3) (cmp : Cmp) (comb : BitVec 2) (pc : BitVec 3) (s : State) : Result :=
  issue (.fcmp h a b pd cmp comb pc) (effFcmp cmp comb) s

def effSel (inv : Bool) : Effect := regEff (fun r => { d := if r.p 0 != inv then r.a else r.b })
/-- SEL (05 R127). -/
def execSel (h : Hdr) (d a b : Opd) (w inv : Bool) (ks : BitVec 3) (s : State) : Result :=
  issue (.sel h d a b w inv ks) (effSel inv) s

def effPset (fn : BitVec 8) : Effect := regEff (fun r => { ps := [minterm fn (r.p 0) (r.p 1) (r.p 2)] })
/-- PSET (05 R128). -/
def execPset (h : Hdr) (pd pa pb pc : BitVec 3) (fn : BitVec 8) (pt : Bool) (s : State) : Result :=
  issue (.pset h pd pa pb pc fn pt) (effPset fn) s

/-- The mask of a predicate over all sixteen threads (05 R129). -/
def predMask (s : State) (x : Iss) (kp : BitVec 3) : Word :=
  (maskOf ((List.range 16).filter (fun t => s.predBit x.st kp.toNat t x.t0))).zeroExtend 32

def effPmov (dir : Bool) (kp : BitVec 3) : Effect := fun x s =>
  if dir then regEff (fun r => { ps := [r.aw.getLsbD r.t] }) x s
  else .ok (writeRows x (x.act.map (fun t => (t, w32 (predMask s x kp)))) s)
/-- PMOV (05 R129). -/
def execPmov (h : Hdr) (d a : Opd) (dir : Bool) (kp : BitVec 3) (s : State) : Result :=
  issue (.pmov h d a dir kp) (effPmov dir kp) s

/-! ## Strand-wide instructions -/

def effVote (cond : BitVec 3) (inv : Bool) : Effect := combEff (fun rs =>
  let bits := rs.map (fun r => (r.t, r.p 0 != inv))
  let c := (bits.filter (fun p => p.2)).length
  rs.map (fun r => (r.t, { d := (censusWord bits).zeroExtend 64, ps := [voteCond cond rs.length c] })))
/-- VOTE (05 R131). -/
def execVote (h : Hdr) (d : Opd) (cond : BitVec 3) (ks : BitVec 3) (inv : Bool) (pd : BitVec 3) (s : State) : Result :=
  issue (.vote h d cond ks inv pd) (effVote cond inv) s

/-- The thread a SHFL takes its value from, where that thread is active (05 R132). -/
def shflFrom (mode : BitVec 2) (rs : List Rd) (r : Rd) : Option Rd :=
  rs.find? (fun u => decide (shflIndex mode r.t r.bw = (u.t : Int)))

def effShfl (mode : BitVec 2) (fill : Bool) : Effect := combEff (fun rs =>
  rs.map (fun r => (r.t, match shflFrom mode rs r with
    | some u => { d := u.a, ps := [true] }
    | none => { d := if fill then r.c else r.a, ps := [false] })))
/-- SHFL (05 R132). -/
def execShfl (h : Hdr) (d a b c : Opd) (mode : BitVec 2) (pd : BitVec 3) (w fill : Bool) (s : State) : Result :=
  issue (.shfl h d a b c mode pd w fill) (effShfl mode fill) s

/-- The threads of a fold, with the starts of its segments (05 R133). A NaN of a floating-point fold enters it as the canonical
NaN, for no payload passes from input to output (03 R61). -/
def foldIns (op : BitVec 4) (seg : Bool) (rs : List Rd) : List FoldIn := rs.map (fun r =>
  ⟨r.t, if 6 ≤ op.toNat ∧ fp32.decode r.aw.toNat = .nan then BitVec.ofNat 32 fp32.nanBits else r.aw, seg && r.p 0⟩)

def effRedux (ty : Ty) (rm : Rm) (sat : Bool) (op : BitVec 4) (seg : Bool) : Effect := fun x =>
  combEff (fun rs => (reduxVals (foldStep op ty sat (x.st.rounding rm)) (foldIns op seg rs)).map (fun p => (p.1, w32 p.2))) x
/-- REDUX (05 R133). -/
def execRedux (h : Hdr) (d a : Opd) (ty : Ty) (rm : Rm) (sat : Bool) (op : BitVec 4) (seg : Bool) (kg : BitVec 3) (s : State) : Result :=
  issue (.redux h d a ty rm sat op seg kg) (effRedux ty rm sat op seg) s

def effScan (ty : Ty) (rm : Rm) (sat : Bool) (op : BitVec 4) (excl seg : Bool) : Effect := fun x =>
  combEff (fun rs => (scanVals (foldStep op ty sat (x.st.rounding rm)) (foldIdentity op ty) excl (foldIns op seg rs)).map
    (fun p => (p.1, w32 p.2))) x
/-- SCAN (05 R133). -/
def execScan (h : Hdr) (d a : Opd) (ty : Ty) (rm : Rm) (sat : Bool) (op : BitVec 4) (excl seg : Bool) (kg : BitVec 3) (s : State) : Result :=
  issue (.scan h d a ty rm sat op excl seg kg) (effScan ty rm sat op excl seg) s

/-- The threads whose value equals that of `r` (05 R134). -/
def matchGroup (rs : List Rd) (r : Rd) : List Nat := (rs.filter (fun u => u.a == r.a)).map (fun u => u.t)

def effMatch (km : Bool) : Effect := combEff (fun rs =>
  rs.map (fun r => (r.t, { d := (groupWord (matchGroup rs r)).zeroExtend 64
                           ps := [if km then rs.all (fun u => u.a == r.a) else (matchGroup rs r).head? == some r.t] })))
/-- MATCH (05 R134). -/
def execMatchT (h : Hdr) (d a : Opd) (w : Bool) (pd : BitVec 3) (km : Bool) (s : State) : Result :=
  issue (.matchT h d a w pd km) (effMatch km) s

end Sys2Proof.Machine
end

