-- ==== Sys2Proof/Machine/Effects.lean ====
section
/-! DEFINITION. The effect of every lane instruction, as a drain performs it (02 R48); the residual drain (02 R48-R59) and the
page walk (17 R339, R343). -/

namespace Sys2Proof.Machine

/-- The effect of a lane instruction; none for the other steps. -/
def effOf : Instr → Option Effect
  | .nop _ => some effNop
  | .bra _ off slot => some (effBra off slot)
  | .brx _ _ => some effBrx
  | .call _ off slot => some (effCall off slot)
  | .callx _ _ => some effCallx
  | .ret _ => some effRet
  | .bpend _ off slot test sense fmask => some (effBpend off slot test sense fmask)
  | .exit _ => some effExit
  | .yield _ => some effYield
  | .idem _ => some effIdem
  | .trap _ code => some (effTrap code)
  | .brk _ code => some (effBrk code)
  | .mode _ _ sel imm => some (effMode sel imm)
  | .join _ _ key => some (effJoin key)
  | .leave _ key => some (effLeave key)
  | .launch _ d _ _ => some (effLaunch d)
  | .nap _ _ imm => some (effNap imm)
  | .iadd _ _ _ _ ty sat => some (effIadd ty sat)
  | .isub _ _ _ _ ty sat => some (effIsub ty sat)
  | .iaddc _ _ _ _ ci _ _ => some (effIaddc ci)
  | .isubb _ _ _ _ ci _ _ => some (effIsubb ci)
  | .imul _ _ _ _ ty sat => some (effImul ty sat)
  | .imulh _ _ _ _ ty => some (effImulh ty)
  | .imad _ _ _ _ _ ty sat => some (effImad ty sat)
  | .imadw _ _ _ _ _ ty => some (effImadw ty)
  | .imin _ _ _ _ ty => some (effImin ty)
  | .imax _ _ _ _ ty => some (effImax ty)
  | .iabs _ _ _ sat => some (effIabs sat)
  | .ineg _ _ _ sat => some (effIneg sat)
  | .lea _ _ m => some (effLea m)
  | .iadd64 _ _ _ _ bx => some (effIadd64 bx)
  | .isad _ _ _ _ _ ty => some (effIsad ty)
  | .idot4 _ _ _ _ _ ty mix sat => some (effIdot4 ty mix sat)
  | .ireq _ _ _ _ ty rm sat wide an => some (effIreq ty rm sat wide an)
  | .mov _ _ _ _ => some effMov
  | .movi _ _ imm form => some (effMovi imm form)
  | .movx _ d a _ wr => some (effMovx d a wr)
  | .movxw _ d a _ wr => some (effMovxw d a wr)
  | .and _ _ _ _ => some effAnd
  | .or _ _ _ _ => some effOr
  | .xor _ _ _ _ => some effXor
  | .not _ _ _ => some effNot
  | .andn _ _ _ _ => some effAndn
  | .shl _ _ _ _ wrap => some (effShl wrap)
  | .shr _ _ _ _ wrap => some (effShr wrap)
  | .sar _ _ _ _ wrap => some (effSar wrap)
  | .rol _ _ _ _ => some effRol
  | .fshl _ _ _ _ _ wrap => some (effFshl wrap)
  | .bfe _ _ _ _ ty => some (effBfe ty)
  | .bfi _ _ _ _ _ => some effBfi
  | .popc _ _ _ w => some (effPopc w)
  | .clz _ _ _ w => some (effClz w)
  | .ctz _ _ _ w => some (effCtz w)
  | .brev _ _ _ => some effBrev
  | .prmt _ _ _ _ _ => some effPrmt
  | .lop3 _ _ _ _ _ fn _ _ => some (effLop3 fn)
  | .icmp _ _ _ ty _ cmp comb _ => some (effIcmp ty cmp comb)
  | .fcmp _ _ _ _ cmp comb _ => some (effFcmp cmp comb)
  | .sel _ _ _ _ _ inv _ => some (effSel inv)
  | .pset _ _ _ _ _ fn _ => some (effPset fn)
  | .pmov _ _ _ dir kp => some (effPmov dir kp)
  | .vote _ _ cond _ inv _ => some (effVote cond inv)
  | .shfl _ _ _ _ _ mode _ _ fill => some (effShfl mode fill)
  | .redux _ _ _ ty rm sat op seg _ => some (effRedux ty rm sat op seg)
  | .scan _ _ _ ty rm sat op excl seg _ => some (effScan ty rm sat op excl seg)
  | .matchT _ _ _ _ _ km => some (effMatch km)
  | .fadd _ _ _ _ ty rm sat => some (effFadd ty rm sat)
  | .fsub _ _ _ _ ty rm sat => some (effFsub ty rm sat)
  | .fmul _ _ _ _ ty rm sat => some (effFmul ty rm sat)
  | .ffma _ _ _ _ _ ty rm sat => some (effFfma ty rm sat)
  | .fmin _ _ _ _ ty => some (effFmin ty)
  | .fmax _ _ _ _ ty => some (effFmax ty)
  | .fclass _ _ _ _ ty _ _ => some (effFclass ty)
  | .fscale _ _ _ _ ty rm sat => some (effFscale ty rm sat)
  | .frnd _ _ _ ty rm => some (effFrnd ty rm)
  | .fdot2 _ _ _ _ _ ty rm sat => some (effFdot2 ty rm sat)
  | .frcp _ _ _ => some effFrcp
  | .frsq _ _ _ => some effFrsq
  | .fsqrt _ _ _ rm sat => some (effFsqrt rm sat)
  | .fexp2 _ _ _ => some effFexp2
  | .flog2 _ _ _ => some effFlog2
  | .fsinp _ _ _ => some effFsinp
  | .fcosp _ _ _ => some effFcosp
  | .cvt _ _ _ _ ty sty rm sat pos => some (effCvt ty sty rm sat pos)
  | .cvtef _ _ _ _ _ ty sat pos => some (effCvtef ty sat pos)
  | .cvtsr _ _ _ _ _ ty sat pos => some (effCvtsr ty sat pos)
  | .blkh _ _ _ => some effBlkh
  | .blkhw _ _ _ b chk => some (effBlkhw b chk)
  | .blkpack _ _ _ _ ty rm sat esc i4 => some (effBlkpack ty rm sat esc i4)
  | .blkunp _ _ a cnt rm sat => some (effBlkunp a cnt rm sat)
  | .blkscl _ _ a _ fit ty sat i4 => some (effBlkscl a fit ty sat i4)
  | .ld _ d m ty mm => some (effLd d m ty mm)
  | .st _ _ m ty mm => some (effSt m ty mm)
  | .ldu _ d m ty mm => some (effLdu d m ty mm)
  | .stu _ _ m ty mm => some (effStu m ty mm)
  | .ldb _ d m ty mm => some (effLdb d m ty mm)
  | .stb _ d m ty mm => some (effStb d m ty mm)
  | .pref _ m st => some (effPref m st)
  | .cwb _ m => some (effCwb m)
  | .cinv _ m => some (effCinv m)
  | .atom _ d m ty opc am => some (effAtom d m ty opc am)
  | .red _ d m ty opc am => some (effRed d m ty opc am)
  | .cas _ d m ty am => some (effCas d m ty am)
  | .fence _ ord scope => some (effFence ord scope)
  | .algld _ d m => some (effAlgld d m)
  | .algrd _ d _ => some (effAlgrd d)
  | .algclr _ => some effAlgclr
  | .bari _ _ key dom => some (effBari key dom)
  | .bara _ d key => some (effBara d key)
  | .barw _ d key => some (effBarw d key)
  | .bard _ key => some (effBard key)
  | .barq _ d key => some (effBarq d key)
  | .watch _ _ m ty cmp slot => some (effWatch m ty cmp slot)
  | .doze _ d a sel => some (effDoze d a sel)
  | .unwatch _ sel => some (effUnwatch sel)
  | .shrmap _ d cnt key rid => some (effShrmap d cnt key rid)
  | .shrunmap _ d => some (effShrunmap d)
  | .ferd _ _ a => some (effFerd a)
  | .fewr _ d _ => some (effFewr d)
  | .qcfg _ d _ qn unb => some (effQcfg d qn unb)
  | .qstat _ _ a => some (effQstat a)
  | .tokw _ => some effTokw
  | .tokp _ => some effTokp
  | .bdecl _ _ m buf => some (effBdecl m buf)
  | .bset _ d _ buf tmo try_ => some (effBset d buf tmo try_)
  | .brel _ _ buf => some (effBrel buf)
  | .bqry _ d _ buf => some (effBqry d buf)
  | .stat _ _ buf => some (effStat buf)
  | .unstat _ _ buf => some (effUnstat buf)
  | .oclaim _ d _ slot try_ => some (effOclaim d slot try_)
  | .orels _ _ slot => some (effOrels slot)
  | .oput _ d _ _ slot sealed => some (effOput d slot sealed)
  | .task _ _ _ spec => some (effTask spec)
  | .accz _ _ acc kind => some (effAccz acc kind)
  | .accrd _ d _ _ acc ty rm sat sh cnt => some (effAccrd d acc ty rm sat sh cnt)
  | .accwr _ _ _ _ acc ty cnt => some (effAccwr acc ty cnt)
  | .acccmt _ _ acc => some (effAcccmt acc)
  | .accdsc _ _ acc => some (effAccdsc acc)
  | .twait _ _ acc all => some (effTwait acc all)
  | .slay _ _ _ eng lay => some (effSlay eng lay)
  | .sfill _ _ _ eng ring lay slots first cnt => some (effSfill eng ring lay slots first cnt)
  | .sdrain _ _ _ eng ring lay first cnt => some (effSdrain eng ring lay first cnt)
  | .ssig _ _ eng ring full => some (effSsig eng ring full)
  | .qfence _ tq se cq => some (effQfence tq se cq)
  | .coll _ _ cq => some (effColl cq)
  | .cseq _ d _ _ region rd dty => some (effCseq d region rd dty)
  | .ewait _ d _ _ kind res => some (effEwait d kind res)
  | .rand _ d _ b => some (effRand d b)
  | .rres _ d _ _ _ rel => some (effRres d rel)
  | .csrr _ _ csr => some (effCsrr csr)
  | .csrw _ _ csr => some (effCsrw csr)
  | .clock _ _ lane => some (effClock lane)
  | .tret _ => some effTret
  | .stoprd _ d _ _ => some (effStoprd d)
  | .regev _ _ _ => some effRegev
  | .haltl _ clr => some (effHaltl clr)
  | .errlog _ d _ pop => some (effErrlog d pop)
  | .stest _ d _ => some (effStest d)
  | .tlbinv _ _ part va => some (effTlbinv part va)
  | _ => none

/-- RESIDUAL_DRAIN (02 R48, R49, R53, R55, R57). -/
def execResidualDrain (k : Nat) (s : State) : Result :=
  event (attemptDrain k effOf) s

/-! ## PAGE_WALK (17 R339, R343; 18 R363) -/

/-- What a walk of a strand comes to: an entry for its translation cache, a page fault, or the cause of a fault. -/
def walkAnswer (k : Nat) (st : Strand) (va : Nat) (fault : Nat → State → State) (s : State) : Option State :=
  match unitRead 8 (s.walkPlaces (s.walkCache st.tileId) st.ctx va) st.unit st.part s with
    | none => none
    | some (s, some c) => some (fault c s)
    | some (s, none) => match s.walkVia st.tileId st.ctx va, s.walkFill st.tileId st.ctx va with
      | .page, s => some (s.pageFault k va)
      | .bad, s => some (fault 0x10 s)
      | .leaf log e, s => some (s.tlbFill st.tileId { ctx := st.ctx, va := va, log := log, leaf := e })

/-- The walk for the line at a strand's issue address. -/
def fetchWalk (s : State) (st : Strand) : Option Nat :=
  match st.issueAddr with
  | none => none
  | some pc => if (s.fetched st pc).isSome then none else match checkFetch s st pc with
    | .walk va => some va
    | _ => none

/-- The walk that an instruction ready at the issue address waits for. -/
def issueWalk (k : Nat) (st : Strand) (s : State) : Option (Iss × Nat × Nat) :=
  match nextInstr s st with
  | none => none
  | some i => (effOf i).bind (fun eff => attemptWalk i eff { s with cur := k })

/-- The walk that strand `k` waits for ends: for its line, for its instruction, or for its oldest entry. -/
def evPageWalk (k : Nat) (s : State) : Option State :=
  match s.strand k with
  | none => none
  | some st =>
    if !st.runs s then none
    else match fetchWalk s st with
      | some va => walkAnswer k st va (fun c s => s.issueFault k { cause := c, addr := va }) s
      | none => match issueWalk k st s with
        | some (x, va, t) =>
          walkAnswer k st va (fun c s => s.preciseFault k { cause := c, addr := va, lowt := t } x.pc x.exm x.act) s
        | none => match drainWalk k effOf s with
          | some (e, x, va, t) => walkAnswer k st va (fun c s => s.drainFault k { cause := c, addr := va, lowt := t } e x.act) s
          | none => none
/-- PAGE_WALK (17 R339, R343; 02 R57). -/
def execPageWalk (n : Nat) (s : State) : Result :=
  event (evPageWalk n) s

end Sys2Proof.Machine
end

