-- ==== Sys2Proof/Machine/Dispatch.lean ====
section
/-! DEFINITION. The meaning of every constructor of Instr: one arm each (04 R94 for the instructions, 95 for the other steps). -/

namespace Sys2Proof.Machine

def exec (i : Instr) (s : State) : Host.Outcome State Fault Refusal :=
  match i with
  | .nop h => Sys2Proof.Machine.execNop h s
  | .bra h off slot => Sys2Proof.Machine.execBra h off slot s
  | .brx h a => Sys2Proof.Machine.execBrx h a s
  | .call h off slot => Sys2Proof.Machine.execCall h off slot s
  | .callx h a => Sys2Proof.Machine.execCallx h a s
  | .ret h => Sys2Proof.Machine.execRet h s
  | .bpend h off slot test sense fmask => Sys2Proof.Machine.execBpend h off slot test sense fmask s
  | .exit h => Sys2Proof.Machine.execExit h s
  | .yield h => Sys2Proof.Machine.execYield h s
  | .idem h => Sys2Proof.Machine.execIdem h s
  | .trap h code => Sys2Proof.Machine.execTrap h code s
  | .brk h code => Sys2Proof.Machine.execBrk h code s
  | .mode h d sel imm => Sys2Proof.Machine.execMode h d sel imm s
  | .join h d key => Sys2Proof.Machine.execJoin h d key s
  | .leave h key => Sys2Proof.Machine.execLeave h key s
  | .launch h d a b => Sys2Proof.Machine.execLaunch h d a b s
  | .nap h a imm => Sys2Proof.Machine.execNap h a imm s
  | .iadd h d a b ty sat => Sys2Proof.Machine.execIadd h d a b ty sat s
  | .isub h d a b ty sat => Sys2Proof.Machine.execIsub h d a b ty sat s
  | .iaddc h d a b ci cip cop => Sys2Proof.Machine.execIaddc h d a b ci cip cop s
  | .isubb h d a b ci cip cop => Sys2Proof.Machine.execIsubb h d a b ci cip cop s
  | .imul h d a b ty sat => Sys2Proof.Machine.execImul h d a b ty sat s
  | .imulh h d a b ty => Sys2Proof.Machine.execImulh h d a b ty s
  | .imad h d a b c ty sat => Sys2Proof.Machine.execImad h d a b c ty sat s
  | .imadw h d a b c ty => Sys2Proof.Machine.execImadw h d a b c ty s
  | .imin h d a b ty => Sys2Proof.Machine.execImin h d a b ty s
  | .imax h d a b ty => Sys2Proof.Machine.execImax h d a b ty s
  | .iabs h d a sat => Sys2Proof.Machine.execIabs h d a sat s
  | .ineg h d a sat => Sys2Proof.Machine.execIneg h d a sat s
  | .lea h d m => Sys2Proof.Machine.execLea h d m s
  | .iadd64 h d a b bx => Sys2Proof.Machine.execIadd64 h d a b bx s
  | .isad h d a b c ty => Sys2Proof.Machine.execIsad h d a b c ty s
  | .idot4 h d a b c ty mix sat => Sys2Proof.Machine.execIdot4 h d a b c ty mix sat s
  | .ireq h d a b ty rm sat wide an => Sys2Proof.Machine.execIreq h d a b ty rm sat wide an s
  | .mov h d a w => Sys2Proof.Machine.execMov h d a w s
  | .movi h d imm form => Sys2Proof.Machine.execMovi h d imm form s
  | .movx h d a b wr => Sys2Proof.Machine.execMovx h d a b wr s
  | .movxw h d a b wr => Sys2Proof.Machine.execMovxw h d a b wr s
  | .and h d a b => Sys2Proof.Machine.execAnd h d a b s
  | .or h d a b => Sys2Proof.Machine.execOr h d a b s
  | .xor h d a b => Sys2Proof.Machine.execXor h d a b s
  | .not h d a => Sys2Proof.Machine.execNot h d a s
  | .andn h d a b => Sys2Proof.Machine.execAndn h d a b s
  | .shl h d a b wrap => Sys2Proof.Machine.execShl h d a b wrap s
  | .shr h d a b wrap => Sys2Proof.Machine.execShr h d a b wrap s
  | .sar h d a b wrap => Sys2Proof.Machine.execSar h d a b wrap s
  | .rol h d a b => Sys2Proof.Machine.execRol h d a b s
  | .fshl h d a b c wrap => Sys2Proof.Machine.execFshl h d a b c wrap s
  | .bfe h d a b ty => Sys2Proof.Machine.execBfe h d a b ty s
  | .bfi h d a b c => Sys2Proof.Machine.execBfi h d a b c s
  | .popc h d a w => Sys2Proof.Machine.execPopc h d a w s
  | .clz h d a w => Sys2Proof.Machine.execClz h d a w s
  | .ctz h d a w => Sys2Proof.Machine.execCtz h d a w s
  | .brev h d a => Sys2Proof.Machine.execBrev h d a s
  | .prmt h d a b c => Sys2Proof.Machine.execPrmt h d a b c s
  | .lop3 h d a b c fn ze pz => Sys2Proof.Machine.execLop3 h d a b c fn ze pz s
  | .icmp h a b ty pd cmp comb pc => Sys2Proof.Machine.execIcmp h a b ty pd cmp comb pc s
  | .fcmp h a b pd cmp comb pc => Sys2Proof.Machine.execFcmp h a b pd cmp comb pc s
  | .sel h d a b w inv ks => Sys2Proof.Machine.execSel h d a b w inv ks s
  | .pset h pd pa pb pc fn pt => Sys2Proof.Machine.execPset h pd pa pb pc fn pt s
  | .pmov h d a dir kp => Sys2Proof.Machine.execPmov h d a dir kp s
  | .vote h d cond ks inv pd => Sys2Proof.Machine.execVote h d cond ks inv pd s
  | .shfl h d a b c mode pd w fill => Sys2Proof.Machine.execShfl h d a b c mode pd w fill s
  | .redux h d a ty rm sat op seg kg => Sys2Proof.Machine.execRedux h d a ty rm sat op seg kg s
  | .scan h d a ty rm sat op excl seg kg => Sys2Proof.Machine.execScan h d a ty rm sat op excl seg kg s
  | .matchT h d a w pd km => Sys2Proof.Machine.execMatchT h d a w pd km s
  | .fadd h d a b ty rm sat => Sys2Proof.Machine.execFadd h d a b ty rm sat s
  | .fsub h d a b ty rm sat => Sys2Proof.Machine.execFsub h d a b ty rm sat s
  | .fmul h d a b ty rm sat => Sys2Proof.Machine.execFmul h d a b ty rm sat s
  | .ffma h d a b c ty rm sat => Sys2Proof.Machine.execFfma h d a b c ty rm sat s
  | .fmin h d a b ty => Sys2Proof.Machine.execFmin h d a b ty s
  | .fmax h d a b ty => Sys2Proof.Machine.execFmax h d a b ty s
  | .fclass h d a b ty p pd => Sys2Proof.Machine.execFclass h d a b ty p pd s
  | .fscale h d a b ty rm sat => Sys2Proof.Machine.execFscale h d a b ty rm sat s
  | .frnd h d a ty rm => Sys2Proof.Machine.execFrnd h d a ty rm s
  | .fdot2 h d a b c ty rm sat => Sys2Proof.Machine.execFdot2 h d a b c ty rm sat s
  | .frcp h d a => Sys2Proof.Machine.execFrcp h d a s
  | .frsq h d a => Sys2Proof.Machine.execFrsq h d a s
  | .fsqrt h d a rm sat => Sys2Proof.Machine.execFsqrt h d a rm sat s
  | .fexp2 h d a => Sys2Proof.Machine.execFexp2 h d a s
  | .flog2 h d a => Sys2Proof.Machine.execFlog2 h d a s
  | .fsinp h d a => Sys2Proof.Machine.execFsinp h d a s
  | .fcosp h d a => Sys2Proof.Machine.execFcosp h d a s
  | .cvt h d a c ty sty rm sat pos => Sys2Proof.Machine.execCvt h d a c ty sty rm sat pos s
  | .cvtef h d a b c ty sat pos => Sys2Proof.Machine.execCvtef h d a b c ty sat pos s
  | .cvtsr h d a b c ty sat pos => Sys2Proof.Machine.execCvtsr h d a b c ty sat pos s
  | .blkh h d a => Sys2Proof.Machine.execBlkh h d a s
  | .blkhw h d a b chk => Sys2Proof.Machine.execBlkhw h d a b chk s
  | .blkpack h d a b ty rm sat esc i4 => Sys2Proof.Machine.execBlkpack h d a b ty rm sat esc i4 s
  | .blkunp h d a cnt rm sat => Sys2Proof.Machine.execBlkunp h d a cnt rm sat s
  | .blkscl h d a b fit ty sat i4 => Sys2Proof.Machine.execBlkscl h d a b fit ty sat i4 s
  | .ld h d m ty mm => Sys2Proof.Machine.execLd h d m ty mm s
  | .st h d m ty mm => Sys2Proof.Machine.execSt h d m ty mm s
  | .ldu h d m ty mm => Sys2Proof.Machine.execLdu h d m ty mm s
  | .stu h d m ty mm => Sys2Proof.Machine.execStu h d m ty mm s
  | .ldb h d m ty mm => Sys2Proof.Machine.execLdb h d m ty mm s
  | .stb h d m ty mm => Sys2Proof.Machine.execStb h d m ty mm s
  | .pref h m st => Sys2Proof.Machine.execPref h m st s
  | .cwb h m => Sys2Proof.Machine.execCwb h m s
  | .cinv h m => Sys2Proof.Machine.execCinv h m s
  | .atom h d m ty opc am => Sys2Proof.Machine.execAtom h d m ty opc am s
  | .red h d m ty opc am => Sys2Proof.Machine.execRed h d m ty opc am s
  | .cas h d m ty am => Sys2Proof.Machine.execCas h d m ty am s
  | .fence h ord scope => Sys2Proof.Machine.execFence h ord scope s
  | .algld h d m => Sys2Proof.Machine.execAlgld h d m s
  | .algrd h d a => Sys2Proof.Machine.execAlgrd h d a s
  | .algclr h => Sys2Proof.Machine.execAlgclr h s
  | .bari h a key dom => Sys2Proof.Machine.execBari h a key dom s
  | .bara h d key => Sys2Proof.Machine.execBara h d key s
  | .barw h d key => Sys2Proof.Machine.execBarw h d key s
  | .bard h key => Sys2Proof.Machine.execBard h key s
  | .barq h d key => Sys2Proof.Machine.execBarq h d key s
  | .watch h d m ty cmp slot => Sys2Proof.Machine.execWatch h d m ty cmp slot s
  | .doze h d a sel => Sys2Proof.Machine.execDoze h d a sel s
  | .unwatch h sel => Sys2Proof.Machine.execUnwatch h sel s
  | .shrmap h d cnt key rid => Sys2Proof.Machine.execShrmap h d cnt key rid s
  | .shrunmap h d => Sys2Proof.Machine.execShrunmap h d s
  | .ferd h d a => Sys2Proof.Machine.execFerd h d a s
  | .fewr h d a => Sys2Proof.Machine.execFewr h d a s
  | .qcfg h d a qn unb => Sys2Proof.Machine.execQcfg h d a qn unb s
  | .qstat h d a => Sys2Proof.Machine.execQstat h d a s
  | .tokw h => Sys2Proof.Machine.execTokw h s
  | .tokp h => Sys2Proof.Machine.execTokp h s
  | .bdecl h d m buf => Sys2Proof.Machine.execBdecl h d m buf s
  | .bset h d a buf tmo try_ => Sys2Proof.Machine.execBset h d a buf tmo try_ s
  | .brel h a buf => Sys2Proof.Machine.execBrel h a buf s
  | .bqry h d a buf => Sys2Proof.Machine.execBqry h d a buf s
  | .stat h a buf => Sys2Proof.Machine.execStat h a buf s
  | .unstat h a buf => Sys2Proof.Machine.execUnstat h a buf s
  | .oclaim h d a slot try_ => Sys2Proof.Machine.execOclaim h d a slot try_ s
  | .orels h a slot => Sys2Proof.Machine.execOrels h a slot s
  | .oput h d a b slot sealed => Sys2Proof.Machine.execOput h d a b slot sealed s
  | .task h d a spec => Sys2Proof.Machine.execTask h d a spec s
  | .accz h a acc kind => Sys2Proof.Machine.execAccz h a acc kind s
  | .accrd h d a b acc ty rm sat sh cnt => Sys2Proof.Machine.execAccrd h d a b acc ty rm sat sh cnt s
  | .accwr h d a b acc ty cnt => Sys2Proof.Machine.execAccwr h d a b acc ty cnt s
  | .acccmt h a acc => Sys2Proof.Machine.execAcccmt h a acc s
  | .accdsc h a acc => Sys2Proof.Machine.execAccdsc h a acc s
  | .twait h a acc all => Sys2Proof.Machine.execTwait h a acc all s
  | .slay h d a eng lay => Sys2Proof.Machine.execSlay h d a eng lay s
  | .sfill h a b eng ring lay slots first cnt => Sys2Proof.Machine.execSfill h a b eng ring lay slots first cnt s
  | .sdrain h a b eng ring lay first cnt => Sys2Proof.Machine.execSdrain h a b eng ring lay first cnt s
  | .ssig h a eng ring full => Sys2Proof.Machine.execSsig h a eng ring full s
  | .qfence h tq se cq => Sys2Proof.Machine.execQfence h tq se cq s
  | .coll h d cq => Sys2Proof.Machine.execColl h d cq s
  | .cseq h d a b region rd dty => Sys2Proof.Machine.execCseq h d a b region rd dty s
  | .ewait h d a b kind res => Sys2Proof.Machine.execEwait h d a b kind res s
  | .rand h d a b => Sys2Proof.Machine.execRand h d a b s
  | .rres h d a b c rel => Sys2Proof.Machine.execRres h d a b c rel s
  | .csrr h d csr => Sys2Proof.Machine.execCsrr h d csr s
  | .csrw h a csr => Sys2Proof.Machine.execCsrw h a csr s
  | .clock h d lane => Sys2Proof.Machine.execClock h d lane s
  | .tret h => Sys2Proof.Machine.execTret h s
  | .stoprd h d a b => Sys2Proof.Machine.execStoprd h d a b s
  | .regev h a b => Sys2Proof.Machine.execRegev h a b s
  | .haltl h clr => Sys2Proof.Machine.execHaltl h clr s
  | .errlog h d a pop => Sys2Proof.Machine.execErrlog h d a pop s
  | .stest h d a => Sys2Proof.Machine.execStest h d a s
  | .tlbinv h a part va => Sys2Proof.Machine.execTlbinv h a part va s
  | .lineFetch k => Sys2Proof.Machine.execLineFetch k s
  | .registerLineFill k line => Sys2Proof.Machine.execRegisterLineFill k line s
  | .returnStackFill k => Sys2Proof.Machine.execReturnStackFill k s
  | .resultLands n => Sys2Proof.Machine.execResultLands n s
  | .residualDrain k => Sys2Proof.Machine.execResidualDrain k s
  | .fixedLatencyCompletion k => Sys2Proof.Machine.execFixedLatencyCompletion k s
  | .napExpiry k t => Sys2Proof.Machine.execNapExpiry k t s
  | .dozeTimeout k => Sys2Proof.Machine.execDozeTimeout k s
  | .homeAccept n => Sys2Proof.Machine.execHomeAccept n s
  | .pendingRewrite hm pos rw => Sys2Proof.Machine.execPendingRewrite hm pos rw s
  | .homeApply hm => Sys2Proof.Machine.execHomeApply hm s
  | .invalidationArrival n => Sys2Proof.Machine.execInvalidationArrival n s
  | .invalidationAcknowledgement n => Sys2Proof.Machine.execInvalidationAcknowledgement n s
  | .tileCacheFill n => Sys2Proof.Machine.execTileCacheFill n s
  | .impreciseFaultReport n => Sys2Proof.Machine.execImpreciseFaultReport n s
  | .hostWritebackAck n => Sys2Proof.Machine.execHostWritebackAck n s
  | .hostMemAccess pkg acc => Sys2Proof.Machine.execHostMemAccess pkg acc s
  | .backInvalidation pkg line => Sys2Proof.Machine.execBackInvalidation pkg line s
  | .hostLineRefetch pkg line => Sys2Proof.Machine.execHostLineRefetch pkg line s
  | .pageWalk n => Sys2Proof.Machine.execPageWalk n s
  | .watchArm hm => Sys2Proof.Machine.execWatchArm hm s
  | .armAck n => Sys2Proof.Machine.execArmAck n s
  | .wakeMessage n => Sys2Proof.Machine.execWakeMessage n s
  | .evictionMessage n => Sys2Proof.Machine.execEvictionMessage n s
  | .disarmAck n => Sys2Proof.Machine.execDisarmAck n s
  | .tailPoll p q => Sys2Proof.Machine.execTailPoll p q s
  | .snare c => Sys2Proof.Machine.execSnare c s
  | .barrierMessage b ns => Sys2Proof.Machine.execBarrierMessage b ns s
  | .barrierRelease n => Sys2Proof.Machine.execBarrierRelease n s
  | .barrierAnswer n => Sys2Proof.Machine.execBarrierAnswer n s
  | .overArrivalRefusal n => Sys2Proof.Machine.execOverArrivalRefusal n s
  | .domainCounterMessage ctr ns => Sys2Proof.Machine.execDomainCounterMessage ctr ns s
  | .domainPhaseMulticast n => Sys2Proof.Machine.execDomainPhaseMulticast n s
  | .bufferStateChange n => Sys2Proof.Machine.execBufferStateChange n s
  | .oputApply n => Sys2Proof.Machine.execOputApply n s
  | .taskQueueAccept n => Sys2Proof.Machine.execTaskQueueAccept n s
  | .taskStart tc acc => Sys2Proof.Machine.execTaskStart tc acc s
  | .segmentComplete tc acc => Sys2Proof.Machine.execSegmentComplete tc acc s
  | .taskRetire tc acc => Sys2Proof.Machine.execTaskRetire tc acc s
  | .accumulatorItemApply tc acc => Sys2Proof.Machine.execAccumulatorItemApply tc acc s
  | .slayInstall tc eng => Sys2Proof.Machine.execSlayInstall tc eng s
  | .ringBindCheck tc eng => Sys2Proof.Machine.execRingBindCheck tc eng s
  | .ringTransferStart tc eng ring => Sys2Proof.Machine.execRingTransferStart tc eng ring s
  | .ringTransferDone tc eng ring => Sys2Proof.Machine.execRingTransferDone tc eng ring s
  | .ssigApply n => Sys2Proof.Machine.execSsigApply n s
  | .collCommandStart p q => Sys2Proof.Machine.execCollCommandStart p q s
  | .collArrival n => Sys2Proof.Machine.execCollArrival n s
  | .collApply p region => Sys2Proof.Machine.execCollApply p region s
  | .collAck n => Sys2Proof.Machine.execCollAck n s
  | .collRefusalTimeout n => Sys2Proof.Machine.execCollRefusalTimeout n s
  | .launchRecordTake p q => Sys2Proof.Machine.execLaunchRecordTake p q s
  | .sliceSelect p => Sys2Proof.Machine.execSliceSelect p s
  | .strandCreate l => Sys2Proof.Machine.execStrandCreate l s
  | .modeSetApply p q => Sys2Proof.Machine.execModeSetApply p q s
  | .budgetExpiry l => Sys2Proof.Machine.execBudgetExpiry l s
  | .budgetGraceExpiry l => Sys2Proof.Machine.execBudgetGraceExpiry l s
  | .sliceRetire l => Sys2Proof.Machine.execSliceRetire l s
  | .queueEnable p q desc => Sys2Proof.Machine.execQueueEnable p q desc s
  | .queueDisable p q => Sys2Proof.Machine.execQueueDisable p q s
  | .registerWrite r val => Sys2Proof.Machine.execRegisterWrite r val s
  | .pcapWrite pkg val => Sys2Proof.Machine.execPcapWrite pkg val s
  | .save c => Sys2Proof.Machine.execSave c s
  | .resume c => Sys2Proof.Machine.execResume c s
  | .move c dest => Sys2Proof.Machine.execMove c dest s
  | .halt c => Sys2Proof.Machine.execHalt c s
  | .release c => Sys2Proof.Machine.execRelease c s
  | .replay c => Sys2Proof.Machine.execReplay c s
  | .inval c => Sys2Proof.Machine.execInval c s
  | .knellCountExpiry c => Sys2Proof.Machine.execKnellCountExpiry c s
  | .saveCompletion c => Sys2Proof.Machine.execSaveCompletion c s
  | .moveArrival n => Sys2Proof.Machine.execMoveArrival n s
  | .unitStop p unit => Sys2Proof.Machine.execUnitStop p unit s
  | .originatorHandlerEntry k => Sys2Proof.Machine.execOriginatorHandlerEntry k s
  | .createPartition p => Sys2Proof.Machine.execCreatePartition p s
  | .assignGranules p gs => Sys2Proof.Machine.execAssignGranules p gs s
  | .createContext c => Sys2Proof.Machine.execCreateContext c s
  | .setTranslationRoot c root => Sys2Proof.Machine.execSetTranslationRoot c root s
  | .destroyPartition p => Sys2Proof.Machine.execDestroyPartition p s
  | .retransmit pkg port vc => Sys2Proof.Machine.execRetransmit pkg port vc s
  | .ackReceive pkg port hdr => Sys2Proof.Machine.execAckReceive pkg port hdr s
  | .powerRemoval pkg => Sys2Proof.Machine.execPowerRemoval pkg s
  | .selfTestDone n passes => Sys2Proof.Machine.execSelfTestDone n passes s
  | .attestationRequest pkg p nonce => Sys2Proof.Machine.execAttestationRequest pkg p nonce s
  | .firmwareUpdateStage pkg img => Sys2Proof.Machine.execFirmwareUpdateStage pkg img s
  | .flitReceive pkg port hdr payload crc room => Sys2Proof.Machine.execFlitReceive pkg port hdr payload crc room s
  | .nackReceive pkg port hdr crc => Sys2Proof.Machine.execNackReceive pkg port hdr crc s
  | .linkControl pkg port hdr => Sys2Proof.Machine.execLinkControl pkg port hdr s
  | .powerCapStep pkg => Sys2Proof.Machine.execPowerCapStep pkg s
  | .thermalThrottle pkg => Sys2Proof.Machine.execThermalThrottle pkg s
  | .thermalShutdown pkg => Sys2Proof.Machine.execThermalShutdown pkg s
  | .enrolDomainGroup p g => Sys2Proof.Machine.execEnrolDomainGroup p g s
  | .coldReset pkg => Sys2Proof.Machine.execColdReset pkg s
  | .contextEnd c => Sys2Proof.Machine.execContextEnd c s
  | .partitionShareThrottle p => Sys2Proof.Machine.execPartitionShareThrottle p s

end Sys2Proof.Machine
end

