-- ==== Sys2Proof/Machine/Events.lean ====
section
/-! DEFINITION. What every event of the table does where it can happen (95): the form in which Step.lean asks whether one can. -/

namespace Sys2Proof.Machine

/-- The effect of an event; none for a lane instruction. -/
def evOf : Instr → Option (State → Option State)
  | .lineFetch k => some (evLineFetch k)
  | .registerLineFill k line => some (evRegisterLineFill k line)
  | .returnStackFill k => some (evReturnStackFill k)
  | .resultLands n => some (evResultLands n)
  | .residualDrain k => some (attemptDrain k effOf)
  | .fixedLatencyCompletion k => some (evFixedLatencyCompletion k)
  | .napExpiry k t => some (evNapExpiry k t)
  | .dozeTimeout k => some (evDozeTimeout k)
  | .homeAccept n => some (evHomeAccept n)
  | .pendingRewrite hm pos rw => some (evPendingRewrite hm pos rw)
  | .homeApply hm => some (evHomeApply hm)
  | .invalidationArrival n => some (evInvalidationArrival n)
  | .invalidationAcknowledgement n => some (evInvalidationAcknowledgement n)
  | .tileCacheFill n => some (evTileCacheFill n)
  | .impreciseFaultReport n => some (evImpreciseFaultReport n)
  | .hostWritebackAck n => some (evHostWritebackAck n)
  | .hostMemAccess pkg acc => some (evHostMemAccess pkg acc)
  | .backInvalidation pkg line => some (evBackInvalidation pkg line)
  | .hostLineRefetch pkg line => some (evHostLineRefetch pkg line)
  | .pageWalk n => some (evPageWalk n)
  | .watchArm hm => some (evWatchArm hm)
  | .armAck n => some (evArmAck n)
  | .wakeMessage n => some (evWakeMessage n)
  | .evictionMessage n => some (evEvictionMessage n)
  | .disarmAck n => some (evDisarmAck n)
  | .tailPoll p q => some (evTailPoll p q)
  | .snare c => some (evSnare c)
  | .barrierMessage b ns => some (evBarrierMessage b ns)
  | .barrierRelease n => some (evBarrierRelease n)
  | .barrierAnswer n => some (evBarrierAnswer n)
  | .overArrivalRefusal n => some (evOverArrivalRefusal n)
  | .domainCounterMessage ctr ns => some (evDomainCounterMessage ctr ns)
  | .domainPhaseMulticast n => some (evDomainPhaseMulticast n)
  | .bufferStateChange n => some (evBufferStateChange n)
  | .oputApply n => some (evOputApply n)
  | .taskQueueAccept n => some (evTaskQueueAccept n)
  | .taskStart tc acc => some (evTaskStart tc acc)
  | .segmentComplete tc acc => some (evSegmentComplete tc acc)
  | .taskRetire tc acc => some (evTaskRetire tc acc)
  | .accumulatorItemApply tc acc => some (evAccumulatorItemApply tc acc)
  | .slayInstall tc eng => some (evSlayInstall tc eng)
  | .ringBindCheck tc eng => some (evRingBindCheck tc eng)
  | .ringTransferStart tc eng ring => some (evRingTransferStart tc eng ring)
  | .ringTransferDone tc eng ring => some (evRingTransferDone tc eng ring)
  | .ssigApply n => some (evSsigApply n)
  | .collCommandStart p q => some (evCollCommandStart p q)
  | .collArrival n => some (evCollArrival n)
  | .collApply p region => some (evCollApply p region)
  | .collAck n => some (evCollAck n)
  | .collRefusalTimeout n => some (evCollRefusalTimeout n)
  | .launchRecordTake p q => some (evLaunchRecordTake p q)
  | .sliceSelect p => some (evSliceSelect p)
  | .strandCreate l => some (evStrandCreate l)
  | .modeSetApply p q => some (evModeSetApply p q)
  | .budgetExpiry l => some (evBudgetExpiry l)
  | .budgetGraceExpiry l => some (evBudgetGraceExpiry l)
  | .sliceRetire l => some (evSliceRetire l)
  | .queueEnable p q desc => some (evQueueEnable p q desc)
  | .queueDisable p q => some (evQueueDisable p q)
  | .registerWrite r val => some (evRegisterWrite r val)
  | .pcapWrite pkg val => some (evPcapWrite pkg val)
  | .save c => some (evSave c)
  | .resume c => some (evResume c)
  | .move c dest => some (evMove c dest)
  | .halt c => some (evHalt c)
  | .release c => some (evRelease c)
  | .replay c => some (evReplay c)
  | .inval c => some (evInval c)
  | .knellCountExpiry c => some (evKnellCountExpiry c)
  | .saveCompletion c => some (evSaveCompletion c)
  | .moveArrival n => some (evMoveArrival n)
  | .unitStop p unit => some (evUnitStop p unit)
  | .originatorHandlerEntry k => some (evOriginatorHandlerEntry k)
  | .createPartition p => some (evCreatePartition p)
  | .assignGranules p gs => some (evAssignGranules p gs)
  | .createContext c => some (evCreateContext c)
  | .setTranslationRoot c root => some (evSetTranslationRoot c root)
  | .destroyPartition p => some (evDestroyPartition p)
  | .enrolDomainGroup p g => some (evEnrolDomainGroup p g)
  | .retransmit pkg port vc => some (evRetransmit pkg port vc)
  | .powerRemoval pkg => some (evPowerRemoval pkg)
  | .selfTestDone n passes => some (evSelfTestDone n passes)
  | .attestationRequest pkg p nonce => some (evAttestationRequest pkg p nonce)
  | .firmwareUpdateStage pkg img => some (evFirmwareUpdateStage pkg img)
  | .flitReceive pkg port hdr payload crc room => some (evFlitReceive pkg port hdr payload crc room)
  | .ackReceive pkg port hdr => some (evAckReceive pkg port hdr)
  | .nackReceive pkg port hdr crc => some (evNackReceive pkg port hdr crc)
  | .linkControl pkg port hdr => some (evLinkControl pkg port hdr)
  | .powerCapStep pkg => some (stepDown pkg)
  | .thermalThrottle pkg => some (evThermalThrottle pkg)
  | .thermalShutdown pkg => some (evThermalShutdown pkg)
  | .coldReset pkg => some (evColdReset pkg)
  | .contextEnd c => some (evContextEnd c)
  | .partitionShareThrottle p => some (evPartitionShareThrottle p)
  | _ => none

end Sys2Proof.Machine
end

