-- ==== Sys2Proof/Machine/Turns.lean ====
section
/-! DEFINITION. What happens next: the lane schedulers (01 R26, R27, 02 R48), the faults of a fetch that no instruction raises
(04 R82, R85, R96), the events that a machine takes of itself, in the model's default order (log entry 2), the passing of time
(07 R187, 19 R384), and a program placed for a lane. -/

namespace Sys2Proof.Machine

/-! ## A strand's turn -/

/-- What a strand does when its turn comes. -/
inductive Pick where
  | drain (k : Nat)
  | issue (k : Nat) (i : Instr)
  | fault (k : Nat) (f : Flt) (pc : Pc) (exm act : List Nat)

/-- The header of a slot that holds no instruction, on which the fault of its encoding still depends (04 R89, 01 R26). -/
def rawHdr (w : Slot) : Hdr :=
  { after := w.extractLsb' 82 4, wait := w.extractLsb' 70 12
    setf := if h : (w.extractLsb' 66 4).toNat < 12 then some ⟨(w.extractLsb' 66 4).toNat, h⟩ else none
    neg := w.getLsbD 65, pred := w.extractLsb' 62 3 }

/-- A strand is ready for the fault of such a slot as for any instruction (01 R26); in deferring mode an unmet WAIT is no matter, for
the fault needs no unsettled value (02 R55). -/
def rawReady (s : State) (st : Strand) (h : Hdr) (pc : Pc) (now : Nat) : Bool :=
  mayIssue s st h pc now && (st.deferring || waitClear st h now) && setfOk st h now

/-- The cause of an encoding that is no instruction (04 R96 rows 1 to 4). -/
def encodingCause (st : Strand) (w : Slot) : Nat := if privilegedOpcode w && !st.priv then 2 else 1

/-- What stops a strand at its issue address before any encoding is looked at: a PC that is none, a bad line, an ENTRY that
is no target (04 R82, R84, R85). Where an unmarked ENTRY lies in a bad line, both faults arise at the first issue and the line's is
reported: the model's choice (log entry 62). -/
def entryFault (st : Strand) (pc : Pc) (f : Option FetchLine) : Option Flt :=
  if 5 ≤ slotPc pc ∨ pc.toNat / 8 % 8 ≠ 0 then some { cause := 7, addr := pc.toNat }
  else match f with
    | none => none
    | some f =>
      if f.bad then some { cause := 8, addr := (linePc pc).toNat }
      else if !st.begun && !st.framed && !f.marks pc then some { cause := 7, addr := pc.toNat }
      else none

/-- The turn of a strand at its issue address, and whether it is ready for it. -/
def mainPick (s : State) (k : Nat) (st : Strand) : Option (Pick × Bool) :=
  match st.issueAddr with
  | none => none
  | some pc =>
    let now := s.cycle st.part
    let exm := st.executing pc
    let line := s.fetched st pc
    match entryFault st pc line with
    | some f => some (.fault k { f with lowt := exm.headD 0 } pc exm exm, mayIssue s st (rawHdr 0) pc now)
    | none => match line with
      | none => none
      | some f =>
        let w := slotOf f.data (slotPc pc)
        match decode w with
        | .ok i => some (.issue k i, match effOf i with
          | some eff => (attempt i eff { s with cur := k }).isSome
          | none => false)
        | .error _ =>
          some (.fault k { cause := encodingCause st w, lowt := exm.headD 0 } pc exm (activeOf s st (rawHdr w) exm now),
            rawReady s st (rawHdr w) pc now)

/-- A drainable entry comes before the main stream (02 R48). -/
def strandPick (s : State) (k : Nat) (st : Strand) : Option (Pick × Bool) :=
  if (attemptDrain k effOf s).isSome then some (.drain k, true) else mainPick s k st

/-! ## A lane's turn (01 R27) -/

/-- The strands of a lane, with what each would do. -/
def lanePicks (s : State) (l : LaneId) : List (Strand × Pick × Bool) :=
  s.strands.filterMap (fun x =>
    if x.2.laneId = l ∧ x.2.status = .resident then (strandPick s x.1 x.2).map (fun p => (x.2, p)) else none)

/-- The earlier previous issue, the lower slot among equals. -/
def beforeR27 (a b : Strand) : Bool := decide (a.lastS < b.lastS) || (a.lastS == b.lastS && decide (a.slot ≤ b.slot))

def firstR27 : List (Strand × Pick × Bool) → Option (Strand × Pick × Bool)
  | [] => none
  | x :: xs => match firstR27 xs with
    | none => some x
    | some y => if beforeR27 x.1 y.1 then some x else some y

/-- What the scheduler of a lane issues; none when no strand of the lane is ready. -/
def laneReady (s : State) (l : LaneId) : Option Pick := (firstR27 ((lanePicks s l).filter (fun x => x.2.2))).map (fun x => x.2.1)

/-- The lane's turn; with no strand ready, that of the strand that comes first, whose issue changes nothing. -/
def lanePick (s : State) (l : LaneId) : Option Pick :=
  match laneReady s l with
  | some p => some p
  | none => match firstR27 (lanePicks s l) with
    | some (_, .issue k i, _) => some (.issue k i)
    | _ => none

/-! ## What the snare counts (14 R307) -/

/-- The oldest entry of a strand can drain, but for the lane's turn: its inputs are settled, and neither a queue nor a full/empty
condition nor another wait stands against it. -/
def canDrain (s : State) (k : Nat) : Bool :=
  match drainOf k s with
  | none => false
  | some (st, e) => match drainIss k s st e with
    | none => true
    | some x => match effOf x.i with
      | none => true
      | some eff => drainSettled st x.sh e x.h x.t0 && waitClear st x.h x.t0 && setfOk st x.h x.t0 && pendOk st x.sh && memReady s x
          && !st.entHeld && st.holdTxn.isNone && (match performs x s eff with
        | .cond | .wait => false
        | _ => true)

/-- An access of the context waits for a unit that is being tested: of a task at its head, of an item of an accumulator tile, or of a strand
that reads or writes its registers or fetches a line (18 R365). -/
def waitsOnTest (s : State) (c : CtxId) : Bool :=
  s.anyTest &&
  (s.tctx.any (fun t => t.1.ctx == c && (List.range 32).any (fun a => match headItem s t.1 a with
      | none => false
      | some i => !i.stuck && (match i.kind with
        | .task r spec =>
          if i.running then (match runningOps s t.1 a with
            | some (_, _, _, b, o) => (taskUnits s t.1 b o).any (fun u => (s.testOf c.part.pkg u).isSome)
            | none => false)
          else (match bufferChk s t.1 r i.late with
            | .error _ => false
            | .ok b => match taskOps s t.1 r (agetD t.2.slots (tSlot r) {}) b ((t.2.acc a).kind != 0) with
              | .error _ => false
              | .ok o => (taskSites s t.1 r spec b o.slotBlks o.bufBlks).any s.testing)
        | k => let sites := itemSites (t.2.acc a) t.1 a k; (sites.1 ++ sites.2).any s.testing)))
  || s.strands.any (fun x => x.2.ctx == c && x.2.status == .resident && (match (nextInstr s x.2).bind (fun i => shape i) with
      | some sh => (useSites x.1 (sh.srcs ++ sh.dsts)).any s.testing
      | none => match x.2.issueAddr with
        | none => false
        | some pc => match checkFetch s x.2 pc with
          | .at_ (.mem key _ _) => s.testing (.word (lineKey key)) || s.testing (.copy x.2.tileId (lineKey key))
          | _ => false)))

/-- Engine activity of a context. -/
def engineActivity (s : State) (c : CtxId) : Bool :=
  s.ops.any (fun o => o.2.strand != 0 && o.2.ctx == c)
  || s.homes.any (fun h => h.2.queue.any (fun e => e.ctx == c))
  || s.msgs.any (fun m => match m.2 with
      | .arm k .. => (s.strand k).map (fun st => st.ctx) == some c
      | _ => false)
  || s.tctx.any (fun t => t.1.ctx == c && (t.2.tq.any (fun i => i.running)
      || t.2.engines.any (fun e => e.2.rings.any (fun r => r.2.moving && !r.2.stopped && !r.2.paused))))
  || (s.part c.part).cqs.any (fun q => q.2.any (fun d => d.ctx == c && d.started))
  || s.strands.any (fun x => x.2.ctx == c && x.2.status == .resident && canDrain s x.1)
  || waitsOnTest s c

/-- A cycle that the snare counts: the context, running or with its knell rung, has no live strand and no engine activity. -/
def ctxIdle (s : State) (c : CtxId) : Bool :=
  ((s.ctx c).st == 1 || (s.ctx c).st == 2)
    && s.strands.all (fun x => x.2.ctx != c || x.2.status == .ended || x.2.allExited || internalWait s x.2)
    && !engineActivity s c

/-! ## Events that the machine takes of itself (95) -/

/-- What a self-test lasts at most (18 R365). -/
def testBound (u : RUnit) : Nat :=
  match selSite u with
  | 0 => 400000
  | 1 => 20000
  | 2 => 60000
  | 3 => 3000000
  | 6 => 6000000
  | _ => 30000

/-- Times that may have run out. -/
def timedEvents (s : State) : List Instr :=
  s.strands.flatMap (fun x => Instr.fixedLatencyCompletion x.1 :: ((List.range 16).map (fun t => Instr.napExpiry x.1 t))
      ++ [.dozeTimeout x.1])
    ++ s.launches.flatMap (fun l => [Instr.budgetExpiry l.1, .budgetGraceExpiry l.1])
    ++ s.ctxs.flatMap (fun c => [Instr.knellCountExpiry c.1, .snare c.1])
    ++ s.pkgs.flatMap (fun p => Instr.powerRemoval p.1 :: p.2.ports.flatMap (fun q => q.2.vcs.map (fun v => Instr.retransmit p.1 q.1 v.1)))
    ++ s.msgs.filterMap (fun m => match m.2 with
      | .selfTest _ u _ _ since => if since + testBound u ≤ s.clk then some (.selfTestDone m.1 (Config.testPasses m.1)) else none
      | .coll .. => some (.collRefusalTimeout m.1)
      | _ => none)

/-- The event in which a message arrives. -/
def msgEvent (n : Nat) : Msg → Option Instr
  | .result .. | .ewait .. | .qwait .. => some (.resultLands n)
  | .arm .. => some (.homeAccept n)
  | .armAck .. => some (.armAck n)
  | .wake .. => some (.wakeMessage n)
  | .evict .. => some (.evictionMessage n)
  | .disarm .. => some (.disarmAck n)
  | .inval .. => some (.invalidationArrival n)
  | .ack .. => some (.invalidationAcknowledgement n)
  | .fill .. => some (.tileCacheFill n)
  | .writeback .. => some (.hostWritebackAck n)
  | .faultReport .. => some (.impreciseFaultReport n)
  | .bar b .. => some (.barrierMessage b [n])
  | .barAns .. => some (.barrierAnswer n)
  | .barRel .. => some (.barrierRelease n)
  | .barRefuse .. => some (.overArrivalRefusal n)
  | .dom ctr .. => some (.domainCounterMessage ctr [n])
  | .domPhase .. => some (.domainPhaseMulticast n)
  | .bufReq .. => some (.bufferStateChange n)
  | .oput .. => some (.oputApply n)
  | .tqItem .. => some (.taskQueueAccept n)
  | .ssig .. => some (.ssigApply n)
  | .coll .. => some (.collArrival n)
  | .collAck .. => some (.collAck n)
  | .move .. => some (.moveArrival n)
  | .selfTest .. => none

/-- What a strand and its lane may do beside issuing. -/
def strandEvents (s : State) (k : Nat) (st : Strand) : List Instr :=
  [.lineFetch k, .pageWalk k] ++ ((wantedRegLines s k st).map (fun l => .registerLineFill k l))
    ++ [.returnStackFill k, .originatorHandlerEntry k]

/-- What the units of a context on one tile may do. -/
def tileEvents (tc : TileCtx) (t : TCtx) : List Instr :=
  (if t.tq.any (fun i => i.kind == .twaitAll) then [.accumulatorItemApply tc 32] else [])
    ++ ((t.tq.filterMap (fun i => i.acc)).eraseDups.flatMap (fun a =>
      [.accumulatorItemApply tc a, .taskStart tc a, .segmentComplete tc a, .taskRetire tc a]))
    ++ t.engines.flatMap (fun e => [.slayInstall tc e.1, .ringBindCheck tc e.1]
      ++ e.2.rings.flatMap (fun r => [.ringTransferStart tc e.1 r.1, .ringTransferDone tc e.1 r.1]))

/-- What the launch scheduler, the collective engine and the gong line of a partition may do. -/
def partEvents (s : State) (p : PartId) (q : Part) : List Instr :=
  (q.queues.flatMap (fun x => [.modeSetApply p x.1, .launchRecordTake p x.1])) ++ (q.polled.map (fun x => .tailPoll p x))
    ++ [.sliceSelect p] ++ (q.cqs.map (fun c => .collCommandStart p c.1)) ++ (q.regions.map (fun r => .collApply p r.1))
    ++ (if q.line.isSome then (unitsOf q ++ (s.strands.map (fun x => UnitId.strand x.1))).map (fun u => .unitStop p u) else [])

/-- Watched host-homed lines of a package whose copy has been lost (14 R304). -/
def lostCopies (s : State) (pkg : Nat) : List Nat :=
  (((s.home (.hostLine pkg)).table.map (fun e => lineKey e.addr)).eraseDups).filter (fun l => !(s.pkg pkg).hostCopies.contains l)

/-- A command from the package waits for its turn or for room at its region: its flit is not accepted. -/
def collRefused (s : State) (pkg : Nat) : Bool :=
  s.msgs.any (fun m => match m.2 with
    | .coll _ _ c => c.ctx.part.pkg == pkg && c.refusedAt.isSome
    | _ => false)

/-- Acknowledgements of all that a port's channels have sent, as the other ends send them where nothing is refused (19 R378). -/
def ackEvents (s : State) (pkg : Nat) (p : Pkg) : List Instr :=
  p.ports.flatMap (fun q => q.2.vcs.filterMap (fun v => match v.2.replay.getLast? with
    | some f => if v.2.resend.isSome || (v.1 == 3 && collRefused s pkg) then none
      else some (.ackReceive pkg q.1 (flitHdr 0 v.1 1 (hSeq f.hdr) (hSrc f.hdr) (hDst f.hdr)))
    | none => none))

/-- Everything that the machine may do of itself in a cycle. -/
def ownEvents (s : State) : List Instr :=
  s.msgs.filterMap (fun m => msgEvent m.1 m.2)
    ++ (s.ops.filter (fun o => o.2.stage == .mesh)).map (fun o => .homeAccept o.1)
    ++ s.homes.flatMap (fun h => [.watchArm h.1, .homeApply h.1])
    ++ s.strands.flatMap (fun x => strandEvents s x.1 x.2)
    ++ s.tctx.flatMap (fun t => tileEvents t.1 t.2)
    ++ s.parts.flatMap (fun p => partEvents s p.1 p.2)
    ++ s.launches.flatMap (fun l => [.strandCreate l.1, .sliceRetire l.1])
    ++ s.ctxs.map (fun c => .saveCompletion c.1)
    ++ s.pkgs.flatMap (fun p => ackEvents s p.1 p.2 ++ (lostCopies s p.1).map (fun l => .hostLineRefetch p.1 l))

/-- An event that can happen. -/
def enabled (s : State) (i : Instr) : Bool :=
  match evOf i with
  | some f => (f s).isSome
  | none => false

/-! ## Time -/

/-- Lane cycles of a tile in which strands of a launch hold the datapath, and in which one is resident and none issues. -/
def laneProfile (s : State) (n : Nat) (l : Launch) (t now : Nat) : Nat × Nat :=
  let mine := s.strands.filter (fun x => x.2.launch == n && x.2.tile == t && x.2.status == .resident)
  let lanes := (mine.map (fun x => x.2.laneId)).eraseDups
  ((s.lanes.filter (fun i => i.1.tile == ⟨l.ctx.part, t⟩ && i.2.busyWith n now)).length,
   if l.st = .retired then 0 else (lanes.filter (fun i => !decide (now < (s.lane i).busy))).length)

/-- Macros engaged by the tasks of a launch on a tile, and engines that move data for it. -/
def unitProfile (s : State) (n : Nat) (tc : TileCtx) (x : TCtx) : Nat × Nat :=
  let mine (k : Nat) : Bool := match s.strand k with
    | some st => st.launch == n
    | none => false
  let macros := (x.tq.filter (fun i => i.running && mine i.strand)).map (fun i => match i.acc with
    | none => 0
    | some a => match runningOps s tc a with
      | some (_, _, _, b, o) => (taskUnits s tc b o).length
      | none => 0)
  (macros.sum, (x.engines.filter (fun e => e.2.rings.any (fun r => r.2.moving && !r.2.stopped && !r.2.paused && mine r.2.strand))).length)

/-- One arithmetic cycle more in the profile of a node, where its launch or graph asks for one (16 R331). -/
def profileTick (s : State) (n : Nat) (l : Launch) : Launch :=
  if profBase s l = 0 then l
  else { l with prof := (placement l).foldl (fun m t =>
    let c := agetD m t (0, 0, 0, 0)
    let a := laneProfile s n l t (s.cycle l.ctx.part)
    let tc : TileCtx := ⟨l.ctx, t⟩
    let b := unitProfile s n tc (s.tc tc)
    aput m t (c.1 + a.1, c.2.1 + a.2, c.2.2.1 + b.1, c.2.2.2 + b.2)) l.prof }

/-- One tick more in the times of a slice (16 R328, 17 R351). -/
def launchTick (s : State) (l : Launch) : Launch :=
  if (s.part l.ctx.part).line.isSome then l
  else
    { l with used := if l.onLane s then l.used + 1 else l.used
             grace := l.grace.map (· - 1), knell := l.knell.map (· - 1) }

/-- One tick more in the knell count of a context; one cycle more in the snare's (14 R307, 17 R351). -/
def ctxTick (s : State) (cycle : Bool) (c : CtxId) (x : Ctx) : Ctx :=
  if (s.part c.part).line.isSome then x
  else { x with knell := x.knell.map (· - 1)
                snare := if !cycle then x.snare else if ctxIdle s c then x.snare + 1 else 0 }

/-- A tick of package time ends an arithmetic cycle of a package: at `mhz` of 3,000, as often as not throttled (19 R384). -/
def Pkg.cycleEnds (p : Pkg) : Bool := p.powered && decide (3000 ≤ p.frac + p.mhz)

def Pkg.tick (p : Pkg) : Pkg :=
  if !p.powered then p
  else if 3000 ≤ p.frac + p.mhz then { p with cyc := p.cyc + 1, frac := p.frac + p.mhz - 3000 }
  else { p with frac := p.frac + p.mhz }

/-- One tick of package time passes. -/
def tick (s : State) : State :=
  let ends (c : CtxId) : Bool := (s.pkg c.part.pkg).cycleEnds
  { s with
    clk := s.clk + 1
    pkgs := s.pkgs.map (fun p => (p.1, { p.2.tick with energy := (p.2.energy + Config.energyStep p.1 s.clk) % 2 ^ 64 }))
    launches := s.launches.map (fun l =>
      (l.1, launchTick s (if ends l.2.ctx then profileTick s l.1 l.2 else l.2)))
    ctxs := s.ctxs.map (fun c => (c.1, ctxTick s (ends c.1) c.1 c.2)) }

/-! ## The next step -/

/-- What the next step is: an instruction or event with the state in which it is carried out, or a state it has come to. -/
inductive Act where
  | exec (i : Instr) (s : State)
  | done (s : State)

def pickAct (s : State) : Pick → Act
  | .drain k => .exec (.residualDrain k) s
  | .issue k i => .exec i { s with cur := k }
  | .fault k f pc exm act => .done (commit s.mem (s.preciseFault k f pc exm act))

/-- The default order: times that have run out, the lanes, the machine's own events, the next tick. -/
def runAct (s : State) : Act :=
  match (timedEvents s).find? (enabled s) with
  | some i => .exec i s
  | none => match ((s.strands.map (fun x => x.2.laneId)).eraseDups).findSome? (laneReady s) with
    | some p => pickAct s p
    | none => match (ownEvents s).find? (enabled s) with
      | some i => .exec i s
      | none => .done (tick s)

/-- The agenda decides; where it is empty, or names a lane instruction, the default order does. A drain that it names is the turn of
the strand's lane, for a drain is an issue under 01 R27. -/
def nextAct (s : State) : Act :=
  match s.agenda with
  | [] => runAct s
  | t :: r =>
    let s' : State := { s with agenda := r }
    match t with
    | .run => runAct s'
    | .event (.residualDrain k) => (match (s'.strand k).bind (fun st => laneReady s' st.laneId) with
      | some p => pickAct s' p
      | none => .done s')
    | .event i => if (evOf i).isSome then .exec i s' else runAct s'
    | .lane l => match lanePick s' l with
      | some p => pickAct s' p
      | none => .done s'

/-! ## A program on a lane -/

def homePart : PartId := ⟨0, 0⟩
def homeLane : LaneId := ⟨⟨homePart, 0⟩, 0⟩

/-- A leaf for the first gigabyte of near memory: readable, writable, executable. -/
def homeLeaf : Dword := 0x73#64

/-- The line of a slot 0: every slot after it zero; TGT marks slot 0, and the parity of slot 0 is right. -/
def lineWith (w : Slot) : Line := BitVec.ofNat 512 (1 + at_ (parity w).toNat 8 + at_ w.toNat 32)

/-- The launch record of one strand with every register declared. -/
def homeRcd : BitVec 1024 := BitVec.ofNat 1024 (1 + at_ 1 300 + at_ 1 304 + at_ 8 320 + at_ 48 338 + at_ 192 344 + at_ 15 352 + at_ 1 356)

def homeStrand (ctx : CtxId) (l now : Nat) : Strand :=
  { ctx := ctx, launch := l, sid := 0, tile := 0, lane := 0, slot := 0, gen := 1, vregs := 192, uregs := 48
    threads := List.replicate 16 { pc := 0, st := .live }, modew := 0x800#32, lastS := now }

/-- A partition of one granule with one running context and one launch of one strand, whose line at virtual address 0 holds `w`
in slot 0: fetched, translated and ready, with the lane's turn next. -/
def placeWord (w : Slot) (s : State) : State :=
  let l := s.uid + 1
  let k := s.uid + 2
  let c : CtxId := ⟨homePart, 0⟩
  let now := s.cycle homePart
  let b := lineWith w
  let lines := ((List.range 192) ++ [192, 193, 194]).map (fun j => ({ strand := k, line := j } : HeldLine))
  let launch : Launch := { ctx := c, queue := 0, rcd := homeRcd, st := .running, nextSid := 1, live := [k], started := some s.clk }
  let tile : Tile := { tlb := [{ ctx := c, va := 0, log := 30, leaf := homeLeaf }] }
  { s with
    agenda := [.lane homeLane]
    uid := s.uid + 2
    mem := memPutAll s.mem (cellsOf 64 0 b.toNat)
    parts := aput s.parts homePart { gran := [0] }
    ctxs := aput s.ctxs c {}
    launches := aput s.launches l launch
    strands := aput s.strands k (homeStrand c l now)
    lanes := aput s.lanes homeLane { lines := lines, buf := [{ launch := l, va := 0, data := b, bad := !lineOk b }], gens := [1, 0, 0, 0, 0, 0, 0, 0] }
    tiles := aput s.tiles homeLane.tile tile }

end Sys2Proof.Machine
end

