-- ==== Sys2Proof/Machine/Step.lean ====
section
/-! DEFINITION. One step of the machine. Turns.lean says what comes next, Dispatch.lean what it does. -/

namespace Sys2Proof.Machine

/-- One step: the turn that comes next is carried out. -/
def step (s : State) : Host.Outcome State Fault Refusal :=
  match nextAct s with
  | .exec i t => exec i t
  | .done t => .next t

/-- The instruction whose bits are `w`, placed where the next step fetches it: log entry 40 says what that takes. -/
def State.withFetchWord (s : State) (_nbits w : Nat) : State := placeWord (BitVec.ofNat 96 w) s

end Sys2Proof.Machine
end

