-- ==== Sys2Proof/Laws/Memory.lean ====
section
/-! SUPPORT. Maps and memory: a read after a write, and the canonical form that every memory operation keeps. -/

namespace Sys2Proof.Machine

/-! ## Maps -/

section maps
variable {κ β : Type} [DecidableEq κ]

@[simp] theorem aget_aput_same (m : Assoc κ β) (k : κ) (v : β) : aget (aput m k v) k = some v := by
  induction m with
  | nil => simp [aput, aget]
  | cons p m ih => by_cases h : p.1 = k <;> simp [aput, aget, h, ih]

theorem aget_aput_other (m : Assoc κ β) {k j : κ} (v : β) (h : k ≠ j) : aget (aput m k v) j = aget m j := by
  induction m with
  | nil => simp [aput, aget, h]
  | cons p m ih =>
    by_cases hk : p.1 = k
    · subst hk; simp [aput, aget, h]
    · by_cases hj : p.1 = j
      · subst hj; simp [aput, aget, hk]
      · simp [aput, aget, hk, hj, ih]

theorem aget_amod_same (m : Assoc κ β) (k : κ) (f : β → β) : aget (amod m k f) k = (aget m k).map f := by
  unfold amod
  cases h : aget m k <;> simp [h]

theorem aget_amod_other (m : Assoc κ β) {k j : κ} (f : β → β) (h : k ≠ j) : aget (amod m k f) j = aget m j := by
  unfold amod
  cases aget m k with
  | none => rfl
  | some v => exact aget_aput_other m _ h

end maps

/-! ## Memory -/

theorem Memory.wfFrom_weaken {lo : Option Nat} {m : List Host.Cell} (h : Memory.wfFrom lo m = true) :
    Memory.wfFrom none m = true := by
  cases m with
  | nil => rfl
  | cons c m => cases lo <;> simp_all [Memory.wfFrom]

theorem Memory.wfFrom_trans {a b : Nat} {m : List Host.Cell} (h : Memory.wfFrom (some b) m = true) (hab : a ≤ b) :
    Memory.wfFrom (some a) m = true := by
  cases m with
  | nil => rfl
  | cons c m => simp [Memory.wfFrom] at h ⊢; exact ⟨⟨by omega, h.1.2⟩, h.2⟩

/-- A write above the bound keeps the form. -/
theorem memPut_wfFrom (m : List Host.Cell) (a : Nat) (b : Byte) (lo : Option Nat) (h : Memory.wfFrom lo m = true)
    (ha : ∀ l, lo = some l → l < a) : Memory.wfFrom lo (memPut m a b) = true := by
  induction m generalizing lo with
  | nil =>
    by_cases hb : b = memDefault
    · simp [memPut, hb, Memory.wfFrom]
    · cases lo <;> simp_all [memPut, Memory.wfFrom]
  | cons c m ih =>
    have ht : Memory.wfFrom (some c.1) m = true := by simp [Memory.wfFrom] at h; exact h.2
    have hd : c.2 ≠ memDefault := by simp [Memory.wfFrom] at h; exact h.1.2
    unfold memPut
    by_cases h1 : a < c.1
    · by_cases hb : b = memDefault
      · simpa [h1, hb] using h
      · cases lo <;> simp_all [Memory.wfFrom]
    · by_cases h2 : a = c.1
      · subst h2
        by_cases hb : b = memDefault
        · simp only [h1, hb, if_false, if_true]
          cases lo with
          | none => exact Memory.wfFrom_weaken ht
          | some l => exact Memory.wfFrom_trans ht (Nat.le_of_lt (ha l rfl))
        · cases lo <;> simp_all [Memory.wfFrom]
      · have hc := ih (some c.1) ht (by intro l hl; cases hl; omega)
        rw [if_neg h1, if_neg h2]
        cases lo <;> simp_all [Memory.wfFrom]

/-- One byte written keeps the canonical form. -/
theorem memPut_wf {m : List Host.Cell} (a : Nat) (b : Byte) (h : Memory.wf m = true) : Memory.wf (memPut m a b) = true :=
  memPut_wfFrom m a b none h (by simp)

/-- Any list of bytes written keeps the canonical form. -/
theorem memPutAll_wf {m : List Host.Cell} (l : List Host.Cell) (h : Memory.wf m = true) : Memory.wf (memPutAll m l) = true := by
  induction l with
  | nil => exact h
  | cons c l ih => exact memPut_wf c.1 c.2 ih

/-- The end of a step keeps the canonical form. -/
theorem commit_wf {m : List Host.Cell} (s : State) (h : Memory.wf m = true) : Memory.wf (commit m s).mem = true :=
  memPutAll_wf s.stores h

theorem Memory.wfFrom_filter (p : Host.Cell → Bool) {lo : Option Nat} {m : List Host.Cell} (h : Memory.wfFrom lo m = true) :
    Memory.wfFrom lo (m.filter p) = true := by
  induction m generalizing lo with
  | nil => exact h
  | cons c m ih =>
    have ht : Memory.wfFrom (some c.1) m = true := by simp [Memory.wfFrom] at h; exact h.2
    by_cases hp : p c
    · cases lo <;> simp_all [List.filter, Memory.wfFrom]
    · have hl : Memory.wfFrom lo m = true := by
        cases lo with
        | none => exact Memory.wfFrom_weaken ht
        | some l => simp [Memory.wfFrom] at h; exact Memory.wfFrom_trans ht (Nat.le_of_lt h.1.1)
      simpa [List.filter, hp] using ih hl

/-- Memory of which a part is cleared keeps the canonical form. -/
theorem filter_wf (p : Host.Cell → Bool) {m : List Host.Cell} (h : Memory.wf m = true) : Memory.wf (m.filter p) = true :=
  Memory.wfFrom_filter p h

/-- Below the bound of a canonical list every byte reads the default. -/
theorem memGet_below {m : List Host.Cell} {lo a : Nat} (h : Memory.wfFrom (some lo) m = true) (ha : a ≤ lo) :
    memGet m a = memDefault := by
  induction m generalizing lo with
  | nil => rfl
  | cons c m ih =>
    simp [Memory.wfFrom] at h
    have hne : c.1 ≠ a := by omega
    simp [memGet, hne]
    exact ih h.2 (by omega)

theorem memGet_memPut_same_from (m : List Host.Cell) (a : Nat) (b : Byte) (lo : Option Nat) (h : Memory.wfFrom lo m = true) :
    memGet (memPut m a b) a = b := by
  induction m generalizing lo with
  | nil => by_cases hb : b = memDefault <;> simp [memPut, memGet, hb]
  | cons c m ih =>
    have ht : Memory.wfFrom (some c.1) m = true := by simp [Memory.wfFrom] at h; exact h.2
    unfold memPut
    by_cases h1 : a < c.1
    · by_cases hb : b = memDefault
      · subst hb
        have hne : c.1 ≠ a := by omega
        simp [h1, memGet, hne, memGet_below ht (Nat.le_of_lt h1)]
      · simp [h1, hb, memGet]
    · by_cases h2 : a = c.1
      · subst h2
        by_cases hb : b = memDefault
        · subst hb
          simp [memGet_below ht (Nat.le_refl _)]
        · simp [hb, memGet]
      · have hne : c.1 ≠ a := fun e => h2 e.symm
        simp [h1, h2, memGet, hne, ih (some c.1) ht]

/-- A read of the byte just written gives it back. -/
theorem memGet_memPut_same {m : List Host.Cell} (a : Nat) (b : Byte) (h : Memory.wf m = true) : memGet (memPut m a b) a = b :=
  memGet_memPut_same_from m a b none h

/-- A write leaves every other byte alone. -/
theorem memGet_memPut_other (m : List Host.Cell) {a x : Nat} (b : Byte) (h : a ≠ x) : memGet (memPut m a b) x = memGet m x := by
  induction m with
  | nil => by_cases hb : b = memDefault <;> simp [memPut, memGet, hb, h]
  | cons c m ih =>
    unfold memPut
    by_cases h1 : a < c.1
    · by_cases hb : b = memDefault <;> simp [h1, hb, memGet, h]
    · by_cases h2 : a = c.1
      · subst h2
        by_cases hb : b = memDefault <;> simp [hb, memGet, h]
      · rw [if_neg h1, if_neg h2]
        by_cases hx : c.1 = x <;> simp [memGet, hx, ih]

/-- Bytes that no cell of the list names are left alone. -/
theorem memGet_memPutAll_other (m l : List Host.Cell) {x : Nat} (h : ∀ c ∈ l, c.1 ≠ x) : memGet (memPutAll m l) x = memGet m x := by
  induction l with
  | nil => rfl
  | cons c l ih =>
    have h1 : c.1 ≠ x := h c (List.mem_cons_self ..)
    have h2 : memGet (memPutAll m l) x = memGet m x := ih (fun d hd => h d (List.mem_cons_of_mem _ hd))
    exact (memGet_memPut_other _ _ h1).trans h2

/-- The first cell of the list that names a byte says what it reads as afterwards. -/
theorem memGet_memPutAll (m l : List Host.Cell) (x : Nat) (h : Memory.wf m = true) :
    memGet (memPutAll m l) x = (match l.find? (fun c => c.1 == x) with
      | some c => c.2
      | none => memGet m x) := by
  induction l with
  | nil => rfl
  | cons c l ih =>
    by_cases hx : c.1 = x
    · subst hx
      simpa [memPutAll] using memGet_memPut_same c.1 c.2 (memPutAll_wf l h)
    · have := memGet_memPut_other (memPutAll m l) c.2 hx
      simp only [memPutAll, List.foldr_cons] at this ih ⊢
      simp [this, ih, hx]

/-- Between two steps a byte is what memory holds. -/
theorem State.byte_eq {s : State} (h : s.stores = []) (a : Nat) : s.byte a = memGet s.mem a := by
  simp [State.byte, h]

/-- A step in progress sees each byte as memory will hold it. -/
theorem State.byte_commit {s : State} (h : Memory.wf s.mem = true) (a : Nat) : memGet (commit s.mem s).mem a = s.byte a := by
  simp only [commit, State.byte]
  exact (memGet_memPutAll _ _ _ h).trans (by cases List.find? (fun c => c.1 == a) s.stores <;> rfl)

end Sys2Proof.Machine
end

