-- ==== Sys2Proof/Laws/Exec.lean ====
section
/-! SUPPORT. What carrying out any instruction or event can do, said once: exec is an issue of a lane instruction's effect, or an
event's effect where it can happen. -/

namespace Sys2Proof.Machine

/-- A lane instruction is the issue of its effect. -/
theorem exec_lane {i : Instr} {eff : Effect} (h : effOf i = some eff) (s : State) : exec i s = issue i eff s := by
  cases i <;> first
    | (have h' := Option.some.inj h; subst h'; exact rfl)
    | (have h' : none = some eff := h; cases h')

/-- What memory keeps in the two events that clear a part of it (19 R386, 12 R276). -/
def cleared : Instr → Nat → Bool
  | .assignGranules p gs => fun key => !gs.any (fun g => inGranule p.pkg g key)
  | .coldReset n => fun key => !keyOfPkg n key
  | _ => fun _ => true

/-- An event is its effect where it can happen, and nothing otherwise. -/
theorem exec_event {i : Instr} {f : State → Option State} (h : evOf i = some f) (s : State) :
    exec i s = .next (match f s with
      | some t => commit (s.mem.filter (fun c => cleared i c.1)) t
      | none => s) := by
  cases i <;> first
    | (have h' : none = some f := h; cases h')
    | (have h' := Option.some.inj h; subst h'
       simp only [cleared, List.filter_true]; exact rfl)

/-- Every constructor is a lane instruction or an event. -/
theorem lane_or_event (i : Instr) : (∃ eff, effOf i = some eff) ∨ (∃ f, evOf i = some f) := by
  cases i <;> first
    | exact .inl ⟨_, rfl⟩
    | exact .inr ⟨_, rfl⟩

/-- An issue ends in the state it began in, in what the attempt comes to, or where there is no strand to act for. -/
theorem issue_cases (i : Instr) (eff : Effect) (s : State) :
    issue i eff s = .fault .noStrand ∨ issue i eff s = .next s ∨
    ∃ t, attempt i eff s = some t ∧ issue i eff s = .next (commit s.mem t) := by
  unfold issue
  cases s.strand s.cur with
  | none => exact .inl rfl
  | some st =>
    cases h : attempt i eff s with
    | none => exact .inr (.inl rfl)
    | some t => exact .inr (.inr ⟨t, rfl, rfl⟩)

/-- An attempt that succeeds is an issue. -/
theorem issue_next {i : Instr} {eff : Effect} {s t : State} (h : attempt i eff s = some t) :
    issue i eff s = .next (commit s.mem t) := by
  have hk : ∃ st, s.strand s.cur = some st := by
    cases hs : s.strand s.cur with
    | some st => exact ⟨st, rfl⟩
    | none => simp [attempt, issueOf, hs] at h
  obtain ⟨st, hst⟩ := hk
  simp [issue, hst, h]

/-- Whatever is carried out, the next state is the present one or one that has been committed over a part of the memory. -/
theorem exec_cases (i : Instr) (s t : State) (h : exec i s = .next t) :
    t = s ∨ ∃ (keep : Host.Cell → Bool) (u : State), t = commit (s.mem.filter keep) u := by
  rcases lane_or_event i with ⟨eff, he⟩ | ⟨f, hf⟩
  · rw [exec_lane he] at h
    rcases issue_cases i eff s with h1 | h1 | ⟨u, -, h1⟩ <;> rw [h1] at h
    · cases h
    · injection h with h; exact .inl h.symm
    · injection h with h
      exact .inr ⟨fun _ => true, u, by simpa using h.symm⟩
  · rw [exec_event hf] at h
    injection h with h
    cases hs : f s with
    | none => rw [hs] at h; exact .inl h.symm
    | some u => rw [hs] at h; exact .inr ⟨_, u, h.symm⟩

end Sys2Proof.Machine
end

