-- ==== Sys2Proof/Safety.lean ====
section
/-! DEFINITION. What a safe state and a safe run are, and when an instruction issues and completes, in the terms that statements
use. -/

namespace Sys2Proof.Safety

open Sys2Proof.Machine

/-- What every state between two steps meets: memory has its canonical form and no write waits to be committed. -/
def Inv (s : State) : Prop := Memory.wf s.mem = true ∧ s.stores = []

/-- A step ends in a next state. -/
def Steps (s : State) : Prop := ∃ t, step s = .next t

/-- The first `k` steps from a state all end in a next state. -/
def Runs (k : Nat) (s : State) : Prop := ∃ t, Host.Core.run Sys2Proof.core k s = .next t

/-- The current strand is ready for `i` and issues it in place, as the issue `x`: it stands at the strand's issue address (01 R17),
its time has come (01 R24, R27), its encoding passes every check (04 R96), it waits for nothing and its register lines are held
(01 R26), outside deferring mode or with every input settled in it (02 R46); and no word of the machine holds an error, no unit of the package is out
of use, and no self-test runs (18 R362, R365, R366). -/
def Ready (i : Instr) (s : State) (x : Iss) : Prop :=
  ∃ y c, issueOf i s = some y ∧ mayIssue s y.st y.h y.pc y.t0 = true ∧ r96 s i y.sh y.st = none ∧ plan s y = .inPlace x c ∧
    s.healthy x.st.part.pkg = true

/-- A ready instruction has an active thread, its queue ports are bound, the queues hold what it pops and have room for what it
pushes (01 R38, R39). `y` is the issue with the elements popped, `s1` the state with its PCs advanced and the queues popped. -/
def Performs (i : Instr) (s : State) (y : Iss) (s1 : State) : Prop :=
  ∃ x pops, Ready i s x ∧ x.act ≠ [] ∧ x.boundPorts = true ∧
    popAll x.st.ctx x.st.qpb x.requests (advance x s) [] = some (s1, pops) ∧ x.room s1 = true ∧ y = { x with pops := pops }

/-- The instruction completes its issue `y` with `t`: the next state is `t` with what every issue in place leaves (01 R14, R23, R24,
R27, R30) and the memory committed. -/
def Completes (i : Instr) (s : State) (y : Iss) (t : State) : Prop := exec i s = .next (commit s.mem (finish y t))

/-- The instruction writes, for each thread that performs it, what `f` makes of what that thread reads: per active thread, or once
(01 R15), at the times of 01 R25. -/
def Each (i : Instr) (f : Iss → Rd → Wv) : Prop :=
  ∀ s y s1, Performs i s y s1 →
    Completes i s y (writeRows y (y.poppers.map (fun t => (t, f y (readThread s1 y t)))) s1)

/-- The instruction writes what `g` makes of the active threads taken together (05 R130). -/
def Together (i : Instr) (g : Iss → List Rd → List (Nat × Wv)) : Prop :=
  ∀ s y s1, Performs i s y s1 → Completes i s y (writeRows y (g y (y.act.map (fun t => readThread s1 y t))) s1)

/-- An event happens in `s` and leaves `t`. -/
def Happens (i : Instr) (s t : State) : Prop := exec i s = .next (commit s.mem t)

/-- A precise fault of the current strand is what the instruction comes to (17 R348). -/
def Faults (i : Instr) (s : State) (f : Flt) : Prop :=
  ∃ x, issueOf i s = some x ∧ exec i s = .next (commit s.mem (s.preciseFault s.cur f x.pc x.exm x.act))

end Sys2Proof.Safety
end

