-- ==== Sys2Proof/Laws/Issue.lean ====
section
/-! SUPPORT. From the effect of an instruction to its completion: one lemma for each way in which an effect ends, and one for the
events. -/

namespace Sys2Proof.Machine

/-- Nothing but an issue in place is planned as one. -/
theorem ofOption_ne {o : Option State} {x c} (h : Plan.ofOption o = .inPlace x c) : False := by
  cases o <;> cases h

/-- In deferring mode an issue in place is the one planned, TASK.spec's perhaps with every executing thread (09 R221). -/
theorem planDeferring_inPlace {s : State} {y x : Iss} {c : Option State} (h : planDeferring s y = .inPlace x c) :
    x = y ∨ x = { y with act := y.exm } := by
  unfold planDeferring at h
  have hx : ∀ p : Bool, (if p then { y with act := y.exm } else y) = y ∨ (if p then { y with act := y.exm } else y) = { y with act := y.exm } := by
    intro p; cases p
    · exact .inl rfl
    · exact .inr rfl
  dsimp only at h
  generalize hp : (y.h.pred != 0 && y.st.tagged (predLoc y.h.pred.toNat) y.t0 && Instr.isSpecTask y.i) = p at h
  specialize hx p
  generalize hq : (if p = true then ({ y with act := y.exm } : Iss) else y) = z at h hx
  suffices x = z by rw [this]; exact hx
  repeat' split at h
  all_goals first
    | exact (Plan.inPlace.inj h).1.symm
    | exact (ofOption_ne h).elim
    | (cases h)

/-- The same in either mode. -/
theorem plan_inPlace {s : State} {y x : Iss} {c : Option State} (h : plan s y = .inPlace x c) :
    x = y ∨ x = { y with act := y.exm } := by
  unfold plan at h
  split at h
  · exact planDeferring_inPlace h
  · unfold planPlain at h
    repeat' split at h
    all_goals first
      | exact .inl (Plan.inPlace.inj h).1.symm
      | (cases h)

/-- Everything that an issue is made of. -/
theorem issueOf_inv {i : Instr} {s : State} {x : Iss} (h : issueOf i s = some x) :
    shape i = some x.sh ∧ Instr.hdr? i = some x.h ∧ x.i = i ∧ x.k = s.cur ∧ s.strand s.cur = some x.st ∧
    x.st.issueAddr = some x.pc ∧ x.t0 = s.cycle x.st.part ∧ x.exm = x.st.executing x.pc ∧
    x.act = activeOf s x.st x.h x.exm x.t0 ∧ x.ent = none ∧ x.pops = [] := by
  unfold issueOf at h
  split at h
  · rename_i st sh hd h1 h2 h3
    split at h
    · cases h
    · rename_i pc h4
      injection h with h
      subst h
      exact ⟨h2, h3, rfl, rfl, h1, h4, rfl, rfl, rfl, rfl, rfl⟩
  · cases h

end Sys2Proof.Machine

namespace Sys2Proof.Safety

open Sys2Proof.Machine

/-- Everything of an issue in place, up to its effect. -/
theorem ready_attempt {i : Instr} {eff : Effect} {s : State} {x : Iss} (h : Ready i s x) :
    ∃ c, attempt i eff s = settle x s (performs x (advance x s) eff) c := by
  obtain ⟨y, c, h1, h2, h3, h4, h5⟩ := h
  refine ⟨c, ?_⟩
  simp [attempt, h1, h2, h3, h4, issueIn, State.useSitesOf, h5]

/-- What `Performs` says of the pops and the ports. -/
theorem performs_eff {i : Instr} {s : State} {y : Iss} {s1 : State} (eff : Effect) (h : Performs i s y s1) :
    ∃ x, Ready i s x ∧ performs x (advance x s) eff = eff y s1 ∧ (∃ pops, y = { x with pops := pops }) := by
  obtain ⟨x, pops, hr, ha, hb, hp, hroom, rfl⟩ := h
  refine ⟨x, hr, ?_, pops, rfl⟩
  have ha' : x.act.isEmpty = false := by cases hx : x.act <;> simp_all
  simp [performs, ha', hb, hp, hroom]

/-- An effect that succeeds completes the instruction. -/
theorem completes_of_ok {i : Instr} {eff : Effect} {s : State} {y : Iss} {s1 t : State} (he : effOf i = some eff)
    (hp : Performs i s y s1) (hf : eff y s1 = .ok t) : Completes i s y t := by
  obtain ⟨x, hr, hx, pops, rfl⟩ := performs_eff eff hp
  obtain ⟨c, ha⟩ := ready_attempt (eff := eff) hr
  rw [hx, hf] at ha
  unfold Completes
  rw [exec_lane he, issue_next ha]
  rfl

/-- An effect that stops is a precise fault, before anything has changed. -/
theorem stops_of_stop {i : Instr} {eff : Effect} {s : State} {y : Iss} {s1 : State} {f : Flt} (he : effOf i = some eff)
    (hp : Performs i s y s1) (hf : eff y s1 = .stop f) :
    exec i s = .next (commit s.mem (s.preciseFault y.k f y.pc y.exm y.act)) := by
  obtain ⟨x, hr, hx, pops, rfl⟩ := performs_eff eff hp
  obtain ⟨c, ha⟩ := ready_attempt (eff := eff) hr
  rw [hx, hf] at ha
  rw [exec_lane he, issue_next ha]

/-- A register instruction evaluated per active thread or once. -/
theorem each_of_eff {i : Instr} {eff : Effect} {f : Iss → Rd → Wv} (he : effOf i = some eff)
    (hf : ∀ y s1, eff y s1 = .ok (writeRows y (y.poppers.map (fun t => (t, f y (readThread s1 y t)))) s1)) : Each i f :=
  fun _ y s1 hp => completes_of_ok he hp (hf y s1)

/-- A register instruction that combines the active threads. -/
theorem together_of_eff {i : Instr} {eff : Effect} {g : Iss → List Rd → List (Nat × Wv)} (he : effOf i = some eff)
    (hf : ∀ y s1, eff y s1 = .ok (writeRows y (g y (y.act.map (fun t => readThread s1 y t))) s1)) : Together i g :=
  fun _ y s1 hp => completes_of_ok he hp (hf y s1)

/-- An event whose effect exists happens; two events clear a part of the memory first. -/
theorem happens_of_some {i : Instr} {f : State → Option State} {s t : State} (he : evOf i = some f) (hf : f s = some t)
    (hk : cleared i = fun _ => true) : Happens i s t := by
  unfold Happens
  rw [exec_event he, hf, hk]
  simp

/-- What an instruction that performs is made of: its active threads are those of its predicate, or every executing one. -/
theorem performs_inv {i : Instr} {s : State} {y : Iss} {s1 : State} (h : Performs i s y s1) :
    shape i = some y.sh ∧ Instr.hdr? i = some y.h ∧ y.i = i ∧ y.k = s.cur ∧ s.strand s.cur = some y.st ∧
    y.st.issueAddr = some y.pc ∧ y.t0 = s.cycle y.st.part ∧ y.exm = y.st.executing y.pc ∧
    (y.act = activeOf s y.st y.h y.exm y.t0 ∨ y.act = y.exm) ∧ y.ent = none ∧ y.act ≠ [] := by
  obtain ⟨x, pops, ⟨z, c, h1, -, -, h4, -⟩, ha, -, -, -, rfl⟩ := h
  obtain ⟨a1, a2, a3, a4, a5, a6, a7, a8, a9, a10, -⟩ := issueOf_inv h1
  rcases plan_inPlace h4 with rfl | rfl
  · exact ⟨a1, a2, a3, a4, a5, a6, a7, a8, .inl a9, a10, ha⟩
  · exact ⟨a1, a2, a3, a4, a5, a6, a7, a8, .inr rfl, a10, ha⟩

/-- A register instruction whose result is known only for its own issues. -/
theorem each_of {i : Instr} {eff : Effect} {f : Iss → Rd → Wv} (g : Iss → Rd → Wv) (he : effOf i = some eff)
    (hf : ∀ y, eff y = regEff (g y) y)
    (hg : ∀ s y s1 t, Performs i s y s1 → g y (readThread s1 y t) = f y (readThread s1 y t)) : Each i f := by
  intro s y s1 hp
  refine completes_of_ok he hp ?_
  rw [hf]
  simp only [regEff]
  congr 2
  apply List.map_congr_left
  intro t _
  rw [hg s y s1 t hp]

end Sys2Proof.Safety
end

