-- ==== Sys2Proof/Laws/Codec.lean ====
section
/-! SUPPORT. Reading a field that an encoding has put together gives the field back: the parts of the round trip of
Laws/PerInstr.lean. -/

namespace Sys2Proof.Decode

theorem opdOf_opdCode (o : Opd) : opdOf (opdCode o) = .ok o := by
  cases o with
  | v n => revert n; decide +kernel
  | u n => revert n; decide +kernel
  | qp n => revert n; decide
  | _ => decide

theorem tyOf_tyCode (t : Ty) : tyOf (tyCode t) = .ok t := by cases t <;> decide
theorem rmOf_rmCode (r : Rm) : rmOf (rmCode r) = .ok r := by cases r <;> decide
theorem cmpOf_cmpCode (c : Cmp) : cmpOf (cmpCode c) = c := by cases c <;> decide
theorem scopeOf_scopeCode (c : Scope) : scopeOf (scopeCode c) = c := by cases c <;> decide
theorem getLsbD_bit (b : Bool) : (bit b).getLsbD 0 = b := by cases b <;> decide

/-- A field inside the right part of a concatenation. -/
theorem field_right {m n : Nat} (x : BitVec m) (y : BitVec n) (i k : Nat) (h : i + k ≤ n) :
    (x ++ y).extractLsb' i k = y.extractLsb' i k := by
  ext j hj
  simp only [BitVec.getElem_extractLsb', BitVec.getLsbD_append]
  have : i + j < n := by omega
  simp [this]

/-- A field inside the left part. -/
theorem field_left {m n : Nat} (x : BitVec m) (y : BitVec n) (i k : Nat) (h : n ≤ i) :
    (x ++ y).extractLsb' i k = x.extractLsb' (i - n) k := by
  ext j hj
  simp only [BitVec.getElem_extractLsb', BitVec.getLsbD_append]
  have : ¬ i + j < n := by omega
  simp [this, show i + j - n = i - n + j by omega]

theorem field_all {n : Nat} (x : BitVec n) : x.extractLsb' 0 n = x := by
  ext j hj
  simp

theorem bit_right {m n : Nat} (x : BitVec m) (y : BitVec n) (i : Nat) (h : i < n) : (x ++ y).getLsbD i = y.getLsbD i := by
  simp [BitVec.getLsbD_append, h]
theorem bit_left {m n : Nat} (x : BitVec m) (y : BitVec n) (i : Nat) (h : n ≤ i) :
    (x ++ y).getLsbD i = x.getLsbD (i - n) := by
  simp [BitVec.getLsbD_append, Nat.not_lt.mpr h]

theorem readA_body (v : ViewA) : readA v.body = .ok v := by
  cases v
  simp (disch := decide) only [readA, ViewA.body, field_left, field_right, field_all, bit_left, bit_right, Nat.reduceSub,
    opdOf_opdCode, tyOf_tyCode, rmOf_rmCode, getLsbD_bit]
  rfl

theorem readI_body (v : ViewI) : readI v.body = .ok v := by
  cases v
  simp (disch := decide) only [readI, ViewI.body, field_left, field_right, field_all, Nat.reduceSub, opdOf_opdCode]
  rfl

theorem readM_body (v : ViewM) : readM v.body = .ok v := by
  obtain ⟨d, ⟨b, x, o, sc⟩, ty, low⟩ := v
  simp (disch := decide) only [readM, ViewM.body, field_left, field_right, field_all, Nat.reduceSub, opdOf_opdCode, tyOf_tyCode]
  rfl

theorem readB_body (v : ViewB) : readB v.body = v := by
  cases v
  simp (disch := decide) only [readB, ViewB.body, field_left, field_right, field_all, Nat.reduceSub]

theorem readT_body (v : ViewT) : readT v.body = .ok v := by
  cases v
  simp (disch := decide) only [readT, ViewT.body, field_left, field_right, field_all, bit_left, bit_right, Nat.reduceSub,
    opdOf_opdCode, tyOf_tyCode, rmOf_rmCode, getLsbD_bit]
  rfl

/-- The fields of a header's bits. -/
theorem header_fields (a : BitVec 4) (w : BitVec 12) (c : BitVec 4) (n : BitVec 1) (p : BitVec 3) :
    (a ++ w ++ c ++ n ++ p).extractLsb' 20 4 = a ∧ (a ++ w ++ c ++ n ++ p).extractLsb' 8 12 = w ∧
    (a ++ w ++ c ++ n ++ p).extractLsb' 4 4 = c ∧ (a ++ w ++ c ++ n ++ p).getLsbD 3 = n.getLsbD 0 ∧
    (a ++ w ++ c ++ n ++ p).extractLsb' 0 3 = p := by
  refine ⟨?_, ?_, ?_, ?_, ?_⟩ <;>
    simp (disch := decide) only [field_left, field_right, field_all, bit_left, bit_right, Nat.reduceSub]

def setfCode : Option (Fin 12) → BitVec 4
  | none => 15#4
  | some j => BitVec.ofNat 4 j.val

theorem hdrBits_eq (h : Hdr) : hdrBits h = h.after ++ h.wait ++ setfCode h.setf ++ bit h.neg ++ h.pred := rfl

theorem setfCode_toNat (o : Option (Fin 12)) : (setfCode o).toNat = (match o with
    | none => 15
    | some j => j.val) := by
  cases o with
  | none => rfl
  | some j => simp [setfCode]; omega

/-- The header, for the headers that 04 R96 row 3 admits. -/
theorem readHdr_hdrBits (h : Hdr) (ok : Machine.Hdr.ok h = true) : readHdr (hdrBits h) = .ok h := by
  obtain ⟨h1, h2, h3, h4, h5⟩ := header_fields h.after h.wait (setfCode h.setf) (bit h.neg) h.pred
  rw [hdrBits_eq]
  generalize h.after ++ h.wait ++ setfCode h.setf ++ bit h.neg ++ h.pred = x at h1 h2 h3 h4 h5 ⊢
  simp only [readHdr]
  rw [show BitVec.extractLsb' 20 4 x = h.after from h1, show BitVec.extractLsb' 8 12 x = h.wait from h2,
    show BitVec.getLsbD x 3 = h.neg from h4.trans (getLsbD_bit _), show BitVec.extractLsb' 0 3 x = h.pred from h5]
  have h3' : (BitVec.extractLsb' 4 4 x).toNat = _ := (congrArg BitVec.toNat h3).trans (setfCode_toNat h.setf)
  generalize (BitVec.extractLsb' 4 4 x).toNat = n at h3' ⊢
  subst h3'
  obtain ⟨after, wait, setf, neg, pred⟩ := h
  cases setf with
  | none => cases neg <;> simp_all [Machine.Hdr.ok, pure, Except.pure, bind, Except.bind]
  | some j => cases neg <;> simp_all [Machine.Hdr.ok, pure, Except.pure, bind, Except.bind]

end Sys2Proof.Decode

namespace Sys2Proof.Decode

def View.format : View → Format
  | .a _ => .a
  | .i _ => .i
  | .m _ => .m
  | .b _ => .b
  | .t _ => .t

/-- The instruction of a view, before the checks on its operands. -/
def parseView (op : Nat) (h : Hdr) : View → Except Reject Instr
  | .a v => decodeA op h v
  | .i v => decodeI op h v
  | .m v => decodeM op h v
  | .b v => decodeB op h v
  | .t v => decodeT op h v

theorem parse_body (op : Nat) (h : Hdr) (v : View) (hf : formatOf op = some v.format) :
    parse op h v.body = parseView op h v := by
  cases v <;> simp only [View.format] at hf <;>
    simp only [parse, hf, View.body, readA_body, readI_body, readM_body, readB_body, readT_body, parseView] <;> rfl

theorem slot_fields (op : BitVec 10) (hd : BitVec 24) (b : BitVec 62) :
    (op ++ hd ++ b).extractLsb' 86 10 = op ∧ (op ++ hd ++ b).extractLsb' 62 24 = hd ∧ (op ++ hd ++ b).extractLsb' 0 62 = b := by
  refine ⟨?_, ?_, ?_⟩ <;> simp (disch := decide) only [field_left, field_right, field_all, Nat.reduceSub]

/-- A slot put together from an opcode, a header and a body decodes to what the view stands for. -/
theorem decode_slot (op : BitVec 10) (h : Hdr) (v : View) (i : Instr) (hok : Machine.Hdr.ok h = true) (wf : i.wf = true)
    (hf : formatOf op.toNat = some v.format) (hp : parseView op.toNat h v = .ok i) :
    decode (op ++ hdrBits h ++ v.body) = .ok i := by
  obtain ⟨h1, h2, h3⟩ := slot_fields op (hdrBits h) v.body
  generalize op ++ hdrBits h ++ v.body = w at h1 h2 h3 ⊢
  have ho : opcode w = op.toNat := congrArg BitVec.toNat h1
  have hh : readHdr (w.extractLsb' 62 24) = .ok h := by
    rw [show w.extractLsb' 62 24 = hdrBits h from h2]; exact readHdr_hdrBits h hok
  have hb : parse (opcode w) h (w.extractLsb' 0 62) = .ok i := by
    rw [show w.extractLsb' 0 62 = v.body from h3, ho, parse_body _ _ _ hf]; exact hp
  simp only [decode, ho] at hb ⊢
  simp [hf, hh, hb, wf, bind, Except.bind, pure, Except.pure]

end Sys2Proof.Decode
end

