-- ==== Sys2Proof/Laws/PerInstr.lean ====
section
/-! SUPPORT. The round trip of every instruction, one lemma per constructor: decoding what the encoder writes gives the
instruction back (04 R79, R89-R94). -/

namespace Sys2Proof.Laws.RoundTrip

set_option linter.unusedSimpArgs false

open Sys2Proof.Decode

/-- Every well-formed instruction is read back from its words. -/
def Statement (i : Instr) : Prop := ∀ w : Slot, i.wf = true → encode i = some w → decode w = .ok i

theorem of_none {i : Instr} (h : encodeView i = none) : Statement i := by
  intro w _ he
  simp [encode, h] at he

theorem of_view {i : Instr} {op : BitVec 10} {h : Hdr} {v : View} {sh : Machine.Shape} (he : encodeView i = some (op, h, v))
    (hs : Machine.shape i = some sh) (hh : Machine.Instr.hdr? i = some h) (hf : formatOf op.toNat = some v.format)
    (hp : parseView op.toNat h v = .ok i) : Statement i := by
  intro w wf hw
  have hok : Machine.Hdr.ok h = true := by
    simp only [Instr.wf, Machine.Instr.legal, hs, hh, Bool.and_eq_true] at wf
    exact wf.1.1.1
  simp only [encode, he, Option.map_some, Option.some.injEq] at hw
  subst hw
  exact decode_slot op h v i hok wf hf hp

theorem nop (h : Hdr) : Statement (.nop h) :=
  of_view rfl rfl rfl rfl rfl

theorem bra (h : Hdr) (off : BitVec 30) (slot : BitVec 3) : Statement (.bra h off slot) :=
  of_view rfl rfl rfl rfl rfl

theorem brx (h : Hdr) (a : Opd) : Statement (.brx h a) :=
  of_view rfl rfl rfl rfl rfl

theorem call (h : Hdr) (off : BitVec 30) (slot : BitVec 3) : Statement (.call h off slot) :=
  of_view rfl rfl rfl rfl rfl

theorem callx (h : Hdr) (a : Opd) : Statement (.callx h a) :=
  of_view rfl rfl rfl rfl rfl

theorem ret (h : Hdr) : Statement (.ret h) :=
  of_view rfl rfl rfl rfl rfl

theorem bpend (h : Hdr) (off : BitVec 30) (slot : BitVec 3) (test : Opd) (sense : Bool) (fmask : BitVec 12) : Statement (.bpend h off slot test sense fmask) :=
  of_view rfl rfl rfl rfl (by
    simp (disch := decide) only [parseView, decodeB, BitVec.reduceToNat, Nat.reduceDiv, field_left, field_right, field_all, bit_left,
      bit_right, Nat.reduceSub, getLsbD_bit, opdOf_opdCode, tyOf_tyCode, scopeOf_scopeCode, cmpOf_cmpCode, mmCode]
    rfl)

theorem exit (h : Hdr) : Statement (.exit h) :=
  of_view rfl rfl rfl rfl rfl

theorem yield (h : Hdr) : Statement (.yield h) :=
  of_view rfl rfl rfl rfl rfl

theorem idem (h : Hdr) : Statement (.idem h) :=
  of_view rfl rfl rfl rfl rfl

theorem trap (h : Hdr) (code : BitVec 16) : Statement (.trap h code) :=
  of_view rfl rfl rfl rfl (by
    simp (disch := decide) only [parseView, decodeI, BitVec.reduceToNat, Nat.reduceDiv, field_left, field_right, field_all, bit_left,
      bit_right, Nat.reduceSub, getLsbD_bit, opdOf_opdCode, tyOf_tyCode, scopeOf_scopeCode, cmpOf_cmpCode, mmCode]
    rfl)

theorem brk (h : Hdr) (code : BitVec 16) : Statement (.brk h code) :=
  of_view rfl rfl rfl rfl (by
    simp (disch := decide) only [parseView, decodeI, BitVec.reduceToNat, Nat.reduceDiv, field_left, field_right, field_all, bit_left,
      bit_right, Nat.reduceSub, getLsbD_bit, opdOf_opdCode, tyOf_tyCode, scopeOf_scopeCode, cmpOf_cmpCode, mmCode]
    rfl)

theorem mode (h : Hdr) (d : Opd) (sel : BitVec 5) (imm : Word) : Statement (.mode h d sel imm) :=
  of_view rfl rfl rfl rfl (by
    simp (disch := decide) only [parseView, decodeI, BitVec.reduceToNat, Nat.reduceDiv, field_left, field_right, field_all, bit_left,
      bit_right, Nat.reduceSub, getLsbD_bit, opdOf_opdCode, tyOf_tyCode, scopeOf_scopeCode, cmpOf_cmpCode, mmCode]
    rfl)

theorem join (h : Hdr) (d : Opd) (key : BitVec 4) : Statement (.join h d key) :=
  of_view rfl rfl rfl rfl (by
    simp (disch := decide) only [parseView, decodeA, decodeA0, BitVec.reduceToNat, Nat.reduceDiv, field_left, field_right, field_all, bit_left,
      bit_right, Nat.reduceSub, getLsbD_bit, opdOf_opdCode, tyOf_tyCode, scopeOf_scopeCode, cmpOf_cmpCode, mmCode]
    rfl)

theorem leave (h : Hdr) (key : BitVec 4) : Statement (.leave h key) :=
  of_view rfl rfl rfl rfl (by
    simp (disch := decide) only [parseView, decodeA, decodeA0, BitVec.reduceToNat, Nat.reduceDiv, field_left, field_right, field_all, bit_left,
      bit_right, Nat.reduceSub, getLsbD_bit, opdOf_opdCode, tyOf_tyCode, scopeOf_scopeCode, cmpOf_cmpCode, mmCode]
    rfl)

theorem launch (h : Hdr) (d a b : Opd) : Statement (.launch h d a b) :=
  of_view rfl rfl rfl rfl rfl

theorem nap (h : Hdr) (a : Opd) (imm : Word) : Statement (.nap h a imm) :=
  of_view rfl rfl rfl rfl rfl

theorem iadd (h : Hdr) (d a b : Opd) (ty : Ty) (sat : Bool) : Statement (.iadd h d a b ty sat) :=
  of_view rfl rfl rfl rfl rfl

theorem isub (h : Hdr) (d a b : Opd) (ty : Ty) (sat : Bool) : Statement (.isub h d a b ty sat) :=
  of_view rfl rfl rfl rfl rfl

theorem iaddc (h : Hdr) (d a b : Opd) (ci : Bool) (cip cop : BitVec 3) : Statement (.iaddc h d a b ci cip cop) :=
  of_view rfl rfl rfl rfl (by
    simp (disch := decide) only [parseView, decodeA, decodeA1, BitVec.reduceToNat, Nat.reduceDiv, field_left, field_right, field_all, bit_left,
      bit_right, Nat.reduceSub, getLsbD_bit, opdOf_opdCode, tyOf_tyCode, scopeOf_scopeCode, cmpOf_cmpCode, mmCode]
    rfl)

theorem isubb (h : Hdr) (d a b : Opd) (ci : Bool) (cip cop : BitVec 3) : Statement (.isubb h d a b ci cip cop) :=
  of_view rfl rfl rfl rfl (by
    simp (disch := decide) only [parseView, decodeA, decodeA1, BitVec.reduceToNat, Nat.reduceDiv, field_left, field_right, field_all, bit_left,
      bit_right, Nat.reduceSub, getLsbD_bit, opdOf_opdCode, tyOf_tyCode, scopeOf_scopeCode, cmpOf_cmpCode, mmCode]
    rfl)

theorem imul (h : Hdr) (d a b : Opd) (ty : Ty) (sat : Bool) : Statement (.imul h d a b ty sat) :=
  of_view rfl rfl rfl rfl rfl

theorem imulh (h : Hdr) (d a b : Opd) (ty : Ty) : Statement (.imulh h d a b ty) :=
  of_view rfl rfl rfl rfl rfl

theorem imad (h : Hdr) (d a b c : Opd) (ty : Ty) (sat : Bool) : Statement (.imad h d a b c ty sat) :=
  of_view rfl rfl rfl rfl rfl

theorem imadw (h : Hdr) (d a b c : Opd) (ty : Ty) : Statement (.imadw h d a b c ty) :=
  of_view rfl rfl rfl rfl rfl

theorem imin (h : Hdr) (d a b : Opd) (ty : Ty) : Statement (.imin h d a b ty) :=
  of_view rfl rfl rfl rfl rfl

theorem imax (h : Hdr) (d a b : Opd) (ty : Ty) : Statement (.imax h d a b ty) :=
  of_view rfl rfl rfl rfl rfl

theorem iabs (h : Hdr) (d a : Opd) (sat : Bool) : Statement (.iabs h d a sat) :=
  of_view rfl rfl rfl rfl rfl

theorem ineg (h : Hdr) (d a : Opd) (sat : Bool) : Statement (.ineg h d a sat) :=
  of_view rfl rfl rfl rfl rfl

theorem lea (h : Hdr) (d : Opd) (m : Addr) : Statement (.lea h d m) :=
  of_view rfl rfl rfl rfl rfl

theorem iadd64 (h : Hdr) (d a b : Opd) (bx : Bool) : Statement (.iadd64 h d a b bx) :=
  of_view rfl rfl rfl rfl (by
    simp (disch := decide) only [parseView, decodeA, decodeA1, BitVec.reduceToNat, Nat.reduceDiv, field_left, field_right, field_all, bit_left,
      bit_right, Nat.reduceSub, getLsbD_bit, opdOf_opdCode, tyOf_tyCode, scopeOf_scopeCode, cmpOf_cmpCode, mmCode]
    rfl)

theorem isad (h : Hdr) (d a b c : Opd) (ty : Ty) : Statement (.isad h d a b c ty) :=
  of_view rfl rfl rfl rfl rfl

theorem idot4 (h : Hdr) (d a b c : Opd) (ty : Ty) (mix sat : Bool) : Statement (.idot4 h d a b c ty mix sat) :=
  of_view rfl rfl rfl rfl (by
    simp (disch := decide) only [parseView, decodeA, decodeA1, BitVec.reduceToNat, Nat.reduceDiv, field_left, field_right, field_all, bit_left,
      bit_right, Nat.reduceSub, getLsbD_bit, opdOf_opdCode, tyOf_tyCode, scopeOf_scopeCode, cmpOf_cmpCode, mmCode]
    rfl)

theorem ireq (h : Hdr) (d a b : Opd) (ty : Ty) (rm : Rm) (sat wide an : Bool) : Statement (.ireq h d a b ty rm sat wide an) :=
  of_view rfl rfl rfl rfl (by
    simp (disch := decide) only [parseView, decodeA, decodeA1, BitVec.reduceToNat, Nat.reduceDiv, field_left, field_right, field_all, bit_left,
      bit_right, Nat.reduceSub, getLsbD_bit, opdOf_opdCode, tyOf_tyCode, scopeOf_scopeCode, cmpOf_cmpCode, mmCode]
    rfl)

theorem mov (h : Hdr) (d a : Opd) (w : Bool) : Statement (.mov h d a w) :=
  of_view rfl rfl rfl rfl (by
    simp (disch := decide) only [parseView, decodeA, decodeA1, BitVec.reduceToNat, Nat.reduceDiv, field_left, field_right, field_all, bit_left,
      bit_right, Nat.reduceSub, getLsbD_bit, opdOf_opdCode, tyOf_tyCode, scopeOf_scopeCode, cmpOf_cmpCode, mmCode]
    rfl)

theorem movi (h : Hdr) (d : Opd) (imm : Word) (form : BitVec 2) : Statement (.movi h d imm form) :=
  of_view rfl rfl rfl rfl (by
    simp (disch := decide) only [parseView, decodeI, BitVec.reduceToNat, Nat.reduceDiv, field_left, field_right, field_all, bit_left,
      bit_right, Nat.reduceSub, getLsbD_bit, opdOf_opdCode, tyOf_tyCode, scopeOf_scopeCode, cmpOf_cmpCode, mmCode]
    rfl)

theorem movx (h : Hdr) (d a b : Opd) (wr : Bool) : Statement (.movx h d a b wr) :=
  of_view rfl rfl rfl rfl (by
    simp (disch := decide) only [parseView, decodeA, decodeA1, BitVec.reduceToNat, Nat.reduceDiv, field_left, field_right, field_all, bit_left,
      bit_right, Nat.reduceSub, getLsbD_bit, opdOf_opdCode, tyOf_tyCode, scopeOf_scopeCode, cmpOf_cmpCode, mmCode]
    rfl)

theorem movxw (h : Hdr) (d a b : Opd) (wr : Bool) : Statement (.movxw h d a b wr) :=
  of_view rfl rfl rfl rfl (by
    simp (disch := decide) only [parseView, decodeA, decodeA1, BitVec.reduceToNat, Nat.reduceDiv, field_left, field_right, field_all, bit_left,
      bit_right, Nat.reduceSub, getLsbD_bit, opdOf_opdCode, tyOf_tyCode, scopeOf_scopeCode, cmpOf_cmpCode, mmCode]
    rfl)

theorem and (h : Hdr) (d a b : Opd) : Statement (.and h d a b) :=
  of_view rfl rfl rfl rfl rfl

theorem or (h : Hdr) (d a b : Opd) : Statement (.or h d a b) :=
  of_view rfl rfl rfl rfl rfl

theorem xor (h : Hdr) (d a b : Opd) : Statement (.xor h d a b) :=
  of_view rfl rfl rfl rfl rfl

theorem not (h : Hdr) (d a : Opd) : Statement (.not h d a) :=
  of_view rfl rfl rfl rfl rfl

theorem andn (h : Hdr) (d a b : Opd) : Statement (.andn h d a b) :=
  of_view rfl rfl rfl rfl rfl

theorem shl (h : Hdr) (d a b : Opd) (wrap : Bool) : Statement (.shl h d a b wrap) :=
  of_view rfl rfl rfl rfl (by
    simp (disch := decide) only [parseView, decodeA, decodeA2, BitVec.reduceToNat, Nat.reduceDiv, field_left, field_right, field_all, bit_left,
      bit_right, Nat.reduceSub, getLsbD_bit, opdOf_opdCode, tyOf_tyCode, scopeOf_scopeCode, cmpOf_cmpCode, mmCode]
    rfl)

theorem shr (h : Hdr) (d a b : Opd) (wrap : Bool) : Statement (.shr h d a b wrap) :=
  of_view rfl rfl rfl rfl (by
    simp (disch := decide) only [parseView, decodeA, decodeA2, BitVec.reduceToNat, Nat.reduceDiv, field_left, field_right, field_all, bit_left,
      bit_right, Nat.reduceSub, getLsbD_bit, opdOf_opdCode, tyOf_tyCode, scopeOf_scopeCode, cmpOf_cmpCode, mmCode]
    rfl)

theorem sar (h : Hdr) (d a b : Opd) (wrap : Bool) : Statement (.sar h d a b wrap) :=
  of_view rfl rfl rfl rfl (by
    simp (disch := decide) only [parseView, decodeA, decodeA2, BitVec.reduceToNat, Nat.reduceDiv, field_left, field_right, field_all, bit_left,
      bit_right, Nat.reduceSub, getLsbD_bit, opdOf_opdCode, tyOf_tyCode, scopeOf_scopeCode, cmpOf_cmpCode, mmCode]
    rfl)

theorem rol (h : Hdr) (d a b : Opd) : Statement (.rol h d a b) :=
  of_view rfl rfl rfl rfl rfl

theorem fshl (h : Hdr) (d a b c : Opd) (wrap : Bool) : Statement (.fshl h d a b c wrap) :=
  of_view rfl rfl rfl rfl (by
    simp (disch := decide) only [parseView, decodeA, decodeA2, BitVec.reduceToNat, Nat.reduceDiv, field_left, field_right, field_all, bit_left,
      bit_right, Nat.reduceSub, getLsbD_bit, opdOf_opdCode, tyOf_tyCode, scopeOf_scopeCode, cmpOf_cmpCode, mmCode]
    rfl)

theorem bfe (h : Hdr) (d a b : Opd) (ty : Ty) : Statement (.bfe h d a b ty) :=
  of_view rfl rfl rfl rfl rfl

theorem bfi (h : Hdr) (d a b c : Opd) : Statement (.bfi h d a b c) :=
  of_view rfl rfl rfl rfl rfl

theorem popc (h : Hdr) (d a : Opd) (w : Bool) : Statement (.popc h d a w) :=
  of_view rfl rfl rfl rfl (by
    simp (disch := decide) only [parseView, decodeA, decodeA2, BitVec.reduceToNat, Nat.reduceDiv, field_left, field_right, field_all, bit_left,
      bit_right, Nat.reduceSub, getLsbD_bit, opdOf_opdCode, tyOf_tyCode, scopeOf_scopeCode, cmpOf_cmpCode, mmCode]
    rfl)

theorem clz (h : Hdr) (d a : Opd) (w : Bool) : Statement (.clz h d a w) :=
  of_view rfl rfl rfl rfl (by
    simp (disch := decide) only [parseView, decodeA, decodeA2, BitVec.reduceToNat, Nat.reduceDiv, field_left, field_right, field_all, bit_left,
      bit_right, Nat.reduceSub, getLsbD_bit, opdOf_opdCode, tyOf_tyCode, scopeOf_scopeCode, cmpOf_cmpCode, mmCode]
    rfl)

theorem ctz (h : Hdr) (d a : Opd) (w : Bool) : Statement (.ctz h d a w) :=
  of_view rfl rfl rfl rfl (by
    simp (disch := decide) only [parseView, decodeA, decodeA2, BitVec.reduceToNat, Nat.reduceDiv, field_left, field_right, field_all, bit_left,
      bit_right, Nat.reduceSub, getLsbD_bit, opdOf_opdCode, tyOf_tyCode, scopeOf_scopeCode, cmpOf_cmpCode, mmCode]
    rfl)

theorem brev (h : Hdr) (d a : Opd) : Statement (.brev h d a) :=
  of_view rfl rfl rfl rfl rfl

theorem prmt (h : Hdr) (d a b c : Opd) : Statement (.prmt h d a b c) :=
  of_view rfl rfl rfl rfl rfl

theorem lop3 (h : Hdr) (d a b c : Opd) (fn : BitVec 8) (ze : Bool) (pz : BitVec 3) : Statement (.lop3 h d a b c fn ze pz) :=
  of_view rfl rfl rfl rfl (by
    simp (disch := decide) only [parseView, decodeA, decodeA2, BitVec.reduceToNat, Nat.reduceDiv, field_left, field_right, field_all, bit_left,
      bit_right, Nat.reduceSub, getLsbD_bit, opdOf_opdCode, tyOf_tyCode, scopeOf_scopeCode, cmpOf_cmpCode, mmCode]
    rfl)

theorem icmp (h : Hdr) (a b : Opd) (ty : Ty) (pd : BitVec 3) (cmp : Cmp) (comb : BitVec 2) (pc : BitVec 3) : Statement (.icmp h a b ty pd cmp comb pc) :=
  of_view rfl rfl rfl rfl (by
    simp (disch := decide) only [parseView, decodeA, decodeA3, BitVec.reduceToNat, Nat.reduceDiv, field_left, field_right, field_all, bit_left,
      bit_right, Nat.reduceSub, getLsbD_bit, opdOf_opdCode, tyOf_tyCode, scopeOf_scopeCode, cmpOf_cmpCode, mmCode]
    rfl)

theorem fcmp (h : Hdr) (a b : Opd) (pd : BitVec 3) (cmp : Cmp) (comb : BitVec 2) (pc : BitVec 3) : Statement (.fcmp h a b pd cmp comb pc) :=
  of_view rfl rfl rfl rfl (by
    simp (disch := decide) only [parseView, decodeA, decodeA3, BitVec.reduceToNat, Nat.reduceDiv, field_left, field_right, field_all, bit_left,
      bit_right, Nat.reduceSub, getLsbD_bit, opdOf_opdCode, tyOf_tyCode, scopeOf_scopeCode, cmpOf_cmpCode, mmCode]
    rfl)

theorem sel (h : Hdr) (d a b : Opd) (w inv : Bool) (ks : BitVec 3) : Statement (.sel h d a b w inv ks) :=
  of_view rfl rfl rfl rfl (by
    simp (disch := decide) only [parseView, decodeA, decodeA3, BitVec.reduceToNat, Nat.reduceDiv, field_left, field_right, field_all, bit_left,
      bit_right, Nat.reduceSub, getLsbD_bit, opdOf_opdCode, tyOf_tyCode, scopeOf_scopeCode, cmpOf_cmpCode, mmCode]
    rfl)

theorem pset (h : Hdr) (pd pa pb pc : BitVec 3) (fn : BitVec 8) (pt : Bool) : Statement (.pset h pd pa pb pc fn pt) :=
  of_view rfl rfl rfl rfl (by
    simp (disch := decide) only [parseView, decodeA, decodeA3, BitVec.reduceToNat, Nat.reduceDiv, field_left, field_right, field_all, bit_left,
      bit_right, Nat.reduceSub, getLsbD_bit, opdOf_opdCode, tyOf_tyCode, scopeOf_scopeCode, cmpOf_cmpCode, mmCode]
    rfl)

theorem pmov (h : Hdr) (d a : Opd) (dir : Bool) (kp : BitVec 3) : Statement (.pmov h d a dir kp) :=
  of_view rfl rfl rfl rfl (by
    simp (disch := decide) only [parseView, decodeA, decodeA3, BitVec.reduceToNat, Nat.reduceDiv, field_left, field_right, field_all, bit_left,
      bit_right, Nat.reduceSub, getLsbD_bit, opdOf_opdCode, tyOf_tyCode, scopeOf_scopeCode, cmpOf_cmpCode, mmCode]
    rfl)

theorem vote (h : Hdr) (d : Opd) (cond : BitVec 3) (ks : BitVec 3) (inv : Bool) (pd : BitVec 3) : Statement (.vote h d cond ks inv pd) :=
  of_view rfl rfl rfl rfl (by
    simp (disch := decide) only [parseView, decodeA, decodeA3, BitVec.reduceToNat, Nat.reduceDiv, field_left, field_right, field_all, bit_left,
      bit_right, Nat.reduceSub, getLsbD_bit, opdOf_opdCode, tyOf_tyCode, scopeOf_scopeCode, cmpOf_cmpCode, mmCode]
    rfl)

theorem shfl (h : Hdr) (d a b c : Opd) (mode : BitVec 2) (pd : BitVec 3) (w fill : Bool) : Statement (.shfl h d a b c mode pd w fill) :=
  of_view rfl rfl rfl rfl (by
    simp (disch := decide) only [parseView, decodeA, decodeA3, BitVec.reduceToNat, Nat.reduceDiv, field_left, field_right, field_all, bit_left,
      bit_right, Nat.reduceSub, getLsbD_bit, opdOf_opdCode, tyOf_tyCode, scopeOf_scopeCode, cmpOf_cmpCode, mmCode]
    rfl)

theorem redux (h : Hdr) (d a : Opd) (ty : Ty) (rm : Rm) (sat : Bool) (op : BitVec 4) (seg : Bool) (kg : BitVec 3) : Statement (.redux h d a ty rm sat op seg kg) :=
  of_view rfl rfl rfl rfl (by
    simp (disch := decide) only [parseView, decodeA, decodeA3, BitVec.reduceToNat, Nat.reduceDiv, field_left, field_right, field_all, bit_left,
      bit_right, Nat.reduceSub, getLsbD_bit, opdOf_opdCode, tyOf_tyCode, scopeOf_scopeCode, cmpOf_cmpCode, mmCode]
    rfl)

theorem scan (h : Hdr) (d a : Opd) (ty : Ty) (rm : Rm) (sat : Bool) (op : BitVec 4) (excl seg : Bool) (kg : BitVec 3) : Statement (.scan h d a ty rm sat op excl seg kg) :=
  of_view rfl rfl rfl rfl (by
    simp (disch := decide) only [parseView, decodeA, decodeA3, BitVec.reduceToNat, Nat.reduceDiv, field_left, field_right, field_all, bit_left,
      bit_right, Nat.reduceSub, getLsbD_bit, opdOf_opdCode, tyOf_tyCode, scopeOf_scopeCode, cmpOf_cmpCode, mmCode]
    rfl)

theorem matchT (h : Hdr) (d a : Opd) (w : Bool) (pd : BitVec 3) (km : Bool) : Statement (.matchT h d a w pd km) :=
  of_view rfl rfl rfl rfl (by
    simp (disch := decide) only [parseView, decodeA, decodeA3, BitVec.reduceToNat, Nat.reduceDiv, field_left, field_right, field_all, bit_left,
      bit_right, Nat.reduceSub, getLsbD_bit, opdOf_opdCode, tyOf_tyCode, scopeOf_scopeCode, cmpOf_cmpCode, mmCode]
    rfl)

theorem fadd (h : Hdr) (d a b : Opd) (ty : Ty) (rm : Rm) (sat : Bool) : Statement (.fadd h d a b ty rm sat) :=
  of_view rfl rfl rfl rfl rfl

theorem fsub (h : Hdr) (d a b : Opd) (ty : Ty) (rm : Rm) (sat : Bool) : Statement (.fsub h d a b ty rm sat) :=
  of_view rfl rfl rfl rfl rfl

theorem fmul (h : Hdr) (d a b : Opd) (ty : Ty) (rm : Rm) (sat : Bool) : Statement (.fmul h d a b ty rm sat) :=
  of_view rfl rfl rfl rfl rfl

theorem ffma (h : Hdr) (d a b c : Opd) (ty : Ty) (rm : Rm) (sat : Bool) : Statement (.ffma h d a b c ty rm sat) :=
  of_view rfl rfl rfl rfl rfl

theorem fmin (h : Hdr) (d a b : Opd) (ty : Ty) : Statement (.fmin h d a b ty) :=
  of_view rfl rfl rfl rfl rfl

theorem fmax (h : Hdr) (d a b : Opd) (ty : Ty) : Statement (.fmax h d a b ty) :=
  of_view rfl rfl rfl rfl rfl

theorem fclass (h : Hdr) (d a b : Opd) (ty : Ty) (p : Bool) (pd : BitVec 3) : Statement (.fclass h d a b ty p pd) :=
  of_view rfl rfl rfl rfl (by
    simp (disch := decide) only [parseView, decodeA, decodeA4, BitVec.reduceToNat, Nat.reduceDiv, field_left, field_right, field_all, bit_left,
      bit_right, Nat.reduceSub, getLsbD_bit, opdOf_opdCode, tyOf_tyCode, scopeOf_scopeCode, cmpOf_cmpCode, mmCode]
    rfl)

theorem fscale (h : Hdr) (d a b : Opd) (ty : Ty) (rm : Rm) (sat : Bool) : Statement (.fscale h d a b ty rm sat) :=
  of_view rfl rfl rfl rfl rfl

theorem frnd (h : Hdr) (d a : Opd) (ty : Ty) (rm : Rm) : Statement (.frnd h d a ty rm) :=
  of_view rfl rfl rfl rfl rfl

theorem fdot2 (h : Hdr) (d a b c : Opd) (ty : Ty) (rm : Rm) (sat : Bool) : Statement (.fdot2 h d a b c ty rm sat) :=
  of_view rfl rfl rfl rfl rfl

theorem frcp (h : Hdr) (d a : Opd) : Statement (.frcp h d a) :=
  of_view rfl rfl rfl rfl rfl

theorem frsq (h : Hdr) (d a : Opd) : Statement (.frsq h d a) :=
  of_view rfl rfl rfl rfl rfl

theorem fsqrt (h : Hdr) (d a : Opd) (rm : Rm) (sat : Bool) : Statement (.fsqrt h d a rm sat) :=
  of_view rfl rfl rfl rfl rfl

theorem fexp2 (h : Hdr) (d a : Opd) : Statement (.fexp2 h d a) :=
  of_view rfl rfl rfl rfl rfl

theorem flog2 (h : Hdr) (d a : Opd) : Statement (.flog2 h d a) :=
  of_view rfl rfl rfl rfl rfl

theorem fsinp (h : Hdr) (d a : Opd) : Statement (.fsinp h d a) :=
  of_view rfl rfl rfl rfl rfl

theorem fcosp (h : Hdr) (d a : Opd) : Statement (.fcosp h d a) :=
  of_view rfl rfl rfl rfl rfl

theorem cvt (h : Hdr) (d a c : Opd) (ty sty : Ty) (rm : Rm) (sat : Bool) (pos : BitVec 2) : Statement (.cvt h d a c ty sty rm sat pos) :=
  of_view rfl rfl rfl rfl (by
    simp (disch := decide) only [parseView, decodeA, decodeA5, BitVec.reduceToNat, Nat.reduceDiv, field_left, field_right, field_all, bit_left,
      bit_right, Nat.reduceSub, getLsbD_bit, opdOf_opdCode, tyOf_tyCode, scopeOf_scopeCode, cmpOf_cmpCode, mmCode]
    rfl)

theorem cvtef (h : Hdr) (d a b c : Opd) (ty : Ty) (sat : Bool) (pos : BitVec 2) : Statement (.cvtef h d a b c ty sat pos) :=
  of_view rfl rfl rfl rfl (by
    simp (disch := decide) only [parseView, decodeA, decodeA5, BitVec.reduceToNat, Nat.reduceDiv, field_left, field_right, field_all, bit_left,
      bit_right, Nat.reduceSub, getLsbD_bit, opdOf_opdCode, tyOf_tyCode, scopeOf_scopeCode, cmpOf_cmpCode, mmCode]
    rfl)

theorem cvtsr (h : Hdr) (d a b c : Opd) (ty : Ty) (sat : Bool) (pos : BitVec 2) : Statement (.cvtsr h d a b c ty sat pos) :=
  of_view rfl rfl rfl rfl (by
    simp (disch := decide) only [parseView, decodeA, decodeA5, BitVec.reduceToNat, Nat.reduceDiv, field_left, field_right, field_all, bit_left,
      bit_right, Nat.reduceSub, getLsbD_bit, opdOf_opdCode, tyOf_tyCode, scopeOf_scopeCode, cmpOf_cmpCode, mmCode]
    rfl)

theorem blkh (h : Hdr) (d a : Opd) : Statement (.blkh h d a) :=
  of_view rfl rfl rfl rfl rfl

theorem blkhw (h : Hdr) (d a b : Opd) (chk : Bool) : Statement (.blkhw h d a b chk) :=
  of_view rfl rfl rfl rfl (by
    simp (disch := decide) only [parseView, decodeA, decodeA6, BitVec.reduceToNat, Nat.reduceDiv, field_left, field_right, field_all, bit_left,
      bit_right, Nat.reduceSub, getLsbD_bit, opdOf_opdCode, tyOf_tyCode, scopeOf_scopeCode, cmpOf_cmpCode, mmCode]
    rfl)

theorem blkpack (h : Hdr) (d a b : Opd) (ty : Ty) (rm : Rm) (sat esc i4 : Bool) : Statement (.blkpack h d a b ty rm sat esc i4) :=
  of_view rfl rfl rfl rfl (by
    simp (disch := decide) only [parseView, decodeA, decodeA6, BitVec.reduceToNat, Nat.reduceDiv, field_left, field_right, field_all, bit_left,
      bit_right, Nat.reduceSub, getLsbD_bit, opdOf_opdCode, tyOf_tyCode, scopeOf_scopeCode, cmpOf_cmpCode, mmCode]
    rfl)

theorem blkunp (h : Hdr) (d a : Opd) (cnt : BitVec 3) (rm : Rm) (sat : Bool) : Statement (.blkunp h d a cnt rm sat) :=
  of_view rfl rfl rfl rfl (by
    simp (disch := decide) only [parseView, decodeA, decodeA6, BitVec.reduceToNat, Nat.reduceDiv, field_left, field_right, field_all, bit_left,
      bit_right, Nat.reduceSub, getLsbD_bit, opdOf_opdCode, tyOf_tyCode, scopeOf_scopeCode, cmpOf_cmpCode, mmCode]
    rfl)

theorem blkscl (h : Hdr) (d a b : Opd) (fit : Bool) (ty : Ty) (sat i4 : Bool) : Statement (.blkscl h d a b fit ty sat i4) :=
  of_view rfl rfl rfl rfl (by
    simp (disch := decide) only [parseView, decodeA, decodeA6, BitVec.reduceToNat, Nat.reduceDiv, field_left, field_right, field_all, bit_left,
      bit_right, Nat.reduceSub, getLsbD_bit, opdOf_opdCode, tyOf_tyCode, scopeOf_scopeCode, cmpOf_cmpCode, mmCode]
    rfl)

theorem ld (h : Hdr) (d : Opd) (m : Addr) (ty : Ty) (mm : MemMod) : Statement (.ld h d m ty mm) :=
  of_view rfl rfl rfl rfl (by
    simp (disch := decide) only [parseView, decodeM, BitVec.reduceToNat, Nat.reduceDiv, field_left, field_right, field_all, bit_left,
      bit_right, Nat.reduceSub, getLsbD_bit, opdOf_opdCode, tyOf_tyCode, scopeOf_scopeCode, cmpOf_cmpCode, mmCode]
    rfl)

theorem st (h : Hdr) (d : Opd) (m : Addr) (ty : Ty) (mm : MemMod) : Statement (.st h d m ty mm) :=
  of_view rfl rfl rfl rfl (by
    simp (disch := decide) only [parseView, decodeM, BitVec.reduceToNat, Nat.reduceDiv, field_left, field_right, field_all, bit_left,
      bit_right, Nat.reduceSub, getLsbD_bit, opdOf_opdCode, tyOf_tyCode, scopeOf_scopeCode, cmpOf_cmpCode, mmCode]
    rfl)

theorem ldu (h : Hdr) (d : Opd) (m : Addr) (ty : Ty) (mm : MemMod) : Statement (.ldu h d m ty mm) :=
  of_view rfl rfl rfl rfl (by
    simp (disch := decide) only [parseView, decodeM, BitVec.reduceToNat, Nat.reduceDiv, field_left, field_right, field_all, bit_left,
      bit_right, Nat.reduceSub, getLsbD_bit, opdOf_opdCode, tyOf_tyCode, scopeOf_scopeCode, cmpOf_cmpCode, mmCode]
    rfl)

theorem stu (h : Hdr) (d : Opd) (m : Addr) (ty : Ty) (mm : MemMod) : Statement (.stu h d m ty mm) :=
  of_view rfl rfl rfl rfl (by
    simp (disch := decide) only [parseView, decodeM, BitVec.reduceToNat, Nat.reduceDiv, field_left, field_right, field_all, bit_left,
      bit_right, Nat.reduceSub, getLsbD_bit, opdOf_opdCode, tyOf_tyCode, scopeOf_scopeCode, cmpOf_cmpCode, mmCode]
    rfl)

theorem ldb (h : Hdr) (d : Opd) (m : Addr) (ty : Ty) (mm : MemMod) : Statement (.ldb h d m ty mm) :=
  of_view rfl rfl rfl rfl (by
    simp (disch := decide) only [parseView, decodeM, BitVec.reduceToNat, Nat.reduceDiv, field_left, field_right, field_all, bit_left,
      bit_right, Nat.reduceSub, getLsbD_bit, opdOf_opdCode, tyOf_tyCode, scopeOf_scopeCode, cmpOf_cmpCode, mmCode]
    rfl)

theorem stb (h : Hdr) (d : Opd) (m : Addr) (ty : Ty) (mm : MemMod) : Statement (.stb h d m ty mm) :=
  of_view rfl rfl rfl rfl (by
    simp (disch := decide) only [parseView, decodeM, BitVec.reduceToNat, Nat.reduceDiv, field_left, field_right, field_all, bit_left,
      bit_right, Nat.reduceSub, getLsbD_bit, opdOf_opdCode, tyOf_tyCode, scopeOf_scopeCode, cmpOf_cmpCode, mmCode]
    rfl)

theorem pref (h : Hdr) (m : Addr) (st : Bool) : Statement (.pref h m st) :=
  of_view rfl rfl rfl rfl (by
    simp (disch := decide) only [parseView, decodeM, BitVec.reduceToNat, Nat.reduceDiv, field_left, field_right, field_all, bit_left,
      bit_right, Nat.reduceSub, getLsbD_bit, opdOf_opdCode, tyOf_tyCode, scopeOf_scopeCode, cmpOf_cmpCode, mmCode]
    rfl)

theorem cwb (h : Hdr) (m : Addr) : Statement (.cwb h m) :=
  of_view rfl rfl rfl rfl rfl

theorem cinv (h : Hdr) (m : Addr) : Statement (.cinv h m) :=
  of_view rfl rfl rfl rfl rfl

theorem atom (h : Hdr) (d : Opd) (m : Addr) (ty : Ty) (opc : BitVec 4) (am : AtomMod) : Statement (.atom h d m ty opc am) :=
  of_view rfl rfl rfl rfl (by
    simp (disch := decide) only [parseView, decodeM, BitVec.reduceToNat, Nat.reduceDiv, field_left, field_right, field_all, bit_left,
      bit_right, Nat.reduceSub, getLsbD_bit, opdOf_opdCode, tyOf_tyCode, scopeOf_scopeCode, cmpOf_cmpCode, mmCode]
    rfl)

theorem red (h : Hdr) (d : Opd) (m : Addr) (ty : Ty) (opc : BitVec 4) (am : AtomMod) : Statement (.red h d m ty opc am) :=
  of_view rfl rfl rfl rfl (by
    simp (disch := decide) only [parseView, decodeM, BitVec.reduceToNat, Nat.reduceDiv, field_left, field_right, field_all, bit_left,
      bit_right, Nat.reduceSub, getLsbD_bit, opdOf_opdCode, tyOf_tyCode, scopeOf_scopeCode, cmpOf_cmpCode, mmCode]
    rfl)

theorem cas (h : Hdr) (d : Opd) (m : Addr) (ty : Ty) (am : AtomMod) : Statement (.cas h d m ty am) :=
  of_view rfl rfl rfl rfl (by
    simp (disch := decide) only [parseView, decodeM, BitVec.reduceToNat, Nat.reduceDiv, field_left, field_right, field_all, bit_left,
      bit_right, Nat.reduceSub, getLsbD_bit, opdOf_opdCode, tyOf_tyCode, scopeOf_scopeCode, cmpOf_cmpCode, mmCode]
    rfl)

theorem fence (h : Hdr) (ord : BitVec 2) (scope : Scope) : Statement (.fence h ord scope) :=
  of_view rfl rfl rfl rfl (by
    simp (disch := decide) only [parseView, decodeA, decodeA8, BitVec.reduceToNat, Nat.reduceDiv, field_left, field_right, field_all, bit_left,
      bit_right, Nat.reduceSub, getLsbD_bit, opdOf_opdCode, tyOf_tyCode, scopeOf_scopeCode, cmpOf_cmpCode, mmCode]
    rfl)

theorem algld (h : Hdr) (d : Opd) (m : Addr) : Statement (.algld h d m) :=
  of_view rfl rfl rfl rfl rfl

theorem algrd (h : Hdr) (d a : Opd) : Statement (.algrd h d a) :=
  of_view rfl rfl rfl rfl rfl

theorem algclr (h : Hdr) : Statement (.algclr h) :=
  of_view rfl rfl rfl rfl rfl

theorem bari (h : Hdr) (a : Opd) (key : BitVec 4) (dom : Bool) : Statement (.bari h a key dom) :=
  of_view rfl rfl rfl rfl (by
    simp (disch := decide) only [parseView, decodeA, decodeA9, BitVec.reduceToNat, Nat.reduceDiv, field_left, field_right, field_all, bit_left,
      bit_right, Nat.reduceSub, getLsbD_bit, opdOf_opdCode, tyOf_tyCode, scopeOf_scopeCode, cmpOf_cmpCode, mmCode]
    rfl)

theorem bara (h : Hdr) (d : Opd) (key : BitVec 4) : Statement (.bara h d key) :=
  of_view rfl rfl rfl rfl (by
    simp (disch := decide) only [parseView, decodeA, decodeA9, BitVec.reduceToNat, Nat.reduceDiv, field_left, field_right, field_all, bit_left,
      bit_right, Nat.reduceSub, getLsbD_bit, opdOf_opdCode, tyOf_tyCode, scopeOf_scopeCode, cmpOf_cmpCode, mmCode]
    rfl)

theorem barw (h : Hdr) (d : Opd) (key : BitVec 4) : Statement (.barw h d key) :=
  of_view rfl rfl rfl rfl (by
    simp (disch := decide) only [parseView, decodeA, decodeA9, BitVec.reduceToNat, Nat.reduceDiv, field_left, field_right, field_all, bit_left,
      bit_right, Nat.reduceSub, getLsbD_bit, opdOf_opdCode, tyOf_tyCode, scopeOf_scopeCode, cmpOf_cmpCode, mmCode]
    rfl)

theorem bard (h : Hdr) (key : BitVec 4) : Statement (.bard h key) :=
  of_view rfl rfl rfl rfl (by
    simp (disch := decide) only [parseView, decodeA, decodeA9, BitVec.reduceToNat, Nat.reduceDiv, field_left, field_right, field_all, bit_left,
      bit_right, Nat.reduceSub, getLsbD_bit, opdOf_opdCode, tyOf_tyCode, scopeOf_scopeCode, cmpOf_cmpCode, mmCode]
    rfl)

theorem barq (h : Hdr) (d : Opd) (key : BitVec 4) : Statement (.barq h d key) :=
  of_view rfl rfl rfl rfl (by
    simp (disch := decide) only [parseView, decodeA, decodeA9, BitVec.reduceToNat, Nat.reduceDiv, field_left, field_right, field_all, bit_left,
      bit_right, Nat.reduceSub, getLsbD_bit, opdOf_opdCode, tyOf_tyCode, scopeOf_scopeCode, cmpOf_cmpCode, mmCode]
    rfl)

theorem watch (h : Hdr) (d : Opd) (m : Addr) (ty : Ty) (cmp : BitVec 2) (slot : BitVec 2) : Statement (.watch h d m ty cmp slot) :=
  of_view rfl rfl rfl rfl (by
    simp (disch := decide) only [parseView, decodeM, BitVec.reduceToNat, Nat.reduceDiv, field_left, field_right, field_all, bit_left,
      bit_right, Nat.reduceSub, getLsbD_bit, opdOf_opdCode, tyOf_tyCode, scopeOf_scopeCode, cmpOf_cmpCode, mmCode]
    rfl)

theorem doze (h : Hdr) (d a : Opd) (sel : BitVec 4) : Statement (.doze h d a sel) :=
  of_view rfl rfl rfl rfl (by
    simp (disch := decide) only [parseView, decodeA, decodeA9, BitVec.reduceToNat, Nat.reduceDiv, field_left, field_right, field_all, bit_left,
      bit_right, Nat.reduceSub, getLsbD_bit, opdOf_opdCode, tyOf_tyCode, scopeOf_scopeCode, cmpOf_cmpCode, mmCode]
    rfl)

theorem unwatch (h : Hdr) (sel : BitVec 4) : Statement (.unwatch h sel) :=
  of_view rfl rfl rfl rfl (by
    simp (disch := decide) only [parseView, decodeA, decodeA9, BitVec.reduceToNat, Nat.reduceDiv, field_left, field_right, field_all, bit_left,
      bit_right, Nat.reduceSub, getLsbD_bit, opdOf_opdCode, tyOf_tyCode, scopeOf_scopeCode, cmpOf_cmpCode, mmCode]
    rfl)

theorem shrmap (h : Hdr) (d : Opd) (cnt : BitVec 6) (key rid : BitVec 4) : Statement (.shrmap h d cnt key rid) :=
  of_view rfl rfl rfl rfl (by
    simp (disch := decide) only [parseView, decodeA, decodeA9, BitVec.reduceToNat, Nat.reduceDiv, field_left, field_right, field_all, bit_left,
      bit_right, Nat.reduceSub, getLsbD_bit, opdOf_opdCode, tyOf_tyCode, scopeOf_scopeCode, cmpOf_cmpCode, mmCode]
    rfl)

theorem shrunmap (h : Hdr) (d : Opd) : Statement (.shrunmap h d) :=
  of_view rfl rfl rfl rfl rfl

theorem ferd (h : Hdr) (d a : Opd) : Statement (.ferd h d a) :=
  of_view rfl rfl rfl rfl rfl

theorem fewr (h : Hdr) (d a : Opd) : Statement (.fewr h d a) :=
  of_view rfl rfl rfl rfl rfl

theorem qcfg (h : Hdr) (d a : Opd) (qn : BitVec 5) (unb : Bool) : Statement (.qcfg h d a qn unb) :=
  of_view rfl rfl rfl rfl (by
    simp (disch := decide) only [parseView, decodeA, decodeA9, BitVec.reduceToNat, Nat.reduceDiv, field_left, field_right, field_all, bit_left,
      bit_right, Nat.reduceSub, getLsbD_bit, opdOf_opdCode, tyOf_tyCode, scopeOf_scopeCode, cmpOf_cmpCode, mmCode]
    rfl)

theorem qstat (h : Hdr) (d a : Opd) : Statement (.qstat h d a) :=
  of_view rfl rfl rfl rfl rfl

theorem tokw (h : Hdr) : Statement (.tokw h) :=
  of_view rfl rfl rfl rfl rfl

theorem tokp (h : Hdr) : Statement (.tokp h) :=
  of_view rfl rfl rfl rfl rfl

theorem bdecl (h : Hdr) (d : Opd) (m : Addr) (buf : BitVec 6) : Statement (.bdecl h d m buf) :=
  of_view rfl rfl rfl rfl (by
    simp (disch := decide) only [parseView, decodeM, BitVec.reduceToNat, Nat.reduceDiv, field_left, field_right, field_all, bit_left,
      bit_right, Nat.reduceSub, getLsbD_bit, opdOf_opdCode, tyOf_tyCode, scopeOf_scopeCode, cmpOf_cmpCode, mmCode]
    rfl)

theorem bset (h : Hdr) (d a : Opd) (buf : BitVec 6) (tmo : BitVec 2) (try_ : Bool) : Statement (.bset h d a buf tmo try_) :=
  of_view rfl rfl rfl rfl (by
    simp (disch := decide) only [parseView, decodeA, decodeAA, BitVec.reduceToNat, Nat.reduceDiv, field_left, field_right, field_all, bit_left,
      bit_right, Nat.reduceSub, getLsbD_bit, opdOf_opdCode, tyOf_tyCode, scopeOf_scopeCode, cmpOf_cmpCode, mmCode]
    rfl)

theorem brel (h : Hdr) (a : Opd) (buf : BitVec 6) : Statement (.brel h a buf) :=
  of_view rfl rfl rfl rfl (by
    simp (disch := decide) only [parseView, decodeA, decodeAA, BitVec.reduceToNat, Nat.reduceDiv, field_left, field_right, field_all, bit_left,
      bit_right, Nat.reduceSub, getLsbD_bit, opdOf_opdCode, tyOf_tyCode, scopeOf_scopeCode, cmpOf_cmpCode, mmCode]
    rfl)

theorem bqry (h : Hdr) (d a : Opd) (buf : BitVec 6) : Statement (.bqry h d a buf) :=
  of_view rfl rfl rfl rfl (by
    simp (disch := decide) only [parseView, decodeA, decodeAA, BitVec.reduceToNat, Nat.reduceDiv, field_left, field_right, field_all, bit_left,
      bit_right, Nat.reduceSub, getLsbD_bit, opdOf_opdCode, tyOf_tyCode, scopeOf_scopeCode, cmpOf_cmpCode, mmCode]
    rfl)

theorem stat (h : Hdr) (a : Opd) (buf : BitVec 6) : Statement (.stat h a buf) :=
  of_view rfl rfl rfl rfl (by
    simp (disch := decide) only [parseView, decodeA, decodeAA, BitVec.reduceToNat, Nat.reduceDiv, field_left, field_right, field_all, bit_left,
      bit_right, Nat.reduceSub, getLsbD_bit, opdOf_opdCode, tyOf_tyCode, scopeOf_scopeCode, cmpOf_cmpCode, mmCode]
    rfl)

theorem unstat (h : Hdr) (a : Opd) (buf : BitVec 6) : Statement (.unstat h a buf) :=
  of_view rfl rfl rfl rfl (by
    simp (disch := decide) only [parseView, decodeA, decodeAA, BitVec.reduceToNat, Nat.reduceDiv, field_left, field_right, field_all, bit_left,
      bit_right, Nat.reduceSub, getLsbD_bit, opdOf_opdCode, tyOf_tyCode, scopeOf_scopeCode, cmpOf_cmpCode, mmCode]
    rfl)

theorem oclaim (h : Hdr) (d a : Opd) (slot : BitVec 4) (try_ : Bool) : Statement (.oclaim h d a slot try_) :=
  of_view rfl rfl rfl rfl (by
    simp (disch := decide) only [parseView, decodeT, BitVec.reduceToNat, Nat.reduceDiv, field_left, field_right, field_all, bit_left,
      bit_right, Nat.reduceSub, getLsbD_bit, opdOf_opdCode, tyOf_tyCode, scopeOf_scopeCode, cmpOf_cmpCode, mmCode]
    rfl)

theorem orels (h : Hdr) (a : Opd) (slot : BitVec 4) : Statement (.orels h a slot) :=
  of_view rfl rfl rfl rfl (by
    simp (disch := decide) only [parseView, decodeT, BitVec.reduceToNat, Nat.reduceDiv, field_left, field_right, field_all, bit_left,
      bit_right, Nat.reduceSub, getLsbD_bit, opdOf_opdCode, tyOf_tyCode, scopeOf_scopeCode, cmpOf_cmpCode, mmCode]
    rfl)

theorem oput (h : Hdr) (d a b : Opd) (slot : BitVec 4) (sealed : Bool) : Statement (.oput h d a b slot sealed) :=
  of_view rfl rfl rfl rfl (by
    simp (disch := decide) only [parseView, decodeT, BitVec.reduceToNat, Nat.reduceDiv, field_left, field_right, field_all, bit_left,
      bit_right, Nat.reduceSub, getLsbD_bit, opdOf_opdCode, tyOf_tyCode, scopeOf_scopeCode, cmpOf_cmpCode, mmCode]
    rfl)

theorem task (h : Hdr) (d a : Opd) (spec : Bool) : Statement (.task h d a spec) :=
  of_view rfl rfl rfl rfl (by
    simp (disch := decide) only [parseView, decodeT, BitVec.reduceToNat, Nat.reduceDiv, field_left, field_right, field_all, bit_left,
      bit_right, Nat.reduceSub, getLsbD_bit, opdOf_opdCode, tyOf_tyCode, scopeOf_scopeCode, cmpOf_cmpCode, mmCode]
    rfl)

theorem accz (h : Hdr) (a : Opd) (acc : BitVec 5) (kind : BitVec 2) : Statement (.accz h a acc kind) :=
  of_view rfl rfl rfl rfl (by
    simp (disch := decide) only [parseView, decodeT, BitVec.reduceToNat, Nat.reduceDiv, field_left, field_right, field_all, bit_left,
      bit_right, Nat.reduceSub, getLsbD_bit, opdOf_opdCode, tyOf_tyCode, scopeOf_scopeCode, cmpOf_cmpCode, mmCode]
    rfl)

theorem accrd (h : Hdr) (d a b : Opd) (acc : BitVec 5) (ty : Ty) (rm : Rm) (sat sh : Bool) (cnt : BitVec 4) : Statement (.accrd h d a b acc ty rm sat sh cnt) :=
  of_view rfl rfl rfl rfl (by
    simp (disch := decide) only [parseView, decodeT, BitVec.reduceToNat, Nat.reduceDiv, field_left, field_right, field_all, bit_left,
      bit_right, Nat.reduceSub, getLsbD_bit, opdOf_opdCode, tyOf_tyCode, scopeOf_scopeCode, cmpOf_cmpCode, mmCode]
    rfl)

theorem accwr (h : Hdr) (d a b : Opd) (acc : BitVec 5) (ty : Ty) (cnt : BitVec 4) : Statement (.accwr h d a b acc ty cnt) :=
  of_view rfl rfl rfl rfl (by
    simp (disch := decide) only [parseView, decodeT, BitVec.reduceToNat, Nat.reduceDiv, field_left, field_right, field_all, bit_left,
      bit_right, Nat.reduceSub, getLsbD_bit, opdOf_opdCode, tyOf_tyCode, scopeOf_scopeCode, cmpOf_cmpCode, mmCode]
    rfl)

theorem acccmt (h : Hdr) (a : Opd) (acc : BitVec 5) : Statement (.acccmt h a acc) :=
  of_view rfl rfl rfl rfl (by
    simp (disch := decide) only [parseView, decodeT, BitVec.reduceToNat, Nat.reduceDiv, field_left, field_right, field_all, bit_left,
      bit_right, Nat.reduceSub, getLsbD_bit, opdOf_opdCode, tyOf_tyCode, scopeOf_scopeCode, cmpOf_cmpCode, mmCode]
    rfl)

theorem accdsc (h : Hdr) (a : Opd) (acc : BitVec 5) : Statement (.accdsc h a acc) :=
  of_view rfl rfl rfl rfl (by
    simp (disch := decide) only [parseView, decodeT, BitVec.reduceToNat, Nat.reduceDiv, field_left, field_right, field_all, bit_left,
      bit_right, Nat.reduceSub, getLsbD_bit, opdOf_opdCode, tyOf_tyCode, scopeOf_scopeCode, cmpOf_cmpCode, mmCode]
    rfl)

theorem twait (h : Hdr) (a : Opd) (acc : BitVec 5) (all : Bool) : Statement (.twait h a acc all) :=
  of_view rfl rfl rfl rfl (by
    simp (disch := decide) only [parseView, decodeT, BitVec.reduceToNat, Nat.reduceDiv, field_left, field_right, field_all, bit_left,
      bit_right, Nat.reduceSub, getLsbD_bit, opdOf_opdCode, tyOf_tyCode, scopeOf_scopeCode, cmpOf_cmpCode, mmCode]
    rfl)

theorem slay (h : Hdr) (d a : Opd) (eng : Bool) (lay : BitVec 3) : Statement (.slay h d a eng lay) :=
  of_view rfl rfl rfl rfl (by
    simp (disch := decide) only [parseView, decodeT, BitVec.reduceToNat, Nat.reduceDiv, field_left, field_right, field_all, bit_left,
      bit_right, Nat.reduceSub, getLsbD_bit, opdOf_opdCode, tyOf_tyCode, scopeOf_scopeCode, cmpOf_cmpCode, mmCode]
    rfl)

theorem sfill (h : Hdr) (a b : Opd) (eng : Bool) (ring : BitVec 2) (lay : BitVec 3) (slots : Bool) (first : BitVec 6) (cnt : BitVec 3) : Statement (.sfill h a b eng ring lay slots first cnt) :=
  of_view rfl rfl rfl rfl (by
    simp (disch := decide) only [parseView, decodeT, BitVec.reduceToNat, Nat.reduceDiv, field_left, field_right, field_all, bit_left,
      bit_right, Nat.reduceSub, getLsbD_bit, opdOf_opdCode, tyOf_tyCode, scopeOf_scopeCode, cmpOf_cmpCode, mmCode]
    rfl)

theorem sdrain (h : Hdr) (a b : Opd) (eng : Bool) (ring : BitVec 2) (lay : BitVec 3) (first : BitVec 6) (cnt : BitVec 3) : Statement (.sdrain h a b eng ring lay first cnt) :=
  of_view rfl rfl rfl rfl (by
    simp (disch := decide) only [parseView, decodeT, BitVec.reduceToNat, Nat.reduceDiv, field_left, field_right, field_all, bit_left,
      bit_right, Nat.reduceSub, getLsbD_bit, opdOf_opdCode, tyOf_tyCode, scopeOf_scopeCode, cmpOf_cmpCode, mmCode]
    rfl)

theorem ssig (h : Hdr) (a : Opd) (eng : Bool) (ring : BitVec 2) (full : Bool) : Statement (.ssig h a eng ring full) :=
  of_view rfl rfl rfl rfl (by
    simp (disch := decide) only [parseView, decodeT, BitVec.reduceToNat, Nat.reduceDiv, field_left, field_right, field_all, bit_left,
      bit_right, Nat.reduceSub, getLsbD_bit, opdOf_opdCode, tyOf_tyCode, scopeOf_scopeCode, cmpOf_cmpCode, mmCode]
    rfl)

theorem qfence (h : Hdr) (tq se : Bool) (cq : BitVec 4) : Statement (.qfence h tq se cq) :=
  of_view rfl rfl rfl rfl (by
    simp (disch := decide) only [parseView, decodeT, BitVec.reduceToNat, Nat.reduceDiv, field_left, field_right, field_all, bit_left,
      bit_right, Nat.reduceSub, getLsbD_bit, opdOf_opdCode, tyOf_tyCode, scopeOf_scopeCode, cmpOf_cmpCode, mmCode]
    rfl)

theorem coll (h : Hdr) (d : Opd) (cq : BitVec 2) : Statement (.coll h d cq) :=
  of_view rfl rfl rfl rfl (by
    simp (disch := decide) only [parseView, decodeT, BitVec.reduceToNat, Nat.reduceDiv, field_left, field_right, field_all, bit_left,
      bit_right, Nat.reduceSub, getLsbD_bit, opdOf_opdCode, tyOf_tyCode, scopeOf_scopeCode, cmpOf_cmpCode, mmCode]
    rfl)

theorem cseq (h : Hdr) (d a b : Opd) (region : BitVec 8) (rd dty : Bool) : Statement (.cseq h d a b region rd dty) :=
  of_view rfl rfl rfl rfl (by
    simp (disch := decide) only [parseView, decodeT, BitVec.reduceToNat, Nat.reduceDiv, field_left, field_right, field_all, bit_left,
      bit_right, Nat.reduceSub, getLsbD_bit, opdOf_opdCode, tyOf_tyCode, scopeOf_scopeCode, cmpOf_cmpCode, mmCode]
    rfl)

theorem ewait (h : Hdr) (d a b : Opd) (kind : BitVec 2) (res : BitVec 8) : Statement (.ewait h d a b kind res) :=
  of_view rfl rfl rfl rfl (by
    simp (disch := decide) only [parseView, decodeT, BitVec.reduceToNat, Nat.reduceDiv, field_left, field_right, field_all, bit_left,
      bit_right, Nat.reduceSub, getLsbD_bit, opdOf_opdCode, tyOf_tyCode, scopeOf_scopeCode, cmpOf_cmpCode, mmCode]
    rfl)

theorem rand (h : Hdr) (d a b : Opd) : Statement (.rand h d a b) :=
  of_view rfl rfl rfl rfl rfl

theorem rres (h : Hdr) (d a b c : Opd) (rel : Bool) : Statement (.rres h d a b c rel) :=
  of_view rfl rfl rfl rfl (by
    simp (disch := decide) only [parseView, decodeA, decodeAD, BitVec.reduceToNat, Nat.reduceDiv, field_left, field_right, field_all, bit_left,
      bit_right, Nat.reduceSub, getLsbD_bit, opdOf_opdCode, tyOf_tyCode, scopeOf_scopeCode, cmpOf_cmpCode, mmCode]
    rfl)

theorem csrr (h : Hdr) (d : Opd) (csr : BitVec 12) : Statement (.csrr h d csr) :=
  of_view rfl rfl rfl rfl (by
    simp (disch := decide) only [parseView, decodeI, BitVec.reduceToNat, Nat.reduceDiv, field_left, field_right, field_all, bit_left,
      bit_right, Nat.reduceSub, getLsbD_bit, opdOf_opdCode, tyOf_tyCode, scopeOf_scopeCode, cmpOf_cmpCode, mmCode]
    rfl)

theorem csrw (h : Hdr) (a : Opd) (csr : BitVec 12) : Statement (.csrw h a csr) :=
  of_view rfl rfl rfl rfl (by
    simp (disch := decide) only [parseView, decodeI, BitVec.reduceToNat, Nat.reduceDiv, field_left, field_right, field_all, bit_left,
      bit_right, Nat.reduceSub, getLsbD_bit, opdOf_opdCode, tyOf_tyCode, scopeOf_scopeCode, cmpOf_cmpCode, mmCode]
    rfl)

theorem clock (h : Hdr) (d : Opd) (lane : Bool) : Statement (.clock h d lane) :=
  of_view rfl rfl rfl rfl (by
    simp (disch := decide) only [parseView, decodeA, decodeAD, BitVec.reduceToNat, Nat.reduceDiv, field_left, field_right, field_all, bit_left,
      bit_right, Nat.reduceSub, getLsbD_bit, opdOf_opdCode, tyOf_tyCode, scopeOf_scopeCode, cmpOf_cmpCode, mmCode]
    rfl)

theorem tret (h : Hdr) : Statement (.tret h) :=
  of_view rfl rfl rfl rfl rfl

theorem stoprd (h : Hdr) (d a b : Opd) : Statement (.stoprd h d a b) :=
  of_view rfl rfl rfl rfl rfl

theorem regev (h : Hdr) (a b : Opd) : Statement (.regev h a b) :=
  of_view rfl rfl rfl rfl rfl

theorem haltl (h : Hdr) (clr : Bool) : Statement (.haltl h clr) :=
  of_view rfl rfl rfl rfl (by
    simp (disch := decide) only [parseView, decodeA, decodeAE, BitVec.reduceToNat, Nat.reduceDiv, field_left, field_right, field_all, bit_left,
      bit_right, Nat.reduceSub, getLsbD_bit, opdOf_opdCode, tyOf_tyCode, scopeOf_scopeCode, cmpOf_cmpCode, mmCode]
    rfl)

theorem errlog (h : Hdr) (d a : Opd) (pop : Bool) : Statement (.errlog h d a pop) :=
  of_view rfl rfl rfl rfl (by
    simp (disch := decide) only [parseView, decodeA, decodeAE, BitVec.reduceToNat, Nat.reduceDiv, field_left, field_right, field_all, bit_left,
      bit_right, Nat.reduceSub, getLsbD_bit, opdOf_opdCode, tyOf_tyCode, scopeOf_scopeCode, cmpOf_cmpCode, mmCode]
    rfl)

theorem stest (h : Hdr) (d a : Opd) : Statement (.stest h d a) :=
  of_view rfl rfl rfl rfl rfl

theorem tlbinv (h : Hdr) (a : Opd) (part va : Bool) : Statement (.tlbinv h a part va) :=
  of_view rfl rfl rfl rfl (by
    simp (disch := decide) only [parseView, decodeA, decodeAE, BitVec.reduceToNat, Nat.reduceDiv, field_left, field_right, field_all, bit_left,
      bit_right, Nat.reduceSub, getLsbD_bit, opdOf_opdCode, tyOf_tyCode, scopeOf_scopeCode, cmpOf_cmpCode, mmCode]
    rfl)

theorem lineFetch (k : Nat) : Statement (.lineFetch k) := of_none rfl

theorem registerLineFill (k line : Nat) : Statement (.registerLineFill k line) := of_none rfl

theorem returnStackFill (k : Nat) : Statement (.returnStackFill k) := of_none rfl

theorem resultLands (n : Nat) : Statement (.resultLands n) := of_none rfl

theorem residualDrain (k : Nat) : Statement (.residualDrain k) := of_none rfl

theorem fixedLatencyCompletion (k : Nat) : Statement (.fixedLatencyCompletion k) := of_none rfl

theorem napExpiry (k t : Nat) : Statement (.napExpiry k t) := of_none rfl

theorem dozeTimeout (k : Nat) : Statement (.dozeTimeout k) := of_none rfl

theorem homeAccept (n : Nat) : Statement (.homeAccept n) := of_none rfl

theorem pendingRewrite (hm : Home) (pos : Nat) (rw : Rewrite) : Statement (.pendingRewrite hm pos rw) := of_none rfl

theorem homeApply (hm : Home) : Statement (.homeApply hm) := of_none rfl

theorem invalidationArrival (n : Nat) : Statement (.invalidationArrival n) := of_none rfl

theorem invalidationAcknowledgement (n : Nat) : Statement (.invalidationAcknowledgement n) := of_none rfl

theorem tileCacheFill (n : Nat) : Statement (.tileCacheFill n) := of_none rfl

theorem impreciseFaultReport (n : Nat) : Statement (.impreciseFaultReport n) := of_none rfl

theorem hostWritebackAck (n : Nat) : Statement (.hostWritebackAck n) := of_none rfl

theorem hostMemAccess (pkg : Nat) (acc : HostAcc) : Statement (.hostMemAccess pkg acc) := of_none rfl

theorem backInvalidation (pkg line : Nat) : Statement (.backInvalidation pkg line) := of_none rfl

theorem hostLineRefetch (pkg line : Nat) : Statement (.hostLineRefetch pkg line) := of_none rfl

theorem pageWalk (n : Nat) : Statement (.pageWalk n) := of_none rfl

theorem watchArm (hm : Home) : Statement (.watchArm hm) := of_none rfl

theorem armAck (n : Nat) : Statement (.armAck n) := of_none rfl

theorem wakeMessage (n : Nat) : Statement (.wakeMessage n) := of_none rfl

theorem evictionMessage (n : Nat) : Statement (.evictionMessage n) := of_none rfl

theorem disarmAck (n : Nat) : Statement (.disarmAck n) := of_none rfl

theorem tailPoll (p : PartId) (q : Nat) : Statement (.tailPoll p q) := of_none rfl

theorem snare (c : CtxId) : Statement (.snare c) := of_none rfl

theorem barrierMessage (b : BarId) (ns : List Nat) : Statement (.barrierMessage b ns) := of_none rfl

theorem barrierRelease (n : Nat) : Statement (.barrierRelease n) := of_none rfl

theorem barrierAnswer (n : Nat) : Statement (.barrierAnswer n) := of_none rfl

theorem overArrivalRefusal (n : Nat) : Statement (.overArrivalRefusal n) := of_none rfl

theorem domainCounterMessage (ctr : Nat) (ns : List Nat) : Statement (.domainCounterMessage ctr ns) := of_none rfl

theorem domainPhaseMulticast (n : Nat) : Statement (.domainPhaseMulticast n) := of_none rfl

theorem bufferStateChange (n : Nat) : Statement (.bufferStateChange n) := of_none rfl

theorem oputApply (n : Nat) : Statement (.oputApply n) := of_none rfl

theorem taskQueueAccept (n : Nat) : Statement (.taskQueueAccept n) := of_none rfl

theorem taskStart (tc : TileCtx) (acc : Nat) : Statement (.taskStart tc acc) := of_none rfl

theorem segmentComplete (tc : TileCtx) (acc : Nat) : Statement (.segmentComplete tc acc) := of_none rfl

theorem taskRetire (tc : TileCtx) (acc : Nat) : Statement (.taskRetire tc acc) := of_none rfl

theorem accumulatorItemApply (tc : TileCtx) (acc : Nat) : Statement (.accumulatorItemApply tc acc) := of_none rfl

theorem slayInstall (tc : TileCtx) (eng : Nat) : Statement (.slayInstall tc eng) := of_none rfl

theorem ringBindCheck (tc : TileCtx) (eng : Nat) : Statement (.ringBindCheck tc eng) := of_none rfl

theorem ringTransferStart (tc : TileCtx) (eng ring : Nat) : Statement (.ringTransferStart tc eng ring) := of_none rfl

theorem ringTransferDone (tc : TileCtx) (eng ring : Nat) : Statement (.ringTransferDone tc eng ring) := of_none rfl

theorem ssigApply (n : Nat) : Statement (.ssigApply n) := of_none rfl

theorem collCommandStart (p : PartId) (q : Nat) : Statement (.collCommandStart p q) := of_none rfl

theorem collArrival (n : Nat) : Statement (.collArrival n) := of_none rfl

theorem collApply (p : PartId) (region : Nat) : Statement (.collApply p region) := of_none rfl

theorem collAck (n : Nat) : Statement (.collAck n) := of_none rfl

theorem collRefusalTimeout (n : Nat) : Statement (.collRefusalTimeout n) := of_none rfl

theorem launchRecordTake (p : PartId) (q : Nat) : Statement (.launchRecordTake p q) := of_none rfl

theorem sliceSelect (p : PartId) : Statement (.sliceSelect p) := of_none rfl

theorem strandCreate (l : Nat) : Statement (.strandCreate l) := of_none rfl

theorem modeSetApply (p : PartId) (q : Nat) : Statement (.modeSetApply p q) := of_none rfl

theorem budgetExpiry (l : Nat) : Statement (.budgetExpiry l) := of_none rfl

theorem budgetGraceExpiry (l : Nat) : Statement (.budgetGraceExpiry l) := of_none rfl

theorem sliceRetire (l : Nat) : Statement (.sliceRetire l) := of_none rfl

theorem queueEnable (p : PartId) (q : Nat) (desc : DescWrite) : Statement (.queueEnable p q desc) := of_none rfl

theorem queueDisable (p : PartId) (q : Nat) : Statement (.queueDisable p q) := of_none rfl

theorem registerWrite (r : MgmtReg) (val : BitVec 64) : Statement (.registerWrite r val) := of_none rfl

theorem pcapWrite (pkg : Nat) (val : BitVec 64) : Statement (.pcapWrite pkg val) := of_none rfl

theorem save (c : CtxId) : Statement (.save c) := of_none rfl

theorem resume (c : CtxId) : Statement (.resume c) := of_none rfl

theorem move (c : CtxId) (dest : Nat) : Statement (.move c dest) := of_none rfl

theorem halt (c : CtxId) : Statement (.halt c) := of_none rfl

theorem release (c : CtxId) : Statement (.release c) := of_none rfl

theorem replay (c : CtxId) : Statement (.replay c) := of_none rfl

theorem inval (c : CtxId) : Statement (.inval c) := of_none rfl

theorem knellCountExpiry (c : CtxId) : Statement (.knellCountExpiry c) := of_none rfl

theorem saveCompletion (c : CtxId) : Statement (.saveCompletion c) := of_none rfl

theorem moveArrival (n : Nat) : Statement (.moveArrival n) := of_none rfl

theorem unitStop (p : PartId) (unit : UnitId) : Statement (.unitStop p unit) := of_none rfl

theorem originatorHandlerEntry (k : Nat) : Statement (.originatorHandlerEntry k) := of_none rfl

theorem createPartition (p : PartId) : Statement (.createPartition p) := of_none rfl

theorem assignGranules (p : PartId) (gs : List Nat) : Statement (.assignGranules p gs) := of_none rfl

theorem createContext (c : CtxId) : Statement (.createContext c) := of_none rfl

theorem setTranslationRoot (c : CtxId) (root : Nat) : Statement (.setTranslationRoot c root) := of_none rfl

theorem destroyPartition (p : PartId) : Statement (.destroyPartition p) := of_none rfl

theorem retransmit (pkg port vc : Nat) : Statement (.retransmit pkg port vc) := of_none rfl

theorem ackReceive (pkg port : Nat) (hdr : BitVec 64) : Statement (.ackReceive pkg port hdr) := of_none rfl

theorem powerRemoval (pkg : Nat) : Statement (.powerRemoval pkg) := of_none rfl

theorem selfTestDone (n : Nat) (passes : Bool) : Statement (.selfTestDone n passes) := of_none rfl

theorem attestationRequest (pkg : Nat) (p : Option PartId) (nonce : BitVec 256) : Statement (.attestationRequest pkg p nonce) := of_none rfl

theorem firmwareUpdateStage (pkg : Nat) (img : FwImage) : Statement (.firmwareUpdateStage pkg img) := of_none rfl

theorem flitReceive (pkg port : Nat) (hdr : BitVec 64) (payload : List (BitVec 8)) (crc : BitVec 64) (room : Bool) : Statement (.flitReceive pkg port hdr payload crc room) := of_none rfl

theorem nackReceive (pkg port : Nat) (hdr : BitVec 64) (crc : Bool) : Statement (.nackReceive pkg port hdr crc) := of_none rfl

theorem linkControl (pkg port : Nat) (hdr : BitVec 64) : Statement (.linkControl pkg port hdr) := of_none rfl

theorem powerCapStep (pkg : Nat) : Statement (.powerCapStep pkg) := of_none rfl

theorem thermalThrottle (pkg : Nat) : Statement (.thermalThrottle pkg) := of_none rfl

theorem thermalShutdown (pkg : Nat) : Statement (.thermalShutdown pkg) := of_none rfl

theorem enrolDomainGroup (p : PartId) (g : Nat) : Statement (.enrolDomainGroup p g) := of_none rfl

theorem coldReset (pkg : Nat) : Statement (.coldReset pkg) := of_none rfl

theorem contextEnd (c : CtxId) : Statement (.contextEnd c) := of_none rfl

theorem partitionShareThrottle (p : PartId) : Statement (.partitionShareThrottle p) := of_none rfl

end Sys2Proof.Laws.RoundTrip
end

