-- ==== Sys2Proof/Certificates/Slice0/Obligations.lean ====
section
/-! DEFINITION. The statements about this model, for the provers: encoding, steps, reset, the results of every instruction, frames,
faults and traps, memory, and every event. -/

namespace Sys2Proof.Claims

open Sys2Proof.Machine Sys2Proof.Safety

/-! ## Words that statements use -/

/-- A 32-bit operand read under TY: signed under .i32, natural under .n32 (05 R111). -/
def num (ty : Ty) (a : Word) : Int := if ty = .i32 then a.toInt else (a.toNat : Int)

/-- SAT ? clamp(v, range of TY) : bits(32)(v) (05 R111). -/
def fit (ty : Ty) (sat : Bool) (v : Int) : Word :=
  BitVec.ofInt 32 (if !sat then v else if ty = .i32 then max (-2147483648) (min 2147483647 v) else max 0 (min 4294967295 v))

/-- A 32-bit result. -/
def one (v : Word) : Wv := { d := v.zeroExtend 64 }

def word (ty : Ty) : Prop := ty = .i32 ∨ ty = .n32

/-- Byte element i under the signedness given (03 R63). -/
def elem (signed : Bool) (a : Word) (i : Nat) : Int :=
  let e : Byte := (a >>> (8 * i)).truncate 8
  if signed then e.toInt else (e.toNat : Int)

/-- The value of IREQ's A: a pair or a word, natural or signed (05 R116). -/
def wideNum (wide natural : Bool) (v : Dword) : Int :=
  match wide, natural with
  | true, true => v.toNat
  | true, false => v.toInt
  | false, true => (v.truncate 32 : Word).toNat
  | false, false => (v.truncate 32 : Word).toInt

/-- A sum over the four byte elements. -/
def sum4 (f : Nat → Int) : Int := f 0 + f 1 + f 2 + f 3

end Sys2Proof.Claims

open Sys2Proof Sys2Proof.Machine Sys2Proof.Safety Sys2Proof.Claims

/-! ## Results of the register instructions -/

/-- 05 R111: "The instructions in the following table read their operands under TY, compute an exact integer v, and write
D := SAT ? clamp(v, range of TY) : bits(32)(v). Under .i32 the operands are signed, and under .n32 they are natural." Each has the opcode that the table gives it. -/
def Sys2Proof.Claims.integerTable : Prop :=
  ∀ (h : Hdr) (d a b c : Opd) (ty : Ty) (sat : Bool), word ty →
    Each (.iadd h d a b ty sat) (fun _ r => one (fit ty sat (num ty r.aw + num ty r.bw))) ∧
    Each (.isub h d a b ty sat) (fun _ r => one (fit ty sat (num ty r.aw - num ty r.bw))) ∧
    Each (.imul h d a b ty sat) (fun _ r => one (fit ty sat (num ty r.aw * num ty r.bw))) ∧
    Each (.imad h d a b c ty sat) (fun _ r => one (fit ty sat (num ty r.aw * num ty r.bw + num ty r.cw))) ∧
    Each (.imin h d a b ty) (fun _ r => one (fit ty false (min (num ty r.aw) (num ty r.bw)))) ∧
    Each (.imax h d a b ty) (fun _ r => one (fit ty false (max (num ty r.aw) (num ty r.bw)))) ∧
    Each (.iabs h d a sat) (fun _ r => one (fit .i32 sat (num .i32 r.aw).natAbs)) ∧
    Each (.ineg h d a sat) (fun _ r => one (fit .i32 sat (-num .i32 r.aw))) ∧
    (∀ w : Slot,
      (decode w = .ok (.iadd h d a b ty sat) → Decode.opcode w = 0x040) ∧ (decode w = .ok (.isub h d a b ty sat) → Decode.opcode w = 0x041) ∧
      (decode w = .ok (.imul h d a b ty sat) → Decode.opcode w = 0x044) ∧ (decode w = .ok (.imad h d a b c ty sat) → Decode.opcode w = 0x046) ∧
      (decode w = .ok (.imin h d a b ty) → Decode.opcode w = 0x048) ∧ (decode w = .ok (.imax h d a b ty) → Decode.opcode w = 0x049) ∧
      (decode w = .ok (.iabs h d a sat) → Decode.opcode w = 0x04A) ∧ (decode w = .ok (.ineg h d a sat) → Decode.opcode w = 0x04B))

/-- 05 R112 to R116: wide products, carries and borrows, 64-bit addition, sums of absolute differences and of products, and
requantisation, where `roundShift m x n` is x / 2^n rounded to an integer (03 R72). For IREQ with a count of 64 or more, where R116's formula and
the sentence after it differ, the formula is taken: log entry 15, the model's choice. -/
def Sys2Proof.Claims.integerWide : Prop :=
  ∀ (h : Hdr) (d a b c : Opd) (ty : Ty) (rm : Rm) (sat mix ci bx wide an : Bool) (cip cop : BitVec 3),
    (word ty →
      Each (.imulh h d a b ty) (fun _ r => one (BitVec.ofInt 32 (num ty r.aw * num ty r.bw / 2 ^ 32))) ∧
      Each (.imadw h d a b c ty) (fun _ r => { d := BitVec.ofInt 64 (num ty r.aw * num ty r.bw + r.c.toNat) }) ∧
      Each (.isad h d a b c ty) (fun _ r =>
        one (BitVec.ofInt 32 (r.cw.toNat + (num ty r.aw - num ty r.bw).natAbs)))) ∧
    Each (.iaddc h d a b ci cip cop) (fun _ r =>
      let v := r.aw.toNat + r.bw.toNat + (ci && r.p 0).toNat
      { d := (BitVec.ofNat 32 v).zeroExtend 64, ps := [decide (2 ^ 32 ≤ v)] }) ∧
    Each (.isubb h d a b ci cip cop) (fun _ r =>
      let v : Int := (r.aw.toNat : Int) - r.bw.toNat - (ci && r.p 0).toNat
      { d := (BitVec.ofInt 32 v).zeroExtend 64, ps := [decide (v < 0)] }) ∧
    Each (.iadd64 h d a b bx) (fun _ r => { d := r.a + if bx then r.bw.signExtend 64 else r.b }) ∧
    (∀ signed : Bool,
      Each (.isad h d a b c (if signed then .i8 else .n8)) (fun _ r =>
        one (BitVec.ofInt 32 (r.cw.toNat + sum4 (fun i => (elem signed r.aw i - elem signed r.bw i).natAbs)))) ∧
      Each (.idot4 h d a b c (if signed then .i8 else .n8) mix sat) (fun _ r =>
        let cty : Ty := if signed || mix then .i32 else .n32
        one (fit cty sat (num cty r.cw + sum4 (fun i => elem signed r.aw i * elem (signed != mix) r.bw i))))) ∧
    Each (.ireq h d a b ty rm sat wide an) (fun y r =>
      let x := wideNum wide an r.a
      let q := roundShift (y.st.rounding rm) x r.bw.toNat
      let v (lo hi : Int) : Int := if sat then max lo (min hi q) else q
      match ty with
      | .i8 => one ((BitVec.ofInt 8 (v (-128) 127)).signExtend 32)
      | .i16 => one ((BitVec.ofInt 16 (v (-32768) 32767)).signExtend 32)
      | .n8 => one ((BitVec.ofInt 8 (v 0 255)).zeroExtend 32)
      | .n16 => one ((BitVec.ofInt 16 (v 0 65535)).zeroExtend 32)
      | .n32 => one (fit .n32 sat q)
      | .i32 => one (fit .i32 sat q)
      | _ => one (ireqVal ty (y.st.rounding rm) sat x r.bw))

/-- 05 R111 to R116 and 03 R72: integer arithmetic in words (`integerTable`), wide and on elements, with requantisation (`integerWide`). -/
def Obligations.IntegerArithmetic : Prop := Claims.integerTable ∧ Claims.integerWide

/-- 05 R117 to R119 (and 04 R93 for LEA's address): addresses and moves. MOVX and MOVXW address the register whose number is the
base's plus the index, or twice the index; where it lies below the declared count for every thread and its lines are held they
complete, the lines that they name used, and modified where they write (01 R30), and otherwise the first thread whose register does not exist raises the register-index fault (17 R346: code 3). -/
def Obligations.Moves : Prop :=
  (∀ (h : Hdr) (d a : Opd) (m : Addr) (w : Bool) (imm : Word),
    Each (.lea h d m) (fun _ r => { d := r.b + (r.cw.signExtend 64 <<< m.sc.toNat) + m.off.signExtend 64 }) ∧
    Each (.mov h d a w) (fun _ r => { d := r.a }) ∧
    Each (.movi h d imm 0) (fun _ _ => one imm) ∧
    Each (.movi h d imm 1) (fun _ _ => { d := imm.signExtend 64 }) ∧
    Each (.movi h d imm 2) (fun _ _ => { d := imm.zeroExtend 64 })) ∧
  (∀ (h : Hdr) (d a b : Opd) (wide wr : Bool) (s s1 : State) (y : Iss),
    let i : Instr := if wide then .movxw h d a b wr else .movx h d a b wr
    let base := if wr then d else a
    let rows := y.poppers.map (fun t => readThread s1 y t)
    let first (r : Rd) : Nat := Opd.num base + (if wide then 2 * r.bw.toNat else r.bw.toNat)
    let inside (r : Rd) : Prop := first r + (if wide then 1 else 0) < (if Opd.isVec base then y.st.vregs else y.st.uregs)
    let key (r : Rd) (j : Nat) : Nat := if Opd.isVec base then vecKey (first r + j) r.t else uniKey (first r + j)
    Performs i s y s1 →
      ((∀ r ∈ rows, inside r) → linesHeld s1 y.k y.st (movxLines wide base rows) = true →
        let named := movxLines wide base rows
        let s2 := s1.modLane y.st.laneId (useLines y.k named (if wr then named else []) y.last)
        let puts (r : Rd) (j : Nat) (v : Word) : RegWr := { vis := y.wcyc r.t + 6, key := key r j, val := v, made := y.wcyc r.t }
        Completes i s y (if wr then
            putOrLand y (rows.flatMap (fun r => puts r 0 r.aw :: (if wide then [puts r 1 (r.a.extractLsb' 32 32)] else []))) s2
          else
            writeRows y (rows.map (fun r => (r.t,
              ({ d := (if wide then s2.reg y.st (key r 1) (y.cyc r.t) else 0#32) ++ s2.reg y.st (key r 0) (y.cyc r.t) } : Wv)))) s2)) ∧
      (∀ r pre post, rows = pre ++ r :: post → (∀ q ∈ pre, inside q) → ¬ inside r →
        exec i s = .next (commit s.mem (s.preciseFault y.k { cause := 3, lowt := r.t } y.pc y.exm y.act))))

namespace Sys2Proof.Claims

open Sys2Proof.Machine

/-- LOP3 as the union of the minterms of FN, A weighing least (05 R121). -/
def union3 (fn : BitVec 8) (a b c : Word) : Word :=
  (List.range 8).foldl (fun acc m =>
    if fn.getLsbD m then
      acc ||| ((if m % 2 = 1 then a else ~~~a) &&& (if m / 2 % 2 = 1 then b else ~~~b) &&& (if m / 4 = 1 then c else ~~~c))
    else acc) 0#32

/-- A count, modulo 32 under WRAP (05 R122). -/
def count (wrap : Bool) (n : Word) : Nat := if wrap then n.toNat % 32 else n.toNat

/-- pos and len of a control word (05 R123). -/
def fpos (c : Word) : Nat := c.toNat % 256
def flen (c : Word) : Nat := min (c.toNat / 256 % 256) 32

/-- BFE: the field of the word extended beyond bit 31, extended to 32 bits (05 R123). -/
def extract (signed : Bool) (a ctl : Word) : Word :=
  let f := ((if signed then a.signExtend 320 else a.zeroExtend 320) >>> fpos ctl).setWidth (flen ctl)
  if signed then f.signExtend 32 else f.zeroExtend 32

/-- BFI: the bits of A under the field's mask (05 R123). -/
def insert (a b ctl : Word) : Word :=
  let m : Word := ((1#64 <<< flen ctl) - 1).truncate 32 <<< fpos ctl
  (b &&& ~~~m) ||| ((a <<< fpos ctl) &&& m)

/-- Bits of a value of `w` bits (05 R124). -/
def bits (w : Nat) (v : Dword) : List Bool := (List.range w).map (fun i => v.getLsbD i)

/-- Byte `i` of PRMT: a pool byte and what the action makes of it (05 R125). -/
def permuted (a b c : Word) (i : Nat) : Byte :=
  let x : Byte := ((b ++ a) >>> (8 * (c.toNat / 2 ^ (3 * i) % 8))).truncate 8
  let act := c.toNat / 2 ^ (2 * i + 12) % 4
  if act = 0 then x else if act = 1 then 0#8 else if act = 2 then (if x.msb then 0xFF#8 else 0#8) else 0xFF#8

/-- The value of an operand of ICMP (05 R126). -/
def cmpNum (ty : Ty) (v : Dword) : Int :=
  match ty with
  | .i32 => (v.truncate 32 : Word).toInt
  | .n32 => (v.truncate 32 : Word).toNat
  | .i64 => v.toInt
  | _ => v.toNat

/-- The integer conditions (05 R126). -/
def condition (c : Cmp) (a b : Int) : Bool :=
  match c with
  | .eq => a == b
  | .ne => a != b
  | .lt => decide (a < b)
  | .le => decide (a < b + 1)
  | .gt => decide (b < a)
  | _ => decide (b < a + 1)

/-- c, or c AND, OR or XOR the predicate (05 R126). -/
def combined (comb : BitVec 2) (c p : Bool) : Bool :=
  if comb = 0 then c else if comb = 1 then c && p else if comb = 2 then c || p else xor c p

end Sys2Proof.Claims

/-- 05 R121 to R125: bitwise functions, shifts and rotates, bit fields, counts, bit reversal and byte permutation. -/
def Sys2Proof.Claims.logic : Prop :=
  ∀ (h : Hdr) (d a b c : Opd) (fn : BitVec 8) (ze wrap w signed : Bool) (pz : BitVec 3),
    Each (.and h d a b) (fun _ r => one (r.aw &&& r.bw)) ∧
    Each (.or h d a b) (fun _ r => one (r.aw ||| r.bw)) ∧
    Each (.xor h d a b) (fun _ r => one (r.aw ^^^ r.bw)) ∧
    Each (.not h d a) (fun _ r => one (~~~r.aw)) ∧
    Each (.andn h d a b) (fun _ r => one (r.aw &&& ~~~r.bw)) ∧
    Each (.lop3 h d a b c fn ze pz) (fun _ r =>
      { d := (union3 fn r.aw r.bw r.cw).zeroExtend 64, ps := [union3 fn r.aw r.bw r.cw == 0#32] }) ∧
    Each (.shl h d a b wrap) (fun _ r => one (if 32 ≤ count wrap r.bw then 0#32 else r.aw <<< count wrap r.bw)) ∧
    Each (.shr h d a b wrap) (fun _ r => one (if 32 ≤ count wrap r.bw then 0#32 else r.aw >>> count wrap r.bw)) ∧
    Each (.sar h d a b wrap) (fun _ r => one (BitVec.ofInt 32 (r.aw.toInt / 2 ^ count wrap r.bw))) ∧
    Each (.rol h d a b) (fun _ r => one ((r.aw <<< (r.bw.toNat % 32)) ||| (r.aw >>> (32 - r.bw.toNat % 32)))) ∧
    Each (.fshl h d a b c wrap) (fun _ r => one (((r.aw ++ r.bw) <<< min (count wrap r.cw) 32).extractLsb' 32 32)) ∧
    Each (.bfe h d a b (if signed then .i32 else .n32)) (fun _ r => one (extract signed r.aw r.bw)) ∧
    Each (.bfi h d a b c) (fun _ r => one (insert r.aw r.bw r.cw)) ∧
    Each (.popc h d a w) (fun _ r => one (BitVec.ofNat 32 ((bits (if w then 64 else 32) r.a).count true))) ∧
    Each (.clz h d a w) (fun _ r => one (BitVec.ofNat 32 ((bits (if w then 64 else 32) r.a).reverse.takeWhile (!·)).length)) ∧
    Each (.ctz h d a w) (fun _ r => one (BitVec.ofNat 32 ((bits (if w then 64 else 32) r.a).takeWhile (!·)).length)) ∧
    Each (.brev h d a) (fun _ r => one r.aw.reverse) ∧
    Each (.prmt h d a b c) (fun _ r =>
      one (permuted r.aw r.bw r.cw 3 ++ permuted r.aw r.bw r.cw 2 ++ permuted r.aw r.bw r.cw 1 ++ permuted r.aw r.bw r.cw 0))

/-- 05 R126 to R129: comparisons of integers and of FP32 values (06 R60, R61 for NaN and zero, in `floatCmp`), selection, functions
of three predicates, and predicates to and from registers. -/
def Sys2Proof.Claims.predicates : Prop :=
  ∀ (h : Hdr) (d a b : Opd) (ty : Ty) (cmp : Cmp) (comb : BitVec 2) (pd pa pb pc : BitVec 3) (w inv pt : Bool) (fn : BitVec 8),
    ((ty = .i32 ∨ ty = .n32 ∨ ty = .i64 ∨ ty = .n64) → cmp ≠ .un → cmp ≠ .ord →
      Each (.icmp h a b ty pd cmp comb pc) (fun _ r =>
        { ps := [combined comb (condition cmp (cmpNum ty r.a) (cmpNum ty r.b)) (r.p 0)] })) ∧
    Each (.fcmp h a b pd cmp comb pc) (fun _ r => { ps := [combined comb (floatCmp cmp r.aw r.bw) (r.p 0)] }) ∧
    Each (.sel h d a b w inv pa) (fun _ r => { d := if xor (r.p 0) inv then r.a else r.b }) ∧
    Each (.pset h pd pa pb pc fn pt) (fun _ r =>
      { ps := [fn.getLsbD ((r.p 0).toNat + 2 * (r.p 1).toNat + 4 * (r.p 2).toNat)] }) ∧
    Each (.pmov h d a true pd) (fun _ r => { ps := [r.aw.getLsbD r.t] }) ∧
    (∀ s y s1, Performs (.pmov h d a false pa) s y s1 →
      let mask : Mask := BitVec.ofFnLE (fun t : Fin 16 => s1.predBit y.st pa.toNat t y.t0)
      Completes (.pmov h d a false pa) s y (writeRows y (y.act.map (fun t => (t, one (mask.zeroExtend 32)))) s1))

/-- 05 R121 to R129: logic and bit fields (`logic`); comparisons, selection and predicates (`predicates`). -/
def Obligations.LogicAndPredicates : Prop := Claims.logic ∧ Claims.predicates

namespace Sys2Proof.Claims

open Sys2Proof.Machine

/-- The mask of a list of threads. -/
def mask (ts : List Nat) : Nat := (ts.map (fun t => 2 ^ t)).sum

/-- VOTE's conditions for c true ones among m (05 R131). -/
def vote (cond : BitVec 3) (m c : Nat) : Bool :=
  if cond = 1 then c == m else if cond = 2 then decide (0 < c) else if cond = 3 then c == 0 || c == m
  else if cond = 4 then decide (m < c + c) else if cond = 5 then c == 1 else false

/-- SHFL's source index (05 R132). -/
def source (mode : BitVec 2) (t : Nat) (b : Word) : Int :=
  if mode = 0 then (b.toNat % 16 : Nat) else if mode = 1 then ((t + b.toNat) % 16 : Nat)
  else if mode = 2 then t + b.toInt else (Nat.xor t (b.toNat % 16) : Nat)

/-- A value as a fold takes it: under fadd, fmin and fmax a NaN enters as the canonical NaN (03 R61). -/
def entering (op : BitVec 4) (a : Word) : Word := if 6 ≤ op.toNat ∧ fp32.decode a.toNat = .nan then 0x7FC00000 else a

/-- The fold of one segment's values, and its prefixes (05 R133). -/
def foldOf (f : Word → Word → Word) : List Word → Option Word
  | [] => none
  | x :: xs => some (xs.foldl f x)

/-- The threads of the segment of the `n`th active thread, up to it: from the last start at or before it. -/
def upTo (rs : List (Word × Bool)) (n : Nat) : List Word :=
  let ix := List.range (n + 1)
  let from_ := (ix.filter (fun i => (rs.getD i (0, false)).2)).getLastD 0
  (ix.drop from_).map (fun i => (rs.getD i (0, false)).1)

/-- The place of the last thread of the `n`th thread's segment. -/
def lastOf (rs : List (Word × Bool)) (n : Nat) : Nat :=
  n + ((rs.drop (n + 1)).takeWhile (fun r => !r.2)).length

end Sys2Proof.Claims

/-- 05 R130 to R134: the strand-wide instructions take every source of every active thread in the first cycle. `foldStep` and
`foldIdentity` are the step and the exclusive identity of the table of R133. That SHFL to a uniform register writes the value of the
lowest active thread is log entry 59, and that the NaN of a fold of one thread is canonical log entry 15: the model's choices. -/
def Obligations.StrandWide : Prop :=
  ∀ (h : Hdr) (d a b c : Opd) (ty : Ty) (rm : Rm) (sat excl seg w fill inv km : Bool) (cond ks pd : BitVec 3) (mode : BitVec 2)
    (op : BitVec 4),
    Together (.vote h d cond ks inv pd) (fun _ rs =>
      let yes := (rs.filter (fun r => xor (r.p 0) inv)).map (fun r => r.t)
      let census := mask yes + 2 ^ 16 * yes.length + 2 ^ 21 * yes.headD 16
      rs.map (fun r => (r.t, { d := (BitVec.ofNat 32 census).zeroExtend 64, ps := [vote cond rs.length yes.length] }))) ∧
    Together (.shfl h d a b c mode pd w fill) (fun _ rs => rs.map (fun r => (r.t,
      match rs.find? (fun u => source mode r.t r.bw == u.t) with
      | some u => { d := u.a, ps := [true] }
      | none => { d := if fill then r.c else r.a, ps := [false] }))) ∧
    Together (.redux h d a ty rm sat op seg ks) (fun y rs =>
      let f := foldStep op ty sat (y.st.rounding rm)
      let xs := rs.map (fun r => (entering op r.aw, seg && r.p 0))
      ((List.range rs.length).zip rs).map (fun p => (p.2.t, one ((foldOf f (upTo xs (lastOf xs p.1))).getD 0)))) ∧
    Together (.scan h d a ty rm sat op excl seg ks) (fun y rs =>
      let f := foldStep op ty sat (y.st.rounding rm)
      let xs := rs.map (fun r => (entering op r.aw, seg && r.p 0))
      ((List.range rs.length).zip rs).map (fun p => (p.2.t, one ((foldOf f
        (if excl then (upTo xs p.1).dropLast else upTo xs p.1)).getD (foldIdentity op ty))))) ∧
    Together (.matchT h d a w pd km) (fun _ rs => rs.map (fun r =>
      let g := (rs.filter (fun u => u.a == r.a)).map (fun u => u.t)
      (r.t, { d := (BitVec.ofNat 32 (mask g + 2 ^ 16 * g.length + 2 ^ 21 * g.headD 0)).zeroExtend 64
              ps := [if km then rs.all (fun u => u.a == r.a) else g.head? == some r.t] })))

namespace Sys2Proof.Claims

open Sys2Proof.Machine

/-- A result made element by element: of whole words under .f32, of both halves under .f16x2 and .bf16x2 (06 R136). `e` takes the
element of a word. -/
def packed (ty : Ty) (g : Fmt → (Word → Nat) → Nat) : Word :=
  if ty = .f16x2 ∨ ty = .bf16x2 then
    let f := if ty = .f16x2 then fp16 else bf16
    BitVec.ofNat 16 (g f (fun w => (w.extractLsb' 16 16).toNat)) ++ BitVec.ofNat 16 (g f (fun w => (w.extractLsb' 0 16).toNat))
  else BitVec.ofNat 32 (g fp32 (fun w => w.toNat))

/-- The types of the arithmetic instructions of group 0x4 (06 R136). -/
def floating (ty : Ty) : Prop := ty = .f32 ∨ ty = .f16x2 ∨ ty = .bf16x2

/-- A value times a power of two; NaN, infinities and zeros are themselves (06 R141). -/
def scaledBy (k : Int) : FVal → FVal
  | .fin v => .fin ⟨v.num, v.den, v.e + k⟩
  | v => v

/-- The integer nearest to a value in a mode; a zero takes the value's sign (06 R142). -/
def integral (m : RMode) : FVal → FVal
  | .fin v => if v.toInteger m = 0 then .zero (decide (v.num < 0)) else .fin ⟨v.toInteger m, 1, 0⟩
  | v => v

/-- The class of an encoding: the bit of the class mask (06 R140). -/
def classOf (f : Fmt) (x : Nat) : Nat :=
  let neg := x / 2 ^ (f.eb + f.fb) % 2 = 1
  let ex := x / 2 ^ f.fb % 2 ^ f.eb
  let fr := x % 2 ^ f.fb
  if ex = 2 ^ f.eb - 1 then (if fr ≠ 0 then 8 else if neg then 0 else 7)
  else if ex ≠ 0 then (if neg then 1 else 6)
  else if fr ≠ 0 then (if neg then 2 else 5)
  else if neg then 3 else 4

end Sys2Proof.Claims

/-- 06 R136, R137, R139 to R143: arithmetic on FP32, and on pairs of FP16 or BF16 elements. Each result is the exact value of the
expression, rounded once in the mode of RM into the element format (`Fmt.arith`, 03 R72, R74, R75). -/
def Sys2Proof.Claims.floatArithmetic : Prop :=
  ∀ (h : Hdr) (d a b c : Opd) (ty : Ty) (rm : Rm) (sat p : Bool) (pd : BitVec 3),
    (floating ty →
      Each (.fadd h d a b ty rm sat) (fun y r => let m := y.st.rounding rm
        one (packed ty (fun f e => f.arith m sat ((f.decode (e r.aw)).add m (f.decode (e r.bw)))))) ∧
      Each (.fsub h d a b ty rm sat) (fun y r => let m := y.st.rounding rm
        one (packed ty (fun f e => f.arith m sat ((f.decode (e r.aw)).add m (f.decode (e r.bw)).neg)))) ∧
      Each (.fmul h d a b ty rm sat) (fun y r => let m := y.st.rounding rm
        one (packed ty (fun f e => f.arith m sat ((f.decode (e r.aw)).mul (f.decode (e r.bw)))))) ∧
      Each (.ffma h d a b c ty rm sat) (fun y r => let m := y.st.rounding rm
        one (packed ty (fun f e => f.arith m sat (((f.decode (e r.aw)).mul (f.decode (e r.bw))).add m (f.decode (e r.cw)))))) ∧
      Each (.fmin h d a b ty) (fun _ r => one (packed ty (fun f e => fminBits f (e r.aw) (e r.bw)))) ∧
      Each (.fmax h d a b ty) (fun _ r => one (packed ty (fun f e => fmaxBits f (e r.aw) (e r.bw)))) ∧
      Each (.fscale h d a b ty rm sat) (fun y r => one (fscaleVal ty (y.st.rounding rm) sat r.aw r.bw)) ∧
      Each (.frnd h d a ty rm) (fun y r => let m := y.st.rounding rm
        one (packed ty (fun f e => f.arith m false (integral m (f.decode (e r.aw))))))) ∧
    Each (.fclass h d a b .f32 p pd) (fun _ r =>
      { d := BitVec.ofNat 64 (2 ^ classOf fp32 r.aw.toNat), ps := [(BitVec.ofNat 32 (2 ^ classOf fp32 r.aw.toNat) &&& r.bw) != 0#32] }) ∧
    ((ty = .f16x2 ∨ ty = .bf16x2) →
      let f := if ty = .f16x2 then fp16 else bf16
      let el (w : Word) (i : Nat) := (w.extractLsb' (16 * i) 16).toNat
      let v (w : Word) (i : Nat) := f.decode (el w i)
      (∀ s y s1, Performs (.fclass h d a b ty false pd) s y s1 →
        Completes (.fclass h d a b ty false pd) s y (writeRows y (y.poppers.map (fun t => let r := readThread s1 y t
          (t, one (BitVec.ofNat 32 (2 ^ classOf f (el r.aw 0) + 2 ^ classOf f (el r.aw 1) * 2 ^ 16))))) s1)) ∧
      Each (.fdot2 h d a b c ty rm sat) (fun y r => let m := y.st.rounding rm
        one (BitVec.ofNat 32 (fp32.arith m sat
          (sumTerms m [(v r.aw 0).mul (v r.bw 0), (v r.aw 1).mul (v r.bw 1), fp32.decode r.cw.toNat])))))

/-- 06 R141: FSCALE's scaling is exact before the single rounding, for every 32-bit count. -/
def Sys2Proof.Claims.scaleIsExact : Prop :=
  ∀ (ty : Ty) (m : RMode) (sat : Bool) (a b : Word), floating ty →
    fscaleVal ty m sat a b = packed ty (fun f e => f.arith m sat (scaledBy b.toInt (f.decode (e a))))

/-- 06 R136, R137, R139 to R143: floating-point arithmetic with one rounding for each result (`floatArithmetic`), FSCALE among it (`scaleIsExact`). -/
def Obligations.FloatResults : Prop := Claims.floatArithmetic ∧ Claims.scaleIsExact

/-- 06 R138: the rows for special operands, on the values that encodings stand for, and the encodings that results take. -/
def Sys2Proof.Claims.specialOperands : Prop :=
  (∀ (m : RMode) (sat : Bool) (a : FVal) (n n' : Bool) (x : Exact),
    FVal.add m .nan a = .nan ∧ FVal.add m a .nan = .nan ∧ FVal.mul .nan a = .nan ∧ FVal.mul a .nan = .nan ∧
    FVal.mul (.inf n) (.zero n') = .nan ∧ FVal.mul (.zero n) (.inf n') = .nan ∧
    FVal.add m (.inf n) (.inf (!n)) = .nan ∧ FVal.add m (.inf n) (.inf n) = .inf n ∧
    (a.isNan = false → a.isInf = false → FVal.add m (.inf n) a = .inf n ∧ FVal.add m a (.inf n) = .inf n) ∧
    FVal.mul (.zero n) (.zero n') = .zero (n != n') ∧
    FVal.mul (.inf n) (.fin x) = .inf (n != decide (x.num < 0)) ∧ FVal.mul (.fin x) (.inf n) = .inf (decide (x.num < 0) != n) ∧
    FVal.add m (.zero n) (.zero n) = .zero n ∧ FVal.add m (.zero n) (.zero (!n)) = .zero (m == .rd) ∧
    (x.num ≠ 0 → x.den ≠ 0 → FVal.add m (.fin x) (FVal.fin x).neg = .zero (m == .rd)) ∧
    fp32.arith m sat .nan = 0x7FC00000 ∧ fp32.arith m sat (.inf false) = 0x7F800000 ∧ fp32.arith m sat (.inf true) = 0xFF800000 ∧
    fp32.arith m sat (.zero false) = 0 ∧ fp32.arith m sat (.zero true) = 0x80000000) ∧
  ffmaVal .f32 .rne false 0x3F800001 0x3F7FFFFE 0xBF800000 = 0xA8800000 ∧
  faddVal .f32 .rne false (fmulVal .f32 .rne false 0x3F800001 0x3F7FFFFE) 0xBF800000 = 0

/-- 06 R144, R145: the special functions: one fixed function of the operand each, with the special and the exact rows. `e` below is
a biased exponent. Bits that the manual leaves open inside its bounds are free (log entry 4). -/
def Sys2Proof.Claims.specialFunctions : Prop :=
  (∀ (h : Hdr) (d a : Opd) (rm : Rm) (sat : Bool),
    Each (.frcp h d a) (fun _ r => one (frcpVal r.aw)) ∧ Each (.frsq h d a) (fun _ r => one (frsqVal r.aw)) ∧
    Each (.fsqrt h d a rm sat) (fun y r => one (BitVec.ofNat 32 (fp32.sqrt (y.st.rounding rm) sat (fp32.decode r.aw.toNat)))) ∧
    Each (.fexp2 h d a) (fun _ r => one (fexp2Val r.aw)) ∧ Each (.flog2 h d a) (fun _ r => one (flog2Val r.aw)) ∧
    Each (.fsinp h d a) (fun _ r => one (fsinpVal r.aw)) ∧ Each (.fcosp h d a) (fun _ r => one (fcospVal r.aw))) ∧
  (∀ w : Word, fp32.decode w.toNat = .nan →
    frcpVal w = 0x7FC00000 ∧ frsqVal w = 0x7FC00000 ∧ fexp2Val w = 0x7FC00000 ∧ flog2Val w = 0x7FC00000 ∧ fsinpVal w = 0x7FC00000 ∧
    fcospVal w = 0x7FC00000 ∧ ∀ m sat, fp32.sqrt m sat (fp32.decode w.toNat) = 0x7FC00000) ∧
  [frcpVal 0, frsqVal 0, fexp2Val 0, flog2Val 0, fsinpVal 0, fcospVal 0] =
    [0x7F800000, 0x7F800000, 0x3F800000, 0xFF800000, 0, 0x3F800000] ∧
  [frcpVal 0x80000000, frsqVal 0x80000000, fexp2Val 0x80000000, flog2Val 0x80000000, fsinpVal 0x80000000, fcospVal 0x80000000] =
    [0xFF800000, 0xFF800000, 0x3F800000, 0xFF800000, 0x80000000, 0x3F800000] ∧
  [frcpVal 0x7F800000, frsqVal 0x7F800000, fexp2Val 0x7F800000, flog2Val 0x7F800000, fsinpVal 0x7F800000, fcospVal 0x7F800000] =
    [0, 0, 0x7F800000, 0x7F800000, 0x7FC00000, 0x7FC00000] ∧
  [frcpVal 0xFF800000, frsqVal 0xFF800000, fexp2Val 0xFF800000, flog2Val 0xFF800000, fsinpVal 0xFF800000, fcospVal 0xFF800000] =
    [0x80000000, 0x7FC00000, 0, 0x7FC00000, 0x7FC00000, 0x7FC00000] ∧
  (∀ m sat, [fp32.sqrt m sat (fp32.decode 0), fp32.sqrt m sat (fp32.decode 0x80000000), fp32.sqrt m sat (fp32.decode 0x7F800000),
    fp32.sqrt m sat (fp32.decode 0xFF800000)] = [0, 0x80000000, 0x7F800000, 0x7FC00000]) ∧
  (∀ (w : Word) (x : Exact), fp32.decode w.toNat = .fin x →
    (x.num < 0 → frsqVal w = 0x7FC00000 ∧ flog2Val w = 0x7FC00000 ∧ ∀ m sat, fp32.sqrt m sat (.fin x) = 0x7FC00000) ∧
    (128 ≤ x.toInteger .rd → fexp2Val w = 0x7F800000) ∧ (x.toInteger .ru ≤ -151 → fexp2Val w = 0)) ∧
  (∀ n : Nat, 1 ≤ n → n ≤ 253 → ∀ neg : Bool,
    let pow (k : Nat) : Word := BitVec.ofNat 32 (k * 2 ^ 23)
    let sign : Word := if neg then 0x80000000 else 0
    frcpVal (sign ||| pow n) = (sign ||| pow (254 - n))) ∧
  [frcpVal 0x00400000, frcpVal 0x80400000, frcpVal 0x7F000000, frcpVal 0xFF000000] = [0x7F000000, 0xFF000000, 0x00400000, 0x80400000] ∧
  (∀ k : Nat, k ≤ 21 → frcpVal (BitVec.ofNat 32 (2 ^ k)) = 0x7F800000 ∧ frcpVal (BitVec.ofNat 32 (2 ^ 31 + 2 ^ k)) = 0xFF800000) ∧
  (∀ k : Nat, k ≤ 126 → frsqVal (BitVec.ofNat 32 ((2 * k + 1) * 2 ^ 23)) = BitVec.ofNat 32 ((190 - k) * 2 ^ 23)) ∧
  (∀ k : Nat, k ≤ 10 → frsqVal (BitVec.ofNat 32 (2 ^ (2 * k + 1))) = BitVec.ofNat 32 ((201 - k) * 2 ^ 23)) ∧
  (∀ n : Nat, 1 ≤ n → n ≤ 254 →
    flog2Val (BitVec.ofNat 32 (n * 2 ^ 23)) = BitVec.ofNat 32 (fp32.arith .rne false (FVal.ofInt ((n : Int) - 127)))) ∧
  (∀ k : Nat, k ≤ 22 → flog2Val (BitVec.ofNat 32 (2 ^ k)) = BitVec.ofNat 32 (fp32.arith .rne false (FVal.ofInt ((k : Int) - 149))))

namespace Sys2Proof.Claims

open Sys2Proof.Machine

/-- Within `m` ulp of a value (06 R144), or the FP32 value nearest to it (03 R72). -/
def bounded (w : Word) (y : Exact) (m : Nat) : Prop := nearUlp w y m = true ∨ w = BitVec.ofNat 32 (fp32.roundFin .rne false y)

end Sys2Proof.Claims

/-- 06 R144, R145: the exact results of FEXP2 on integers, of FSINP and FCOSP on integers and halves, and the bounds. `x.int?` is the
integer that a value is. The bounds are said of the rational 1/A for FRCP, of the inequalities that 1/√A means for FRSQ, and otherwise
of the model's approximations of the exact result, `exp2Approx` within a relative 2^-90, `log2Approx` within 2^-75 and `sinPiApprox`;
the bits inside the bounds are free (log entry 4). -/
def Sys2Proof.Claims.specialBounds : Prop :=
  ∀ (w : Word) (x : Exact), fp32.decode w.toNat = .fin x →
    (∀ n : Int, x.int? = some n →
      (-126 ≤ n → n ≤ 127 → fexp2Val w = BitVec.ofNat 32 ((n + 127).toNat * 2 ^ 23)) ∧
      (-149 ≤ n → n < -126 → fexp2Val w = BitVec.ofNat 32 (2 ^ (n + 149).toNat)) ∧
      fsinpVal w = (if x.num < 0 then 0x80000000 else 0) ∧ fcospVal w = (if n % 2 = 0 then 0x3F800000 else 0xBF800000)) ∧
    (∀ n : Int, x.int? = none → (x.scale 1).int? = some (2 * n + 1) →
      fsinpVal w = (if n % 2 = 0 then 0x3F800000 else 0xBF800000) ∧ fcospVal w = 0) ∧
    (let y := Exact.div ⟨1, 1, 0⟩ x
     (fp32.beyond 1 y.binade = true → frcpVal w = (if x.num < 0 then 0xFF800000 else 0x7F800000)) ∧
     (fp32.beyond 1 y.binade = false → bounded (frcpVal w) y 1)) ∧
    (0 < x.num → nearRsq x (frsqVal w) = true ∨ frsqVal w = rsqNearest x) ∧
    (∀ y, x.int? = none → x.toInteger .rd < 128 → -151 < x.toInteger .ru → exp2Approx x = some y → bounded (fexp2Val w) y 2) ∧
    (∀ y, 0 < x.num → x.pow2? = none → log2Approx x = some y →
      (x.binade ≠ -1 → x.binade ≠ 0 → bounded (flog2Val w) y 2) ∧
      ((x.binade = -1 ∨ x.binade = 0) → flog2Val w = BitVec.ofNat 32 (fp32.roundFin .rne false y) ∨
        (match finiteOf (flog2Val w) with
          | none => false
          | some none => (⟨0, 1, 0⟩ : Exact).within y 1 (-21)
          | some (some v) => v.within y 1 (-21)) = true)) ∧
    (∀ r z, x.int? = none → (x.scale 1).int? = none → x.sub ⟨nearestInt x, 1, 0⟩ = some r → sinPiApprox r = some z →
      let y := if nearestInt x % 2 = 0 then z else z.neg
      bounded (fsinpVal w) y 2 ∧ (atMostOne (fsinpVal w) = true ∨ fsinpVal w = BitVec.ofNat 32 (fp32.roundFin .rne false y)))

/-- 06 R146 to R148 with 03 R72 to R78: conversions. `convElem` converts one element; the narrowing forms put theirs among the
elements of C, and the others write every element. -/
def Sys2Proof.Claims.conversions : Prop :=
  ∀ (h : Hdr) (d a b c : Opd) (ty sty : Ty) (rm : Rm) (sat : Bool) (pos : BitVec 2),
    Each (.cvt h d a c ty sty rm sat pos) (fun y r =>
      let ws := Ty.elemWidth sty
      let wd := Ty.elemWidth ty
      let k := 32 / max ws wd
      let conv (j : Nat) : Nat := convElem ty sty (y.st.rounding rm) sat (elemOf ws r.aw j)
      one ((List.range k).foldl
        (fun w j => if wd < ws then setElem wd w (pos.toNat * k + j) (conv j) else setElem wd w j (conv (pos.toNat * k + j)))
        (if wd < ws then r.cw else 0#32))) ∧
    Each (.cvtef h d a b c ty sat pos) (fun _ r =>
      let f := Ty.fmt ty
      let t := fp32.arith .rne false ((fp32.decode r.aw.toNat).add .rne (fp32.decode r.bw.toNat))
      let w := f.conv .rne sat (fp32.decode t)
      let lost := (fp32.decode t).isNan || (f.decode w).isNan || (f.decode w).isInf
      { d := (setElem (Ty.elemWidth ty) r.cw pos.toNat w).zeroExtend 64
        e := if lost then 0
          else BitVec.ofNat 64 (fp32.arith .rne false ((fp32.decode t).add .rne (f.decode w).neg) % 2 ^ 32) }) ∧
    Each (.cvtsr h d a b c ty sat pos) (fun _ r =>
      one (setElem (Ty.elemWidth ty) r.cw pos.toNat ((Ty.fmt ty).stochastic sat r.bw.toNat (fp32.decode r.aw.toNat))))

/-- 03 R76, R77 with 06 R147: what one element is converted to, and stochastic rounding: `q` is the step of the grid at x, and `lo` counts
the neighbour below x in steps. -/
def Sys2Proof.Claims.conversionRules : Prop :=
  (∀ (dty sty : Ty) (m : RMode) (sat : Bool) (e : Nat),
    let f := Ty.fmt dty
    let v := (Ty.fmt sty).decode e
    let width := Ty.elemWidth dty
    let lo := rangeLo (Ty.signed dty) width
    let hi := rangeHi (Ty.signed dty) width
    let bits (z : Int) : Nat := (z % 2 ^ width).toNat
    let wrong (z : Int) : Nat := if sat then bits z else 2 ^ (width - 1)
    (Ty.isInt dty = false → Ty.isInt sty = false → convElem dty sty m sat e =
      (match v with
        | .nan => f.nanBits
        | .inf neg => if sat then f.maxBits neg else f.infBits neg
        | .zero neg => f.signed neg 0
        | .fin x => f.roundFin m sat x)) ∧
    (Ty.isInt dty = false → Ty.isInt sty = true →
      let k : Int := if Ty.signed sty then (BitVec.ofNat (Ty.elemWidth sty) e).toInt else (BitVec.ofNat (Ty.elemWidth sty) e).toNat
      convElem dty sty m sat e = if k = 0 then 0 else f.roundFin m sat ⟨k, 1, 0⟩) ∧
    (Ty.isInt dty = true → Ty.isInt sty = false → convElem dty sty m sat e =
      (match v with
        | .nan => wrong 0
        | .inf neg => wrong (if neg then lo else hi)
        | .zero _ => 0
        | .fin x =>
          let z := x.toInteger m
          if hi < z then wrong hi else if z < lo then wrong lo else bits z))) ∧
  (∀ (f : Fmt) (sat : Bool) (r : Nat) (x : Exact), r < 2 ^ 32 → 0 < x.den → x.num ≠ 0 →
    let q := (f.grid x).q
    let p := x.over q
    let num : Int := if x.num < 0 then -(p.1 : Int) else p.1
    let lo := num / p.2
    let d := (num - lo * p.2) * 2 ^ 32 / p.2
    let chosen := if num % p.2 = 0 then lo else if (r : Int) < d then lo + 1 else lo
    f.stochastic sat r (.fin x) = f.finish (if x.num < 0 then .rd else .ru) sat (decide (x.num < 0)) chosen.natAbs q) ∧
  (∀ (f : Fmt) (sat neg : Bool) (r : Nat), f.stochastic sat r .nan = f.nanBits ∧ f.stochastic sat r (.zero neg) = f.signed neg 0 ∧
    f.stochastic sat r (.inf neg) = if sat then f.maxBits neg else f.infBits neg)

/-- 06 R138: special operands; 06 R144, R145: special functions on special, exact and other operands (`specialFunctions`, `specialBounds`); 06 R146 to R148 with 03 R72 to R78: conversions, what each makes of an element (`conversionRules`), and where it goes (`conversions`). -/
def Obligations.SpecialAndConversions : Prop := Claims.specialOperands ∧ Claims.specialFunctions ∧ Claims.specialBounds ∧ Claims.conversions ∧ Claims.conversionRules

namespace Sys2Proof.Claims

open Sys2Proof.Machine

/-- Register line `n` of the strand that issues `y`, as cycle t0 reads it: sixteen words (01 R29). -/
def lineIn (s : State) (y : Iss) (n : Nat) : List Word := (List.range 16).map (fun t => s.reg y.st (vecKey n t) y.t0)

/-- The words of `m` lines from `n` on. -/
def rangeIn (s : State) (y : Iss) (n m : Nat) : List Word := (List.range m).flatMap (fun i => lineIn s y (n + i))

/-- The state with lines written from register `n` on, in the last cycle (06 R150). -/
def withLines (s : State) (y : Iss) (n : Nat) (ls : List (List Word)) : State :=
  s.putRegs y.k (((List.range ls.length).zip ls).flatMap (fun p =>
    ((List.range 16).zip p.2).map (fun q => ⟨y.last + 6, vecKey (n + p.1) q.1, q.2, y.last⟩)))

/-- The format fault of a header in the block operand `o` (06 R152): code 0x11, the operand code, the header and STEP. -/
def badBlock (o : BitVec 8) (hdr step : Nat) (t : Nat) : Flt :=
  { cause := 0x11, detail := BitVec.ofNat 256 (o.toNat + hdr % 65536 * 2 ^ 8 + step * 2 ^ 24), lowt := t }

/-- A format code that no instruction decodes (03 R67 step 1). -/
def badFmt (fmt : Nat) : Prop := fmt = 0 ∨ (7 ≤ fmt ∧ fmt ≤ 0x3E)

/-- S of a header (03 R65). -/
def scaleOf (sexp sfrac : Nat) : Exact := ⟨4 + sfrac, 1, (sexp : Int) - 129⟩

/-- x / S, exactly; NaN, infinities and zeros are themselves (06 R155). -/
def quotient (s : Exact) : FVal → FVal
  | .fin x => .fin ⟨x.num * s.den, x.den * s.num.natAbs, x.e - s.e⟩
  | v => v

/-- The codes that the Q4X rule writes at slot `i` for an element, none where filling stops (06 R156). -/
def codesAt (m : RMode) (sat esc : Bool) (x : FVal) (i : Nat) : Option (List Nat) :=
  let small (q : Int) : Prop := -7 ≤ q ∧ q ≤ 7
  let other : Option (List Nat) :=
    if esc = true ∧ i ≤ 121 then some [8, e4m3.conv m sat x / 16, e4m3.conv m sat x % 16]
    else if sat then some [if x.isNan then 0 else if x.isNeg then 9 else 7]
    else none
  match x with
  | .zero _ => some [0]
  | .fin v => if small (v.toInteger m) then some [(v.toInteger m % 16).toNat] else other
  | _ => other

/-- All codes from slot `i` on, and whether the block becomes a NaN block. -/
def codesFrom (m : RMode) (sat esc : Bool) (xs : List FVal) : Nat → Nat → List Nat × Bool
  | 0, _ => ([], false)
  | n + 1, i =>
    if 124 ≤ i then ([], false)
    else match codesAt m sat esc (xs.getD i (.zero false)) i with
      | none => ([], true)
      | some cs => let r := codesFrom m sat esc xs n (i + cs.length); (cs ++ r.1, r.2)

/-- Element `i` of `width` bits of a block (03 R66). -/
def blockElem (b : Line) (width i : Nat) : Nat := (b.extractLsb' (16 + width * i) width).toNat

end Sys2Proof.Claims

/-- 06 R149, R150, R152 to R158: the block instructions take whole register lines, whatever the active mask; BLKH and BLKSCL.fit
give every active thread one word; a header that a consumer cannot decode is a precise format fault. `packBlock` and
`unpackBlock` make a block of FP32 words and words of a block. -/
def Sys2Proof.Claims.blocks : Prop :=
  ∀ (h : Hdr) (d a b : Opd) (ty : Ty) (pf : PackFmt) (rm : Rm) (sat esc i4 chk : Bool) (cnt : BitVec 3) (s s1 : State) (y : Iss),
    let n := Opd.num a
    let line := lineOfWords (lineIn s1 y n)
    let hdr := (line.extractLsb' 0 16).toNat
    let arg : Word := (readThread s1 y y.lead).bw
    let fault (i : Instr) (f : Flt) : Prop := exec i s = .next (commit s.mem (s.preciseFault y.k f y.pc y.exm y.act))
    Opd.isVec a = true →
    (Performs (.blkh h d a) s y s1 →
      Completes (.blkh h d a) s y (writeRows y (y.act.map (fun t => (t, one (blkStatus line)))) s1)) ∧
    (Performs (.blkhw h d a b chk) s y s1 →
      (¬ (chk = true ∧ badFmt (arg.toNat % 64)) →
        Completes (.blkhw h d a b chk) s y (withLines s1 y (Opd.num d)
          [(lineIn s1 y n).modifyHead (fun w => (w &&& 0xFFFF0000) ||| (arg &&& 0xFFFF))])) ∧
      ((chk = true ∧ badFmt (arg.toNat % 64)) →
        fault (.blkhw h d a b chk) (badBlock (Decode.opdCode b) arg.toNat 1 y.lead))) ∧
    (Machine.pack ty i4 = some pf → Performs (.blkpack h d a b ty rm sat esc i4) s y s1 →
      Completes (.blkpack h d a b ty rm sat esc i4) s y (withLines s1 y (Opd.num d)
        [wordsOfLine (packBlock pf (y.st.rounding rm) sat esc arg.toNat (rangeIn s1 y n pf.regs))])) ∧
    (Performs (.blkunp h d a cnt rm sat) s y s1 →
      (∀ ws, unpackBlock (y.st.rounding rm) sat (16 * (cnt.toNat + 1)) line = some ws →
        Completes (.blkunp h d a cnt rm sat) s y (withLines s1 y (Opd.num d)
          ((List.range (cnt.toNat + 1)).map (fun i => (ws.drop (16 * i)).take 16)))) ∧
      (badFmt (hdr % 64) → fault (.blkunp h d a cnt rm sat) (badBlock (Decode.opdCode a) hdr 1 y.lead))) ∧
    (Performs (.blkscl h d a b false ty sat i4) s y s1 →
      (∀ l, blkAdjust line arg.toInt sat = some l →
        Completes (.blkscl h d a b false ty sat i4) s y (withLines s1 y (Opd.num d) [wordsOfLine l])) ∧
      (badFmt (hdr % 64) → fault (.blkscl h d a b false ty sat i4) (badBlock (Decode.opdCode a) hdr 1 y.lead))) ∧
    (Machine.pack ty i4 = some pf → Performs (.blkscl h d a b true ty sat i4) s y s1 →
      Completes (.blkscl h d a b true ty sat i4) s y
        (writeRows y (y.act.map (fun t => (t, one (BitVec.ofNat 32 (fitTemplate pf (rangeIn s1 y n pf.regs)))))) s1))

/-- 06 R153, R155 to R158: the status word of BLKH, the block that BLKPACK writes, the words that BLKUNP gives, and what BLKSCL makes of a
header or chooses as a template. -/
def Sys2Proof.Claims.blockRules : Prop :=
  (∀ b : Line,
    let sexp := (b.extractLsb' 8 8).toNat
    let fmt := (b.extractLsb' 0 6).toNat
    let mal := fmt = 1 ∧ (q4xSeq b).mal = true
    let numeric := 1 ≤ fmt ∧ fmt ≤ 6
    (blkStatus b).extractLsb' 0 16 = b.extractLsb' 0 16 ∧ (blkStatus b).extractLsb' 21 11 = 0 ∧
    ((blkStatus b).getLsbD 20 = true ↔ badFmt fmt) ∧ ((blkStatus b).getLsbD 19 = true ↔ mal) ∧
    ((blkStatus b).getLsbD 18 = true ↔ ((sexp = 255 ∧ numeric) ∨ mal)) ∧
    ((blkStatus b).getLsbD 17 = true ↔ (fmt = 0x3F ∨ (sexp = 0 ∧ numeric ∧ ¬ mal))) ∧
    ((blkStatus b).getLsbD 16 = true ↔ (fmt = 1 ∧ (q4xSeq b).esc = true))) ∧
  (∀ (pf : PackFmt) (m : RMode) (sat esc : Bool) (template : Nat) (ws : List Word),
    let sexp := template / 256 % 256
    let sfrac := template / 64 % 4
    let b := packBlock pf m sat esc template ws
    let xs := (ws.take pf.count).map (fun w => quotient (scaleOf sexp sfrac) (fp32.decode w.toNat))
    let float (f : Fmt) : Prop := ∀ i, i < pf.count → blockElem b f.width i = f.conv m sat (xs.getD i (.zero false))
    let int (k : Nat) : Prop := ∀ i, i < pf.count →
      blockElem b k i = ((xs.getD i (.zero false)).toIntFmt m sat true k % 2 ^ k).toNat
    (sexp = 255 → b = BitVec.ofNat 512 (255 * 2 ^ 8 + pf.code)) ∧ (sexp = 0 → b = BitVec.ofNat 512 pf.code) ∧
    (ws.length = 16 * pf.regs → sexp ≠ 0 → sexp ≠ 255 →
      let r := codesFrom m sat esc xs 124 0
      (b.extractLsb' 0 16).toNat = (if pf = .q4x ∧ r.2 = true then 255 * 2 ^ 8 + 1 else sexp * 2 ^ 8 + sfrac * 2 ^ 6 + pf.code) ∧
      (match pf with
        | .q4x => ∀ i, i < 124 → blockElem b 4 i = r.1.getD i 0
        | .int4 => int 4
        | .int8 => int 8
        | .e4m3 => float e4m3
        | .e5m2 => float e5m2
        | .bf16 => float bf16))) ∧
  (∀ (m : RMode) (sat : Bool) (n : Nat) (b : Line),
    (decodeBlock b = none → unpackBlock m sat n b = none) ∧
    (∀ vs, decodeBlock b = some vs → ∃ ws, unpackBlock m sat n b = some ws ∧ ws.length = n ∧
      ∀ i, i < n → ws.getD i 0 = if i < vs.length then BitVec.ofNat 32 (fp32.conv m sat (vs.getD i .nan)) else 0)) ∧
  (∀ (b : Line) (k : Int) (sat : Bool),
    let sexp := (b.extractLsb' 8 8).toNat
    let fmt := (b.extractLsb' 0 6).toNat
    let new (e : Nat) : Line := (b &&& ~~~0xFF00#512) ||| BitVec.ofNat 512 (e * 2 ^ 8)
    (badFmt fmt → blkAdjust b k sat = none) ∧
    (¬ badFmt fmt → (fmt = 0x3F ∨ sexp = 0 ∨ sexp = 255) → blkAdjust b k sat = some b) ∧
    (¬ badFmt fmt → fmt ≠ 0x3F → sexp ≠ 0 → sexp ≠ 255 →
      (1 ≤ sexp + k → sexp + k ≤ 254 → blkAdjust b k sat = some (new (sexp + k).toNat)) ∧
      (254 < sexp + k → blkAdjust b k sat = some (new (if sat then 254 else 255))) ∧
      (sexp + k < 1 → blkAdjust b k sat = some (new (if sat then 1 else 0))))) ∧
  (∀ (pf : PackFmt) (ws : List Word),
    let xs := (ws.take pf.count).map (fun w => fp32.decode w.toNat)
    let t := fitTemplate pf ws
    let e := t / 2 ^ 8
    let f := t / 2 ^ 6 % 4
    let largest : Exact := match pf with
      | .e4m3 => ⟨448, 1, 0⟩
      | .e5m2 => ⟨57344, 1, 0⟩
      | .bf16 => ⟨255, 1, 120⟩
      | .int8 => ⟨127, 1, 0⟩
      | _ => ⟨7, 1, 0⟩
    let fits (sexp sfrac : Nat) : Prop := ∀ v, FVal.fin v ∈ xs → v.magLe ((scaleOf sexp sfrac).mul largest) = true
    t % 2 ^ 6 = pf.code ∧
    ((∃ v ∈ xs, v.isNan = true ∨ v.isInf = true) → e = 255 ∧ f = 0) ∧
    ((∀ v ∈ xs, v.isNan = false ∧ v.isInf = false) →
      ((∀ v, FVal.fin v ∉ xs) → e = 0 ∧ f = 0) ∧
      ((∃ v, FVal.fin v ∈ xs) → 1 ≤ e ∧ e ≤ 254 ∧ fits e f ∧
        ((e = 1 ∧ f = 0) ∨ ¬ (if f = 0 then fits (e - 1) 3 else fits e (f - 1))))))

/-- 03 R67: a block is decoded by the first matching row of the table; the header is that of 03 R65. -/
def Sys2Proof.Claims.blockDecoding : Prop :=
  ∀ b : Line,
    let sexp := (b.extractLsb' 8 8).toNat
    let sfrac := (b.extractLsb' 6 2).toNat
    let fmt := (b.extractLsb' 0 6).toNat
    (badFmt fmt → decodeBlock b = none) ∧
    (fmt = 0x3F → decodeBlock b = some (List.replicate 124 (.zero false))) ∧
    (¬ badFmt fmt → fmt ≠ 0x3F → sexp = 255 → decodeBlock b = some (List.replicate (fmtElems fmt) .nan)) ∧
    (fmt = 1 → sexp ≠ 255 → (q4xSeq b).mal = true → decodeBlock b = some (List.replicate 124 .nan)) ∧
    (¬ badFmt fmt → fmt ≠ 0x3F → sexp = 0 → ¬ (fmt = 1 ∧ (q4xSeq b).mal = true) →
      decodeBlock b = some (List.replicate (fmtElems fmt) (.zero false))) ∧
    (¬ badFmt fmt → fmt ≠ 0x3F → sexp ≠ 0 → sexp ≠ 255 → ¬ (fmt = 1 ∧ (q4xSeq b).mal = true) →
      decodeBlock b = some ((rawElems b fmt).map (fun v => match v with
        | .fin x => .fin ⟨x.num * (4 + sfrac : Nat), x.den, x.e + ((sexp : Int) - 129)⟩
        | v => v)))

/-- 06 R149, R150, R152 to R158: the block instructions (`blocks`), and what they compute (`blockRules`); 03 R65, R67: what a block decodes to (`blockDecoding`). That DETAIL of BLKHW.chk names the operand B is log entry 13, the model's choice. -/
def Obligations.BlockInstructions : Prop := Claims.blocks ∧ Claims.blockRules ∧ Claims.blockDecoding

/-! ## Control flow (group 0x0) -/

namespace Sys2Proof.Claims

open Sys2Proof.Machine

/-- The state with the threads of strand `k` changed one by one. -/
def withThreads (k : Nat) (f : Nat → Thread → Thread) (s : State) : State :=
  s.modStrand k (fun st => { st with threads := (List.range 16).map (fun t => f t (st.thread t)) })

/-- The threads `act` of a strand, each changed by `f`. -/
def onActive (y : Iss) (f : Nat → Thread → Thread) (s : State) : State :=
  withThreads y.k (fun t th => if y.act.contains t then f t th else th) s

/-- The target of format B: a signed number of lines from the line of the branch, and a slot (04 R93). -/
def target (pc : Pc) (off : BitVec 30) (slot : BitVec 3) : Pc :=
  (pc &&& 0xFFFFFFFFFFFFC0) + (off.signExtend 56) * 64 + slot.zeroExtend 56

/-- A target that a checked branch accepts: slot 0 to 4, its line fetched, the slot marked in TGT (04 R85). -/
def isTarget (s : State) (st : Strand) (pc : Pc) : Prop :=
  pc.toNat % 8 < 5 ∧ ∃ f, s.fetched st pc = some f ∧ f.data.getLsbD (pc.toNat % 8) = true

/-- The pair A of BRX or CALLX for a thread. -/
def regTarget (s : State) (y : Iss) (t : Nat) : Dword := (readThread s y t).a

/-- A register that may name a target: bits [63:56] and [5:3] zero (07 R160). -/
def plainTarget (v : Dword) : Prop := v.toNat < 2 ^ 56 ∧ v.toNat / 8 % 8 = 0

/-- A push of a return address; a lane that holds four entries spills its oldest (07 R161). -/
def pushed (ret : Pc) (th : Thread) : Thread :=
  { th with stack := th.stack.take th.depth ++ [ret], depth := th.depth + 1, inLane := min (th.inLane + 1) 4 }

/-- Strand `y.k` spills while any active thread held four entries in the lane: the oldest of them goes into the image (07 R161). -/
def spilling (y : Iss) (s : State) : State :=
  s.modStrand y.k (fun st => { st with stackBusy := y.act.any (fun t => (st.thread t).inLane == 4), image := spill y.act st })

/-- A pop that leaves a lane without entries of a thread that still has some starts a fill, and the strand is not ready meanwhile
(07 R161). -/
def filling (y : Iss) (s : State) : State :=
  s.modStrand y.k (fun st => { st with stackBusy := y.act.any (fun t => (y.st.thread t).inLane == 1 && decide (1 < (y.st.thread t).depth)) })

end Sys2Proof.Claims

/-- 07 R160, R161 and 02 R52, with 04 R84, R85, R93: the branches. Every active thread's PC becomes its target and the other
executing threads go on to next(pc), as `Performs` leaves them; a call pushes next(pc) and a return pops it. BPEND branches as its
test of the tags says. -/
def Sys2Proof.Claims.branches : Prop :=
  ∀ (h : Hdr) (a test : Opd) (off : BitVec 30) (slot : BitVec 3) (sense : Bool) (fmask : BitVec 12) (s s1 : State) (y : Iss),
    let there := target y.pc off slot
    let goTo (f : Nat → Pc) := onActive y (fun t th => { th with pc := f t })
    let callTo (f : Nat → Pc) (s : State) := onActive y (fun t th => { pushed (nextPc y.pc) th with pc := f t }) (spilling y s)
    let reg (t : Nat) : Pc := (regTarget s1 y t).truncate 56
    let regsOk := ∀ t ∈ y.act, plainTarget (regTarget s1 y t) ∧ isTarget s1 y.st (reg t)
    let shallow := ∀ t ∈ y.act, (y.st.thread t).depth < 64
    let tested : Bool :=
      (match test with
        | .v j => y.st.tagged (vecLoc j.val) y.t0
        | .u j => y.st.tagged (uniLoc j.val) y.t0
        | _ => false) ||
      (List.range 12).any (fun j => fmask.getLsbD j && (y.st.flagCount j y.t0 != 0 || y.st.residual (flagLoc j) y.t0))
    (Performs (.nop h) s y s1 → Completes (.nop h) s y s1) ∧
    (Performs (.bra h off slot) s y s1 → isTarget s1 y.st there → Completes (.bra h off slot) s y (goTo (fun _ => there) s1)) ∧
    (Performs (.brx h a) s y s1 → regsOk → Completes (.brx h a) s y (goTo reg s1)) ∧
    (Performs (.call h off slot) s y s1 → isTarget s1 y.st there → shallow →
      Completes (.call h off slot) s y (callTo (fun _ => there) s1)) ∧
    (Performs (.callx h a) s y s1 → regsOk → shallow → Completes (.callx h a) s y (callTo reg s1)) ∧
    (Performs (.ret h) s y s1 →
      (∀ t ∈ y.act, (y.st.thread t).depth ≠ 0 ∧ (y.st.thread t).inLane ≠ 0 ∧ (y.st.thread t).topPc.toNat % 8 < 5) →
      Completes (.ret h) s y (onActive y (fun t th =>
        { th with depth := th.depth - 1, inLane := th.inLane - 1, pc := (y.st.thread t).topPc }) (filling y s1))) ∧
    (Performs (.bpend h off slot test sense fmask) s y s1 → isTarget s1 y.st there →
      Completes (.bpend h off slot test sense fmask) s y (if tested = sense then s1 else goTo (fun _ => there) s1))

/-- 04 R85, 07 R160, R161: what a branch faults on. The first active thread whose target, push or pop fails is the thread of a
precise target fault (code 7, with the target as its address) or call-depth fault (code 9); no PC and no stack changes. -/
def Sys2Proof.Claims.branchFaults : Prop :=
  ∀ (h : Hdr) (a test : Opd) (off : BitVec 30) (slot : BitVec 3) (sense : Bool) (fmask : BitVec 12) (s s1 : State) (y : Iss),
    let there := target y.pc off slot
    let faults (i : Instr) (f : Flt) : Prop := exec i s = .next (commit s.mem (s.preciseFault y.k f y.pc y.exm y.act))
    let unmarked (pc : Pc) : Prop := ∃ f, s1.fetched y.st pc = some f ∧ f.data.getLsbD (pc.toNat % 8) = false
    (∀ i ∈ [Instr.bra h off slot, .call h off slot, .bpend h off slot test sense fmask], Performs i s y s1 →
      (5 ≤ there.toNat % 8 ∨ unmarked there) → faults i { cause := 7, addr := there.toNat, lowt := y.lead }) ∧
    (∀ i ∈ [Instr.brx h a, .callx h a], Performs i s y s1 → ∀ pre t post, y.act = pre ++ t :: post →
      let v := regTarget s1 y t
      (∀ u ∈ pre, plainTarget (regTarget s1 y u)) →
      (¬ plainTarget v → faults i { cause := 7, addr := v.toNat, lowt := t }) ∧
      ((∀ u ∈ y.act, plainTarget (regTarget s1 y u)) → (∀ u ∈ pre, (regTarget s1 y u).toNat % 8 < 5) → 5 ≤ v.toNat % 8 →
        faults i { cause := 7, addr := v.toNat, lowt := t }) ∧
      ((∀ u ∈ y.act, plainTarget (regTarget s1 y u) ∧ (regTarget s1 y u).toNat % 8 < 5) →
        (∀ u ∈ pre, isTarget s1 y.st ((regTarget s1 y u).truncate 56)) → unmarked (v.truncate 56) →
        faults i { cause := 7, addr := v.toNat, lowt := t })) ∧
    (Performs (.call h off slot) s y s1 → isTarget s1 y.st there → ∀ pre t post, y.act = pre ++ t :: post →
      (∀ u ∈ pre, (y.st.thread u).depth < 64) → 64 ≤ (y.st.thread t).depth → faults (.call h off slot) { cause := 9, lowt := t }) ∧
    (Performs (.ret h) s y s1 → ∀ pre t post, y.act = pre ++ t :: post →
      ((∀ u ∈ pre, (y.st.thread u).depth ≠ 0) → (y.st.thread t).depth = 0 → faults (.ret h) { cause := 9, lowt := t }) ∧
      ((∀ u ∈ y.act, (y.st.thread u).depth ≠ 0 ∧ (y.st.thread u).inLane ≠ 0) → (∀ u ∈ pre, (y.st.thread u).topPc.toNat % 8 < 5) →
        5 ≤ (y.st.thread t).topPc.toNat % 8 → faults (.ret h) { cause := 7, addr := (y.st.thread t).topPc.toNat, lowt := t }))

/-- 07 R160, R161 and 02 R52, with 04 R84, R85, R93: branches, calls and returns (`branches`), and what they fault on (`branchFaults`). -/
def Obligations.Branching : Prop := Claims.branches ∧ Claims.branchFaults

namespace Sys2Proof.Claims

open Sys2Proof.Machine

/-- What a thread that exits is: its return stack is discarded (07 R161, R162). -/
def exited (th : Thread) : Thread :=
  { th with st := .exited, park := .none, psel := 0, parg := 0, ptxn := 0, stack := [], depth := 0, inLane := 0 }

/-- The mode word after MODE: the fields that SEL names take IMM32's bits (07 R169, R170). -/
def modeAfter (old imm : Word) (sel : BitVec 5) : Word :=
  BitVec.ofFnLE (fun i : Fin 32 =>
    let named := (i.val = 15 ∧ sel.getLsbD 0) ∨ (i.val = 14 ∧ sel.getLsbD 1) ∨ (8 ≤ i.val ∧ i.val ≤ 13 ∧ sel.getLsbD 2) ∨
      (16 ≤ i.val ∧ i.val ≤ 18 ∧ sel.getLsbD 3) ∨ (i.val = 19 ∧ sel.getLsbD 4)
    if named then imm.getLsbD i else old.getLsbD i)

end Sys2Proof.Claims

/-- 07 R162 to R165, R169 to R171 (with 13 R282 to R284): the instructions about a strand itself. EXIT ends the active threads and,
with the last one, the strand, which waits for what its mallet holds back. A fifth band, and leaving a band that the strand is not in or
whose barrier threads of it wait for, are the band fault. What `strandEnd`, `saveStrand`, `leaveBand` and `joinBand` do is in
`StrandLife`. -/
def Sys2Proof.Claims.strandControl : Prop :=
  ∀ (h : Hdr) (d a : Opd) (key : BitVec 4) (imm : Word) (sel : BitVec 5) (s s1 : State) (y : Iss),
    let gone := onActive y (fun _ => exited) s1
    let last (s : State) : Prop := ∃ st, s.strand y.k = some st ∧ ∀ th ∈ st.threads, th.st = .exited
    let bandId (s : State) := BitVec.ofNat 32 (s.bandOf y.st.launch key.toNat).bid
    let joined := joinBand y.k y.st.launch key.toNat s1
    let bandFault (i : Instr) : Prop :=
      exec i s = .next (commit s.mem (s.preciseFault y.k { cause := 0x0A, lowt := y.lead } y.pc y.exm y.act))
    (Performs (.exit h) s y s1 →
      (¬ last gone → Completes (.exit h) s y gone) ∧
      (last gone → mayEnd gone y.k = true → Completes (.exit h) s y (strandEnd y.k gone)) ∧
      (last gone → mayEnd gone y.k = false → exec (.exit h) s = .next s)) ∧
    (Performs (.yield h) s y s1 → Completes (.yield h) s y (if y.st.knell then saveStrand y.k s1 else s1)) ∧
    (Performs (.idem h) s y s1 →
      Completes (.idem h) s y (s1.modStrand y.k (fun st => { st with region := st.threads.map (fun th => th.record y.t0) }))) ∧
    (Performs (.nap h a imm) s y s1 → Completes (.nap h a imm) s y (onActive y (fun t th =>
      { th with st := .parked, park := .nap, psel := 0, ptxn := 0
                parg := y.cyc t + max 1 (imm.toNat + (readThread s1 y t).aw.toNat) }) s1)) ∧
    (Performs (.mode h d sel imm) s y s1 →
      Completes (.mode h d sel imm) s y (writeRows y [(y.lead, one y.st.modew)]
        (s1.modStrand y.k (fun st => { st with modew := modeAfter st.modew imm sel })))) ∧
    (Performs (.join h d key) s y s1 →
      (key.toNat ∈ y.st.bands → Completes (.join h d key) s y (writeRows y [(y.lead, one (bandId s1))] s1)) ∧
      (key.toNat ∉ y.st.bands → y.st.bands.length < 4 →
        Completes (.join h d key) s y (writeRows y [(y.lead, one (bandId joined))] joined)) ∧
      (key.toNat ∉ y.st.bands → 4 ≤ y.st.bands.length → bandFault (.join h d key))) ∧
    (Performs (.leave h key) s y s1 → key.toNat ∈ y.st.bands →
      (∀ th ∈ y.st.threads, ¬ (th.st = .parked ∧ th.park = .barw ∧ th.psel = key.toNat)) →
      Completes (.leave h key) s y (leaveBand y.k key.toNat s1)) ∧
    (Performs (.leave h key) s y s1 →
      (key.toNat ∉ y.st.bands ∨ ∃ th ∈ y.st.threads, th.st = .parked ∧ th.park = .barw ∧ th.psel = key.toNat) →
      bandFault (.leave h key))

/-- 07 R162, R171 with 13 R282 to R284, 15 R316 and 17 R337: what joining and leaving a band, the end of a strand and its save do. The
first member of a band creates it, with its identifier and a fresh record; a band with no member left is dissolved, and keeps the
number of its creations. A strand that ends gives up its bands, its shared ranges, its watch slots, its register lines and the mallet; it
may not while it holds the mallet and a store or an atomic that it sent to an SHB page is not performed. -/
def Sys2Proof.Claims.strandLife : Prop :=
  ∀ (s : State) (k launch key : Nat) (st : Strand) (l : Launch), s.strand k = some st → st.launch = launch →
    aget s.launches launch = some l →
    let b := s.bandOf launch key
    (let t := joinBand k launch key s
     t.bandOf launch key = (if b.members = [] then { inc := b.inc + 1, bid := b.inc % 2 ^ 27 * 2 ^ 4 + key, members := [k] }
       else { b with members := b.members ++ [k] }) ∧
     (∀ m, m ≠ key → t.bandOf launch m = s.bandOf launch m) ∧ (t.strand k).map (fun x => x.bands) = some (st.bands ++ [key])) ∧
    (let t := leaveBand k key s
     let ms := b.members.filter (fun m => m != k)
     t.bandOf launch key = (if ms = [] then { inc := b.inc } else { b with members := ms }) ∧
     (∀ m, m ≠ key → t.bandOf launch m = s.bandOf launch m) ∧
     (t.strand k).map (fun x => (x.bands, x.shr)) = some (st.bands.filter (fun m => m != key), st.shr.filter (fun r => r.key != key))) ∧
    (let t := strandEnd k s
     (st.watch.length = 4 → ∃ x, t.strand k = some x ∧ x.status = .ended ∧ x.bands = [] ∧ x.shr = [] ∧ x.ents = [] ∧ x.hold = false ∧
       ∀ w ∈ x.watch, w.st = .disarmed) ∧
     (∀ m ∈ st.bands, k ∉ (t.bandOf launch m).members) ∧ (∀ m, aget t.launches launch = some m → k ∉ m.live) ∧
     (∀ h ∈ (t.lane st.laneId).lines, h.strand ≠ k) ∧
     (st.hold = true → ∀ sid k', nextHolder (liveSids s l) st.sid = some (sid, k') → k' ≠ k → (s.strand k').isSome = true →
       (∃ x, t.strand k' = some x ∧ x.hold = true) ∧ ∃ m, aget t.launches launch = some m ∧ m.mallet = some sid)) ∧
    (mayEnd s k = false ↔ (st.hold = true ∧ ∃ o ∈ s.ops, o.2.strand = k ∧ o.2.shb = true ∧ ¬ (o.2.stage = .applied ∧ o.2.acks = []))) ∧
    (let t := saveStrand k s
     (∃ x, t.strand k = some x ∧ x.status = .saved ∧ (st.shr = [] → x.image = st.saveImage s (s.cycle st.part))) ∧
     (∀ h ∈ t.homes, ∀ e ∈ h.2.table, e.strand ≠ some k) ∧ (∀ h ∈ (t.lane st.laneId).lines, h.strand = k → h.evictable = true))

/-- 07 R162 to R165, R169 to R171: the instructions about a strand itself (`strandControl`); with 13 R282 to R284, 15 R316, 17 R337: joining, leaving, ending and saving (`strandLife`). -/
def Obligations.StrandControl : Prop := Claims.strandControl ∧ Claims.strandLife

/-! ## Memory instructions (groups 0x7, 0x8) -/

namespace Sys2Proof.Claims

open Sys2Proof.Machine

/-- The address of format M for a thread: base, index times a power of two, and a signed offset (04 R93). Base and index are the last
two sources, after the data where that is one (02 R59). -/
def address (s : State) (y : Iss) (m : Addr) (t : Nat) : Dword :=
  let r := readThread s y t
  let base := if y.sh.srcs.length = 3 then r.b else r.a
  let index := if y.sh.srcs.length = 3 then r.cw else r.bw
  base + (index.signExtend 64 <<< m.sc.toNat) + m.off.signExtend 64

/-- What the checks of 08 R191 give an access: the key of its first byte, the page's leaf (none in the scratchpad window), and the
tile of the window. -/
structure Spot where
  key : Nat
  leaf : Option Dword
  tile : Nat

def Spot.page (w : Spot) (f : Dword → Bool) : Bool := (w.leaf.map f).getD false

/-- The operation that one access puts on its way to its home (10 R240, 08 R193). -/
def opOf (s : State) (y : Iss) (n : Nat) (sp : OpSpec) (t : Nat) (va : Dword) (w : Spot) (val : BitVec 512) (exp : Dword) : Op :=
  { txn := n, strand := y.k, gen := y.st.gen, ctx := y.st.ctx, tile := y.st.tile, thread := t, pc := y.pc
    va := va.toNat, addr := w.key, home := homeOf y.st.part w.tile w.key, size := sp.size, ty := sp.ty, opr := sp.opr
    val := val, exp := exp, fetch := sp.fetch, ret := sp.fetch, block := sp.block
    fixed := sp.block || y.st.det || w.page (fun l =>
      leafNoAlg l || leafHost l || decide (2 ^ 43 ≤ w.key % 2 ^ 45) || w.key / 2 ^ 45 != y.st.part.pkg)
    alloc := sp.alloc && !w.page leafTso, low := sp.low, agen := (s.ctx y.st.ctx).gen
    acq := sp.acq || (w.page leafTso && sp.fetch), rel := sp.rel || (w.page leafTso && (sp.opr != 0 || sp.atom))
    scope := if w.page leafTso then .sys else sp.scope, atom := sp.atom
    shb := y.st.det && w.page leafShb && (sp.opr != 0 || sp.atom)
    fenced := y.st.fenced, dst := sp.dst, stage := .mesh }

/-- A store or an atomic of the strand in `s`: a release at its own scope, where it is one, and at those of the release fences since the
strand's last write; it carries the writes that happen before it and are not performed everywhere (10 R251, R252). -/
def released (s : State) (y : Iss) (o : Op) : Op :=
  match s.strand y.k with
  | none => o
  | some st =>
    let rels := (if o.rel then [o.scope] else []) ++ st.relFences
    if rels = [] then o else { o with rels := rels, band := st.band, before := s.pendingBefore y.k }

/-- An operation leaves the lane; a store or an atomic drops the tile's copy of its line, and the release fences count for it alone. -/
def sendOp (y : Iss) (s : State) (o : Op) : State :=
  if o.opr = 0 ∧ o.atom = false then { s with uid := s.uid + 1, ops := s.ops ++ [(s.uid + 1, o)] }
  else
    let s2 := (s.modTile y.st.tileId (fun t => { t with copies := adel t.copies (lineKey o.addr) })).modStrand y.k (fun st =>
      { st with relFences := [] })
    { s2 with uid := s.uid + 1, ops := s.ops ++ [(s.uid + 1, released s y o)] }

/-- The operations of an instruction leave in order of threads, under one transaction, which counts them (01 R23, 08 R193). -/
def sendOps (y : Iss) (s : State) (sp : OpSpec) (os : List Op) : State := os.foldl (sendOp y) (openTxn y os.length sp.dst s).2

/-- A load whose value is there at once: an operation that has been applied, and the result on its way (10 R240). -/
def servedNow (o : Op) (words : List (Nat × Word)) (s : State) : State :=
  ({ s with uid := s.uid + 1, ops := s.ops ++ [(s.uid + 1, { o with stage := .applied })] } : State).send (.result o.txn (s.uid + 1) words)

/-- The scope of an atomic (08 R200). -/
def atomScope (am : AtomMod) : Scope :=
  if am.scp = 0 then .pkg else if am.scp = 1 then .band else if am.scp = 2 then .dom else .sys

/-- Nothing of the strand keeps an operation back that is ready to issue (which `Performs` says: no fence is unfinished, no acquire has
still to return, and no BARW still to complete, 08 R203, 10 R250, 13 R291): for a release at scope `sc`, everything earlier is performed
there, and for a store or an atomic to a page with total store order, at system scope (10 R251, R259). -/
def mayLeave (s : State) (y : Iss) (release : Bool) (sc : Scope) (tso : Bool) : Prop :=
  (release = true → relGate s y sc y.st.band = true) ∧ (tso = true → relGate s y .sys none = true)

/-- The mallet lets the strand write to a page with SHB (15 R317). -/
def mayWrite (y : Iss) (w : Spot) : Prop := ¬ (y.st.det = true ∧ w.page leafShb = true ∧ y.st.hold = false)

end Sys2Proof.Claims

/-- 08 R190 to R198 and 04 R93: every access of a load or a store goes to its home as one operation, made of the address of its
thread, which the checks of R191 have let pass, but for a load that a copy of the tile serves (`hit`: `LocalAccesses` says when). LDB and
STB move one line, and a store's data are the low bytes of its operand. `pl` is what the checks give each thread. -/
def Sys2Proof.Claims.loadsAndStores : Prop :=
  ∀ (h : Hdr) (d : Opd) (m : Addr) (ty : Ty) (mm : MemMod) (s s1 : State) (y : Iss) (pl : Nat → Spot),
    let va := address s1 y m
    let passes (need : Need) (size : Nat) (ts : List Nat) : Prop := ∀ t ∈ ts,
      checkAddr s1 y.st need (va t) size = .at_ (.mem (pl t).key (pl t).leaf (pl t).tile)
    let absent (ts : List Nat) : Prop := ∀ t ∈ ts, aget (s1.tile y.st.tileId).copies (lineKey (pl t).key) = none
    let leaves (ts : List Nat) : Prop := mayLeave s1 y (mm.ord == 2) mm.scope (ts.any (fun t => (pl t).page leafTso))
    let go (sp : OpSpec) (ts : List Nat) (val : Nat → BitVec 512) :=
      sendOps y s1 sp (ts.map (fun t => opOf s1 y (s1.uid + 1) sp t (va t) (pl t) (val t) 0))
    let load : OpSpec := { size := memSize ty, ty := ty, opr := 0, fetch := true, alloc := mm.cp != 2, low := mm.cp == 1, acq := mm.ord == 1
                           scope := mm.scope, dst := d }
    let store : OpSpec := { size := memSize ty, ty := ty, opr := 1, fetch := false, rel := mm.ord == 2, scope := mm.scope }
    let data (t : Nat) : BitVec 512 := BitVec.ofNat 512 ((readThread s1 y t).a.toNat % 2 ^ (8 * memSize ty))
    let block := lineOfWords (lineIn s1 y (Opd.num d))
    let typed := ty ≠ .i32
    (∀ i ∈ [Instr.ld h d m ty mm, .ldu h d m ty mm], Performs i s y s1 → passes .rd (memSize ty) y.poppers →
      Completes i s y (y.poppers.foldl (fun s t =>
        let o := opOf s1 y (s1.uid + 1) load t (va t) (pl t) 0 0
        match s.hit y o with
        | some c => servedNow o (resultWords d (memSize ty == 8) [t]
            (loadValue ty (c.data.toNat / 2 ^ (8 * ((pl t).key % 64)) % 2 ^ (8 * memSize ty))))
            (s.sees y.k 0 (if o.acq then some o.scope else none) (pl t).key (memSize ty))
        | none => sendOp y s o) (openTxn y y.poppers.length d s1).2)) ∧
    (∀ i ∈ [Instr.st h d m ty mm, .stu h d m ty mm], Performs i s y s1 → passes .w (memSize ty) y.poppers →
      (∀ t ∈ y.poppers, mayWrite y (pl t)) → leaves y.poppers → Completes i s y (go store y.poppers data)) ∧
    (Performs (.ldb h d m ty mm) s y s1 → passes .rd 64 [y.lead] → absent [y.lead] →
      (typed → ∀ l, (pl y.lead).leaf = some l → leafBlk l = true) →
      Completes (.ldb h d m ty mm) s y (go { load with size := 64, block := true } [y.lead] (fun _ => 0))) ∧
    (Opd.isVec d = true → Performs (.stb h d m ty mm) s y s1 → passes .w 64 [y.lead] → mayWrite y (pl y.lead) →
      (typed → (∀ l, (pl y.lead).leaf = some l → leafBlk l = true) ∧ blkAccepts ty (block.toNat % 64) = true) →
      leaves [y.lead] →
      Completes (.stb h d m ty mm) s y (go { store with size := 64, block := true } [y.lead] (fun _ => block)))

/-- 10 R240 to R242, R248 and 17 R336: a load by one thread is served from the tile's copy where the tile may copy the line, holds a
copy and the strand has nothing on its way to the line, as the model chooses where R242 only permits it (log entry 19); the strand's own image, where it may be accessed, is read and written in
place. -/
def Sys2Proof.Claims.localAccesses : Prop :=
  ∀ (h : Hdr) (d : Opd) (m : Addr) (ty : Ty) (mm : MemMod) (s s1 : State) (y : Iss) (t : Nat) (w : Spot) (c : Copy) (off : Nat),
    let va := address s1 y m t
    let s2 := (openTxn y 1 d s1).2
    let load : OpSpec := { size := memSize ty, ty := ty, opr := 0, fetch := true, alloc := mm.cp != 2, low := mm.cp == 1, acq := mm.ord == 1
                           scope := mm.scope, dst := d }
    let words (v : Nat) := resultWords d (memSize ty == 8) [t] (loadValue ty v)
    let value := c.data.toNat / 2 ^ (8 * (w.key % 64)) % 2 ^ (8 * memSize ty)
    y.poppers = [t] →
    (∀ i ∈ [Instr.ld h d m ty mm, .ldu h d m ty mm], Performs i s y s1 →
      (checkAddr s1 y.st .rd va (memSize ty) = .at_ (.mem w.key w.leaf w.tile) → mm.cp ≠ 2 → w.page leafTso = false →
        cacheable y.st.part.pkg w.key = true → aget (s1.tile y.st.tileId).copies (lineKey w.key) = some c →
        (∀ o ∈ s1.ops, o.2.txn ≠ s1.uid + 1 ∧ ¬ (o.2.strand = y.k ∧ lineKey o.2.addr = lineKey w.key ∧ o.2.stage ≠ .applied)) →
        Completes i s y (servedNow (opOf s1 y (s1.uid + 1) load t va w 0 0) (words value)
          (s2.sees y.k 0 (if mm.ord = 1 then some mm.scope else none) w.key (memSize ty)))) ∧
      (checkAddr s1 y.st .rd va (memSize ty) = .at_ (.image off) →
        Completes i s y (servedNow { opOf s1 y (s1.uid + 1) load t va ⟨0, none, 0⟩ 0 0 with agen := 0 }
          (words (imageGet y.st.image (memSize ty) off)) s2))) ∧
    (∀ i ∈ [Instr.st h d m ty mm, .stu h d m ty mm], Performs i s y s1 →
      mayLeave s1 y (mm.ord == 2) mm.scope false → checkAddr s1 y.st .w va (memSize ty) = .at_ (.image off) →
      let bytes := (readThread s1 y t).a.toNat % 2 ^ (8 * memSize ty)
      Completes i s y (((openTxn y 1 .zero s1).2.modStrand y.k
        (fun st => { st with image := imagePut st.image (memSize ty) off bytes })).send (.result (s1.uid + 1) 0 [])))

/-- 08 R190 to R198 and 04 R93: loads and stores (`loadsAndStores`); 10 R242, R248 and 17 R336: what is served in the tile, which is log entry 19, or in the image of the strand (`localAccesses`). -/
def Obligations.LoadsAndStores : Prop := Claims.loadsAndStores ∧ Claims.localAccesses

/-- 08 R200 to R202: an atomic puts one operation per thread on its way, with its operator, its operand of one or two words and,
for CAS, what it compares with. One that returns a value needs to read and to write its page, RED to write it (17 R339). -/
def Obligations.Atomics : Prop :=
  ∀ (h : Hdr) (d : Opd) (m : Addr) (ty : Ty) (opc : BitVec 4) (am : AtomMod) (s s1 : State) (y : Iss) (pl : Nat → Spot),
    let va := address s1 y m
    let n := if memSize ty = 8 then 2 else 1
    let passes (need : Need) : Prop := ∀ t ∈ y.poppers,
      checkAddr s1 y.st need (va t) (memSize ty) = .at_ (.mem (pl t).key (pl t).leaf (pl t).tile) ∧ mayWrite y (pl t)
    let leaves : Prop := mayLeave s1 y (am.ord == 2 || am.ord == 3) (atomScope am) (y.poppers.any (fun t => (pl t).page leafTso))
    let spec (o : Nat) (fetch : Bool) : OpSpec :=
      { size := memSize ty, ty := ty, opr := o, fetch := fetch, acq := am.ord == 1 || am.ord == 3, rel := am.ord == 2 || am.ord == 3
        scope := atomScope am, atom := true, dst := if fetch then d else .zero }
    let go (sp : OpSpec) (val : Nat → BitVec 512) (exp : Nat → Dword) :=
      sendOps y s1 sp (y.poppers.map (fun t => opOf s1 y (s1.uid + 1) sp t (va t) (pl t) (val t) (exp t)))
    let data (t : Nat) : BitVec 512 := BitVec.ofNat 512 (dataWords s1 y t 0 n)
    (Performs (.atom h d m ty opc am) s y s1 → passes .rdw → leaves →
      Completes (.atom h d m ty opc am) s y (go (spec opc.toNat true) data (fun _ => 0))) ∧
    (Performs (.red h d m ty opc am) s y s1 → passes .red → leaves →
      Completes (.red h d m ty opc am) s y (go (spec opc.toNat false) data (fun _ => 0))) ∧
    (Performs (.cas h d m ty am) s y s1 → passes .rdw → leaves →
      Completes (.cas h d m ty am) s y (go (spec 15 true) (fun t => BitVec.ofNat 512 (dataWords s1 y t n n))
        (fun t => BitVec.ofNat 64 (dataWords s1 y t 0 n))))

/-- 08 R199, R203 to R205: cache lines, fences and the algebra table. A prefetch asks for each line that the tile lacks; CWB and CINV
answer for each thread; a fence waits for the operations and messages it orders; ALGLD installs a table that the checks of 11 R269
let pass, under the next generation, and refuses another; what its read meets in a buffer or in an error is reported as an imprecise
fault (08 R192, R211). -/
def Sys2Proof.Claims.fencesAndTables : Prop :=
  ∀ (h : Hdr) (d a : Opd) (m : Addr) (cp : Bool) (ord : BitVec 2) (scope : Scope) (s s1 : State) (y : Iss) (pl : Nat → Spot),
    let va := address s1 y m
    let n := s1.uid + 1
    let opened (dst : Opd) := (openTxn y 1 dst s1).2
    let lines (drop : Bool) (i : Instr) : Prop := Performs i s y s1 →
      (∀ t ∈ y.poppers, checkAddr s1 y.st .rd (va t) 1 = .at_ (.mem (pl t).key (pl t).leaf (pl t).tile)) →
      Completes i s y (y.poppers.foldl (fun s t =>
        let line := lineKey (pl t).key
        match (pl t).leaf, aget (s.tile y.st.tileId).copies line with
        | some _, some c =>
          if c.modified then s.send (.writeback n y.st.tileId line drop)
          else (if drop then s.modTile y.st.tileId (fun x => { x with copies := adel x.copies line }) else s).send (.result n 0 [])
        | _, _ => s.send (.result n 0 [])) (openTxn y y.poppers.length .zero s1).2)
    let ops := s1.ops.filter (fun o => o.2.strand == y.k)
    let reads := (ops.filter (fun o => o.2.ret)).map (fun o => o.1)
    let seen := ((s1.strand y.k).map (fun st => st.seen.map (fun r => r.2))).getD []
    let status (gen : Nat) (rest : Nat) : Word := BitVec.ofNat 32 (gen * 4 + y.st.det.toNat * 2 + rest)
    let table := tableAt s1 (pl y.lead).key
    let words (v : Word) := resultWords d false y.act (v.zeroExtend 64)
    let ctx := s1.ctx y.st.ctx
    (Performs (.pref h m cp) s y s1 →
      Completes (.pref h m cp) s y (y.poppers.foldl (fun s t => prefetch y cp s (va t)) s1)) ∧
    lines false (.cwb h m) ∧ lines true (.cinv h m) ∧
    (Performs (.fence h ord scope) s y s1 →
      Completes (.fence h ord scope) s y (((opened .zero).modStrand y.k (fun st => { st with
        fenced := st.fenced + 1
        fences := st.fences ++ [(n, ⟨ord, scope, if ord ≠ 0 ∧ Scope.alone y.st.band scope = false then
          ops.map (fun o => o.1) ++ seen ++ s1.barMsgs y.k ++ s1.armMsgs y.k else reads⟩)]
        relFences := if ord = 0 then st.relFences else st.relFences ++ [scope] })).send (.result n 0 []))) ∧
    (Performs (.algld h d m) s y s1 → checkAddr s1 y.st .rd (va y.lead) 128 = .at_ (.mem (pl y.lead).key (pl y.lead).leaf (pl y.lead).tile) →
      storesAccepted s1 y.k (pl y.lead).key 128 = true → genFree s1 y.st.ctx = true →
      (∀ s2, pairRead y (pl y.lead).tile (pl y.lead).key s1 = some (s2, none) →
        let line := lineKey (pl y.lead).key
        let sees := ((s2.dropOlder y.st.tileId line).dropOlder y.st.tileId (line + 64)).sees y.k 0 none (pl y.lead).key 128
        let new := sees.modCtx y.st.ctx (fun c => c.install table)
        (algCheck table = none → Completes (.algld h d m) s y ((openTxn y 1 d new).2.send
          (.result (s2.uid + 1) 0 (words (status (new.ctx y.st.ctx).gen 0))))) ∧
        (∀ p b, algCheck table = some (p, b) → Completes (.algld h d m) s y ((openTxn y 1 d sees).2.send
          (.result (s2.uid + 1) 0 (words (status (sees.ctx y.st.ctx).gen (1 + p * 2 ^ 8 + b * 2 ^ 16))))))) ∧
      (∀ s2 f, pairRead y (pl y.lead).tile (pl y.lead).key s1 = some (s2, some f) → Completes (.algld h d m) s y
        ((openTxn y 1 d s2).2.send (.faultReport y.k y.pc { f with addr := (va y.lead).toNat, lowt := y.lead } (s2.uid + 1))))) ∧
    (Performs (.algrd h d a) s y s1 →
      let j := (readThread s1 y y.lead).a.toNat
      Completes (.algrd h d a) s y ((opened d).send (.result n 0 (words
        (if j < 32 then ctx.table.extractLsb' (32 * j) 32 else if j = 32 then BitVec.ofNat 32 (ctx.gen + y.st.det.toNat * 2 ^ 4) else 0))))) ∧
    (Performs (.algclr h) s y s1 → storesAccepted s1 y.k 0 0 = true → genFree s1 y.st.ctx = true →
      Completes (.algclr h) s y (((opened .zero).modCtx y.st.ctx (fun c => c.install 0)).send (.result n 0 [])))

/-- 08 R191, with 17 R336: the checks of an address in their order, and what a load or store that fails one comes to: a precise
fault of the lowest thread that fails, with nothing sent. -/
def Sys2Proof.Claims.addressChecks : Prop :=
  (∀ (s : State) (st : Strand) (need : Need) (va : Dword) (size : Nat),
    let v := va.toNat
    let r := checkAddr s st need va size
    let tiles := (s.part st.part).tiles
    (2 ^ 56 ≤ v → r = .stop 0x0E) ∧
    (v < 2 ^ 56 → v % size ≠ 0 → r = .stop 0x0D) ∧
    (v % size = 0 → 0xFF000000000000 + 2 ^ 23 * tiles ≤ v → v < 2 ^ 56 → r = .stop 0x0E) ∧
    (v % size = 0 → 0xFF000000000000 ≤ v → v < 0xFF000000000000 + 2 ^ 23 * tiles → v < 2 ^ 56 →
      r = .at_ (.mem (scratchKey st.part.pkg (s.part st.part) ((v - 0xFF000000000000) / 2 ^ 23) ((v - 0xFF000000000000) % 2 ^ 23))
        none ((v - 0xFF000000000000) / 2 ^ 23))) ∧
    (v % size = 0 → 0xFE000000000000 ≤ v → v < 0xFF000000000000 →
      let off := v - 0xFE000000000000
      r = if st.priv = true ∧ ((need = .rd ∧ off + size ≤ 0x580) ∨ (need = .w ∧ 0x240 ≤ off ∧ off + size ≤ 0x340)) then
        .at_ (.image off) else .stop 0x0E) ∧
    (v % size = 0 → v < 0xFE000000000000 → s.tlbFind st.tileId st.ctx v = none → r = .walk v) ∧
    (∀ e, v % size = 0 → v < 0xFE000000000000 → s.tlbFind st.tileId st.ctx v = some e →
      r = if permits e.leaf need then .at_ (.mem (leafKey s st.part.pkg e.leaf (v % 2 ^ e.log)) (some e.leaf) st.tile) else .stop 0x10)) ∧
  (∀ (h : Hdr) (d : Opd) (m : Addr) (ty : Ty) (mm : MemMod) (s s1 : State) (y : Iss) (pre post : List Nat) (t cause : Nat),
    let va := address s1 y m
    ∀ p ∈ [(Instr.ld h d m ty mm, Need.rd), (.ldu h d m ty mm, .rd), (.st h d m ty mm, .w), (.stu h d m ty mm, .w)],
      Performs p.1 s y s1 → y.poppers = pre ++ t :: post →
      (∀ u ∈ pre, ∃ q, checkAddr s1 y.st p.2 (va u) (memSize ty) = .at_ q ∧
        (p.2 = .w → ∀ key leaf tile, q = .mem key leaf tile → mayWrite y ⟨key, leaf, tile⟩)) →
      checkAddr s1 y.st p.2 (va t) (memSize ty) = .stop cause →
      exec p.1 s = .next (commit s.mem (s.preciseFault y.k { cause := cause, addr := (va t).toNat, lowt := t } y.pc y.exm y.act)))

/-- 08 R199, R203 to R205, 11 R269: cache lines, fences and the algebra table (`fencesAndTables`); 08 R191 with 17 R336: the checks of an address (`addressChecks`). -/
def Obligations.FencesTablesAndChecks : Prop := Claims.fencesAndTables ∧ Claims.addressChecks

/-! ## Synchronisation (group 0x9) -/

namespace Sys2Proof.Claims

open Sys2Proof.Machine

/-- A barrier message of the strand for the band with a key: it carries the band's identity, so that it does nothing to a later
band of that key (13 R282, R288). -/
def barrier (y : Iss) (s : State) (key txn n : Nat) (kind : BarKind) : State :=
  s.send (.bar ⟨y.st.launch, key⟩ txn y.k n kind y.pc y.lead (s.bandOf y.st.launch key).bid)

/-- The active threads park with a condition; their PCs stand at next(pc). -/
def parked (y : Iss) (why : Park) (sel arg txn : Nat) (s : State) : State :=
  onActive y (fun _ th => { th with st := .parked, park := why, psel := sel, parg := arg, ptxn := txn }) s

/-- The strand issues nothing until a transaction completes. -/
def held (y : Iss) (txn : Nat) (s : State) : State := s.modStrand y.k (fun st => { st with holdTxn := some txn })

/-- The number of the next transaction, and the state with one opened for a destination. -/
def opened (y : Iss) (d : Opd) (s : State) : State := (openTxn y 1 d s).2

end Sys2Proof.Claims

/-- 07 R173, 13 R287 to R291: the barrier instructions of a member of the band send one message to the band's record. BARI carries the
expected count, BARA, BARW and BARD the number of active threads; an arrival is a release at the scope of the barrier, and waits for
what comes before it (13 R291), of which it carries the writes that are not performed everywhere. A strand that is no member of the band,
and a BARI of a count out of range, take the band fault. BARI, BARQ and a BARA with a destination hold the strand until
they are answered, and BARW parks its threads. -/
def Obligations.Barriers : Prop :=
  ∀ (h : Hdr) (d a : Opd) (key : BitVec 4) (dom : Bool) (s s1 : State) (y : Iss),
    let n := s1.uid + 1
    let cnt := y.act.length
    let send (txn n : Nat) (kind : BarKind) (s : State) := barrier y s key.toNat txn n kind
    let count := (readThread s1 y y.lead).a.toNat
    let released : Prop := relGate s1 y (if (s1.bandOf y.st.launch key.toNat).dom then .dom else .band) (some key.toNat) = true
    let before := s1.pendingBefore y.k
    let fault (i : Instr) : Prop :=
      exec i s = .next (commit s.mem (s.preciseFault y.k { cause := 0x0A, lowt := y.lead } y.pc y.exm y.act))
    let member := key.toNat ∈ y.st.bands
    (∀ i ∈ [Instr.bari h a key dom, .bara h d key, .barw h d key, .bard h key, .barq h d key], Performs i s y s1 → ¬ member → fault i) ∧
    (∀ i ∈ [Instr.bara h d key, .barw h d key, .bard h key], Performs i s y s1 → member → ¬ released → exec i s = .next s) ∧
    (Performs (.bari h a key dom) s y s1 → member → (count = 0 ∨ 2 ^ 24 ≤ count) → fault (.bari h a key dom)) ∧
    (Performs (.bari h a key dom) s y s1 → member → count ≠ 0 → count < 2 ^ 24 →
      Completes (.bari h a key dom) s y (held y n (send n 0 (.bari count dom) (opened y .zero s1)))) ∧
    (Performs (.bara h d key) s y s1 → member → released → Completes (.bara h d key) s y
      (if d = .zero then send 0 cnt (.bara false before) s1 else held y n (send n cnt (.bara true before) (opened y d s1)))) ∧
    (Performs (.barw h d key) s y s1 → member → released → Completes (.barw h d key) s y
      (send n cnt (.barw before) (parked y .barw key.toNat 0 n (opened y d s1)))) ∧
    (Performs (.bard h key) s y s1 → member → released → Completes (.bard h key) s y (send 0 cnt (.bard before) s1)) ∧
    (Performs (.barq h d key) s y s1 → member → Completes (.barq h d key) s y
      (held y n (send n 0 .barq (opened y d s1))))

/-- 07 R174 to R176, R182, 14 R298, R299, 15 R316: WATCH records a slot as arming and sends its arm to the home of the word; DOZE
parks its threads on slots in its last cycle, until a time where it gives one; UNWATCH disarms slots and waits for the homes that may hold them; TOKW
parks threads that do not hold the mallet, and TOKP passes it on. Outside a deterministic launch TOKW and TOKP do nothing. A WATCH whose
address fails a check faults, and so does one of a word of far memory, or of the strand's own image, which is log entry 21, the model's
choice; a TOKP waits for the writes to SHB pages. -/
def Sys2Proof.Claims.watchAndMallet : Prop :=
  ∀ (h : Hdr) (d a : Opd) (m : Addr) (ty : Ty) (cmp slot : BitVec 2) (sel : BitVec 4) (s s1 : State) (y : Iss) (w : Spot),
    let n := s1.uid + 1
    let va := address s1 y m y.lead
    let home := homeOf y.st.part w.tile w.key
    let arg (i : Nat) : Dword := watchWords s1 y ty i
    let until_ := if a = .zero then 0 else max 1 (y.t0 + (readThread s1 y y.lead).a.toNat)
    let slots := (List.range 4).filter (fun i => sel.getLsbD i)
    let live := slots.filter (fun i => (y.st.watch.getD i {}).st = .arming ∨ (y.st.watch.getD i {}).st = .armed)
    let fault (i : Instr) (f : Flt) : Prop := exec i s = .next (commit s.mem (s.preciseFault y.k f y.pc y.exm y.act))
    let bad (cause : Nat) : Flt := { cause := cause, addr := va.toNat, lowt := y.lead }
    (Performs (.watch h d m ty cmp slot) s y s1 →
      (∀ cause, checkAddr s1 y.st .rd va (memSize ty) = .stop cause → fault (.watch h d m ty cmp slot) (bad cause)) ∧
      (∀ off, checkAddr s1 y.st .rd va (memSize ty) = .at_ (.image off) → fault (.watch h d m ty cmp slot) (bad 0x0E)) ∧
      (checkAddr s1 y.st .rd va (memSize ty) = .at_ (.mem w.key w.leaf w.tile) → Home.far home = true →
        fault (.watch h d m ty cmp slot) (bad 0x0C))) ∧
    (Performs (.watch h d m ty cmp slot) s y s1 →
      checkAddr s1 y.st .rd va (memSize ty) = .at_ (.mem w.key w.leaf w.tile) → Home.far home = false →
      Completes (.watch h d m ty cmp slot) s y (((disarmSlot 0 y.k slot.toNat (opened y .zero s1)).modStrand y.k (fun st => { st with
        watch := lset st.watch slot.toNat (fun _ =>
          { st := .arming, cmp := cmp, ty := ty, exp := arg 0, mask := arg 1, va := va.toNat, arm := n
            outside := Home.outside home }) })).send (.arm y.k slot.toNat n va.toNat w.key home))) ∧
    (Performs (.doze h d a sel) s y s1 →
      Completes (.doze h d a sel) s y (onActive y (fun _ th => { th with
        st := .parked, park := .doze, psel := sel.toNat, parg := until_, ptxn := n, since := y.last }) (opened y d s1))) ∧
    (Performs (.unwatch h sel) s y s1 →
      let gone := slots.foldl (fun s i => disarmSlot n y.k i s) (openTxn y live.length .zero s1).2
      Completes (.unwatch h sel) s y (if live = [] then gone.send (.result n 0 []) else gone)) ∧
    (Performs (.tokw h) s y s1 →
      Completes (.tokw h) s y (if y.st.det = true ∧ y.st.hold = false then parked y .tokw 0 0 0 s1 else s1)) ∧
    (Performs (.tokp h) s y s1 →
      (y.st.det = false → Completes (.tokp h) s y s1) ∧
      (y.st.det = true → y.st.hold = true → shbPerformed s1 y.k = true → Completes (.tokp h) s y (passMallet y.k s1)) ∧
      (y.st.det = true → y.st.hold = true → shbPerformed s1 y.k = false → exec (.tokp h) s = .next s) ∧
      (y.st.det = true → y.st.hold = false → fault (.tokp h) { cause := 0x18, lowt := y.lead }))

/-- 01 R34 to R40, 07 R177, R178, R180, R181: shared register ranges, their full and empty words, and queue ports. SHRMAP maps a range
that breaks no rule of R34, and SHRUNMAP unmaps the range that begins at D, or faults where none does. FERD takes words that are full and
leaves them empty; FEWR fills words that are empty; both fault on a register that is not shared, and wait outside deferring mode while a
word is not as they need it. An instruction with an active thread that names an unbound port takes the queue-port fault. QCFG binds a port to a queue of a tile or unbinds it, and QSTAT gives the number of elements and the
room left of 256; of an unbound port it takes the queue-port fault. -/
def Sys2Proof.Claims.sharedAndQueues : Prop :=
  ∀ (h : Hdr) (d a : Opd) (cnt : BitVec 6) (key rid : BitVec 4) (qn : BitVec 5) (unb : Bool) (s s1 : State) (y : Iss) (sh : Shr)
    (base p tile q : Nat),
    let range : Shr := { first := Opd.num d, cnt := cnt.toNat + 1, key := key.toNat, rid := rid.toNat }
    let full (t : Nat) : Option Nat := s1.fullAt y.st sh (base + t)
    let vals := y.act.map (fun t => (t, ({ d := (readThread s1 y t).a } : Wv)))
    let named := (readThread s1 y y.lead).a.toNat
    let used := (agetD (s1.tc ⟨y.st.ctx, tile⟩).queues q []).length
    let fault (i : Instr) (cause lowt : Nat) (y : Iss) : Prop :=
      exec i s = .next (commit s.mem (s.preciseFault y.k { cause := cause, lowt := lowt } y.pc y.exm y.act))
    (Performs (.shrmap h d cnt key rid) s y s1 →
      (shrBad s1 y.st range = false → Completes (.shrmap h d cnt key rid) s y (mapRange y range s1)) ∧
      (shrBad s1 y.st range = true → exec (.shrmap h d cnt key rid) s =
        .next (commit s.mem (s.preciseFault y.k { cause := 4, lowt := y.lead } y.pc y.exm y.act)))) ∧
    (Performs (.shrunmap h d) s y s1 → ∀ pre r post, y.st.shr = pre ++ r :: post → (∀ q ∈ pre, q.first ≠ Opd.num d) →
      r.first = Opd.num d → Completes (.shrunmap h d) s y (unmapRange y.k r s1)) ∧
    (Performs (.shrunmap h d) s y s1 → (∀ r ∈ y.st.shr, r.first ≠ Opd.num d) → fault (.shrunmap h d) 4 y.lead y) ∧
    (Performs (.ferd h d a) s y s1 → sharedKey y.st (16 * Opd.num a) = none → fault (.ferd h d a) 4 y.lead y) ∧
    (Performs (.fewr h d a) s y s1 → sharedKey y.st (16 * Opd.num d) = none → fault (.fewr h d a) 4 y.lead y) ∧
    (Performs (.ferd h d a) s y s1 → y.st.deferring = false → sharedKey y.st (16 * Opd.num a) = some (sh, base) →
      (∃ t ∈ y.act, ∀ c, full t = some c → y.t0 < c) → exec (.ferd h d a) s = .next s) ∧
    (Performs (.fewr h d a) s y s1 → y.st.deferring = false → sharedKey y.st (16 * Opd.num d) = some (sh, base) →
      (∃ t ∈ y.act, full t ≠ none) → exec (.fewr h d a) s = .next s) ∧
    (∀ i, Ready i s y → y.act ≠ [] → y.boundPorts = false → (effOf i).isSome = true → fault i 5 y.lead y) ∧
    (Performs (.ferd h d a) s y s1 → sharedKey y.st (16 * Opd.num a) = some (sh, base) →
      (∀ t ∈ y.act, ∃ c, full t = some c ∧ c ≤ y.t0) →
      Completes (.ferd h d a) s y (setFull y sh (fun m => y.act.foldl (fun m t => adel m (base + t)) m) (writeRows y vals s1))) ∧
    (Performs (.fewr h d a) s y s1 → sharedKey y.st (16 * Opd.num d) = some (sh, base) → (∀ t ∈ y.act, full t = none) →
      let done := setFull y sh (fun m => y.act.foldl (fun m t => aput m (base + t) (y.cyc t + 6)) m)
        (s1.putRegs y.k (y.act.map (fun t => ⟨y.cyc t + 6, 16 * Opd.num d + t, (readThread s1 y t).aw, y.cyc t⟩)))
      Completes (.fewr h d a) s y (if y.sh.isLong then (opened y .zero done).send (.result (done.uid + 1) 0 []) else done)) ∧
    (Performs (.qcfg h d a qn unb) s y s1 → Opd.port d = some p →
      (unb = true → Completes (.qcfg h d a qn unb) s y (s1.modStrand y.k (fun st => { st with qpb := adel st.qpb p }))) ∧
      (unb = false → named < (s1.part y.st.part).tiles →
        Completes (.qcfg h d a qn unb) s y (s1.modStrand y.k (fun st => { st with qpb := aput st.qpb p (named, qn.toNat) }))) ∧
      (unb = false → (s1.part y.st.part).tiles ≤ named → exec (.qcfg h d a qn unb) s =
        .next (commit s.mem (s.preciseFault y.k { cause := 5, lowt := y.lead } y.pc y.exm y.act)))) ∧
    (Performs (.qstat h d a) s y s1 → Opd.port a = some p → aget y.st.qpb p = none → fault (.qstat h d a) 5 y.lead y) ∧
    (Performs (.qstat h d a) s y s1 → Opd.port a = some p → aget y.st.qpb p = some (tile, q) →
      Completes (.qstat h d a) s y (writeRows y (y.act.map (fun t => (t, one (BitVec.ofNat 32 (used + (256 - used) * 2 ^ 16))))) s1))

/-- 07 R174 to R176, R182, 14 R298, R299, 15 R316: watches, DOZE and the mallet (`watchAndMallet`); 01 R34 to R40, 07 R177, R178, R180, R181: shared ranges and hardware queues (`sharedAndQueues`). -/
def Obligations.WatchSharedAndQueues : Prop := Claims.watchAndMallet ∧ Claims.sharedAndQueues

/-! ## Buffers (group 0xA) -/

namespace Sys2Proof.Claims

open Sys2Proof.Machine

/-- The strand waits for a word that a table has answered. -/
def tableSays (y : Iss) (d : Opd) (v : Word) (s : State) : State :=
  let n := s.uid + 1
  held y n ((opened y d s).send (.result n 0 (resultWords d false y.act (v.zeroExtend 64))))

/-- The strand waits for a request that a table has taken. -/
def asked (y : Iss) (d : Opd) (tc : TileCtx) (buf : Nat) (r : BufReq) (s : State) : State :=
  let n := s.uid + 1
  held y n ((opened y d s).send (.bufReq n y.k tc buf r))

end Sys2Proof.Claims

/-- 08 R206 to R212, 12 R278: the buffer instructions. BDECL declares an aligned region that overlaps no other on
the tile (of the partition's contexts that are there: log entry 16); BSET asks for a change
that the table of R208 allows, and with `.try` answers 1, or 2 for a buffer a ring holds, where it is refused (2 in any state of such a
buffer: log entry 59); BREL, STAT and UNSTAT ask for theirs; BQRY reads the status word. A request is checked when it is performed
(log entry 28) and waits for earlier ones on its buffer. One that is not allowed is the buffer-state fault (code 0x12), precise; a
tile that the partition has not is the address fault (code 0x0E). What rests on these log entries is the model's choice. -/
def Obligations.Buffers : Prop :=
  ∀ (h : Hdr) (d a : Opd) (m : Addr) (buf : BitVec 6) (tmo : BitVec 2) (try_ : Bool) (s s1 : State) (y : Iss) (b : Buf),
    let named := (readThread s1 y y.lead).a.toNat
    let n := buf.toNat
    let tiles := (s1.part y.st.part).tiles
    let tc (tile : Nat) : TileCtx := ⟨y.st.ctx, tile⟩
    let free (tile : Nat) : Prop := tile < tiles ∧ s1.bufBusy (tc tile) n = false
    let held_ := aget (s1.tc (tc named)).bufs n
    let stops (i : Instr) (f : Flt) : Prop := exec i s = .next (commit s.mem (s.preciseFault y.k f y.pc y.exm y.act))
    let refused (i : Instr) : Prop := stops i { cause := 0x12, lowt := y.lead, detail := bufferDetail n b.st.code named }
    let undeclared (i : Instr) : Prop := stops i { cause := 0x12, lowt := y.lead, detail := bufferDetail n 0 named }
    let to_ : BufSt := if tmo = 0 then .empty else if tmo = 1 then .filling else if tmo = 2 then .full else .draining
    let mayBe : Prop := (to_ = .filling ∧ b.st = .empty) ∨ (to_ = .full ∧ b.st = .filling) ∨ (to_ = .draining ∧ b.st = .full) ∨
      (to_ = .empty ∧ (b.st = .full ∨ b.st = .draining))
    (Performs (.bdecl h d m buf) s y s1 →
      let va := (address s1 y m y.lead).toNat
      let tile := (va - 0xFF000000000000) / 2 ^ 23
      let off := va % 2 ^ 23
      let near (x : CtxId) : Prop := x ∈ contextsOf y.st.ctx.part ∧ (x = y.st.ctx ∨ s1.onTiles x = true)
      let apart (c : Buf) : Prop := off + named ≤ c.base ∨ c.base + c.size ≤ off
      0xFF000000000000 ≤ va → va < 2 ^ 56 → free tile → va % 4096 = 0 → named % 4096 = 0 →
      (named ≠ 0 → off + named ≤ 2 ^ 23 → aget (s1.tc (tc tile)).bufs n = none →
        (∀ x, near x → ∀ c ∈ (s1.tc ⟨x, tile⟩).bufs, apart c.2) →
        Completes (.bdecl h d m buf) s y (tableSays y .zero 0 (s1.modTc (tc tile) (fun t =>
          { t with bufs := aput t.bufs n { base := off, size := named, st := .empty } })))) ∧
      (named = 0 ∨ 2 ^ 23 < off + named ∨ (aget (s1.tc (tc tile)).bufs n).isSome ∨ (∃ x, near x ∧ ∃ c ∈ (s1.tc ⟨x, tile⟩).bufs, ¬ apart c.2) →
        let code := ((aget (s1.tc (tc tile)).bufs n).map (fun c => c.st.code)).getD 0
        stops (.bdecl h d m buf) { cause := 0x12, addr := va, lowt := y.lead, detail := bufferDetail n code tile })) ∧
    (Performs (.bset h d a buf tmo try_) s y s1 → free named →
      (held_ = none → undeclared (.bset h d a buf tmo try_)) ∧
      (held_ = some b →
        (b.ring = false → mayBe → Completes (.bset h d a buf tmo try_) s y (asked y d (tc named) n (.set to_) s1)) ∧
        (b.ring = false → ¬ mayBe → try_ = true → Completes (.bset h d a buf tmo try_) s y (tableSays y d 1 s1)) ∧
        (b.ring = true → try_ = true → Completes (.bset h d a buf tmo try_) s y (tableSays y d 2 s1)) ∧
        (b.ring = true ∨ ¬ mayBe → try_ = false → refused (.bset h d a buf tmo try_)))) ∧
    (Performs (.brel h a buf) s y s1 → free named →
      let may := (b.st = .empty ∨ b.st = .full) ∧ b.ring = false
      (held_ = none → undeclared (.brel h a buf)) ∧
      (held_ = some b → (may → Completes (.brel h a buf) s y (asked y .zero (tc named) n .brel s1)) ∧
        (¬ may → refused (.brel h a buf)))) ∧
    (∀ i ∈ [Instr.bset h d a buf tmo try_, .brel h a buf, .stat h a buf, .unstat h a buf], Performs i s y s1 →
      (tiles ≤ named → stops i { cause := 0x0E, lowt := y.lead }) ∧
      (named < tiles → s1.bufBusy (tc named) n = true → exec i s = .next s)) ∧
    (Performs (.bqry h d a buf) s y s1 → tiles ≤ named → stops (.bqry h d a buf) { cause := 0x0E, lowt := y.lead }) ∧
    (Performs (.bdecl h d m buf) s y s1 →
      let va := (address s1 y m y.lead).toNat
      let tile := (va - 0xFF000000000000) / 2 ^ 23
      let within : Prop := 0xFF000000000000 ≤ va ∧ va < 2 ^ 56 ∧ tile < tiles
      (¬ within → stops (.bdecl h d m buf) { cause := 0x0E, addr := va, lowt := y.lead }) ∧
      (within → va % 4096 ≠ 0 ∨ named % 4096 ≠ 0 → stops (.bdecl h d m buf) { cause := 0x0D, addr := va, lowt := y.lead })) ∧
    (Performs (.bqry h d a buf) s y s1 → named < tiles → Completes (.bqry h d a buf) s y (tableSays y d (match held_ with
      | none => 0
      | some c => BitVec.ofNat 32 (c.size / 4096 * 2 ^ 20 + c.base / 4096 * 2 ^ 9 + c.ring.toNat * 2 ^ 3 + c.st.code)) s1)) ∧
    (Performs (.stat h a buf) s y s1 → free named →
      let may := b.st = .full ∧ b.ring = false ∧ b.base % 2 ^ 17 = 0 ∧ b.size % 2 ^ 17 = 0
      (held_ = none → undeclared (.stat h a buf)) ∧
      (held_ = some b → (may → Completes (.stat h a buf) s y (asked y .zero (tc named) n .stat s1)) ∧
        (¬ may → refused (.stat h a buf)))) ∧
    (Performs (.unstat h a buf) s y s1 → free named →
      (held_ = none → undeclared (.unstat h a buf)) ∧
      (held_ = some b → (b.st = .stationary → Completes (.unstat h a buf) s y (held y (s1.uid + 1)
          (((opened y .zero s1).modTc (tc named) (fun t => { t with bufs := amod t.bufs n (fun c => { c with unstat := true }) })).send
            (.bufReq (s1.uid + 1) y.k (tc named) n .unstat)))) ∧
        (b.st ≠ .stationary → refused (.unstat h a buf))))

/-! ## Operand slots, tasks and accumulators (group 0xB) -/

namespace Sys2Proof.Claims

open Sys2Proof.Machine

/-- An item leaves for the task queue of a tile, where it has a place from now on; it carries what the strand has done before, for its
release condition (09 R221, 10 R256). -/
def queued (y : Iss) (tile : Nat) (acc : Option Nat) (d : Opd) (kind : TKind) (s : State) : State :=
  let n := s.uid + 1
  let tc : TileCtx := ⟨y.st.ctx, tile⟩
  (((opened y d s).modTc tc (fun t => { t with promised := t.promised + 1 })).modStrand y.k
    (fun st => { st with placed := st.placed ++ [(21, n)] })).send
    (.tqItem tc { txn := n, strand := y.k, pc := y.pc, acc := acc, kind := kind, rel := s.relIds y.k })

/-- The bits of a task record, and what they may be (09 R219, R220). -/
def soundTask (r : Line) : Prop :=
  let f (lo w : Nat) : Nat := (r.extractLsb' lo w).toNat
  (∀ z ∈ [(5, 3), (12, 4), (22, 3), (25, 7), (37, 3), (47, 1), (54, 2), (60, 4), (84, 12), (105, 7), (121, 7), (145, 15), (177, 15), (192, 320)],
    f z.1 z.2 = 0) ∧
  1 ≤ f 32 5 ∧ f 32 5 ≤ 16 ∧ 1 ≤ f 40 7 ∧ f 40 7 ≤ 64 ∧ 1 ≤ f 64 20 ∧ f 56 4 + f 32 5 ≤ 16 ∧ f 48 6 + f 40 7 ≤ 64

end Sys2Proof.Claims

/-- 09 R217, R218: operand slots. OCLAIM opens a free slot and, with `.try`, answers 1 for one that is not free; ORELS releases an
open or sealed slot that no ring holds, at its place in the task queue, for which it waits; OPUT sends a block, or a seal, to a block of a slot. A slot in
another state is the operand-slot fault (code 0x13), a tile that the partition has not the address fault (code 0x0E). -/
def Sys2Proof.Claims.operandSlots : Prop :=
  ∀ (h : Hdr) (d a b : Opd) (slot : BitVec 4) (try_ seal_ : Bool) (s s1 : State) (y : Iss),
    let r := readThread s1 y y.lead
    let tile := r.a.toNat
    let tc : TileCtx := ⟨y.st.ctx, tile⟩
    let sl := agetD (s1.tc tc).slots slot.toNat {}
    let n := s1.uid + 1
    let there (tile : Nat) : Prop := tile < (s1.part y.st.part).tiles
    let absent (i : Instr) : Prop := exec i s = .next (commit s.mem (s.preciseFault y.k { cause := 0x0E, lowt := y.lead } y.pc y.exm y.act))
    let stops (i : Instr) (off : Nat) : Prop := exec i s = .next (commit s.mem (s.preciseFault y.k
      { cause := 0x13, lowt := y.lead, detail := BitVec.ofNat 256 (slot.toNat * 2 ^ 8 + off * 2 ^ 32) } y.pc y.exm y.act))
    (Performs (.oclaim h d a slot try_) s y s1 → ¬ there tile → absent (.oclaim h d a slot try_)) ∧
    (Performs (.orels h a slot) s y s1 → ¬ there tile → absent (.orels h a slot)) ∧
    (Performs (.oput h d a b slot seal_) s y s1 → ¬ there r.b.toNat → absent (.oput h d a b slot seal_)) ∧
    (Performs (.orels h a slot) s y s1 → there tile → s1.tqRoom y tile = false → y.st.deferring = false →
      exec (.orels h a slot) s = .next s) ∧
    (Performs (.orels h a slot) s y s1 → there tile → s1.tqRoom y tile = true → fenced y.st 21 = true ∨ tasksOut s1 y.k tc = true →
      exec (.orels h a slot) s = .next s) ∧
    (Performs (.oclaim h d a slot try_) s y s1 → there tile →
      (sl.st = .free → Completes (.oclaim h d a slot try_) s y (tableSays y d 0 (s1.modTc tc (fun t =>
        { t with slots := aput t.slots slot.toNat { sl with st := .open_ } })))) ∧
      (sl.st ≠ .free → try_ = true → Completes (.oclaim h d a slot try_) s y (tableSays y d 1 s1)) ∧
      (sl.st ≠ .free → try_ = false → stops (.oclaim h d a slot try_) 0)) ∧
    (Performs (.orels h a slot) s y s1 → there tile → s1.tqRoom y tile = true → fenced y.st 21 = false → tasksOut s1 y.k tc = false →
      (sl.ring = false → (sl.st = .open_ ∨ sl.st = .sealed_) →
        let item : TItem := { txn := n, strand := y.k, pc := y.pc, acc := none, kind := .orels slot.toNat }
        let s2 : State := { s1 with uid := n }
        let s3 := (s2.modTc tc (fun t => { (t.release slot.toNat) with tq := t.tq ++ [item] })).modStrand y.k
          (fun st => { st with placed := st.placed ++ [(21, n)] })
        Completes (.orels h a slot) s y (tableSays y .zero 0 (slotSweep tc s3))) ∧
      ((sl.ring = true ∨ (sl.st ≠ .open_ ∧ sl.st ≠ .sealed_)) → stops (.orels h a slot) 0)) ∧
    (Performs (.oput h d a b slot seal_) s y s1 → there r.b.toNat → (d = .zero ∨ Opd.isVec d = true) →
      (r.c.toNat < 512 → Completes (.oput h d a b slot seal_) s y ((opened y .zero s1).send (.oput n y.k y.pc
        ⟨y.st.ctx, r.b.toNat⟩ slot.toNat r.c.toNat
        (if d = .zero then none else some (lineOfWords (lineIn s1 y (Opd.num d)))) seal_))) ∧
      (512 ≤ r.c.toNat → stops (.oput h d a b slot seal_) r.c.toNat))

/-- 09 R219 to R221, R225 to R228: the items of a task queue. With room in the queue of the tile, and no QFENCE to hold it, an item takes
its place; without room outside deferring mode, or behind a QFENCE (TWAIT apart), it waits. A task record that breaks R220 is the task fault (code 0x14), and columns beyond the accumulator tile the accumulator
fault (code 0x15). -/
def Sys2Proof.Claims.taskItems : Prop :=
  ∀ (h : Hdr) (d a b : Opd) (acc : BitVec 5) (kind : BitVec 2) (ty : Ty) (rm : Rm) (sat sh spec all : Bool) (cnt : BitVec 4)
    (s s1 : State) (y : Iss),
    let r := readThread s1 y y.lead
    let n := cnt.toNat + 1
    let task := lineOfWords (lineIn s1 y (Opd.num d))
    let item (tile : Nat) (acc : Option Nat) (d : Opd) (k : TKind) := queued y tile acc d k s1
    let own := some acc.toNat
    let items := [(Instr.twait h a acc all, r.a), (.task h d a spec, r.b), (.accz h a acc kind, r.a), (.accrd h d a b acc ty rm sat sh cnt, r.a),
      (.accwr h d a b acc ty cnt, r.b), (.acccmt h a acc, r.a), (.accdsc h a acc, r.a)]
    let room (tile : Dword) : Prop := tile.toNat < (s1.part y.st.part).tiles ∧ s1.tqRoom y tile.toNat = true
    let stops (i : Instr) (cause detail : Nat) : Prop := exec i s = .next (commit s.mem (s.preciseFault y.k
      { cause := cause, lowt := y.lead, detail := BitVec.ofNat 256 detail } y.pc y.exm y.act))
    (∀ i ∈ items, Performs i.1 s y s1 →
      ((s1.part y.st.part).tiles ≤ i.2.toNat → exec i.1 s = .next (commit s.mem (s.preciseFault y.k { cause := 0x0E, lowt := y.lead }
        y.pc y.exm y.act))) ∧
      (i.2.toNat < (s1.part y.st.part).tiles → s1.tqRoom y i.2.toNat = false → y.st.deferring = false → exec i.1 s = .next s)) ∧
    (∀ i ∈ items.tail, Performs i.1 s y s1 → room i.2 → fenced y.st 21 = true → exec i.1 s = .next s) ∧
    (Performs (.twait h a acc all) s y s1 → room r.a → Completes (.twait h a acc all) s y
      (if all then item r.a.toNat none .zero .twaitAll else item r.a.toNat own .zero .twait)) ∧
    (fenced y.st 21 = false →
      (Opd.isVec d = true → Performs (.task h d a spec) s y s1 → room r.b →
        (soundTask task → Completes (.task h d a spec) s y (item r.b.toNat (some (task.extractLsb' 0 5).toNat) .zero
          (.task (if spec then task ||| (1#512 <<< 24) else task) spec))) ∧
        (¬ soundTask task → stops (.task h d a spec) 0x14
          ((task.extractLsb' 0 5).toNat + (task.extractLsb' 8 4).toNat * 2 ^ 8 + (task.extractLsb' 16 6).toNat * 2 ^ 16))) ∧
      (Performs (.accz h a acc kind) s y s1 → room r.a → Completes (.accz h a acc kind) s y (item r.a.toNat own .zero (.accz kind.toNat))) ∧
      (Performs (.accrd h d a b acc ty rm sat sh cnt) s y s1 → room r.a →
        let c0 := r.b.toNat
        (c0 + n ≤ 64 → Completes (.accrd h d a b acc ty rm sat sh cnt) s y
          (item r.a.toNat own d (.accrd ty (y.st.rounding rm) sat sh c0 n))) ∧
        (64 < c0 + n → stops (.accrd h d a b acc ty rm sat sh cnt) 0x15 acc.toNat)) ∧
      (Opd.isVec d = true → Performs (.accwr h d a b acc ty cnt) s y s1 → room r.b →
        let c0 := r.c.toNat
        (c0 + n ≤ 64 → Completes (.accwr h d a b acc ty cnt) s y (item r.b.toNat own .zero (.accwr ty c0 n
          ((List.range (if ty = .i64 then 2 * n else n)).map (fun i => lineIn s1 y (Opd.num d + i)))))) ∧
        (64 < c0 + n → stops (.accwr h d a b acc ty cnt) 0x15 acc.toNat)) ∧
      (Performs (.acccmt h a acc) s y s1 → room r.a → Completes (.acccmt h a acc) s y (item r.a.toNat own .zero .acccmt)) ∧
      (Performs (.accdsc h a acc) s y s1 → room r.a → Completes (.accdsc h a acc) s y (item r.a.toNat own .zero .accdsc)))

/-- 09 R217, R218: operand slots (`operandSlots`); 09 R219 to R221, R225 to R228: the items of a task queue (`taskItems`). -/
def Obligations.TasksAndSlots : Prop := Claims.operandSlots ∧ Claims.taskItems

/-! ## Engines and collectives (group 0xC) -/

namespace Sys2Proof.Claims

open Sys2Proof.Machine

/-- The strand has a command in a queue: it counts for QFENCE and EWAIT until it is complete (09 R234, R238). -/
def placed (y : Iss) (bit n : Nat) (s : State) : State :=
  s.modStrand y.k (fun st => { st with placed := st.placed ++ [(bit, n)] })

/-- A layout record and what its fields may be (09 R229). -/
def soundLayout (r : Line) : Prop :=
  let f (lo w : Nat) : Nat := (r.extractLsb' lo w).toNat
  f 56 8 = 0 ∧ f 70 186 = 0 ∧ f 416 96 = 0 ∧ f 0 56 % 64 = 0 ∧ f 64 6 ≤ 6 ∧ (∀ i ∈ [0, 1, 2, 3], f (256 + 16 * i) 16 ≠ 0) ∧
    ∀ i ∈ [0, 1, 2], f (320 + 32 * i) 32 % 64 = 0

/-- A collective record and what its fields may be (09 R235). -/
def soundColl (r : Line) : Prop :=
  let f (lo w : Nat) : Nat := (r.extractLsb' lo w).toNat
  (∀ z ∈ [(56, 8), (104, 8), (121, 7), (201, 7), (248, 4), (253, 259)], f z.1 z.2 = 0) ∧ f 240 4 ≤ 1 ∧ f 244 4 ≤ 4 ∧
    1 ≤ f 64 32 ∧ f 64 32 ≤ 2 ^ 24 ∧
    f 0 56 % (if f 244 4 = 0 then 4 else if f 244 4 ≤ 2 then 2 else 1) = 0

end Sys2Proof.Claims

/-- 09 R229 to R234, R238, 12 R280: the stream engines. SLAY and the bindings of SFILL and SDRAIN go into the command queue of the
engine, and a binding holds the strand until it has been checked; SSIG sends a signal that names the operations it comes after;
QFENCE waits for the commands it names and holds those queues; EWAIT waits for its condition, which EWait.holds (`resultsLand`) says. -/
def Sys2Proof.Claims.engines : Prop :=
  ∀ (h : Hdr) (d a b : Opd) (eng full slots tq se : Bool) (lay : BitVec 3) (ring kind : BitVec 2) (first : BitVec 6) (cnt : BitVec 3)
    (cq : BitVec 4) (res : BitVec 8) (s s1 : State) (y : Iss),
    let r := readThread s1 y y.lead
    let n := s1.uid + 1
    let e := eng.toNat
    let command (tile : Nat) (c : ECmd) (s : State) : State := s.modTc ⟨y.st.ctx, tile⟩ (fun t =>
      { t with engines := aput t.engines e { agetD t.engines e {} with cq := (agetD t.engines e {}).cq ++ [c] } })
    let tile := r.a.toNat
    let tc : TileCtx := ⟨y.st.ctx, tile⟩
    let there : Prop := tile < (s1.part y.st.part).tiles
    let absent (i : Instr) : Prop := exec i s = .next (commit s.mem (s.preciseFault y.k { cause := 0x0E, lowt := y.lead } y.pc y.exm y.act))
    let layout := lineOfWords (lineIn s1 y (Opd.num d))
    let bind (fill slots : Bool) : State :=
      held y (n + 1) (placed y 20 n (command tile (.bind (n + 1) y.k y.pc fill slots ring.toNat lay.toNat first.toNat (cnt.toNat + 1)
        r.b.toNat n (s1.relIds y.k)) (opened y .zero { s1 with uid := n })))
    let own := (s1.ops.filter (fun o => o.2.strand == y.k && (if full then o.2.opr != 0 || o.2.atom else o.2.ret))).map (fun o => o.1)
    let mask := se.toNat * 2 ^ 20 + tq.toNat * 2 ^ 21 + cq.toNat * 2 ^ 16
    let ids := (y.st.placed.filter (fun p => mask / 2 ^ p.1 % 2 == 1)).map (fun p => p.2)
    let wait (c : EWait) : State := (opened y d s1).send (.ewait n y.k c)
    let eng' := res.toNat / 128
    let ring' := res.toNat / 32 % 4
    (∀ i ∈ [Instr.sfill h a b eng ring lay slots first cnt, .sdrain h a b eng ring lay first cnt, .ssig h a eng ring full],
      Performs i s y s1 → ¬ there → absent i) ∧
    (Performs (.slay h d a eng lay) s y s1 → (s1.part y.st.part).tiles ≤ r.b.toNat → absent (.slay h d a eng lay)) ∧
    (∀ i ∈ [Instr.sfill h a b eng ring lay slots first cnt, .sdrain h a b eng ring lay first cnt],
      Performs i s y s1 → there → fenced y.st 20 = true → exec i s = .next s) ∧
    (Performs (.ewait h d a b kind res) s y s1 → kind = 0 ∨ kind = 1 → ¬ there → absent (.ewait h d a b kind res)) ∧
    (Opd.isVec d = true → Performs (.slay h d a eng lay) s y s1 → r.b.toNat < (s1.part y.st.part).tiles → fenced y.st 20 = false →
      (soundLayout layout → Completes (.slay h d a eng lay) s y
        (placed y 20 n (command r.b.toNat (.slay n y.k y.pc lay.toNat layout) (opened y .zero s1)))) ∧
      (¬ soundLayout layout → exec (.slay h d a eng lay) s = .next (commit s.mem (s.preciseFault y.k
        { cause := 0x16, lowt := y.lead, detail := BitVec.ofNat 256 e } y.pc y.exm y.act)))) ∧
    (Performs (.sfill h a b eng ring lay slots first cnt) s y s1 → there → fenced y.st 20 = false →
      Completes (.sfill h a b eng ring lay slots first cnt) s y (bind true slots)) ∧
    (Performs (.sdrain h a b eng ring lay first cnt) s y s1 → there → fenced y.st 20 = false →
      Completes (.sdrain h a b eng ring lay first cnt) s y (bind false false)) ∧
    (Performs (.ssig h a eng ring full) s y s1 → there →
      Completes (.ssig h a eng ring full) s y ((opened y .zero s1).send (.ssig n y.k y.pc tc e ring.toNat full own))) ∧
    (Performs (.qfence h tq se cq) s y s1 →
      let s2 := opened y .zero s1
      Completes (.qfence h tq se cq) s y ((if ids = [] then s2
        else s2.modStrand y.k (fun st => { st with qfences := st.qfences ++ [(mask, ids)] })).send (.qwait n y.k ids))) ∧
    (Performs (.ewait h d a b kind res) s y s1 → (kind = 0 ∨ kind = 1 → there) →
      (kind = 0 → Completes (.ewait h d a b kind res) s y (wait (.ready tc eng' ring'))) ∧
      (kind = 1 → Completes (.ewait h d a b kind res) s y (wait (.done tc eng' ring'))) ∧
      (kind = 2 → Completes (.ewait h d a b kind res) s y
        (wait (.coll ((y.st.placed.filter (fun p => p.1 == 16 + res.toNat % 4)).map (fun p => p.2))))) ∧
      (kind = 3 → Completes (.ewait h d a b kind res) s y (wait (.seq y.st.part res.toNat r.b.toNat))))

/-- 09 R235 to R237, 15 R314: COLL puts a sound record at the tail of a collective queue, with the operations that its release waits
for; CSEQ sets a region of writable near memory, or reads its next sequence number. A record or a region that is not sound is the
collective fault (code 0x17). -/
def Sys2Proof.Claims.collectiveCommands : Prop :=
  ∀ (h : Hdr) (d a b : Opd) (cq : BitVec 2) (region : BitVec 8) (rd dty : Bool) (s s1 : State) (y : Iss),
    let r := readThread s1 y y.lead
    let n := s1.uid + 1
    let q := cq.toNat
    let part := s1.part y.st.part
    let rcd := lineOfWords (lineIn s1 y (Opd.num d))
    let no := part.cqNo + 1
    let queue := agetD part.cqs q []
    let cmd : Coll := { txn := n, strand := y.k, pc := y.pc, ctx := y.st.ctx, rcd := rcd, no := no
                        prev := (queue.getLast?.map (fun c => c.no)).getD 0, rel := s1.relIds y.k }
    let stops (i : Instr) (f : Flt) : Prop := exec i s = .next (commit s.mem (s.preciseFault y.k f y.pc y.exm y.act))
    let detail (q region seq : Nat) : BitVec 256 := BitVec.ofNat 256 (q + region * 2 ^ 8 + seq * 2 ^ 32)
    let base := r.b.toNat
    let len := r.c.toNat
    let size := if dty then 2 else 4
    let badRegion : Flt := { cause := 0x17, lowt := y.lead, addr := base, detail := detail 0 region.toNat r.a.toNat }
    let set : Region := { ctx := y.st.ctx, base := base, len := len, bf16 := dty, next := r.a.toNat }
    let sized : Prop := base % 64 = 0 ∧ len ≠ 0 ∧ len % size = 0
    let unheld : Prop := ∀ x ∈ part.held, (x.2.2.rcd.extractLsb' 96 8).toNat ≠ region.toNat
    (Performs (.coll h d cq) s y s1 → fenced y.st (16 + q) = true ∨ 64 ≤ queue.length → exec (.coll h d cq) s = .next s) ∧
    (Opd.isVec d = true → Performs (.coll h d cq) s y s1 → fenced y.st (16 + q) = false → queue.length < 64 →
      (soundColl rcd → Completes (.coll h d cq) s y (placed y (16 + q) n
        ((opened y .zero s1).modPart y.st.part (fun p => { p with cqNo := no, cqs := aput p.cqs q (queue ++ [cmd]) })))) ∧
      (¬ soundColl rcd → stops (.coll h d cq)
        { cause := 0x17, lowt := y.lead, detail := detail q (rcd.extractLsb' 96 8).toNat (rcd.extractLsb' 160 32).toNat })) ∧
    (Performs (.cseq h d a b region rd dty) s y s1 →
      (rd = true → Completes (.cseq h d a b region rd dty) s y
        (tableSays y d (((aget part.regions region.toNat).map (fun g => BitVec.ofNat 32 g.next)).getD 0) s1)) ∧
      (rd = false → sized → unheld → regionBad s1 y.st.ctx (regionPages base len) = none →
        Completes (.cseq h d a b region rd dty) s y (tableSays y .zero 0
          (s1.modPart y.st.part (fun p => { p with regions := aput p.regions region.toNat set })))) ∧
      (rd = false → ¬ (sized ∧ unheld) → stops (.cseq h d a b region rd dty) badRegion) ∧
      (rd = false → sized → unheld → regionBad s1 y.st.ctx (regionPages base len) = some none →
        stops (.cseq h d a b region rd dty) badRegion))

/-- 09 R229 to R234, R238, 12 R280: the commands of stream engines (`engines`); 09 R235 to R237, 15 R314: those of the collective engine (`collectiveCommands`). -/
def Obligations.UnitCommands : Prop := Claims.engines ∧ Claims.collectiveCommands

/-! ## Random numbers, registers and the privileged instructions (groups 0xD, 0xE) -/

namespace Sys2Proof.Claims

open Sys2Proof.Machine

/-- The registers of a quad from the one named, the first in the low bits, as a thread reads them in a cycle (07 R183). -/
def quadIn (s : State) (y : Iss) (o : Opd) (t c : Nat) : BitVec 128 :=
  let w (i : Nat) : Word := s.reg y.st (if Opd.isVec o then vecKey (Opd.num o + i) t else uniKey (Opd.num o + i)) c
  w 3 ++ w 2 ++ w 1 ++ w 0

/-- A word for a register operand, and a quad, as register writes made in cycle `c` (01 R25). -/
def wordTo (o : Opd) (v : Word) (t c : Nat) : RegWr :=
  ⟨c + 6, if Opd.isVec o then vecKey (Opd.num o) t else uniKey (Opd.num o), v, c⟩
def quadTo (o : Opd) (v : BitVec 128) (t c : Nat) : List RegWr := (List.range 4).map (fun i =>
  ⟨c + 6, if Opd.isVec o then vecKey (Opd.num o + i) t else uniKey (Opd.num o + i), v.extractLsb' (32 * i) 32, c⟩)

/-- An instruction answers a word to its destination. -/
def answered (y : Iss) (d : Opd) (v : Word) (s : State) : State :=
  (opened y d s).send (.result (s.uid + 1) 0 (resultWords d false y.act (v.zeroExtend 64)))

/-- CTXST (07 R186). -/
def ctxst (st : Strand) : Nat := st.knell.toNat + 2 * st.det.toNat + 4 * st.hold.toNat + 8 * st.priv.toNat

/-- The registers that CSRR reads (07 R186). -/
def csrTable (s : State) (st : Strand) : List (Nat × Word) :=
  [(0x000, st.modew), (0x001, BitVec.ofNat 32 (ctxst st)), (0x002, (s.part st.part).rngst.zeroExtend 32)
  , (0x003, BitVec.ofNat 32 (st.tile * 2 ^ 16 + st.lane * 2 ^ 3 + st.slot)), (0x004, BitVec.ofNat 32 (s.budgetLeft st))
  , (0x005, BitVec.ofNat 32 (s.budgetLeft st / 2 ^ 32)), (0x006, (s.pkg st.part.pkg).feat), (0x800, st.tvec.truncate 32)
  , (0x801, (st.tvec >>> 32).truncate 32), (0x802, st.tcause), (0x803, st.tmask.zeroExtend 32)]

end Sys2Proof.Claims

/-- 07 R183 to R187, 17 R358: random draws, reservations, registers and clocks. RAND draws G(key, counter) and advances the counter:
each thread's own, or with a uniform counter one draw per active thread in order. `rngG` is the generator of R184. That an overlapping
reservation on a full table sets both bits of D and of RNGST is log entry 59, the model's choice. -/
def Obligations.RandomAndRegisters : Prop :=
  ∀ (h : Hdr) (d a b c : Opd) (rel lane : Bool) (csr : BitVec 12) (s s1 : State) (y : Iss),
    let stops (i : Instr) (cause : Nat) : Prop :=
      exec i s = .next (commit s.mem (s.preciseFault y.k { cause := cause, lowt := y.lead } y.pc y.exm y.act))
    let part := s1.part y.st.part
    let q (o : Opd) (t c : Nat) := quadIn s1 y o t c
    let key := q a y.lead y.t0
    let start := q b y.lead y.t0
    let len := (readThread s1 y y.lead).c.toNat
    let range : Resv := { ctx := y.st.ctx, key := key, start := start, len := len }
    let meets : Bool := part.resv.any (fun r => r.key == key && (decide ((r.start - start).toNat < len) || decide ((start - r.start).toNat < r.len)))
    let full := 64 ≤ part.resv.length
    let v := (readThread s1 y y.lead).aw
    let priv := 0x800 ≤ csr.toNat ∧ y.st.priv = false
    let reg (o : Opd) : Prop := Opd.isVec o = true ∨ Opd.isUni o = true
    (reg d → reg a → reg b → Performs (.rand h d a b) s y s1 →
      (Opd.isUni b = true → Opd.isVec d = true → Completes (.rand h d a b) s y (s1.putRegs y.k
        (y.act.map (fun t => wordTo d (rngG (q a t (y.cyc t)) (q b y.lead y.t0 + BitVec.ofNat 128 (indexIn t y.act))) t (y.wcyc t)) ++
          quadTo b (q b y.lead y.t0 + BitVec.ofNat 128 y.act.length) y.lead y.last))) ∧
      (¬ (Opd.isUni b = true ∧ Opd.isVec d = true) → Completes (.rand h d a b) s y (s1.putRegs y.k (y.poppers.flatMap (fun t =>
        wordTo d (rngG (q a t (y.cyc t)) (q b t (y.cyc t))) t (y.wcyc t) :: quadTo b (q b t (y.cyc t) + 1) t (y.wcyc t)))))) ∧
    (Opd.isUni a = true → Opd.isUni b = true → Performs (.rres h d a b c rel) s y s1 →
      (len = 0 → Completes (.rres h d a b c rel) s y (tableSays y d 0 s1)) ∧
      (len ≠ 0 → rel = true → Completes (.rres h d a b c rel) s y (if range ∈ part.resv then
        tableSays y d 0 (s1.modPart y.st.part (fun p => { p with resv := p.resv.erase range })) else tableSays y d 4 s1)) ∧
      (len ≠ 0 → rel = false → meets = true → y.st.modew.getLsbD 19 = true → stops (.rres h d a b c rel) 0x19) ∧
      (len ≠ 0 → rel = false → ¬ (meets = true ∧ y.st.modew.getLsbD 19 = true) →
        Completes (.rres h d a b c rel) s y (tableSays y d (BitVec.ofNat 32 (meets.toNat + 2 * (decide full).toNat))
          (s1.modPart y.st.part (fun p => { p with
            rngst := p.rngst ||| (if meets then 1 else 0) ||| (if full then 2 else 0)
            resv := if full then p.resv else p.resv ++ [range] }))))) ∧
    (Performs (.csrr h d csr) s y s1 →
      (priv → stops (.csrr h d csr) 2) ∧
      (¬ priv → ∀ w, (csr.toNat, w) ∈ csrTable s1 y.st →
        Completes (.csrr h d csr) s y (writeRows y (y.poppers.map (fun t => (t, one w))) s1)) ∧
      (¬ priv → csr.toNat ∉ (csrTable s1 y.st).map (fun p => p.1) → stops (.csrr h d csr) 1)) ∧
    (Performs (.csrw h a csr) s y s1 →
      (priv → stops (.csrw h a csr) 2) ∧
      (csr = 0x002 → v.toNat < 4 → Completes (.csrw h a csr) s y
        (s1.modPart y.st.part (fun p => { p with rngst := p.rngst &&& ~~~(v.truncate 2) }))) ∧
      (csr = 0x800 → y.st.priv = true → Completes (.csrw h a csr) s y
        (s1.modStrand y.k (fun st => { st with tvec := st.tvec.extractLsb' 32 24 ++ v }))) ∧
      (csr = 0x801 → y.st.priv = true → v.toNat < 2 ^ 24 → Completes (.csrw h a csr) s y
        (s1.modStrand y.k (fun st => { st with tvec := (v.truncate 24 : BitVec 24) ++ (st.tvec.truncate 32 : Word) }))) ∧
      (¬ priv → csr ∉ [0x002, 0x800, 0x801] ∨ (csr = 0x002 ∧ 4 ≤ v.toNat) ∨ (csr = 0x801 ∧ 2 ^ 24 ≤ v.toNat) →
        stops (.csrw h a csr) 1)) ∧
    (Performs (.clock h d lane) s y s1 → Completes (.clock h d lane) s y (writeRows y (y.poppers.map (fun t =>
      (t, ({ d := BitVec.ofNat 64 (if lane then s1.cycle y.st.part else s1.pktTime y.st) } : Wv)))) s1))

/-- 07 R188, 17 R342, R344, R349, 18 R364 to R368: the privileged instructions but TRET. STOPRD and ERRLOG give words of the latest stop
record of a unit and of the oldest error record; REGEV posts an event and an interrupt; HALTL clears the halt line or raises it with
cause 0x33; STEST starts a self-test of a unit that the partition uses; TLBINV drops translations from the caches of the
tile or of the partition, and table entries from the walk caches of the die or of the package. That REGEV always raises its interrupt is
log entry 41, and that TLBINV.va drops the entries of its own context only log entry 42: the model's choices. -/
def Obligations.Privileged : Prop :=
  ∀ (h : Hdr) (d a b : Opd) (clr pop part va : Bool) (s s1 : State) (y : Iss),
    let r := readThread s1 y y.lead
    let p := s1.part y.st.part
    let n := s1.uid + 1
    let stop := stopRecOf s1 y.st.part r.a.toNat
    (Performs (.stoprd h d a b) s y s1 →
      Completes (.stoprd h d a b) s y (answered y d (stop.extractLsb' (32 * (r.b.toNat % 32)) 32) s1)) ∧
    (Performs (.regev h a b) s y s1 → Completes (.regev h a b) s y
      ((s1.postBy y.st.part (.strand y.k) (r.a.toNat % 2 ^ 16) r.b.toNat).modPart y.st.part (fun p => { p with irq := true }))) ∧
    (Performs (.haltl h clr) s y s1 →
      (clr = true → Completes (.haltl h clr) s y (s1.clearLine y.st.part)) ∧
      (clr = false → p.line.isSome → Completes (.haltl h clr) s y s1) ∧
      (clr = false → p.line = none → Completes (.haltl h clr) s y ((s1.raiseLine y.st.part 0x33 (some (.strand y.k))).putStop y.st.part (.strand y.k)
        (StopInfo.bits { flt := { cause := 0x33 }, issue := (nextPc y.pc).toNat, pc := y.pc.toNat, exm := (maskOf y.exm).toNat
                         act := (maskOf y.act).toNat, loc := y.st.loc, unit := y.st.unit, ust := y.st.ust y.t0 } s1.clk)))) ∧
    (Performs (.errlog h d a pop) s y s1 → Completes (.errlog h d a pop) s y (if pop then
        answered y .zero 0 (s1.modPart y.st.part (fun q => { q with log := { q.log with recs := q.log.recs.tail } }))
      else answered y d (((p.log.recs.head?).map (fun e => e.bits.extractLsb' (32 * (r.a.toNat % 32)) 32)).getD 0) s1)) ∧
    (Performs (.stest h d a) s y s1 →
      (repairUnit s1 y.st.part r.aw = none → Completes (.stest h d a) s y (answered y d 4 s1)) ∧
      (∀ u, repairUnit s1 y.st.part r.aw = some u →
        Completes (.stest h d a) s y ((opened y d s1).startTest y.st.part.pkg u [(n, d)] []))) ∧
    (Performs (.tlbinv h a part va) s y s1 → Completes (.tlbinv h a part va) s y (answered y .zero 0 ((s1.dropTlb (fun t e =>
      !((if part then t.part == y.st.part else t == y.st.tileId) && (!va || e.covers y.st.ctx r.a.toNat)))).dropWalks (fun die e =>
      !((if part then die.1 == y.st.part.pkg else die == dieOf y.st.tileId) && e.ctx.part == y.st.part &&
        (!va || (e.ctx == y.st.ctx && e.va == r.a.toNat / 2 ^ e.sh)))))))

/-! ## Traps, faults and the handler -/

/-- 07 R166: TRAP enters the handler below the privileged level where TVEC is not 0; it is an unhandled trap (code 0x31) where TVEC is 0
and a double trap (code 0x32) in a handler, with its code in DETAIL and the PCs at TRAP: in a handler with TVEC 0 as well, where the rows
of R166 overlap, which is log entry 59, the model's choice. BRK raises a debugger halt (code 0x30) that
names BRK's own PC, with the PCs already at next(pc). -/
def Sys2Proof.Claims.traps : Prop :=
  ∀ (h : Hdr) (code : BitVec 16) (s s1 : State) (y : Iss),
    let halt (cause : Nat) : Flt := { cause := cause, lowt := y.lead, detail := code.zeroExtend 256 }
    (Performs (.trap h code) s y s1 →
      (y.st.priv = false → y.st.tvec ≠ 0 → Completes (.trap h code) s y (s1.enterHandler y.k 1 code.toNat (maskOf y.act))) ∧
      (y.st.priv = false → y.st.tvec = 0 → exec (.trap h code) s = .next (commit s.mem (s.preciseFault y.k (halt 0x31) y.pc y.exm y.act))) ∧
      (y.st.priv = true → exec (.trap h code) s = .next (commit s.mem (s.preciseFault y.k (halt 0x32) y.pc y.exm y.act)))) ∧
    (Performs (.brk h code) s y s1 → Completes (.brk h code) s y (s1.strandFault y.k (halt 0x30)
      { pc := y.pc, exm := y.exm, act := y.act } 3 code.toNat (maskOf y.act)))

namespace Sys2Proof.Claims

open Sys2Proof.Machine

/-- A thread whose record holds all of it (17 R335): its fields lie in their ranges, and only a parked thread waits at a branch or for
room. -/
def recordable (now : Nat) (th : Thread) : Prop :=
  th.psel < 16 ∧ th.depth ≤ 64 ∧ (th.record now).parg < 2 ^ 35 ∧ ((th.park = .branch ∨ th.park = .quota) → th.st = .parked)

end Sys2Proof.Claims

/-- 07 R167, 17 R335, R348: what taking an exception does to its strand. TCAUSE and TMASK are written and PRIV is set; the threads of
the mask become live at TVEC; every other thread that has not exited is held; the frame in the image holds every thread as it was;
registers, flags, pending counts, return stacks, bands and TVEC stay. -/
def Sys2Proof.Claims.handlerEntry : Prop :=
  ∀ (s : State) (k kind code : Nat) (mask : Mask) (st : Strand), s.strand k = some st → st.threads.length = 16 →
    let now := s.cycle st.part
    ∃ st', (s.enterHandler k kind code mask).strand k = some st' ∧
      st'.tcause = BitVec.ofNat 32 (code % 2 ^ 16 * 2 ^ 16 + kind) ∧ st'.tmask = mask ∧ st'.priv = true ∧ st'.framed = true ∧
      st'.tvec = st.tvec ∧ st'.regs = st.regs ∧ st'.flags = st.flags ∧ st'.pend = st.pend ∧ st'.ents = st.ents ∧
      st'.bands = st.bands ∧ st'.modew = st.modew ∧ st'.watch = st.watch ∧
      (∀ t < 16,
        (mask.getLsbD t = true → (st'.thread t).st = .live ∧ (st'.thread t).pc = st.tvec) ∧
        (mask.getLsbD t = false → (st.thread t).st = .exited → st'.thread t = st.thread t) ∧
        (mask.getLsbD t = false → (st.thread t).st ≠ .exited → (st'.thread t).st = .parked ∧ (st'.thread t).park = .handler) ∧
        (st'.thread t).stack = (st.thread t).stack ∧ (st'.thread t).depth = (st.thread t).depth) ∧
      ((∀ th ∈ st.threads, recordable now th) →
        frameRecords st'.image 16 = some (st.threads.map (fun th => { th.record now with ptxn := 0 }))) ∧
      { s.enterHandler k kind code mask with strands := s.strands } = s

/-- 07 R168, 17 R335: TRET is illegal with no frame outstanding; a PC of the frame with slot 5 to 7 is the target fault, with nothing
restored, and a frame that is no frame record is reported before it, which is log entry 59, the model's choice; otherwise PRIV is cleared
and every thread that has not exited in the handler takes the state of its record, its times counted again. Releases recorded meanwhile
then take effect (`releaseRecorded`); where every thread has exited, the strand ends (01 R18) once it may; a budget that ran out while the
handler ran is trapped then, which is log entry 62, the model's choice. -/
def Sys2Proof.Claims.handlerReturn : Prop :=
  ∀ (h : Hdr) (s s1 : State) (y : Iss) (rs : List ThreadRec),
    let back : List Nat := (List.range 16).filter (fun t => ¬ ((y.st.thread t).st = .exited ∧ t ∉ y.st.frameEx))
    let last (s : State) : Prop := ∃ st, s.strand y.k = some st ∧ ∀ th ∈ st.threads, th.st = .exited
    let slot (t : Nat) : Nat := ((rs.getD t ⟨0, .live, .none, 0, 0, 0, 0⟩).pc).toNat % 8
    let restored : State := s1.modStrand y.k (fun st => { st with
      priv := false, framed := false, inLine := false, entHeld := false, waitLocs := st.frameLocs, frameLocs := [], frameEx := []
      threads := (List.range 16).map (fun t =>
        let th := st.thread t
        let r := rs.getD t ⟨0, .live, .none, 0, 0, 0, 0⟩
        let waits := r.park = .barw ∨ r.park = .doze
        let rest : Nat := match r.park with
          | .nap => st.frameAt + r.parg
          | .doze => if r.parg = 0 then 0 else st.frameAt + r.parg
          | .barw => r.parg
          | _ => 0
        if th.st = .exited ∧ t ∉ st.frameEx then th
        else { th with pc := r.pc, st := r.st, park := r.park, psel := r.psel, parg := rest, depth := r.depth
                       ptxn := if waits then st.frameTx.getD t 0 else 0, inLane := min r.depth 4 }) })
    let stops (f : Flt) : Prop := exec (.tret h) s = .next (commit s.mem (s.preciseFault y.k f y.pc y.exm y.act))
    Performs (.tret h) s y s1 →
      (y.st.framed = false → stops { cause := 1, lowt := y.lead }) ∧
      (y.st.framed = true → frameRecords y.st.image 16 = none → stops { cause := 1, lowt := y.lead }) ∧
      (y.st.framed = true → frameRecords y.st.image 16 = some rs →
        ((∀ t ∈ back, slot t < 5) → let after := releaseRecorded y.k restored
          let owes (st : Strand) : Prop := ∃ l, aget after.launches st.launch = some l ∧ l.grace.isSome = true
          (∀ st, after.strand y.k = some st → ¬ last after →
            (owes st → Completes (.tret h) s y (budgetTrap y.k after)) ∧ (¬ owes st → Completes (.tret h) s y after)) ∧
          (last after → mayEnd after y.k = false → exec (.tret h) s = .next s) ∧
          (last after → mayEnd after y.k = true → Completes (.tret h) s y (strandEnd y.k after))) ∧
        (∀ pre t post, back = pre ++ t :: post → (∀ u ∈ pre, slot u < 5) → 5 ≤ slot t →
          stops { cause := 7, addr := (rs.getD t ⟨0, .live, .none, 0, 0, 0, 0⟩).pc.toNat, lowt := y.lead }))

/-- 07 R167, 17 R335, R348: taking an exception (`handlerEntry`); 07 R168, 17 R335: returning from it with TRET (`handlerReturn`). -/
def Obligations.HandlerEntryAndReturn : Prop := Claims.handlerEntry ∧ Claims.handlerReturn

/-- 17 R344, R345, R348, R350: a fault of a strand. The halt line rises with its cause and event 0x8002 tells of it, unless it is raised
already; every context of the partition in STATE 1 or 2 becomes halted and keeps what it was; the strand writes its stop record; it
is an originator, with what TCAUSE and TMASK will say, unless it is in its handler or the cause is a machine check. A fault in a
handler is a double trap; in one that runs under the raised line it stops the strand and posts the event. Nothing else of the strand and
no byte of memory changes, so its PCs stay at the instruction. COINC holds the strand's events of the cycle and what coincides with
them (`State.meets`); where the strand has had one of a higher priority in this cycle, the record of that one only gains the bits. -/
def Sys2Proof.Claims.strandFaults : Prop :=
  ∀ (s : State) (k : Nat) (f : Flt) (w : Machine.Where) (kind code : Nat) (mask : Mask) (st : Strand) (p : Part),
    s.strand k = some st → aget s.parts st.part = some p →
    let double := st.priv = true ∧ f.cause ≠ 0x20 ∧ f.cause ≠ 0x30 ∧ f.cause ≠ 0x32
    let cause := if double then 0x32 else f.cause
    let s' := s.strandFault k f w kind code mask
    let now := s.cycle st.part
    let own := if cause = 0x20 then 1 else if cause = 0x30 then 4 else 2
    let before := if st.stopAt = some now then (st.stopRec.extractLsb' 304 16).toNat else 0
    let coinc := before ||| own ||| s.meets k st
    (before % own ≠ 0 → s' = s.modStrand k (fun st =>
      let r := st.stopRec ||| (BitVec.ofNat 1024 coinc <<< 304)
      { st with stopRec := r, image := imagePut st.image 128 0x500 r.toNat })) ∧
    (before % own = 0 →
    (st.inLine = false → p.line = none → (s'.part st.part).line = some cause ∧ (s'.part st.part).lineAt = now ∧
      (s'.part st.part).lineBy = some (.strand k) ∧ (s'.part st.part).events = p.events ++ [(0x8002, cause)] ∧
      (∀ n c, aget s.ctxs ⟨st.part, n⟩ = some c → n < 4 → (c.st = 1 ∨ c.st = 2) →
        aget s'.ctxs ⟨st.part, n⟩ = some { c with st := 4, before := c.st }) ∧
      (∀ c x, aget s.ctxs c = some x → (x.st ≠ 1 ∧ x.st ≠ 2) ∨ c.part ≠ st.part → aget s'.ctxs c = some x)) ∧
    (st.inLine = false → p.line ≠ none → (s'.part st.part).line = p.line ∧ s'.ctxs = s.ctxs ∧ (s'.part st.part).events = p.events) ∧
    (st.inLine = true → (s'.part st.part).line = some cause ∧ s'.ctxs = s.ctxs ∧ (s'.part st.part).events = p.events ++ [(0x8002, cause)]) ∧
    (s'.part st.part).originators = p.originators ++ [k] ∧ s'.mem = s.mem ∧ s'.stores = s.stores ∧ s'.ops = s.ops ∧ s'.lanes = s.lanes ∧
    ∃ st', s'.strand k = some st' ∧
      st'.orig = (if st.priv = true ∨ cause = 0x20 then none else some (kind, code, mask)) ∧
      { st' with orig := st.orig, stopRec := st.stopRec, stopped := st.stopped, image := st.image, stopAt := st.stopAt
                 inLine := st.inLine } = st ∧
      st'.stopped = true ∧ st'.inLine = false ∧ st'.stopAt = some now ∧
      st'.stopRec = StopInfo.bits
        { flt := if double then { f with cause := 0x32, detail := BitVec.ofNat 256 code } else f
          imgref := if w.entry.isSome then 0xFE000000006000 else 0
          issue := (st.issueAddr.map (fun p => p.toNat)).getD 0, pc := w.pc.toNat, seq := (w.entry.map (fun e => e.seq)).getD 0
          exm := (maskOf w.exm).toNat, act := (maskOf w.act).toNat, loc := st.tile * 2 ^ 16 + st.lane * 2 ^ 3 + st.slot
          unit := st.tile * 2 ^ 20 + st.lane * 2 ^ 14 + st.slot, coinc := coinc
          defer := w.entry.isSome, impr := w.impr, ust := st.ust now } s.clk)

/-- 17 R345: the layout of a stop record whose fields lie in their ranges: VALID is set, and each field stands at its bits. -/
def Sys2Proof.Claims.stopRecordLayout : Prop :=
  ∀ (i : StopInfo) (time : Nat),
    let r := i.bits time
    let f (lo w : Nat) : Nat := (r.extractLsb' lo w).toNat
    i.ust < 2 ^ 256 → i.flt.cause < 2 ^ 16 → i.coinc < 2 ^ 5 → i.unit < 2 ^ 32 → i.loc < 2 ^ 32 → i.flt.lowt < 16 → i.act < 2 ^ 16 →
    i.exm < 2 ^ 16 → i.pc < 2 ^ 56 → i.issue < 2 ^ 56 →
    f 0 256 = i.ust ∧ f 256 1 = 1 ∧ f 257 1 = i.orig.toNat ∧ f 258 1 = i.impr.toNat ∧ f 259 1 = i.defer.toNat ∧ f 260 28 = 0 ∧
    f 288 16 = i.flt.cause ∧ f 304 16 = i.coinc ∧ f 320 32 = i.unit ∧ f 352 32 = i.loc ∧ f 384 4 = 0 ∧ f 388 4 = i.flt.lowt ∧
    f 392 8 = 0 ∧ f 400 16 = i.act ∧ f 416 16 = i.exm ∧ f 432 16 = i.seq % 2 ^ 16 ∧ f 448 64 = time % 2 ^ 64 ∧ f 512 64 = i.pc ∧
    f 576 64 = i.issue ∧ f 640 64 = i.imgref % 2 ^ 64 ∧ f 704 64 = i.flt.addr % 2 ^ 64 ∧ f 768 256 = i.flt.detail.toNat

/-- 17 R344, R345, R348, R350: a fault of a strand (`strandFaults`); 17 R345: the layout of a stop record (`stopRecordLayout`). -/
def Obligations.StrandFaultsAndStops : Prop := Claims.strandFaults ∧ Claims.stopRecordLayout

/-- 04 R96: a strand that is ready and meets an instruction whose encoding fails a check takes the precise fault of the first row that
fails: a privileged opcode below the privileged level is the privilege fault (code 2), whatever else is wrong; another illegal
encoding is the illegal-instruction fault (code 1), and a register beyond the declared count the register-index fault (code 3). A strand
that a queue-port, full/empty or task-queue condition holds back is not ready (01 R26), and takes none of them. -/
def Sys2Proof.Claims.encodingFaults : Prop :=
  ∀ (i : Instr) (s : State) (x : Iss) (sh : Shape), issueOf i s = some x → shape i = some sh →
    mayIssue s x.st x.h x.pc x.t0 = true → plan s x ≠ .wait → (s.pkg x.st.part.pkg).feat ≠ 0 →
    let stops (cause : Nat) : Prop :=
      exec i s = .next (commit s.mem (s.preciseFault x.k { cause := cause, lowt := x.lead } x.pc x.exm x.act))
    let held_ : Prop := ∃ eff z, effOf i = some eff ∧ plan s x = .inPlace z none ∧ condUnmet s z eff = true
    (held_ → exec i s = .next s) ∧
    (¬ held_ → Instr.privileged i = true → x.st.priv = false → stops 2) ∧
    (¬ held_ → ¬ (Instr.privileged i = true ∧ x.st.priv = false) → Instr.legal i = false → stops 1) ∧
    (¬ held_ → ¬ (Instr.privileged i = true ∧ x.st.priv = false) → Instr.legal i = true →
      (∃ u ∈ sh.srcs ++ sh.dsts, Use.declared x.st u = false) → (∀ h d cnt key rid, i ≠ .shrmap h d cnt key rid) → stops 3)

/-- 07 R166: TRAP and BRK (`traps`); 04 R96: the faults that an encoding raises (`encodingFaults`). -/
def Obligations.TrapsAndEncodingFaults : Prop := Claims.traps ∧ Claims.encodingFaults

/-! ## Homes: operations accepted and applied, rewrites, copies -/

namespace Sys2Proof.Claims

open Sys2Proof.Machine

/-- The little-endian number in `n` bytes of a memory. -/
def bytesAt (m : List Host.Cell) : Nat → Nat → Nat
  | 0, _ => 0
  | n + 1, a => (memGet m a).toNat + 256 * bytesAt m n (a + 1)

/-- No protected word holds an error, no unit is out of use and no self-test runs (18 R362, R363, R365). -/
def sound (s : State) : Prop :=
  s.latent = [] ∧ (∀ p ∈ s.pkgs, p.2.outOfUse = []) ∧ ∀ m ∈ s.msgs, ∀ p u ts ds since, m.2 ≠ .selfTest p u ts ds since

/-- Nothing that a home has accepted is pending on any of the places, `size` bytes each (10 R248). -/
def noneOn (s : State) (size : Nat) (ks : List (Nat × Home)) : Prop :=
  ∀ p ∈ ks, ∀ e ∈ (s.home p.2).queue, e.addr + e.size ≤ p.1 ∨ p.1 + size ≤ e.addr

/-- Near memory of another package belongs to a partition of a common domain group (17 R341, 19 R379). -/
def remoteOk (s : State) (p : PartId) (h : Home) (key : Nat) : Prop :=
  ∀ pkg stack ch, h = .near pkg stack ch → pkg ≠ p.pkg →
    ∃ q g, s.sliceOwner pkg (key % 2 ^ 45) = some q ∧ (s.part q).group = some g ∧ (s.part p).group = some g

/-- An access of a context at a place is let through, or refused with a fault: an access outside the partition's memory, or one that a
buffer does not admit (17 R341, 08 R211). -/
def allowed (s : State) (c : CtxId) (load : Bool) (p : Nat × Home) : Prop := remoteOk s c.part p.2 p.1 ∧ s.bufferRefuses c p.2 p.1 load = none
def refusedWith (s : State) (c : CtxId) (load : Bool) (p : Nat × Home) (f : Flt) : Prop :=
  (¬ remoteOk s c.part p.2 p.1 ∧ f = { cause := 0x10 }) ∨ (remoteOk s c.part p.2 p.1 ∧ s.bufferRefuses c p.2 p.1 load = some f)

/-- 08 R211: what a buffer admits. -/
def admitted (st : BufSt) (load : Bool) : Prop :=
  if load then st = .full ∨ st = .draining ∨ st = .stationary else st = .filling

/-- A buffer of context `x` holds the address of an access of context `c` at the slice port: of its own, or of another of the partition
that is on the tiles (log entry 16). -/
def inBuffer (s : State) (x c : CtxId) (h : Home) (key n : Nat) (b : Buf) (t : Nat) : Prop :=
  ∃ tile port, h = .slicePort tile port ∧ t = tile.t ∧ (x = c ∨ (x ∈ contextsOf tile.part ∧ s.onTiles x = true)) ∧
    s.bufferAt ⟨x, tile.t⟩ ((key - scratchBase) % 2 ^ 23) = some (n, b)

/-- A place is free in the home's queue (11 R262). -/
def placeFree (s : State) (h : Home) : Prop :=
  (∀ tile port, h = .slicePort tile port → (s.home h).queue.length < 64) ∧
  (∀ pkg stack ch, h = .near pkg stack ch → (s.home h).queue.length < 16)

/-- Nothing of the strand stands before number `n` on its way to the home (10 R244). -/
def inOrder (s : State) (k n : Nat) (h : Home) : Prop :=
  (∀ p ∈ s.ops, p.2.strand = k → p.2.home = h → p.2.stage = .mesh → n ≤ p.1) ∧
  (∀ m ∈ s.msgs, ∀ slot arm va key, m.2 = .arm k slot arm va key h → n ≤ m.1)

/-- What an operation asks of those that left before it for the same instruction, for threads of one instruction stand in strand order:
no acquire of theirs is open, and for a release they, and what they have read, are performed at its scope (08 R193, 10 R244, R250,
R251). -/
def afterLower (s : State) (n : Nat) (o : Op) : Prop :=
  (∀ p ∈ s.ops, p.1 < n → p.2.txn = o.txn →
    (p.2.acq = true → p.2.ret = false) ∧ (o.rel = true → s.performedAt o.strand o.scope p.1 = true)) ∧
  (o.rel = true → o.acq = true → ∀ st, s.strand o.strand = some st → ∀ i ∈ st.seen, s.performedAt o.strand o.scope i.2 = true)

/-- 08 R202: the value an operation leaves in a word of `w` bits that holds x. -/
def operator (opr w v e x : Nat) : Nat :=
  let sx := (BitVec.ofNat w x).toInt
  let sv := (BitVec.ofNat w v).toInt
  let f (n : Nat) : FVal := fp32.decode n
  if opr = 0 then x
  else if opr = 1 ∨ opr = 14 then v
  else if opr = 2 then (x + v) % 2 ^ w
  else if opr = 3 then x &&& v
  else if opr = 4 then x ||| v
  else if opr = 5 then x ^^^ v
  else if opr = 6 then (if sx < sv then v else x)
  else if opr = 7 then (if sv < sx then v else x)
  else if opr = 8 then (if x < v then v else x)
  else if opr = 9 then (if v < x then v else x)
  else if opr = 10 then fp32.arith .rne false ((f x).add .rne (f v))
  else if opr = 11 then fmaxBits fp32 x v
  else if opr = 12 then fminBits fp32 x v
  else if opr = 13 then fp32.arith .rne false ((f v).add .rne (f x).neg)
  else if x = e then v else x

/-- 07 R174: cmp(word & mask, expected & mask), signed for the signed types. -/
def compares (cmp : BitVec 2) (ty : Ty) (exp mask : Dword) (v : Nat) : Prop :=
  let w := if Ty.width ty = 64 then 64 else 32
  let a := (BitVec.ofNat 64 (v % 2 ^ w)) &&& mask
  let b := exp &&& mask
  let num (x : Dword) : Int := if Ty.signed ty then (if w = 64 then x.toInt else (x.truncate 32 : Word).toInt) else (x.toNat % 2 ^ w : Nat)
  if cmp = 0 then a = b
  else if cmp = 1 then a ≠ b
  else if cmp = 2 then num a < num b
  else num b ≤ num a

/-- 11 R270: what an entry leaves in a word that holds x: a composite what its own operator does. -/
def after (w : Nat) : QOp → Nat → Nat
  | .one _ opr v e, x => operator opr w v.toNat e.toNat x % 2 ^ w
  | .comp opr v _ _, x => operator opr w v.toNat 0 x % 2 ^ w

/-- Its operands are of the width of the word. -/
def fits (w : Nat) : QOp → Prop
  | .one _ _ v _ => v.toNat < 2 ^ w
  | .comp _ v e l => v.toNat < 2 ^ w ∧ fits w e ∧ fits w l

/-- 11 R270: the value that each component of an entry returns: the first the word, each later one what the first leaves. -/
def saw (w : Nat) : QOp → Nat → List (Nat × Nat)
  | .one id _ _ _, x => [(id, x)]
  | .comp _ _ e l, x => saw w e x ++ saw w l (after w e x)

end Sys2Proof.Claims

/-- 08 R192, R211, 11 R262; 10 R240, R244; 17 R341; 19 R379: an operation reaches its home after the strand's earlier ones to it. Near
memory of a package whose partition is in no common domain group, and a buffer whose state does not admit it, refuse it: it takes no
place, and its fault is on its way to the strand. Otherwise, once a place is free, it is accepted at the tail of the queue, and an
operation that returns no value completes its part of the instruction; a host-homed line is then as CXL.cache requires (10 R260:
`State.ownLine`). To another package it goes as a flit (19 R377: `State.carry`, log entry 49), and over a die-to-die link as the link is
(18 R360: `State.crossLinks`). -/
def Obligations.HomeAccepts : Prop :=
  ∀ (n : Nat) (o : Op) (s0 s : State), aget s0.ops n = some o → o.stage = .mesh → inOrder s0 o.strand n o.home → afterLower s0 n o →
    s0.carry n o.route = some s →
    let links := crossed ⟨o.ctx.part, o.tile⟩ o.home
    let untested : Prop := s.linkTested o.ctx.part.pkg links = false
    let reach : Prop := ∀ pkg stack ch, o.home = .near pkg stack ch → pkg ≠ o.ctx.part.pkg →
      ∃ q g, s.sliceOwner pkg (o.addr % 2 ^ 45) = some q ∧ (s.part q).group = some g ∧ (s.part o.ctx.part).group = some g
    let refused (f : Flt) : State := ({ s with ops := adel s.ops n } : State).send
      (.faultReport o.strand o.pc { f with addr := o.va, lowt := o.thread } o.txn)
    let entry : QEnt :=
      { op := .one n o.opr o.val o.exp, addr := o.addr, size := o.size, ty := o.ty, fetch := o.fetch, fixed := o.fixed
        ctx := o.ctx, agen := o.agen, strands := [(o.strand, o.fenced)], sync := o.acq || o.rel }
    let load := decide (o.opr = 0)
    let buffer (m : Nat) (b : Buf) (t : Nat) : Flt := { cause := 0x12, detail := BitVec.ofNat 256 (m + 2 ^ 8 * b.st.code + 2 ^ 16 * t) }
    let taken : State := (((s.crossLinks o.ctx.part.pkg links).ownLine o).modOp n (fun o => { o with stage := .queued })).modHome o.home (fun h => { h with queue := h.queue ++ [entry] })
    (¬ reach → Happens (.homeAccept n) s0 (refused { cause := 0x10 })) ∧
    (reach → ∀ m b t, inBuffer s o.ctx o.ctx o.home o.addr m b t → ¬ admitted b.st load →
      Happens (.homeAccept n) s0 (refused (buffer m b t))) ∧
    (reach → (∃ x m b t, inBuffer s x o.ctx o.home o.addr m b t ∧ ¬ admitted b.st load) →
      ∃ x m b t, inBuffer s x o.ctx o.home o.addr m b t ∧ ¬ admitted b.st load ∧ Happens (.homeAccept n) s0 (refused (buffer m b t))) ∧
    (reach → (∀ x m b t, inBuffer s x o.ctx o.home o.addr m b t → admitted b.st load) → placeFree s o.home → untested →
      (o.fetch = true → Happens (.homeAccept n) s0 taken) ∧ (o.fetch = false → Happens (.homeAccept n) s0 (landResult o.txn [] taken))) ∧
    (reach → (∀ x m b t, inBuffer s x o.ctx o.home o.addr m b t → admitted b.st load) → ¬ (placeFree s o.home ∧ untested) →
      exec (.homeAccept n) s0 = .next s0)

/-- 08 R202, 10 R240, R242, 11 R262, R270, 14 R300: the head of a home's queue, a single operation, is applied to the word that memory
holds. The queue loses it; the word holds what the operator makes of it and every other byte is as before; the operation is applied,
waits for the acknowledgement of every tile that holds a copy when it wrote, and an invalidation is on its way to each (of a
host-homed line no other tile holds one then: 10 R260); those that it has absorbed count as performed when it is; an operation that
returns a value returns the one it saw. A typed LDB that sees a header of another format returns none and its format fault is
on its way (08 R198). -/
def Sys2Proof.Claims.singleApplies : Prop :=
  ∀ (hm : Home) (e : QEnt) (rest : List QEnt) (id opr : Nat) (val : BitVec 512) (exp : Dword) (o : Op) (s : State),
    Inv s → sound s → (s.home hm).queue = e :: rest → e.op = .one id opr val exp → e.arm = none → aget s.ops id = some o →
    o.addr = e.addr → o.size = e.size → o.opr = opr → o.fetch = e.fetch → id ∉ e.also →
    let x := bytesAt s.mem e.size e.addr
    let bad : Prop := o.block = true ∧ blkAccepts o.ty (x % 64) = false
    let tiles : List TileId := match hm with
      | .hostLine _ => []
      | _ => if opr = 0 then [] else s.holders (lineKey e.addr)
    let applied : Op := { o with stage := .applied, acks := tiles, lead := id }
    ∃ t, exec (.homeApply hm) s = .next t ∧ (t.home hm).queue = rest ∧
      (opr = 0 → ∀ a, memGet t.mem a = memGet s.mem a) ∧
      (opr ≠ 0 → bytesAt t.mem e.size e.addr = operator opr (8 * e.size) val.toNat exp.toNat x % 2 ^ (8 * e.size)) ∧
      (∀ a, a < e.addr ∨ e.addr + e.size ≤ a → memGet t.mem a = memGet s.mem a) ∧
      (∀ tile ∈ tiles, ∃ n, (n, Msg.inval id tile (lineKey e.addr)) ∈ t.msgs) ∧
      (e.fetch = true → ¬ bad → o.ret = true →
        (∃ n, (n, Msg.result o.txn id (o.writes x)) ∈ t.msgs) ∧
        aget t.ops id = some applied) ∧
      (e.fetch = true → bad → ∃ n f, (n, Msg.faultReport o.strand o.pc f o.txn) ∈ t.msgs ∧ f.cause = 0x11 ∧ f.addr = o.va ∧ f.lowt = o.thread) ∧
      (e.fetch = false → o.ret = false →
        (tiles = [] → aget t.ops id = none) ∧ (tiles ≠ [] → aget t.ops id = some applied)) ∧
      (∀ a ∈ e.also, ∀ p, aget s.ops a = some p → p.ret = false →
        aget t.ops a = if tiles = [] then none else some { p with stage := .applied, acks := tiles, lead := id }) ∧
      t.strands.map (fun p => p.2.regs) = s.strands.map (fun p => p.2.regs) ∧ t.parts = s.parts ∧ t.launches = s.launches

/-- 11 R266, R270: the head of a home's queue, whatever its components. The word holds what the entry leaves; each component that returns a
value returns what it would have seen, and is applied, as is each operation that the entry has absorbed; they wait for the one
invalidation that is on its way to each tile with a copy, under the number of the last component. -/
def Sys2Proof.Claims.compositeApplies : Prop :=
  ∀ (hm : Home) (e : QEnt) (rest : List QEnt) (s : State), Inv s → sound s → (s.home hm).queue = e :: rest → e.arm = none →
    (e.op.ids ++ e.also).Nodup → (∀ p ∈ s.ops, p.1 ∈ e.op.ids ++ e.also → p.2.addr = e.addr ∧ p.2.size = e.size ∧ p.2.block = false) →
    (e.size = 4 ∨ e.size = 8) → fits (8 * e.size) e.op →
    let w := 8 * e.size
    let x := bytesAt s.mem e.size e.addr
    let lead := e.op.ids.getLastD 0
    let wrote : Prop := ∀ id v u, e.op ≠ .one id 0 v u
    let tiles : List TileId := match hm with
      | .hostLine _ => []
      | _ => s.holders (lineKey e.addr)
    ∃ t, exec (.homeApply hm) s = .next t ∧ (t.home hm).queue = rest ∧
      (wrote → bytesAt t.mem e.size e.addr = after w e.op x) ∧ (¬ wrote → t.mem = s.mem) ∧
      (∀ a, a < e.addr ∨ e.addr + e.size ≤ a → memGet t.mem a = memGet s.mem a) ∧
      (wrote → ∀ tile ∈ tiles, ∃ n, (n, Msg.inval lead tile (lineKey e.addr)) ∈ t.msgs) ∧
      (∀ p ∈ saw w e.op x, ∀ o, aget s.ops p.1 = some o → o.fetch = true → o.ret = true →
        (∃ n, (n, Msg.result o.txn p.1 (o.writes p.2)) ∈ t.msgs) ∧
        aget t.ops p.1 = some { o with stage := .applied, lead := lead, acks := if e.op.isWrite ∧ o.opr ≠ 0 then tiles else [] }) ∧
      (∀ n ∈ e.also, ∀ o, aget s.ops n = some o → o.ret = false →
        aget t.ops n = if e.op.isWrite ∧ tiles ≠ [] then some { o with stage := .applied, lead := lead, acks := tiles } else none)

/-- 14 R297, R300, R304: what a write does to the watches of its home, as it is applied. Every entry that covers a byte of it, and whose
comparison holds of the value left, is gone and its wake on its way, to wait until the write is performed; every other entry stays. A
write to a host-homed line instead takes the watch copies of every package that has one: the entries stay and their slots are told. -/
def Sys2Proof.Claims.watchEvaluation : Prop :=
  ∀ (hm : Home) (e : QEnt) (rest : List QEnt) (id opr : Nat) (val : BitVec 512) (exp : Dword) (s : State),
    Inv s → sound s → (s.home hm).queue = e :: rest → e.op = .one id opr val exp → opr ≠ 0 → e.arm = none →
    ∃ t, exec (.homeApply hm) s = .next t ∧
      let hit (w : WEntry) : Prop := w.addr < e.addr + e.size ∧ e.addr < w.addr + w.size ∧
        compares w.cmp w.ty w.exp w.mask (bytesAt t.mem w.size w.addr)
      ((∀ pkg, hm ≠ .hostLine pkg) →
        (∀ w, w ∈ (t.home hm).table ↔ w ∈ (s.home hm).table ∧ ¬ hit w) ∧
        (∀ w ∈ (s.home hm).table, hit w → ∀ k, w.strand = some k → ∃ n, (n, Msg.wake k w.slot w.arm id hm) ∈ t.msgs)) ∧
      (∀ pkg, hm = .hostLine pkg → (t.home hm).table = (s.home hm).table ∧
        ∀ p q, aget s.pkgs p = some q → lineKey e.addr ∈ q.hostCopies → lineKey e.addr ∉ (t.pkg p).hostCopies ∧
          ∀ w ∈ (s.home (.hostLine p)).table, lineKey w.addr = lineKey e.addr → ∀ k st, w.strand = some k → s.strand k = some st →
            (st.watch.getD w.slot {}).arm = w.arm → w.slot < st.watch.length →
            ∃ st', t.strand k = some st' ∧ (st'.watch.getD w.slot {}).backinv = true)

/-- 08 R202, 10 R240, R242, 11 R266, R270, 14 R300, R304: the head of a home's queue is applied: a single operation (`singleApplies`), any composite of them (`compositeApplies`), and what becomes of the watches of the word (`watchEvaluation`). -/
def Obligations.HomeApplies : Prop := Claims.singleApplies ∧ Claims.compositeApplies ∧ Claims.watchEvaluation

/-- 11 R264-R268: a rewrite of two operations pending in one queue. E stands at `pos` and L is the next entry that covers any of its
bytes; both cover the same bytes, neither is fixed, both are of one context and table generation, and no order of one strand stands
between them: operations of one strand are relaxed, with no FENCE between them (`cross`). The bits C, M, A and X of the table in force
allow: L before E; one composite in E's place; E dropped where it returns nothing, to count as performed when L does; both dropped
where neither returns anything and they cancel. Where the bit is not set, no rule of R267 or R268 covers the pair, or a moved operation
may not cross one between, nothing happens. -/
def Sys2Proof.Claims.pendingRewrites : Prop :=
  ∀ (hm : Home) (pre mid post : List QEnt) (e l : QEnt) (s : State),
    let q := pre ++ e :: (mid ++ l :: post)
    let bit (n : Nat) : Bool := (((s.ctx e.ctx).tableOf e.agen).extractLsb' (4 * (16 * e.op.opr + l.op.opr)) 4).getLsbD n
    let into (q' : List QEnt) (gone : List Nat) : State :=
      { s.modHome hm (fun x => { x with queue := q' }) with ops := s.ops.filter (fun o => !gone.contains o.1) }
    let w := 8 * e.size
    let composite (o : Nat) (v : BitVec 512) : QEnt :=
      { e with op := .comp o v e.op l.op, fetch := e.fetch || l.fetch, strands := e.strands ++ l.strands, sync := e.sync || l.sync
               also := e.also ++ l.also }
    let cross (a b : QEnt) : Prop := ∀ p ∈ a.strands, ∀ r ∈ b.strands, p.1 = r.1 → a.sync = false ∧ b.sync = false ∧ p.2 = r.2
    let clear : Prop := ∀ b ∈ mid, cross l b
    let clear2 : Prop := ∀ b ∈ mid, cross l b ∧ cross e b
    let all (x : QEnt) : List Nat := x.op.ids ++ x.also
    let rw (r : Rewrite) : Instr := .pendingRewrite hm pre.length r
    (s.home hm).queue = q → e.fixed = false → l.fixed = false → e.addr = l.addr → e.size = l.size → 0 < e.size → e.ctx = l.ctx →
    e.agen = l.agen → cross e l →
    (∀ m ∈ mid, m.addr + m.size ≤ e.addr ∨ e.addr + e.size ≤ m.addr) →
    (bit 3 = true → clear2 → Happens (rw .commute) s (into (pre ++ l :: (mid ++ e :: post)) [])) ∧
    (bit 2 = true → clear → ∀ o v, composeOp w e.op.opr l.op.opr e.op.val l.op.val = some (o, v) →
      Happens (rw .compose) s (into (pre ++ composite o v :: (mid ++ post)) [])) ∧
    (bit 1 = true → e.fetch = false → Happens (rw .absorb) s (into (pre ++ (mid ++ { l with also := l.also ++ all e } :: post)) [])) ∧
    (bit 0 = true → e.fetch = false → l.fetch = false → cancelOk w e.op.opr l.op.opr e.op.val l.op.val = true →
      Happens (rw .cancel) s (into (pre ++ (mid ++ post)) (all e ++ all l))) ∧
    (bit 3 = false ∨ ¬ clear2 → exec (rw .commute) s = .next s) ∧
    (bit 2 = false ∨ ¬ clear ∨ composeOp w e.op.opr l.op.opr e.op.val l.op.val = none → exec (rw .compose) s = .next s) ∧
    (bit 1 = false ∨ e.fetch = true → exec (rw .absorb) s = .next s) ∧
    (bit 0 = false ∨ e.fetch = true ∨ l.fetch = true ∨ cancelOk w e.op.opr l.op.opr e.op.val l.op.val = false →
      exec (rw .cancel) s = .next s)

/-- 11 R267, R268: the rules by which two operators compose, with the operand that the composite has, and those by which they cancel,
with their condition on the operands; no other pair composes or cancels. In the rows of integers, of FMAX and FMIN and of STORE the
composite writes what the two operations would have written in turn. -/
def Sys2Proof.Claims.composeAndCancelRules : Prop :=
  ∀ (w e l : Nat) (v1 v2 : BitVec 512),
    let a := v1.toNat
    let b := v2.toNat
    let made (o x : Nat) : Prop := composeOp w e l v1 v2 = some (o, BitVec.ofNat 512 x)
    let f (n : Nat) : FVal := fp32.decode n
    let sum := fp32.arith .rne false ((f a).add .rne (f b))
    let diff := fp32.arith .rne false ((f b).add .rne (f a).neg)
    (e = l → (2 ≤ e ∧ e ≤ 9) ∨ e = 11 ∨ e = 12 → made e (operator e w b 0 a)) ∧
    (e = 10 → l = 10 → made 10 sum) ∧ (e = 13 → l = 13 → made 10 diff) ∧ (e = 10 → l = 13 → made 13 diff) ∧
    (e = 13 → l = 10 → made 13 sum) ∧
    (e = 1 → 2 ≤ l → l ≤ 14 → made 1 (operator l w b 0 a)) ∧
    (∀ x o v, (e = l ∧ ((2 ≤ e ∧ e ≤ 9) ∨ e = 11 ∨ e = 12)) ∨ (e = 1 ∧ 2 ≤ l ∧ l ≤ 14) → w = 32 ∨ w = 64 → x < 2 ^ w → a < 2 ^ w → b < 2 ^ w →
      composeOp w e l v1 v2 = some (o, v) → operator o w v.toNat 0 x = operator l w b 0 (operator e w a 0 x)) ∧
    (¬ (e = l ∧ 2 ≤ e ∧ e ≤ 13) → ¬ (e = 10 ∧ l = 13) → ¬ (e = 13 ∧ l = 10) → ¬ (e = 1 ∧ 2 ≤ l ∧ l ≤ 14) →
      composeOp w e l v1 v2 = none) ∧
    (cancelOk w e l v1 v2 = true ↔ e = l ∧ (
      (e = 2 ∧ (a + b) % 2 ^ w = 0) ∨ (e = 5 ∧ a = b) ∨
      (e = 10 ∧ f32Finite a = true ∧ a % 2 ^ 31 ≠ 0 ∧ b = a ^^^ 2 ^ 31) ∨ (e = 13 ∧ f32Finite a = true ∧ a = b)))

/-- 11 R264 to R268: how pending operations are rewritten (`pendingRewrites`), and which operators compose and cancel (`composeAndCancelRules`). -/
def Obligations.PendingRules : Prop := Claims.pendingRewrites ∧ Claims.composeAndCancelRules

namespace Sys2Proof.Claims

open Sys2Proof.Machine

/-- What a message does to a slot that still holds the arm it names; a slot that a later WATCH or UNWATCH has replaced, and a strand
that has ended, discard it (14 R298). Then the strand's DOZEs are looked at. -/
def slotAfter (k slot arm : Nat) (f : Watch → Watch) (s : State) : State :=
  match s.strand k with
  | none => s
  | some st =>
    if st.status ≠ .ended ∧ (st.watch.getD slot {}).arm = arm then
      (dozeCheck k (s.modStrand k (fun st => { st with watch := lset st.watch slot f }))).unparkBranch k
    else s

end Sys2Proof.Claims

/-- 08 R192, R199; 10 R240, R242, R260: an invalidation drops the tile's copy and is acknowledged; an acknowledgement is one fewer to
wait for, for every operation that the write stands for (11 R270), and one that waits for none, and has nothing to return, is forgotten
as performed; a fill brings the line as memory holds it, unless the tile has a write to it on its way, into a cache of 8,192 lines (00
R1); a write-back leaves the line clean, or drops it, and completes its instruction; the faults that homes found for one instruction are
reported once, when all its operations are applied or refused, as the imprecise fault of the lowest thread that has one. Invalidations,
acknowledgements and fills between packages arrive as flits (19 R377: `State.arrives`). That a fill which crosses a write of its own tile
brings nothing is log entry 57, and which line leaves a full cache (of those at the lowest retention, else of all, the one held longest)
log entry 59: the model's choices. -/
def Sys2Proof.Claims.copiesAndReports : Prop :=
  ∀ (n : Nat) (s0 s : State), s0.stores = [] →
    (∀ op tile line, aget s0.msgs n = some (.inval op tile line) → s0.arrives n = some s → Happens (.invalidationArrival n) s0
      (((s.dropMsg n).modTile tile (fun t => { t with copies := adel t.copies line })).send (.ack op tile))) ∧
    (∀ op tile, aget s0.msgs n = some (.ack op tile) → s0.arrives n = some s →
      let acked (s : State) (i : Nat) : State := match aget s.ops i with
        | none => s
        | some o =>
          if o.stage = .applied ∧ o.acks.erase tile = [] ∧ o.ret = false then { s with ops := adel s.ops i }
          else { s with ops := aput s.ops i { o with acks := o.acks.erase tile } }
      let led := (s.ops.filter (fun o => decide (o.1 = op ∨ o.2.lead = op))).map (fun o => o.1)
      Happens (.invalidationAcknowledgement n) s0 (led.foldl acked (s.dropMsg n))) ∧
    (∀ tile line k low, aget s0.msgs n = some (.fill tile line k low) → s0.arrives n = some s →
      let out : Prop := ∃ p ∈ s.ops, p.2.ctx.part = tile.part ∧ p.2.tile = tile.t ∧ lineKey p.2.addr = line ∧
        (p.2.opr ≠ 0 ∨ p.2.atom = true) ∧ p.2.stage ≠ .applied
      let own := ((aget (s.tile tile).copies line).map (fun c => c.modified)).getD false
      let copy : Copy := { data := BitVec.ofNat 512 (bytesAt s.mem 64 line), modified := own, low := low }
      let u := s.dropMsg n
      let room (m : Assoc Nat Copy) : Assoc Nat Copy :=
        let others := m.filter (fun p => p.1 ≠ line)
        match (others.filter (fun p => p.2.low) ++ others).head? with
        | some p => if m.length ≤ 8192 then m else adel m p.1
        | none => m
      (out → Happens (.tileCacheFill n) s0 (s.dropMsg n)) ∧
      (¬ out → Happens (.tileCacheFill n) s0 (((if hostBase ≤ line then u.unmodify (some tile) line else u).modTile tile (fun t =>
        { t with copies := room (aput t.copies line copy) })).clean (.copy tile line)))) ∧
    (∀ txn tile line drop, aget s0.msgs n = some (.writeback txn tile line drop) →
      let u := (s0.dropMsg n).modTile tile (fun t => { t with
        copies := if drop then adel t.copies line else amod t.copies line (fun c => { c with modified := false }) })
      Happens (.hostWritebackAck n) s0 (unparkOwner txn s0 (landResult txn [] u))) ∧
    (∀ k pc f txn st, aget s0.msgs n = some (.faultReport k pc f txn) → s0.strand k = some st →
      (∀ o ∈ s0.ops, o.2.txn = txn → o.2.stage = .applied) →
      ∃ g ∈ s0.reportsOf txn, (∀ h ∈ s0.reportsOf txn, g.lowt ≤ h.lowt) ∧ ((g.cause ≠ 0x21 ∨ (s0.part st.part).line = none) →
        Happens (.impreciseFaultReport n) s0 (({ s0 with msgs := s0.msgs.filter (fun m => match m.2 with
          | .faultReport _ _ _ t => t != txn
          | _ => true) } : State).impreciseFault k g pc)))

/-- Where a host access goes: through the virtual function of a partition to the granules of its slice in ascending order, or to the
host's own memory (19 R372). -/
def Sys2Proof.Claims.hostAt (s : State) (pkg : Nat) (fn : HostFn) (addr key : Nat) (hm : Home) : Prop :=
  (fn = .own ∧ hostBase ≤ addr ∧ key = addr ∧ hm = .hostLine pkg) ∨
  ∃ pid g, fn = .vf pid ∧ (s.part ⟨pkg, pid⟩).gran[addr / 10000000000]? = some g ∧
    key = pkg * 2 ^ 45 + (10000000000 * g + addr % 10000000000) ∧ hm = devHome pkg (10000000000 * g + addr % 10000000000)

/-- 10 R248, R260, 14 R300, R304, 19 R371, R372, R375: what the host does, once what the home has accepted on the same bytes is applied.
A write through a virtual function to the slice of its partition, or to the host's own memory, puts its bytes there and changes no other
byte; tiles that hold a device line are sent an invalidation, no tile keeps a host-homed line and no package its watch copy, and the
host's copy is gone. A read changes no byte: the host then holds the device line, or a host-homed line is no longer modified in any tile.
Nothing else of device memory is reached. A back-invalidation of a watched host line leaves its entries armed and marks their slots
BACKINV, whose DOZEs are released in the same cycle (log entry 31, the model's choice); the refetch takes the copy again and evaluates the
entries. A failed lane of the host link is detected. -/
def Sys2Proof.Claims.hostAccesses : Prop :=
  (∀ (pkg addr key : Nat) (fn : HostFn) (hm : Home) (bytes : List (BitVec 8)) (s : State), Inv s → sound s → bytes ≠ [] →
    addr % 64 + bytes.length ≤ 64 → hostAt s pkg fn addr key hm →
    (∀ e ∈ (s.home hm).queue, e.addr + e.size ≤ key ∨ key + bytes.length ≤ e.addr) →
    ∃ t, exec (.hostMemAccess pkg (.write fn addr bytes)) s = .next t ∧
      (∀ i < bytes.length, memGet t.mem (key + i) = bytes.getD i 0) ∧
      (∀ a, a < key ∨ key + bytes.length ≤ a → memGet t.mem a = memGet s.mem a) ∧
      (hm ≠ .hostLine pkg → ∀ tile ∈ s.holders (lineKey key), ∃ n op, (n, Msg.inval op tile (lineKey key)) ∈ t.msgs) ∧
      (hm = .hostLine pkg → (∀ tile, aget (t.tile tile).copies (lineKey key) = none) ∧ ∀ p ∈ t.pkgs, lineKey key ∉ p.2.hostCopies) ∧
      lineKey key ∉ t.hostHeld ∧ t.strands.map (fun p => p.2.regs) = s.strands.map (fun p => p.2.regs) ∧ t.parts = s.parts) ∧
  (∀ (pkg addr key size : Nat) (fn : HostFn) (hm : Home) (s : State), Inv s → sound s → 0 < size → addr % 64 + size ≤ 64 →
    hostAt s pkg fn addr key hm → (∀ e ∈ (s.home hm).queue, e.addr + e.size ≤ key ∨ key + size ≤ e.addr) →
    (hm ≠ .hostLine pkg → Happens (.hostMemAccess pkg (.read fn addr size)) s
      { s with hostHeld := if lineKey key ∈ s.hostHeld then s.hostHeld else lineKey key :: s.hostHeld }) ∧
    (hm = .hostLine pkg → Happens (.hostMemAccess pkg (.read fn addr size)) s
      { s with tiles := s.tiles.map (fun t => (t.1, { t.2 with
          copies := amod t.2.copies (lineKey addr) (fun c => { c with modified := false }) })) })) ∧
  (∀ (pkg addr size : Nat) (fn : HostFn) (bytes : List (BitVec 8)) (s : State), (∀ key hm, ¬ hostAt s pkg fn addr key hm) →
    exec (.hostMemAccess pkg (.write fn addr bytes)) s = .next s ∧ exec (.hostMemAccess pkg (.read fn addr size)) s = .next s) ∧
  (∀ (pkg : Nat) (p : Pkg) (s : State), aget s.pkgs pkg = some p → sound s →
    Happens (.hostMemAccess pkg .laneFault) s (s.detect pkg hostUnit [] 4 2 0 0 0)) ∧
  (∀ (pkg line : Nat) (p : Pkg) (s : State), aget s.pkgs pkg = some p →
    let entries := (s.home (.hostLine pkg)).table.filter (fun e => lineKey e.addr = line)
    let watchers := entries.filterMap (fun e => e.strand)
    let dropped : State := s.modPkg pkg (fun p => { p with hostCopies := p.hostCopies.filter (fun l => l ≠ line) })
    let marked : State := entries.foldl (fun s e => match e.strand with
      | some k => s.modStrand k (fun st => if (st.watch.getD e.slot {}).arm = e.arm then
          { st with watch := lset st.watch e.slot (fun w => { w with backinv := true }) } else st)
      | none => s) dropped
    let again : State := s.modPkg pkg (fun p => { p with hostCopies := line :: p.hostCopies })
    (line ∈ p.hostCopies → Happens (.backInvalidation pkg line) s (watchers.foldl (fun s k => dozeCheck k s) marked)) ∧
    (line ∉ p.hostCopies → watchers ≠ [] → Happens (.hostLineRefetch pkg line) s (evalWatches (.hostLine pkg) line 64 0 again)))

/-- 08 R192, R199, 10 R240, R242: copies and reports (`copiesAndReports`); 10 R260, 14 R300, R304, 19 R372: what the host does (`hostAccesses`). -/
def Obligations.CopiesReportsAndHost : Prop := Claims.copiesAndReports ∧ Claims.hostAccesses

/-- 07 R174, R176; 14 R297-R303, 17 R341, 18 R369: watches. An arm reaches the home after the strand's earlier operations to it and takes a
place in its queue; a buffer that would not admit a load refuses it, and so does near memory of a package that is in no common group. At the head of the queue it compares the word: where the comparison holds
no entry is placed and the slot is satisfied, and an older copy of the line leaves the tile (R302); otherwise an entry is placed, in a full table in the place of the partition's earliest
entry, or of the table's, whose slot is told. The acknowledgement, a wake whose write is performed and that no earlier wake of its home to the lane
precedes, and an eviction change the slot that still holds the arm; an acknowledgement that refuses completes the WATCH too, which is log
entry 62, the model's choice; an acknowledged disarm leaves no entry of the arm in any table. -/
def Sys2Proof.Claims.watches : Prop :=
  (∀ (n k slot arm va key : Nat) (hm : Home) (st : Strand) (s0 s : State), aget s0.msgs n = some (.arm k slot arm va key hm) →
    aget s0.ops n = none → s0.strand k = some st → inOrder s0 k n hm → s0.arrives n = some s →
    let w := st.watch.getD slot {}
    let links := crossed st.tileId hm
    let untested : Prop := s.linkTested st.part.pkg links = false
    let reach : Prop := ∀ pkg stack ch, hm = .near pkg stack ch → pkg ≠ st.part.pkg →
      ∃ q g, s.sliceOwner pkg (key % 2 ^ 45) = some q ∧ (s.part q).group = some g ∧ (s.part st.part).group = some g
    let e : QEnt :=
      { op := .one 0 0 0 0, arm := some (k, slot, arm), addr := key, size := if Ty.width w.ty = 64 then 8 else 4, ty := w.ty
        fetch := true, fixed := true, ctx := st.ctx, agen := 0, strands := [(k, 0)], sync := true }
    let lead := ((aget s.txns arm).map (fun t => t.act.headD 0)).getD 0
    let refused (f : Flt) : State := (s.dropMsg n).send (.armAck k slot arm false true false { f with addr := va, lowt := lead } hm)
    let buffer (m : Nat) (b : Buf) (t : Nat) : Flt := { cause := 0x12, detail := BitVec.ofNat 256 (m + 2 ^ 8 * b.st.code + 2 ^ 16 * t) }
    (¬ reach → Happens (.homeAccept n) s0 (refused { cause := 0x10 })) ∧
    (reach → ∀ m b t, inBuffer s st.ctx st.ctx hm key m b t → ¬ admitted b.st true → Happens (.homeAccept n) s0 (refused (buffer m b t))) ∧
    (reach → (∃ x m b t, inBuffer s x st.ctx hm key m b t ∧ ¬ admitted b.st true) →
      ∃ x m b t, inBuffer s x st.ctx hm key m b t ∧ ¬ admitted b.st true ∧ Happens (.homeAccept n) s0 (refused (buffer m b t))) ∧
    (reach → (∀ x m b t, inBuffer s x st.ctx hm key m b t → admitted b.st true) → placeFree s hm → untested →
      Happens (.homeAccept n) s0 (((s.crossLinks st.part.pkg links).dropMsg n).modHome hm (fun x => { x with queue := x.queue ++ [e] })))) ∧
  (∀ (hm : Home) (q : QEnt) (rest : List QEnt) (k slot arm : Nat) (st : Strand) (s : State), Inv s → sound s →
    (s.home hm).queue = q :: rest → q.arm = some (k, slot, arm) → s.strand k = some st →
    let w := st.watch.getD slot {}
    let again := st.rearms.contains arm
    let popped : State := s.modHome hm (fun x => { x with queue := x.queue.tail })
    let ack (sat ag : Bool) (s : State) : State := s.send (.armAck k slot arm sat false ag { cause := 0 } hm)
    let entry : WEntry :=
      { strand := some k, slot := slot, arm := arm, part := st.part, addr := q.addr, size := q.size, ty := w.ty, cmp := w.cmp
        exp := w.exp, mask := w.mask }
    let v := bytesAt s.mem q.size q.addr
    let live := st.status = .resident ∧ w.arm = arm
    let full (m : Nat) (s' : State) : Prop := ∀ t0, (s.home hm).table = t0 →
      (t0.length < m → s' = popped.modHome hm (fun x => { x with table := t0 ++ [entry] })) ∧
      (m ≤ t0.length → ∀ pre victim post, t0 = pre ++ victim :: post →
        ((victim.part = st.part ∧ ∀ u ∈ pre, u.part ≠ st.part) ∨ (pre = [] ∧ ∀ u ∈ t0, u.part ≠ st.part)) →
        let swapped : State := popped.modHome hm (fun x => { x with table := t0.filter (fun u => u ≠ victim) ++ [entry] })
        ∀ k', victim.strand = some k' → s' = swapped.send (.evict k' victim.slot victim.arm hm))
    (¬ live → Happens (.watchArm hm) s (ack false false popped)) ∧
    (live → compares w.cmp w.ty w.exp w.mask v → Happens (.watchArm hm) s (ack true again
      ((match aget (s.tile st.tileId).copies (lineKey q.addr) with
        | some c => if c.data = BitVec.ofNat 512 (bytesAt s.mem 64 (lineKey q.addr)) then popped
          else popped.modTile st.tileId (fun t => { t with copies := adel t.copies (lineKey q.addr) })
        | none => popped).slotBrings k slot arm q.addr q.size))) ∧
    (live → ¬ compares w.cmp w.ty w.exp w.mask v →
      ∃ s', Happens (.watchArm hm) s (ack false again (watchCopy hm (lineKey q.addr) s')) ∧
        (∀ tile port, hm = .slicePort tile port → full 16 s') ∧ (∀ pkg stack ch, hm = .near pkg stack ch → full 32 s') ∧
        (∀ pkg, hm = .hostLine pkg → full 1024 s'))) ∧
  (∀ (n k slot arm : Nat) (hm : Home) (s0 s : State),
    (∀ sat ag f, aget s0.msgs n = some (.armAck k slot arm sat false ag f hm) → s0.arrives n = some s →
      let u := (unparkOwner arm s (landResult arm [] (s.dropMsg n))).modStrand k (fun st => { st with
        rearms := st.rearms.filter (fun a => a ≠ arm) })
      Happens (.armAck n) s0 (dozeCheck k (slotAfter k slot arm (fun w =>
        if sat then { w with st := .satisfied }
        else { w with st := if w.st = .arming then .armed else w.st, resumed := w.resumed || ag }) u))) ∧
    (∀ sat ag f st tx, aget s0.msgs n = some (.armAck k slot arm sat true ag f hm) → s0.arrives n = some s → s.strand k = some st → st.status ≠ .ended →
      aget s.txns arm = some tx →
      let u := (unparkOwner arm s (landResult arm [] (s.dropMsg n))).modStrand k (fun st => { st with
        rearms := st.rearms.filter (fun a => a ≠ arm) })
      Happens (.armAck n) s0 ((dozeCheck k (slotAfter k slot arm (fun w => { w with st := .disarmed }) u)).impreciseFault k f tx.pc)) ∧
    (∀ op, aget s0.msgs n = some (.wake k slot arm op hm) → s0.arrives n = some s →
      (∀ o, aget s.ops op = some o → o.stage = .applied ∧ o.acks = []) →
      (∀ m ∈ s.msgs, ∀ k' sl ar op', m.2 = .wake k' sl ar op' hm → m.1 < n →
        (s.strand k').map (fun st => st.laneId) ≠ (s.strand k).map (fun st => st.laneId)) →
      Happens (.wakeMessage n) s0 (slotAfter k slot arm (fun w =>
        if w.st = .armed ∨ w.st = .arming then { w with st := .satisfied } else w) (s.dropMsg n))) ∧
    (aget s0.msgs n = some (.evict k slot arm hm) → s0.arrives n = some s → Happens (.evictionMessage n) s0
      (slotAfter k slot arm (fun w => { w with st := .disarmed, evicted := true }) (s.dropMsg n))) ∧
    (∀ txn, aget s0.msgs n = some (.disarm txn k slot arm) → ∃ t, exec (.disarmAck n) s0 = .next t ∧ aget t.msgs n = none ∧
      (∀ hm, ∀ e ∈ (t.home hm).table, ¬ (e.strand = some k ∧ e.slot = slot ∧ e.arm = arm) ∧ e ∈ (s0.home hm).table) ∧
      (∀ hm, ∀ e ∈ (s0.home hm).table, ¬ (e.strand = some k ∧ e.slot = slot ∧ e.arm = arm) → e ∈ (t.home hm).table) ∧
      (s0.stores = [] → t.mem = s0.mem)))

/-- 14 R307, 17 R344: the snare of a context whose count has reached its interval, with the line down: the halt line rises with cause
0x34 and its event, the context is halted and keeps what it was, its count starts again, and every strand of it that only the context
itself could release writes a stop record. No byte of memory changes. -/
def Sys2Proof.Claims.snare : Prop :=
  ∀ (c : CtxId) (x : Ctx) (q : Part) (s : State), s.stores = [] → aget s.ctxs c = some x → aget s.parts c.part = some q →
    c.n < 4 → q.line = none → (x.st = 1 ∨ x.st = 2) → snareInterval s c ≤ x.snare →
    ∃ t, exec (.snare c) s = .next t ∧ (t.part c.part).line = some 0x34 ∧ (t.part c.part).events = q.events ++ [(0x8002, 0x34)] ∧
      t.ctx c = { x with st := 4, before := x.st, snare := 0 } ∧ t.mem = s.mem ∧ t.ops = s.ops ∧ t.msgs = s.msgs ∧
      ∀ k st, aget s.strands k = some st → st.ctx = c → st.status = .resident → st.allExited = false → internalWait s st = true →
        ∃ st', t.strand k = some st' ∧ st'.stopped = true ∧ st'.threads = st.threads ∧ st'.regs = st.regs

/-! ## Deferring mode, and what reaches a lane -/

/-- 02 R45-R47, R49, R59: capture. In deferring mode, where a register or ordered instruction has an unsettled input (its predicate, a
source, a destination or a flag it waits for), meets AFTER, and the strand's quota, the lane's 32 entries and its 256 lines, some of
which may leave, have room, the strand gets a residual entry and nothing is executed. The entry holds the slot, the PC, the executing threads, the
active ones where the predicate is settled (that of TASK.spec is no input, and is looked at when the entry drains: 09 R221), what was unsettled, and the values of settled uniform sources; the executing threads'
PCs advance; no register, flag count or byte of memory changes; the lane is occupied for one cycle or one per captured line, and it is
an issue of the strand. Without room for another entry the strand parks, or faults where QFLT asks for it, before room for SETF or for
lines is looked at (log entry 59); sources of more than two registers are read at the drain (log entry 12): the model's choices. -/
def Obligations.Captures : Prop :=
  ∀ (i : Instr) (x : Iss) (w : Slot) (s : State), s.stores = [] → issueOf i s = some x → mayIssue s x.st x.h x.pc x.t0 = true →
    r96 s i x.sh x.st = none → (s.lane x.st.laneId).busy ≤ x.t0 → encode i = some w → x.st.deferring = true →
    (x.sh.cls = .register ∨ x.sh.cls = .ordered) → x.st.threads.length = 16 → s.healthy x.st.part.pkg = true →
    let tag (l : Nat) : Bool := x.st.tagged l x.t0
    let predTag := x.h.pred != 0 && tag (predLoc x.h.pred.toNat)
    let predUns := predTag = true ∧ Instr.isSpecTask i = false
    let act := if predTag = true ∧ Instr.isSpecTask i = true then x.exm else x.act
    let srcUns := ∃ l ∈ x.sh.srcLocs x.st, tag l = true
    let dstUns := ∃ l ∈ x.sh.dstLocs x.st, tag l = true
    let waitUns := ∃ j < 12, x.h.wait.getLsbD j = true ∧ (x.st.flagCount j x.t0 ≠ 0 ∨ x.st.residual (flagLoc j) x.t0 = true)
    let taken := x.sh.srcs.filter (fun u => Use.settled x.st x.t0 u && !x.sh.uncaptured u)
    let lines := ((taken.filter (fun u => decide (Opd.kind u.o = .vec))).map (fun u => u.n)).sum
    (predUns ∨ srcUns ∨ dstUns ∨ waitUns) → (predUns ∨ act ≠ []) → linesHeld s x.k x.st (taken.flatMap Use.locs) = true →
    let pinned : State := s.modLane x.st.laneId (useLines x.k (taken.flatMap Use.locs) [] (x.t0 + max lines 1 - 1))
    (x.st.ents.length < x.st.quota → s.laneEnts x.st.laneId < 32 → setfOk x.st x.h x.t0 = true →
      (makeRoom x.st.laneId lines x.t0 256 pinned).isSome = true →
      ∃ t st' e, exec i s = .next t ∧ t.strand x.k = some st' ∧ st'.ents = x.st.ents ++ [e] ∧
        e.inst = w ∧ e.pc = x.pc ∧ e.exm = maskOf x.exm ∧ e.seq = x.st.seq ∧ e.gen = x.st.gen ∧ e.ord = x.sh.ordered ∧
        e.actm = (if predTag then none else some (maskOf x.act)) ∧
        (e.cause % 2 = 1 ↔ waitUns) ∧ (e.cause / 2 % 2 = 1 ↔ srcUns) ∧ (e.cause / 4 % 2 = 1 ↔ dstUns) ∧
        (e.cause / 8 % 2 = 1 ↔ x.sh.ordered = true) ∧ (e.cause / 32 % 2 = 1 ↔ predUns) ∧
        (∀ l ∈ x.sh.dstLocs x.st, l ∈ e.tags) ∧ (∀ j, x.h.setf = some j → flagLoc j.val ∈ e.tags) ∧ e.lines.length = lines ∧
        (∀ u ∈ taken, Opd.kind u.o = .uni → (u.pos = .a ∨ u.pos = .b ∨ u.pos = .c) → srcAt x.sh u.pos = u →
          e.ucap.getD u.pos.index none = some (readOpd s x u 0)) ∧
        (∀ th < 16, st'.thread th = if th ∈ x.exm then { x.st.thread th with pc := nextPc x.pc } else x.st.thread th) ∧
        st'.regs = x.st.regs ∧ st'.flags = x.st.flags ∧ st'.pend = x.st.pend ∧ st'.seq = (x.st.seq + 1) % 2 ^ 16 ∧
        st'.win = (x.st.win || x.sh.ordered) ∧ st'.lastS = x.t0 ∧ st'.lastE = some (x.t0 + max lines 1 - 1) ∧
        (t.lane x.st.laneId).busy = x.t0 + max lines 1 ∧ t.mem = s.mem ∧ t.msgs = s.msgs ∧ t.ops = s.ops) ∧
    (x.st.quota ≤ x.st.ents.length →
      (x.st.modew.getLsbD 14 = true → exec i s = .next (commit s.mem (s.preciseFault x.k { cause := 6 } x.pc x.exm act))) ∧
      (x.st.modew.getLsbD 14 = false → exec i s = .next (commit s.mem (s.modStrand x.k (parkAll .quota []))))) ∧
    (x.st.ents.length < x.st.quota → 32 ≤ s.laneEnts x.st.laneId →
      exec i s = .next (commit s.mem (s.modStrand x.k (parkAll .quota []))))

/-- 02 R44, R48, R49, R55, R56: the oldest entry of a strand drains, once its lane is free and everything it still needs is settled. It
executes as captured: its executing threads, its active threads or those of the predicate now, and its effect on the present state;
PCs do not move. Then it is gone, the window stays open while an ordered entry is left, and SETF counts its flag. An entry whose effect
stops leaves everything as it was, and its fault is that of a drain; so does one whose record has a zero field that is not zero, or
no instruction that can drain, as an illegal instruction (R59). It waits for an earlier fence or acquire (08 R203), and for arms sent anew
(14 R305). -/
def Obligations.Drains : Prop :=
  (∀ (k : Nat) (e : Entry) (rest : List Entry) (st : Strand) (r : Reject) (s : State),
    s.strand k = some st → st.ents = e :: rest → st.runs s = true → (s.lane st.laneId).busy ≤ s.cycle st.part → st.entHeld = false →
    st.holdTxn = none → st.rearms = [] → decode e.inst = .error r →
    exec (.residualDrain k) s = .next (commit s.mem (s.drainFault k { cause := 1 } e ((e.actm.map threadsOf).getD [])))) ∧
  ∀ (k : Nat) (e : Entry) (rest : List Entry) (st : Strand) (i : Instr) (sh : Shape) (h : Hdr) (eff : Effect) (s : State),
    s.strand k = some st → st.ents = e :: rest → st.runs s = true → (s.lane st.laneId).busy ≤ s.cycle st.part →
    st.entHeld = false → st.holdTxn = none → st.rearms = [] → s.healthy st.part.pkg = true →
    decode e.inst = .ok i → shape i = some sh → Instr.hdr? i = some h → effOf i = some eff →
    let now := s.cycle st.part
    let act := match e.actm with
      | some m => threadsOf m
      | none => (threadsOf e.exm).filter (fun t => s.predBit st h.pred.toNat t now != h.neg)
    let x : Iss := { k := k, st := st, i := i, sh := sh, h := h, pc := e.pc, t0 := now, exm := threadsOf e.exm, act := act, ent := some e }
    (sh.deferrable = false ∨ e.bad = true → exec (.residualDrain k) s = .next (commit s.mem (s.drainFault k { cause := 1 } e
      ((e.actm.map threadsOf).getD [])))) ∧
    (sh.deferrable = true → e.bad = false →
    drainSettled st sh e h now = true → (∀ j < 12, h.wait.getLsbD j = true → st.flagCount j now = 0) → setfOk st h now = true →
    pendOk st sh = true → linesHeld s k st sh.namedLocs = true → memReady s x = true →
    (∀ u, performs x s eff = .ok u → ∀ ust, u.strand k = some ust → ust.flags.length = 12 →
      ust.ents = st.ents → ust.laneId = st.laneId →
      ∃ t st', exec (.residualDrain k) s = .next t ∧ t.strand k = some st' ∧ st'.ents = rest ∧ st'.win = rest.any (fun e => e.ord) ∧
        st'.regs = ust.regs ∧ st'.lastS = now ∧ st'.lastE = some x.last ∧ st'.threads.map (fun th => th.pc) = ust.threads.map (fun th => th.pc) ∧
        (∀ j, h.setf = some j → st'.flags.getD j.val 0 = ust.flags.getD j.val 0 + 1) ∧ (h.setf = none → st'.flags = ust.flags) ∧
        (sh.isLong = false → ∀ l ∈ sh.dstLocs st, (x.last + 6, l) ∈ st'.rtags) ∧
        (sh.isLong = true → st'.rtags = ust.rtags.filter (fun r => decide (now < r.1)) ++ (predLocs sh.ps).map (fun l => (x.last, l))) ∧
        (sh.isLong = false ∨ act = [] → st'.pend = ust.pend) ∧
        (sh.isLong = true → act ≠ [] → st'.pend = addPend ust.pend (sh.dstLocs st)) ∧
        (t.lane st.laneId).busy = x.last + 1 ∧ t.mem = (commit s.mem u).mem ∧ t.msgs = u.msgs ∧ t.ops = u.ops ∧ t.parts = u.parts) ∧
    (∀ f, performs x s eff = .stop f → exec (.residualDrain k) s = .next (commit s.mem (s.drainFault k f e act))))

/-- 04 R81, R82, R87; 17 R338, R339: the line at a strand's issue address is fetched where its page has been translated and may be
executed: from the tile's copy, or from memory, and stands in the lane's buffer, bad where a check of the whole line fails. A page that
may not be executed is the translation fault at the issue address, and one in the image the address fault (17 R336). Where no translation
is held, the walk of the line's address comes first, once nothing is pending on the table entries it reads: the tables it goes through
enter the walk cache of the die, its leaf the tile's translation cache; an invalid entry is a page fault, any other failure the
translation fault, as is a line in another package's near memory that is in no common group (R341). That a failed walk counts at once and
a leaf enters the cache is log entry 55; that the walk caches hold the 256 newest entries and the translation caches the 4,096 newest is
log entry 64: the model's choices. -/
def Sys2Proof.Claims.fetchAndWalk : Prop :=
  ∀ (k : Nat) (st : Strand) (pc : Pc) (s : State), Inv s → sound s → s.strand k = some st → st.runs s = true →
    st.issueAddr = some pc → s.fetched st pc = none →
    let va := (linePc pc).toNat
    let entered (key : Nat) (b : Line) : State := s.modLane st.laneId (fun l => { l with
      buf := l.buf ++ [{ launch := st.launch, va := va, data := b, bad := !lineOk b, key := key }] })
    (pc.toNat / 2 ^ 48 = 0xFE → Happens (.lineFetch k) s (s.issueFault k { cause := 0x0E, addr := va })) ∧
    (pc.toNat / 2 ^ 48 ≠ 0xFE →
    (∀ e, s.tlbFind st.tileId st.ctx pc.toNat = some e → e.leaf.getLsbD 6 = true →
      let key := lineKey (leafKey s st.part.pkg e.leaf (va % 2 ^ e.log))
      let held := BitVec.ofNat 512 (bytesAt s.mem 64 key)
      let reach : Prop := ∀ pkg stack ch, homeOf st.part st.tile key = .near pkg stack ch → pkg ≠ st.part.pkg →
        ∃ q g, s.sliceOwner pkg (key % 2 ^ 45) = some q ∧ (s.part q).group = some g ∧ (s.part st.part).group = some g
      (¬ reach → Happens (.lineFetch k) s (s.issueFault k { cause := 0x10, addr := va })) ∧
      (reach → ∀ c, aget (s.tile st.tileId).copies key = some c → parityOk c.data = true → Happens (.lineFetch k) s (entered key c.data)) ∧
      (reach → aget (s.tile st.tileId).copies key = none → parityOk held = true → Happens (.lineFetch k) s (entered key held))) ∧
    (∀ e, s.tlbFind st.tileId st.ctx pc.toNat = some e → e.leaf.getLsbD 6 = false →
      Happens (.lineFetch k) s (s.issueFault k { cause := 0x10, addr := va })) ∧
    (s.tlbFind st.tileId st.ctx pc.toNat = none →
      (∀ p ∈ s.walkPlaces (s.walkCache st.tileId) st.ctx va, ∀ e ∈ (s.home p.2).queue, e.addr + e.size ≤ p.1 ∨ p.1 + 8 ≤ e.addr) →
      let walked := s.walkVia st.tileId st.ctx va
      let cache := s.walkCache st.tileId
      let path := walkPath s cache st.ctx va (s.ctx st.ctx).root walkLevels
      let u : State := { s with walks := aput s.walks (st.part.pkg, st.tile % 4) ((path ++ cache.filter (fun e => !path.contains e)).take 256) }
      (∀ log leaf, walked = .leaf log leaf → Happens (.pageWalk k) s
        (u.modTile st.tileId (fun x => { x with tlb := ({ ctx := st.ctx, va := va, log := log, leaf := leaf } :: x.tlb).take 4096 }))) ∧
      (walked = .page → Happens (.pageWalk k) s
        ((u.modStrand k (fun st => { st with repl := true })).postBy st.part (.strand k) 0x8001 (va + 2 ^ 64 * st.unit))) ∧
      (walked = .bad → Happens (.pageWalk k) s (u.issueFault k { cause := 0x10, addr := va }))))

/-- 17 R338-R342: a walk through the page tables, with the help of a walk cache (none of it: a walk of the I/O die). Each level finds its
entry in the cache, or where its table indexes it with its bits of the address; a table may lie in any package that the address names
(`lost` where no package has that rank). An entry with V = 0 ends it in a page fault; a table entry with a bit of [11:2], or any entry
with a bit of [63:55] or [3:2], or a leaf that R341 refuses, that is not aligned to its page, or that stands at level 4 or 3, or a table
at level 0, ends it in a translation fault; a leaf at level 2, 1 or 0 is the translation of 1 GiB, 2 MiB or 64 KiB. -/
def Sys2Proof.Claims.pageTables : Prop :=
  ∀ (s : State) (w : List WalkE) (c : CtxId) (va : Nat),
    let root := (s.ctx c).root
    let r := walkFrom s w c va root walkLevels
    let found (table lo n : Nat) (e : Dword) : Prop := match walkHit w c va lo with
      | some h => e = h
      | none => ∃ q, s.ofRank c.part.pkg (table / 2 ^ 45) = some q ∧
          e = BitVec.ofNat 64 (s.read 8 (q * 2 ^ 45 + (table % 2 ^ 45 + 8 * (va / 2 ^ lo % 2 ^ n))))
    let lost (table lo : Nat) : Prop := walkHit w c va lo = none ∧ s.ofRank c.part.pkg (table / 2 ^ 45) = none
    let next (e : Dword) : Nat := (e.extractLsb' 12 42).toNat * 2 ^ 12
    let clean (e : Dword) : Prop := e.extractLsb' 55 9 = 0 ∧ e.extractLsb' 2 2 = 0
    let table (e : Dword) : Prop := e.getLsbD 0 = true ∧ e.getLsbD 1 = false ∧ clean e ∧ e.extractLsb' 2 10 = 0
    let leaf (e : Dword) (log : Nat) : Prop := e.getLsbD 0 = true ∧ e.getLsbD 1 = true ∧ clean e ∧ next e % 2 ^ log = 0 ∧
      leafAllowed s c.part log e = true
    let ends (e : Dword) (log : Nat) (mayLeaf mayTable : Prop) : Prop :=
      (e.getLsbD 0 = false → r = .page) ∧ (mayLeaf → leaf e log → r = .leaf log e) ∧
      (e.getLsbD 0 = true → ¬ (mayLeaf ∧ leaf e log) → ¬ (mayTable ∧ table e) → r = .bad)
    (lost root 48 → r = .bad) ∧
    (∀ e4, found root 48 8 e4 → ends e4 48 False True ∧ (table e4 → (lost (next e4) 39 → r = .bad) ∧
      (∀ e3, found (next e4) 39 9 e3 → ends e3 39 False True ∧ (table e3 → (lost (next e3) 30 → r = .bad) ∧
        (∀ e2, found (next e3) 30 9 e2 → ends e2 30 True True ∧ (table e2 → (lost (next e2) 21 → r = .bad) ∧
          (∀ e1, found (next e2) 21 9 e1 → ends e1 21 True True ∧ (table e1 → (lost (next e1) 16 → r = .bad) ∧
            (∀ e0, found (next e1) 16 5 e0 → ends e0 16 True False)))))))))

/-- 04 R81, R82, R87, 17 R338, R339: the fetch of a line and its walk (`fetchAndWalk`); 17 R338 to R342: the page tables (`pageTables`). -/
def Obligations.FetchAndTranslation : Prop := Claims.fetchAndWalk ∧ Claims.pageTables

/-- 01 R23, R30; 02 R44, R47; 07 R161, R165: a register line that the strand's next instruction or oldest entry names, and that its lane
does not hold, is filled; where the lane holds 256 lines, captured ones among them, in the place of an evictable line, or else of the
least recently used one, that no instruction in progress has pinned, and with none of those it waits (of several evictable lines the
first goes: log entry 59, the model's choice); completions of
fixed-latency instructions that are due leave the flag counts, and residual tags that are due are cleared; a return stack that is spilling
or needs its entries gets them; a NAP that has run out makes its thread live. -/
def Sys2Proof.Claims.laneTimes : Prop :=
  ∀ (k : Nat) (st : Strand) (s : State), s.strand k = some st →
    let now := s.cycle st.part
    let due := st.timers.filter (fun c => decide (c.1 ≤ now))
    (∀ line, st.status = .resident → line ∈ wantedRegLines s k st → s.testing (.reg k line) = false →
      let fresh : HeldLine := { strand := k, line := line, used := now }
      let put (ls : List HeldLine) (s : State) : State := s.modLane st.laneId (fun x => { x with lines := ls ++ [fresh] })
      let ls := (s.lane st.laneId).lines
      let size := ls.length + s.laneCapt st.laneId
      let loose (h : HeldLine) : Prop := h.pin ≤ now
      (size < 256 → Happens (.registerLineFill k line) s (put ls s)) ∧
      (size = 256 → ∀ pre v post, ls = pre ++ v :: post → loose v →
        ((v.evictable = true ∧ ∀ h ∈ pre, loose h → h.evictable = false) ∨
          ((∀ h ∈ ls, loose h → h.evictable = false) ∧ (∀ h ∈ pre, loose h → v.used < h.used) ∧ ∀ h ∈ post, loose h → v.used ≤ h.used)) →
        Happens (.registerLineFill k line) s
          (put (ls.filter (fun h => !(h.strand == v.strand && h.line == v.line))) (writeLine v s))) ∧
      (256 ≤ size → (∀ h ∈ ls, ¬ loose h) → exec (.registerLineFill k line) s = .next s)) ∧
    ((due ≠ [] ∨ ∃ r ∈ st.rtags, r.1 ≤ now) → st.flags.length = 12 → (∀ c ∈ due, c.2 < 12) →
      ∃ t st', exec (.fixedLatencyCompletion k) s = .next t ∧ t.strand k = some st' ∧
        (∀ j < 12, st'.flags.getD j 0 = st.flags.getD j 0 - (due.filter (fun c => c.2 = j)).length) ∧
        st'.timers = st.timers.filter (fun c => decide (now < c.1)) ∧ st'.rtags = st.rtags.filter (fun r => decide (now < r.1)) ∧
        st'.regs = st.regs ∧ st'.pend = st.pend ∧ (s.stores = [] → t.mem = s.mem)) ∧
    ((st.stackBusy = true ∨ ∃ th ∈ st.threads, th.inLane = 0 ∧ th.depth ≠ 0) →
      Happens (.returnStackFill k) s (s.modStrand k (fun st => { st with
        stackBusy := false
        threads := st.threads.map (fun th => if th.inLane = 0 ∧ th.depth ≠ 0 then { th with inLane := min 4 th.depth } else th) }))) ∧
    (∀ n, st.status = .resident → (st.thread n).st = .parked → (st.thread n).park = .nap → (st.thread n).parg ≤ now →
      Happens (.napExpiry k n) s (s.modStrand k (fun st => st.modThread n (fun th =>
        { th with st := .live, park := .none, psel := 0, parg := 0, ptxn := 0 }))))

/-- 14 R307, 17 R344: the snare (`snare`); 01 R23, R30, 02 R44, 07 R161, R165: what becomes due in a lane (`laneTimes`). -/
def Obligations.SnareAndLaneTimes : Prop := Claims.snare ∧ Claims.laneTimes

/-- 07 R175, 14 R298: the reason word that a DOZE on a mask of slots is released with, or that it is not released; and its release, which
makes its threads live, writes the word and disarms or clears the slots it reports, unless the raised line holds the strand (17 R344) or
arms sent anew are still to be acknowledged (reason 3, 14 R305). The first reason in the order satisfied, evicted, back-invalidated,
resumed and timeout holds; with no slot armed the reason is 5. No DOZE is released before the last cycle of its instruction, in which its
threads park. -/
def Sys2Proof.Claims.dozeReleases : Prop :=
  (∀ (ws : List Watch) (sel : Nat) (timed : Bool), 0 < sel → sel < 16 →
    let w (n : Nat) : Watch := ws.getD n {}
    let named (f : Watch → Bool) (n : Nat) : Nat := if sel / 2 ^ n % 2 = 1 ∧ f (w n) = true then 2 ^ n else 0
    let slots (f : Watch → Bool) : Nat := named f 0 + named f 1 + named f 2 + named f 3
    let sat := slots (fun w => w.st == .satisfied)
    let ev := slots (fun w => w.evicted)
    let bi := slots (fun w => w.backinv)
    let rs := slots (fun w => w.resumed)
    let on := slots (fun w => w.st == .arming || w.st == .armed)
    dozeReason ws sel timed =
      if sat ≠ 0 then some (16 * sat)
      else if ev ≠ 0 then some (2 + 16 * ev)
      else if bi ≠ 0 then some (4 + 16 * bi)
      else if rs ≠ 0 then some (3 + 16 * rs)
      else if timed then some 1
      else if on = 0 then some (5 + 16 * sel)
      else none) ∧
  (∀ (k t v : Nat) (st : Strand) (s : State), s.strand k = some st → st.status = .resident → st.threads.length = 16 → t < 16 →
    (st.thread t).st = .parked → (st.thread t).park = .doze → ((s.part st.part).line = none ∨ st.inLine = true) →
    (v % 16 = 3 → st.rearms = []) → (st.thread t).since ≤ s.cycle st.part →
    dozeReason st.watch (st.thread t).psel ((st.thread t).parg != 0 && decide ((st.thread t).parg ≤ s.cycle st.part)) = some v →
    ∃ u st', exec (.dozeTimeout k) s = .next u ∧ u.strand k = some st' ∧ (st'.thread t).st = .live ∧ (st'.thread t).park = .none ∧
      (v % 16 = 0 → ∀ n < 4, v / 16 / 2 ^ n % 2 = 1 → n < st.watch.length → (st'.watch.getD n {}).st = .disarmed) ∧
      (v % 16 = 2 → ∀ n < 4, v / 16 / 2 ^ n % 2 = 1 → n < st.watch.length → (st'.watch.getD n {}).evicted = false) ∧
      (∀ x j, aget s.txns (st.thread t).ptxn = some x → x.dst = .v j → st.shr = [] →
        (⟨s.cycle st.part, vecKey j.val t, BitVec.ofNat 32 v, s.cycle st.part⟩ : RegWr) ∈ st'.regs))

/-- 07 R174 to R176, 14 R297 to R300, R303: watches at their homes, with evictions (`watches`), and the release of a DOZE (`dozeReleases`). -/
def Obligations.WatchesAndReleases : Prop := Claims.watches ∧ Claims.dozeReleases

/-- 01 R23, R25, R33; 08 R203; 09 R234, R238: a result lands. The last of an instruction's results writes its words, visible from the
cycle on, counts the flag down, clears the pending counts and lets the strand issue again; to a strand that has ended or has another
generation nothing lands. A fence's result waits for what the fence waits for; an EWAIT for its condition, whose word it writes; a
QFENCE for the commands it names. A result from another package arrives as a flit (19 R377: `State.arrives`). -/
def Sys2Proof.Claims.landings : Prop :=
  ∀ (n txn : Nat) (tx : Txn) (st : Strand) (s s2 : State), s.stores = [] → aget s.txns txn = some tx → tx.left ≤ 1 →
    s.strand tx.strand = some st → st.shr = [] →
    let now := s.cycle st.part
    let lands (ws : List (Nat × Word)) (i : Instr) : Prop := ∃ t st', exec i s = .next t ∧ t.strand tx.strand = some st' ∧
      aget t.txns txn = none ∧ aget t.msgs n = none ∧ t.mem = s.mem ∧
      (st.status ≠ .ended → st.gen = tx.gen →
        st'.regs = (ws.map (fun w => (⟨now, w.1, w.2, now⟩ : RegWr))).reverse ++ st.regs ∧ st'.pend = subPend st.pend tx.locs ∧
        (∀ j, tx.flag = some j → st'.flags = lset st.flags j (fun c => c - 1)) ∧ (tx.flag = none → st'.flags = st.flags) ∧
        (st.holdTxn = some txn → st'.holdTxn = none) ∧ (st.holdTxn ≠ some txn → st'.holdTxn = st.holdTxn)) ∧
      (st.status = .ended ∨ st.gen ≠ tx.gen → st'.regs = st.regs ∧ st'.flags = st.flags ∧ st'.pend = st.pend)
    (∀ op ws, aget s.msgs n = some (.result txn op ws) → aget st.fences txn = none → s.arrives n = some s2 → lands ws (.resultLands n)) ∧
    (∀ op ws f, aget s.msgs n = some (.result txn op ws) → aget st.fences txn = some f →
      ((∀ i ∈ s.fenceList tx.strand f, s.waitsFor tx.strand f.scope i = false) → s.arrives n = some s2 → lands ws (.resultLands n)) ∧
      ((∃ i ∈ s.fenceList tx.strand f, s.waitsFor tx.strand f.scope i = true) → exec (.resultLands n) s = .next s)) ∧
    (∀ k c, aget s.msgs n = some (.ewait txn k c) →
      (∀ v, c.holds s k = some v → lands (resultWords tx.dst false [] (v.zeroExtend 64)) (.resultLands n)) ∧
      (c.holds s k = none → exec (.resultLands n) s = .next s)) ∧
    (∀ k ids, aget s.msgs n = some (.qwait txn k ids) →
      ((∀ p ∈ (s.strand k).elim [] (fun st => st.placed), p.2 ∉ ids) → lands [] (.resultLands n)) ∧
      ((∃ p ∈ (s.strand k).elim [] (fun st => st.placed), p.2 ∈ ids) → exec (.resultLands n) s = .next s))

namespace Sys2Proof.Claims

open Sys2Proof.Machine

/-- 10 R245: a tile with agents in the instance of a scope for a strand, where band scope means the band of a key. -/
def tileIn (s : State) (st : Strand) (sc : Scope) (band : Option Nat) (t : TileId) : Prop :=
  match sc with
  | .thread | .strand | .tile => t = st.tileId
  | .band => t = st.tileId ∨ ∃ key, band = some key ∧ ∃ m ∈ (s.bandOf st.launch key).members, ∃ su, s.strand m = some su ∧ su.tileId = t
  | .pkg | .dflt => t.part.pkg = st.part.pkg
  | .dom | .sys => t.part.pkg = st.part.pkg ∨ ((s.pkg st.part.pkg).inDomain = true ∧ (s.pkg t.part.pkg).inDomain = true)

/-- 10 R245: a strand in the instance of a scope for another. -/
def strandIn (s : State) (k : Nat) (st : Strand) (sc : Scope) (band : Option Nat) (j : Nat) (su : Strand) : Prop :=
  match sc with
  | .thread | .strand => j = k
  | .band => j = k ∨ ∃ key, band = some key ∧ su.launch = st.launch ∧ j ∈ (s.bandOf st.launch key).members
  | _ => tileIn s st sc band su.tileId

/-- 10 R240, R242: an operation that is performed for a strand at a scope: gone, or applied with no acknowledgement open of a tile in the
instance; at a scope of the strand alone, strand order says as much. -/
def performedFor (s : State) (st : Strand) (sc : Scope) (band : Option Nat) (n : Nat) : Prop :=
  sc = .thread ∨ sc = .strand ∨ (sc = .band ∧ band = none) ∨
    ∀ o, aget s.ops n = some o → o.stage = .applied ∧ ∀ t ∈ o.acks, ¬ tileIn s st sc band t

/-- 10 R251: what comes before a release of a strand: its own operations, and the writes that its reads returned or that happen before
it. -/
def comesBefore (s : State) (k : Nat) (st : Strand) (n : Nat) : Prop :=
  (∃ p ∈ s.ops, p.1 = n ∧ p.2.strand = k) ∨ ∃ rd, (rd, n) ∈ st.seen

/-- A write that a read of these bytes may have returned before it is performed (10 R251). -/
def openWrite (s : State) (key size n : Nat) : Prop :=
  ∃ p ∈ s.ops, p.1 = n ∧ p.2.opr ≠ 0 ∧ p.2.stage = .applied ∧ p.2.acks ≠ [] ∧ p.2.addr < key + size ∧ key < p.2.addr + p.2.size

/-- A release that stands at these bytes, and one that an acquire of the strand at a scope synchronises with: each of the two strands is
in the instance of the other's scope (10 R246, R252). -/
def releaseAt (s : State) (key size : Nat) (w : Sync) : Prop := w ∈ s.syncs ∧ w.addr < key + size ∧ key < w.addr + w.size
def synchronises (s : State) (k : Nat) (st : Strand) (sc : Scope) (w : Sync) : Prop :=
  (∀ su, s.strand w.strand = some su → strandIn s k st sc st.band w.strand su) ∧
    ∃ r ∈ w.scopes, ∀ su, s.strand w.strand = some su → strandIn s w.strand su r w.band k st

end Sys2Proof.Claims

/-- 08 R203, 09 R238, 10 R240, R245, R246, R250 to R252, R256, R257, 13 R291, 14 R302: what is waited for. When an operation is performed at
a scope; when a fence has nothing left to wait for, what its reads returned meanwhile among it; when a release may be issued and the
release condition of a command holds; what a read adds to what its strand's releases wait for, and what an acquire or the wake of a DOZE
adds; and what an EWAIT waits for, with the word it writes. -/
def Sys2Proof.Claims.waitRules : Prop :=
  ∀ (k : Nat) (st : Strand) (s : State), s.strand k = some st →
    (∀ sc band n, s.performedIn k sc band n = true ↔ performedFor s st sc band n) ∧
    (∀ sc n, s.waitsFor k sc n = false ↔ performedFor s st sc st.band n ∧ (∀ o, aget s.ops n = some o → o.ret = false) ∧ aget s.msgs n = none) ∧
    (∀ f n, n ∈ s.fenceList k f ↔ n ∈ f.waits ∨ (f.ord ≠ 0 ∧ ∃ rd ∈ f.waits, (rd, n) ∈ st.seen)) ∧
    (∀ sc ids, s.relMet k sc ids = true ↔ ∀ n, (n ∈ ids ∨ ∃ rd ∈ ids, (rd, n) ∈ st.seen) →
      performedFor s st sc st.band n ∧ aget s.msgs n = none) ∧
    (∀ (x : Iss) sc band, x.k = k → (relGate s x sc band = true ↔ sc = .thread ∨ sc = .strand ∨ (sc = .band ∧ band = none) ∨
      ((∀ n, comesBefore s k st n → performedFor s st sc band n) ∧ ∀ m ∈ s.msgs,
        (∀ b t n kd pc l bid, m.2 ≠ .bar b t k n kd pc l bid) ∧ ∀ c b t n kd pc l bid, m.2 ≠ .dom c b t k n kd pc l bid))) ∧
    (∀ n, n ∈ s.pendingBefore k ↔ comesBefore s k st n ∧ ∃ o, aget s.ops n = some o ∧ o.opr ≠ 0 ∧ ¬ (o.stage = .applied ∧ o.acks = [])) ∧
    (∀ rd acq key size,
      let u := s.sees k rd acq key size
      let sync (w : Sync) : Prop := ∃ sc, acq = some sc ∧ synchronises s k st sc w
      { u with strands := s.strands } = s ∧ ∃ st', u.strand k = some st' ∧ { st' with seen := st.seen, heard := st.heard } = st ∧
        (∀ r n, (r, n) ∈ st'.seen ↔ (r, n) ∈ st.seen ∨ (r = rd ∧ (openWrite s key size n ∨ ∃ w, releaseAt s key size w ∧ sync w ∧ n ∈ w.before))) ∧
        (∀ w, w ∈ st'.heard ↔ w ∈ st.heard ∨ (releaseAt s key size w ∧ ¬ sync w))) ∧
    (∀ sc, ∃ st', (s.fenceAcquires k sc).strand k = some st' ∧
      (∀ r n, (r, n) ∈ st'.seen ↔ (r, n) ∈ st.seen ∨ (r = 0 ∧ ∃ w ∈ st.heard, synchronises s k st sc w ∧ n ∈ w.before)) ∧
      (∀ w, w ∈ st'.heard ↔ w ∈ st.heard ∧ ¬ synchronises s k st sc w)) ∧
    (∀ slot arm key size, slot < st.watch.length → (st.watch.getD slot {}).arm = arm →
      ∃ st', (s.slotBrings k slot arm key size).strand k = some st' ∧
        ∀ n, n ∈ (st'.watch.getD slot {}).brings ↔ openWrite s key size n ∨ ∃ w, releaseAt s key size w ∧ synchronises s k st .sys w ∧ n ∈ w.before) ∧
    (∀ tc eng ring v, EWait.holds s k (.ready tc eng ring) = some v ↔ ∃ r, ringOf s tc eng ring = some r ∧
      v = BitVec.ofNat 32 (r.signalled % r.n) ∧ (r.fill = true → r.signalled < r.done) ∧
      (r.fill = false → r.signalled < r.total ∧ ∃ b, aget (s.tc tc).bufs (r.first + r.signalled % r.n) = some b ∧ b.st = .filling)) ∧
    (∀ tc eng ring v, EWait.holds s k (.done tc eng ring) = some v ↔ v = 0 ∧ ringOf s tc eng ring = none) ∧
    (∀ ids v, EWait.holds s k (.coll ids) = some v ↔ v = 0 ∧ ∀ p ∈ st.placed, p.2 ∉ ids) ∧
    (∀ p region w v, EWait.holds s k (.seq p region w) = some v ↔ ∃ r, aget (s.part p).regions region = some r ∧
      v = BitVec.ofNat 32 r.next ∧ (r.next + 2 ^ 32 - w) % 2 ^ 32 < 2 ^ 31 ∧
      ∀ n ∈ r.waits, ∀ o, aget s.ops n = some o → o.stage = .applied ∧ o.acks = [])

/-- 01 R23, R25, R33, 08 R203, 09 R234, R238: a result lands (`landings`); 08 R203, 09 R238, 10 R240, R245, R246, R250 to R252, R256, R257, 13 R291, 14 R302: what fences, releases, commands and EWAIT wait for (`waitRules`). -/
def Obligations.ResultsLand : Prop := Claims.landings ∧ Claims.waitRules

/-! ## Barrier homes, counters and their messages -/

namespace Sys2Proof.Claims

open Sys2Proof.Machine

/-- The message is the first of its strand at the home of the launch's records. -/
def firstAt (s : State) (b : BarId) (k n : Nat) : Prop :=
  ∀ p ∈ s.msgs, ∀ b' txn cnt kind pc lowt bid, p.2 = .bar b' txn k cnt kind pc lowt bid → b'.launch = b.launch → n ≤ p.1

/-- The message is the first of its strand at the counter. -/
def firstAtCtr (s : State) (ctr k n : Nat) : Prop :=
  ∀ p ∈ s.msgs, ∀ b txn cnt kind pc lowt bid, p.2 = .dom ctr b txn k cnt kind pc lowt bid → n ≤ p.1

/-- It follows what the home has applied in the current cycle (13 R288). -/
def inTurn (now lastAt lastBy place : Nat) : Prop := lastAt = now → lastBy < place

/-- DETAIL of the over-arrival fault (17 R346): BID, PHASE, EXP, COUNT, n. -/
def overWord (bid phase exp count n : Nat) : BitVec 256 :=
  BitVec.ofNat 256 (bid + 2 ^ 32 * (phase % 2 ^ 32) + 2 ^ 64 * exp + 2 ^ 96 * count + 2 ^ 128 * n)

/-- Message `m` has been sent in `t`. -/
def sent (t : State) (m : Msg) : Prop := ∃ n, (n, m) ∈ t.msgs

/-- Tile, lane and slot of strand `a` come before those of `b` (13 R288). -/
def placedBefore (a b : Strand) : Prop :=
  a.tile < b.tile ∨ (a.tile = b.tile ∧ (a.lane < b.lane ∨ (a.lane = b.lane ∧ a.slot < b.slot)))

end Sys2Proof.Claims

/-- 13 R287, R290, R292, R294: one arrival message at the home of a record that counts its own phases. More arrivals than EXP allows
are refused: the record is unchanged, and the over-arrival fault is on its way to the strand with BID, PHASE, EXP, COUNT and n. Otherwise
they count, and drops with them; the arrival that makes COUNT equal EXP completes the phase: EXP falls by the drops, COUNT and DROP
are 0, PHASE is one more, and a release is on its way to every member, with the writes that happen before the arrivals. BARA with D is answered with the phase it counted in, and
BARW's threads wait for it. A record of a domain barrier forwards the message to its counter. The home keeps, besides, which cycle it
applied the message in and its place in that cycle. -/
def Sys2Proof.Claims.barrierArrivals : Prop :=
  ∀ (b : BarId) (n txn k cnt bid lowt : Nat) (kind : BarKind) (bl : List Nat) (pc : Pc) (l : Launch) (s : State), s.stores = [] →
    aget s.msgs n = some (.bar b txn k cnt kind pc lowt bid) → firstAt s b k n → aget s.launches b.launch = some l →
    (kind = .bard bl ∨ kind = .bara true bl ∨ kind = .bara false bl ∨ kind = .barw bl) →
    let band := s.bandOf b.launch b.key
    let now := s.cycle l.ctx.part
    let place := BarMsg.place s ⟨n, b, txn, k, cnt, kind, pc, lowt, bid⟩
    let kept (x : Band) : Band := { x with lastAt := now, lastBy := place }
    let drop := band.drop + if kind = .bard bl then cnt else 0
    let before := band.before ++ bl
    let e : Instr := .barrierMessage b [n]
    band.members ≠ [] → band.bid = bid → inTurn now band.lastAt band.lastBy place →
    (band.dom = false → band.exp < band.count + cnt →
      ∃ t, exec e s = .next t ∧ t.bandOf b.launch b.key = kept band ∧ t.mem = s.mem ∧
        sent t (.barRefuse k pc { cause := 0x0B, lowt := lowt, detail := overWord bid band.phase band.exp band.count cnt })) ∧
    (band.dom = false → band.count + cnt < band.exp →
      ∃ t, exec e s = .next t ∧ t.bandOf b.launch b.key = kept { band with count := band.count + cnt, drop := drop, before := before } ∧
        t.mem = s.mem) ∧
    (band.dom = false → band.count + cnt = band.exp →
      ∃ t, exec e s = .next t ∧ t.mem = s.mem ∧
        t.bandOf b.launch b.key =
          kept { band with exp := band.exp - drop, count := 0, drop := 0, before := [], past := s.pastOf band before, phase := (band.phase + 1) % 2 ^ 32 } ∧
        ∀ m ∈ band.members, sent t (.barRel m b.key band.phase before)) ∧
    (band.dom = false → band.count + cnt ≤ band.exp →
      (kind = .bara true bl → ∃ t, exec e s = .next t ∧ sent t (.barAns txn (BitVec.ofNat 32 band.phase) false)) ∧
      (kind = .barw bl → ∀ st, s.strand k = some st → ∃ t st', exec e s = .next t ∧ t.strand k = some st' ∧
        st'.threads = st.threads.map (fun th => if th.ptxn = txn ∧ th.park = .barw then { th with parg := band.phase } else th))) ∧
    (band.dom = true → ∀ ctr, domCtr s b = some ctr →
      ∃ t, exec e s = .next t ∧ t.bandOf b.launch b.key = kept band ∧ (n, .dom ctr b txn k cnt kind pc lowt bid) ∈ t.msgs)

/-- 07 R173; 13 R286-R288, R290, R293, R294; 17 R344: BARI at a record that holds arrivals answers the band fault; otherwise it sets
EXP, but BARI.dom, which sets EXP and DOM at once, and a BARI at a record of a domain barrier, goes to the counter that the launch names,
or answers the band fault where it names none (that a plain BARI asks the counter, and what a BARI.dom keeps until it is answered, is
read by inference: log entry 24); BARQ is answered with PHASE. Messages that reach
the home in one cycle are applied BARI first, then BARD, then BARA and BARW, then BARQ, and by tile, lane and slot among those of one
kind, however they are given: one that ought to have come before another is not applied in that cycle any more. An answer writes D and
completes its instruction, or faults it; a completion releases every thread of the strand that BARW parked for its phase, with the phase
in D, and is recorded for the threads that a handler holds, or where the raised line holds the strand; a refusal is the strand's
over-arrival fault. -/
def Sys2Proof.Claims.barrierMessages : Prop :=
  (∀ (b : BarId) (n txn k cnt bid lowt : Nat) (kind : BarKind) (pc : Pc) (l : Launch) (s : State), s.stores = [] →
    aget s.launches b.launch = some l → firstAt s b k n → aget s.msgs n = some (.bar b txn k cnt kind pc lowt bid) →
    let band := s.bandOf b.launch b.key
    let now := s.cycle l.ctx.part
    let place := BarMsg.place s ⟨n, b, txn, k, cnt, kind, pc, lowt, bid⟩
    let kept (x : Band) : Band := { x with lastAt := now, lastBy := place }
    let e : Instr := .barrierMessage b [n]
    band.members ≠ [] → band.bid = bid → inTurn now band.lastAt band.lastBy place →
    (∀ count dom, kind = .bari count dom →
      ∃ t, exec e s = .next t ∧ t.mem = s.mem ∧
        (band.count ≠ 0 → t.bandOf b.launch b.key = kept band ∧ sent t (.barAns txn 0 true)) ∧
        (band.count = 0 → (dom = true ∨ band.dom = true) →
          (∀ ctr, domCtr s b = some ctr → (n, .dom ctr b txn k cnt kind pc lowt bid) ∈ t.msgs ∧ t.bandOf b.launch b.key = kept
            (if dom then { band with exp := count, dom := true, asked := aput band.asked txn (band.exp, band.dom) } else band)) ∧
          (domCtr s b = none → sent t (.barAns txn 0 true) ∧ t.bandOf b.launch b.key = kept band)) ∧
        (band.count = 0 → dom = false → band.dom = false →
          t.bandOf b.launch b.key = kept { band with exp := count, dom := false } ∧ sent t (.barAns txn 0 false))) ∧
    (kind = .barq →
      ∃ t, exec e s = .next t ∧ t.mem = s.mem ∧ t.bandOf b.launch b.key = kept band ∧
        sent t (.barAns txn (BitVec.ofNat 32 band.phase) false))) ∧
  (∀ (b : BarId) (m1 m2 : BarMsg) (s1 s2 : Strand) (l : Launch) (s : State),
    let raw (m : BarMsg) : Msg := .bar b m.txn m.strand m.cnt m.kind m.pc m.lowt m.bid
    aget s.msgs m1.n = some (raw m1) → aget s.msgs m2.n = some (raw m2) → m1.b = b → m2.b = b → m1.strand ≠ m2.strand →
    aget s.launches b.launch = some l →
    firstAt s b m1.strand m1.n → firstAt s b m2.strand m2.n → s.strand m1.strand = some s1 → s.strand m2.strand = some s2 →
    s1.part = s2.part → s1.lane < 64 → s2.lane < 64 → s1.slot < 8 → s2.slot < 8 → s1.tile < 192 → s2.tile < 192 →
    (m1.kind.rank < m2.kind.rank ∨ (m1.kind.rank = m2.kind.rank ∧ placedBefore s1 s2)) →
    let band := s.bandOf b.launch b.key
    let now := s.cycle l.ctx.part
    let kept (m : BarMsg) (t : State) : State := t.modBand b.launch b.key (fun x => { x with lastAt := now, lastBy := m.place s })
    (inTurn now band.lastAt band.lastBy (m1.place s) → inTurn now band.lastAt band.lastBy (m2.place s) →
      Happens (.barrierMessage b [m1.n, m2.n]) s (kept m2 (applyBar m2 (applyBar m1 s))) ∧
      Happens (.barrierMessage b [m2.n, m1.n]) s (kept m2 (applyBar m2 (applyBar m1 s))) ∧
      Happens (.barrierMessage b [m1.n]) s (kept m1 (applyBar m1 s))) ∧
    (band.lastAt = now → band.lastBy = m2.place s → exec (.barrierMessage b [m1.n]) s = .next s)) ∧
  (∀ (n : Nat) (s : State),
    (∀ txn v tx, aget s.msgs n = some (.barAns txn v false) → aget s.txns txn = some tx →
      Happens (.barrierAnswer n) s (unparkOwner txn s (landResult txn (resultWords tx.dst false tx.act (v.zeroExtend 64)) (s.dropMsg n)))) ∧
    (∀ txn v, aget s.msgs n = some (.barAns txn v true) →
      Happens (.barrierAnswer n) s (faultBack txn { cause := 0x0A } (s.dropMsg n))) ∧
    (∀ k pc f, aget s.msgs n = some (.barRefuse k pc f) → Happens (.overArrivalRefusal n) s ((s.dropMsg n).impreciseFault k f pc)) ∧
    (∀ k key phase before st, aget s.msgs n = some (.barRel k key phase before) → s.strand k = some st →
      let heard (s : State) : State := s.modStrand k (fun st => { st with seen := st.seen ++ before.map (fun n => (0, n)) })
      let free := (s.part st.part).line = none ∨ st.inLine = true
      let noted (s : State) : State := s.modStrand k (fun st => { st with recorded := st.recorded ++ [(key, phase)] })
      (st.status = .resident → free → st.threads.length = 16 →
        ∃ t st', exec (.barrierRelease n) s = .next t ∧ t.strand k = some st' ∧
          (∀ th < 16, (st.thread th).st = .parked → (st.thread th).park = .barw → (st.thread th).psel = key →
            (st.thread th).parg = phase → (st.thread th).ptxn ≠ 0 → s.arrivalOut (st.thread th).ptxn = false →
            st'.thread th = { st.thread th with st := .live, park := .none, psel := 0, parg := 0, ptxn := 0 } ∧
            ∀ tx j, aget s.txns (st.thread th).ptxn = some tx → tx.dst = .v j → st.shr = [] →
              (⟨s.cycle st.part, vecKey j.val th, BitVec.ofNat 32 phase, s.cycle st.part⟩ : RegWr) ∈ st'.regs) ∧
          (∀ th < 16, ¬ ((st.thread th).st = .parked ∧ (st.thread th).park = .barw ∧ (st.thread th).psel = key ∧
            (st.thread th).parg = phase) → (st.thread th).park ≠ .branch → st'.thread th = st.thread th) ∧
          (∀ i ∈ before, (0, i) ∈ st'.seen) ∧ (st.framed = true → (key, phase) ∈ st'.recorded)) ∧
      (st.status = .resident → ¬ free → Happens (.barrierRelease n) s ((noted (heard (s.dropMsg n))).unparkBranch k)) ∧
      (st.status ≠ .resident →
        Happens (.barrierRelease n) s ((if st.framed then noted (heard (s.dropMsg n)) else heard (s.dropMsg n)).unparkBranch k))))

/-- 13 R287, R290, R292, R294: arrivals at a record (`barrierArrivals`); 07 R173, 13 R286 to R288, R290, R294: the other messages and their order (`barrierMessages`). -/
def Obligations.BarrierEvents : Prop := Claims.barrierArrivals ∧ Claims.barrierMessages

/-- 07 R173; 13 R287, R288, R292, R294: the counter of a domain barrier. A BARI while the phase holds arrivals, at the counter or, for a
plain BARI, at the record, is the band fault; the record of a BARI.dom that faults has its EXP and DOM back. With none, a plain BARI takes
its record from the counter; the first BARI.dom sets EXP, one that names the standing EXP joins, another is the band fault. That a plain
BARI asks the counter, and that a BARI waits for the completions on their way to its record, is log entry 24: the model's choice. Arrivals
of all packages count as at a record, and a completion goes to every record that uses the counter. There the multicast releases the
members' threads and updates the record. Messages between a package and the switches are flits (19 R377: `State.arriveAll`, log entry
49). -/
def Obligations.DomainCounters : Prop :=
  (∀ (ctr n txn k cnt bid lowt : Nat) (b : BarId) (kind : BarKind) (bl : List Nat) (pc : Pc) (l : Launch) (c : DomCtr) (s s2 : State),
    s.stores = [] → aget s.msgs n = some (.dom ctr b txn k cnt kind pc lowt bid) → aget s.launches b.launch = some l →
    aget s.domCtrs ctr = some c → c.users ≠ [] → firstAtCtr s ctr k n → s.arriveAll [n] = some s2 →
    let place := BarMsg.place s ⟨n, b, txn, k, cnt, kind, pc, lowt, bid⟩
    let kept (x : DomCtr) : DomCtr := { x with lastAt := s.clk, lastBy := place }
    inTurn s.clk c.lastAt c.lastBy place →
    let e : Instr := .domainCounterMessage ctr [n]
    let band := s.bandOf b.launch b.key
    let drop := c.drop + if kind = .bard bl then cnt else 0
    let before := c.before ++ bl
    let arrival := kind = .bard bl ∨ kind = .bara true bl ∨ kind = .bara false bl ∨ kind = .barw bl
    (∀ count dom, kind = .bari count dom → (∃ m ∈ s.msgs, ∃ ph ex be, m.2 = .domPhase ctr b ph ex be) → exec e s = .next s) ∧
    (∀ count dom, kind = .bari count dom → (∀ m ∈ s.msgs, ∀ ph ex be, m.2 ≠ .domPhase ctr b ph ex be) →
      let faults : Prop := ∃ t, exec e s = .next t ∧ aget t.domCtrs ctr = some (kept c) ∧ sent t (.barAns txn 0 true) ∧
        t.bandOf b.launch b.key = (match aget band.asked txn with
          | some (exp, dom) => { band with exp := exp, dom := dom, asked := adel band.asked txn }
          | none => band)
      (c.count ≠ 0 → faults) ∧
      (dom = false → band.count ≠ 0 → faults) ∧
      (c.count = 0 → dom = false → band.count = 0 →
        ∃ t, exec e s = .next t ∧ aget t.domCtrs ctr = some (kept { c with users := c.users.filter (fun u => decide (u ≠ b)) }) ∧
          t.bandOf b.launch b.key = { band with exp := count, dom := false } ∧ sent t (.barAns txn 0 false)) ∧
      (c.count = 0 → dom = true → (c.setIn = false ∨ c.exp = count) →
        ∃ t, exec e s = .next t ∧ aget t.domCtrs ctr = some (kept { c with
            exp := count, setIn := true, users := if b ∈ c.users then c.users else c.users ++ [b] }) ∧
          t.bandOf b.launch b.key = { band with asked := adel band.asked txn } ∧ sent t (.barAns txn 0 false)) ∧
      (c.count = 0 → dom = true → c.setIn = true → c.exp ≠ count → faults)) ∧
    (arrival → c.exp < c.count + cnt → ∃ t, exec e s = .next t ∧ aget t.domCtrs ctr = some (kept c) ∧
      sent t (.barRefuse k pc { cause := 0x0B, lowt := lowt, detail := overWord bid c.phase c.exp c.count cnt })) ∧
    (arrival → c.count + cnt < c.exp →
      ∃ t, exec e s = .next t ∧ aget t.domCtrs ctr = some (kept { c with count := c.count + cnt, drop := drop, before := before })) ∧
    (arrival → c.count + cnt = c.exp → ∃ t, exec e s = .next t ∧
      aget t.domCtrs ctr = some (kept { c with
        exp := c.exp - drop, count := 0, drop := 0, setIn := false, phase := (c.phase + 1) % 2 ^ 32, before := [] }) ∧
      ∀ u ∈ c.users, sent t (.domPhase ctr u c.phase (c.exp - drop) before))) ∧
  (∀ (n ctr phase exp : Nat) (b : BarId) (before : List Nat) (l : Launch) (s s2 : State), s.stores = [] →
    aget s.msgs n = some (.domPhase ctr b phase exp before) → aget s.launches b.launch = some l → s.arrives n = some s2 →
    let band := s.bandOf b.launch b.key
    (band.dom = true → ∃ t, exec (.domainPhaseMulticast n) s = .next t ∧ t.mem = s.mem ∧
      t.bandOf b.launch b.key =
        { band with exp := if band.asked = [] then exp else band.exp, count := 0, drop := 0, past := s.pastOf band before, phase := (phase + 1) % 2 ^ 32 } ∧
      ∀ m ∈ band.members, sent t (.barRel m b.key phase before)) ∧
    (band.dom = false → Happens (.domainPhaseMulticast n) s (s2.dropMsg n)))

/-! ## Buffer tables, operand slots and task queues -/

/-- 08 R208, R209, R212, 12 R278: a request on a buffer is applied once every earlier store and atomic of its strand has been accepted,
once nothing is pending on the buffer's words where it leaves FILLING or becomes STATIONARY, and, for UNSTAT, once no task accepted
before it names the buffer; until then nothing happens. It changes the state of the one buffer, or removes its declaration, completes
its instruction with D = 0, and changes no byte of memory. -/
def Sys2Proof.Claims.bufferChanges : Prop :=
  ∀ (n txn k buf : Nat) (tc : TileCtx) (r : BufReq) (b : Buf) (s : State), aget s.msgs n = some (.bufReq txn k tc buf r) →
    aget (s.tc tc).bufs buf = some b →
    let base := scratchKey tc.ctx.part.pkg (s.part tc.ctx.part) tc.t b.base
    let accepted := ∀ p ∈ s.ops, p.2.strand = k → p.2.opr ≠ 0 ∨ p.2.atom = true → p.2.stage = .mesh → n ≤ p.1
    let quiet := ∀ h ∈ s.homes, ∀ e ∈ h.2.queue, base + b.size ≤ e.addr ∨ e.addr + e.size ≤ base
    let leaves := r = .set .full ∨ r = .stat ∨ ((r = .set .empty ∨ r = .brel) ∧ b.st = .filling)
    let unused := ∀ i ∈ (s.tc tc).tq, ∀ rcd spec, i.kind = .task rcd spec → i.late = false → (rcd.extractLsb' 16 6).toNat ≠ buf
    let bufs' (m : Assoc Nat Buf) : Assoc Nat Buf := match r with
      | .set st => aput m buf { b with st := st }
      | .brel => adel m buf
      | .stat => aput m buf { b with st := .stationary }
      | .unstat => aput m buf { b with st := .full, unstat := false }
    let dst := match aget s.txns txn with
      | some t => t.dst
      | none => .zero
    (accepted → (leaves → quiet) → (r = .unstat → unused) → Happens (.bufferStateChange n) s
      (landResult txn (resultWords dst false [] 0) ((s.dropMsg n).modTc tc (fun t => { t with bufs := bufs' t.bufs })))) ∧
    (¬ accepted ∨ (leaves ∧ ¬ quiet) ∨ (r = .unstat ∧ ¬ unused) → exec (.bufferStateChange n) s = .next s)

/-- 09 R218, R221, R223; 12 R278: an OPUT that stands before every later one of its strand puts its block, and its seal, into an open
slot that no ring holds, and into another raises the operand-slot fault, imprecise, with nothing written: the tile's task scheduler
detects it (DEDUCED: log entry 60, the model's choice). An item takes its place at the
tail of the task queue, the strand's items to one tile in order; a task that comes after an UNSTAT of its buffer is marked. -/
def Sys2Proof.Claims.slotWritesAndAccepts : Prop :=
  (∀ (n txn k slot blk : Nat) (pc : Pc) (tc : TileCtx) (data : Option Line) (seal_ : Bool) (tx : Txn) (s : State), sound s →
    aget s.msgs n = some (.oput txn k pc tc slot blk data seal_) → aget s.txns txn = some tx →
    (∀ p ∈ s.msgs, ∀ txn pc tc slot blk data seal_, p.2 = .oput txn k pc tc slot blk data seal_ → n ≤ p.1) →
    let sl := agetD (s.tc tc).slots slot {}
    let blocks := match data with
      | some b => aput sl.blocks blk b
      | none => sl.blocks
    let now : SlotSt := if seal_ then .sealed_ else .open_
    (sl.st = .open_ → sl.ring = false → Happens (.oputApply n) s (landResult txn [] ((s.dropMsg n).modTc tc (fun t =>
      { t with slots := aput t.slots slot { sl with blocks := blocks, st := now } })))) ∧
    (sl.st ≠ .open_ ∨ sl.ring = true → Happens (.oputApply n) s (((s.dropMsg n).unitFault tc.ctx.part (.sched tc.t)
      { cause := 0x13, lowt := tx.act.headD 0, detail := BitVec.ofNat 256 (2 ^ 8 * slot + 2 ^ 32 * blk) } k pc 0).cutTile tc.ctx.part tc.t))) ∧
  (∀ (n : Nat) (tc : TileCtx) (i : TItem) (s : State), aget s.msgs n = some (.tqItem tc i) →
    (∀ p ∈ s.msgs, ∀ j, p.2 = .tqItem tc j → j.strand = i.strand → n ≤ p.1) →
    let put (late : Bool) : State := (s.dropMsg n).modTc tc (fun t =>
      { t with tq := t.tq ++ [{ i with late := late }], promised := t.promised - 1 })
    let marked := ∃ rcd spec b, i.kind = .task rcd spec ∧ aget (s.tc tc).bufs (rcd.extractLsb' 16 6).toNat = some b ∧ b.unstat = true
    (marked → Happens (.taskQueueAccept n) s (put true)) ∧ (¬ marked → Happens (.taskQueueAccept n) s (put false)))

/-- 08 R208, R209, R212, 12 R278: requests on buffers (`bufferChanges`); 09 R218, R221, R223: writes to slots and places in a task queue (`slotWritesAndAccepts`). -/
def Obligations.BufferEvents : Prop := Claims.bufferChanges ∧ Claims.slotWritesAndAccepts

/-- 09 R222, R223, R226; 12 R278; 17 R349: the task at the head of its accumulator's order, with its slot sealed, or released after its
acceptance, starts once what its strand wrote before it is performed in the package (10 R256), where its buffer is stationary and its
runs hold: a task of a closed shadow keeps the accumulator as it stands, a
speculative one opens the shadow. Another buffer state, a shadow that is open for a task that is not speculative, a run beyond its
region or a header that fails are its faults, which name its lowest active thread; it stays at the head, and the running tasks of the
tile, whose scheduler raises the line, are cut (17 R344, R354). Once every segment of every element has been added it retires. Where ACC
and the block offset stand in the stop record of a buffer-state or format fault is log entry 60, the order of the checks log entry 27,
and that a task waits for its slot before its shadow is looked at log entry 62: the model's choices. -/
def Sys2Proof.Claims.taskStarts : Prop :=
  ∀ (tc : TileCtx) (acc : Nat) (i : TItem) (rest : List TItem) (r : Line) (spec : Bool) (s : State), sound s →
    (s.tc tc).order acc = i :: rest → i.kind = .task r spec → ctxRuns s tc.ctx = true →
    let sl := agetD (s.tc tc).slots (r.extractLsb' 8 4).toNat {}
    let buf := (r.extractLsb' 16 6).toNat
    let a := (s.tc tc).acc acc
    let ready := sl.st = .sealed_ ∨ (sl.st = .releasing ∧ i.txn ∈ sl.before)
    let start : Instr := .taskStart tc acc
    let state (st : Nat) : BitVec 256 := BitVec.ofNat 256 ((bufferDetail buf st tc.t).toNat + 2 ^ 32 * (taskDetail r 0).toNat)
    let faulty (f : Flt) : State := (((s.modTc tc (fun t => { t with
      tq := t.tq.map (fun j => if j.txn = i.txn then { j with stuck := true } else j) })).unitFault tc.ctx.part (.sched tc.t)
        { f with lowt := ((aget s.txns i.txn).map (fun x => x.act.headD 0)).getD 0 } i.strand i.pc 0).cutTile tc.ctx.part tc.t)
    let runs (f : TItem → TItem) (g : Acc → Acc) : State := s.modTc tc (fun t =>
      { t with accs := if spec then aput t.accs acc (g (t.acc acc)) else t.accs, tq := t.tq.map (fun j => if j.txn = i.txn then f j else j) })
    (s.relMet i.strand .pkg i.rel = false → exec start s = .next s) ∧
    (i.running = false → i.stuck = false → i.drop = false → ready → s.relMet i.strand .pkg i.rel = true →
      (spec = false → a.shadow.isSome = true → Happens start s (faulty { cause := 0x15, detail := taskDetail r 0 })) ∧
      (spec = true ∨ a.shadow = none →
        (aget (s.tc tc).bufs buf = none → Happens start s (faulty { cause := 0x12, detail := state 0 })) ∧
        (∀ b, aget (s.tc tc).bufs buf = some b → (b.st ≠ .stationary ∨ i.late = true) →
          Happens start s (faulty { cause := 0x12, detail := state b.st.code })) ∧
        (∀ b, aget (s.tc tc).bufs buf = some b → b.st = .stationary → i.late = false →
          (∀ off, taskOps s tc r sl b (a.kind != 0) = .error (.beyond off) → Happens start s (faulty { cause := 0x14, detail := taskDetail r off })) ∧
          (∀ off hdr step, taskOps s tc r sl b (a.kind != 0) = .error (.header off hdr step) → Happens start s
            (faulty { cause := 0x11, detail := BitVec.ofNat 256 (0xF0 + 2 ^ 8 * hdr + 2 ^ 24 * step + 2 ^ 32 * (taskDetail r off).toNat) })) ∧
          (∀ o, taskOps s tc r sl b (a.kind != 0) = .ok o →
            (spec = false → Happens start s (runs (fun j => { j with running := true, ckpt := some a.els }) id)) ∧
            (spec = true → Happens start s (runs (fun j => { j with running := true, ckpt := none })
              (fun x => { x with shadow := some (x.shadow.getD x.els) }))))))) ∧
    (∀ b o, i.running = true → aget (s.tc tc).bufs buf = some b → taskOps s tc r sl b (a.kind != 0) = .ok o → segCount o ≤ i.seg →
      Happens (.taskRetire tc acc) s (landResult i.txn [] (leaveQueue tc i s)))

namespace Sys2Proof.Claims

open Sys2Proof.Machine

/-- The check of a block's header that fails, as STEP: 03 R67 for an FP40 accumulator, the first row of 03 R71 for an INT40 one. -/
def badHeader (int : Bool) (b : Line) : Option Nat :=
  let fmt := (b.extractLsb' 0 6).toNat
  if fmtReserved (blkHdr b).fmt then some 1
  else if int = false ∨ fmt = 0x3F then none
  else if fmt ≠ 1 ∧ fmt ≠ 4 ∧ fmt ≠ 6 then some 8
  else if fmt = 1 ∧ (q4xSeq b).esc = true then some 9
  else if (blkHdr b).sexp = 255 then some 10
  else none

/-- Block `q` of a run that starts at a block holds some of its first `k` elements (09 R222). -/
def needed (get : Nat → Line) (k start q : Nat) : Prop :=
  ((List.range q).map (fun p => fmtElems (blkHdr (get (start + p))).fmt)).sum < k

/-- A block of a run that may be read: below the end, with a header that passes. -/
def readable (get : Nat → Line) (lim : Nat) (int : Bool) (i : Nat) : Prop := i < lim ∧ badHeader int (get i) = none

/-- Every block that a run needs may be read. -/
def runs (get : Nat → Line) (lim : Nat) (int : Bool) (k start : Nat) : Prop :=
  ∀ q, needed get k start q → readable get lim int (start + q)

/-- A run fails with a report: that of its first block that may not be read. -/
def runFails (get : Nat → Line) (lim : Nat) (int : Bool) (k start : Nat) (e : RunErr) : Prop :=
  ∃ q, needed get k start q ∧ (∀ p < q, readable get lim int (start + p)) ∧
    ((lim ≤ start + q ∧ e = .beyond (start + q)) ∨
      (start + q < lim ∧ ∃ step, badHeader int (get (start + q)) = some step ∧
        e = .header (start + q) ((get (start + q)).extractLsb' 0 16).toNat step))

/-- The elements of a run, each with its block (09 R222): for an INT40 accumulator unscaled, and 0 where SEXP is 0 (03 R71). -/
def runOf (get : Nat → Line) (int : Bool) (k start : Nat) : List (Nat × FVal) :=
  ((List.range k).flatMap (fun q =>
    let b := get (start + q)
    let fmt := (blkHdr b).fmt
    let vals := if int = false then (decodeBlock b).getD []
      else if fmt = 0x3F ∨ (blkHdr b).sexp = 0 then List.replicate (fmtElems fmt) (.zero false) else rawElems b fmt
    vals.map (fun v => (start + q, v)))).take k

end Sys2Proof.Claims

/-- 03 R66, R67, R70, R71; 09 R222: the operands of a task. Its rows are runs of blocks of the slot, its columns runs of blocks of the
region; each has as many blocks as its first KLEN elements need, and every one of them is checked before anything is added: the rows
first, then the columns, each from its first block on (log entry 27, the model's choice). Where a block lies beyond the end, or its
header fails, that block is reported. Two runs are cut into segments where either changes block; a task has as many steps as the longest
has segments. -/
def Sys2Proof.Claims.taskOperands : Prop :=
  (∀ (s : State) (tc : TileCtx) (r : Line) (sl : OSlot) (b : Buf) (int : Bool),
    let f (lo w : Nat) : Nat := (r.extractLsb' lo w).toNat
    let k := f 64 20
    let slot (i : Nat) : Line := agetD sl.blocks i 0
    let region (i : Nat) : Line := BitVec.ofNat 512 (s.read 64 (scratchKey tc.ctx.part.pkg (s.part tc.ctx.part) tc.t (b.base + 64 * i)))
    let row (m : Nat) : Nat := f 96 9 + m * f 112 9
    let col (n : Nat) : Nat := f 128 17 + n * f 160 17
    let rowRuns (m : Nat) : Prop := runs slot 512 int k (row m)
    let colRuns (n : Nat) : Prop := runs region (b.size / 64) int k (col n)
    let ops := taskOps s tc r sl b int
    ((∀ m < f 32 5, rowRuns m) → (∀ n < f 40 7, colRuns n) → ∃ o, ops = .ok o ∧
      o.rows = (List.range (f 32 5)).map (fun m => runOf slot int k (row m)) ∧
      o.cols = (List.range (f 40 7)).map (fun n => runOf region int k (col n))) ∧
    (∀ m < f 32 5, (∀ m' < m, rowRuns m') → ∀ e, runFails slot 512 int k (row m) e → ops = .error e) ∧
    (∀ n < f 40 7, (∀ m < f 32 5, rowRuns m) → (∀ n' < n, colRuns n') → ∀ e, runFails region (b.size / 64) int k (col n) e → ops = .error e)) ∧
  (∀ (a w : List (Nat × FVal)),
    let ps := a.zip w
    let cut (j : Nat) : Bool := (ps[j]?.map (fun p => (p.1.1, p.2.1))) != (ps[j + 1]?.map (fun p => (p.1.1, p.2.1)))
    let no (j : Nat) : Nat := ((List.range j).filter cut).length
    segments a w = (List.range (if ps = [] then 0 else no (ps.length - 1) + 1)).map (fun n =>
      ((List.range ps.length).filter (fun j => no j = n)).filterMap (fun j => ps[j]?.map (fun p => (p.1.2, p.2.2))))) ∧
  (∀ (o : TaskOps), (∀ a ∈ o.rows, ∀ w ∈ o.cols, (segments a w).length ≤ segCount o) ∧
    (segCount o ≠ 0 → ∃ a ∈ o.rows, ∃ w ∈ o.cols, (segments a w).length = segCount o)) ∧
  (∀ (s : State) (tc : TileCtx) (acc : Nat) (i : TItem) (r : Line) (spec : Bool) (b : Buf) (o : TaskOps),
    runningOps s tc acc = some (i, r, spec, b, o) ↔ ((s.tc tc).order acc).head? = some i ∧ i.kind = .task r spec ∧ i.running = true ∧
      aget (s.tc tc).bufs (r.extractLsb' 16 6).toNat = some b ∧
      taskOps s tc r (agetD (s.tc tc).slots (r.extractLsb' 8 4).toNat {}) b (((s.tc tc).acc acc).kind != 0) = .ok o)

/-- 03 R70, R71; 09 R222, R226: a segment of a running task is complete. Into every element of the task that has this segment, and into
no other, the sum of its products is added, in the accumulator or, for a speculative task, in the shadow; the task goes on with the next
segment. No byte of memory changes. -/
def Sys2Proof.Claims.segmentSums : Prop :=
  ∀ (tc : TileCtx) (acc : Nat) (i : TItem) (r : Line) (spec : Bool) (b : Buf) (o : TaskOps) (s : State), sound s → s.residues = [] →
    s.stores = [] → runningOps s tc acc = some (i, r, spec, b, o) → ctxRuns s tc.ctx = true → i.seg < segCount o → i.drop = false →
    acc < 32 → (r.extractLsb' 48 6).toNat + o.cols.length ≤ 64 → (∀ j ∈ (s.tc tc).tq, j.txn = i.txn → j = i) →
    let els (s : State) : Assoc Nat (BitVec 40) :=
      let a := (s.tc tc).acc acc
      if spec then a.shadow.getD a.els else a.els
    let at_ (s : State) (e : Nat) : BitVec 40 := agetD (els s) e 0
    let kind := ((s.tc tc).acc acc).kind
    let place (m n : Nat) : Nat := 64 * ((r.extractLsb' 56 4).toNat + m) + (r.extractLsb' 48 6).toNat + n
    let sum (m n : Nat) : Option (List (FVal × FVal)) := (segments (o.rows.getD m []) (o.cols.getD n []))[i.seg]?
    let fold (old : BitVec 40) (seg : List (FVal × FVal)) : BitVec 40 :=
      if kind = 0 then BitVec.ofNat 40 (fp40.arith .rne false ((fp40.decode old.toNat).add .rne (sumTerms .rne (seg.map (fun q => q.1.mul q.2)))))
      else
        let total := old.toInt + (seg.map (fun q => q.1.int * q.2.int)).sum
        BitVec.ofInt 40 (if kind = 2 then max (-(2 ^ 39)) (min (2 ^ 39 - 1) total) else total)
    ∃ t, exec (.segmentComplete tc acc) s = .next t ∧ t.mem = s.mem ∧
      (∀ m < o.rows.length, ∀ n < o.cols.length, ∀ seg, sum m n = some seg → at_ t (place m n) = fold (at_ s (place m n)) seg) ∧
      (∀ e, (∀ m < o.rows.length, ∀ n < o.cols.length, e = place m n → sum m n = none) → at_ t e = at_ s e) ∧
      (spec = true → ((t.tc tc).acc acc).els = ((s.tc tc).acc acc).els) ∧ ((t.tc tc).acc acc).kind = kind ∧
      (∀ j ∈ (t.tc tc).tq, j.txn = i.txn → j.seg = i.seg + 1 ∧ j.running = true) ∧ (t.tc tc).bufs = (s.tc tc).bufs ∧ t.strands = s.strands

/-- 09 R222, R223, R226, 12 R278, 17 R349: the start of a task and its end (`taskStarts`); 03 R66, R67, R70, R71, 09 R222: what it reads (`taskOperands`); 03 R70, R71, 09 R222, R226: the sums of its segments (`segmentSums`). -/
def Obligations.TaskEvents : Prop := Claims.taskStarts ∧ Claims.taskOperands ∧ Claims.segmentSums

/-- 09 R225 to R228, 12 R281: the other items, applied at their place in the order of their accumulator tile: ACCZ and ACCWR set elements
while the shadow is closed, and fault while it is open; ACCRD returns its columns, converted, from the accumulator or from an open shadow;
ACCCMT makes the shadow the accumulator's value and closes it; ACCDSC drops the speculative tasks before it and closes it; TWAIT and
TWAIT.all only complete. An item that is applied leaves the queue. -/
def Sys2Proof.Claims.itemEffects : Prop :=
  ∀ (tc : TileCtx) (acc : Nat) (i : TItem) (rest : List TItem) (s : State), sound s → ctxRuns s tc.ctx = true → i.stuck = false →
    let a := (s.tc tc).acc acc
    let apply : Instr := .accumulatorItemApply tc acc
    let leave (s : State) : State := landResult i.txn [] (leaveQueue tc i s)
    let set (x : Acc) : State := s.modTc tc (fun t => { t with accs := aput t.accs acc x })
    let faulty : State := (((s.modTc tc (fun t => { t with
      tq := t.tq.map (fun j => if j.txn = i.txn then { j with stuck := true } else j) })).unitFault tc.ctx.part (.sched tc.t)
        { cause := 0x15, lowt := ((aget s.txns i.txn).map (fun x => x.act.headD 0)).getD 0, detail := BitVec.ofNat 256 acc }
        i.strand i.pc 0).cutTile tc.ctx.part tc.t)
    let shut := a.shadow = none
    let halts := a.shadow.isSome = true
    (acc < 32 → (s.tc tc).order acc = i :: rest →
      (∀ kind, i.kind = .accz kind → (shut → Happens apply s (leave (set { kind := kind }))) ∧ (halts → Happens apply s faulty)) ∧
      (∀ ty c0 n data, i.kind = .accwr ty c0 n data →
        (shut → ∀ x, accWrite ty c0 n data a = some x → Happens apply s (leave (set x))) ∧
        (shut → accWrite ty c0 n data a = none → Happens apply s faulty) ∧ (halts → Happens apply s faulty)) ∧
      (∀ ty rm sat sh c0 n tx, i.kind = .accrd ty rm sat sh c0 n → aget s.txns i.txn = some tx →
        let els := if sh then a.shadow.getD a.els else a.els
        Happens apply s ((leaveQueue tc i s).send (.result i.txn 0 (accWords tx.dst (ty == .i64) n (fun j t =>
          accOut a.kind ty rm sat (agetD els (64 * t + c0 + j) 0)))))) ∧
      (i.kind = .acccmt →
        (∀ els, a.shadow = some els → Happens apply s (leave (set { a with els := els, shadow := none }))) ∧
        (shut → Happens apply s (leave (set a)))) ∧
      (i.kind = .accdsc → Happens apply s (leave (set { a with shadow := none }))) ∧
      (i.kind = .twait → Happens apply s (leave s))) ∧
    (acc = 32 → (s.tc tc).tq = i :: rest → i.kind = .twaitAll → Happens apply s (leave s)) ∧
    (∀ j, acc < 32 → (s.tc tc).order acc = j :: i :: rest → (∃ r, j.kind = .task r true) → i.kind = .accdsc →
      (j.running = false → Happens apply s (landResult i.txn [] (leaveQueue tc i
        ((landResult j.txn [] (leaveQueue tc j s)).modTc tc (fun t => { t with
          accs := aput t.accs acc { t.acc acc with shadow := none } }))))) ∧
      (j.running = true → j.drop = false → Happens apply s (s.modTc tc (fun t => { t with
        tq := t.tq.map (fun x => if x.txn = j.txn then { x with drop := true } else x) }))))

/-- 09 R225, with 03 R63, R72, R74 to R76: what ACCWR makes of its words, and ACCRD of the elements. ACCWR.f32 needs an FP40 tile and is
exact, .i32 an INT40 one and extends the sign, .i64 takes the low 40 bits of a pair; it sets its n columns from c0 on, in all 16 rows, and
nothing else. ACCRD.f32 rounds, .i32 converts or clamps, or takes the low 32 bits of an integer, .i64 gives the 40 bits, the sign of an
integer extended; it writes every thread's word of its destinations. -/
def Sys2Proof.Claims.accumulatorConversions : Prop :=
  (∀ (ty : Ty) (c0 n : Nat) (data : List (List Word)) (a : Acc), ty = .f32 ∨ ty = .i32 ∨ ty = .i64 → c0 + n ≤ 64 →
    let w (j t : Nat) : Word := (data.getD j []).getD t 0
    let fits : Prop := ¬ (ty = .f32 ∧ a.kind ≠ 0) ∧ ¬ (ty = .i32 ∧ a.kind = 0)
    let elem (j t : Nat) : BitVec 40 :=
      if ty = .f32 then BitVec.ofNat 40 (fp40.conv .rne false (fp32.decode (w j t).toNat))
      else if ty = .i32 then (w j t).signExtend 40
      else (w (2 * j + 1) t ++ w (2 * j) t).truncate 40
    (¬ fits → accWrite ty c0 n data a = none) ∧
    (fits → ∃ x, accWrite ty c0 n data a = some x ∧ x.kind = a.kind ∧ x.shadow = a.shadow ∧
      (∀ j < n, ∀ t < 16, agetD x.els (64 * t + c0 + j) 0 = elem j t) ∧
      ∀ e, (∀ j < n, ∀ t < 16, e ≠ 64 * t + c0 + j) → aget x.els e = aget a.els e)) ∧
  (∀ (kind : Nat) (rm : RMode) (sat : Bool) (e : BitVec 40),
    accOut kind .f32 rm sat e = BitVec.ofNat 64 (fp32.conv rm sat (if kind = 0 then fp40.decode e.toNat else FVal.ofInt e.toInt)) ∧
    accOut kind .i64 rm sat e = (if kind = 0 then e.zeroExtend 64 else e.signExtend 64) ∧
    (accOut kind .i32 rm sat e).extractLsb' 32 32 = 0 ∧
    (accOut kind .i32 rm sat e).truncate 32 = (if kind = 0 then BitVec.ofInt 32 ((fp40.decode e.toNat).toIntFmt rm sat true 32)
      else if sat then BitVec.ofInt 32 (max (-2147483648) (min 2147483647 e.toInt)) else e.truncate 32)) ∧
  (∀ (d : Opd) (wide : Bool) (n key : Nat) (v : Word) (el : Nat → Nat → Dword),
    (key, v) ∈ accWords d wide n el ↔ ∃ j < n, ∃ t < 16,
      if wide then (key = vecKey (Opd.num d + 2 * j) t ∧ v = (el j t).truncate 32) ∨
        (key = vecKey (Opd.num d + 2 * j + 1) t ∧ v = (el j t).extractLsb' 32 32)
      else key = vecKey (Opd.num d + j) t ∧ v = (el j t).truncate 32)

/-- 09 R225 to R228, 12 R281: the other items, applied at their place (`itemEffects`), and what ACCWR and ACCRD convert (`accumulatorConversions`). -/
def Obligations.ItemsApply : Prop := Claims.itemEffects ∧ Claims.accumulatorConversions

/-! ## Stream engines and collective engines -/

namespace Sys2Proof.Claims

open Sys2Proof.Machine

/-- EXT0 and EXT1 of a layout: the blocks of an entry (09 R229). -/
def entryBlocks (lay : Line) : Nat := (lay.extractLsb' 256 16).toNat * (lay.extractLsb' 272 16).toNat

/-- An entry that a ring may take (09 R231). -/
def entryFree (t : TCtx) (lay : Line) (slots : Bool) (m : Nat) : Prop :=
  if slots then (agetD t.slots m {}).st = .free ∧ (agetD t.slots m {}).ring = false ∧ entryBlocks lay ≤ 512
  else ∃ b, aget t.bufs m = some b ∧ b.ring = false ∧ b.st = .empty ∧ 64 * entryBlocks lay ≤ b.size

/-- The engine has performed the head of its command queue, and its layouts are `lays`. -/
def engineDid (tc : TileCtx) (eng : Nat) (rest : List ECmd) (lays : Assoc Nat Line) (s : State) : State :=
  s.modTc tc (fun t =>
    let e := agetD t.engines eng {}
    { t with engines := aput t.engines eng { e with cq := rest, lays := lays } })

def withRing (tc : TileCtx) (eng ring : Nat) (f : Ring → Ring) (s : State) : State :=
  s.modTc tc (fun t =>
    let e := agetD t.engines eng {}
    { t with engines := aput t.engines eng { e with rings := amod e.rings ring f } })

def withBuf (tc : TileCtx) (m : Nat) (st : BufSt) (s : State) : State :=
  s.modTc tc (fun t => { t with bufs := amod t.bufs m (fun b => { b with st := st }) })

/-- 09 R229: where block (i0, i1) of a transfer lies. -/
def blockAddr (lay : Line) (j i0 i1 : Nat) : Nat :=
  let f (lo w : Nat) : Nat := (lay.extractLsb' lo w).toNat
  let str (lo : Nat) : Int := (lay.extractLsb' lo 32).toInt
  let p := j % (f 288 16 * f 304 16)
  (BitVec.ofInt 64 ((f 0 56 : Int) + 64 * i0 + str 320 * i1 + str 352 * (p % f 288 16 : Nat) + str 384 * (p / f 288 16 : Nat))).toNat

/-- Every block of a transfer lies at a place; those of a row follow each other, row by row. -/
def blocksLie (s : State) (tc : TileCtx) (need : Need) (lay : Line) (j : Nat) (ks : List (Nat × Home)) : Prop :=
  let w := (lay.extractLsb' 256 16).toNat
  ks.length = entryBlocks lay ∧ ∀ i key h, ks[i]? = some (key, h) → engineAddr s tc need (blockAddr lay j (i % w) (i / w)) = .key key h

end Sys2Proof.Claims

/-- 09 R230, R231: the head of an engine's command queue, in a running context. SLAY installs its layout once no ring uses it, and until
then nothing happens. SFILL and SDRAIN wait for what their release covers (10 R256), and bind their ring where the count is not zero, the ring is not bound, the layout is installed and
every entry is free for it; otherwise they raise the engine fault precisely, with the strand's PCs at the instruction. -/
def Sys2Proof.Claims.engineCommands : Prop :=
  ∀ (tc : TileCtx) (eng : Nat) (rest : List ECmd) (s : State), ctxRuns s tc.ctx = true →
    let t := s.tc tc
    let e := agetD t.engines eng {}
    (∀ n k pc lay r, e.cq = .slay n k pc lay r :: rest →
      ((∀ q ∈ e.rings, q.2.layNo ≠ lay) → Happens (.slayInstall tc eng) s
        (landResult n [] (unplace k n (engineDid tc eng rest (aput e.lays lay r) s)))) ∧
      ((∃ q ∈ e.rings, q.2.layNo = lay) → exec (.slayInstall tc eng) s = .next s)) ∧
    (∀ n k pc fill slots ring lay first cnt total rid rel, e.cq = .bind n k pc fill slots ring lay first cnt total rid rel :: rest →
      (s.relMet k .pkg rel = false → exec (.ringBindCheck tc eng) s = .next s) ∧
      (s.relMet k .pkg rel = true → (slots = false → ∀ i < cnt, s.bufBusy tc (first + i) = false) →
      let fits (r : Line) : Prop := total ≠ 0 ∧ aget e.rings ring = none ∧ ∀ i < cnt, entryFree t r slots (first + i)
      let popped := engineDid tc eng rest e.lays s
      (∀ r, aget e.lays lay = some r → fits r →
        let g : Ring := { fill := fill, slots := slots, layNo := lay, lay := r, first := first, n := cnt, total := total, strand := k
                          pc := pc, lowt := ((aget s.txns n).map (fun x => x.act.headD 0)).getD 0, txn := rid }
        ∃ u, exec (.ringBindCheck tc eng) s = .next (commit s.mem (landResult n [] u)) ∧
          aget (agetD (u.tc tc).engines eng {}).rings ring = some g ∧
          (agetD (u.tc tc).engines eng {}).cq = rest ∧
          (slots = true → ∀ i < cnt, (agetD (u.tc tc).slots (first + i) {}).st = .open_ ∧ (agetD (u.tc tc).slots (first + i) {}).ring = true) ∧
          (slots = false → ∀ i < cnt, ∀ b, aget t.bufs (first + i) = some b →
            aget (u.tc tc).bufs (first + i) = some { b with ring := true, st := if fill then .empty else .filling })) ∧
      (aget e.lays lay = none ∨ (∃ r, aget e.lays lay = some r ∧ ¬ fits r) → Happens (.ringBindCheck tc eng) s
        (faultBack n { cause := 0x16, detail := BitVec.ofNat 256 (eng + 2 ^ 8 * ring) } (unplace k rid popped)))))

/-- 09 R229, R232; 12 R277; 17 R338, R341, R343, R349: the transfers of a ring, in a running context. A transfer starts when its entry is free,
or signalled for a drain. Its walks fill the caches of translations, once nothing is pending on the table entries they read. A fill whose
blocks all lie in readable places that no buffer refuses, and pass CHK, writes them into its entry, which is then full or sealed, once
nothing is pending on these places and those of the entry; a drain writes the entry's blocks likewise, and once these writes are performed
the entry is FILLING again. A failed access raises the engine fault, one outside the partition's memory the access fault, one that a buffer refuses the buffer-state fault, with the thread of
the SFILL or SDRAIN, and a page fault pauses the ring. -/
def Sys2Proof.Claims.ringTransfers : Prop :=
  ∀ (tc : TileCtx) (eng ring : Nat) (r : Ring) (s : State), sound s → ctxRuns s tc.ctx = true →
    aget (agetD (s.tc tc).engines eng {}).rings ring = some r → r.stopped = false → r.paused = false →
    let m := r.first + r.done % r.n
    let buf := aget (s.tc tc).bufs m
    let slot := agetD (s.tc tc).slots m {}
    let begins := withRing tc eng ring (fun r => { r with moving := true }) s
    let isDone : Instr := .ringTransferDone tc eng ring
    let next (s : State) : State := ringSweep tc (withRing tc eng ring (fun r =>
      { r with done := r.done + 1, moving := false, wrote := false, waits := [] }) s)
    let need : Need := if r.fill then .rd else .w
    let w := (r.lay.extractLsb' 256 16).toNat
    let vas := (List.range (entryBlocks r.lay)).map (fun i => blockAddr r.lay r.done (i % w) (i / w))
    let u := vas.foldl (engineFill tc) s
    let walks := noneOn s 8 (vas.flatMap (engineReads s tc))
    let faulty (f : Flt) : State := (withRing tc eng ring (fun r => { r with stopped := true }) u).unitFault tc.ctx.part (.engine tc.t eng)
      { f with lowt := r.lowt } r.strand r.pc (ring + 2 ^ 32 * (r.done % 2 ^ 32))
    (r.moving = false → r.done < r.total →
      (r.slots = true → slot.st = .open_ → r.fill = true → Happens (.ringTransferStart tc eng ring) s begins) ∧
      (∀ b, r.slots = false → buf = some b → r.fill = true → b.st = .empty →
        Happens (.ringTransferStart tc eng ring) s (withBuf tc m .filling begins)) ∧
      (∀ b, r.slots = false → buf = some b → r.fill = false → b.st = .draining → Happens (.ringTransferStart tc eng ring) s begins) ∧
      (∀ b, r.slots = false → buf = some b → b.st ≠ (if r.fill then .empty else .draining) →
        exec (.ringTransferStart tc eng ring) s = .next s)) ∧
    (r.moving = true → r.wrote = true → (∀ n ∈ r.waits, s.opPerformed n = true) →
      Happens isDone s (next (withBuf tc m .filling s))) ∧
    (r.moving = true → r.wrote = false → ¬ walks → exec isDone s = .next s) ∧
    (r.moving = true → r.wrote = false → walks →
      (∀ ks, blocksLie u tc need r.lay r.done ks → noneOn u 64 ks →
        (r.slots = false ∨ r.fill = false → noneOn u 64 (entryPlaces u tc r ks.length)) →
        let line (p : Nat × Home) : Line := BitVec.ofNat 512 (s.read 64 p.1)
        let open_ (load : Bool) (ps : List (Nat × Home)) : Prop := ∀ p ∈ ps, allowed u tc.ctx load p
        let chk := (r.lay.extractLsb' 64 6).toNat
        let checked : Prop := chk = 0 ∨ ∀ p ∈ ks, (blkHdr (line p)).fmt = chk ∨ (blkHdr (line p)).fmt = 0x3F
        (∀ pre p post f, ks = pre ++ p :: post → open_ r.fill pre → refusedWith u tc.ctx r.fill p f →
          Happens isDone s (faulty f)) ∧
        (r.fill = true → open_ true ks → checked → Happens isDone s (next (fillEntry tc r (ks.map line) u))) ∧
        (r.fill = true → open_ true ks → ∀ pre p post, ks = pre ++ p :: post → chk ≠ 0 →
          (∀ q ∈ pre, (blkHdr (line q)).fmt = chk ∨ (blkHdr (line q)).fmt = 0x3F) →
          (blkHdr (line p)).fmt ≠ chk → (blkHdr (line p)).fmt ≠ 0x3F →
          let hdr := ((line p).extractLsb' 0 16).toNat
          let step := if fmtReserved (hdr % 64) then 1 else 7
          Happens isDone s (faulty { cause := 0x11, detail := BitVec.ofNat 256 (0xF0 + 2 ^ 8 * hdr + 2 ^ 24 * step) })) ∧
        (r.fill = false → buf ≠ none → open_ false ks → open_ true (entryPlaces u tc r ks.length) →
          Happens isDone s (drainWrite tc eng ring r ks u))) ∧
      (∀ j va, vas[j]? = some va →
        (∀ i < j, ∃ key h, engineAddr u tc need (vas.getD i 0) = .key key h) →
        (engineAddr u tc need va = .page → Happens isDone s
          ((withRing tc eng ring (fun r => { r with paused := true }) u).postBy tc.ctx.part (.engine tc.t eng) 0x8001
            (va + 2 ^ 64 * (2 * 2 ^ 28 + tc.t * 2 ^ 20 + eng * 2 ^ 11)))) ∧
        (engineAddr u tc need va = .bad → Happens isDone s
          (faulty { cause := 0x16, detail := BitVec.ofNat 256 (eng + 2 ^ 8 * ring + 2 ^ 32 * (r.done % 2 ^ 32)) }))))

/-- 09 R229, R232; 12 R277; 17 R338, R339, R341: what the transfers do. An engine's address is in the scratchpad window of the partition, or
is translated by its tile's caches and needs the permission of the access; every other is bad. A fill leaves its lines in the blocks of the
slot, which is sealed, or in the bytes of the buffer, which is full; a drain leaves the buffer's lines at its places; every other byte is as
before. A ring that has moved all its transfers, and whose filled entries are released, leaves its engine with its buffers empty and its
slots free. -/
def Sys2Proof.Claims.transferEffects : Prop :=
  (∀ (s : State) (tc : TileCtx) (need : Need) (va : Nat),
    let a := engineAddr s tc need va
    let p := s.part tc.ctx.part
    let tile := va / 2 ^ 23 % 2 ^ 25
    let at_ := scratchKey tc.ctx.part.pkg p tile (va % 2 ^ 23)
    (2 ^ 56 ≤ va ∨ va / 2 ^ 48 = 0xFE → a = .bad) ∧
    (va / 2 ^ 48 = 0xFF → (tile < p.tiles → a = .key at_ (homeOf tc.ctx.part tile at_)) ∧ (p.tiles ≤ tile → a = .bad)) ∧
    (va / 2 ^ 48 < 0xFE → ∀ w, s.translate ⟨tc.ctx.part, tc.t⟩ tc.ctx va = w →
      (w = .page → a = .page) ∧ (w = .bad → a = .bad) ∧
      (∀ log e, w = .leaf log e →
        let key := leafKey s tc.ctx.part.pkg e (va % 2 ^ log)
        (permits e need = true → a = .key key (homeOf tc.ctx.part 0 key)) ∧ (permits e need = false → a = .bad)))) ∧
  (∀ (tc : TileCtx) (r : Ring) (ls : List Line) (s : State), Inv s → sound s →
    let t := commit s.mem (fillEntry tc r ls s)
    let m := r.first + r.done % r.n
    (r.slots = true → t.mem = s.mem ∧ ∀ sl, aget (s.tc tc).slots m = some sl → ∃ bl,
      aget (t.tc tc).slots m = some { sl with blocks := bl, st := .sealed_ } ∧
      (∀ (i : Nat) (l : Line), ls[i]? = some l → aget bl i = some l) ∧ ∀ i, ls.length ≤ i → aget bl i = aget sl.blocks i) ∧
    (r.slots = false → ∀ b, aget (s.tc tc).bufs m = some b →
      aget (t.tc tc).bufs m = some { b with st := .full } ∧
      (∀ (i : Nat) (l : Line), ls[i]? = some l → bytesAt t.mem 64 (bufKey s tc b i) = l.toNat) ∧
      (∀ a, (∀ i < ls.length, a < bufKey s tc b i ∨ bufKey s tc b i + 64 ≤ a) → memGet t.mem a = memGet s.mem a))) ∧
  (∀ (tc : TileCtx) (eng ring : Nat) (r : Ring) (ks : List (Nat × Home)) (b : Buf) (s : State), Inv s → sound s →
    aget (agetD (s.tc tc).engines eng {}).rings ring = some r → aget (s.tc tc).bufs (r.first + r.done % r.n) = some b →
    (∀ (i j : Nat) (x y : Nat × Home), ks[i]? = some x → ks[j]? = some y → i < j → x.1 + 64 ≤ y.1 ∨ y.1 + 64 ≤ x.1) →
    (∀ k ∈ ks, ∀ i < ks.length, k.1 + 64 ≤ bufKey s tc b i ∨ bufKey s tc b i + 64 ≤ k.1) →
    let t := commit s.mem (drainWrite tc eng ring r ks s)
    (∀ (i key : Nat) (h : Home), ks[i]? = some (key, h) → bytesAt t.mem 64 key = bytesAt s.mem 64 (bufKey s tc b i)) ∧
    (∀ a, (∀ k ∈ ks, a < k.1 ∨ k.1 + 64 ≤ a) → memGet t.mem a = memGet s.mem a) ∧
    ∃ ws, aget (agetD (t.tc tc).engines eng {}).rings ring = some { r with wrote := true, waits := ws } ∧
      ∀ o ∈ t.ops, o ∉ s.ops → o.1 ∈ ws) ∧
  (∀ (tc : TileCtx) (eng ring : Nat) (r : Ring) (s : State),
    ((s.tc tc).engines.map (fun e => e.1)).Nodup → (∀ e ∈ (s.tc tc).engines, (e.2.rings.map (fun g => g.1)).Nodup) →
    aget (agetD (s.tc tc).engines eng {}).rings ring = some r →
    let t := ringSweep tc s
    let ends : Prop := r.done = r.total ∧ (r.fill = true → r.signalled = r.total ∧ (r.slots = true → r.freed = r.total))
    (¬ ends → aget (agetD (t.tc tc).engines eng {}).rings ring = some r) ∧
    (ends → aget (agetD (t.tc tc).engines eng {}).rings ring = none ∧ ∀ i < r.n,
      (r.slots = true → ∀ sl, aget (s.tc tc).slots (r.first + i) = some sl →
        aget (t.tc tc).slots (r.first + i) = some { sl with st := .free, ring := false, before := [] }) ∧
      (r.slots = false → ∀ b, aget (s.tc tc).bufs (r.first + i) = some b →
        aget (t.tc tc).bufs (r.first + i) = some { b with st := .empty, ring := false })))

/-- 09 R229, R232, 12 R277, 17 R338, R341, R343, R349: when the transfers of a ring start and end (`ringTransfers`), and what they read and write (`transferEffects`). -/
def Obligations.RingTransfers : Prop := Claims.ringTransfers ∧ Claims.transferEffects

/-- 09 R233, 12 R280: a signal that has reached its ring, applied once what it comes after has happened. .rel releases a filled entry
that is not signalled; .full starts the drain of an entry that is FILLING; a signal of the other kind, of no such entry, or of no ring, is
the engine fault. Until then nothing happens. -/
def Sys2Proof.Claims.ringSignals : Prop :=
  ∀ (n txn k eng ring : Nat) (pc : Pc) (tc : TileCtx) (full : Bool) (ws : List Nat) (s : State),
    aget s.msgs n = some (.ssig txn k pc tc eng ring full ws) →
    let before := ∀ o ∈ ws, ∀ op, aget s.ops o = some op → (full = true → op.stage ≠ .mesh) ∧ (full = false → op.ret = false)
    let taskBefore := ∃ m ∈ s.msgs, m.1 < n ∧ ∃ i, m.2 = .tqItem tc i ∧ i.strand = k
    let rings := (agetD (s.tc tc).engines eng {}).rings
    let after := before ∧ (full = false → ¬ taskBefore)
    let signalled (s : State) : State := withRing tc eng ring (fun r => { r with signalled := r.signalled + 1 }) s
    let faulty (idx ust : Nat) : State := (s.dropMsg n).unitFault tc.ctx.part (.engine tc.t eng)
      { cause := 0x16, lowt := ((aget s.txns txn).map (fun x => x.act.headD 0)).getD 0
        detail := BitVec.ofNat 256 (eng + 2 ^ 8 * ring + 2 ^ 32 * (idx % 2 ^ 32)) } k pc ust
    (¬ after → exec (.ssigApply n) s = .next s) ∧
    (after → aget rings ring = none → Happens (.ssigApply n) s (faulty 0 0)) ∧
    (after → ∀ r, aget rings ring = some r → r.fill = true →
      let m := r.first + r.signalled % r.n
      let bad := faulty r.signalled (ring + 2 ^ 32 * (r.done % 2 ^ 32))
      (full = false → r.signalled < r.done → r.slots = false → Happens (.ssigApply n) s
        (landResult txn [] (ringSweep tc (withBuf tc m .empty (signalled (s.dropMsg n)))))) ∧
      (full = false → r.signalled < r.done → r.slots = true → Happens (.ssigApply n) s
        (landResult txn [] (slotSweep tc (signalled ((s.dropMsg n).modTc tc (fun t => t.release m)))))) ∧
      (full = true ∨ r.done ≤ r.signalled → Happens (.ssigApply n) s bad)) ∧
    (after → ∀ r b, aget rings ring = some r → r.fill = false → aget (s.tc tc).bufs (r.first + r.signalled % r.n) = some b →
      regionQuiet s tc b = true →
      let m := r.first + r.signalled % r.n
      (full = true → b.st = .filling → r.signalled < r.total → Happens (.ssigApply n) s
        (landResult txn [] (withBuf tc m .draining (signalled (s.dropMsg n))))) ∧
      (full = false ∨ b.st ≠ .filling ∨ r.total ≤ r.signalled → Happens (.ssigApply n) s (faulty r.signalled (ring + 2 ^ 32 * (r.done % 2 ^ 32)))))

/-- 09 R230, R231: the commands of an engine (`engineCommands`); 09 R233, 12 R280: signals at a ring (`ringSignals`). -/
def Obligations.RingEvents : Prop := Claims.engineCommands ∧ Claims.ringSignals

namespace Sys2Proof.Claims

open Sys2Proof.Machine

/-- The partition that a command for a package of the domain goes to (15 R308): its own, or the one of its domain group there. -/
def goesTo (s : State) (p : PartId) (rank : Nat) (dest : PartId) : Prop :=
  (s.ofRank p.pkg rank = some p.pkg ∧ dest = p) ∨
  (∃ pkg g, s.ofRank p.pkg rank = some pkg ∧ pkg ≠ p.pkg ∧ (s.part p).group = some g ∧
    (∃ q ∈ s.parts, q.1 = dest ∧ q.1.pkg = pkg ∧ q.2.group = some g) ∧ ∀ q ∈ s.parts, q.1.pkg = pkg → q.2.group = some g → q.1 = dest)

/-- DPKG names no package with such a partition (15 R308). -/
def goesNowhere (s : State) (p : PartId) (rank : Nat) : Prop :=
  s.ofRank p.pkg rank = none ∨
  (∃ pkg, s.ofRank p.pkg rank = some pkg ∧ pkg ≠ p.pkg ∧
    ∀ g, (s.part p).group = some g → ∀ q ∈ s.parts, q.1.pkg = pkg → q.2.group ≠ some g)

/-- A home that a source element may have (15 R309). -/
def sourceHome (c : CtxId) (h : Home) : Prop := (∃ stack ch, h = .near c.part.pkg stack ch) ∨ ∃ tile port, h = .slicePort tile port

/-- A source element can be read at a place. -/
def sourceAt (s : State) (c : CtxId) (va key : Nat) (h : Home) : Prop :=
  ioAddr s c .rd va = .key key h ∧ s.bufferRefuses c h key true = none ∧ sourceHome c h

/-- The size and format of the source element (09 R235, 15 R309). -/
def elementSize (sty : Nat) : Nat := if sty = 0 then 4 else if sty ≤ 2 then 2 else 1
def elementFmt (sty : Nat) : Fmt := if sty = 0 then fp32 else if sty = 1 then bf16 else if sty = 2 then fp16 else if sty = 3 then e4m3 else e5m2

end Sys2Proof.Claims

/-- 09 R235, R236; 15 R308, R309; 17 R343: the first command of a collective queue that has not started, in a running context. It starts
once the command before it is complete where CHAIN asks for that, once its local region has reached WSEQ where WEN does, once the
operations of its release are performed in the domain, and once nothing is pending on what it reads; until then nothing happens. It reads
its source elements in ascending order and is on its way to the partition of its destination. No such partition, or an element at no place
that a source may have, is the collective fault, one in a buffer that refuses it the buffer-state fault; a page fault pauses it. -/
def Sys2Proof.Claims.collectiveStarts : Prop :=
  ∀ (p : PartId) (q : Nat) (pre post : List Coll) (c : Coll) (s : State), sound s →
    (s.cq p q) = pre ++ c :: post → (∀ d ∈ pre, d.started = true) → c.started = false → ctxRuns s c.ctx = true → c.stuck = none →
    c.paused = false →
    let f (lo w : Nat) : Nat := (c.rcd.extractLsb' lo w).toNat
    let chained := f 252 1 = 1 ∧ ∃ d ∈ s.cq p q, d.no = c.prev
    let waits := f 200 1 = 1 ∧ s.reached p (f 192 8) (f 208 32) = false
    let mayStart := ¬ chained ∧ ¬ waits ∧ s.relMet c.strand .dom c.rel = true
    let size := elementSize (f 244 4)
    let walks := noneOn s 8 (spanReads s c.ctx (f 0 56) (size * f 64 32))
    let start : Instr := .collCommandStart p q
    let change (g : Coll → Coll) : State := s.modCq p q (fun l => l.map (fun d => if d.no = c.no then g d else d))
    (¬ mayStart → exec start s = .next s) ∧
    (mayStart → goesNowhere s p (f 112 9) → Happens start s (collFault p p q c { cause := 0x17 } s)) ∧
    (mayStart → ∀ dest, goesTo s p (f 112 9) dest → ¬ walks → exec start s = .next s) ∧
    (mayStart → ∀ dest, goesTo s p (f 112 9) dest → walks →
      (∀ ks : List (Nat × Home), ks.length = f 64 32 → (∀ i key h, ks[i]? = some (key, h) → sourceAt s c.ctx (f 0 56 + size * i) key h) →
        (noneOn s size ks → Happens start s ((change (fun d => { d with started := true })).send
          (.coll dest q { c with started := true, src := ks.map (fun k => BitVec.ofNat 32 (s.read size k.1)) }))) ∧
        (¬ noneOn s size ks → exec start s = .next s)) ∧
      (∀ i, i < f 64 32 → (∀ j < i, ∃ key h, sourceAt s c.ctx (f 0 56 + size * j) key h) →
        let va := f 0 56 + size * i
        (ioAddr s c.ctx .rd va = .page → Happens start s
          ((change (fun d => { d with paused := true })).postBy p (.collective q) 0x8001 (va + 2 ^ 64 * (3 * 2 ^ 28)))) ∧
        (ioAddr s c.ctx .rd va = .bad → Happens start s (collFault p p q c { cause := 0x17, addr := va } s)) ∧
        (∀ key h, ioAddr s c.ctx .rd va = .key key h → ¬ sourceHome c.ctx h →
          Happens start s (collFault p p q c { cause := 0x17, addr := va } s)) ∧
        (∀ key h g, ioAddr s c.ctx .rd va = .key key h → sourceHome c.ctx h → s.bufferRefuses c.ctx h key true = some g →
          Happens start s (collFault p p q c { g with addr := va } s))))

/-- 09 R237, 15 R310 to R312: a command at its destination. Commands of a region are applied in the order of their sequence numbers: one
whose turn it is, or that comes ahead with fewer than 64 such commands held, is held (a second one of the same number as one that comes
ahead: the model's choice, log entry 61); one whose number has passed, before or after it was held, that would write
beyond the region or whose offset is not a multiple of the element size is the collective fault, with nothing written; one at a region
that is not set, or ahead with 64 held, is refused, and after 2^24 cycles of refusals at a region that is not set it is the collective
fault. Applied, every element is the source element, or the sum of the two, rounded once; every other byte of memory is as before, and
the region goes on to the next number; one for a region whose owner has ended is the collective fault (the model's choice, log entry 62).
An acknowledgement completes the command once its writes are performed. A command of another package enters as a flit of its route, once,
and with a NACK where it is refused (19 R377, R378; `collEnters`, log entry 49). -/
def Sys2Proof.Claims.collectiveOrder : Prop :=
  (∀ (n q : Nat) (p : PartId) (c : Coll) (s : State), aget s.msgs n = some (.coll p q c) →
    let seq := (c.rcd.extractLsb' 160 32).toNat
    let region := (c.rcd.extractLsb' 96 8).toNat
    let regions := (s.part p).regions
    let late (dest : PartId) (s : State) : State := collFault c.ctx.part dest q c { cause := 0x17 } (s.dropMsg n)
    let enters (no : Bool) (f : State → State) : Prop := (∀ u, collEnters s n p q c no = some u → Happens (.collArrival n) s (f u)) ∧
      (collEnters s n p q c no = none → exec (.collArrival n) s = .next s)
    let keeps : Prop := enters false (fun u => (u.dropMsg n).modPart p (fun x => { x with held := x.held ++ [(c.ctx.part, q, c)] }))
    let refused : Prop :=
      (c.refusedAt = none → enters true (fun u => { u with msgs := amod u.msgs n (fun _ => .coll p q { c with refusedAt := some (u.cycle p) }) })) ∧
      (c.refusedAt ≠ none → exec (.collArrival n) s = .next s)
    ((s.part p).line = none → aget regions region = none → refused) ∧
    ((s.part p).line = none → ∀ r, aget regions region = some r → r.next < 2 ^ 32 →
      let ahead := (seq + 2 ^ 32 - r.next) % 2 ^ 32
      let taken := ∃ h ∈ (s.part p).held, (h.2.2.rcd.extractLsb' 96 8).toNat = region ∧ (h.2.2.rcd.extractLsb' 160 32).toNat = r.next
      (seq = r.next → ¬ taken → keeps) ∧
      (seq = r.next → taken → (aheadHeld s p < 64 → keeps) ∧ (64 ≤ aheadHeld s p → refused)) ∧
      (seq ≠ r.next → 2 ^ 31 < ahead → enters false (late p)) ∧
      (seq ≠ r.next → ahead ≤ 2 ^ 31 → aheadHeld s p < 64 → keeps) ∧
      (seq ≠ r.next → ahead ≤ 2 ^ 31 → 64 ≤ aheadHeld s p → refused)) ∧
    (∀ t, c.refusedAt = some t → aget regions region = none →
      (t + 2 ^ 24 ≤ s.cycle p → Happens (.collRefusalTimeout n) s (late c.ctx.part s)) ∧
      (s.cycle p < t + 2 ^ 24 → exec (.collRefusalTimeout n) s = .next s))) ∧
  (∀ (p src : PartId) (region q : Nat) (pre post : List (PartId × Nat × Coll)) (c : Coll) (r : Region) (s : State), Inv s → sound s →
    aget (s.part p).regions region = some r → r.next < 2 ^ 32 → (aget s.parts p).isSome = true → (s.part p).held = pre ++ (src, q, c) :: post →
    r.paused = false → (s.part p).line = none →
    let f (lo w : Nat) : Nat := (c.rcd.extractLsb' lo w).toNat
    let turn (d : Coll) : Prop := (d.rcd.extractLsb' 96 8).toNat = region ∧ (d.rcd.extractLsb' 160 32).toNat = r.next
    let passed (d : Coll) : Prop := (d.rcd.extractLsb' 96 8).toNat = region ∧
      2 ^ 31 < ((d.rcd.extractLsb' 160 32).toNat + 2 ^ 32 - r.next) % 2 ^ 32
    let size := if r.bf16 then 2 else 4
    let dst := if r.bf16 then bf16 else fp32
    let src_ := elementFmt (f 244 4)
    let gone : State := s.modPart p (fun x => { x with held := x.held.filter (fun h => !(h.1 == src && h.2.2.no == c.no)) })
    let bad := f 128 32 % size ≠ 0 ∨ r.len < f 128 32 + size * f 64 32
    let late := Happens (.collApply p region) s (collFault src p q c { cause := 0x17 } gone)
    let first := turn c ∧ (∀ h ∈ pre, ¬ turn h.2.2) ∧ ∀ h ∈ (s.part p).held, ¬ passed h.2.2
    (passed c → (∀ h ∈ pre, ¬ passed h.2.2) → late) ∧
    (first → bad → late) ∧
    (first → r.gone = true → late) ∧
    (first → ¬ bad → r.gone = false → noneOn s 8 (spanReads s r.ctx (r.base + f 128 32) (size * f 64 32)) →
      ∀ ks : List (Nat × Home), ks.length = f 64 32 → c.src.length = f 64 32 →
      (∀ i key h, ks[i]? = some (key, h) → ioAddr s r.ctx .w (r.base + f 128 32 + size * i) = .key key h ∧
        ∃ stack ch, h = .near r.ctx.part.pkg stack ch) →
      noneOn s size ks →
      (∀ (i j : Nat) (a b : Nat × Home), ks[i]? = some a → ks[j]? = some b → i < j → a.1 + size ≤ b.1 ∨ b.1 + size ≤ a.1) →
      ∃ t, exec (.collApply p region) s = .next t ∧
        (∀ (i key : Nat) (h : Home) (v : BitVec 32), ks[i]? = some (key, h) → c.src[i]? = some v →
          let old := bytesAt s.mem size key
          let e := src_.decode v.toNat
          bytesAt t.mem size key = (if f 240 4 = 1 then dst.arith .rne false ((dst.decode old).add .rne e) else dst.conv .rne false e)
            % 2 ^ (8 * size)) ∧
        (∀ a, (∀ k ∈ ks, a < k.1 ∨ k.1 + size ≤ a) → memGet t.mem a = memGet s.mem a) ∧
        (t.part p).held = (gone.part p).held ∧ ∃ m ws, (m, Msg.collAck src q c.no ws p.pkg) ∈ t.msgs ∧
          aget (t.part p).regions region = some { r with
            next := (r.next + 1) % 2 ^ 32, waits := r.waits.filter (fun o => !t.opPerformed o) ++ ws })) ∧
  (∀ (n q no src : Nat) (p : PartId) (ws : List Nat) (pre post : List Coll) (c : Coll) (s0 s : State),
    aget s0.msgs n = some (.collAck p q no ws src) → s0.arrives n = some s → s.cq p q = pre ++ c :: post → c.no = no → (∀ d ∈ pre, d.no ≠ no) →
    ((∀ o ∈ ws, s0.opPerformed o = true) → Happens (.collAck n) s0 (landResult c.txn [] (unplace c.strand c.txn
      ((s.dropMsg n).modCq p q (fun l => l.filter (fun d => d.no != no)))))) ∧
    ((∃ o ∈ ws, s0.opPerformed o = false) → exec (.collAck n) s0 = .next s0))

/-- 09 R235, R236, 15 R308, R309, 17 R343: the start of a collective command (`collectiveStarts`); 09 R237, 15 R310 to R312: its arrival, its application and its end (`collectiveOrder`). -/
def Obligations.CollectiveEvents : Prop := Claims.collectiveStarts ∧ Claims.collectiveOrder

/-! ## Launch queues, slices and retirement -/

namespace Sys2Proof.Claims

open Sys2Proof.Machine

/-- A launch queue's descriptor (16 R320): enabled, fed by LAUNCH, of the owner, its context, its ring and its words. -/
structure QueueDesc where
  en : Bool
  devf : Bool
  own : Bool
  ctx : CtxId
  tail : Nat
  head : Nat
  slot : Nat → Nat
  size : Nat

def queueDesc (s : State) (p : PartId) (q : Nat) : QueueDesc :=
  let d := s.queue p q
  let f (lo w : Nat) : Nat := (d.extractLsb' lo w).toNat
  let size := 2 ^ (f 12 4 + 4)
  let base := p.pkg * 2 ^ 45
  ⟨d.getLsbD 0, d.getLsbD 2, d.getLsbD 3, ⟨p, f 4 2⟩, base + f 72 56, base + (f 72 56 + 4),
    fun i => base + (f 16 56 + 128 * (i % size)), size⟩

/-- The records that the queue holds (16 R321). -/
def queueHolds (s : State) (d : QueueDesc) : Nat := (s.read 4 d.tail + 2 ^ 32 - s.read 4 d.head) % 2 ^ 32

/-- The record at the head of the queue. -/
def headRecord (s : State) (d : QueueDesc) : Rcd := BitVec.ofNat 1024 (s.read 128 (d.slot (s.read 4 d.head)))

/-- The scheduler takes nothing from the queue (16 R326, R327). -/
def queueWaits (s : State) (p : PartId) (q : Nat) : Prop :=
  (∃ l ∈ s.launches, l.2.ctx.part = p ∧ l.2.queue = q ∧ l.2.node = none ∧ (l.2.st = .taken ∨ l.2.st = .creating)) ∨
  (∃ g ∈ s.graphs, g.2.ctx.part = p ∧ g.2.queue = q)

/-- The head word goes on by one, and no other byte changes. -/
def headAdvanced (s t : State) (d : QueueDesc) : Prop :=
  bytesAt t.mem 4 d.head = (bytesAt s.mem 4 d.head + 1) % 2 ^ 32 ∧ ∀ a, a < d.head ∨ d.head + 4 ≤ a → memGet t.mem a = memGet s.mem a

end Sys2Proof.Claims

/-- 07 R172, 16 R321, R323: LAUNCH answers 2 where B names no queue that LAUNCH feeds and that is enabled, or where a check of the record
fails; 1 where the queue is full; and 0 otherwise: the record is copied to the tail, the tail goes on by one, and no other byte changes.
It reads its record as ALGLD reads its table, with acquire order at package scope, once the strand's earlier fences, acquires and writes to
it let it and nothing is pending on the words it looks at; a place or an error that refuses the read is an imprecise fault; one in the
strand's own image is the address fault, the model's choice (log entry 21), and so is the answer 2 for a bad record even where the queue is
full (log entry 37). -/
def Sys2Proof.Claims.launchEnqueues : Prop :=
  ∀ (h : Hdr) (d a b : Opd) (key tile : Nat) (leaf : Option Dword) (s s1 : State) (y : Iss),
    let r := readThread s1 y y.lead
    let q := r.b.toNat
    let p := y.st.part
    (Performs (.launch h d a b) s y s1 → ∀ off, checkAddr s1 y.st .rd r.a 128 = .at_ (.image off) →
      Faults (.launch h d a b) s { cause := 0x0E, addr := r.a.toNat, lowt := y.lead }) ∧
    let rcd : Rcd := BitVec.ofNat 1024 (s1.read 128 key)
    Performs (.launch h d a b) s y s1 → sound s1 → memGate s1 y = true → checkAddr s1 y.st .rd r.a 128 = .at_ (.mem key leaf tile) →
    (∀ o ∈ s1.ops, o.2.strand = y.k → o.2.opr ≠ 0 → o.2.stage ≠ .applied → o.2.addr + o.2.size ≤ key ∨ key + 128 ≤ o.2.addr) →
    launchQuiet s1 p q rcd = true →
    (∀ s2, pairRead y tile key s1 = some (s2, none) →
      let v := ((s2.dropOlder y.st.tileId (lineKey key)).dropOlder y.st.tileId (lineKey (key + 64))).sees y.k 0 (some .pkg) key 128
      let desc := queueDesc v p q
      let refused := 16 ≤ q ∨ desc.en = false ∨ desc.devf = false ∨ recordCause v p desc.ctx desc.own rcd ≠ none
      let tail := v.read 4 desc.tail
      (refused → Completes (.launch h d a b) s y (answered y d 2 v)) ∧
      (¬ refused → queueHolds v desc = desc.size → Completes (.launch h d a b) s y (answered y d 1 v)) ∧
      (¬ refused → queueHolds v desc ≠ desc.size → (desc.tail + 4 ≤ desc.slot tail ∨ desc.slot tail + 128 ≤ desc.tail) →
        ∃ u, Completes (.launch h d a b) s y (answered y d 0 u) ∧ u.read 128 (desc.slot tail) = rcd.toNat ∧
          u.read 4 desc.tail = (tail + 1) % 2 ^ 32 ∧
          ∀ x, (x < desc.slot tail ∨ desc.slot tail + 128 ≤ x) → (x < desc.tail ∨ desc.tail + 4 ≤ x) → u.byte x = v.byte x)) ∧
    (∀ s2 f, pairRead y tile key s1 = some (s2, some f) → Completes (.launch h d a b) s y
      ((openTxn y 1 d s2).2.send (.faultReport y.k y.pc { f with addr := r.a.toNat, lowt := y.lead } (s2.uid + 1))))

/-- 16 R320, R321, R323, R326, R329, R330; 14 R297: launch queues. A write that sets EN takes the descriptor, but for OWN where it comes
through a virtual function, and the descriptor is served where it is sound
and posts event 0x8011 otherwise; it is watched where its pseudo-channel has one of its 16 reserved entries free, and read in turn
otherwise until one is free; a write that clears EN ends that. The record at the head of a queue that nothing holds back is taken with
the head's advance, once nothing is pending on the words that the scheduler looks at: a compute record becomes a slice, a graph all its nodes, a host-fed record that fails a check is passed over with
STATUS 1 and its cause; a mode-set record waits until no launch of its context runs, and takes effect in the same step. Both leave a
retired launch, whose record and events SLICE_RETIRE delivers in order. A mode-set leaves a record with STATUS 0: log entry 38, the model's
choice. -/
def Sys2Proof.Claims.launchQueues : Prop :=
  ∀ (p : PartId) (q : Nat) (s : State), Inv s → sound s → (aget s.parts p).isSome = true →
    let d := queueDesc s p q
    let r := headRecord s d
    let type := (r.extractLsb' 0 4).toNat
    let cause := if d.devf then none else recordCause s p d.ctx d.own r
    let open_ := d.en = true ∧ schedRuns s d.ctx = true ∧ ¬ queueWaits s p q ∧ queueHolds s d ≠ 0
    let quiet := queueQuiet s p (s.queue p q) (s.read 4 d.head) = true ∧ recordQuiet s d.ctx r = true
    let taken (t : State) : Prop := headAdvanced s t d
    let caddr := (r.extractLsb' 640 56).toNat
    let record (v : Nat) : Option (BitVec 256) := if caddr = 0 ∨ caddr % 32 ≠ 0 then none
      else some (BitVec.ofNat 256 (v + 2 ^ 32 * (r.extractLsb' 16 32).toNat + 2 ^ 192 * (s.clk % 2 ^ 64)))
    let closes (t : State) (v : Nat) : Prop := ∃ n, t.launches = s.launches ++
      [(n, ({ ctx := d.ctx, queue := q, rcd := r, st := .retired, record := record v } : Launch))]
    let idle := (∀ l ∈ s.launches, l.2.ctx = d.ctx → l.2.st = .retired ∨ l.2.st = .taken) ∧ (∀ g ∈ s.graphs, g.2.ctx = d.ctx → g.2.began = [])
    (∀ (desc : BitVec 128) (vf : Bool), q < 16 → desc.getLsbD 0 = true → d.en = false →
      let w := (if vf then (desc &&& ~~~8#128) ||| (s.queue p q &&& 8#128) else desc) &&& ~~~0xFC2#128
      let f (lo n : Nat) : Nat := (desc.extractLsb' lo n).toNat
      let own (a : Nat) : Prop := a < 2 ^ 43 ∧ a / 10 ^ 10 ∈ (s.part p).gran
      let fits := f 72 56 % 8 = 0 ∧ own (f 72 56) ∧ own (f 72 56 + 4) ∧ own (f 16 56) ∧ own (f 16 56 + 128 * 2 ^ (f 12 4 + 4) - 1)
      let set (w : BitVec 128) : State := s.modPart p (fun x => { x with queues := aput x.queues q w })
      let home := devHome p.pkg (f 72 56)
      (¬ fits → Happens (.queueEnable p q ⟨vf, desc⟩) s ((set (w &&& ~~~1#128)).postBy p .launcher 0x8011 q)) ∧
      (fits → (s.home home).reserved.length < 16 →
        Happens (.queueEnable p q ⟨vf, desc⟩) s ((set w).modHome home (fun x => { x with reserved := x.reserved ++ [(p, q)] }))) ∧
      (fits → 16 ≤ (s.home home).reserved.length →
        Happens (.queueEnable p q ⟨vf, desc⟩) s (((set w).modPart p (fun x => { x with polled := x.polled ++ [q] })).postBy p .launcher 0x8010 q))) ∧
    (d.en = true → ∃ t, exec (.queueDisable p q) s = .next t ∧ (queueDesc t p q).en = false ∧ q ∉ (t.part p).polled ∧
      (∀ h ∈ t.homes, (p, q) ∉ h.2.reserved) ∧ t.mem = s.mem ∧ t.launches = s.launches) ∧
    (q ∈ (s.part p).polled → (s.home (devHome p.pkg (((s.queue p q).extractLsb' 72 56).toNat))).reserved.length < 16 →
      ∃ t, exec (.tailPoll p q) s = .next t ∧ q ∉ (t.part p).polled ∧
        (p, q) ∈ (t.home (devHome p.pkg (((s.queue p q).extractLsb' 72 56).toNat))).reserved) ∧
    (¬ quiet → exec (.launchRecordTake p q) s = .next s ∧ exec (.modeSetApply p q) s = .next s) ∧
    (open_ → quiet → cause = none → type = 1 → ∃ t n, exec (.launchRecordTake p q) s = .next t ∧ taken t ∧
      t.launches = s.launches ++ [(n, ({ ctx := d.ctx, queue := q, rcd := r, st := .taken } : Launch))]) ∧
    (open_ → quiet → cause = none → type = 3 → ∀ ns, readNodes s d.ctx (r.extractLsb' 696 56).toNat ((r.extractLsb' 280 8).toNat + 1) = some ns →
      ∃ t g, exec (.launchRecordTake p q) s = .next t ∧ taken t ∧
        t.graphs = s.graphs ++ [(g, ({ ctx := d.ctx, queue := q, rcd := r, nodes := ns } : Graph))] ∧
        ∀ i x, ns[i]? = some x → ∃ n, (n, ({ ctx := d.ctx, queue := q, rcd := x, node := some (g, i), st := .taken } : Launch)) ∈ t.launches) ∧
    (open_ → quiet → ∀ c, cause = some c → ∃ t, exec (.launchRecordTake p q) s = .next t ∧ taken t ∧ closes t (1 + 2 ^ 16 * c)) ∧
    (open_ → quiet → idle → cause = none → type = 2 → (aget s.ctxs d.ctx).isSome = true →
      let drnd := if r.getLsbD 11 then (r.extractLsb' 12 3).toNat else (s.ctx d.ctx).drnd
      let now := 2 ^ 128 * (s.clk % 2 ^ 64)
      (r.getLsbD 10 = false → ∃ t, exec (.modeSetApply p q) s = .next t ∧ taken t ∧ closes t now ∧
        t.ctx d.ctx = { s.ctx d.ctx with det := r.getLsbD 8, drnd := drnd }) ∧
      (r.getLsbD 10 = true → ∀ table, readRcd s d.ctx (r.extractLsb' 696 56).toNat = some table →
        s.genHeld d.ctx (((s.ctx d.ctx).gen + 1) % 16) = false →
        ∃ t, exec (.modeSetApply p q) s = .next t ∧ taken t ∧ closes t now ∧
          t.ctx d.ctx = { (s.ctx d.ctx).install table with det := r.getLsbD 8, drnd := drnd })) ∧
    (open_ → ¬ idle → exec (.modeSetApply p q) s = .next s)

/-- 07 R172, 16 R321, R323: LAUNCH (`launchEnqueues`); 14 R297, 16 R320, R321, R323, R326, R329: launch queues (`launchQueues`). -/
def Obligations.Launching : Prop := Claims.launchEnqueues ∧ Claims.launchQueues

namespace Sys2Proof.Claims

open Sys2Proof.Machine

/-- 16 R327: the order of candidates: the earlier deadline, then the lower queue, then the lower node. -/
def goesFirst (a b : Launch) : Prop :=
  let key (l : Launch) : List Nat := [(l.rcd.extractLsb' 512 64).toNat, l.queue, (l.node.map (fun x => x.2)).getD 0]
  key a < key b

/-- The first of a list in that order, the earlier one in the list at a tie. -/
def isFirst (cs : List (Nat × Launch)) (c : Nat × Launch) : Prop :=
  ∃ pre post, cs = pre ++ c :: post ∧ (∀ x ∈ pre, goesFirst c.2 x.2) ∧ ∀ x ∈ post, ¬ goesFirst x.2 c.2

/-- The latest deadline, and of those the most recent start (16 R327). -/
def isVictim (cs : List (Nat × Launch)) (c : Nat × Launch) : Prop :=
  let key (l : Launch) : List Nat := [(l.rcd.extractLsb' 512 64).toNat, l.started.getD 0]
  ∃ pre post, cs = pre ++ c :: post ∧ (∀ x ∈ pre, ¬ key c.2 < key x.2) ∧ ∀ x ∈ post, key x.2 < key c.2

/-- A candidate starts, or comes back after a pre-emption. -/
def started (n : Nat) (l : Launch) (s : State) : State :=
  let s := s.modLaunch n (fun x => if x.st = .taken then { x with st := .creating } else { x with knell := none })
  match l.node with
  | some (g, i) => { s with graphs := amod s.graphs g (fun x => { x with began := if x.began.contains i then x.began else x.began ++ [i] }) }
  | none => s

/-- The tiles of a placement (16 R324), and whether a slice holds a slot of one of them. -/
def tilesOf (l : Launch) : List Nat := (List.range (l.rcd.extractLsb' 304 8).toNat).map (fun i => (l.rcd.extractLsb' 312 8).toNat + i)

end Sys2Proof.Claims

/-- 16 R324, R325, R327; 17 R351: the scheduler chooses the candidate of the earliest deadline. Startable, it starts; otherwise the running
slice of the latest deadline, later than the candidate's, that holds a slot it needs hears the knell; with none such, or while one such
is being pre-empted already, the first startable candidate whose placement shares no tile with it starts. A slice that runs gets its next strand, in the lowest free slot of the lane that
its number gives, in the state of R325; a strand that was saved comes back in the same way, in ascending order. -/
def Obligations.Slices : Prop :=
  (∀ (p : PartId) (n : Nat) (l : Launch) (s : State), (∀ x ∈ s.launches, x.2.queue < 16 ∧ ∀ g i, x.2.node = some (g, i) → i < 256) →
    isFirst (candidates s p) (n, l) →
    (startable s l = true → Happens (.sliceSelect p) s (started n l s)) ∧
    (startable s l = false → (∀ x ∈ victims s p l, x.2.knell = none) → ∀ m v, isVictim (victims s p l) (m, v) → Happens (.sliceSelect p) s
      ((v.live.foldl (fun s k => s.modStrand k (fun st => { st with knell := true })) s).modLaunch m
        (fun x => { x with knell := some (max 1 (s.ctx v.ctx).kcnt) }))) ∧
    (startable s l = false → (victims s p l = [] ∨ ∃ x ∈ victims s p l, x.2.knell ≠ none) → ∀ m c,
      isFirst ((candidates s p).filter (fun c => startable s c.2 && !(tilesOf c.2).any (fun t => (tilesOf l).contains t))) (m, c) →
      Happens (.sliceSelect p) s (started m c s))) ∧
  (∀ (n slot : Nat) (l : Launch) (s : State), aget s.launches n = some l → schedRuns s l.ctx = true → l.knell = none → slot < 8 →
    let f (lo w : Nat) : Nat := (l.rcd.extractLsb' lo w).toNat
    let sid := l.nextSid
    let spl := f 300 4
    let tile := f 312 8 + sid / (64 * spl) % f 304 8
    let lane : LaneId := ⟨⟨l.ctx.part, tile⟩, sid / spl % 64⟩
    let now := s.cycle l.ctx.part
    let det := l.rcd.getLsbD 8 || (s.ctx l.ctx).det
    let gen := ((s.lane lane).gens.getD slot 0 + 1) % 65536
    let taken (m : Nat) : Prop := ∃ x ∈ s.strands, x.2.laneId = lane ∧ x.2.slot = m ∧ x.2.status = .resident
    let grantable := ¬ taken slot ∧ (∀ m < slot, taken m) ∧ genCarried s lane slot gen = false
    let budgetLeft := f 448 64 = 0 ∨ l.used < f 448 64
    (l.st = .creating → (∀ k ∈ l.live, ∀ st, s.strand k = some st → st.status ≠ .saved) → sid < f 356 28 → budgetLeft → grantable →
      ∃ t k st, exec (.strandCreate n) s = .next t ∧ t.strands = s.strands ++ [(k, st)] ∧
        st.ctx = l.ctx ∧ st.launch = n ∧ st.sid = sid ∧ st.laneId = lane ∧ st.slot = slot ∧ st.gen = gen ∧ st.status = .resident ∧
        st.vregs = f 344 8 ∧ st.uregs = f 338 6 ∧ st.priv = false ∧ st.framed = false ∧ st.ents = [] ∧ st.bands = [] ∧
        (∀ key x, now ≤ x → regRead st.regs key x = (if 2 ≤ f 338 6 ∧ key = uniKey 0 then (l.rcd.extractLsb' 576 32)
          else if 2 ≤ f 338 6 ∧ key = uniKey 1 then (l.rcd.extractLsb' 608 32) else 0)) ∧
        st.image = (if 2 ≤ f 338 6 then imagePut [] 8 0x400 (f 576 64) else []) ∧
        (∀ j, st.flagCount j now = 0) ∧ st.modew = BitVec.ofNat 32 (2 ^ 8 * f 320 12 + 2 ^ 16 * (s.ctx l.ctx).drnd) ∧
        st.tvec = BitVec.ofNat 56 (f 760 56) ∧ st.det = det ∧ st.hold = (det && sid == 0) ∧
        (∀ i < 16, (st.thread i).pc = BitVec.ofNat 56 (f 696 56) ∧
          (st.thread i).st = (if sid + 1 = f 356 28 ∧ f 352 4 < i then .exited else .live)) ∧
        (∃ l', aget t.launches n = some l' ∧ l'.nextSid = sid + 1 ∧ l'.live = l.live ++ [k] ∧
          l'.st = (if sid + 1 = f 356 28 then .running else .creating)) ∧ t.mem = (commit s.mem s).mem) ∧
    (∀ k st rest, (l.st = .creating ∨ l.st = .running) → det = false → savedStrands s l = (st.sid, k, st) :: rest →
      outstanding s k = false → armsQuiet s st = true → ∀ m g, grant s st.laneId = some (m, g) → Happens (.strandCreate n) s (restoreStrand k m g s)))

/-- 16 R328 to R331; 12 R279; 17 R341, R344, R345, R348: budgets and retirement. Where the budget of a slice runs out, the line rises with cause 0x35 if
it has no handler, and otherwise its strands enter their handlers with kind 5 and have 65,536 ticks; at their end the line rises. TMASK of a
strand with no live thread is its parked threads: the model's choice (log entry 43). A slice
whose strands have ended, whose commands are complete and whose writes are performed retires while the line is down: it leaves its
completion record, where it is asked for, and its events. In the order of retirements the record is written, where a write may go there, and then
event 0x8012 says that it could not be, and event 0x8003, with the interrupt, that the launch is over. A node retires in its graph, whose
sink ends it. -/
def Obligations.BudgetsAndRetirement : Prop :=
  ∀ (n : Nat) (l : Launch) (s : State), Inv s → sound s → aget s.launches n = some l →
    let f (lo w : Nat) : Nat := (l.rcd.extractLsb' lo w).toNat
    let p := l.ctx.part
    let runs := l.st = .creating ∨ l.st = .running
    let down : State := ((s.raiseLine p 0x35 (some .launcher)).putStop p .launcher
      (StopInfo.bits { flt := { cause := 0x35 }, unit := 4 * 2 ^ 28, coinc := 16 } s.clk)).modLaunch n (fun x =>
        { x with st := .byBudget, grace := none })
    let ended : State := match l.node with
      | some (g, _) => { down with graphs := amod down.graphs g (fun x => { x with ended := some (x.ended.getD s.clk) }) }
      | none => down
    let out := f 448 64 ≠ 0 ∧ f 448 64 ≤ l.used ∧ l.live ≠ [] ∧ l.grace = none ∧ runs ∧ (s.part p).line = none
    let whole : Prop := l.live = [] ∧ (∀ x ∈ s.strands, x.2.launch = n → x.2.status = .ended ∧ x.2.placed = []) ∧ sliceDone s n l = true
    let record (status cause : Nat) : Nat := status + 2 ^ 3 * (decide (f 512 64 < s.clk)).toNat + 2 ^ 16 * cause + 2 ^ 32 * f 16 32
      + 2 ^ 64 * (l.used % 2 ^ 64) + 2 ^ 128 * (l.started.getD 0 % 2 ^ 64) + 2 ^ 192 * (s.clk % 2 ^ 64)
    let asked (v : Nat) : Option (BitVec 256) := if f 640 56 = 0 ∨ f 640 56 % 32 ≠ 0 then none else some (BitVec.ofNat 256 v)
    let leaves (ws : List Nat) (v : Nat) : Launch :=
      { ctx := l.ctx, queue := l.queue, rcd := l.rcd, st := .retired, waits := ws, record := asked v }
    let retires (status cause : Nat) : Prop := l.node = none → ∃ t m ws, exec (.sliceRetire n) s = .next t ∧
      t.launches = adel s.launches n ++ [(m, leaves ws (record status cause))] ∧
      (∀ x ∈ t.strands, x.2.launch ≠ n) ∧ (t.part p).events = (s.part p).events ∧ (f 392 56 = 0 → ws = [] ∧ t.mem = s.mem)
    let quiet := writesQuiet s l.ctx (profVas s l) = true
    let turn := (∀ o ∈ l.waits, s.opPerformed o = true) ∧ ∀ x ∈ s.launches, x.2.ctx.part = p → x.2.st = .retired → n ≤ x.1
    (out → f 760 56 = 0 → Happens (.budgetExpiry n) s ended) ∧
    (out → f 760 56 ≠ 0 → ∃ t l', exec (.budgetExpiry n) s = .next t ∧ aget t.launches n = some l' ∧ l'.grace = some 65536 ∧
      ∀ k ∈ l.live, ∀ st, s.strand k = some st → st.status = .resident → st.priv = false → st.trapped = false → st.tvec ≠ 0 →
        knellOver s st = false →
        let parked := (List.range 16).filter (fun i => (st.thread i).st == .parked)
        let mask := maskOf (if st.liveThreads = [] then parked else st.liveThreads)
        ∃ st', t.strand k = some st' ∧ st'.priv = true ∧ st'.tcause = 0x00350005 ∧ st'.tmask = mask ∧
          ∀ i < 16, mask.getLsbD i = true → (st'.thread i).st = .live ∧ (st'.thread i).pc = st.tvec) ∧
    (l.grace = some 0 → runs → (s.part p).line = none → Happens (.budgetGraceExpiry n) s ended) ∧
    ((s.part p).line ≠ none → exec (.sliceRetire n) s = .next s) ∧
    (whole → quiet → (s.part p).line = none → (l.st = .running → retires 0 0) ∧ (l.st = .byBudget → retires 3 0x35) ∧
      (l.st = .running ∨ l.st = .byBudget → ∀ g i, l.node = some (g, i) → Happens (.sliceRetire n) s (retireNode n g i l s))) ∧
    (l.st = .running → ¬ whole ∨ ¬ quiet → exec (.sliceRetire n) s = .next s) ∧
    (l.st = .retired → turn → (s.part p).line = none → ∀ v, l.record = some v → writesQuiet s l.ctx [f 640 56] = true →
      ((∀ key h, ioAddr s l.ctx .w (f 640 56) = .key key h → ¬ allowed s l.ctx false (key, h)) → Happens (.sliceRetire n) s
        (s.modLaunch n (fun x => { x with waits := [], record := none, lost := true }))) ∧
      (∀ key h, ioAddr s l.ctx .w (f 640 56) = .key key h → allowed s l.ctx false (key, h) →
        ∃ t l', exec (.sliceRetire n) s = .next t ∧ aget t.launches n = some l' ∧ l'.st = .retired ∧ l'.record = none ∧
          l'.lost = l.lost ∧ bytesAt t.mem 32 key = v.toNat ∧ ∀ a, a < key ∨ key + 32 ≤ a → memGet t.mem a = memGet s.mem a)) ∧
    (l.st = .retired → turn → (s.part p).line = none → l.record = none → (aget s.parts p).isSome = true →
      ∃ t, exec (.sliceRetire n) s = .next t ∧ aget t.launches n = none ∧ (∀ x ∈ t.strands, x.2.launch ≠ n) ∧ t.mem = s.mem ∧
        (t.part p).events = (s.part p).events ++ (if l.lost then [(0x8012, f 16 32)] else []) ++
          (if l.rcd.getLsbD 9 then [(0x8003, f 16 32)] else []) ∧
        (l.rcd.getLsbD 9 = true → (t.part p).irq = true))

/-! ## Contexts: the knell, saving, moving, lines and configuration -/

namespace Sys2Proof.Claims

open Sys2Proof.Machine

/-- No two strands have one number (an invariant: StrandNumbers). -/
def numbered (s : State) : Prop := (s.strands.map (fun y => y.1)).Nodup ∧ ∀ y ∈ s.strands, y.1 ≤ s.uid

/-- A command that completes posts 0x8040 + CMD with the context's number (17 R356). -/
def posted (s t : State) (p : PartId) (evs : List (Nat × Nat)) : Prop := (t.part p).events = (s.part p).events ++ evs

/-- The knell rings for a context (17 R351, R356). -/
def knelled (c : CtxId) (f : Ctx → Ctx) (s : State) : State :=
  let strands := s.strands.map (fun x => if x.2.ctx = c ∧ x.2.status ≠ .ended then (x.1, { x.2 with knell := true }) else x)
  { s with strands := strands, ctxs := amod s.ctxs c (fun x =>
      let y := f x
      { y with st := 2, knell := some (max 1 x.kcnt), refd := false }) }

/-- Commands of a context that have not started, with their queues (17 R357). -/
def unstarted (s : State) (c : CtxId) : List (Nat × Coll) :=
  (s.part c.part).cqs.flatMap (fun q => (q.2.filter (fun d => d.ctx == c && !d.started)).map (fun d => (q.1, d)))

/-- A place of a context is free: it holds none, and none is on its way from it or to it. -/
def vacant (s : State) (c : CtxId) : Prop :=
  ((s.ctx c).st = 0 ∨ (s.ctx c).st = 5) ∧ ∀ m ∈ s.msgs, ∀ d dest slot, m.2 = .move d dest slot → d ≠ c ∧ c ≠ ⟨⟨d.part.pkg, dest⟩, slot⟩

/-- Why a MOVE is refused (17 R357, 19 R380). -/
def moveFails (s : State) (c : CtxId) (p : PartId) : Prop :=
  aget s.parts p = none ∨ (∀ n < 4, ¬ vacant s ⟨p, n⟩) ∨ (s.pkg p.pkg).feat ≠ (s.pkg c.part.pkg).feat ∨
  (∃ t ∈ s.tctx, t.1.ctx = c ∧ 4 * (s.part p).gran.length ≤ t.1.t ∧
    (t.2.bufs ≠ [] ∨ (∃ x ∈ t.2.slots, x.2.st ≠ .free) ∨ ∃ e ∈ t.2.engines, e.2.rings ≠ [])) ∨
  countersMissing s c p = true ∨
  (s.pkg p.pkg).vers.extractLsb' 32 12 ≠ (s.pkg c.part.pkg).vers.extractLsb' 32 12 ∨
  (∃ r ∈ (s.part c.part).regions, r.2.ctx = c ∧ r.2.gone = false ∧ (aget (s.part p).regions r.1).isSome = true) ∨
  ∃ q < 4, 64 < (s.cq p q).length + ((s.ctx c).held.filter (fun h => h.1 == q)).length

end Sys2Proof.Claims

/-- 17 R351, R353, R354, R356, R357: SAVE and MOVE ring the knell of a running context. When its count has run out, a strand with no live
thread, or in its handler once its register writes have landed, is saved as it stands; any other, once they have landed, is cut back: its
entries are gone and its threads stand at its region start. Once every strand is saved, every write performed and no started collective
command left, the context is saved: commands that have not started are held, running tasks are cut, its header keeps the bytes of its buffers and
the stop records of the partition's units, and the command's event is posted. -/
def Obligations.ContextSaves : Prop :=
  ∀ (c : CtxId) (s : State), s.stores = [] → numbered s → (aget s.parts c.part).isSome = true →
    let x := s.ctx c
    (x.st = 1 → Happens (.save c) s (knelled c (fun x => { x with moving := false }) s)) ∧
    (x.st ≠ 1 → exec (.save c) s = .next s) ∧
    (x.st = 1 → ∀ dest, Happens (.move c dest) s (knelled c (fun x => { x with dest := dest, moving := true }) s)) ∧
    ((s.part c.part).line = none → ∀ k st, s.strand k = some st → st.ctx = c → st.status = .resident → knellOver s st = true →
      let left := outstanding s k
      ((st.liveThreads = [] ∨ (st.priv = true ∧ left = false)) → ∃ t st', exec (.knellCountExpiry c) s = .next t ∧ t.strand k = some st' ∧
        st'.status = .saved ∧ st'.ents = st.ents ∧ st'.regs = st.regs ∧ st'.threads.map (fun th => th.pc) = st.threads.map (fun th => th.pc)) ∧
      (st.liveThreads ≠ [] → st.priv = false → left = false → st.region.length = 16 → st.threads.length = 16 →
        ∃ t st', exec (.knellCountExpiry c) s = .next t ∧ t.strand k = some st' ∧ st'.status = .saved ∧ st'.ents = [] ∧ st'.win = false ∧
          st'.repl = false ∧ st'.regs = st.regs ∧ st'.bands = st.bands ∧ st'.watch = st.watch ∧ st'.modew = st.modew ∧
          st'.threads.map (fun th => th.pc) = st.region.map (fun r => r.pc)) ∧
      (st.liveThreads ≠ [] → left = true → ∀ t st', exec (.knellCountExpiry c) s = .next t → t.strand k = some st' → st'.status = .resident)) ∧
    (x.st = 2 → (s.part c.part).line = none → saveReady s c = true → x.moving = false →
      ∃ t, exec (.saveCompletion c) s = .next t ∧ (t.ctx c).st = 3 ∧ (t.ctx c).knell = none ∧ (t.ctx c).held = x.held ++ unstarted s c ∧
        unstarted t c = [] ∧ posted s t c.part [(0x8041, c.n)] ∧ (∀ y ∈ t.tctx, y.1.ctx = c → ∀ i ∈ y.2.tq, i.running = false) ∧
        (t.ctx c).table = x.table ∧ (t.ctx c).gen = x.gen ∧ t.mem = s.mem ∧ (t.ctx c).stops = (s.part c.part).recs ∧
        ∀ y ∈ s.tctx, y.1.ctx = c → ∀ b ∈ y.2.bufs, ∀ i < b.2.size / 64, ∃ l, (((y.1.t, b.2.base + 64 * i), l) ∈ (t.ctx c).bytes ∧
          l.toNat = bytesAt s.mem 64 (scratchKey c.part.pkg (s.part c.part) y.1.t (b.2.base + 64 * i)))) ∧
    ((∃ y ∈ s.strands, y.2.ctx = c ∧ y.2.status = .resident) → exec (.saveCompletion c) s = .next s)

/-- 17 R356 to R358; 19 R380: RESUME puts the held commands and the bytes of the buffers back and runs the context again, unless a queue
lacks room for the commands, or another context has a buffer where one of its own was: it is then refused with REFD. MOVE of a saved context leaves for its
destination, or is refused with REFD and nothing moved. It arrives in a free place of the destination, saved, with its strands, its table,
what its header keeps, its reservations and its regions, and both partitions have the event; no translation of its old place is left in
any cache. That RESUME sets REFD, and that a place whose context has moved away counts as free, is log entry 39, the model's choice. -/
def Obligations.ContextMoves : Prop :=
  ∀ (c : CtxId) (s : State), Inv s → numbered s → (aget s.parts c.part).isSome = true →
    let x := s.ctx c
    let room := (∀ q < 4, (s.cq c.part q).length + (x.held.filter (fun h => h.1 == q)).length ≤ 64) ∧
      ∀ y ∈ s.tctx, y.1.ctx = c → ∀ b ∈ y.2.bufs, ∀ z ∈ contextsOf c.part, s.onTiles z = true →
        ∀ d ∈ (s.tc ⟨z, y.1.t⟩).bufs, b.2.base + b.2.size ≤ d.2.base ∨ d.2.base + d.2.size ≤ b.2.base
    let at_ (b : (Nat × Nat) × Line) : Nat := scratchKey c.part.pkg (s.part c.part) b.1.1 b.1.2
    (x.st = 3 → room → ∃ t, exec (.resume c) s = .next t ∧ (t.ctx c).st = 1 ∧ (t.ctx c).held = [] ∧ (t.ctx c).refd = false ∧
      posted s t c.part [(0x8042, c.n)] ∧ (∀ q < 4, (t.cq c.part q).length = (s.cq c.part q).length + (x.held.filter (fun h => h.1 == q)).length) ∧
      (t.ctx c).bytes = [] ∧ (x.bytes.Pairwise (fun a b => at_ a + 64 ≤ at_ b ∨ at_ b + 64 ≤ at_ a) →
        ∀ b ∈ x.bytes, bytesAt t.mem 64 (at_ b) = b.2.toNat) ∧
      ∀ a, (∀ b ∈ x.bytes, a < at_ b ∨ at_ b + 64 ≤ a) → memGet t.mem a = memGet s.mem a) ∧
    (x.st = 3 → ¬ room → Happens (.resume c) s (s.modCtx c (fun x => { x with refd := true }))) ∧
    (x.st ≠ 3 → exec (.resume c) s = .next s) ∧
    (x.st = 3 → ∀ dest,
      let p : PartId := ⟨c.part.pkg, dest⟩
      let asked (f : Ctx → Ctx) : State := s.modCtx c (fun x => f { x with dest := dest, refd := false })
      (moveFails s c p → Happens (.move c dest) s (asked (fun x => { x with refd := true, moving := false }))) ∧
      (¬ moveFails s c p → ∀ n < 4, vacant s ⟨p, n⟩ → (∀ m < n, ¬ vacant s ⟨p, m⟩) →
        Happens (.move c dest) s (((asked (fun x => { x with st := 5, moving := false })).send (.move c dest n)).post c.part 0x8043 c.n))) ∧
    (∀ n dest place_, aget s.msgs n = some (.move c dest place_) →
      let c' : CtxId := ⟨⟨c.part.pkg, dest⟩, place_⟩
      c' ≠ c → (aget s.parts c'.part).isSome = true →
      ∃ t, exec (.moveArrival n) s = .next t ∧ (t.ctx c').st = 3 ∧ (t.ctx c').table = x.table ∧ (t.ctx c').gen = x.gen ∧
        (t.ctx c').root = x.root ∧ (t.ctx c).held = [] ∧ posted s t c'.part [(0x8043, c'.n)] ∧
        (∀ k st, s.strand k = some st → ∃ st', t.strand k = some st' ∧ st'.ctx = (if st.ctx = c then c' else st.ctx) ∧ st'.threads = st.threads) ∧
        (t.ctx c').bytes = x.bytes ∧ (t.ctx c).bytes = [] ∧ t.mem = s.mem ∧
        (∀ y ∈ s.tctx, y.1.ctx = c → ∃ z ∈ t.tctx, z.1 = ⟨c', y.1.t⟩ ∧ z.2 = y.2) ∧
        (∀ u r, (u, r) ∈ x.stops → ∃ r', aget (t.part c'.part).recs u = some r' ∧ stopTime r ≤ stopTime r') ∧
        (∀ r ∈ (t.part c.part).resv, r.ctx ≠ c) ∧ (∀ r ∈ (t.part c.part).regions, r.2.ctx = c → r.2.gone = true) ∧
        (∀ y ∈ t.tiles, ∀ e ∈ y.2.tlb, e.ctx ≠ c) ∧ ∀ d ∈ t.walks, ∀ e ∈ d.2, e.ctx ≠ c)

/-- 17 R342 to R344, R348, R349, R354, R356: HALT raises the line with cause 0x30, which halts every context that runs; RELEASE clears it
and restores their states; then what was recorded for its strands takes effect. While it is raised, a unit that has not stopped writes its record once, a scheduler with its tasks cut; when
every unit has, the originator with a handler enters it, and the entry of a drain fault is held until it returns (02 R56). REPLAY clears
REPL and lets paused engines go on; INVAL drops the partition's translations, those of the walk caches too; both in any STATE. -/
def Obligations.LinesAndCommands : Prop :=
  ∀ (c : CtxId) (s : State), s.stores = [] → numbered s → (aget s.parts c.part).isSome = true →
    let p := c.part
    let x := s.ctx c
    (x.st = 1 → (s.part p).line = none → ∃ t, exec (.halt c) s = .next t ∧ (t.part p).line = some 0x30 ∧
      posted s t p [(0x8002, 0x30), (0x8044, c.n)] ∧ t.mem = s.mem ∧ t.strands = s.strands ∧
      ∀ m < 4, let y := s.ctx ⟨p, m⟩
        t.ctx ⟨p, m⟩ = if y.st = 1 ∨ y.st = 2 then { y with before := y.st, st := 4 } else y) ∧
    (x.st ≠ 1 → exec (.halt c) s = .next s) ∧
    (x.st = 4 → (s.part p).line.isSome = true → (∀ k st, s.strand k = some st → s.budgetEnded st = false) →
      ∃ t, exec (.release c) s = .next t ∧ (t.part p).line = none ∧ posted s t p [(0x8045, c.n)] ∧ t.mem = s.mem ∧
        (∀ m < 4, let y := s.ctx ⟨p, m⟩
          t.ctx ⟨p, m⟩ = if y.st = 4 then { y with st := y.before } else y) ∧
        ((∀ y ∈ s.strands, y.2.part = p → y.2.recorded = [] ∧ ∀ th ∈ y.2.threads, th.st ≠ .parked) →
          ∀ k st, s.strand k = some st → ∃ st', t.strand k = some st' ∧ st'.threads = st.threads ∧ st'.regs = st.regs) ∧
        ∀ k st, s.strand k = some st → st.part = p → st.status ≠ .ended → ∃ st', t.strand k = some st' ∧ st'.stopped = false ∧
          st'.orig = none ∧ st'.inLine = false ∧
          (st.status = .resident → st.threads.length = 16 → ∀ r ∈ st.recorded, ∀ i < 16, (st.thread i).st = .parked →
            (st.thread i).park = .barw → (st.thread i).psel = r.1 → (st.thread i).parg = r.2 → (st.thread i).ptxn ≠ 0 →
            s.arrivalOut (st.thread i).ptxn = false → (st'.thread i).st = .live)) ∧
    (x.st ≠ 4 → exec (.release c) s = .next s) ∧
    ((s.part p).line.isSome = true →
      (∀ k st, s.strand k = some st → st.part = p → st.status = .resident → st.stopped = false →
        let pc := (st.issueAddr.getD 0).toNat
        let info : StopInfo := { flt := { cause := 0x36 }, issue := pc, pc := pc, exm := (maskOf (st.executing (st.issueAddr.getD 0))).toNat
                                 loc := st.loc, unit := st.unit, orig := false, ust := st.ust (s.cycle p) }
        Happens (.unitStop p (.strand k)) s (s.putStop p (.strand k) (info.bits s.clk))) ∧
      (∀ n < 4 * (s.part p).gran.length, UnitId.sched n ∉ (s.part p).quiet → ∃ t, exec (.unitStop p (.sched n)) s = .next t ∧
        UnitId.sched n ∈ (t.part p).quiet ∧ ∀ y ∈ t.tctx, y.1.ctx.part = p → y.1.t = n → ∀ i ∈ y.2.tq, i.running = false) ∧
      (∀ u, (u = .launcher ∨ (∃ q < 4, u = .collective q) ∨ ∃ n < 4 * (s.part p).gran.length, ∃ e < 2, u = .engine n e) →
        u ∉ (s.part p).quiet → ∃ t, exec (.unitStop p u) s = .next t ∧ u ∈ (t.part p).quiet ∧ t.mem = s.mem ∧ t.strands = s.strands)) ∧
    ((s.part p).line = none → ∀ u, exec (.unitStop p u) s = .next s) ∧
    (∀ k st kind code mask, s.strand k = some st → st.part = p → st.orig = some (kind, code, mask) →
      ((s.part p).line.isSome = true → st.status = .resident → (∃ th ∈ st.threads, th.st ≠ .exited) → st.tvec ≠ 0 → st.priv = false →
        allStopped s p = true → ∃ t st', exec (.originatorHandlerEntry k) s = .next t ∧ t.strand k = some st' ∧
          st'.priv = true ∧ st'.inLine = true ∧ st'.orig = none ∧ st'.tcause = BitVec.ofNat 32 (code % 2 ^ 16 * 2 ^ 16 + kind) ∧
          st'.tmask = mask ∧ st'.entHeld = st.stopRec.getLsbD 259 ∧ k ∉ (t.part p).originators ∧ (∀ i < 16, mask.getLsbD i = true → (st'.thread i).pc = st.tvec)) ∧
      ((s.part p).line = none ∨ allStopped s p = false → exec (.originatorHandlerEntry k) s = .next s)) ∧
    (c.n < 4 → (∀ y ∈ s.strands, y.2.rearms = []) → ∃ t, exec (.replay c) s = .next t ∧ posted s t p [(0x8046, c.n)] ∧
      (∀ k st, s.strand k = some st → t.strand k = some (if st.ctx = c then { st with repl := false } else st)) ∧
      (∀ y ∈ t.tctx, y.1.ctx = c → ∀ e ∈ y.2.engines, ∀ r ∈ e.2.rings, r.2.paused = false) ∧
      (∀ r ∈ (t.part p).regions, r.2.ctx = c → r.2.paused = false)) ∧
    (c.n < 4 → ∃ t, exec (.inval c) s = .next t ∧ posted s t p [(0x8047, c.n)] ∧
      (∀ y ∈ t.tiles, y.1.part = p → y.2.tlb = []) ∧ (∀ n, n.part ≠ p → (t.tile n).tlb = (s.tile n).tlb) ∧
      ∀ d ∈ t.walks, ∀ e ∈ d.2, e.ctx.part ≠ p)

/-- 12 R276, R281; 16 R319, R326; 17 R339, R356, R358; 19 R373, R379: what the physical function does. It creates a partition, gives it
granules that none has, whose slices then read zero, creates a context, which starts with nothing on any tile, sets its root, enrols a
partition in a group that has none of its package, and destroys a partition with all of it. A context whose last launch has retired, its
record and events delivered, can end, and gives up its reservations; its regions stay with the partition, and CTXCTL keeps KCNT and DEST.
That a place whose context has moved away counts as free (log entry 39), when a context ends (44), that granules come to a partition
without contexts and what is dropped with a partition (46) are the model's choices. -/
def Obligations.Configuration : Prop :=
  ∀ (p : PartId) (c : CtxId) (s : State), Inv s →
    let part := s.part p
    let up (n : Nat) : Prop := ∃ k, aget s.pkgs n = some k ∧ 6 ≤ k.stepNo ∧ k.fw.recovery = false
    (up p.pkg → p.pid < 48 → aget s.parts p = none → Happens (.createPartition p) s { s with parts := s.parts ++ [(p, {})] }) ∧
    (¬ up p.pkg ∨ 48 ≤ p.pid ∨ aget s.parts p ≠ none → exec (.createPartition p) s = .next s) ∧
    (∀ gs : List Nat, up p.pkg → aget s.parts p ≠ none → gs.Nodup → (∀ n < 4, (s.ctx ⟨p, n⟩).st = 0) →
      (∀ g ∈ gs, g < 48 ∧ ∀ q ∈ s.parts, q.1.pkg = p.pkg → g ∉ q.2.gran) →
      ∃ t, exec (.assignGranules p gs) s = .next t ∧ (∀ g, g ∈ (t.part p).gran ↔ g ∈ part.gran ∨ g ∈ gs) ∧
        (t.part p).gran.length = part.gran.length + gs.length ∧
        ∀ a, memGet t.mem a = (if ∃ g ∈ gs, 2 ^ 60 + (p.pkg * 48 + g) * 2 ^ 25 ≤ a ∧ a < 2 ^ 60 + (p.pkg * 48 + g + 1) * 2 ^ 25 then 0
          else memGet s.mem a)) ∧
    (∀ gs : List Nat, (∃ g ∈ gs, 48 ≤ g ∨ ∃ q ∈ s.parts, q.1.pkg = p.pkg ∧ g ∈ q.2.gran) → exec (.assignGranules p gs) s = .next s) ∧
    (up c.part.pkg → aget s.parts c.part ≠ none → (s.part c.part).line = none → c.n < 4 → vacant s c →
      ∃ t, exec (.createContext c) s = .next t ∧ t.ctx c = { st := 1, kcnt := (s.ctx c).kcnt, dest := (s.ctx c).dest } ∧ (∀ y ∈ t.tctx, y.1.ctx ≠ c) ∧ t.mem = s.mem) ∧
    (∀ root, up c.part.pkg → (s.ctx c).st ≠ 0 → root % 4096 = 0 →
      Happens (.setTranslationRoot c root) s (s.modCtx c (fun x => { x with root := root }))) ∧
    (up p.pkg → aget s.parts p ≠ none → ∃ t, exec (.destroyPartition p) s = .next t ∧ aget t.parts p = none ∧
      (∀ y ∈ t.ctxs, y.1.part ≠ p) ∧ (∀ y ∈ t.strands, y.2.part ≠ p) ∧ (∀ y ∈ t.launches, y.2.ctx.part ≠ p) ∧
      (∀ y ∈ t.tctx, y.1.ctx.part ≠ p) ∧ (∀ g ∈ t.groups, p ∉ g.2) ∧ t.mem = s.mem ∧ ∀ q, q ≠ p → (t.part q).gran = (s.part q).gran) ∧
    (∀ g, aget s.parts p ≠ none → (s.pkg p.pkg).inDomain = true → part.group = none → (∀ q ∈ agetD s.groups g [], q.pkg ≠ p.pkg) →
      ∃ t, exec (.enrolDomainGroup p g) s = .next t ∧ (t.part p).group = some g ∧ agetD t.groups g [] = agetD s.groups g [] ++ [p]) ∧
    (∀ g, part.group.isSome = true ∨ (s.pkg p.pkg).inDomain = false → exec (.enrolDomainGroup p g) s = .next s) ∧
    ((s.ctx c).st = 1 ∨ (s.ctx c).st = 3 → (∀ y ∈ s.strands, y.2.ctx = c → y.2.status = .ended) →
      (∀ l ∈ s.launches, l.2.ctx ≠ c) → (∀ g ∈ s.graphs, g.2.ctx ≠ c) →
      ∃ t, exec (.contextEnd c) s = .next t ∧ t.ctx c = { st := 0, kcnt := (s.ctx c).kcnt, dest := (s.ctx c).dest } ∧ (∀ r ∈ (t.part c.part).resv, r.ctx ≠ c) ∧
        (t.part c.part).regions = (s.part c.part).regions.map (fun r => (r.1, { r.2 with gone := r.2.gone || r.2.ctx == c })) ∧ (∀ y ∈ t.tctx, y.1.ctx = c → ∀ a ∈ y.2.accs, a.2.shadow = none) ∧
        (∀ y ∈ t.tiles, ∀ e ∈ y.2.tlb, e.ctx ≠ c) ∧ t.mem = s.mem)

/-! ## Links, power, self-tests and resets -/

namespace Sys2Proof.Claims

open Sys2Proof.Machine

/-- The package has its physical function up: past step 4 of bring-up, and not in recovery (19 R382, R386). -/
def isUp (s : State) (n : Nat) : Prop := ∃ k, aget s.pkgs n = some k ∧ 5 ≤ k.stepNo ∧ k.fw.recovery = false

/-- The channel of a port. -/
def channel (s : State) (n port v : Nat) : VChan := agetD (portOf s n port).vcs v {}

/-- Fields of a flit's header (19 R376), and an answer to it: an ACK or a NACK with ASEQ, back to its sender. -/
def flitSeq (h : BitVec 64) : Nat := (h.extractLsb' 52 12).toNat
def flitVc (h : BitVec 64) : Nat := (h.extractLsb' 50 2).toNat
def flitKind (h : BitVec 64) : Nat := (h.extractLsb' 48 2).toNat
def flitAseq (h : BitVec 64) : Nat := (h.extractLsb' 36 12).toNat
def flitAnswer (h : BitVec 64) (kind aseq : Nat) : BitVec 64 := BitVec.ofNat 64
  (flitVc h * 2 ^ 50 + kind * 2 ^ 48 + aseq % 2 ^ 12 * 2 ^ 36 + (h.extractLsb' 18 9).toNat * 2 ^ 27 + (h.extractLsb' 27 9).toNat * 2 ^ 18)

/-- The CRC of a flit covers its header and its payload of 240 bytes (19 R376). -/
def crcOf (h : BitVec 64) (payload : List Byte) : BitVec 64 := Config.flitCrc ((List.range 8).map (fun i => h.extractLsb' (8 * i) 8) ++ payload)

/-- A flit as a port sends it. -/
def sound240 (f : Flit) : Prop := f.payload.length = 240 ∧ f.crc = crcOf f.hdr f.payload

/-- One flit with a header has gone out at a port. -/
def answersWith (s t : State) (n port : Nat) (h : BitVec 64) : Prop :=
  ∃ f, f.hdr = h ∧ sound240 f ∧ (portOf t n port).sent = (portOf s n port).sent ++ [f]

/-- The lanes of a port's direction are not being tested (18 R365). -/
def untested (s : State) (n port dir : Nat) : Prop := s.testOf n ⟨none, repairSel 5 port (32 * dir)⟩ = none

/-- The lowest port that is up (log entry 49). -/
def firstUp (s : State) (n port : Nat) : Prop := port < 16 ∧ (portOf s n port).up = true ∧ ∀ q < port, (portOf s n q).up = false

/-- The other channels of the port, and the other ports, are as they were (19 R377). -/
def onlyChannel (s t : State) (n port v : Nat) : Prop :=
  (∀ w, w ≠ v → channel t n port w = channel s n port w) ∧ ∀ q, q ≠ port → portOf t n q = portOf s n q

end Sys2Proof.Claims

/-- 19 R376 to R381: fabric ports. A data flit with the next number, for which there is room, is delivered once and acknowledged; a
passed one is discarded; any other is refused with a NACK that names the next number, and later ones are discarded until it comes. A flit
that fails its CRC or has a nonzero zero field is never delivered. An ACK frees the flits up to its number; on a NACK the flits from its
number on are sent again, in order, no sooner than 64 cycles later. A control flit trains a port that is down, with what the other end
supports left open (log entry 35), or posts event 0x8200; where the switches name a fabric manager, which is left open too, a package
joins the domain with a rank that none has, while it has fewer than 512 packages (00 R5). That a flit whose CRC fails is refused on the
channel that its header names, and that the payload of an answer is left open, are log entry 49, the model's choices. -/
def Sys2Proof.Claims.links : Prop :=
  ∀ (n port : Nat) (h : BitVec 64) (s : State), isUp s n → port < 16 →
    let v := flitVc h
    let c := channel s n port v
    let up := (portOf s n port).up = true
    (∀ payload crc room, up → flitKind h = 0 → payload.length = 240 → untested s n port 0 →
      let e : Instr := .flitReceive n port h payload crc room
      let clean := crc = crcOf h payload ∧ h.extractLsb' 0 18 = 0
      let refuses (t : State) : Prop := onlyChannel s t n port v ∧ channel t n port v = { c with refusing := true } ∧
        answersWith s t n port (flitAnswer h 2 c.expect)
      (clean → flitSeq h = c.expect → room = true → ∃ t, exec e s = .next t ∧ onlyChannel s t n port v ∧
        channel t n port v = { c with expect := (c.expect + 1) % 4096, refusing := false, delivered := c.delivered ++ [payload] } ∧
        answersWith s t n port (flitAnswer h 1 (flitSeq h))) ∧
      (clean → flitSeq h = c.expect → room = false → ∃ t, exec e s = .next t ∧ refuses t) ∧
      (clean → flitSeq h ≠ c.expect → (c.refusing = true ∨ (c.expect + 4096 - flitSeq h) % 4096 < 2048) →
        ∃ t, exec e s = .next t ∧ t.pkgs = s.pkgs) ∧
      (clean → flitSeq h ≠ c.expect → c.refusing = false → 2048 ≤ (c.expect + 4096 - flitSeq h) % 4096 →
        ∃ t, exec e s = .next t ∧ refuses t) ∧
      (¬ clean → ∃ t, exec e s = .next t ∧ refuses t)) ∧
    (up → flitKind h = 1 → ∃ t, exec (.ackReceive n port h) s = .next t ∧ onlyChannel s t n port v ∧
      (channel t n port v).replay = c.replay.filter (fun f => decide (2048 ≤ (flitAseq h + 4096 - flitSeq f.hdr) % 4096)) ∧
      (channel t n port v).delivered = c.delivered ∧ (channel t n port v).expect = c.expect ∧
      (channel t n port v).resend = c.resend.bind (fun r => if (flitAseq h + 4096 - r.1) % 4096 < 2048 then none else some r)) ∧
    (up → flitKind h = 2 → ∀ crc, ∃ t, exec (.nackReceive n port h crc) s = .next t ∧ onlyChannel s t n port v ∧
      (channel t n port v).resend = some (flitAseq h, (s.pkg n).cyc + 64) ∧ (channel t n port v).replay = c.replay) ∧
    (∀ w q due, up → (channel s n port w).resend = some (q, due) →
      ((s.pkg n).cyc < due → exec (.retransmit n port w) s = .next s) ∧
      (due ≤ (s.pkg n).cyc → ∃ t, exec (.retransmit n port w) s = .next t ∧ onlyChannel s t n port w ∧ (channel t n port w).resend = none ∧
        (channel t n port w).replay = (channel s n port w).replay ∧ (portOf t n port).sent = (portOf s n port).sent ++
          (channel s n port w).replay.filter (fun f => decide ((flitSeq f.hdr + 4096 - q) % 4096 < 2048)))) ∧
    (flitKind h = 3 →
      (up → ∃ t, exec (.linkControl n port h) s = .next t ∧ t.pkgs = s.pkgs) ∧
      (¬ up → ∃ t, exec (.linkControl n port h) s = .next t ∧ t.fresh = s.fresh + 2 ∧
        ((s.pkg n).inDomain = true → (t.pkg n).inDomain = true ∧ (t.pkg n).rank = (s.pkg n).rank) ∧
        ((s.pkg n).inDomain = false → (t.pkg n).inDomain = true →
          (t.pkg n).rank < 512 ∧ (t.pkg n).managed = true ∧ ((t.pkg n).vers.extractLsb' 16 8 = 1 ∨ (t.pkg n).vers.extractLsb' 16 8 = 2) ∧
          ∀ q ∈ s.pkgs, q.2.inDomain = true → q.2.rank ≠ (t.pkg n).rank) ∧
        ((t.pkg n).managed = false → (t.pkg n).vers.extractLsb' 24 8 = 0 ∧ (t.pkg n).inDomain = (s.pkg n).inDomain) ∧
        (∃ evs, (evs = [] ∨ evs = [(0x8200, 17)]) ∧
          (((portOf t n port).up = true ∧ 1 ≤ (portOf t n port).version ∧ (portOf t n port).version ≤ 3 ∧
              (t.pkg n).events = (s.pkg n).events ++ evs) ∨
            (portOf t n port = portOf s n port ∧ (t.pkg n).events = (s.pkg n).events ++ (0x8200, port) :: evs))))) ∧
    (¬ up → (∀ payload crc room, exec (.flitReceive n port h payload crc room) s = .next s) ∧
      exec (.ackReceive n port h) s = .next s ∧ ∀ crc, exec (.nackReceive n port h crc) s = .next s)

/-- 10 R244; 19 R376 to R378: messages between packages. One within a package, or between a package and nothing, arrives as it is. One with
a route arrives behind what was sent before it on that route; from port to port it is one data flit of its channel, with the next number and the
ranks of the two packages, which stays in the replay buffer, is delivered, and is acknowledged. With no port up, or 128 flits in the replay
buffer, it waits. That it leaves and arrives by the lowest ports that are up, in one flit whose payload is left open, is log entry 49, the
model's choice. -/
def Sys2Proof.Claims.fabricMessages : Prop :=
  ∀ (n : Nat) (m : Msg) (s : State), aget s.msgs n = some m →
    (m.route s = none → s.arrives n = some s) ∧
    (∀ r, m.route s = some r →
      (∀ x ∈ s.msgs, x.1 < n → x.2.route s = some r → x.2.sent s = true → s.arrives n = none) ∧
      (∀ o ∈ s.ops, o.1 < n → o.2.stage = .mesh → o.2.route = some r → s.inTurn o.1 o.2 = true → s.arrives n = none) ∧
      (r.src ≠ switches → (∀ port < 16, (portOf s r.src port).up = false) → s.arrives n = none) ∧
      (r.src ≠ switches → r.dst ≠ switches → r.src ≠ r.dst → r.vc < 4 → (s.pkg r.src).rank < 512 → (s.pkg r.dst).rank < 512 →
        s.behind [] n r = false → ∀ a b, firstUp s r.src a → firstUp s r.dst b →
        let out := channel s r.src a r.vc
        let inn := channel s r.dst b r.vc
        (128 ≤ out.replay.length → s.arrives n = none) ∧
        (out.replay.length < 128 → untested s r.src a 1 → ∃ t f, s.arrives n = some t ∧
          f.hdr = BitVec.ofNat 64 (out.next % 4096 * 2 ^ 52 + r.vc * 2 ^ 50 + (s.pkg r.dst).rank * 2 ^ 27 + (s.pkg r.src).rank * 2 ^ 18) ∧
          sound240 f ∧ (portOf t r.src a).sent = (portOf s r.src a).sent ++ [f] ∧
          channel t r.src a r.vc = { out with next := (out.next + 1) % 4096, replay := out.replay ++ [f] } ∧
          channel t r.dst b r.vc = { inn with
            expect := (inn.expect + 1) % 4096, refusing := false, delivered := inn.delivered ++ [f.payload] } ∧
          answersWith s t r.dst b (flitAnswer f.hdr 1 inn.expect) ∧ t.msgs = s.msgs ∧ t.ops = s.ops ∧ t.mem = s.mem ∧ t.strands = s.strands)))

/-- 19 R376 to R381: flits, training and the domain (`links`); 10 R244, 19 R376 to R378: the messages that flits carry between packages (`fabricMessages`). -/
def Obligations.Links : Prop := Claims.links ∧ Claims.fabricMessages

/-- 17 R356; 19 R381 to R386: the management registers, power, temperature, firmware and reset. CTXCTL takes KCNT, and DEST from the
physical function alone; CAPW is clamped to 300 to 1,600; the clock steps down by 100 MHz to no lower than 1.0 GHz; at 115 °C every line
of the package rises with the machine check and 1 ms later its dies lose power. An image is staged where it passes its checks, and a
response to an attestation request signs the digest of all its fields and carries the certificate chain; in recovery an image is still
staged. What power removal takes is the compute dies' power alone. A command in the CMD field of a written CTXCTL is carried out where it is
accepted, MOVE not through a virtual function. That TEMP and the clock are set by these events is log entry 50, and that a share's
throttle toggles the skipping of cycles log entry 51: the model's choices. -/
def Sys2Proof.Claims.management : Prop :=
  ∀ (n : Nat) (s : State), Inv s → isUp s n →
    let k := s.pkg n
    let on (f : Pkg → Pkg) : State := s.modPkg n f
    (∀ (c : CtxId) (vf : Bool) (val : BitVec 64), c.part.pkg = n → (aget s.parts c.part).isSome = true → c.n < 4 →
      let w : State := { s with ctxs := amodD s.ctxs c { st := 0 } (fun x =>
        { x with kcnt := (val.extractLsb' 40 24).toNat, dest := if vf then x.dest else (val.extractLsb' 32 8).toNat }) }
      let cmd := (val.extractLsb' 8 4).toNat
      let e : Instr := .registerWrite (.ctxctl c vf) val
      (cmd = 1 → exec e s = exec (.save c) w) ∧ (cmd = 2 → exec e s = exec (.resume c) w) ∧
      (cmd = 3 → vf = false → exec e s = exec (.move c (w.ctx c).dest) w) ∧ (cmd = 4 → exec e s = exec (.halt c) w) ∧
      (cmd = 5 → exec e s = exec (.release c) w) ∧ (cmd = 6 → exec e s = exec (.replay c) w) ∧ (cmd = 7 → exec e s = exec (.inval c) w) ∧
      (cmd = 0 ∨ 8 ≤ cmd ∨ (cmd = 3 ∧ vf = true) → exec e s = .next w)) ∧
    (∀ (p : PartId) (val : BitVec 64), p.pkg = n →
      Happens (.registerWrite (.pshare p) val) s (s.modPart p (fun q => { q with pshare := (val.extractLsb' 0 16).toNat }))) ∧
    (∀ (p : PartId) (m : Nat) (val : BitVec 64), p.pkg = n → Happens (.registerWrite (.counter p m) val) s s) ∧
    (∀ val : BitVec 64, Happens (.registerWrite (.vers n) val) s s ∧ Happens (.registerWrite (.energy n) val) s s ∧
      Happens (.registerWrite (.temp n) val) s s) ∧
    (∀ val : BitVec 64, ∃ t, exec (.pcapWrite n val) s = .next t ∧
      ((t.pkg n).pcap.extractLsb' 0 16).toNat = max 300 (min 1600 (val.extractLsb' 0 16).toNat) ∧
      (t.pkg n).pcap.extractLsb' 32 16 = k.pcap.extractLsb' 32 16 ∧ (t.pkg n).pcap.extractLsb' 16 16 = 0 ∧
      (t.pkg n).pcap.extractLsb' 48 16 = 0) ∧
    (1000 < k.mhz → Happens (.powerCapStep n) s (on (fun p => { p with mhz := max 1000 (k.mhz - 100) })) ∧
      Happens (.thermalThrottle n) s (on (fun p =>
        { p with temp := max k.temp (k.pcap.extractLsb' 32 16).toNat, mhz := max 1000 (k.mhz - 100) }))) ∧
    (k.mhz ≤ 1000 → exec (.powerCapStep n) s = .next s) ∧
    (∀ p, p.pkg = n → (s.part p).pshare ≠ 0 →
      Happens (.partitionShareThrottle p) s (s.modPart p (fun q => { q with skip := !q.skip }))) ∧
    (k.offAt = none → ∃ t, exec (.thermalShutdown n) s = .next t ∧ (t.pkg n).offAt = some (s.clk + 3000000) ∧ t.mem = s.mem ∧
      ∀ q ∈ s.parts, q.1.pkg = n → (s.part q.1).line = none → (t.part q.1).line = some 0x20) ∧
    (∀ time, k.offAt = some time →
      (time ≤ s.clk → k.powered = true → Happens (.powerRemoval n) s (on (fun p => { p with powered := false }))) ∧
      (s.clk < time ∨ k.powered = false → exec (.powerRemoval n) s = .next s)) ∧
    (∀ img : FwImage, let ok := img.keyDigest = Config.fusedKey ∧
        Config.verifies img.keyDigest img.imageDigest img.signature = true ∧ k.fw.rollback ≤ img.secVersion
      (ok → Happens (.firmwareUpdateStage n img) s (on (fun p => { p with fw := if img.kind = .solstice then { p.fw with staged := some img }
        else { p.fw with loaded := p.fw.loaded ++ [img] } }))) ∧
      (¬ ok → Happens (.firmwareUpdateStage n img) s s)) ∧
    (∀ (nonce : BitVec 256) (p : Option PartId), (∀ q, p = some q → q.pkg = n ∧ (aget s.parts q).isSome = true) →
      ∃ fields, Happens (.attestationRequest n p nonce) s (on (fun x => { x with
        attest := x.attest ++ [⟨nonce, fields, Config.signature (Config.shake256 (nonce.toNat :: fields)), Config.certChain⟩] })) ∧
        fields[0]? = some k.fw.image.imageDigest.toNat ∧ fields[1]? = some (Config.shake256 (configFields s n)).toNat ∧
        ∀ c x, (c, x) ∈ s.ctxs → c.part.pkg = n → (p = none ∨ p = some c.part) → x.st ≠ 0 → ∃ pre post, fields = pre ++
          [c.part.pid, c.n, x.gen, (ctxDetm s c x).toNat, (Config.shake256 [x.table.toNat]).toNat] ++ post)

/-- 16 R319; 19 R366, R380, R382, R386; 18 R367: a cold reset checks the image that it starts, the staged one in the place of the last. A
staged image that starts raises the rollback counter to its security version; a check that fails leaves the package in recovery at step 1.
No partition is left. Bring-up goes on to the step that fails, of those after the first, or to step 6. Units that fail their
self-test have lasting errors, in records with ACTION 4 and result 2 or 3, counted at step 6. Before step 3 no register is written. With the
physical function up, event 0x8300 gives the step that failed; at step 6 RDY is 1 and HCP the version agreed, 1 or 2. Which steps and units fail,
and what the ends support, is left open (log entries 35 and 50); that memory reads 0 is log entry 45, the model's choice. A package in
recovery still takes a staged image. -/
def Sys2Proof.Claims.coldResets : Prop :=
  ∀ (n : Nat) (k : Pkg) (s : State), Inv s → aget s.pkgs n = some k →
    let passes (i : FwImage) : Prop := i.keyDigest = Config.fusedKey ∧ Config.verifies i.keyDigest i.imageDigest i.signature = true ∧
      k.fw.rollback ≤ i.secVersion
    let i := k.fw.staged.getD k.fw.image
    let mine (a : Nat) : Prop :=
      (n * 2 ^ 45 ≤ a ∧ a < (n + 1) * 2 ^ 45) ∨ (2 ^ 60 + n * 192 * 2 ^ 23 ≤ a ∧ a < 2 ^ 60 + (n + 1) * 192 * 2 ^ 23)
    (k.fw.recovery = true → ∀ img : FwImage, passes img → img.kind = .solstice → Happens (.firmwareUpdateStage n img) s
      (s.modPkg n (fun p => { p with fw := { p.fw with staged := some img } }))) ∧
    ∃ t, exec (.coldReset n) s = .next t ∧ (∀ q ∈ t.parts, q.1.pkg ≠ n) ∧ (∀ y ∈ t.strands, y.2.part.pkg ≠ n) ∧
      (∀ a, mine a → memGet t.mem a = 0) ∧ (∀ a, ¬ mine a → memGet t.mem a = memGet s.mem a) ∧
      let x := t.pkg n
      (¬ passes i → x.fw = { k.fw with staged := none, recovery := true, loaded := [] } ∧ x.stepNo = 1 ∧ x.ports = [] ∧ x.log = {} ∧
        x.vers = 0 ∧ x.events = []) ∧
      (passes i → x.fw = { image := i, rollback := if k.fw.staged.isSome then max k.fw.rollback i.secVersion else k.fw.rollback } ∧
        (x.stepNo = 2 ∨ x.stepNo = 4 ∨ x.stepNo = 5 ∨ x.stepNo = 6) ∧
        (∀ r ∈ x.log.recs, r.action = 4 ∧ (r.result = 2 ∨ r.result = 3)) ∧
        (x.stepNo < 5 → (∀ q ∈ x.ports, q.2.up = false) ∧ x.inDomain = false ∧ ∀ e ∈ x.events, e = (0x8200, 16)) ∧
        (x.stepNo = 2 → x.vers = 0 ∧ x.feat = 0 ∧ x.events = []) ∧
        (x.stepNo = 4 → x.vers.extractLsb' 48 8 = 1 ∧ x.vers.extractLsb' 32 12 = 4 ∧ x.vers.extractLsb' 8 8 = 0) ∧
        (5 ≤ x.stepNo → (x.vers.extractLsb' 8 8 = 1 ∨ x.vers.extractLsb' 8 8 = 2) ∧
          ∀ q ∈ s.pkgs, q.1 ≠ n → q.2.inDomain = true → x.inDomain = true → q.2.rank ≠ x.rank) ∧
        (x.stepNo = 5 → (0x8300, 5) ∈ x.events ∧ x.vers.getLsbD 0 = false) ∧
        (x.stepNo = 6 → x.vers.getLsbD 0 = true ∧ (∀ e ∈ x.events, e.1 = 0x8200) ∧ x.ctrs.lst = x.log.recs.length + x.log.lost))

/-- 17 R356, 19 R381 to R386: registers, power, firmware and attestation (`management`); 16 R319, 18 R367, 19 R380, R382, R386: cold reset and bring-up (`coldResets`). -/
def Obligations.Management : Prop := Claims.management ∧ Claims.coldResets

namespace Sys2Proof.Claims

open Sys2Proof.Machine

/-- One detection by a unit: the counter of its action moves, for the package and the partitions concerned, the unit's own number for its
records goes on, and its record waits for the self-test of the unit, which runs (18 R362, R365, R367 to R370). -/
def detected (s t : State) (pkg : Nat) (u : RUnit) (parts : List PartId) (cls action addr cons : Nat) : Prop :=
  let ups (a b : Counters) : Prop := b = match action with
    | 1 => { a with ce := (a.ce + 1) % 2 ^ 64 }
    | 2 => { a with rt := (a.rt + 1) % 2 ^ 64 }
    | 3 => { a with ue := (a.ue + 1) % 2 ^ 64 }
    | _ => a
  let no := agetD (s.pkg pkg).sseq (s.place u) 0
  ups (s.pkg pkg).ctrs (t.pkg pkg).ctrs ∧ (∀ p ∈ parts, (aget s.parts p).isSome = true → ups (s.part p).ctrs (t.part p).ctrs) ∧
  agetD (t.pkg pkg).sseq (s.place u) 0 = (no + 1) % 2 ^ 32 ∧ (s.place u, s.clk) ∈ (t.pkg pkg).history ∧ t.mem = s.mem ∧
  ∃ n ts ds since r, (n, Msg.selfTest pkg u ts ds since) ∈ t.msgs ∧ (parts, r) ∈ ds ∧ r.cls = cls ∧ r.action = action ∧ r.addr = addr ∧
    r.cons = cons ∧ r.sseq = no ∧ r.unit = u.sel ∧ r.time = s.clk

end Sys2Proof.Claims

/-- 18 R361 to R370: a consumer reads a protected word. A unit out of use is a machine check (0x20), whatever the word holds; a word without an
error is read as it is; a single error is corrected, scrubbed and detected with ACTION 1; a double error is detected with ACTION 3, in the
log of the consumer's partition too, and stops the consumer (0x21), and a write of the whole word takes any error away. A read with no
consumer is detected with ACTION 4 where it meets a double error, which stays. -/
def Sys2Proof.Claims.detections : Prop :=
  ∀ (site : Site) (pkg cons : Nat) (u : RUnit) (part : Option PartId) (who : PartId) (s : State),
    siteUnit s site = some (pkg, u, part) → (aget s.pkgs pkg).isSome = true → (s.msgs.map (fun m => m.1)).Nodup →
    let read := s.consume site false cons who
    let gone (t : State) : Prop := ∀ l ∈ t.latent, l.site ≠ site
    let both := part.toList ++ (if part = some who then [] else [who])
    (s.place u ∈ (s.pkg pkg).outOfUse → read = (s, .stop 0x20)) ∧
    (s.place u ∉ (s.pkg pkg).outOfUse →
      ((∀ l ∈ s.latent, l.site ≠ site) → read = (s, .ok)) ∧
      (∀ l, s.errorAt site = some l →
        (l.double = false → read.2 = .ok ∧ gone read.1 ∧ detected s read.1 pkg u part.toList 1 1 site.addr 0) ∧
        (l.double = true → read.2 = .stop 0x21 ∧ read.1.latent = s.latent ∧ detected s read.1 pkg u both 2 3 site.addr cons) ∧
        (let whole := s.consume site true cons who
         whole.2 = .ok ∧ gone whole.1 ∧ whole.1.msgs = s.msgs))) ∧
    (∀ l, s.errorAt site = some l →
      (l.double = true → (s.glance site).latent = s.latent ∧ detected s (s.glance site) pkg u part.toList 2 4 site.addr 0) ∧
      (l.double = false → gone (s.glance site) ∧ detected s (s.glance site) pkg u part.toList 1 1 site.addr 0))

/-- 18 R365 to R370: the end of a self-test. A unit that fails the march, that mismatched twice, or that has reported four errors within 2^36
ticks is lasting: a spare takes its place, or with none left a unit of a tile goes out of use. The result is 0 for no error, 1 transient, 2
repaired, 3 not repaired; each detection's record enters the package log with it, and both counters move. Without a detection a sound unit
answers each STEST that waits for it with 0, counted for the partitions that asked. -/
def Sys2Proof.Claims.selfTests : Prop :=
  ∀ (m n : Nat) (u : RUnit) (txns : List (Nat × Opd)) (dets : List (List PartId × ErrRec)) (since : Nat) (passes : Bool) (k : Pkg) (s : State),
    s.stores = [] → aget s.msgs m = some (.selfTest n u txns dets since) → aget s.pkgs n = some k → m ≤ s.uid →
    let v := s.place u
    let often := 4 ≤ (k.history.filter (fun h => h.1 == v && decide (s.clk - h.2 ≤ 2 ^ 36))).length
    let lasting := passes = false ∨ (∃ d ∈ dets, d.2.result = 2) ∨ (dets ≠ [] ∧ often)
    let spare := spareLeft s n u = true
    let site := (u.sel.extractLsb' 28 4).toNat
    let result (code : Nat) : Prop := ∃ t, exec (.selfTestDone m passes) s = .next t ∧ aget t.msgs m = none ∧
      (t.pkg n).ctrs.st = k.ctrs.st + 1 ∧ (t.pkg n).ctrs.lst = k.ctrs.lst + (if code = 2 ∨ code = 3 then 1 else 0) ∧
      (k.log.recs.length + dets.length ≤ 1024 →
        (t.pkg n).log.recs = k.log.recs ++ dets.map (fun d => { d.2 with result := code })) ∧
      (code = 2 → s.latent = [] → ∀ h ∈ (t.pkg n).history, h.1 ≠ v) ∧
      (code = 3 → site ≤ 2 → v ∈ (t.pkg n).outOfUse) ∧
      (code = 2 → site ≠ 5 → agetD (t.pkg n).spares (sparePool v).1 0 = agetD k.spares (sparePool v).1 0 + 1) ∧
      (code ≤ 1 → (t.pkg n).outOfUse = k.outOfUse ∧ (t.pkg n).spares = k.spares ∧ t.strands.map (fun y => y.2.status) = s.strands.map (fun y => y.2.status))
    (¬ lasting → dets = [] → result 0) ∧ (¬ lasting → dets ≠ [] → result 1) ∧ (lasting → spare → result 2) ∧
    (lasting → ¬ spare → result 3) ∧
    let askers := (txns.filterMap (fun t => (aget s.txns t.1).bind (fun x => (s.strand x.strand).map (fun st => st.part)))).eraseDups
    (∀ p, let w := logstWord s p
      (w.extractLsb' 0 7).toNat = min (s.part p).log.recs.length 127 ∧ (w.extractLsb' 16 16).toNat = (s.part p).log.lost % 2 ^ 16) ∧
    (passes = true → dets = [] → u.part = none →
      Happens (.selfTestDone m true) s (txns.foldl (fun s t => unparkOwner t.1 s
          (landResult t.1 (resultWords t.2 false (((aget s.txns t.1).map (fun x => x.act)).getD []) 0) s))
        (askers.foldl (fun s q => s.modPart q (fun p => { p with ctrs := { p.ctrs with st := p.ctrs.st + 1 } }))
          ((s.dropMsg m).modPkg n (fun p => { p with ctrs := { p.ctrs with st := p.ctrs.st + 1 } })))))

/-- 18 R361 to R370: errors as consumers meet them (`detections`); 18 R365 to R370: the end of a self-test (`selfTests`). -/
def Obligations.SelfTests : Prop := Claims.detections ∧ Claims.selfTests

/-! ## Encoding, steps, reset, frames and invariants -/

namespace Sys2Proof.Claims

open Sys2Proof.Machine

/-- A slot from its three words, the low one first (04 R89). -/
def slotOfWords (w0 w1 w2 : BitVec 32) : Slot := w2 ++ w1 ++ w0

/-- No clause but AFTER (04 R98). -/
def bare (after : BitVec 4) : Hdr := { after := after, wait := 0, setf := none, neg := false, pred := 0 }

/-- The register instructions: groups 0x1 to 0x6, but for those whose registers are found by a value, MOVX and MOVXW. -/
def registerOnly : Instr → Bool
  | .iadd .. | .isub .. | .iaddc .. | .isubb .. | .imul .. | .imulh .. | .imad .. | .imadw .. | .imin .. | .imax .. | .iabs .. | .ineg ..
  | .lea .. | .iadd64 .. | .isad .. | .idot4 .. | .ireq .. | .mov .. | .movi .. => true
  | .and .. | .or .. | .xor .. | .not .. | .andn .. | .shl .. | .shr .. | .sar .. | .rol .. | .fshl .. | .bfe .. | .bfi .. | .popc .. | .clz ..
  | .ctz .. | .brev .. | .prmt .. | .lop3 .. => true
  | .icmp .. | .fcmp .. | .sel .. | .pset .. | .pmov .. | .vote .. | .shfl .. | .redux .. | .scan .. | .matchT .. => true
  | .fadd .. | .fsub .. | .fmul .. | .ffma .. | .fmin .. | .fmax .. | .fclass .. | .fscale .. | .frnd .. | .fdot2 .. => true
  | .frcp .. | .frsq .. | .fsqrt .. | .fexp2 .. | .flog2 .. | .fsinp .. | .fcosp .. | .cvt .. | .cvtef .. | .cvtsr .. => true
  | .blkh .. | .blkhw .. | .blkpack .. | .blkunp .. | .blkscl .. => true
  | _ => false

/-- LAUNCH and the events that may change a byte of memory. -/
def writesMemory : Instr → Bool
  | .launch .. | .homeApply .. | .hostMemAccess .. | .ringTransferDone .. | .collApply .. | .launchRecordTake .. | .modeSetApply ..
  | .sliceRetire .. | .resume .. | .registerWrite .. | .assignGranules .. | .coldReset .. => true
  | _ => false

/-- The location of a register key (02 R44): vector line, uniform register or predicate. -/
def locOfKey (key : Nat) : Nat := if key < 3072 then key / 16 else if key < 3200 then 192 + (key - 3072) else 239 + (key - 3200) / 16

end Sys2Proof.Claims

/-- 04 R90 to R95 with the worked encodings of 01, 02, 04, 05, 06, 07, 08, 09 and 18: words written out from the spec decode to the
instructions that they stand for, and an opcode that the table does not assign decodes to none. -/
def Obligations.DecodeSanity : Prop :=
  decode (slotOfWords 0x00000000 0x0100C17C 0x1114003C) = .ok (.imul (bare 5) (.v 4) (.v 3) (.v 5) .i32 false) ∧
  decode (slotOfWords 0x00000000 0x30BC0008 0x1480003C) = .ok (.movi (bare 0) (.u 2) 0x00200000 0) ∧
  decode (slotOfWords 0x00000000 0x3C3C3C3C 0x01C0003C) = .ok (.exit (bare 0)) ∧
  decode (slotOfWords 0x40000000 0x3FFFFFFD 0x0040003C) = .ok (.bra (bare 0) (BitVec.ofInt 30 (-3)) 2) ∧
  decode (slotOfWords 0x00000000 0x31317C3C 0xE100003C) = .ok (.errlog (bare 0) (.u 4) (.u 5) false) ∧
  decode (slotOfWords 0x00000000 0x3C3C3C3C 0x0240003C) = .ok (.idem (bare 0)) ∧
  (∀ w : Slot, Decode.formatOf (Decode.opcode w) = none → ∃ e, decode w = .error e)

/-- 04 R90 to R96: encoding and decoding agree. What encode makes of a well-formed instruction decodes to it, with every operand at every
value that its encoding admits; and every well-formed
instruction with a header has a word. -/
def Obligations.DecodeEncodeAgree : Prop :=
  (∀ (i : Instr) (w : Slot), i.wf = true → encode i = some w → decode w = .ok i) ∧
  (∀ (i : Instr) (h : Hdr), Instr.hdr? i = some h → i.wf = true → ∃ w, encode i = some w)

/-- 04 R90 to R96: a slot that decodes to an instruction is the one that encode makes of it, and the instruction is well formed. -/
def Obligations.DecodedSlotsAreEncoded : Prop :=
  ∀ (w : Slot) (i : Instr), decode w = .ok i → i.wf = true ∧ encode i = some w

/-- 01 R17, R26, R27; 04 R81, R82, R85, R96; 17 R346: a step. Where the lane's turn comes and its one strand stands at a slot whose bytes
decode to an instruction, the step carries out that instruction for the strand; bytes that decode to none are the illegal-instruction
fault (code 1), or the privilege fault (code 2) for an opcode of group 0xE outside the handler, as soon as the strand is ready for it. Of
several ready strands, the one that issued longest ago goes first, the lower slot among equals. An event whose turn it is, and that can
happen, happens; a drain is no such event, for its turn is that of its lane. -/
def Obligations.StepRunsDecoded : Prop :=
  ∀ (s : State) (l : LaneId) (r : List Turn),
    let s' : State := { s with agenda := r }
    (∀ (k : Nat) (st : Strand) (pc : Pc) (f : FetchLine), s.agenda = .lane l :: r →
      s.strands.filter (fun x => decide (x.2.laneId = l ∧ x.2.status = .resident)) = [(k, st)] → s.strand k = some st → st.ents = [] →
      st.issueAddr = some pc → s.fetched st pc = some f → f.bad = false → slotPc pc < 5 → pc.toNat / 8 % 8 = 0 →
      (st.begun = true ∨ st.framed = true ∨ f.marks pc = true) →
      let w := slotOf f.data (slotPc pc)
      let exm := st.executing pc
      (∀ i, decode w = .ok i → step s = exec i { s' with cur := k }) ∧
      (∀ e, decode w = .error e → rawReady s st (rawHdr w) pc (s.cycle st.part) = true →
        let cause := if privilegedOpcode w = true ∧ st.priv = false then 2 else 1
        let act := exm.filter (fun t => s.predBit st (w.extractLsb' 62 3).toNat t (s.cycle st.part) != w.getLsbD 65)
        step s = .next (commit s.mem (s'.preciseFault k { cause := cause, lowt := exm.headD 0 } pc exm act)))) ∧
    (∀ pre post x, s.agenda = .lane l :: r → (lanePicks s' l).filter (fun x => x.2.2) = pre ++ x :: post →
      (∀ y ∈ pre ++ post, x.1.lastS < y.1.lastS ∨ (x.1.lastS = y.1.lastS ∧ x.1.slot < y.1.slot)) → lanePick s' l = some x.2.1) ∧
    (∀ (i : Instr) (f : State → Option State) (t : State), s.agenda = .event i :: r → (∀ k, i ≠ .residualDrain k) → evOf i = some f →
      f s' = some t →
      step s = exec i s')

/-- 07 R187; 16 R319; 19 R379, R381, R382, R384, R386: after a cold reset the package is at step 6, outside any domain, with rank 0 and VERS as
Solstice writes it, PCAP at 1,600 W and TLIM 100; no partition, context, launch or strand exists, and nothing is in flight. HCP 2, the clock
at 3,000 MHz and memory that reads 0 are the model's choices (log entries 1 and 10). -/
def Obligations.ResetState : Prop :=
  let s := State.reset
  Inv s ∧ numbered s ∧ s.parts = [] ∧ s.ctxs = [] ∧ s.launches = [] ∧ s.strands = [] ∧ s.ops = [] ∧ s.msgs = [] ∧ (∀ a, memGet s.mem a = 0) ∧
  (∀ n, aget s.pkgs n = if n = 0 then some Pkg.reset else none) ∧
  Pkg.reset.stepNo = 6 ∧ Pkg.reset.rank = 0 ∧ Pkg.reset.managed = false ∧ Pkg.reset.hostLanes = 16 ∧ Pkg.reset.inDomain = false ∧ Pkg.reset.ports = [] ∧ Pkg.reset.mhz = 3000 ∧
  Pkg.reset.vers.getLsbD 0 = true ∧ Pkg.reset.vers.extractLsb' 48 8 = 1 ∧ Pkg.reset.vers.extractLsb' 44 4 = 0 ∧
  Pkg.reset.vers.extractLsb' 32 12 = 4 ∧ Pkg.reset.vers.extractLsb' 24 8 = 0 ∧ Pkg.reset.vers.extractLsb' 16 8 = 0 ∧
  Pkg.reset.vers.extractLsb' 8 8 = 2 ∧ Pkg.reset.feat = 1 ∧ Pkg.reset.pcap.extractLsb' 0 16 = 1600 ∧ Pkg.reset.pcap.extractLsb' 32 16 = 100

/-- 10 R240: every step ends in a next state, and keeps what every state between two steps meets: memory has its canonical form, and
nothing that a step wrote waits to be committed. -/
def Obligations.StepKeepsInv : Prop := ∀ s : State, Inv s → ∃ t, step s = .next t ∧ Inv t

/-- 01 R12, R33; 16 R324: every step keeps the numbers of the strands distinct and below the next one to be given. -/
def Obligations.StrandNumbers : Prop := ∀ s t : State, numbered s → step s = .next t → numbered t

/-- 10 R240, R241, and 08 R192: only LAUNCH and the events named in `writesMemory` change a byte of memory: a store changes none before its
home applies it, and no fault, capture or drain does. -/
def Obligations.MemoryWriters : Prop :=
  ∀ (i : Instr) (s t : State), s.stores = [] → writesMemory i = false → exec i s = .next t → ∀ a, memGet t.mem a = memGet s.mem a

/-- 01 R14, R20, R22, R25; 05 R109; 06 R135: the frame of the register instructions (`registerOnly`), whether they complete or fault.
Every byte of memory, operation, launch, home and other strand is as before; so are the strand's registers and predicates but for those of
its destinations, its flags but for SETF's, its mode word, handler registers, bands, watch slots, shared ranges, bindings and entries, the
threads that do not execute, and, where it pops nothing, every message; of what the context has on its tiles only hardware queues change. -/
def Obligations.RegisterFrame : Prop :=
  ∀ (i : Instr) (s s1 t : State) (y : Iss), registerOnly i = true → Inv s → Performs i s y s1 → exec i s = .next t →
    (∀ a, memGet t.mem a = memGet s.mem a) ∧ t.ops = s.ops ∧ t.homes = s.homes ∧ t.launches = s.launches ∧ t.graphs = s.graphs ∧
    t.domCtrs = s.domCtrs ∧ t.pkgs = s.pkgs ∧ t.clk = s.clk ∧ t.tiles = s.tiles ∧
    (y.sh.isLong = false → t.msgs = s.msgs ∧ t.txns = s.txns) ∧
    (∀ k, k ≠ y.k → t.strand k = s.strand k) ∧
    (∀ tc, (t.tc tc).bufs = (s.tc tc).bufs ∧ (t.tc tc).slots = (s.tc tc).slots ∧ (t.tc tc).accs = (s.tc tc).accs ∧
      (t.tc tc).tq = (s.tc tc).tq ∧ (t.tc tc).engines = (s.tc tc).engines) ∧
    ∃ st', t.strand y.k = some st' ∧
      (∀ key x, locOfKey key ∉ y.sh.dstLocs y.st → regRead st'.regs key x = regRead y.st.regs key x) ∧
      (∀ j < 12, y.h.setf.map (fun f => f.val) ≠ some j → st'.flags.getD j 0 = y.st.flags.getD j 0) ∧
      (∀ th < 16, th ∉ y.exm → st'.thread th = y.st.thread th) ∧
      st'.modew = y.st.modew ∧ st'.tvec = y.st.tvec ∧ st'.tcause = y.st.tcause ∧ st'.tmask = y.st.tmask ∧ st'.priv = y.st.priv ∧
      st'.hold = y.st.hold ∧ st'.bands = y.st.bands ∧ st'.watch = y.st.watch ∧ st'.shr = y.st.shr ∧ st'.qpb = y.st.qpb ∧
      st'.ents = y.st.ents ∧ st'.win = y.st.win ∧ st'.seq = y.st.seq

/-- 01 R20, R22, R24 to R26, R32, R41; 08 R203; 10 R250; 13 R291: outside deferring mode a strand is ready for the instruction at its issue address in the cycle in which its
time has come, the datapath is free, every flag that it waits for is zero, its flag and pending counts have room, its register lines are
held, for a precise or a state instruction no entry is in its way, and for one that carries a memory operation no fence, acquire or BARW;
and it performs it, where it has an active thread and names no
queue port. Until its flags are zero, or with a line missing, nothing happens; a BPEND whose predicate is unsettled parks its strand, in
and outside deferring mode (02 R52). k0 reads true, the zero operand reads 0, and a register write is read from the cycle that it is visible
in on where no write made later is visible too, every other register reading as before. That of two writes made in one cycle the one
recorded later stands is log entry 11, the model's choice. -/
def Obligations.Readiness : Prop :=
  (∀ (i : Instr) (s : State) (x : Iss), issueOf i s = some x → mayIssue s x.st x.h x.pc x.t0 = true → r96 s i x.sh x.st = none →
    x.st.modew.getLsbD 15 = false → (s.lane x.st.laneId).busy ≤ x.t0 →
    let waited := ∀ j < 12, x.h.wait.getLsbD j = true → x.st.flagCount j x.t0 = 0
    let lines := linesHeld s x.k x.st x.sh.namedLocs = true
    let counts := (∀ j, x.h.setf = some j → x.st.flagCount j.val x.t0 < 63) ∧
      (x.sh.isLong = true → ∀ l ∈ x.sh.dstLocs x.st, agetD x.st.pend l 0 < 255)
    let clear := (x.sh.cls = .precise → x.st.ents = []) ∧ (x.sh.cls = .stateOrdered → ∀ e ∈ x.st.ents, e.ord = false)
    let blocked := Instr.memory i = true ∧ (x.st.fences ≠ [] ∨
      (∃ th ∈ x.st.threads, th.st = .parked ∧ th.park = .barw ∧ th.ptxn ≠ 0) ∨ ∃ o ∈ s.ops, o.2.strand = x.k ∧ o.2.acq = true ∧ o.2.ret = true)
    let unsettled := x.sh.cls = .tagTest ∧ x.h.pred ≠ 0 ∧ x.st.tagged (predLoc x.h.pred.toNat) x.t0 = true
    (unsettled → exec i s = .next (commit s.mem (s.modStrand x.k (parkAll .branch [predLoc x.h.pred.toNat])))) ∧
    (¬ unsettled → (x.sh.cls = .tagTest → ∀ j < 12, x.st.residual (flagLoc j) x.t0 = false) →
    (waited → lines → counts → clear → ¬ blocked → sound s →
      Ready i s x ∧ (x.act ≠ [] → x.sh.popPorts = [] → x.sh.pushPort = none → Performs i s x (advance x s)) ∧
      (x.act = [] → ∃ t st', exec i s = .next t ∧ t.strand x.k = some st' ∧ st'.regs = x.st.regs ∧ (s.stores = [] → t.mem = s.mem) ∧
        t.ops = s.ops ∧ t.msgs = s.msgs ∧ ∀ th ∈ x.exm, th < 16 → (st'.thread th).pc = nextPc x.pc)) ∧
    (¬ waited ∨ ¬ lines ∨ ¬ counts ∨ ¬ clear ∨ blocked → exec i s = .next s))) ∧
  (∀ (s : State) (st : Strand) (x : Iss) (u : Use) (n t c : Nat), s.predBit st 0 t c = true ∧ (u.o = .zero → readWord s x u n t c = 0)) ∧
  (∀ (s : State) (k key val vis made c : Nat) (st : Strand), s.strand k = some st → st.shr = [] →
    let t := s.putReg k ⟨vis, key, BitVec.ofNat 32 val, made⟩
    ∃ st', t.strand k = some st' ∧ (c < vis → t.reg st' key c = s.reg st key c) ∧
      (vis ≤ c → (∀ w ∈ st.regs, w.key = key → w.vis ≤ c → w.made ≤ made) → t.reg st' key c = BitVec.ofNat 32 val) ∧
      ∀ key', key' ≠ key → t.reg st' key' c = s.reg st key' c)
end

