-- ==== Sys2Proof/Laws/State.lean ====
section
/-! SUPPORT. What each update of Machine/Ops.lean leaves in every field of the state. -/

namespace Sys2Proof.Machine

/-! ## State.modPart -/

@[simp] theorem State.modPart_clk (s : State) (p : PartId) (f : Part → Part) : (s.modPart p f).clk = s.clk := rfl
@[simp] theorem State.modPart_agenda (s : State) (p : PartId) (f : Part → Part) : (s.modPart p f).agenda = s.agenda := rfl
@[simp] theorem State.modPart_cur (s : State) (p : PartId) (f : Part → Part) : (s.modPart p f).cur = s.cur := rfl
@[simp] theorem State.modPart_fresh (s : State) (p : PartId) (f : Part → Part) : (s.modPart p f).fresh = s.fresh := rfl
@[simp] theorem State.modPart_uid (s : State) (p : PartId) (f : Part → Part) : (s.modPart p f).uid = s.uid := rfl
@[simp] theorem State.modPart_mem (s : State) (p : PartId) (f : Part → Part) : (s.modPart p f).mem = s.mem := rfl
@[simp] theorem State.modPart_stores (s : State) (p : PartId) (f : Part → Part) : (s.modPart p f).stores = s.stores := rfl
@[simp] theorem State.modPart_strands (s : State) (p : PartId) (f : Part → Part) : (s.modPart p f).strands = s.strands := rfl
@[simp] theorem State.modPart_lanes (s : State) (p : PartId) (f : Part → Part) : (s.modPart p f).lanes = s.lanes := rfl
@[simp] theorem State.modPart_tiles (s : State) (p : PartId) (f : Part → Part) : (s.modPart p f).tiles = s.tiles := rfl
@[simp] theorem State.modPart_walks (s : State) (p : PartId) (f : Part → Part) : (s.modPart p f).walks = s.walks := rfl
@[simp] theorem State.modPart_tctx (s : State) (p : PartId) (f : Part → Part) : (s.modPart p f).tctx = s.tctx := rfl
@[simp] theorem State.modPart_homes (s : State) (p : PartId) (f : Part → Part) : (s.modPart p f).homes = s.homes := rfl
@[simp] theorem State.modPart_ops (s : State) (p : PartId) (f : Part → Part) : (s.modPart p f).ops = s.ops := rfl
@[simp] theorem State.modPart_syncs (s : State) (p : PartId) (f : Part → Part) : (s.modPart p f).syncs = s.syncs := rfl
@[simp] theorem State.modPart_txns (s : State) (p : PartId) (f : Part → Part) : (s.modPart p f).txns = s.txns := rfl
@[simp] theorem State.modPart_msgs (s : State) (p : PartId) (f : Part → Part) : (s.modPart p f).msgs = s.msgs := rfl
@[simp] theorem State.modPart_launches (s : State) (p : PartId) (f : Part → Part) : (s.modPart p f).launches = s.launches := rfl
@[simp] theorem State.modPart_graphs (s : State) (p : PartId) (f : Part → Part) : (s.modPart p f).graphs = s.graphs := rfl
@[simp] theorem State.modPart_ctxs (s : State) (p : PartId) (f : Part → Part) : (s.modPart p f).ctxs = s.ctxs := rfl
@[simp] theorem State.modPart_parts (s : State) (p : PartId) (f : Part → Part) : (s.modPart p f).parts = amod s.parts p f := rfl
@[simp] theorem State.modPart_pkgs (s : State) (p : PartId) (f : Part → Part) : (s.modPart p f).pkgs = s.pkgs := rfl
@[simp] theorem State.modPart_domCtrs (s : State) (p : PartId) (f : Part → Part) : (s.modPart p f).domCtrs = s.domCtrs := rfl
@[simp] theorem State.modPart_groups (s : State) (p : PartId) (f : Part → Part) : (s.modPart p f).groups = s.groups := rfl
@[simp] theorem State.modPart_latent (s : State) (p : PartId) (f : Part → Part) : (s.modPart p f).latent = s.latent := rfl
@[simp] theorem State.modPart_residues (s : State) (p : PartId) (f : Part → Part) : (s.modPart p f).residues = s.residues := rfl
@[simp] theorem State.modPart_hostHeld (s : State) (p : PartId) (f : Part → Part) : (s.modPart p f).hostHeld = s.hostHeld := rfl

/-! ## State.post -/

@[simp] theorem State.post_clk (s : State) (p : PartId) (code data : Nat) : (s.post p code data).clk = s.clk := rfl
@[simp] theorem State.post_agenda (s : State) (p : PartId) (code data : Nat) : (s.post p code data).agenda = s.agenda := rfl
@[simp] theorem State.post_cur (s : State) (p : PartId) (code data : Nat) : (s.post p code data).cur = s.cur := rfl
@[simp] theorem State.post_fresh (s : State) (p : PartId) (code data : Nat) : (s.post p code data).fresh = s.fresh := rfl
@[simp] theorem State.post_uid (s : State) (p : PartId) (code data : Nat) : (s.post p code data).uid = s.uid := rfl
@[simp] theorem State.post_mem (s : State) (p : PartId) (code data : Nat) : (s.post p code data).mem = s.mem := rfl
@[simp] theorem State.post_stores (s : State) (p : PartId) (code data : Nat) : (s.post p code data).stores = s.stores := rfl
@[simp] theorem State.post_strands (s : State) (p : PartId) (code data : Nat) : (s.post p code data).strands = s.strands := rfl
@[simp] theorem State.post_lanes (s : State) (p : PartId) (code data : Nat) : (s.post p code data).lanes = s.lanes := rfl
@[simp] theorem State.post_tiles (s : State) (p : PartId) (code data : Nat) : (s.post p code data).tiles = s.tiles := rfl
@[simp] theorem State.post_walks (s : State) (p : PartId) (code data : Nat) : (s.post p code data).walks = s.walks := rfl
@[simp] theorem State.post_tctx (s : State) (p : PartId) (code data : Nat) : (s.post p code data).tctx = s.tctx := rfl
@[simp] theorem State.post_homes (s : State) (p : PartId) (code data : Nat) : (s.post p code data).homes = s.homes := rfl
@[simp] theorem State.post_ops (s : State) (p : PartId) (code data : Nat) : (s.post p code data).ops = s.ops := rfl
@[simp] theorem State.post_syncs (s : State) (p : PartId) (code data : Nat) : (s.post p code data).syncs = s.syncs := rfl
@[simp] theorem State.post_txns (s : State) (p : PartId) (code data : Nat) : (s.post p code data).txns = s.txns := rfl
@[simp] theorem State.post_msgs (s : State) (p : PartId) (code data : Nat) : (s.post p code data).msgs = s.msgs := rfl
@[simp] theorem State.post_launches (s : State) (p : PartId) (code data : Nat) : (s.post p code data).launches = s.launches := rfl
@[simp] theorem State.post_graphs (s : State) (p : PartId) (code data : Nat) : (s.post p code data).graphs = s.graphs := rfl
@[simp] theorem State.post_ctxs (s : State) (p : PartId) (code data : Nat) : (s.post p code data).ctxs = s.ctxs := rfl
@[simp] theorem State.post_pkgs (s : State) (p : PartId) (code data : Nat) : (s.post p code data).pkgs = s.pkgs := rfl
@[simp] theorem State.post_domCtrs (s : State) (p : PartId) (code data : Nat) : (s.post p code data).domCtrs = s.domCtrs := rfl
@[simp] theorem State.post_groups (s : State) (p : PartId) (code data : Nat) : (s.post p code data).groups = s.groups := rfl
@[simp] theorem State.post_latent (s : State) (p : PartId) (code data : Nat) : (s.post p code data).latent = s.latent := rfl
@[simp] theorem State.post_residues (s : State) (p : PartId) (code data : Nat) : (s.post p code data).residues = s.residues := rfl
@[simp] theorem State.post_hostHeld (s : State) (p : PartId) (code data : Nat) : (s.post p code data).hostHeld = s.hostHeld := rfl

/-! ## State.modCtx -/

@[simp] theorem State.modCtx_clk (s : State) (c : CtxId) (f : Ctx → Ctx) : (s.modCtx c f).clk = s.clk := rfl
@[simp] theorem State.modCtx_agenda (s : State) (c : CtxId) (f : Ctx → Ctx) : (s.modCtx c f).agenda = s.agenda := rfl
@[simp] theorem State.modCtx_cur (s : State) (c : CtxId) (f : Ctx → Ctx) : (s.modCtx c f).cur = s.cur := rfl
@[simp] theorem State.modCtx_fresh (s : State) (c : CtxId) (f : Ctx → Ctx) : (s.modCtx c f).fresh = s.fresh := rfl
@[simp] theorem State.modCtx_uid (s : State) (c : CtxId) (f : Ctx → Ctx) : (s.modCtx c f).uid = s.uid := rfl
@[simp] theorem State.modCtx_mem (s : State) (c : CtxId) (f : Ctx → Ctx) : (s.modCtx c f).mem = s.mem := rfl
@[simp] theorem State.modCtx_stores (s : State) (c : CtxId) (f : Ctx → Ctx) : (s.modCtx c f).stores = s.stores := rfl
@[simp] theorem State.modCtx_strands (s : State) (c : CtxId) (f : Ctx → Ctx) : (s.modCtx c f).strands = s.strands := rfl
@[simp] theorem State.modCtx_lanes (s : State) (c : CtxId) (f : Ctx → Ctx) : (s.modCtx c f).lanes = s.lanes := rfl
@[simp] theorem State.modCtx_tiles (s : State) (c : CtxId) (f : Ctx → Ctx) : (s.modCtx c f).tiles = s.tiles := rfl
@[simp] theorem State.modCtx_walks (s : State) (c : CtxId) (f : Ctx → Ctx) : (s.modCtx c f).walks = s.walks := rfl
@[simp] theorem State.modCtx_tctx (s : State) (c : CtxId) (f : Ctx → Ctx) : (s.modCtx c f).tctx = s.tctx := rfl
@[simp] theorem State.modCtx_homes (s : State) (c : CtxId) (f : Ctx → Ctx) : (s.modCtx c f).homes = s.homes := rfl
@[simp] theorem State.modCtx_ops (s : State) (c : CtxId) (f : Ctx → Ctx) : (s.modCtx c f).ops = s.ops := rfl
@[simp] theorem State.modCtx_syncs (s : State) (c : CtxId) (f : Ctx → Ctx) : (s.modCtx c f).syncs = s.syncs := rfl
@[simp] theorem State.modCtx_txns (s : State) (c : CtxId) (f : Ctx → Ctx) : (s.modCtx c f).txns = s.txns := rfl
@[simp] theorem State.modCtx_msgs (s : State) (c : CtxId) (f : Ctx → Ctx) : (s.modCtx c f).msgs = s.msgs := rfl
@[simp] theorem State.modCtx_launches (s : State) (c : CtxId) (f : Ctx → Ctx) : (s.modCtx c f).launches = s.launches := rfl
@[simp] theorem State.modCtx_graphs (s : State) (c : CtxId) (f : Ctx → Ctx) : (s.modCtx c f).graphs = s.graphs := rfl
@[simp] theorem State.modCtx_ctxs (s : State) (c : CtxId) (f : Ctx → Ctx) : (s.modCtx c f).ctxs = amod s.ctxs c f := rfl
@[simp] theorem State.modCtx_parts (s : State) (c : CtxId) (f : Ctx → Ctx) : (s.modCtx c f).parts = s.parts := rfl
@[simp] theorem State.modCtx_pkgs (s : State) (c : CtxId) (f : Ctx → Ctx) : (s.modCtx c f).pkgs = s.pkgs := rfl
@[simp] theorem State.modCtx_domCtrs (s : State) (c : CtxId) (f : Ctx → Ctx) : (s.modCtx c f).domCtrs = s.domCtrs := rfl
@[simp] theorem State.modCtx_groups (s : State) (c : CtxId) (f : Ctx → Ctx) : (s.modCtx c f).groups = s.groups := rfl
@[simp] theorem State.modCtx_latent (s : State) (c : CtxId) (f : Ctx → Ctx) : (s.modCtx c f).latent = s.latent := rfl
@[simp] theorem State.modCtx_residues (s : State) (c : CtxId) (f : Ctx → Ctx) : (s.modCtx c f).residues = s.residues := rfl
@[simp] theorem State.modCtx_hostHeld (s : State) (c : CtxId) (f : Ctx → Ctx) : (s.modCtx c f).hostHeld = s.hostHeld := rfl

/-! ## State.modPkg -/

@[simp] theorem State.modPkg_clk (s : State) (n : Nat) (f : Pkg → Pkg) : (s.modPkg n f).clk = s.clk := rfl
@[simp] theorem State.modPkg_agenda (s : State) (n : Nat) (f : Pkg → Pkg) : (s.modPkg n f).agenda = s.agenda := rfl
@[simp] theorem State.modPkg_cur (s : State) (n : Nat) (f : Pkg → Pkg) : (s.modPkg n f).cur = s.cur := rfl
@[simp] theorem State.modPkg_fresh (s : State) (n : Nat) (f : Pkg → Pkg) : (s.modPkg n f).fresh = s.fresh := rfl
@[simp] theorem State.modPkg_uid (s : State) (n : Nat) (f : Pkg → Pkg) : (s.modPkg n f).uid = s.uid := rfl
@[simp] theorem State.modPkg_mem (s : State) (n : Nat) (f : Pkg → Pkg) : (s.modPkg n f).mem = s.mem := rfl
@[simp] theorem State.modPkg_stores (s : State) (n : Nat) (f : Pkg → Pkg) : (s.modPkg n f).stores = s.stores := rfl
@[simp] theorem State.modPkg_strands (s : State) (n : Nat) (f : Pkg → Pkg) : (s.modPkg n f).strands = s.strands := rfl
@[simp] theorem State.modPkg_lanes (s : State) (n : Nat) (f : Pkg → Pkg) : (s.modPkg n f).lanes = s.lanes := rfl
@[simp] theorem State.modPkg_tiles (s : State) (n : Nat) (f : Pkg → Pkg) : (s.modPkg n f).tiles = s.tiles := rfl
@[simp] theorem State.modPkg_walks (s : State) (n : Nat) (f : Pkg → Pkg) : (s.modPkg n f).walks = s.walks := rfl
@[simp] theorem State.modPkg_tctx (s : State) (n : Nat) (f : Pkg → Pkg) : (s.modPkg n f).tctx = s.tctx := rfl
@[simp] theorem State.modPkg_homes (s : State) (n : Nat) (f : Pkg → Pkg) : (s.modPkg n f).homes = s.homes := rfl
@[simp] theorem State.modPkg_ops (s : State) (n : Nat) (f : Pkg → Pkg) : (s.modPkg n f).ops = s.ops := rfl
@[simp] theorem State.modPkg_syncs (s : State) (n : Nat) (f : Pkg → Pkg) : (s.modPkg n f).syncs = s.syncs := rfl
@[simp] theorem State.modPkg_txns (s : State) (n : Nat) (f : Pkg → Pkg) : (s.modPkg n f).txns = s.txns := rfl
@[simp] theorem State.modPkg_msgs (s : State) (n : Nat) (f : Pkg → Pkg) : (s.modPkg n f).msgs = s.msgs := rfl
@[simp] theorem State.modPkg_launches (s : State) (n : Nat) (f : Pkg → Pkg) : (s.modPkg n f).launches = s.launches := rfl
@[simp] theorem State.modPkg_graphs (s : State) (n : Nat) (f : Pkg → Pkg) : (s.modPkg n f).graphs = s.graphs := rfl
@[simp] theorem State.modPkg_ctxs (s : State) (n : Nat) (f : Pkg → Pkg) : (s.modPkg n f).ctxs = s.ctxs := rfl
@[simp] theorem State.modPkg_parts (s : State) (n : Nat) (f : Pkg → Pkg) : (s.modPkg n f).parts = s.parts := rfl
@[simp] theorem State.modPkg_pkgs (s : State) (n : Nat) (f : Pkg → Pkg) : (s.modPkg n f).pkgs = amod s.pkgs n f := rfl
@[simp] theorem State.modPkg_domCtrs (s : State) (n : Nat) (f : Pkg → Pkg) : (s.modPkg n f).domCtrs = s.domCtrs := rfl
@[simp] theorem State.modPkg_groups (s : State) (n : Nat) (f : Pkg → Pkg) : (s.modPkg n f).groups = s.groups := rfl
@[simp] theorem State.modPkg_latent (s : State) (n : Nat) (f : Pkg → Pkg) : (s.modPkg n f).latent = s.latent := rfl
@[simp] theorem State.modPkg_residues (s : State) (n : Nat) (f : Pkg → Pkg) : (s.modPkg n f).residues = s.residues := rfl
@[simp] theorem State.modPkg_hostHeld (s : State) (n : Nat) (f : Pkg → Pkg) : (s.modPkg n f).hostHeld = s.hostHeld := rfl

/-! ## State.modStrand -/

@[simp] theorem State.modStrand_clk (s : State) (k : Nat) (f : Strand → Strand) : (s.modStrand k f).clk = s.clk := rfl
@[simp] theorem State.modStrand_agenda (s : State) (k : Nat) (f : Strand → Strand) : (s.modStrand k f).agenda = s.agenda := rfl
@[simp] theorem State.modStrand_cur (s : State) (k : Nat) (f : Strand → Strand) : (s.modStrand k f).cur = s.cur := rfl
@[simp] theorem State.modStrand_fresh (s : State) (k : Nat) (f : Strand → Strand) : (s.modStrand k f).fresh = s.fresh := rfl
@[simp] theorem State.modStrand_uid (s : State) (k : Nat) (f : Strand → Strand) : (s.modStrand k f).uid = s.uid := rfl
@[simp] theorem State.modStrand_mem (s : State) (k : Nat) (f : Strand → Strand) : (s.modStrand k f).mem = s.mem := rfl
@[simp] theorem State.modStrand_stores (s : State) (k : Nat) (f : Strand → Strand) : (s.modStrand k f).stores = s.stores := rfl
@[simp] theorem State.modStrand_strands (s : State) (k : Nat) (f : Strand → Strand) : (s.modStrand k f).strands = amod s.strands k f := rfl
@[simp] theorem State.modStrand_lanes (s : State) (k : Nat) (f : Strand → Strand) : (s.modStrand k f).lanes = s.lanes := rfl
@[simp] theorem State.modStrand_tiles (s : State) (k : Nat) (f : Strand → Strand) : (s.modStrand k f).tiles = s.tiles := rfl
@[simp] theorem State.modStrand_walks (s : State) (k : Nat) (f : Strand → Strand) : (s.modStrand k f).walks = s.walks := rfl
@[simp] theorem State.modStrand_tctx (s : State) (k : Nat) (f : Strand → Strand) : (s.modStrand k f).tctx = s.tctx := rfl
@[simp] theorem State.modStrand_homes (s : State) (k : Nat) (f : Strand → Strand) : (s.modStrand k f).homes = s.homes := rfl
@[simp] theorem State.modStrand_ops (s : State) (k : Nat) (f : Strand → Strand) : (s.modStrand k f).ops = s.ops := rfl
@[simp] theorem State.modStrand_syncs (s : State) (k : Nat) (f : Strand → Strand) : (s.modStrand k f).syncs = s.syncs := rfl
@[simp] theorem State.modStrand_txns (s : State) (k : Nat) (f : Strand → Strand) : (s.modStrand k f).txns = s.txns := rfl
@[simp] theorem State.modStrand_msgs (s : State) (k : Nat) (f : Strand → Strand) : (s.modStrand k f).msgs = s.msgs := rfl
@[simp] theorem State.modStrand_launches (s : State) (k : Nat) (f : Strand → Strand) : (s.modStrand k f).launches = s.launches := rfl
@[simp] theorem State.modStrand_graphs (s : State) (k : Nat) (f : Strand → Strand) : (s.modStrand k f).graphs = s.graphs := rfl
@[simp] theorem State.modStrand_ctxs (s : State) (k : Nat) (f : Strand → Strand) : (s.modStrand k f).ctxs = s.ctxs := rfl
@[simp] theorem State.modStrand_parts (s : State) (k : Nat) (f : Strand → Strand) : (s.modStrand k f).parts = s.parts := rfl
@[simp] theorem State.modStrand_pkgs (s : State) (k : Nat) (f : Strand → Strand) : (s.modStrand k f).pkgs = s.pkgs := rfl
@[simp] theorem State.modStrand_domCtrs (s : State) (k : Nat) (f : Strand → Strand) : (s.modStrand k f).domCtrs = s.domCtrs := rfl
@[simp] theorem State.modStrand_groups (s : State) (k : Nat) (f : Strand → Strand) : (s.modStrand k f).groups = s.groups := rfl
@[simp] theorem State.modStrand_latent (s : State) (k : Nat) (f : Strand → Strand) : (s.modStrand k f).latent = s.latent := rfl
@[simp] theorem State.modStrand_residues (s : State) (k : Nat) (f : Strand → Strand) : (s.modStrand k f).residues = s.residues := rfl
@[simp] theorem State.modStrand_hostHeld (s : State) (k : Nat) (f : Strand → Strand) : (s.modStrand k f).hostHeld = s.hostHeld := rfl

/-! ## State.modLane -/

@[simp] theorem State.modLane_clk (s : State) (l : LaneId) (f : Lane → Lane) : (s.modLane l f).clk = s.clk := rfl
@[simp] theorem State.modLane_agenda (s : State) (l : LaneId) (f : Lane → Lane) : (s.modLane l f).agenda = s.agenda := rfl
@[simp] theorem State.modLane_cur (s : State) (l : LaneId) (f : Lane → Lane) : (s.modLane l f).cur = s.cur := rfl
@[simp] theorem State.modLane_fresh (s : State) (l : LaneId) (f : Lane → Lane) : (s.modLane l f).fresh = s.fresh := rfl
@[simp] theorem State.modLane_uid (s : State) (l : LaneId) (f : Lane → Lane) : (s.modLane l f).uid = s.uid := rfl
@[simp] theorem State.modLane_mem (s : State) (l : LaneId) (f : Lane → Lane) : (s.modLane l f).mem = s.mem := rfl
@[simp] theorem State.modLane_stores (s : State) (l : LaneId) (f : Lane → Lane) : (s.modLane l f).stores = s.stores := rfl
@[simp] theorem State.modLane_strands (s : State) (l : LaneId) (f : Lane → Lane) : (s.modLane l f).strands = s.strands := rfl
@[simp] theorem State.modLane_lanes (s : State) (l : LaneId) (f : Lane → Lane) : (s.modLane l f).lanes = amodD s.lanes l {} f := rfl
@[simp] theorem State.modLane_tiles (s : State) (l : LaneId) (f : Lane → Lane) : (s.modLane l f).tiles = s.tiles := rfl
@[simp] theorem State.modLane_walks (s : State) (l : LaneId) (f : Lane → Lane) : (s.modLane l f).walks = s.walks := rfl
@[simp] theorem State.modLane_tctx (s : State) (l : LaneId) (f : Lane → Lane) : (s.modLane l f).tctx = s.tctx := rfl
@[simp] theorem State.modLane_homes (s : State) (l : LaneId) (f : Lane → Lane) : (s.modLane l f).homes = s.homes := rfl
@[simp] theorem State.modLane_ops (s : State) (l : LaneId) (f : Lane → Lane) : (s.modLane l f).ops = s.ops := rfl
@[simp] theorem State.modLane_syncs (s : State) (l : LaneId) (f : Lane → Lane) : (s.modLane l f).syncs = s.syncs := rfl
@[simp] theorem State.modLane_txns (s : State) (l : LaneId) (f : Lane → Lane) : (s.modLane l f).txns = s.txns := rfl
@[simp] theorem State.modLane_msgs (s : State) (l : LaneId) (f : Lane → Lane) : (s.modLane l f).msgs = s.msgs := rfl
@[simp] theorem State.modLane_launches (s : State) (l : LaneId) (f : Lane → Lane) : (s.modLane l f).launches = s.launches := rfl
@[simp] theorem State.modLane_graphs (s : State) (l : LaneId) (f : Lane → Lane) : (s.modLane l f).graphs = s.graphs := rfl
@[simp] theorem State.modLane_ctxs (s : State) (l : LaneId) (f : Lane → Lane) : (s.modLane l f).ctxs = s.ctxs := rfl
@[simp] theorem State.modLane_parts (s : State) (l : LaneId) (f : Lane → Lane) : (s.modLane l f).parts = s.parts := rfl
@[simp] theorem State.modLane_pkgs (s : State) (l : LaneId) (f : Lane → Lane) : (s.modLane l f).pkgs = s.pkgs := rfl
@[simp] theorem State.modLane_domCtrs (s : State) (l : LaneId) (f : Lane → Lane) : (s.modLane l f).domCtrs = s.domCtrs := rfl
@[simp] theorem State.modLane_groups (s : State) (l : LaneId) (f : Lane → Lane) : (s.modLane l f).groups = s.groups := rfl
@[simp] theorem State.modLane_latent (s : State) (l : LaneId) (f : Lane → Lane) : (s.modLane l f).latent = s.latent := rfl
@[simp] theorem State.modLane_residues (s : State) (l : LaneId) (f : Lane → Lane) : (s.modLane l f).residues = s.residues := rfl
@[simp] theorem State.modLane_hostHeld (s : State) (l : LaneId) (f : Lane → Lane) : (s.modLane l f).hostHeld = s.hostHeld := rfl

/-! ## State.modTile -/

@[simp] theorem State.modTile_clk (s : State) (t : TileId) (f : Tile → Tile) : (s.modTile t f).clk = s.clk := rfl
@[simp] theorem State.modTile_agenda (s : State) (t : TileId) (f : Tile → Tile) : (s.modTile t f).agenda = s.agenda := rfl
@[simp] theorem State.modTile_cur (s : State) (t : TileId) (f : Tile → Tile) : (s.modTile t f).cur = s.cur := rfl
@[simp] theorem State.modTile_fresh (s : State) (t : TileId) (f : Tile → Tile) : (s.modTile t f).fresh = s.fresh := rfl
@[simp] theorem State.modTile_uid (s : State) (t : TileId) (f : Tile → Tile) : (s.modTile t f).uid = s.uid := rfl
@[simp] theorem State.modTile_mem (s : State) (t : TileId) (f : Tile → Tile) : (s.modTile t f).mem = s.mem := rfl
@[simp] theorem State.modTile_stores (s : State) (t : TileId) (f : Tile → Tile) : (s.modTile t f).stores = s.stores := rfl
@[simp] theorem State.modTile_strands (s : State) (t : TileId) (f : Tile → Tile) : (s.modTile t f).strands = s.strands := rfl
@[simp] theorem State.modTile_lanes (s : State) (t : TileId) (f : Tile → Tile) : (s.modTile t f).lanes = s.lanes := rfl
@[simp] theorem State.modTile_tiles (s : State) (t : TileId) (f : Tile → Tile) : (s.modTile t f).tiles = amodD s.tiles t {} f := rfl
@[simp] theorem State.modTile_walks (s : State) (t : TileId) (f : Tile → Tile) : (s.modTile t f).walks = s.walks := rfl
@[simp] theorem State.modTile_tctx (s : State) (t : TileId) (f : Tile → Tile) : (s.modTile t f).tctx = s.tctx := rfl
@[simp] theorem State.modTile_homes (s : State) (t : TileId) (f : Tile → Tile) : (s.modTile t f).homes = s.homes := rfl
@[simp] theorem State.modTile_ops (s : State) (t : TileId) (f : Tile → Tile) : (s.modTile t f).ops = s.ops := rfl
@[simp] theorem State.modTile_syncs (s : State) (t : TileId) (f : Tile → Tile) : (s.modTile t f).syncs = s.syncs := rfl
@[simp] theorem State.modTile_txns (s : State) (t : TileId) (f : Tile → Tile) : (s.modTile t f).txns = s.txns := rfl
@[simp] theorem State.modTile_msgs (s : State) (t : TileId) (f : Tile → Tile) : (s.modTile t f).msgs = s.msgs := rfl
@[simp] theorem State.modTile_launches (s : State) (t : TileId) (f : Tile → Tile) : (s.modTile t f).launches = s.launches := rfl
@[simp] theorem State.modTile_graphs (s : State) (t : TileId) (f : Tile → Tile) : (s.modTile t f).graphs = s.graphs := rfl
@[simp] theorem State.modTile_ctxs (s : State) (t : TileId) (f : Tile → Tile) : (s.modTile t f).ctxs = s.ctxs := rfl
@[simp] theorem State.modTile_parts (s : State) (t : TileId) (f : Tile → Tile) : (s.modTile t f).parts = s.parts := rfl
@[simp] theorem State.modTile_pkgs (s : State) (t : TileId) (f : Tile → Tile) : (s.modTile t f).pkgs = s.pkgs := rfl
@[simp] theorem State.modTile_domCtrs (s : State) (t : TileId) (f : Tile → Tile) : (s.modTile t f).domCtrs = s.domCtrs := rfl
@[simp] theorem State.modTile_groups (s : State) (t : TileId) (f : Tile → Tile) : (s.modTile t f).groups = s.groups := rfl
@[simp] theorem State.modTile_latent (s : State) (t : TileId) (f : Tile → Tile) : (s.modTile t f).latent = s.latent := rfl
@[simp] theorem State.modTile_residues (s : State) (t : TileId) (f : Tile → Tile) : (s.modTile t f).residues = s.residues := rfl
@[simp] theorem State.modTile_hostHeld (s : State) (t : TileId) (f : Tile → Tile) : (s.modTile t f).hostHeld = s.hostHeld := rfl

/-! ## State.modTc -/

@[simp] theorem State.modTc_clk (s : State) (t : TileCtx) (f : TCtx → TCtx) : (s.modTc t f).clk = s.clk := rfl
@[simp] theorem State.modTc_agenda (s : State) (t : TileCtx) (f : TCtx → TCtx) : (s.modTc t f).agenda = s.agenda := rfl
@[simp] theorem State.modTc_cur (s : State) (t : TileCtx) (f : TCtx → TCtx) : (s.modTc t f).cur = s.cur := rfl
@[simp] theorem State.modTc_fresh (s : State) (t : TileCtx) (f : TCtx → TCtx) : (s.modTc t f).fresh = s.fresh := rfl
@[simp] theorem State.modTc_uid (s : State) (t : TileCtx) (f : TCtx → TCtx) : (s.modTc t f).uid = s.uid := rfl
@[simp] theorem State.modTc_mem (s : State) (t : TileCtx) (f : TCtx → TCtx) : (s.modTc t f).mem = s.mem := rfl
@[simp] theorem State.modTc_stores (s : State) (t : TileCtx) (f : TCtx → TCtx) : (s.modTc t f).stores = s.stores := rfl
@[simp] theorem State.modTc_strands (s : State) (t : TileCtx) (f : TCtx → TCtx) : (s.modTc t f).strands = s.strands := rfl
@[simp] theorem State.modTc_lanes (s : State) (t : TileCtx) (f : TCtx → TCtx) : (s.modTc t f).lanes = s.lanes := rfl
@[simp] theorem State.modTc_tiles (s : State) (t : TileCtx) (f : TCtx → TCtx) : (s.modTc t f).tiles = s.tiles := rfl
@[simp] theorem State.modTc_walks (s : State) (t : TileCtx) (f : TCtx → TCtx) : (s.modTc t f).walks = s.walks := rfl
@[simp] theorem State.modTc_tctx (s : State) (t : TileCtx) (f : TCtx → TCtx) : (s.modTc t f).tctx = amodD s.tctx t {} f := rfl
@[simp] theorem State.modTc_homes (s : State) (t : TileCtx) (f : TCtx → TCtx) : (s.modTc t f).homes = s.homes := rfl
@[simp] theorem State.modTc_ops (s : State) (t : TileCtx) (f : TCtx → TCtx) : (s.modTc t f).ops = s.ops := rfl
@[simp] theorem State.modTc_syncs (s : State) (t : TileCtx) (f : TCtx → TCtx) : (s.modTc t f).syncs = s.syncs := rfl
@[simp] theorem State.modTc_txns (s : State) (t : TileCtx) (f : TCtx → TCtx) : (s.modTc t f).txns = s.txns := rfl
@[simp] theorem State.modTc_msgs (s : State) (t : TileCtx) (f : TCtx → TCtx) : (s.modTc t f).msgs = s.msgs := rfl
@[simp] theorem State.modTc_launches (s : State) (t : TileCtx) (f : TCtx → TCtx) : (s.modTc t f).launches = s.launches := rfl
@[simp] theorem State.modTc_graphs (s : State) (t : TileCtx) (f : TCtx → TCtx) : (s.modTc t f).graphs = s.graphs := rfl
@[simp] theorem State.modTc_ctxs (s : State) (t : TileCtx) (f : TCtx → TCtx) : (s.modTc t f).ctxs = s.ctxs := rfl
@[simp] theorem State.modTc_parts (s : State) (t : TileCtx) (f : TCtx → TCtx) : (s.modTc t f).parts = s.parts := rfl
@[simp] theorem State.modTc_pkgs (s : State) (t : TileCtx) (f : TCtx → TCtx) : (s.modTc t f).pkgs = s.pkgs := rfl
@[simp] theorem State.modTc_domCtrs (s : State) (t : TileCtx) (f : TCtx → TCtx) : (s.modTc t f).domCtrs = s.domCtrs := rfl
@[simp] theorem State.modTc_groups (s : State) (t : TileCtx) (f : TCtx → TCtx) : (s.modTc t f).groups = s.groups := rfl
@[simp] theorem State.modTc_latent (s : State) (t : TileCtx) (f : TCtx → TCtx) : (s.modTc t f).latent = s.latent := rfl
@[simp] theorem State.modTc_residues (s : State) (t : TileCtx) (f : TCtx → TCtx) : (s.modTc t f).residues = s.residues := rfl
@[simp] theorem State.modTc_hostHeld (s : State) (t : TileCtx) (f : TCtx → TCtx) : (s.modTc t f).hostHeld = s.hostHeld := rfl

/-! ## State.modHome -/

@[simp] theorem State.modHome_clk (s : State) (h : Home) (f : HomeSt → HomeSt) : (s.modHome h f).clk = s.clk := rfl
@[simp] theorem State.modHome_agenda (s : State) (h : Home) (f : HomeSt → HomeSt) : (s.modHome h f).agenda = s.agenda := rfl
@[simp] theorem State.modHome_cur (s : State) (h : Home) (f : HomeSt → HomeSt) : (s.modHome h f).cur = s.cur := rfl
@[simp] theorem State.modHome_fresh (s : State) (h : Home) (f : HomeSt → HomeSt) : (s.modHome h f).fresh = s.fresh := rfl
@[simp] theorem State.modHome_uid (s : State) (h : Home) (f : HomeSt → HomeSt) : (s.modHome h f).uid = s.uid := rfl
@[simp] theorem State.modHome_mem (s : State) (h : Home) (f : HomeSt → HomeSt) : (s.modHome h f).mem = s.mem := rfl
@[simp] theorem State.modHome_stores (s : State) (h : Home) (f : HomeSt → HomeSt) : (s.modHome h f).stores = s.stores := rfl
@[simp] theorem State.modHome_strands (s : State) (h : Home) (f : HomeSt → HomeSt) : (s.modHome h f).strands = s.strands := rfl
@[simp] theorem State.modHome_lanes (s : State) (h : Home) (f : HomeSt → HomeSt) : (s.modHome h f).lanes = s.lanes := rfl
@[simp] theorem State.modHome_tiles (s : State) (h : Home) (f : HomeSt → HomeSt) : (s.modHome h f).tiles = s.tiles := rfl
@[simp] theorem State.modHome_walks (s : State) (h : Home) (f : HomeSt → HomeSt) : (s.modHome h f).walks = s.walks := rfl
@[simp] theorem State.modHome_tctx (s : State) (h : Home) (f : HomeSt → HomeSt) : (s.modHome h f).tctx = s.tctx := rfl
@[simp] theorem State.modHome_homes (s : State) (h : Home) (f : HomeSt → HomeSt) : (s.modHome h f).homes = amodD s.homes h {} f := rfl
@[simp] theorem State.modHome_ops (s : State) (h : Home) (f : HomeSt → HomeSt) : (s.modHome h f).ops = s.ops := rfl
@[simp] theorem State.modHome_syncs (s : State) (h : Home) (f : HomeSt → HomeSt) : (s.modHome h f).syncs = s.syncs := rfl
@[simp] theorem State.modHome_txns (s : State) (h : Home) (f : HomeSt → HomeSt) : (s.modHome h f).txns = s.txns := rfl
@[simp] theorem State.modHome_msgs (s : State) (h : Home) (f : HomeSt → HomeSt) : (s.modHome h f).msgs = s.msgs := rfl
@[simp] theorem State.modHome_launches (s : State) (h : Home) (f : HomeSt → HomeSt) : (s.modHome h f).launches = s.launches := rfl
@[simp] theorem State.modHome_graphs (s : State) (h : Home) (f : HomeSt → HomeSt) : (s.modHome h f).graphs = s.graphs := rfl
@[simp] theorem State.modHome_ctxs (s : State) (h : Home) (f : HomeSt → HomeSt) : (s.modHome h f).ctxs = s.ctxs := rfl
@[simp] theorem State.modHome_parts (s : State) (h : Home) (f : HomeSt → HomeSt) : (s.modHome h f).parts = s.parts := rfl
@[simp] theorem State.modHome_pkgs (s : State) (h : Home) (f : HomeSt → HomeSt) : (s.modHome h f).pkgs = s.pkgs := rfl
@[simp] theorem State.modHome_domCtrs (s : State) (h : Home) (f : HomeSt → HomeSt) : (s.modHome h f).domCtrs = s.domCtrs := rfl
@[simp] theorem State.modHome_groups (s : State) (h : Home) (f : HomeSt → HomeSt) : (s.modHome h f).groups = s.groups := rfl
@[simp] theorem State.modHome_latent (s : State) (h : Home) (f : HomeSt → HomeSt) : (s.modHome h f).latent = s.latent := rfl
@[simp] theorem State.modHome_residues (s : State) (h : Home) (f : HomeSt → HomeSt) : (s.modHome h f).residues = s.residues := rfl
@[simp] theorem State.modHome_hostHeld (s : State) (h : Home) (f : HomeSt → HomeSt) : (s.modHome h f).hostHeld = s.hostHeld := rfl

/-! ## State.modLaunch -/

@[simp] theorem State.modLaunch_clk (s : State) (l : Nat) (f : Launch → Launch) : (s.modLaunch l f).clk = s.clk := rfl
@[simp] theorem State.modLaunch_agenda (s : State) (l : Nat) (f : Launch → Launch) : (s.modLaunch l f).agenda = s.agenda := rfl
@[simp] theorem State.modLaunch_cur (s : State) (l : Nat) (f : Launch → Launch) : (s.modLaunch l f).cur = s.cur := rfl
@[simp] theorem State.modLaunch_fresh (s : State) (l : Nat) (f : Launch → Launch) : (s.modLaunch l f).fresh = s.fresh := rfl
@[simp] theorem State.modLaunch_uid (s : State) (l : Nat) (f : Launch → Launch) : (s.modLaunch l f).uid = s.uid := rfl
@[simp] theorem State.modLaunch_mem (s : State) (l : Nat) (f : Launch → Launch) : (s.modLaunch l f).mem = s.mem := rfl
@[simp] theorem State.modLaunch_stores (s : State) (l : Nat) (f : Launch → Launch) : (s.modLaunch l f).stores = s.stores := rfl
@[simp] theorem State.modLaunch_strands (s : State) (l : Nat) (f : Launch → Launch) : (s.modLaunch l f).strands = s.strands := rfl
@[simp] theorem State.modLaunch_lanes (s : State) (l : Nat) (f : Launch → Launch) : (s.modLaunch l f).lanes = s.lanes := rfl
@[simp] theorem State.modLaunch_tiles (s : State) (l : Nat) (f : Launch → Launch) : (s.modLaunch l f).tiles = s.tiles := rfl
@[simp] theorem State.modLaunch_walks (s : State) (l : Nat) (f : Launch → Launch) : (s.modLaunch l f).walks = s.walks := rfl
@[simp] theorem State.modLaunch_tctx (s : State) (l : Nat) (f : Launch → Launch) : (s.modLaunch l f).tctx = s.tctx := rfl
@[simp] theorem State.modLaunch_homes (s : State) (l : Nat) (f : Launch → Launch) : (s.modLaunch l f).homes = s.homes := rfl
@[simp] theorem State.modLaunch_ops (s : State) (l : Nat) (f : Launch → Launch) : (s.modLaunch l f).ops = s.ops := rfl
@[simp] theorem State.modLaunch_syncs (s : State) (l : Nat) (f : Launch → Launch) : (s.modLaunch l f).syncs = s.syncs := rfl
@[simp] theorem State.modLaunch_txns (s : State) (l : Nat) (f : Launch → Launch) : (s.modLaunch l f).txns = s.txns := rfl
@[simp] theorem State.modLaunch_msgs (s : State) (l : Nat) (f : Launch → Launch) : (s.modLaunch l f).msgs = s.msgs := rfl
@[simp] theorem State.modLaunch_launches (s : State) (l : Nat) (f : Launch → Launch) : (s.modLaunch l f).launches = amod s.launches l f := rfl
@[simp] theorem State.modLaunch_graphs (s : State) (l : Nat) (f : Launch → Launch) : (s.modLaunch l f).graphs = s.graphs := rfl
@[simp] theorem State.modLaunch_ctxs (s : State) (l : Nat) (f : Launch → Launch) : (s.modLaunch l f).ctxs = s.ctxs := rfl
@[simp] theorem State.modLaunch_parts (s : State) (l : Nat) (f : Launch → Launch) : (s.modLaunch l f).parts = s.parts := rfl
@[simp] theorem State.modLaunch_pkgs (s : State) (l : Nat) (f : Launch → Launch) : (s.modLaunch l f).pkgs = s.pkgs := rfl
@[simp] theorem State.modLaunch_domCtrs (s : State) (l : Nat) (f : Launch → Launch) : (s.modLaunch l f).domCtrs = s.domCtrs := rfl
@[simp] theorem State.modLaunch_groups (s : State) (l : Nat) (f : Launch → Launch) : (s.modLaunch l f).groups = s.groups := rfl
@[simp] theorem State.modLaunch_latent (s : State) (l : Nat) (f : Launch → Launch) : (s.modLaunch l f).latent = s.latent := rfl
@[simp] theorem State.modLaunch_residues (s : State) (l : Nat) (f : Launch → Launch) : (s.modLaunch l f).residues = s.residues := rfl
@[simp] theorem State.modLaunch_hostHeld (s : State) (l : Nat) (f : Launch → Launch) : (s.modLaunch l f).hostHeld = s.hostHeld := rfl

/-! ## State.modOp -/

@[simp] theorem State.modOp_clk (s : State) (n : Nat) (f : Op → Op) : (s.modOp n f).clk = s.clk := rfl
@[simp] theorem State.modOp_agenda (s : State) (n : Nat) (f : Op → Op) : (s.modOp n f).agenda = s.agenda := rfl
@[simp] theorem State.modOp_cur (s : State) (n : Nat) (f : Op → Op) : (s.modOp n f).cur = s.cur := rfl
@[simp] theorem State.modOp_fresh (s : State) (n : Nat) (f : Op → Op) : (s.modOp n f).fresh = s.fresh := rfl
@[simp] theorem State.modOp_uid (s : State) (n : Nat) (f : Op → Op) : (s.modOp n f).uid = s.uid := rfl
@[simp] theorem State.modOp_mem (s : State) (n : Nat) (f : Op → Op) : (s.modOp n f).mem = s.mem := rfl
@[simp] theorem State.modOp_stores (s : State) (n : Nat) (f : Op → Op) : (s.modOp n f).stores = s.stores := rfl
@[simp] theorem State.modOp_strands (s : State) (n : Nat) (f : Op → Op) : (s.modOp n f).strands = s.strands := rfl
@[simp] theorem State.modOp_lanes (s : State) (n : Nat) (f : Op → Op) : (s.modOp n f).lanes = s.lanes := rfl
@[simp] theorem State.modOp_tiles (s : State) (n : Nat) (f : Op → Op) : (s.modOp n f).tiles = s.tiles := rfl
@[simp] theorem State.modOp_walks (s : State) (n : Nat) (f : Op → Op) : (s.modOp n f).walks = s.walks := rfl
@[simp] theorem State.modOp_tctx (s : State) (n : Nat) (f : Op → Op) : (s.modOp n f).tctx = s.tctx := rfl
@[simp] theorem State.modOp_homes (s : State) (n : Nat) (f : Op → Op) : (s.modOp n f).homes = s.homes := rfl
@[simp] theorem State.modOp_ops (s : State) (n : Nat) (f : Op → Op) : (s.modOp n f).ops = amod s.ops n f := rfl
@[simp] theorem State.modOp_syncs (s : State) (n : Nat) (f : Op → Op) : (s.modOp n f).syncs = s.syncs := rfl
@[simp] theorem State.modOp_txns (s : State) (n : Nat) (f : Op → Op) : (s.modOp n f).txns = s.txns := rfl
@[simp] theorem State.modOp_msgs (s : State) (n : Nat) (f : Op → Op) : (s.modOp n f).msgs = s.msgs := rfl
@[simp] theorem State.modOp_launches (s : State) (n : Nat) (f : Op → Op) : (s.modOp n f).launches = s.launches := rfl
@[simp] theorem State.modOp_graphs (s : State) (n : Nat) (f : Op → Op) : (s.modOp n f).graphs = s.graphs := rfl
@[simp] theorem State.modOp_ctxs (s : State) (n : Nat) (f : Op → Op) : (s.modOp n f).ctxs = s.ctxs := rfl
@[simp] theorem State.modOp_parts (s : State) (n : Nat) (f : Op → Op) : (s.modOp n f).parts = s.parts := rfl
@[simp] theorem State.modOp_pkgs (s : State) (n : Nat) (f : Op → Op) : (s.modOp n f).pkgs = s.pkgs := rfl
@[simp] theorem State.modOp_domCtrs (s : State) (n : Nat) (f : Op → Op) : (s.modOp n f).domCtrs = s.domCtrs := rfl
@[simp] theorem State.modOp_groups (s : State) (n : Nat) (f : Op → Op) : (s.modOp n f).groups = s.groups := rfl
@[simp] theorem State.modOp_latent (s : State) (n : Nat) (f : Op → Op) : (s.modOp n f).latent = s.latent := rfl
@[simp] theorem State.modOp_residues (s : State) (n : Nat) (f : Op → Op) : (s.modOp n f).residues = s.residues := rfl
@[simp] theorem State.modOp_hostHeld (s : State) (n : Nat) (f : Op → Op) : (s.modOp n f).hostHeld = s.hostHeld := rfl

/-! ## State.modTxn -/

@[simp] theorem State.modTxn_clk (s : State) (n : Nat) (f : Txn → Txn) : (s.modTxn n f).clk = s.clk := rfl
@[simp] theorem State.modTxn_agenda (s : State) (n : Nat) (f : Txn → Txn) : (s.modTxn n f).agenda = s.agenda := rfl
@[simp] theorem State.modTxn_cur (s : State) (n : Nat) (f : Txn → Txn) : (s.modTxn n f).cur = s.cur := rfl
@[simp] theorem State.modTxn_fresh (s : State) (n : Nat) (f : Txn → Txn) : (s.modTxn n f).fresh = s.fresh := rfl
@[simp] theorem State.modTxn_uid (s : State) (n : Nat) (f : Txn → Txn) : (s.modTxn n f).uid = s.uid := rfl
@[simp] theorem State.modTxn_mem (s : State) (n : Nat) (f : Txn → Txn) : (s.modTxn n f).mem = s.mem := rfl
@[simp] theorem State.modTxn_stores (s : State) (n : Nat) (f : Txn → Txn) : (s.modTxn n f).stores = s.stores := rfl
@[simp] theorem State.modTxn_strands (s : State) (n : Nat) (f : Txn → Txn) : (s.modTxn n f).strands = s.strands := rfl
@[simp] theorem State.modTxn_lanes (s : State) (n : Nat) (f : Txn → Txn) : (s.modTxn n f).lanes = s.lanes := rfl
@[simp] theorem State.modTxn_tiles (s : State) (n : Nat) (f : Txn → Txn) : (s.modTxn n f).tiles = s.tiles := rfl
@[simp] theorem State.modTxn_walks (s : State) (n : Nat) (f : Txn → Txn) : (s.modTxn n f).walks = s.walks := rfl
@[simp] theorem State.modTxn_tctx (s : State) (n : Nat) (f : Txn → Txn) : (s.modTxn n f).tctx = s.tctx := rfl
@[simp] theorem State.modTxn_homes (s : State) (n : Nat) (f : Txn → Txn) : (s.modTxn n f).homes = s.homes := rfl
@[simp] theorem State.modTxn_ops (s : State) (n : Nat) (f : Txn → Txn) : (s.modTxn n f).ops = s.ops := rfl
@[simp] theorem State.modTxn_syncs (s : State) (n : Nat) (f : Txn → Txn) : (s.modTxn n f).syncs = s.syncs := rfl
@[simp] theorem State.modTxn_txns (s : State) (n : Nat) (f : Txn → Txn) : (s.modTxn n f).txns = amod s.txns n f := rfl
@[simp] theorem State.modTxn_msgs (s : State) (n : Nat) (f : Txn → Txn) : (s.modTxn n f).msgs = s.msgs := rfl
@[simp] theorem State.modTxn_launches (s : State) (n : Nat) (f : Txn → Txn) : (s.modTxn n f).launches = s.launches := rfl
@[simp] theorem State.modTxn_graphs (s : State) (n : Nat) (f : Txn → Txn) : (s.modTxn n f).graphs = s.graphs := rfl
@[simp] theorem State.modTxn_ctxs (s : State) (n : Nat) (f : Txn → Txn) : (s.modTxn n f).ctxs = s.ctxs := rfl
@[simp] theorem State.modTxn_parts (s : State) (n : Nat) (f : Txn → Txn) : (s.modTxn n f).parts = s.parts := rfl
@[simp] theorem State.modTxn_pkgs (s : State) (n : Nat) (f : Txn → Txn) : (s.modTxn n f).pkgs = s.pkgs := rfl
@[simp] theorem State.modTxn_domCtrs (s : State) (n : Nat) (f : Txn → Txn) : (s.modTxn n f).domCtrs = s.domCtrs := rfl
@[simp] theorem State.modTxn_groups (s : State) (n : Nat) (f : Txn → Txn) : (s.modTxn n f).groups = s.groups := rfl
@[simp] theorem State.modTxn_latent (s : State) (n : Nat) (f : Txn → Txn) : (s.modTxn n f).latent = s.latent := rfl
@[simp] theorem State.modTxn_residues (s : State) (n : Nat) (f : Txn → Txn) : (s.modTxn n f).residues = s.residues := rfl
@[simp] theorem State.modTxn_hostHeld (s : State) (n : Nat) (f : Txn → Txn) : (s.modTxn n f).hostHeld = s.hostHeld := rfl

/-! ## State.send -/

@[simp] theorem State.send_clk (s : State) (m : Msg) : (s.send m).clk = s.clk := rfl
@[simp] theorem State.send_agenda (s : State) (m : Msg) : (s.send m).agenda = s.agenda := rfl
@[simp] theorem State.send_cur (s : State) (m : Msg) : (s.send m).cur = s.cur := rfl
@[simp] theorem State.send_fresh (s : State) (m : Msg) : (s.send m).fresh = s.fresh := rfl
@[simp] theorem State.send_uid (s : State) (m : Msg) : (s.send m).uid = s.uid + 1 := rfl
@[simp] theorem State.send_mem (s : State) (m : Msg) : (s.send m).mem = s.mem := rfl
@[simp] theorem State.send_stores (s : State) (m : Msg) : (s.send m).stores = s.stores := rfl
@[simp] theorem State.send_strands (s : State) (m : Msg) : (s.send m).strands = s.strands := rfl
@[simp] theorem State.send_lanes (s : State) (m : Msg) : (s.send m).lanes = s.lanes := rfl
@[simp] theorem State.send_tiles (s : State) (m : Msg) : (s.send m).tiles = s.tiles := rfl
@[simp] theorem State.send_walks (s : State) (m : Msg) : (s.send m).walks = s.walks := rfl
@[simp] theorem State.send_tctx (s : State) (m : Msg) : (s.send m).tctx = s.tctx := rfl
@[simp] theorem State.send_homes (s : State) (m : Msg) : (s.send m).homes = s.homes := rfl
@[simp] theorem State.send_ops (s : State) (m : Msg) : (s.send m).ops = s.ops := rfl
@[simp] theorem State.send_syncs (s : State) (m : Msg) : (s.send m).syncs = s.syncs := rfl
@[simp] theorem State.send_txns (s : State) (m : Msg) : (s.send m).txns = s.txns := rfl
@[simp] theorem State.send_msgs (s : State) (m : Msg) : (s.send m).msgs = s.msgs ++ [(s.uid + 1, m)] := rfl
@[simp] theorem State.send_launches (s : State) (m : Msg) : (s.send m).launches = s.launches := rfl
@[simp] theorem State.send_graphs (s : State) (m : Msg) : (s.send m).graphs = s.graphs := rfl
@[simp] theorem State.send_ctxs (s : State) (m : Msg) : (s.send m).ctxs = s.ctxs := rfl
@[simp] theorem State.send_parts (s : State) (m : Msg) : (s.send m).parts = s.parts := rfl
@[simp] theorem State.send_pkgs (s : State) (m : Msg) : (s.send m).pkgs = s.pkgs := rfl
@[simp] theorem State.send_domCtrs (s : State) (m : Msg) : (s.send m).domCtrs = s.domCtrs := rfl
@[simp] theorem State.send_groups (s : State) (m : Msg) : (s.send m).groups = s.groups := rfl
@[simp] theorem State.send_latent (s : State) (m : Msg) : (s.send m).latent = s.latent := rfl
@[simp] theorem State.send_residues (s : State) (m : Msg) : (s.send m).residues = s.residues := rfl
@[simp] theorem State.send_hostHeld (s : State) (m : Msg) : (s.send m).hostHeld = s.hostHeld := rfl

/-! ## State.dropMsg -/

@[simp] theorem State.dropMsg_clk (s : State) (n : Nat) : (s.dropMsg n).clk = s.clk := rfl
@[simp] theorem State.dropMsg_agenda (s : State) (n : Nat) : (s.dropMsg n).agenda = s.agenda := rfl
@[simp] theorem State.dropMsg_cur (s : State) (n : Nat) : (s.dropMsg n).cur = s.cur := rfl
@[simp] theorem State.dropMsg_fresh (s : State) (n : Nat) : (s.dropMsg n).fresh = s.fresh := rfl
@[simp] theorem State.dropMsg_uid (s : State) (n : Nat) : (s.dropMsg n).uid = s.uid := rfl
@[simp] theorem State.dropMsg_mem (s : State) (n : Nat) : (s.dropMsg n).mem = s.mem := rfl
@[simp] theorem State.dropMsg_stores (s : State) (n : Nat) : (s.dropMsg n).stores = s.stores := rfl
@[simp] theorem State.dropMsg_strands (s : State) (n : Nat) : (s.dropMsg n).strands = s.strands := rfl
@[simp] theorem State.dropMsg_lanes (s : State) (n : Nat) : (s.dropMsg n).lanes = s.lanes := rfl
@[simp] theorem State.dropMsg_tiles (s : State) (n : Nat) : (s.dropMsg n).tiles = s.tiles := rfl
@[simp] theorem State.dropMsg_walks (s : State) (n : Nat) : (s.dropMsg n).walks = s.walks := rfl
@[simp] theorem State.dropMsg_tctx (s : State) (n : Nat) : (s.dropMsg n).tctx = s.tctx := rfl
@[simp] theorem State.dropMsg_homes (s : State) (n : Nat) : (s.dropMsg n).homes = s.homes := rfl
@[simp] theorem State.dropMsg_ops (s : State) (n : Nat) : (s.dropMsg n).ops = s.ops := rfl
@[simp] theorem State.dropMsg_syncs (s : State) (n : Nat) : (s.dropMsg n).syncs = s.syncs := rfl
@[simp] theorem State.dropMsg_txns (s : State) (n : Nat) : (s.dropMsg n).txns = s.txns := rfl
@[simp] theorem State.dropMsg_msgs (s : State) (n : Nat) : (s.dropMsg n).msgs = adel s.msgs n := rfl
@[simp] theorem State.dropMsg_launches (s : State) (n : Nat) : (s.dropMsg n).launches = s.launches := rfl
@[simp] theorem State.dropMsg_graphs (s : State) (n : Nat) : (s.dropMsg n).graphs = s.graphs := rfl
@[simp] theorem State.dropMsg_ctxs (s : State) (n : Nat) : (s.dropMsg n).ctxs = s.ctxs := rfl
@[simp] theorem State.dropMsg_parts (s : State) (n : Nat) : (s.dropMsg n).parts = s.parts := rfl
@[simp] theorem State.dropMsg_pkgs (s : State) (n : Nat) : (s.dropMsg n).pkgs = s.pkgs := rfl
@[simp] theorem State.dropMsg_domCtrs (s : State) (n : Nat) : (s.dropMsg n).domCtrs = s.domCtrs := rfl
@[simp] theorem State.dropMsg_groups (s : State) (n : Nat) : (s.dropMsg n).groups = s.groups := rfl
@[simp] theorem State.dropMsg_latent (s : State) (n : Nat) : (s.dropMsg n).latent = s.latent := rfl
@[simp] theorem State.dropMsg_residues (s : State) (n : Nat) : (s.dropMsg n).residues = s.residues := rfl
@[simp] theorem State.dropMsg_hostHeld (s : State) (n : Nat) : (s.dropMsg n).hostHeld = s.hostHeld := rfl

/-! ## State.write -/

@[simp] theorem State.write_clk (s : State) (n a v : Nat) : (s.write n a v).clk = s.clk := rfl
@[simp] theorem State.write_agenda (s : State) (n a v : Nat) : (s.write n a v).agenda = s.agenda := rfl
@[simp] theorem State.write_cur (s : State) (n a v : Nat) : (s.write n a v).cur = s.cur := rfl
@[simp] theorem State.write_fresh (s : State) (n a v : Nat) : (s.write n a v).fresh = s.fresh := rfl
@[simp] theorem State.write_uid (s : State) (n a v : Nat) : (s.write n a v).uid = s.uid := rfl
@[simp] theorem State.write_mem (s : State) (n a v : Nat) : (s.write n a v).mem = s.mem := rfl
@[simp] theorem State.write_stores (s : State) (n a v : Nat) : (s.write n a v).stores = cellsOf n a v ++ s.stores := rfl
@[simp] theorem State.write_strands (s : State) (n a v : Nat) : (s.write n a v).strands = s.strands := rfl
@[simp] theorem State.write_lanes (s : State) (n a v : Nat) : (s.write n a v).lanes = s.lanes := rfl
@[simp] theorem State.write_tiles (s : State) (n a v : Nat) : (s.write n a v).tiles = s.tiles := rfl
@[simp] theorem State.write_walks (s : State) (n a v : Nat) : (s.write n a v).walks = s.walks := rfl
@[simp] theorem State.write_tctx (s : State) (n a v : Nat) : (s.write n a v).tctx = s.tctx := rfl
@[simp] theorem State.write_homes (s : State) (n a v : Nat) : (s.write n a v).homes = s.homes := rfl
@[simp] theorem State.write_ops (s : State) (n a v : Nat) : (s.write n a v).ops = s.ops := rfl
@[simp] theorem State.write_syncs (s : State) (n a v : Nat) : (s.write n a v).syncs = s.syncs := rfl
@[simp] theorem State.write_txns (s : State) (n a v : Nat) : (s.write n a v).txns = s.txns := rfl
@[simp] theorem State.write_msgs (s : State) (n a v : Nat) : (s.write n a v).msgs = s.msgs := rfl
@[simp] theorem State.write_launches (s : State) (n a v : Nat) : (s.write n a v).launches = s.launches := rfl
@[simp] theorem State.write_graphs (s : State) (n a v : Nat) : (s.write n a v).graphs = s.graphs := rfl
@[simp] theorem State.write_ctxs (s : State) (n a v : Nat) : (s.write n a v).ctxs = s.ctxs := rfl
@[simp] theorem State.write_parts (s : State) (n a v : Nat) : (s.write n a v).parts = s.parts := rfl
@[simp] theorem State.write_pkgs (s : State) (n a v : Nat) : (s.write n a v).pkgs = s.pkgs := rfl
@[simp] theorem State.write_domCtrs (s : State) (n a v : Nat) : (s.write n a v).domCtrs = s.domCtrs := rfl
@[simp] theorem State.write_groups (s : State) (n a v : Nat) : (s.write n a v).groups = s.groups := rfl
@[simp] theorem State.write_latent (s : State) (n a v : Nat) : (s.write n a v).latent = s.latent := rfl
@[simp] theorem State.write_residues (s : State) (n a v : Nat) : (s.write n a v).residues = s.residues := rfl
@[simp] theorem State.write_hostHeld (s : State) (n a v : Nat) : (s.write n a v).hostHeld = s.hostHeld := rfl

/-! ## commit -/

@[simp] theorem commit_clk (m : List Host.Cell) (s : State) : (commit m s).clk = s.clk := rfl
@[simp] theorem commit_agenda (m : List Host.Cell) (s : State) : (commit m s).agenda = s.agenda := rfl
@[simp] theorem commit_cur (m : List Host.Cell) (s : State) : (commit m s).cur = s.cur := rfl
@[simp] theorem commit_fresh (m : List Host.Cell) (s : State) : (commit m s).fresh = s.fresh := rfl
@[simp] theorem commit_uid (m : List Host.Cell) (s : State) : (commit m s).uid = s.uid := rfl
@[simp] theorem commit_mem (m : List Host.Cell) (s : State) : (commit m s).mem = memPutAll m s.stores := rfl
@[simp] theorem commit_stores (m : List Host.Cell) (s : State) : (commit m s).stores = [] := rfl
@[simp] theorem commit_strands (m : List Host.Cell) (s : State) : (commit m s).strands = s.strands := rfl
@[simp] theorem commit_lanes (m : List Host.Cell) (s : State) : (commit m s).lanes = s.lanes := rfl
@[simp] theorem commit_tiles (m : List Host.Cell) (s : State) : (commit m s).tiles = s.tiles := rfl
@[simp] theorem commit_walks (m : List Host.Cell) (s : State) : (commit m s).walks = s.walks := rfl
@[simp] theorem commit_tctx (m : List Host.Cell) (s : State) : (commit m s).tctx = s.tctx := rfl
@[simp] theorem commit_homes (m : List Host.Cell) (s : State) : (commit m s).homes = s.homes := rfl
@[simp] theorem commit_ops (m : List Host.Cell) (s : State) : (commit m s).ops = s.ops := rfl
@[simp] theorem commit_syncs (m : List Host.Cell) (s : State) : (commit m s).syncs = s.syncs := rfl
@[simp] theorem commit_txns (m : List Host.Cell) (s : State) : (commit m s).txns = s.txns := rfl
@[simp] theorem commit_msgs (m : List Host.Cell) (s : State) : (commit m s).msgs = s.msgs := rfl
@[simp] theorem commit_launches (m : List Host.Cell) (s : State) : (commit m s).launches = s.launches := rfl
@[simp] theorem commit_graphs (m : List Host.Cell) (s : State) : (commit m s).graphs = s.graphs := rfl
@[simp] theorem commit_ctxs (m : List Host.Cell) (s : State) : (commit m s).ctxs = s.ctxs := rfl
@[simp] theorem commit_parts (m : List Host.Cell) (s : State) : (commit m s).parts = s.parts := rfl
@[simp] theorem commit_pkgs (m : List Host.Cell) (s : State) : (commit m s).pkgs = s.pkgs := rfl
@[simp] theorem commit_domCtrs (m : List Host.Cell) (s : State) : (commit m s).domCtrs = s.domCtrs := rfl
@[simp] theorem commit_groups (m : List Host.Cell) (s : State) : (commit m s).groups = s.groups := rfl
@[simp] theorem commit_latent (m : List Host.Cell) (s : State) : (commit m s).latent = s.latent := rfl
@[simp] theorem commit_residues (m : List Host.Cell) (s : State) : (commit m s).residues = s.residues := rfl
@[simp] theorem commit_hostHeld (m : List Host.Cell) (s : State) : (commit m s).hostHeld = s.hostHeld := rfl

end Sys2Proof.Machine
end

