-- ==== Sys2Proof/Laws/Faults.lean ====
section
/-! SUPPORT. What a fault, a raised line and the shared operations around them can change: everything else of the state is as it was. -/

namespace Sys2Proof.Machine

/-- The state but for its strands, partitions and contexts, which are what faults change. -/
def State.rest (s : State) : State := { s with strands := [], parts := [], ctxs := [] }

@[simp] theorem State.rest_modStrand (s : State) (k : Nat) (f : Strand → Strand) : (s.modStrand k f).rest = s.rest := rfl
@[simp] theorem State.rest_modPart (s : State) (p : PartId) (f : Part → Part) : (s.modPart p f).rest = s.rest := rfl
@[simp] theorem State.rest_modCtx (s : State) (c : CtxId) (f : Ctx → Ctx) : (s.modCtx c f).rest = s.rest := rfl
@[simp] theorem State.rest_post (s : State) (p : PartId) (code data : Nat) : (s.post p code data).rest = s.rest := rfl
@[simp] theorem State.rest_numbered (s : State) (p : PartId) (u : UnitId) : (s.numbered p u).rest = s.rest := rfl
@[simp] theorem State.rest_postBy (s : State) (p : PartId) (u : UnitId) (code data : Nat) : (s.postBy p u code data).rest = s.rest := rfl
@[simp] theorem State.rest_coincide (s : State) (bits k : Nat) : (s.coincide bits k).rest = s.rest := rfl

/-- A fold of steps that change nothing else. -/
theorem State.rest_foldl {β : Type} {f : State → β → State} (h : ∀ a b, (f a b).rest = a.rest) (l : List β) (s : State) :
    (l.foldl f s).rest = s.rest := by
  induction l generalizing s with
  | nil => rfl
  | cons b l ih => rw [List.foldl_cons, ih, h]

@[simp] theorem State.rest_raiseLine (s : State) (p : PartId) (cause : Nat) (u : Option UnitId) :
    (s.raiseLine p cause u).rest = s.rest := by
  unfold State.raiseLine State.coincideWith
  split
  · split
    · apply State.rest_foldl
      intro a b
      rfl
    · rfl
  · refine (State.rest_foldl ?_ _ _).trans ?_
    · intro a b
      rfl
    · cases u <;> rfl

@[simp] theorem State.rest_putStop (s : State) (p : PartId) (u : UnitId) (r : BitVec 1024) : (s.putStop p u r).rest = s.rest := by
  cases u <;> rfl

@[simp] theorem State.rest_lineFor (s : State) (k : Nat) (st : Strand) (cause : Nat) : (s.lineFor k st cause).rest = s.rest := by
  unfold State.lineFor
  split <;> simp

/-- A fault of a strand changes strands, partitions and contexts only (17 R344, R345, R348). -/
@[simp] theorem State.rest_strandFault (s : State) (k : Nat) (f : Flt) (w : Where) (kind code : Nat) (mask : Mask) :
    (s.strandFault k f w kind code mask).rest = s.rest := by
  unfold State.strandFault
  cases s.strand k with
  | none => rfl
  | some st =>
    dsimp only
    generalize (if st.stopAt = some (s.cycle st.part) then (st.stopRec.extractLsb' 304 16).toNat else 0) = old
    split <;> simp

@[simp] theorem State.rest_preciseFault (s : State) (k : Nat) (f : Flt) (pc : Pc) (exm act : List Nat) :
    (s.preciseFault k f pc exm act).rest = s.rest := State.rest_strandFault ..
@[simp] theorem State.rest_drainFault (s : State) (k : Nat) (f : Flt) (e : Entry) (act : List Nat) :
    (s.drainFault k f e act).rest = s.rest := State.rest_strandFault ..
@[simp] theorem State.rest_impreciseFault (s : State) (k : Nat) (f : Flt) (pc : Pc) : (s.impreciseFault k f pc).rest = s.rest :=
  State.rest_strandFault ..
@[simp] theorem State.rest_enterHandler (s : State) (k kind code : Nat) (mask : Mask) : (s.enterHandler k kind code mask).rest = s.rest := by
  unfold State.enterHandler; split <;> rfl
@[simp] theorem State.rest_unitFault (s : State) (p : PartId) (u : UnitId) (f : Flt) (k : Nat) (pc : Pc) (ust : Nat) :
    (s.unitFault p u f k pc ust).rest = s.rest := by simp [State.unitFault]

/-- From `rest` to its parts: memory, what waits to be written, operations and messages. -/
theorem State.mem_of_rest {s t : State} (h : t.rest = s.rest) : t.mem = s.mem ∧ t.stores = s.stores ∧ t.ops = s.ops ∧ t.msgs = s.msgs :=
  ⟨(congrArg State.mem h :), (congrArg State.stores h :), (congrArg State.ops h :), (congrArg State.msgs h :)⟩

/-! ## What a scheduler's fault, and what reaches a parked strand, can change -/

@[simp] theorem State.cutTile_strands (s : State) (p : PartId) (t : Nat) : (s.cutTile p t).strands = s.strands := rfl
@[simp] theorem State.cutTile_parts (s : State) (p : PartId) (t : Nat) : (s.cutTile p t).parts = s.parts := rfl
@[simp] theorem State.cutTile_ctxs (s : State) (p : PartId) (t : Nat) : (s.cutTile p t).ctxs = s.ctxs := rfl

/-- Cutting the tasks of a tile changes what contexts own on tiles, and nothing else (17 R354). -/
theorem State.cutTile_frame (s : State) (p : PartId) (t : Nat) : { s.cutTile p t with tctx := s.tctx } = s := rfl

/-- A scheduler's fault changes strands, partitions, contexts and tasks only (09 R215; 17 R344, R354). -/
theorem schedFault_frame (tc : TileCtx) (f : Flt) (k txn : Nat) (pc : Pc) (s : State) :
    { (schedFault tc f k txn pc s).rest with tctx := s.tctx } = s.rest := by
  have h := State.rest_unitFault s tc.ctx.part (.sched tc.t) { f with lowt := s.lowtOf txn } k pc 0
  have e : { (schedFault tc f k txn pc s).rest with tctx := s.tctx } =
      { (s.unitFault tc.ctx.part (.sched tc.t) { f with lowt := s.lowtOf txn } k pc 0).rest with tctx := s.tctx } := rfl
  rw [e, h]
  rfl

/-- Strands that a branch or a full quota parked: only strands change (02 R51, R53). -/
theorem State.unparkBranch_frame (s : State) (k : Nat) : { s.unparkBranch k with strands := s.strands } = s := by
  unfold State.unparkBranch
  split
  · rfl
  · split <;> rfl

theorem State.unparkQuota_frame (s : State) (l : LaneId) : { s.unparkQuota l with strands := s.strands } = s := rfl

/-! ## Reads by units (18 R363; 10 R248) -/

/-- A unit that reads has found nothing pending on the words, and none of them under test. -/
theorem unitRead_settled {size sel : Nat} {ks : List (Nat × Home)} {p : PartId} {s : State} {r : State × Option Nat}
    (h : unitRead size ks sel p s = some r) : placesSettled s size ks = true ∧ ∀ k ∈ ks, s.testing (.word (lineKey k.1)) = false := by
  unfold unitRead at h
  dsimp only at h
  split at h
  · cases h
  · rename_i hc
    simp only [Bool.or_eq_true, not_or, Bool.not_eq_true, Bool.not_eq_false', List.any_eq_false] at hc
    refine ⟨hc.2, fun k hk => ?_⟩
    have := hc.1 (.word (lineKey k.1)) (List.mem_eraseDups.2 (List.mem_map.2 ⟨k, hk, rfl⟩))
    simpa using this

/-- With nothing pending and nothing under test it does read. -/
theorem unitRead_isSome {size sel : Nat} {ks : List (Nat × Home)} {p : PartId} {s : State} (h : placesSettled s size ks = true)
    (ht : ∀ k ∈ ks, s.testing (.word (lineKey k.1)) = false) : (unitRead size ks sel p s).isSome = true := by
  unfold unitRead
  dsimp only
  split
  · rename_i hc
    simp only [h, Bool.not_true, Bool.or_false, List.any_eq_true] at hc
    obtain ⟨x, hx, hb⟩ := hc
    obtain ⟨k, hk, rfl⟩ := List.mem_map.1 (List.mem_eraseDups.1 hx)
    simp [ht k hk] at hb
  · split <;> rfl

end Sys2Proof.Machine
end

