-- ==== Sys2Proof/Tests/Slice0.lean ====
section
/-! SUPPORT. Tests of this model on single words and single steps, and for every statement concrete states and operands that meet its
hypotheses. Expected values come from the spec's encodings and worked examples, or from hand calculation. -/

namespace Sys2Proof.Tests

set_option Elab.async false

open Sys2Proof Sys2Proof.Machine Sys2Proof.Safety Sys2Proof.Claims

/-- No clause. -/
def h0 : Hdr := { after := 0, wait := 0, setf := none, neg := false, pred := 0 }

/-- The issue that `Performs` speaks of, computed. -/
def performOf (i : Instr) (s : State) : Option (Iss × State) :=
  match issueOf i s with
  | none => none
  | some y =>
    if mayIssue s y.st y.h y.pc y.t0 && (r96 s i y.sh y.st).isNone then
      match plan s y with
      | .inPlace x _ =>
        if s.healthy x.st.part.pkg && !x.act.isEmpty && x.boundPorts then
          match popAll x.st.ctx x.st.qpb x.requests (advance x s) [] with
          | some (s1, pops) => if x.room s1 then some ({ x with pops := pops }, s1) else none
          | none => none
        else none
      | _ => none
    else none

theorem performOf_sound {i : Instr} {s s1 : State} {y : Iss} (h : performOf i s = some (y, s1)) : Performs i s y s1 := by
  unfold performOf at h
  cases h1 : issueOf i s with
  | none => simp [h1] at h
  | some x =>
    simp only [h1] at h
    split at h
    · rename_i hc
      simp only [Bool.and_eq_true, Option.isNone_iff_eq_none] at hc
      split at h
      · rename_i z c hz
        split at h
        · rename_i hd
          split at h
          · rename_i s2 pops hp
            split at h
            · rename_i hr
              simp only [Option.some.injEq, Prod.mk.injEq] at h
              obtain ⟨rfl, rfl⟩ := h
              simp only [Bool.and_eq_true, Bool.not_eq_true', List.isEmpty_eq_false_iff] at hd
              exact ⟨z, pops, ⟨x, c, h1, hc.1, hc.2, hz, hd.1.1⟩, hd.1.2, hd.2, hp, hr, rfl⟩
            · cases h
          · cases h
        · cases h
      · cases h
    · cases h

/-- The word of an instruction in slot 0 of a line of one strand, which is the current one. -/
def ready (i : Instr) : State :=
  match encode i with
  | some w => let s := placeWord w State.reset; { s with agenda := [], cur := s.uid }
  | none => State.reset

def performs (i : Instr) : Bool := (performOf i (ready i)).isSome

/-- Where `performs` holds, the hypothesis of a statement about the instruction is met. -/
theorem met {i : Instr} (h : performs i = true) : ∃ s y s1, Performs i s y s1 := by
  unfold performs at h
  cases hp : performOf i (ready i) with
  | none => simp [hp] at h
  | some p => exact ⟨_, _, _, performOf_sound hp⟩

/-- The current strand of `s`, changed. -/
def withStrand (f : Strand → Strand) (s : State) : State := s.modStrand s.cur f

/-- Registers of the current strand. -/
def withRegs (ws : List (Nat × Nat)) : State → State :=
  withStrand (fun st => { st with regs := ws.map (fun w => ⟨0, w.1, BitVec.ofNat 32 w.2, 0⟩) ++ st.regs })

/-- The instruction performs in `s`, and `p` holds of its issue and of the state with its PCs advanced. -/
def meets (i : Instr) (s : State) (p : Iss → State → Bool) : Bool :=
  match performOf i s with
  | some (y, s1) => p y s1
  | none => false

theorem meets_sound {i : Instr} {s : State} {p : Iss → State → Bool} (h : meets i s p = true) :
    ∃ y s1, Performs i s y s1 ∧ p y s1 = true := by
  unfold meets at h
  cases hp : performOf i s with
  | none => simp [hp] at h
  | some q => exact ⟨q.1, q.2, performOf_sound hp, by simpa [hp] using h⟩

/-! ## Decoding: words written out from the encodings of 04 R89 to R94, low word first -/

def slot96 (w0 w1 w2 : Nat) : Slot := BitVec.ofNat 96 (w0 + w1 * 2 ^ 32 + w2 * 2 ^ 64)

def decodesTo (w : Slot) (i : Instr) : Bool :=
  match decode w with
  | .ok j => j == i
  | .error _ => false

def hd (after : Nat) : Hdr := { h0 with after := BitVec.ofNat 4 after }

/-- One word for every group of opcodes, from the worked encodings of 01, 02, 04 to 09 and 13. -/
theorem test_decode_words : [
    (slot96 0x00000000 0x30BC0008 0x1480003C, Instr.movi h0 (.u 2) 0x00200000 0),
    (slot96 0x01800000 0x00000002 0x0180003C, .bpend h0 2 0 (.v 12) false 0),
    (slot96 0x40000000 0x3FFFFFFD 0x0040003C, .bra h0 (BitVec.ofInt 30 (-3)) 2),
    (slot96 0x00000000 0x3C3C3C3C 0x0240003C, .idem h0),
    (slot96 0x00000000 0x3C3C3C3C 0x01C0003C, .exit h0),
    (slot96 0x00000000 0x0100C17C 0x1114003C, .imul (hd 5) (.v 4) (.v 3) (.v 5) .i32 false),
    (slot96 0x00248000 0x3271737C 0x1094003C, .iaddc (hd 5) (.u 9) (.u 5) (.u 13) true 1 1),
    (slot96 0x00020000 0x0140BC3C 0x3200003C, .scan h0 (.v 5) (.v 2) .i32 .rne false 0 true false 0),
    (slot96 0x34200000 0x0402317C 0x6094003C, .blkpack (hd 5) (.v 16) (.v 8) (.u 5) .q4x .rne false true false),
    (slot96 0x00002400 0x0070BC40 0x7040003C,
      .st h0 (.v 1) { base := .u 2, idx := .tix, off := 0, sc := 2 } .n32 { ord := 0, scope := .dflt, cp := 0, free := false }),
    (slot96 0 0x7C3C3C3C 0x90D4003C, .bard { hd 5 with pred := 1 } 0),
    (slot96 0x0C000000 0x03BDBC00 0xB1400010, .accrd { h0 with setf := some 4 } (.v 14) .tile .zero 0 .i64 .rne false false 0),
    (slot96 0 0x3C3DBC00 0xC0C00210, .ssig { h0 with setf := some 4, wait := 8 } .tile false 0 false),
    (slot96 0 0x00FC3C00 0xC140003C, .coll h0 (.v 3) 0),
    (slot96 0x00000000 0x31317C3C 0xE100003C, .errlog h0 (.u 4) (.u 5) false)].all (fun p => decodesTo p.1 p.2) = true := by
  decide +kernel

/-- A slot laid out field by field: OP [95:86], AFTER [85:82], no WAIT, SETF 15, PRED k0, four bytes of the body, and bits [29:0]. -/
def slotBits (op after d a b c lo : Nat) : Slot :=
  BitVec.ofNat 96 (op * 2 ^ 86 + after * 2 ^ 82 + 15 * 2 ^ 66 + d * 2 ^ 54 + a * 2 ^ 46 + b * 2 ^ 38 + c * 2 ^ 30 + lo)

/-- Words for the other groups, laid out from 04 R89 to R94 with the fields of 06 R137 and R144, 08 R200 and R207, 09 R219 and 07 R183. -/
theorem test_decode_fields : [
    (slotBits 0x080 5 1 0xC2 3 0xF0 0, Instr.and (hd 5) (.v 1) (.u 2) (.v 3)),
    (slotBits 0x103 2 1 2 3 4 (8 * 2 ^ 26 + 3 * 2 ^ 23 + 2 ^ 22), .ffma (hd 2) (.v 1) (.v 2) (.v 3) (.v 4) .f32 .ru true),
    (slotBits 0x140 0 1 2 0xF0 0xF0 (8 * 2 ^ 26), .frcp h0 (.v 1) (.v 2)),
    (slotBits 0x200 0 6 0xC2 0xF1 0 (2 ^ 14 * 8 + 2 * 2 ^ 12 + 2 * 2 ^ 4 + 3 * 4 + 2),
      .atom h0 (.v 6) { base := .u 2, idx := .tix, off := 8, sc := 2 } .i32 2 { ord := 3, scp := 2 }),
    (slotBits 0x340 0 8 0xC4 12 0xF0 0, .rand h0 (.v 8) (.u 4) (.v 12)),
    (slotBits 0x282 0 0xF0 0xC3 0xF0 0xF0 (9 * 2 ^ 16), .brel h0 (.u 3) 9)].all (fun p => decodesTo p.1 p.2) = true := by
  decide +kernel

/-- The line of the worked program of 04: its slots, its TGT mark, and the parity of every slot. -/
theorem test_worked_line :
    let line : Line := BitVec.ofNat 512 (0x00001B21 + (0x1480003C30BC000800000000 * 2 ^ 32) + (0x1480003C30FC000000000000 * 2 ^ 128)
      + (0x1000003C007C7C7C00000000 * 2 ^ 224) + (0x7040003C0070BC4000002400 * 2 ^ 320) + (0x01C0003C3C3C3C3C00000000 * 2 ^ 416))
    lineOk line = true ∧ decodesTo (slotOf line 2) (.iadd h0 (.v 1) .tix .tix .i32 false) = true ∧
      decodesTo (slotOf line 4) (.exit h0) = true ∧ line.getLsbD 0 = true ∧ line.getLsbD 1 = false := by
  decide +kernel

/-- Words that are no instruction (04 R90 to R94): an unassigned opcode, group 0xF, a reserved type code, a shared field that is not
zero, an unused operand field that is not 0xF0, an operand code that names nothing, SETF 12. -/
theorem test_decode_refuses : [
    slotBits 0x011 0 0xF0 0xF0 0xF0 0xF0 0, slotBits 0x3C0 0 0xF0 0xF0 0xF0 0xF0 0, slotBits 0x040 0 1 2 3 0xF0 (14 * 2 ^ 26),
    slotBits 0x080 0 1 2 3 0xF0 (2 ^ 22), slotBits 0x080 0 1 2 3 4 0, slotBits 0x080 0 1 0xF7 3 0xF0 0,
    slotBits 0x080 0 1 2 3 0xF0 0 - (3#96 <<< 66)].all (fun w => match decode w with
      | .ok _ => false
      | .error _ => true) = true := by
  decide +kernel

/-! ## Well-formedness: an ill-formed term for each check -/

def word1 : Addr := { base := .u 2, idx := .zero, off := 0, sc := 0 }
def plainMods : MemMod := { ord := 0, scope := .dflt, cp := 0, free := false }

/-- 01 R15, R20, R21; 04 R89, R93: k0 negated; a uniform destination of a per-thread instruction; a per-thread source of a once-only one;
an odd pair; a pair past s47; a scaled index that is none. -/
theorem test_wf_refuses_forms : [
    Instr.iadd { h0 with neg := true } (.v 1) (.v 2) (.v 3) .i32 false,
    .iadd h0 (.u 1) (.v 2) (.v 3) .i32 false,
    .launch h0 (.u 1) (.v 2) (.u 3),
    .iadd64 h0 (.v 4) (.v 1) (.v 2) false,
    .rand h0 (.v 1) (.u 46) (.v 4),
    .lea h0 (.v 2) { base := .u 2, idx := .zero, off := 0, sc := 1 },
    .ldu h0 (.v 1) word1 .i32 plainMods,
    .matchT h0 (.u 1) (.v 2) false 1 false].all (fun i => !i.wf) = true := by decide +kernel

/-- The limits that the descriptions of 05 to 09 add (04 R96 row 4), one term for each. -/
theorem test_wf_refuses_limits : [
    Instr.mode h0 (.u 1) 4 0x2200, .mode h0 (.u 1) 0 0x8000, .mode h0 (.u 1) 8 0x40000, .bpend h0 1 0 .zero true 0,
    .iadd h0 (.v 1) (.v 2) (.v 3) .f32 false, .imulh h0 (.v 1) (.v 2) (.v 3) .i8, .iaddc h0 (.v 1) (.v 2) (.v 3) false 1 1,
    .isad h0 (.v 1) (.v 2) (.v 3) (.v 4) .i16, .idot4 h0 (.v 1) (.v 2) (.v 3) (.v 4) .i32 false false,
    .ireq h0 (.v 1) (.v 2) (.v 3) .i64 .rne false false false, .movi h0 (.v 1) 0 3, .movx h0 (.v 1) .tix (.v 2) false,
    .movxw h0 (.v 2) (.v 3) (.v 4) false, .bfe h0 (.v 1) (.v 2) (.v 3) .f32, .lop3 h0 (.v 1) (.v 2) (.v 3) (.v 4) 0 false 1,
    .icmp h0 (.v 1) (.v 2) .f32 1 .eq 0 0, .icmp h0 (.v 1) (.v 2) .i32 1 .un 0 0, .fcmp h0 (.v 1) (.v 2) 1 .eq 0 1,
    .pmov h0 (.v 1) (.v 2) true 1, .vote h0 .zero 0 1 false 0, .shfl h0 (.v 1) (.v 2) (.v 3) (.v 4) 0 1 false false,
    .redux h0 (.v 1) (.v 2) .i32 .rne false 9 false 0, .scan h0 (.v 1) (.v 2) .i32 .rne false 0 false false 1,
    .fadd h0 (.v 1) (.v 2) (.v 3) .i32 .rne false, .fclass h0 (.v 1) (.v 2) .zero .f32 true 1, .fdot2 h0 (.v 1) (.v 2) (.v 3) (.v 4) .f32 .rne false,
    .cvt h0 (.v 1) (.v 2) .zero .f32 .f32 .rne false 0, .cvt h0 (.v 1) (.v 2) (.v 3) .f32 .f16x2 .rne false 0,
    .cvtef h0 (.v 1) (.v 2) (.v 1) .zero .f16x2 false 0, .cvtsr h0 (.v 1) (.v 2) (.v 3) .zero .f16x2 false 2,
    .blkpack h0 (.v 1) (.v 2) (.u 1) .i8 .rne false true false, .blkscl h0 (.v 1) (.v 2) (.u 1) false .f32 false false].all
      (fun i => !i.wf) = true := by decide +kernel

theorem test_wf_refuses_memory_limits : [
    Instr.ld h0 (.v 1) word1 .q4x plainMods, .ld h0 (.v 1) word1 .i32 { plainMods with ord := 2 }, .ld h0 (.v 1) word1 .i32 { plainMods with cp := 3 },
    .st h0 (.v 1) word1 .i32 { plainMods with ord := 1 }, .ldb h0 (.v 1) word1 .i16 plainMods,
    .ld h0 (.v 1) word1 .i32 { plainMods with free := true, scope := .tile }, .atom h0 (.v 1) word1 .i32 1 { ord := 0, scp := 0 },
    .red h0 (.v 1) word1 .i32 2 { ord := 1, scp := 0 }, .cas h0 (.v 2) word1 .i8 { ord := 0, scp := 0 }, .fence h0 0 .dflt,
    .watch h0 (.u 4) word1 .f32 0 0, .doze h0 .zero .zero 0, .unwatch h0 0, .qcfg h0 (.u 1) (.u 2) 0 false, .qstat h0 (.v 1) (.v 2),
    .bset h0 (.u 1) (.u 2) 0 0 false, .oclaim h0 .zero (.u 2) 0 true, .oput h0 .zero (.u 1) (.u 2) 0 false, .accz h0 (.u 1) 0 3,
    .accrd h0 (.v 4) (.u 1) (.u 2) 0 .n32 .rne false false 0, .accwr h0 (.v 4) (.u 1) (.u 2) 0 .f16x2 0, .twait h0 (.u 1) 1 true,
    .sfill h0 (.u 1) (.u 2) false 0 0 true 15 1, .sdrain h0 (.u 1) (.u 2) false 0 0 63 1, .qfence h0 false false 0,
    .cseq h0 (.u 1) (.u 2) .zero 0 true false, .ewait h0 .zero (.u 1) (.u 2) 0 0, .rand h0 (.v 5) (.u 4) (.v 4),
    .errlog h0 (.u 1) .zero true, .tlbinv h0 (.u 2) false false].all (fun i => !i.wf) = true := by decide +kernel

/-! ## The register instructions: each issues from the state that a placed word gives -/

/-- IntegerArithmetic: every instruction, in both word types, on elements, and in a uniform form. -/
theorem witness_integer : [
    Instr.iadd h0 (.v 4) (.v 2) (.v 3) .i32 true, .iadd h0 (.u 4) (.u 2) (.u 3) .n32 false, .isub h0 (.v 4) (.v 2) .tix .n32 true,
    .imul h0 (.v 4) (.v 2) (.u 3) .i32 false, .imad h0 (.v 4) (.v 2) (.v 3) (.v 5) .i32 true, .imin h0 (.v 4) (.v 2) (.v 3) .n32,
    .imax h0 (.v 4) (.v 2) (.v 3) .i32, .iabs h0 (.v 4) (.v 2) true, .ineg h0 (.v 4) (.v 2) false, .imulh h0 (.v 4) (.v 2) (.v 3) .i32,
    .imadw h0 (.v 4) (.v 2) (.v 3) (.v 6) .n32, .isad h0 (.v 4) (.v 2) (.v 3) (.v 5) .i32, .isad h0 (.v 4) (.v 2) (.v 3) (.v 5) .i8,
    .isad h0 (.v 4) (.v 2) (.v 3) (.v 5) .n8, .iaddc h0 (.v 4) (.v 2) (.v 3) true 1 2, .isubb h0 (.u 4) (.u 2) (.u 3) false 0 2,
    .iadd64 h0 (.v 4) (.v 2) (.v 6) false, .idot4 h0 (.v 4) (.v 2) (.v 3) (.v 5) .i8 false true,
    .idot4 h0 (.v 4) (.v 2) (.v 3) (.v 5) .n8 true false, .ireq h0 (.v 4) (.v 2) (.v 3) .i8 .dyn true true false,
    .ireq h0 (.v 4) (.v 2) (.v 3) .n32 .rne false false true, .iadd h0 .zero (.v 2) (.v 3) .i32 false].all performs = true := by
  decide +kernel

/-- LogicAndPredicates. -/
theorem witness_logic : [
    Instr.and h0 (.v 4) (.v 2) (.v 3), .or h0 (.v 4) (.v 2) (.v 3), .xor h0 (.v 4) (.v 2) (.v 3), .not h0 (.v 4) (.v 2),
    .andn h0 (.u 4) (.u 2) (.u 3), .lop3 h0 (.v 4) (.v 2) (.v 3) (.v 5) 0xCA true 1, .shl h0 (.v 4) (.v 2) (.v 3) true,
    .shr h0 (.v 4) (.v 2) (.v 3) false, .sar h0 (.v 4) (.v 2) (.v 3) false, .rol h0 (.v 4) (.v 2) (.v 3),
    .fshl h0 (.v 4) (.v 2) (.v 3) (.v 5) true, .bfe h0 (.v 4) (.v 2) (.v 3) .i32, .bfe h0 (.v 4) (.v 2) (.v 3) .n32,
    .bfi h0 (.v 4) (.v 2) (.v 3) (.v 5), .popc h0 (.v 4) (.v 2) true, .clz h0 (.v 4) (.v 2) false, .ctz h0 (.v 4) (.v 2) true,
    .brev h0 (.v 4) (.v 2), .prmt h0 (.v 4) (.v 2) (.v 3) (.v 5), .icmp h0 (.v 2) (.v 3) .i32 1 .lt 0 0, .icmp h0 (.v 2) (.v 4) .n64 1 .ge 3 2,
    .fcmp h0 (.v 2) (.v 3) 1 .un 1 2, .sel h0 (.v 4) (.v 2) (.v 6) true true 1, .pset h0 1 2 3 4 0xE8 true, .pset h0 1 2 3 4 0xE8 false,
    .pmov h0 .zero (.v 2) true 1, .pmov h0 (.v 4) .zero false 1].all performs = true := by decide +kernel

/-- StrandWide. -/
theorem witness_strand_wide : [
    Instr.vote h0 (.v 4) 0 1 false 0, .vote h0 (.u 4) 4 1 true 2, .shfl h0 (.v 4) (.v 2) (.v 3) .zero 3 1 false false,
    .shfl h0 (.v 4) (.v 2) (.v 3) (.v 6) 2 1 true true, .redux h0 (.u 4) (.v 2) .f32 .rne false 6 false 0,
    .redux h0 (.v 4) (.v 2) .i32 .rne true 0 true 1, .scan h0 (.v 4) (.v 2) .n32 .rne false 1 true true 1,
    .matchT h0 (.v 4) (.v 2) true 1 true].all performs = true := by decide +kernel

/-- FloatResults and SpecialAndConversions. -/
theorem witness_float : [
    Instr.fadd h0 (.v 4) (.v 2) (.v 3) .f32 .dyn true, .fsub h0 (.v 4) (.v 2) (.v 3) .f16x2 .rz false, .fmul h0 (.v 4) (.v 2) (.v 3) .bf16x2 .rd false,
    .ffma h0 (.v 4) (.v 2) (.v 3) (.v 5) .f32 .ru false, .fmin h0 (.v 4) (.v 2) (.v 3) .f16x2, .fmax h0 (.v 4) (.v 2) (.v 3) .f32,
    .fscale h0 (.v 4) (.v 2) (.v 3) .bf16x2 .rne true, .frnd h0 (.v 4) (.v 2) .f32 .rd, .fclass h0 .zero (.v 2) (.u 3) .f32 true 1,
    .fclass h0 (.v 4) (.v 2) .zero .f32 false 0, .fclass h0 (.v 4) (.v 2) .zero .f16x2 false 0, .fclass h0 (.v 4) (.v 2) .zero .bf16x2 false 0,
    .fdot2 h0 (.v 4) (.v 2) (.v 3) (.v 5) .f16x2 .rne false, .frcp h0 (.v 4) (.v 2), .frsq h0 (.v 4) (.v 2), .fsqrt h0 (.v 4) (.v 2) .ru true,
    .fexp2 h0 (.v 4) (.v 2), .flog2 h0 (.v 4) (.v 2), .fsinp h0 (.v 4) (.v 2), .fcosp h0 (.v 4) (.v 2),
    .cvt h0 (.v 4) (.v 2) (.v 3) .f16x2 .f32 .rne true 1, .cvt h0 (.v 4) (.v 2) .zero .f32 .e4m3 .rne false 3,
    .cvt h0 (.v 4) (.v 2) .zero .f32 .i32 .rz false 0, .cvtef h0 (.v 4) (.v 2) (.v 6) (.v 3) .e5m2 true 2,
    .cvtsr h0 (.v 4) (.v 2) (.v 6) (.v 3) .bf16x2 false 1].all performs = true := by decide +kernel

/-- Header word of a block in v2 of thread 0, and the word in u5. -/
def blockState (hdr arg : Nat) (i : Instr) : State := withRegs [(vecKey 2 0, hdr), (uniKey 5, arg)] (ready i)

/-- BlockInstructions: each completes on a block of format 1 (a scale of 1), and the consumers meet a header that none decodes, at the
first and the last of the codes 7 to 0x3E and at 0. -/
theorem witness_blocks :
    ([Instr.blkh h0 (.v 4) (.v 2), .blkhw h0 (.v 16) (.v 2) (.u 5) false, .blkpack h0 (.v 16) (.v 2) (.u 5) .q4x .rne true true false,
      .blkunp h0 (.v 16) (.v 2) 7 .rne true, .blkscl h0 (.v 16) (.v 2) (.u 5) false .i32 true false,
      .blkscl h0 (.v 4) (.v 2) .zero true .e4m3 false false].all (fun i => meets i (blockState 0x8001 0x8001 i) (fun _ _ => true)) &&
    [0, 7, 0x3E].all (fun f => [Instr.blkhw h0 (.v 16) (.v 2) (.u 5) true, .blkunp h0 (.v 16) (.v 2) 7 .rne true,
      .blkscl h0 (.v 16) (.v 2) (.u 5) false .i32 true false].all (fun i => meets i (blockState f f i) (fun _ _ => true))) &&
    [1, 6, 0x3F].all (fun f => let i := Instr.blkhw h0 (.v 16) (.v 2) (.u 5) true
      meets i (blockState f f i) (fun y s1 => (readThread s1 y 0).bw == BitVec.ofNat 32 f))) = true := by decide +kernel

/-- SpecialBounds: integers at the ends of FEXP2's exact rows, halves, reciprocals at both sides of the largest, and operands for which
each approximation is there: for FLOG2 also on both sides of 1. -/
theorem witness_special_bounds :
    let fin (w : Nat) (p : Exact → Bool) : Bool := match fp32.decode w with
      | .fin x => p x
      | _ => false
    [[-149, -127, -126, 127, -128].all (fun (n : Int) => fin (fp32.arith .rne false (FVal.ofInt n)) (fun x => x.int? == some n)),
      [(0x3F000000, 1), (0xBFC00000, -3)].all (fun q => fin q.1 (fun x => x.int? == none && (x.scale 1).int? == some q.2)),
      [(1, true), (0x40400000, false), (0x80000001, true)].all (fun q => fin q.1 (fun x => fp32.beyond 1 (Exact.div ⟨1, 1, 0⟩ x).binade == q.2)),
      [0x3F000000, 0xC2FC0001].all (fun w => fin w (fun x => x.int? == none && decide (x.toInteger .rd < 128 ∧ -151 < x.toInteger .ru) &&
        (exp2Approx x).isSome)),
      [(0x40400000, 1), (0x3F400000, -1), (0x3FC00000, 0)].all (fun q => fin q.1 (fun x => decide (0 < x.num) && x.pow2? == none && x.binade == q.2 &&
        (log2Approx x).isSome)),
      [0x3E800000, 0xBE000000].all (fun w => fin w (fun x => x.int? == none && (x.scale 1).int? == none &&
        ((x.sub ⟨nearestInt x, 1, 0⟩).bind sinPiApprox).isSome))].all id = true := by
  decide +kernel

/-- ConversionRules: a pair of types of each kind, with a value in the range of the integer, above and below it; a value on the grid and one
between two steps. BlockRules: templates and headers at their ends, words that fit a format, that are all zero and that hold a NaN. -/
theorem witness_rules :
    [Ty.isInt .f16x2 == false && Ty.isInt .f32 == false && Ty.isInt .i8 == true && Ty.isInt .e4m3 == false,
      [0x3F800000, 0x3F800001].all (fun w => match fp32.decode w with
        | .fin x => decide (0 < x.den ∧ x.num ≠ 0)
        | _ => false),
      [(0x42FE0000, 127), (0x43000000, 128), (0xC3010000, -129)].all (fun q => match fp32.decode q.1 with
        | .fin x => x.toInteger .rne == q.2
        | _ => false),
      [0, 6, 7, 0x3E].all (fun f => (decodeBlock (BitVec.ofNat 512 (0x8000 + f))).isNone == (f == 0 || decide (7 ≤ f))),
      [(1, 254, -253), (1, 1, 253), (1, 254, 1), (1, 1, -1)].all (fun (q : Nat × Nat × Int) =>
        (blkAdjust (BitVec.ofNat 512 (q.2.1 * 2 ^ 8 + q.1)) q.2.2 true).isSome),
      (List.replicate 128 (0 : Word)).length == 16 * PackFmt.regs .q4x,
      [(0, false), (0x3F800000, true), (0x7FC00000, false)].all (fun q => match fp32.decode q.1 with
        | .fin _ => q.2
        | v => !q.2 && (v.isNan || v == .zero false))].all id = true := by
  decide +kernel

/-- Moves: LEA, the moves and immediates; MOVX within the declared registers at the last of them, and past them. -/
theorem witness_moves :
    ([Instr.lea h0 (.v 4) { base := .u 2, idx := .v 1, off := 0xFFFFF8, sc := 3 }, .mov h0 (.v 4) (.v 2) true, .movi h0 (.v 4) 5 0,
      .movi h0 (.v 4) 0xFFFFFFFF 1, .movi h0 (.u 4) 0xFFFFFFFF 2].all performs &&
    [(Instr.movx h0 (.v 4) (.v 190) (.u 5) false, 1, true), (.movx h0 (.v 4) (.v 190) (.u 5) false, 2, false),
      (.movx h0 (.v 4) (.v 190) (.u 5) true, 187, true), (.movx h0 (.v 4) (.v 190) (.u 5) true, 188, false),
      (.movxw h0 (.v 4) (.v 188) (.u 5) false, 1, true), (.movxw h0 (.v 4) (.v 188) (.u 5) false, 2, false),
      (.movx h0 (.u 4) (.u 40) (.u 5) false, 7, true), (.movx h0 (.u 4) (.u 40) (.u 5) false, 8, false)].all (fun q =>
        meets q.1 (withRegs [(uniKey 5, q.2.1)] (ready q.1)) (fun y s1 =>
          let (base, wide) := match q.1 with
            | .movx _ d a _ wr => (if wr then d else a, false)
            | .movxw _ d a _ wr => (if wr then d else a, true)
            | _ => (.zero, false)
          let n := Opd.num base + (if wide then 2 else 1) * (readThread s1 y y.lead).bw.toNat + (if wide then 1 else 0)
          decide (n < if Opd.isVec base then y.st.vregs else y.st.uregs) == q.2.2 &&
            (!q.2.2 || linesHeld s1 y.k y.st (movxLines wide base (y.poppers.map (fun t => readThread s1 y t))))))) = true := by
  decide +kernel

/-! ## Control flow -/

/-- The target is one (04 R85). -/
def isTarget (s : State) (st : Strand) (pc : Pc) : Bool :=
  decide (pc.toNat % 8 < 5) && (match s.fetched st pc with
    | some f => f.data.getLsbD (pc.toNat % 8)
    | none => false)

/-- Every thread of the strand, changed. -/
def withThreads (f : Thread → Thread) : State → State := withStrand (fun st => { st with threads := st.threads.map f })

def onStack (d inLane : Nat) (pc : Pc) : State → State :=
  withThreads (fun th => { th with stack := List.replicate d pc, depth := d, inLane := inLane })

/-- Branching: each branch to slot 0 of its own line, the one target that `placeWord` marks; the deepest push; RET with one entry. -/
theorem witness_branches : [
    performs (.nop h0),
    [Instr.bra h0 0 0, .call h0 0 0, .bpend h0 0 0 (.v 2) true 0, .bpend h0 0 0 .zero false 0xFFF].all (fun i =>
      meets i (onStack 63 4 0 (ready i)) (fun y s1 => isTarget s1 y.st y.pc && y.act.all (fun t => decide ((y.st.thread t).depth < 64)))),
    [Instr.brx h0 (.u 2), .brx h0 (.v 2), .callx h0 (.v 2)].all (fun i => meets i (ready i) (fun y s1 =>
      y.act.all (fun t => let v := (readThread s1 y t).a; v == 0 && isTarget s1 y.st (v.truncate 56)))),
    meets (.ret h0) (onStack 1 1 4 (ready (.ret h0))) (fun y _ => y.act.all (fun t =>
      (y.st.thread t).depth != 0 && (y.st.thread t).inLane != 0 && decide ((y.st.thread t).topPc.toNat % 8 < 5)))].all id = true := by
  decide +kernel

/-- The faults of branches: a slot of 5, an unmarked slot, a register above 2^56 or with a bit of [5:3], a full and an empty stack. -/
theorem witness_branch_faults : [
    [Instr.bra h0 0 5, .call h0 0 7, .bpend h0 0 5 (.v 2) true 0].all performs,
    [Instr.bra h0 0 1, .call h0 0 4, .bpend h0 0 1 (.v 2) true 0].all (fun i => meets i (ready i) (fun y s1 =>
      (s1.fetched y.st y.pc).isSome && !isTarget s1 y.st 1 && !isTarget s1 y.st 4)),
    [(2 ^ 24, 0), (0, 8), (0, 32), (0, 5), (0, 4)].all (fun v => [Instr.brx h0 (.v 2), .callx h0 (.v 2)].all (fun i =>
      meets i (withRegs [(vecKey 3 1, v.1), (vecKey 2 1, v.2)] (ready i)) (fun y s1 =>
        (readThread s1 y 0).a == 0 && y.act.take 2 == [0, 1] && (readThread s1 y 1).a == BitVec.ofNat 64 (v.1 * 2 ^ 32 + v.2)))),
    meets (.call h0 0 0) (onStack 64 4 0 (ready (.call h0 0 0))) (fun y s1 => isTarget s1 y.st 0 && (y.st.thread 0).depth == 64),
    meets (.ret h0) (ready (.ret h0)) (fun y _ => (y.st.thread 0).depth == 0),
    meets (.ret h0) (onStack 1 1 5 (ready (.ret h0))) (fun y _ => (y.st.thread 0).topPc.toNat % 8 == 5)].all id = true := by
  decide +kernel

/-- A store to an SHB page that is on its way. -/
def shbOp : Op :=
  { txn := 9, strand := 2, gen := 1, ctx := ⟨homePart, 0⟩, tile := 0, thread := 3, pc := 0, va := 0x400, addr := 0x400, home := devHome 0 0x400
    size := 4, ty := .i32, opr := 1, shb := true }

/-- StrandControl: EXIT of one thread, of the last, and of the last of a strand that its mallet keeps from ending; both kinds of YIELD, and
the rest; JOIN of a band it is in, of one it is not, and of a fifth; LEAVE of a band it is not in, of one, and of one that a thread waits
for. -/
theorem witness_strand_control : [
    meets (.exit { h0 with pred := 1 }) (withRegs [(predKey 1 3, 1)] (ready (.exit { h0 with pred := 1 }))) (fun y _ => y.act == [3]),
    [false, true].all (fun held => meets (.exit h0) (let s := withStrand (fun st => { st with hold := held }) (ready (.exit h0))
      { s with ops := [(7, shbOp)] }) (fun y s1 => y.act.length == 16 &&
      mayEnd (s1.modStrand y.k (fun st => { st with threads := st.threads.map (fun th => { th with st := .exited }) })) y.k == !held)),
    [false, true].all (fun b => meets (.yield h0) (withStrand (fun st => { st with knell := b }) (ready (.yield h0))) (fun y _ => y.st.knell == b)),
    [Instr.idem h0, .nap h0 .zero 0, .nap h0 (.v 2) 7, .mode h0 (.u 2) 31 0xBE000, .mode h0 .zero 1 0x8000].all performs,
    [[], [1, 2, 4], [3], [1, 2, 4, 3], [1, 2, 4, 5]].all (fun bs => meets (.join h0 (.u 2) 3) (withStrand (fun st => { st with bands := bs }) (ready (.join h0 (.u 2) 3)))
      (fun y _ => y.st.bands == bs)),
    [(([] : List Nat), false), ([3], false), ([3], true)].all (fun q => let i := Instr.leave { h0 with pred := 1 } 3
      meets i (withRegs [(predKey 1 3, 1)] (withStrand (fun st => { st with
          bands := q.1
          threads := st.threads.mapIdx (fun t th => if q.2 && t == 5 then { th with st := .parked, park := .barw, psel := 3 } else th) }) (ready i)))
        (fun y _ => y.st.bands == q.1 && y.st.threads.any (fun th => th.st == .parked && th.park == .barw && th.psel == 3) == q.2))].all id = true := by
  decide +kernel

/-- StrandLife: a strand of two in its launch that holds the mallet, in a band alone and with another; its end kept back and free. -/
theorem witness_strand_life :
    let s0 := ready (.nop h0)
    let two (s : State) : State := match s.strand s.cur with
      | some st => { s with
          strands := [(s.cur, { st with hold := true, bands := [3] }), (9, { st with sid := st.sid + 1, slot := 1 })]
          launches := s.launches.map (fun l => (l.1, { l.2 with
            live := [s.cur, 9], mallet := some st.sid, bands := [(3, { members := [s.cur] }), (4, { members := [9] })] })) }
      | none => s
    let s := two s0
    (match s.strand s.cur with
      | some st => match aget s.launches st.launch with
        | some l => st.watch.length == 4 && st.hold && (nextHolder (liveSids s l) st.sid).map (fun p => p.2) == some 9 && (s.strand 9).isSome &&
            (s.bandOf st.launch 3).members == [s.cur] && (s.bandOf st.launch 4).members == [9] && mayEnd s s.cur &&
            !mayEnd { s with ops := [(7, { shbOp with strand := s.cur })] } s.cur
        | none => false
      | none => false) = true := by
  decide +kernel

/-! ## Memory -/

/-- Base u2 and four bytes a thread; base u2 alone. -/
def perThread : Addr := { base := .u 2, idx := .tix, off := 16, sc := 3 }
def plain : Addr := { base := .u 2, idx := .zero, off := 0, sc := 0 }
def mods (ord cp : Nat) : MemMod := { ord := BitVec.ofNat 2 ord, scope := .pkg, cp := BitVec.ofNat 2 cp, free := false }
def atomMods : AtomMod := { ord := 3, scp := 3 }

/-- Registers u2 and u3 hold an address, and every cached translation has this leaf: by default one that may be read, written and
that holds blocks. -/
def pointing (va : Nat) (i : Instr) (leaf : Dword := 0x73) : State :=
  let s := withRegs [(uniKey 2, va % 2 ^ 32), (uniKey 3, va / 2 ^ 32), (predKey 1 3, 1)] (ready i)
  { s with tiles := s.tiles.map (fun t => (t.1, { t.2 with tlb := t.2.tlb.map (fun e => { e with leaf := leaf }) })) }

def spotOf (s : State) (y : Iss) (m : Addr) (need : Need) (size t : Nat) : Option Spot :=
  match checkAddr s y.st need (address s y m t) size with
  | .at_ (.mem k l tl) => some ⟨k, l, tl⟩
  | _ => none

/-- The access passes for these threads, the tile holds no copy of its lines, and nothing keeps it in the lane. -/
def passesFor (m : Addr) (need : Need) (size : Nat) (one_ : Bool) (y : Iss) (s1 : State) : Bool :=
  memGate s1 y && relGate s1 y .pkg none && (if one_ then [y.lead] else y.poppers).all (fun t => match spotOf s1 y m need size t with
    | some w => !(y.st.det && w.page leafShb) && (aget (s1.tile y.st.tileId).copies (lineKey w.key)).isNone
    | none => false)

/-- LoadsAndStores: every form on the page of `pointing`; a typed block with its header, here of format 1. -/
theorem witness_loads_and_stores : [
    [Instr.ld h0 (.v 8) perThread .i8 (mods 1 0), .ld h0 (.v 8) perThread .n64 (mods 0 2), .ldu h0 (.u 8) plain .f32 (mods 1 1)].all (fun i =>
      meets i (pointing 0x400 i) (fun y s1 => passesFor (match i with | .ldu _ (.u _) .. => plain | _ => perThread) .rd 1 false y s1)),
    [Instr.st h0 (.v 8) perThread .i16 (mods 2 0), .st h0 (.v 8) perThread .n64 (mods 0 0), .stu h0 (.u 8) plain .i32 (mods 2 0)].all (fun i =>
      meets i (pointing 0x400 i) (fun y s1 => passesFor (match i with | .stu _ (.u _) .. => plain | _ => perThread) .w 1 false y s1)),
    [Ty.i32, .q4x].all (fun ty => let i := Instr.ldb h0 (.v 8) plain ty (mods 1 0)
      meets i (pointing 0x400 i) (passesFor plain .rd 64 true)),
    [Ty.i32, .q4x].all (fun ty => let i := Instr.stb h0 (.v 8) plain ty (mods 2 0)
      meets i (withRegs [(vecKey 8 0, 1)] (pointing 0x400 i)) (fun y s1 => passesFor plain .w 64 true y s1 &&
        blkAccepts ty ((lineOfWords (lineIn s1 y 8)).toNat % 64) == true))].all id = true := by
  decide +kernel

/-- A copy of the line of 0x400 in the tile of the strand; a handler's own image. -/
def withCopy : State → State := fun s => s.modTile homeLane.tile (fun t => { t with copies := [(lineKey 0x400, ⟨7, false, false⟩)] })
def inImage : State → State := withStrand (fun st => { st with priv := true, image := imagePut [] 64 0x240 (3 ^ 90) })

/-- LocalAccesses: a load that the tile's copy serves; a load and a store of the image, at its first and its last doubleword. -/
theorem witness_local_accesses : [
    [Instr.ld { h0 with pred := 1 } (.v 8) plain .n32 (mods 1 0), .ldu h0 (.u 8) plain .n64 (mods 0 1)].all (fun i =>
      meets i (withCopy (pointing 0x400 i)) (fun y s1 => y.poppers.length == 1 && memGate s1 y && s1.ops.isEmpty &&
        (match spotOf s1 y plain .rd (memSize (match i with | .ldu .. => .n64 | _ => .n32)) y.lead with
          | some w => decide (w.key < 2 ^ 60) && !w.page leafTso && (aget (s1.tile y.st.tileId).copies (lineKey w.key)).isSome
          | none => false))),
    [0, 0x578].all (fun off => let i := Instr.ld { h0 with pred := 1 } (.v 8) plain .n64 (mods 0 0)
      meets i (inImage (pointing (0xFE000000000000 + off) i)) (fun y s1 => memGate s1 y &&
        (match checkAddr s1 y.st .rd (address s1 y plain 3) 8 with
          | .at_ (.image o) => o == off
          | _ => false))),
    [0x240, 0x338].all (fun off => let i := Instr.st { h0 with pred := 1 } (.v 8) plain .n64 (mods 2 0)
      meets i (inImage (pointing (0xFE000000000000 + off) i)) (fun y s1 => memGate s1 y && relGate s1 y .pkg none &&
        (match checkAddr s1 y.st .w (address s1 y plain 3) 8 with
          | .at_ (.image o) => o == off
          | _ => false)))].all id = true := by
  decide +kernel

/-- Atomics: the first and the last operator of each form, and CAS. -/
theorem witness_atomics : [
    [0, 9].all (fun o => let i := Instr.atom h0 (.v 8) perThread .n64 (BitVec.ofNat 4 o) atomMods
      meets i (pointing 0x400 i) (passesFor perThread .rdw 8 false)),
    [1, 13].all (fun o => let i := Instr.red h0 (.v 8) perThread .f32 (BitVec.ofNat 4 o) { atomMods with ord := 2 }
      meets i (pointing 0x400 i) (passesFor perThread .red 4 false)),
    [Instr.red h0 (.v 8) perThread .i32 2 { atomMods with ord := 2 }].all (fun i => meets i (pointing 0x400 i) (passesFor perThread .red 4 false)),
    [Instr.cas h0 (.v 8) perThread .n64 atomMods].all (fun i => meets i (pointing 0x400 i) (passesFor perThread .rdw 8 false))].all id = true := by
  decide +kernel

/-- A buffer that is being filled at the start of the scratchpad of tile 1, so that no load may read there. -/
def inFilling (s : State) : State := s.modTc ⟨⟨homePart, 0⟩, 1⟩ (fun t => { t with bufs := [(5, { base := 0, size := 2 ^ 17, st := .filling })] })
def window1 : Nat := 0xFF000000000000 + 2 ^ 23

/-- FencesAndTables: a table of zeros, which installs; one with a bit that R269 forbids; one in a buffer that refuses its read; and the
words 31, 32 and 33 of ALGRD. -/
theorem witness_fences_and_tables : [
    [Instr.pref h0 perThread true, .cwb h0 perThread, .cinv h0 perThread].all (fun i => meets i (pointing 0x400 i) (passesFor perThread .rd 1 false)),
    [Instr.fence h0 0 .strand, .fence h0 3 .sys, .algclr h0].all (fun i => meets i (ready i) (fun y s1 => memGate s1 y && storesAccepted s1 y.k 0 0 &&
      genFree s1 y.st.ctx)),
    [(0, true), (2 ^ 1022, false)].all (fun v => let i := Instr.algld h0 (.u 8) plain
      let s := pointing 0x400 i
      meets i ({ s with mem := memPutAll s.mem (cellsOf 128 0x400 v.1) }) (fun y s1 => match spotOf s1 y plain .rd 128 y.lead with
        | some w => memGate s1 y && storesAccepted s1 y.k w.key 128 && genFree s1 y.st.ctx && (algCheck (tableAt s1 w.key)).isNone == v.2 &&
          (match pairRead y w.tile w.key s1 with
            | some (_, f) => f.isNone
            | none => false)
        | none => false)),
    (let i := Instr.algld h0 (.u 8) plain
     meets i (inFilling (pointing window1 i)) (fun y s1 => match spotOf s1 y plain .rd 128 y.lead with
        | some w => memGate s1 y && storesAccepted s1 y.k w.key 128 && genFree s1 y.st.ctx && (match pairRead y w.tile w.key s1 with
            | some (_, f) => f.isSome
            | none => false)
        | none => false)),
    [31, 32, 33].all (fun j => let i := Instr.algrd h0 (.v 8) (.u 4)
      meets i (withRegs [(uniKey 4, j)] (ready i)) (fun y s1 => (readThread s1 y y.lead).a.toNat == j))].all id = true := by
  decide +kernel

/-- AddressChecks: for each clause an address at an end of its range, and what the check answers. -/
theorem witness_address_checks : [
    [(2 ^ 56 + 1, 0x0E), (2 ^ 56 - 1, 0x0D), (0x401, 0x0D), (2 ^ 56 - 4, 0x0E), (0xFE000000000000, 0x0E), (0xFEFFFFFFFFFFFC, 0x0E)].all (fun v =>
      let i := Instr.ld h0 (.v 8) plain .n32 (mods 0 0)
      meets i (pointing v.1 i) (fun y s1 => match checkAddr s1 y.st .rd (address s1 y plain 0) 4 with
        | .stop c => y.poppers.head? == some 0 && c == v.2
        | _ => false)),
    [0xFF000000000000, 0xFF000000000000 + 2 ^ 23 * 4 - 4].all (fun v => let i := Instr.ld h0 (.v 8) plain .n32 (mods 0 0)
      meets i (pointing v i) (fun y s1 => decide (4 ≤ (s1.part y.st.part).tiles) && (spotOf s1 y plain .rd 4 0).isSome)),
    [0xFDFFFFFFFFFFFC, 0x800000000].all (fun v => let i := Instr.ld h0 (.v 8) plain .n32 (mods 0 0)
      meets i (pointing v i) (fun y s1 => (s1.tlbFind y.st.tileId y.st.ctx v).isNone)),
    [Instr.st h0 (.v 8) plain .n32 (mods 0 0)].all (fun i => meets i (pointing 0x400 i 0x13) (fun y s1 =>
      match checkAddr s1 y.st .w (address s1 y plain 0) 4 with
        | .stop c => c == 0x10
        | _ => false))].all id = true := by
  decide +kernel

/-! ## Synchronisation, buffers, tasks, engines and collectives -/

/-- The one launch, changed. -/
def withLaunch (f : Launch → Launch) (s : State) : State := { s with launches := s.launches.map (fun p => (p.1, f p.2)) }
def withPart (f : Part → Part) (s : State) : State := s.modPart homePart f
/-- What the context of the strand owns on tile `t`. -/
def withTc (t : Nat) (f : TCtx → TCtx) (s : State) : State := s.modTc ⟨⟨homePart, 0⟩, t⟩ f

/-- Barriers: each by a member of band 3, with the least and the greatest count. -/
theorem witness_barriers : [
    [(Instr.bari h0 (.u 2) 3 false, 1), (.bari h0 (.u 2) 3 true, 2 ^ 24 - 1), (.bara h0 .zero 3, 0), (.bara h0 (.v 8) 3, 0),
      (.barw h0 (.v 8) 3, 0), (.bard h0 3, 0), (.barq h0 (.u 8) 3, 0)].all (fun p =>
        meets p.1 (withStrand (fun st => { st with bands := [3] }) (withRegs [(uniKey 2, p.2)] (ready p.1))) (fun y s1 =>
          y.st.bands.contains 3 && memGate s1 y && relGate s1 y .pkg (some 3)))].all id = true := by
  decide +kernel

/-- WatchAndMallet: a WATCH of a near word; DOZE with and without a time; UNWATCH with an armed slot and with none; the mallet. -/
theorem witness_watch_and_mallet : [
    [Instr.watch h0 (.u 8) plain .i32 2 1, .watch h0 (.u 8) plain .n64 0 3].all (fun i => meets i (pointing 0x400 i) (fun y s1 =>
      memGate s1 y && (match spotOf s1 y plain .rd 8 y.lead with
        | some w => !Home.far (homeOf y.st.part w.tile w.key)
        | none => false))),
    [Instr.doze h0 (.v 8) (.u 4) 3, .doze h0 .zero .zero 15, .unwatch h0 3, .unwatch h0 4].all (fun i =>
      meets i (withStrand (fun st => { st with watch := [{ st := .armed, arm := 9 }, {}, {}, {}] }) (ready i)) (fun _ _ => true)),
    [(false, false), (true, true), (true, false)].all (fun q => [Instr.tokw h0, .tokp h0].all (fun i =>
      meets i (withStrand (fun st => { st with det := q.1, hold := q.2 }) (ready i)) (fun y s1 => y.st.det == q.1 && y.st.hold == q.2 &&
        shbPerformed s1 y.k)))].all id = true := by
  decide +kernel

/-- Registers 8 and 9 of the strand are a shared range of band 3. -/
def sharing (full : List (Nat × Nat)) : State → State := fun s =>
  (withStrand (fun st => { st with bands := [3], shr := [⟨8, 2, 3, 2⟩], qpb := [(2, (0, 7))] })
    (withLaunch (fun l => { l with bands := [(3, { members := [s.cur], bid := 77 })] }) s)).modLane homeLane (fun l =>
      { l with ranges := [{ launch := s.cur - 1, key := 3, rid := 2, cnt := 2, full := full }] })

/-- SharedAndQueues: a range that may be mapped, and one that overlaps; full and empty words of a range; a port and its queue. -/
theorem witness_shared_and_queues : [
    [(Instr.shrmap h0 (.v 10) 1 3 3, false), (.shrmap h0 (.v 9) 1 3 3, true)].all (fun p => meets p.1 (sharing [] (ready p.1)) (fun y s1 =>
      shrBad s1 y.st { first := match p.1 with | .shrmap _ (.v 9) .. => 9 | _ => 10
                       cnt := 2, key := 3, rid := 3 } == p.2)),
    [Instr.shrunmap h0 (.v 8)].all (fun i => meets i (sharing [] (ready i)) (fun y _ => y.st.shr.head?.map (fun r => r.first) == some 8)),
    [Instr.ferd h0 (.v 20) (.v 8)].all (fun i => meets i (sharing ((List.range 16).map (fun t => (t, 0))) (ready i)) (fun y s1 =>
      match sharedKey y.st (16 * 8) with
        | some (sh, base) => y.act.all (fun t => match s1.fullAt y.st sh (base + t) with
          | some c => decide (c ≤ y.t0)
          | none => false)
        | none => false)),
    [Instr.fewr h0 (.v 8) (.v 20)].all (fun i => meets i (sharing [] (ready i)) (fun y s1 => match sharedKey y.st (16 * 8) with
        | some (sh, base) => y.act.all (fun t => (s1.fullAt y.st sh (base + t)).isNone)
        | none => false)),
    [(Instr.qcfg h0 (.qp 2) (.u 2) 5 false, 3), (.qcfg h0 (.qp 2) (.u 2) 5 false, 4), (.qcfg h0 (.qp 2) .zero 0 true, 0)].all (fun p =>
      meets p.1 (withRegs [(uniKey 2, p.2)] (ready p.1)) (fun y s1 => (readThread s1 y y.lead).a.toNat == p.2 && (s1.part y.st.part).tiles == 4)),
    [Instr.qstat h0 (.v 20) (.qp 2)].all (fun i => meets i (sharing [] (ready i)) (fun y _ => aget y.st.qpb 2 == some (0, 7)))].all id = true := by
  decide +kernel

/-- A declared buffer 5 of tile 1. -/
def withBuf (b : Buf) : State → State := withTc 1 (fun t => { t with bufs := [(5, b)] })

/-- The tile is free for the command. -/
def bufFree (y : Iss) (s1 : State) (t : Nat) : Bool := decide (t < (s1.part y.st.part).tiles) && memGate s1 y && !s1.bufBusy ⟨y.st.ctx, t⟩ 5

/-- Buffers: a region that may be declared, and ones of no bytes and beyond the slice; every change that may be asked for, and one that
may not, with and without `.try`; undeclared buffers; the last tile. -/
theorem witness_buffers : [
    [4096, 0, 2 ^ 23].all (fun n => let i := Instr.bdecl h0 (.u 4) plain 5
      meets i (withRegs [(uniKey 4, n)] (pointing (0xFF000000000000 + 2 ^ 23 + 4096) i)) (fun y s1 =>
        (address s1 y plain y.lead).toNat == 0xFF000000801000 && (readThread s1 y y.lead).a.toNat == n && bufFree y s1 1)),
    [BufSt.empty, .filling, .full, .draining, .stationary].all (fun b => [(0 : BitVec 2), 1, 2, 3].all (fun v => [false, true].all (fun ring =>
      [Instr.bset h0 (.u 8) (.u 4) 5 v true, .bset h0 .zero (.u 4) 5 v false].all (fun i =>
        meets i (withBuf { base := 0, size := 2 ^ 17, st := b, ring := ring } (withRegs [(uniKey 4, 1)] (ready i))) (fun y s1 =>
          bufFree y s1 1 && (readThread s1 y y.lead).a == 1))))),
    [BufSt.empty, .full, .stationary].all (fun b => [Instr.brel h0 (.u 4) 5, .bqry h0 (.v 8) (.u 4) 5, .stat h0 (.u 4) 5, .unstat h0 (.u 4) 5].all (fun i =>
      meets i (withBuf { base := 0, size := 2 ^ 17, st := b } (withRegs [(uniKey 4, 1)] (ready i))) (fun y s1 => bufFree y s1 1))),
    [Instr.bset h0 (.u 8) (.u 4) 5 0 true, .brel h0 (.u 4) 5, .bqry h0 (.v 8) (.u 4) 5, .stat h0 (.u 4) 5, .unstat h0 (.u 4) 5].all (fun i =>
      meets i (withRegs [(uniKey 4, 3)] (ready i)) (fun y s1 => bufFree y s1 3 && (aget (s1.tc ⟨y.st.ctx, 3⟩).bufs 5).isNone))].all id = true := by
  decide +kernel

/-- Operand slot 3 of tile 1. -/
def withSlot (o : OSlot) : State → State := withTc 1 (fun t => { t with slots := [(3, o)] })
/-- A queue of the tile has room, and nothing of the strand is held back from it. -/
def itemFree (y : Iss) (s1 : State) (t : Nat) : Bool :=
  decide (t < (s1.part y.st.part).tiles) && memGate s1 y && s1.tqRoom y t && !fenced y.st 21 && !tasksOut s1 y.k ⟨y.st.ctx, t⟩

/-- OperandSlots: each instruction with the slot in every state, and OPUT of the last block and past it. -/
theorem witness_operand_slots : [
    [SlotSt.free, .open_, .sealed_, .releasing].all (fun st => [false, true].all (fun b =>
      [Instr.oclaim h0 (.u 8) (.u 4) 3 true, .oclaim h0 .zero (.u 4) 3 false, .orels h0 (.u 4) 3].all (fun i =>
        meets i (withSlot { st := st, ring := b } (withRegs [(uniKey 4, 1)] (ready i))) (fun y s1 =>
          itemFree y s1 1 && (readThread s1 y y.lead).a == 1)))),
    [511, 512].all (fun n => [Instr.oput h0 (.v 8) (.u 4) (.u 5) 3 false, .oput h0 .zero (.u 4) (.u 5) 3 true].all (fun i =>
      meets i (withRegs [(uniKey 4, 1), (uniKey 5, n)] (ready i)) (fun y s1 => itemFree y s1 1 && (readThread s1 y y.lead).c.toNat == n)))].all id = true := by
  decide +kernel

/-- A task of 16 rows, 64 columns and the greatest depth; with one row and one column more it is not sound. -/
def taskWord : Nat := 7 + 16 * 2 ^ 32 + 64 * 2 ^ 40 + (2 ^ 20 - 1) * 2 ^ 64

/-- TaskItems. -/
theorem witness_task_items : [
    [taskWord, taskWord + 2 ^ 32, taskWord + 2 ^ 40, taskWord + 2 ^ 5, taskWord + 2 ^ 200].all (fun v =>
      [Instr.task h0 (.v 8) (.u 4) false, .task h0 (.v 8) (.u 4) true].all (fun i =>
        meets i (withRegs ((uniKey 4, 1) :: (List.range 16).map (fun t => (vecKey 8 t, v / 2 ^ (32 * t) % 2 ^ 32))) (ready i)) (fun y s1 =>
          itemFree y s1 1 && lineOfWords (lineIn s1 y 8) == BitVec.ofNat 512 v))),
    [Instr.twait h0 (.u 4) 7 false, .twait h0 (.u 4) 0 true, .accz h0 (.u 4) 7 2, .acccmt h0 (.u 4) 7, .accdsc h0 (.u 4) 7].all (fun i =>
      meets i (withRegs [(uniKey 4, 1)] (ready i)) (fun y s1 => itemFree y s1 1)),
    [60, 61].all (fun n => [Instr.accrd h0 (.v 8) (.u 4) (.u 5) 7 .i32 .dyn false true 3, .accwr h0 (.v 8) (.u 4) (.u 5) 7 .i64 3].all (fun i =>
      meets i (withRegs [(uniKey 4, 1), (uniKey 5, n)] (ready i)) (fun y s1 => itemFree y s1 1 && (match i with
        | .accrd .. => (readThread s1 y y.lead).b.toNat
        | _ => (readThread s1 y y.lead).c.toNat) == n)))].all id = true := by
  decide +kernel

/-- A layout of 64-byte blocks, and one whose base is not aligned. -/
def layWord : Nat := 0x400 + 2 ^ 64 + (4 + 2 * 2 ^ 16 + 2 ^ 32 + 2 ^ 48) * 2 ^ 256 + (64 + 64 * 2 ^ 32 + 128 * 2 ^ 64) * 2 ^ 320

/-- Engines. -/
theorem witness_engines : [
    [layWord, layWord + 1].all (fun v => let i := Instr.slay h0 (.v 8) (.u 4) true 3
      meets i (withRegs ((uniKey 4, 1) :: (List.range 16).map (fun t => (vecKey 8 t, v / 2 ^ (32 * t) % 2 ^ 32))) (ready i)) (fun y s1 =>
        memGate s1 y && !fenced y.st 20 && lineOfWords (lineIn s1 y 8) == BitVec.ofNat 512 v)),
    [Instr.sfill h0 (.u 4) (.u 5) true 2 3 false 5 3, .sfill h0 (.u 4) (.u 5) false 2 3 true 5 3, .sdrain h0 (.u 4) (.u 5) true 2 3 5 3,
      .ssig h0 (.u 4) true 2 true, .qfence h0 true true 15, .qfence h0 false false 1, .ewait h0 .zero (.u 4) .zero 0 0xA0,
      .ewait h0 (.u 8) (.u 4) .zero 1 0xE0, .ewait h0 .zero .zero .zero 2 3, .ewait h0 .zero .zero (.u 5) 3 0xFF].all (fun i =>
        meets i (withStrand (fun st => { st with placed := [(20, 7), (16, 8)] }) (withRegs [(uniKey 4, 3), (uniKey 5, 9)] (ready i))) (fun y s1 =>
          memGate s1 y && !fenced y.st 20 && (s1.part y.st.part).tiles == 4))].all id = true := by
  decide +kernel

/-- A store of the strand that is accepted and not applied. -/
def pendingStore : State → State := fun s => { s with ops := (7, { shbOp with stage := .queued }) :: s.ops }

/-- The other forms of Barriers, WatchAndMallet and SharedAndQueues. A strand that is no member of the band; an arrival that an earlier store
holds; counts of 0 and 2^24. A WATCH of a misaligned word, of the strand's image, and of far memory; TOKP with a store to an SHB page on
its way, and by a strand without the mallet. No range at the register; a word that is empty where FERD reads and full where FEWR writes;
ports that nothing binds. -/
theorem witness_barrier_and_share_stops : [
    [Instr.bari h0 (.u 2) 3 false, .bara h0 .zero 3, .barw h0 (.v 8) 3, .bard h0 3, .barq h0 (.u 8) 3].all (fun i => meets i (ready i) (fun y _ => !y.st.bands.contains 3)),
    [Instr.bara h0 .zero 3, .barw h0 (.v 8) 3, .bard h0 3].all (fun i => meets i (pendingStore (withStrand (fun st => { st with bands := [3] }) (ready i)))
      (fun y s1 => y.st.bands.contains 3 && !relGate s1 y .band (some 3))),
    [0, 2 ^ 24].all (fun n => let i := Instr.bari h0 (.u 2) 3 false
      meets i (withStrand (fun st => { st with bands := [3] }) (withRegs [(uniKey 2, n)] (ready i))) (fun y s1 => (readThread s1 y y.lead).a.toNat == n)),
    (let i := Instr.watch h0 (.u 8) plain .i32 2 1
     meets i (pointing 0x401 i) (fun y s1 => checkAddr s1 y.st .rd (address s1 y plain y.lead) 4 matches .stop 0x0D) &&
     meets i (inImage (pointing 0xFE000000000000 i)) (fun y s1 => checkAddr s1 y.st .rd (address s1 y plain y.lead) 4 matches .at_ (.image 0)) &&
     meets i (pointing 0x400 i (2 ^ 43 + 0x73)) (fun y s1 => match spotOf s1 y plain .rd 4 y.lead with
       | some w => Home.far (homeOf y.st.part w.tile w.key)
       | none => false)),
    [true, false].all (fun held => meets (.tokp h0) ({ withStrand (fun st => { st with det := true, hold := held }) (ready (.tokp h0)) with ops := [(7, shbOp)] })
      (fun y s1 => y.st.det && y.st.hold == held && !shbPerformed s1 y.k)),
    meets (.shrunmap h0 (.v 9)) (sharing [] (ready (.shrunmap h0 (.v 9)))) (fun y _ => y.st.shr.all (fun r => r.first != 9)),
    meets (.ferd h0 (.v 20) (.v 7)) (sharing [] (ready (.ferd h0 (.v 20) (.v 7)))) (fun y _ => (sharedKey y.st (16 * 7)).isNone),
    meets (.fewr h0 (.v 10) (.v 20)) (sharing [] (ready (.fewr h0 (.v 10) (.v 20)))) (fun y _ => (sharedKey y.st (16 * 10)).isNone),
    [(Instr.ferd h0 (.v 20) (.v 8), (List.range 15).map (fun t => (t, 0))), (.ferd h0 (.v 20) (.v 8), (List.range 16).map (fun t => (t, 10 ^ 6)))].all (fun q =>
      meets q.1 (sharing q.2 (ready q.1)) (fun y s1 => !y.st.deferring && (match sharedKey y.st (16 * 8) with
        | some (sh, base) => y.act.any (fun t => match s1.fullAt y.st sh (base + t) with
          | some c => decide (y.t0 < c)
          | none => true)
        | none => false))),
    meets (.fewr h0 (.v 8) (.v 20)) (sharing [(15, 0)] (ready (.fewr h0 (.v 8) (.v 20)))) (fun y s1 => !y.st.deferring &&
      (match sharedKey y.st (16 * 8) with
        | some (sh, base) => y.act.any (fun t => (s1.fullAt y.st sh (base + t)).isSome)
        | none => false)),
    [Instr.iadd h0 (.v 4) (.qp 3) (.v 2) .i32 false, .iadd h0 (.qp 3) (.v 4) (.v 2) .i32 false].all (fun i => match issueOf i (ready i) with
      | some x => (plan (ready i) x matches .inPlace _ _) && mayIssue (ready i) x.st x.h x.pc x.t0 && (r96 (ready i) i x.sh x.st).isNone &&
          !x.act.isEmpty && !x.boundPorts && (effOf i).isSome
      | none => false),
    meets (.qstat h0 (.v 20) (.qp 3)) (ready (.qstat h0 (.v 20) (.qp 3))) (fun y _ => (aget y.st.qpb 3).isNone)].all id = true := by
  decide +kernel

/-- The other forms of Buffers, OperandSlots, TaskItems, Engines and CollectiveCommands: a tile that the partition has not; a buffer with a
request on its way; BDECL of no scratchpad and of a region that is not aligned; a task queue that is full; a QFENCE in force; an item on its
way; a collective queue that is full. -/
theorem witness_tile_stops :
    let named (i : Instr) (n : Nat) := withRegs [(uniKey 4, n), (uniKey 5, n)] (ready i)
    let items : List Instr := [.task h0 (.v 8) (.u 4) false, .accz h0 (.u 4) 7 2, .accrd h0 (.v 8) (.u 4) .zero 7 .i32 .dyn false true 3,
      .accwr h0 (.v 8) (.u 4) .zero 7 .i32 3, .acccmt h0 (.u 4) 7, .accdsc h0 (.u 4) 7]
    let engine : List Instr := [.sfill h0 (.u 4) (.u 2) true 2 3 false 5 3, .sdrain h0 (.u 4) (.u 2) true 2 3 5 3]
    [(items ++ engine ++ [Instr.twait h0 (.u 4) 7 false, .twait h0 (.u 4) 0 true, .oclaim h0 .zero (.u 4) 3 false, .orels h0 (.u 4) 3,
        .oput h0 (.v 8) (.u 4) .zero 3 false, .bset h0 .zero (.u 4) 5 0 false, .brel h0 (.u 4) 5, .stat h0 (.u 4) 5, .unstat h0 (.u 4) 5, .bqry h0 (.v 8) (.u 4) 5,
        .slay h0 (.v 8) (.u 4) true 3, .ssig h0 (.u 4) true 2 true, .ewait h0 .zero (.u 4) .zero 0 0, .ewait h0 .zero (.u 4) .zero 1 0]).all (fun i =>
      meets i (named i 4) (fun y s1 => (s1.part y.st.part).tiles == 4)),
    [Instr.bset h0 .zero (.u 4) 5 0 false, .brel h0 (.u 4) 5, .stat h0 (.u 4) 5, .unstat h0 (.u 4) 5].all (fun i =>
      meets i ({ named i 3 with msgs := [(5, .bufReq 9 2 ⟨⟨homePart, 0⟩, 3⟩ 5 .brel)] }) (fun y s1 => s1.bufBusy ⟨y.st.ctx, 3⟩ 5)),
    [(0xFEFFFFFFFFF000, 4096), (2 ^ 56, 4096), (0xFF000000000000 + 2 ^ 23 * 4, 4096), (0xFF000000000040, 4096), (0xFF000000001000, 4095)].all (fun q =>
      let i := Instr.bdecl h0 (.u 4) plain 5
      meets i (withRegs [(uniKey 4, q.2)] (pointing q.1 i)) (fun y s1 => (address s1 y plain y.lead).toNat == q.1 && (readThread s1 y y.lead).a.toNat == q.2)),
    (items ++ [Instr.twait h0 (.u 4) 7 false, .twait h0 (.u 4) 0 true, .orels h0 (.u 4) 3]).all (fun i =>
      meets i ((named i 1).modTc ⟨⟨homePart, 0⟩, 1⟩ (fun t => { t with promised := 64 })) (fun y s1 => !s1.tqRoom y 1 && !y.st.deferring)),
    (items ++ [Instr.orels h0 (.u 4) 3]).all (fun i => meets i (withStrand (fun st => { st with qfences := [(2 ^ 21, [7])] }) (named i 1))
      (fun y s1 => s1.tqRoom y 1 && fenced y.st 21)),
    (let i := Instr.orels h0 (.u 4) 3
     let item : TItem := { txn := 9, strand := (ready i).cur, pc := 0, acc := some 7, kind := .acccmt }
     meets i ({ named i 1 with msgs := [(5, .tqItem ⟨⟨homePart, 0⟩, 1⟩ item)] }) (fun y s1 => s1.tqRoom y 1 && tasksOut s1 y.k ⟨y.st.ctx, 1⟩)),
    engine.all (fun i => meets i (withStrand (fun st => { st with qfences := [(2 ^ 20, [7])] }) (named i 1)) (fun y _ => fenced y.st 20)),
    [(2 ^ 18, 0), (0, 64)].all (fun q => let i := Instr.coll h0 (.v 8) 2
      meets i (withPart (fun p => { p with cqs := [(2, List.replicate q.2 { txn := 0, strand := 0, pc := 0, ctx := ⟨homePart, 0⟩, rcd := 0, no := 4 })] })
        (withStrand (fun st => { st with qfences := [(q.1, [7])] }) (ready i))) (fun y s1 =>
          fenced y.st 18 || (agetD (s1.part y.st.part).cqs 2 []).length == 64))].all id = true := by
  decide +kernel

/-- A collective record of three elements of the first kind. -/
def collWord : Nat := 0x400 + 3 * 2 ^ 64 + 9 * 2 ^ 96 + 2 ^ 112 + 8 * 2 ^ 128 + 5 * 2 ^ 160

/-- The page of 0x400 in a translation table, for region checks. -/
def paged (leaf : Nat) (s : State) : State :=
  let put (a v : Nat) (s : State) : State := { s with mem := memPutAll s.mem (cellsOf 8 a v) }
  put 0x100000 0x101001 (put 0x101000 0x102001 (put 0x102000 leaf (s.modCtx ⟨homePart, 0⟩ (fun c => { c with root := 0x100000 }))))

/-- CollectiveCommands: a sound record, an unaligned one; the queue with room for one more; a region that passes the checks, one of no
bytes, one whose page may not be written, and one that a command ahead of its turn holds. -/
theorem witness_collective_commands : [
    [collWord, collWord + 1, collWord + 2 ^ 253].all (fun v => let i := Instr.coll h0 (.v 8) 2
      meets i (withPart (fun p => { p with cqNo := 4, cqs := [(2, List.replicate 63 { txn := 0, strand := 0, pc := 0, ctx := ⟨homePart, 0⟩, rcd := 0, no := 4 })] })
        (withRegs ((List.range 16).map (fun t => (vecKey 8 t, v / 2 ^ (32 * t) % 2 ^ 32))) (ready i))) (fun y s1 =>
          memGate s1 y && !fenced y.st 18 && lineOfWords (lineIn s1 y 8) == BitVec.ofNat 512 v)),
    [(0x400, 64, 0x73, some true), (0x400, 0, 0x73, none), (0x420, 64, 0x73, none), (0x400, 3, 0x73, none), (0x400, 64, 0x53, some false)].all (fun q =>
      let i := Instr.cseq h0 (.u 11) (.u 4) (.u 6) 9 false true
      meets i (paged q.2.2.1 (withRegs [(uniKey 4, q.1), (uniKey 6, q.2.1), (uniKey 11, 3)] (ready i))) (fun y s1 => memGate s1 y &&
        (match q.2.2.2 with
          | some ok => regionBad s1 y.st.ctx (regionPages q.1 q.2.1) == (if ok then none else some none)
          | none => !(q.1 % 64 == 0 && q.2.1 != 0 && q.2.1 % 2 == 0)))),
    [Instr.cseq h0 (.u 8) .zero .zero 9 true false, .cseq h0 (.u 11) (.u 4) (.u 6) 9 false true].all (fun i => meets i (withPart (fun p =>
      { p with held := [(homePart, 0, { txn := 0, strand := 0, pc := 0, ctx := ⟨homePart, 0⟩, rcd := 9 * 2 ^ 96, no := 4 })] }) (ready i))
        (fun y s1 => memGate s1 y && (s1.part y.st.part).held.any (fun x => (x.2.2.rcd.extractLsb' 96 8).toNat == 9)))].all id = true := by
  decide +kernel

/-! ## Random numbers, registers, the privileged level, traps and faults -/

/-- RandomAndRegisters: draws with each kind of operand; a range of no bytes, a reservation held already, one that meets another with and
without the mode bit, and a full table; every register, and one that no rule names, in both levels. -/
theorem witness_random_and_registers : [
    [Instr.rand h0 (.v 8) (.u 4) (.u 8), .rand h0 (.v 8) (.v 4) (.v 12), .rand h0 (.u 12) (.u 4) (.u 8)].all performs,
    [(0, false, 0), (5, true, 0), (6, true, 0), (5, false, 0), (5, false, 63)].all (fun q => [false, true].all (fun hold =>
      let i := Instr.rres h0 .zero (.u 4) (.u 8) (.u 2) q.2.1
      meets i (withStrand (fun st => { st with modew := if hold then 0x80000 else 0 }) (withPart (fun p =>
        { p with resv := { ctx := ⟨homePart, 0⟩, key := 0, start := 17, len := 5 } ::
            List.replicate q.2.2 { ctx := ⟨homePart, 0⟩, key := 7, start := 0, len := 1 } })
          (withRegs [(uniKey 8, 17), (uniKey 2, q.1)] (ready i)))) (fun y s1 => (readThread s1 y y.lead).c.toNat == q.1 &&
            quadIn s1 y (.u 8) y.lead y.t0 == 17 && (s1.part y.st.part).resv.length == q.2.2 + 1 && y.st.modew.getLsbD 19 == hold))),
    [false, true].all (fun priv => [0, 1, 2, 3, 4, 5, 6, 0x800, 0x801, 0x802, 0x803, 7, 0x804].all (fun c =>
      let i := Instr.csrr h0 (.u 8) (BitVec.ofNat 12 c)
      meets i (withStrand (fun st => { st with priv := priv }) (ready i)) (fun y s1 => y.st.priv == priv &&
        ((csrTable s1 y.st).map (fun p => p.1)).contains c == !(c == 7 || c == 0x804)))),
    [false, true].all (fun priv => [(2, 3), (2, 4), (0x800, 2 ^ 32 - 1), (0x801, 2 ^ 24 - 1), (0x801, 2 ^ 24), (0x802, 0)].all (fun q =>
      let i := Instr.csrw h0 (.u 4) (BitVec.ofNat 12 q.1)
      meets i (withStrand (fun st => { st with priv := priv }) (withRegs [(uniKey 4, q.2)] (ready i))) (fun y s1 =>
        (readThread s1 y y.lead).aw.toNat == q.2))),
    [Instr.clock h0 (.u 8) false, .clock h0 (.v 8) true].all performs].all id = true := by
  decide +kernel

/-- Privileged: each at the privileged level, with the line raised and not, and with a unit that the partition uses and one it does not. -/
theorem witness_privileged : [
    [false, true].all (fun up => [Instr.stoprd h0 (.u 8) (.u 4) (.u 5), .regev h0 (.u 4) (.u 5), .haltl h0 true, .haltl h0 false,
      .errlog h0 (.u 8) (.u 5) false, .errlog h0 .zero .zero true, .tlbinv h0 .zero true false, .tlbinv h0 (.u 4) false true].all (fun i =>
        meets i (withStrand (fun st => { st with priv := true, inLine := true }) (withPart (fun p =>
          { p with line := if up then some 7 else none }) (ready i))) (fun y s1 => y.st.priv && (s1.part y.st.part).line.isSome == up))),
    [(0, true), (2 ^ 31, false)].all (fun q => let i := Instr.stest h0 (.u 8) (.u 4)
      meets i (withStrand (fun st => { st with priv := true }) (withRegs [(uniKey 4, q.1)] (ready i))) (fun y s1 =>
        (repairUnit s1 y.st.part (readThread s1 y y.lead).aw).isSome == q.2))].all id = true := by
  decide +kernel

/-- A handler's frame, its threads at the PCs that `pcs` gives. -/
def framing (pcs : Nat → Nat) (s : State) : State :=
  let s := withStrand (fun st => { st with threads := st.threads.mapIdx (fun t th => { th with pc := BitVec.ofNat 56 (pcs t) }) }) s
  let u := s.enterHandler s.cur 1 0 0xFFFF
  withStrand (fun st => { st with threads := st.threads.map (fun th => { th with pc := 0 }) }) u

/-- Traps and HandlerReturn: a trap below the privileged level with a handler and without, and in a handler; a return with no frame,
with one, with one in which every thread has exited, and with one whose thread 3 has slot 5. -/
theorem witness_traps_and_return : [
    [(false, 0x400), (false, 0), (true, 0)].all (fun q => [Instr.trap h0 77, .brk h0 77].all (fun i =>
      meets i (withStrand (fun st => { st with priv := q.1, tvec := BitVec.ofNat 56 q.2 }) (ready i)) (fun y _ =>
        y.st.priv == q.1 && y.st.tvec.toNat == q.2))),
    meets (.tret h0) (withStrand (fun st => { st with priv := true }) (ready (.tret h0))) (fun y _ => !y.st.framed),
    meets (.tret h0) (withStrand (fun st => { st with priv := true, framed := true, image := imagePut [] 128 0 (2 ^ 1024 - 1) }) (ready (.tret h0)))
      (fun y _ => y.st.framed),
    [0, 3].all (fun v => meets (.tret h0) (framing (fun t => if t = v then 4 else 64) (ready (.tret h0))) (fun y _ => y.st.framed &&
      (match frameRecords y.st.image 16 with
        | some rs => rs.all (fun r => decide (r.pc.toNat % 8 < 5))
        | none => false))),
    (let s := framing (fun _ => 64) (ready (.tret h0))
     let s := withStrand (fun st => { st with image := (List.range 16).foldl (fun im t => imagePut im 8 (0x2C0 + 8 * t) 2) st.image }) s
     meets (.tret h0) s (fun y s1 => match frameRecords y.st.image 16 with
        | some rs => y.st.framed && rs.all (fun r => r.st == .exited && decide (r.pc.toNat % 8 < 5)) &&
            mayEnd (s1.modStrand y.k (fun st => { st with threads := st.threads.map (fun th => { th with st := .exited }) })) y.k &&
            !mayEnd { s1.modStrand y.k (fun st => { st with hold := true, threads := st.threads.map (fun th => { th with st := .exited }) }) with
              ops := [(7, { shbOp with strand := y.k })] } y.k
        | none => false)),
    meets (.tret h0) (withLaunch (fun l => { l with grace := some 9 }) (framing (fun _ => 64) (ready (.tret h0)))) (fun y s1 => y.st.framed &&
      (frameRecords y.st.image 16).isSome && ((aget s1.launches y.st.launch).bind (fun l => l.grace)).isSome),
    meets (.tret h0) (framing (fun t => if t = 3 then 5 else 64) (ready (.tret h0))) (fun y _ => y.st.framed &&
      (match frameRecords y.st.image 16 with
        | some rs => (rs.map (fun r => r.pc.toNat % 8)).take 4 == [0, 0, 0, 5]
        | none => false))].all id = true := by
  decide +kernel

def underLine (l : Option Nat) : State := withPart (fun p => { p with line := l }) (ready (.nop h0))

/-- StrandFaults, HandlerEntry and StopRecordLayout: the strand and its partition are there, with the line raised and not, in a handler that
runs under the line and not, with no event in this cycle, with the same, and with one of a lower and of a higher priority. -/
theorem witness_strand_faults : [
    [false, true].all (fun run => [(none, 0, 0), (some 0, 1, 1), (some 0, 2, 0), (some 0, 4, 0), (some 5, 1, 0)].all (fun (q : Option Nat × Nat × Nat) =>
      let s := withStrand (fun st => { st with inLine := run, stopAt := q.1, stopRec := BitVec.ofNat 1024 (q.2.1 * 2 ^ 304) }) (underLine none)
      match s.strand s.cur with
        | some st => st.inLine == run && (if st.stopAt == some (s.cycle st.part) then (st.stopRec.extractLsb' 304 16).toNat else 0) % 2 == q.2.2
        | none => false)),
    [some 7, none].all (fun l =>
      let s := underLine l
      match s.strand s.cur with
        | some st => ((aget s.parts st.part).map (fun p => p.line)) == some l && st.threads.length == 16 &&
            st.threads.all (fun th => decide (th.psel < 16 ∧ th.depth ≤ 64 ∧ (th.record (s.cycle st.part)).parg < 2 ^ 35) && th.st == .live) &&
            (List.range 4).any (fun n => (s.ctx ⟨st.part, n⟩).st == 1)
        | none => false)].all id = true := by
  decide +kernel

theorem witness_stop_record : ∃ i : StopInfo, i.ust < 2 ^ 256 ∧ i.flt.cause < 2 ^ 16 ∧ i.coinc < 2 ^ 5 ∧ i.unit < 2 ^ 32 ∧ i.loc < 2 ^ 32 ∧
    i.flt.lowt < 16 ∧ i.act < 2 ^ 16 ∧ i.exm < 2 ^ 16 ∧ i.pc < 2 ^ 56 ∧ i.issue < 2 ^ 56 :=
  ⟨{ flt := { cause := 0xFFFF, lowt := 15 }, ust := 2 ^ 256 - 1, coinc := 31, unit := 2 ^ 32 - 1, loc := 2 ^ 32 - 1, act := 0xFFFF
     exm := 0xFFFF, pc := 2 ^ 56 - 1, issue := 2 ^ 56 - 1 }, by decide +kernel⟩

/-- EncodingFaults: a privileged opcode in both levels, an undeclared vector and a declared one. -/
theorem witness_encoding_faults : [
    [(Instr.stoprd h0 (.u 8) (.u 4) (.u 5), true, true), (.iadd h0 (.v 8) (.v 191) (.v 4) .i32 false, true, false),
      (.iadd h0 (.qp 0) (.v 4) (.u 5) .n16 true, false, true)].all (fun q => [false, true].all (fun priv =>
        let s := withStrand (fun st => { st with priv := priv, vregs := 64 }) (ready (.nop h0))
        (match issueOf q.1 s, shape q.1 with
          | some x, some sh => mayIssue s x.st x.h x.pc x.t0 && (match plan s x with
              | .wait => false
              | _ => true) && (s.pkg x.st.part.pkg).feat != 0 && x.st.priv == priv &&
              Instr.legal q.1 == q.2.1 && (sh.srcs ++ sh.dsts).all (fun u => Use.declared x.st u) == q.2.2
          | _, _ => false))),
    (let i := Instr.iadd h0 (.v 191) (.qp 0) (.v 4) .i32 false
     let s := withStrand (fun st => { st with vregs := 64, qpb := [(0, (0, 7))] }) (ready (.nop h0))
     match issueOf i s, effOf i with
      | some x, some eff => mayIssue s x.st x.h x.pc x.t0 && (match plan s x with
          | .inPlace z none => condUnmet s z eff
          | _ => false)
      | _, _ => false)].all id = true := by
  decide +kernel

/-! ## Events: for every clause of a statement, a state that meets its hypotheses and in which the event can happen or cannot -/

def b0 : State := ready (.nop h0)
def c0 : CtxId := ⟨homePart, 0⟩
def tc0 : TileCtx := ⟨c0, 0⟩
def mail (m : Msg) (s : State) : State := { s with msgs := (5, m) :: s.msgs }
def tx9 (left : Nat) : Txn := { strand := 2, gen := 1, flag := some 3, locs := [8], left := left, dst := .v 8, act := [0] }
def owing (s : State) : State := { s with txns := (9, tx9 1) :: s.txns }
def near0 : Home := devHome 0 0x400
def op0 : Op :=
  { txn := 9, strand := 2, gen := 1, ctx := c0, tile := 0, thread := 3, pc := 0, va := 0x400, addr := 0x400, home := near0, size := 4
    ty := .i32, opr := 1, val := 7 }
def withOp (o : Op) (s : State) : State := { s with ops := (7, o) :: s.ops }
def entryOf (id : Nat) (o : Op) : QEnt :=
  { op := .one id o.opr o.val o.exp, addr := o.addr, size := o.size, ty := o.ty, fetch := o.fetch, fixed := o.fixed, ctx := o.ctx
    agen := o.agen, strands := [(o.strand, o.fenced)], sync := false }
def queued (hm : Home) (es : List QEnt) (s : State) : State := s.modHome hm (fun h => { h with queue := es })
def strandNow (s : State) : Strand := match s.strand 2 with
  | some st => st
  | none => { ctx := c0, launch := 0, sid := 0, tile := 0, lane := 0, slot := 0, gen := 0, vregs := 0, uregs := 0, threads := [], modew := 0, lastS := 0 }
def happens (i : Instr) (s : State) : Bool := ((evOf i).bind (fun f => f s)).isSome
def healthyNow (s : State) : Bool := s.latent.isEmpty && s.pkgs.all (fun p => p.2.outOfUse.isEmpty) && decide (Memory.wf s.mem = true) && s.stores.isEmpty
def scratch0 : Nat := scratchKey 0 (b0.part homePart) 0 0
def inBuf (st : BufSt) (s : State) : State := s.modTc tc0 (fun t => { t with bufs := [(5, { base := 0, size := 64, st := st })] })

/-- Headers on channel 2, and a data flit. -/
def flitH (kind seq aseq : Nat) : BitVec 64 := BitVec.ofNat 64 (seq * 2 ^ 52 + 2 * 2 ^ 50 + kind * 2 ^ 48 + aseq * 2 ^ 36)
def flit (seq : Nat) : Flit := ⟨flitH 0 seq 0, [], 0⟩

/-- Packages 0 and 1 with their ports 15 up. -/
def linked2 (c : VChan) (s : State) : State :=
  let up (r : Nat) (p : Pkg) : Pkg := { p with rank := r, ports := [(15, { up := true, vcs := [(0, c), (1, c), (2, c), (3, c)] })] }
  { s with pkgs := [(0, up 5 (s.pkg 0)), (1, up 511 Pkg.reset)] }

/-- Packages 0 and 1 of a domain, with ranks 0 and 1. -/
def domain2 (s : State) : State :=
  { s with pkgs := [(0, { s.pkg 0 with inDomain := true }), (1, { Pkg.reset with rank := 1, inDomain := true })] }

/-- HomeAccepts: a package that the partition cannot reach, over the fabric; a buffer that refuses a load and one that refuses a store, and
one that admits it; a place in an empty queue, in one with one place left, and in a full one. -/
theorem witness_home_accepts : [
    (let o := { op0 with home := .near 1 0 0, addr := 2 ^ 45 + 0x400, stage := .mesh }
     let s := linked2 {} (withOp o (owing b0))
     o.route.isSome && (s.sliceOwner 1 (o.addr % 2 ^ 45)).isNone && happens (.homeAccept 7) s),
    [(BufSt.filling, 0), (.full, 1)].all (fun q =>
      let o := { op0 with home := .slicePort ⟨homePart, 0⟩ 0, addr := scratch0, opr := q.2 }
      let s := inBuf q.1 (withOp o (owing b0))
      (s.bufferAt ⟨c0, 0⟩ ((o.addr - scratchBase) % 2 ^ 23)).isSome && happens (.homeAccept 7) s),
    [(BufSt.full, 0, 0), (.filling, 1, 63)].all (fun q =>
      let hm := Home.slicePort ⟨homePart, 0⟩ 0
      let o := { op0 with home := hm, addr := scratch0, opr := q.2.1, fetch := decide (q.2.1 = 0) }
      let s := queued hm (List.replicate q.2.2 (entryOf 8 op0)) (inBuf q.1 (withOp o (owing b0)))
      decide ((s.home hm).queue.length < 64) && happens (.homeAccept 7) s),
    [0, 15, 16].all (fun n =>
      let s := queued near0 (List.replicate n (entryOf 8 op0)) (withOp op0 (owing b0))
      happens (.homeAccept 7) s == decide (n < 16))].all id = true := by
  decide +kernel

/-- HomeApplies: a read, a typed read of a block with another header, a store and an addition with an invalidation on its way, and a store
that has absorbed another. -/
theorem witness_home_applies : [
    [{ op0 with opr := 0, fetch := true, ret := true }, { op0 with opr := 2, fetch := true, ret := true }, op0,
      { op0 with opr := 0, fetch := true, ret := true, block := true, size := 64, ty := .q4x, val := 0 }].all (fun o =>
      let o := { o with stage := .queued }
      let s := queued near0 [entryOf 7 o] (withOp o (owing b0))
      healthyNow s && (s.home near0).queue == [entryOf 7 o] && happens (.homeApply near0) s),
    (let o := { op0 with stage := .queued }
     let s := (queued near0 [entryOf 7 o] (withOp o (owing b0))).modTile ⟨homePart, 1⟩ (fun t => { t with copies := [(lineKey 0x400, ⟨7, false, false⟩)] })
     s.holders (lineKey 0x400) == [⟨homePart, 1⟩] && happens (.homeApply near0) s),
    (let o := { op0 with stage := .queued }
     let s := queued near0 [{ entryOf 7 o with also := [8] }] { withOp o (owing b0) with ops := [(7, o), (8, { o with thread := 4 })] }
     healthyNow s && (aget s.ops 8).isSome && happens (.homeApply near0) s)].all id = true := by
  decide +kernel

/-- CompositeApplies: two additions and a store with an addition, of 4 and of 8 bytes, with a copy in another tile and without, and an
operation that the entry has absorbed. -/
theorem witness_composites : [
    [4, 8].all (fun n => [false, true].all (fun copied => [2, 1].all (fun o1 =>
      let a (v o : Nat) : Op := { op0 with opr := o, val := BitVec.ofNat 512 v, size := n, stage := .queued, fetch := true, ret := true }
      let e : QEnt := { entryOf 7 (a 5 o1) with op := .comp o1 8 (.one 7 o1 5 0) (.one 8 2 3 0), strands := [(2, 0), (3, 0)], also := [6] }
      let s := queued near0 [e] { owing b0 with ops := [(6, { a 1 1 with fetch := false, ret := false }), (7, a 5 o1), (8, a 3 2)] }
      let s := if copied then s.modTile ⟨homePart, 1⟩ (fun t => { t with copies := [(lineKey 0x400, ⟨7, false, false⟩)] }) else s
      healthyNow s && (e.op.ids ++ e.also) == [7, 8, 6] && (s.holders (lineKey 0x400)).length == copied.toNat && happens (.homeApply near0) s)))].all id = true := by
  decide +kernel

/-- WatchEvaluation: entries that the write satisfies, does not satisfy and does not touch; a host-homed line with watch copies in two
packages. -/
theorem witness_watch_evaluation : [
    (let w (cmp : BitVec 2) (addr : Nat) : WEntry :=
       { strand := some 2, slot := 1, arm := 9, part := homePart, addr := addr, size := 4, ty := .i32, cmp := cmp, exp := 7, mask := 2 ^ 64 - 1 }
     let o := { op0 with stage := .queued }
     let s := (queued near0 [entryOf 7 o] (withOp o (owing b0))).modHome near0 (fun h => { h with table := [w 0 0x400, w 1 0x400, w 0 0x404] })
     healthyNow s && (s.home near0).table.length == 3 && happens (.homeApply near0) s),
    (let o := { op0 with stage := .queued, home := .hostLine 0, addr := hostBase }
     let w : WEntry := { strand := some 2, slot := 1, arm := 9, part := homePart, addr := hostBase, size := 4, ty := .i32, cmp := 0, exp := 7, mask := 0 }
     let s := queued (.hostLine 0) [entryOf 7 o] (withOp o (owing (withStrand (fun st => { st with watch := [{}, { arm := 9, st := .armed }, {}, {}] }) b0)))
     let s := (linked2 {} s).modHome (.hostLine 1) (fun h => { h with table := [w] })
     let s := { s with pkgs := s.pkgs.map (fun p => (p.1, { p.2 with hostCopies := [hostBase] })) }
     healthyNow s && (s.pkg 1).hostCopies == [lineKey hostBase] && happens (.homeApply (.hostLine 0)) s)].all id = true := by
  decide +kernel

def rules (n : Nat) (s : State) : State := s.modCtx c0 (fun x => { x with table := BitVec.ofNat 1024 (n * 2 ^ (4 * (16 * 2 + 2))) })

/-- PendingRewrites and ComposeAndCancelRules: two additions at one place with the bit of each rewrite set and not set; here the second
undoes the first. Another entry between them, which the moved operation may cross and may not. -/
theorem witness_rewrites : [
    [(Rewrite.commute, 8), (.compose, 4), (.absorb, 2), (.cancel, 1)].all (fun q => [0, q.2].all (fun n =>
      let e := entryOf 7 { op0 with opr := 2, val := 1 }
      let l := entryOf 8 { op0 with opr := 2, val := 2 ^ 32 - 1, strand := 3 }
      let s := rules n (queued near0 [e, l] b0)
      (((s.ctx c0).tableOf 0).extractLsb' (4 * (16 * 2 + 2)) 4).toNat == n && (happens (.pendingRewrite near0 0 q.1) s == (n != 0)))),
    [false, true].all (fun sync =>
      let e := entryOf 7 { op0 with opr := 2, val := 1 }
      let l := entryOf 8 { op0 with opr := 2, val := 3, strand := 3 }
      let m := { entryOf 6 { op0 with strand := 3, addr := 0x440 } with sync := sync }
      happens (.pendingRewrite near0 0 .compose) (rules 4 (queued near0 [e, m, l] b0)) == !sync),
    [(2, 2), (5, 5), (10, 10), (13, 13), (10, 13), (13, 10), (1, 2), (1, 14), (12, 12)].all (fun q => (composeOp 32 q.1 q.2 5 5).isSome),
    [(0, 2), (2, 3), (1, 1), (14, 14), (15, 15)].all (fun q => (composeOp 32 q.1 q.2 5 5).isNone),
    cancelOk 32 2 2 1 (2 ^ 32 - 1), cancelOk 32 5 5 9 9, cancelOk 32 10 10 0x3F800000 0xBF800000, cancelOk 32 13 13 0x3F800000 0x3F800000,
    !cancelOk 32 10 10 0 0x80000000].all id = true := by
  decide +kernel

/-- CopiesAndReports: every message, an acknowledgement that is the last and one that is not, a fill with a write out and without. -/
theorem witness_copies : [
    happens (.invalidationArrival 5) (mail (.inval 7 ⟨homePart, 0⟩ 0x400) (withCopy b0)),
    [[⟨homePart, 0⟩], [⟨homePart, 0⟩, ⟨homePart, 1⟩]].all (fun (ts : List TileId) =>
      happens (.invalidationAcknowledgement 5) (mail (.ack 7 ⟨homePart, 0⟩) (withOp { op0 with stage := .applied, acks := ts } b0))),
    [(b0, false), (withOp op0 b0, true)].all (fun q => (q.1.ops.any (fun p => p.2.stage != .applied)) == q.2 &&
      happens (.tileCacheFill 5) (mail (.fill ⟨homePart, 0⟩ 0x400 none false) q.1)),
    [false, true].all (fun d => happens (.hostWritebackAck 5) (mail (.writeback 9 ⟨homePart, 0⟩ 0x400 d) (owing (withCopy b0)))),
    [(0x10, none), (0x21, none), (0x10, some 7)].all (fun q =>
      let s := withPart (fun p => { p with line := q.2 }) (mail (.faultReport 2 0 { cause := q.1 } 9) (owing b0))
      (s.strand 2).isSome && happens (.impreciseFaultReport 5) s)].all id = true := by
  decide +kernel

/-- HostAccesses: a write and a read at the first address of the partition's memory, at the last byte of a line, and of the host's own
memory; a watched host line taken back and fetched again. -/
theorem witness_host : [
    [0, 0x43F, hostBase + 64].all (fun a => healthyNow b0 && (decide (hostBase ≤ a) || (b0.sliceOwner 0 a).isSome) &&
      happens (.hostMemAccess 0 (.write (if a < hostBase then .vf 0 else .own) a [7])) b0 && happens (.hostMemAccess 0 (.read (if a < hostBase then .vf 0 else .own) a 1)) b0),
    !happens (.hostMemAccess 0 (.write .pf 0 [7])) b0, !happens (.hostMemAccess 0 (.write (.vf 0) (480 * 10 ^ 9) [7])) b0,
    happens (.hostMemAccess 0 .laneFault) b0,
    [true, false].all (fun held =>
      let e : WEntry := { strand := some 2, slot := 1, arm := 9, part := homePart, addr := hostBase, size := 4, ty := .i32, cmp := 0, exp := 0, mask := 0 }
      let s := (b0.modPkg 0 (fun p => { p with hostCopies := if held then [hostBase] else [] })).modHome (.hostLine 0) (fun h => { h with table := [e] })
      (happens (.backInvalidation 0 hostBase) s == held) && (happens (.hostLineRefetch 0 hostBase) s == !held))].all id = true := by
  decide +kernel

def armed (w : Watch) : State → State := withStrand (fun st => { st with watch := [w, {}, {}, {}] })
def armEntry : QEnt :=
  { op := .one 0 0 0 0, arm := some (2, 0, 9), addr := 0x400, size := 4, ty := .i32, fetch := true, fixed := true, ctx := c0, agen := 0
    strands := [(2, 0)], sync := true }
def wentry (part : PartId) (slot : Nat) : WEntry :=
  { strand := some 2, slot := slot, arm := 8, part := part, addr := 0x440, size := 4, ty := .i32, cmp := 0, exp := 0, mask := 0 }

/-- Watches and Snare: an arm accepted and refused by a buffer; at the head of its queue satisfied at once (0 compares equal to 0), placed
in an empty table, in a full one with an entry of the partition and without one, and replaced; each message; a context that the snare takes. -/
theorem witness_watches : [
    [(near0, 0x400, BufSt.empty), (Home.slicePort ⟨homePart, 0⟩ 0, scratch0, .full), (Home.slicePort ⟨homePart, 0⟩ 0, scratch0, .filling)].all (fun q =>
      let s := inBuf q.2.2 (mail (.arm 2 0 9 0x400 q.2.1 q.1) (owing (armed { arm := 9, st := .arming } b0)))
      (aget s.ops 5).isNone && (s.strand 2).isSome && happens (.homeAccept 5) s),
    [(9, 0, 0), (8, 0, 0), (9, 1, 0), (9, 1, 31), (9, 1, 32)].all (fun q => [homePart, ⟨0, 9⟩].all (fun p =>
      let s := armed { arm := q.1, st := .arming, cmp := BitVec.ofNat 2 q.2.1, mask := 2 ^ 64 - 1 } (owing b0)
      let s := s.modHome near0 (fun h => { h with queue := [armEntry], table := (List.range q.2.2).map (fun i => wentry p i) })
      healthyNow s && (s.home near0).table.length == q.2.2 && happens (.watchArm near0) s)),
    (let s := linked2 {} (mail (.arm 2 0 9 0x400 (2 ^ 45 + 0x400) (.near 1 0 0)) (owing (armed { arm := 9, st := .arming } b0)))
     (s.sliceOwner 1 0x400).isNone && happens (.homeAccept 5) s),
    [(Home.slicePort ⟨homePart, 0⟩ 0, 15), (.slicePort ⟨homePart, 0⟩ 0, 16), (.hostLine 0, 1023), (.hostLine 0, 1024)].all (fun q =>
      let s := armed { arm := 9, st := .arming, cmp := 1, mask := 2 ^ 64 - 1 } (owing b0)
      let e := { armEntry with addr := match q.1 with
                   | .slicePort .. => scratch0
                   | _ => hostBase }
      happens (.watchArm q.1) (s.modHome q.1 (fun h => { h with queue := [e], table := (List.range q.2).map (fun i => wentry homePart i) }))),
    [(true, false), (false, false), (false, true)].all (fun q =>
      happens (.armAck 5) (mail (.armAck 2 0 9 q.1 q.2 false { cause := 0x12 } near0) (owing (armed { arm := 9, st := .arming } b0)))),
    happens (.wakeMessage 5) (mail (.wake 2 0 9 7 near0) (armed { arm := 9, st := .armed } b0)),
    !happens (.wakeMessage 5) (mail (.wake 2 0 9 7 near0) (withOp op0 b0)),
    happens (.evictionMessage 5) (mail (.evict 2 0 9 near0) (armed { arm := 9, st := .armed } b0)),
    happens (.disarmAck 5) (mail (.disarm 9 2 0 9) (owing b0)),
    (let s := b0.modCtx c0 (fun x => { x with snare := snareInterval b0 c0 })
     (s.part homePart).line.isNone && (s.ctx c0).st == 1 && happens (.snare c0) s)].all id = true := by
  decide +kernel

/-! ## What reaches a lane, and barriers -/

def tables (es : List Nat) : State :=
  let s := b0.modCtx c0 (fun c => { c with root := 0x100000 })
  { s with
    tiles := []
    mem := es.zipIdx.foldl (fun m e => memPutAll m (cellsOf 8 (0x100000 + 0x1000 * e.2) e.1)) s.mem }

def leafOf : Walk → Nat
  | .page => 0
  | .bad => 1
  | .leaf log _ => log

/-- The threads of the strand at `pc`, and no line in the lane's buffer. -/
def atPc (pc : Pc) (s : State) : State := (withThreads (fun th => { th with pc := pc }) s).modLane homeLane (fun l => { l with buf := [] })

/-- PageTables and FetchAndWalk: for address 0 an entry that is not valid at every level, one with a bit of [55] or of [3:2], a leaf at
levels 4 and 3, a leaf of each page size, one that is not aligned, a table at level 0, a leaf outside the partition's memory, a table in
a package that is not there, at the root and below it, and an entry that the walk cache holds; and fetches in the strand's image. -/
theorem witness_page_tables : [
    [([0], 0), ([0x101009], 1), ([0x101001 + 2 ^ 55], 1), ([0x101003], 1), ([0x101001, 0], 0), ([0x101001, 0x102003], 1), ([0x101001, 0x102005], 1),
      ([0x101001, 0x102001, 0], 0), ([0x101001, 0x102001, 0x73], 30), ([0x101001, 0x102001, 0x103001, 0], 0),
      ([0x101001, 0x102001, 0x103001, 0x200073], 21), ([0x101001, 0x102001, 0x103001, 0x104001, 0], 0),
      ([0x101001, 0x102001, 0x103001, 0x104001, 0x20073], 16), ([0x101001, 0x102001, 0x103001, 0x104001, 0x21073], 1),
      ([0x101001, 0x102001, 0x103001, 0x104001, 0x105001], 1), ([0x101001, 0x102001, 0x103001, 0x104001, 2 ^ 43 + 0x73], 1), ([2 ^ 45 + 0x101001], 1)].all (fun q =>
      leafOf ((tables q.1).walk c0 0) == q.2),
    leafOf (((tables [0x101001]).modCtx c0 (fun c => { c with root := 2 ^ 45 })).walk c0 0) == 1,
    (let s := { tables [0] with walks := [((0, 0), [{ ctx := c0, sh := 48, va := 0, entry := 0x101001 }])] }
     (walkHit (s.walkCache homeLane.tile) c0 0 48).isSome && leafOf (s.walkVia homeLane.tile c0 0) == 0),
    [0xFE000000000000, 0xFEFFFFFFFFFFC0].all (fun pc => happens (.lineFetch 2) (atPc pc b0)),
    [([0], true), ([0x101009], true), ([0x101001, 0x102001, 0x103001, 0x104001, 0x20073], true)].all (fun q =>
      let s := (tables q.1).modLane homeLane (fun l => { l with buf := [] })
      (match s.strand 2 with
        | some st => st.runs s && st.issueAddr.isSome && (s.tlbFind st.tileId st.ctx 0).isNone
        | none => false) && healthyNow s && happens (.pageWalk 2) s == q.2),
    [(0x73, false, true), (0x73, true, true), (0x33, false, true)].all (fun (q : Dword × Bool × Bool) =>
      let s := b0.modLane homeLane (fun l => { l with buf := [] })
      let s := { s with tiles := s.tiles.map (fun t => (t.1, { t.2 with
        tlb := t.2.tlb.map (fun e => { e with leaf := q.1 }), copies := if q.2.1 then [(0, ⟨BitVec.ofNat 512 (s.read 64 0), false, false⟩)] else [] })) }
      (match s.strand 2 with
        | some st => (s.tlbFind st.tileId st.ctx 0).isSome && (match st.issueAddr with
            | some pc => (s.fetched st pc).isNone
            | none => false)
        | none => false) && healthyNow s && happens (.lineFetch 2) s == q.2.2),
    (let s := domain2 (b0.modLane homeLane (fun l => { l with buf := [] }))
     let s := { s with tiles := s.tiles.map (fun t => (t.1, { t.2 with tlb := t.2.tlb.map (fun e => { e with leaf := 2 ^ 45 + 0x73 }) })) }
     (match homeOf homePart 0 (leafKey s 0 (2 ^ 45 + 0x73) 0) with
       | .near 1 _ _ => true
       | _ => false) && (s.sliceOwner 1 0).isNone && happens (.lineFetch 2) s)].all id = true := by
  decide +kernel

/-- Deferring mode with a quota of one entry, vector registers declared. -/
def deferring (qflt : Bool) : State → State :=
  withStrand (fun st => { st with modew := if qflt then 0xC100 else 0x8100, vregs := 192 })
def entry9 (n : Nat) : List Entry := List.replicate n
  { inst := (encode (.imul { h0 with pred := 1 } (.v 4) (.v 5) (.v 6) .i32 false)).getD 0, pc := 0, exm := 0xFFFF, actm := some 0xFFFF, ord := false, cause := 2
    seq := 0, gen := 1, ucap := [none, none, none], lines := [], tags := [4], snap := [] }

/-- Drains: an entry that no slot of an instruction makes, one of an instruction that may not be captured, one of a bad record, and a sound
one, of a strand that runs and is not held back; one that waits for a re-arm, and a load that waits for a fence. -/
theorem witness_drains :
    let slot (i : Instr) : Slot := (encode i).getD 0
    let s (w : Slot) (bad : Bool) := deferring false (withStrand (fun st => { st with ents := (entry9 1).map (fun e => { e with inst := w, bad := bad, actm := some 1 }) }) b0)
    let mul : Instr := .imul h0 (.v 4) (.v 5) (.v 6) .i32 false
    let load : Instr := .ld h0 (.v 4) perThread .i32 plainMods
    [[(slotBits 0x011 0 0xF0 0xF0 0xF0 0xF0 0, false), (slot (.exit h0), false), (slot mul, true), (slot mul, false)].all (fun (q : Slot × Bool) =>
      let s := s q.1 q.2
      (match s.strand 2 with
        | some st => st.runs s && decide ((s.lane st.laneId).busy ≤ s.cycle st.part) && !st.entHeld && st.holdTxn == none && st.rearms == [] &&
            s.healthy st.part.pkg
        | none => false) && happens (.residualDrain 2) s),
      !happens (.residualDrain 2) (withStrand (fun st => { st with rearms := [7] }) (s (slot mul) false)),
      !happens (.residualDrain 2) (withStrand (fun st => { st with fences := [(9, { ord := 1, scope := .pkg, waits := [7] })] }) (s (slot load) false)),
      (let sh (i : Instr) := (shape i).map (fun sh => sh.deferrable)
       sh (.exit h0) == some false && sh mul == some true)].all id = true := by
  decide +kernel

/-- WaitRules: a strand with an unfinished fence whose read has returned a write, and another's release, near a write that is applied and not
performed; rings and regions of which an EWAIT's condition holds and does not. -/
theorem witness_wait_rules :
    let f : Fence := { ord := 3, scope := .pkg, waits := [6] }
    let w : Sync := { addr := 0x400, size := 4, strand := 3, scopes := [.pkg], band := none, before := [8] }
    let s := withStrand (fun st => { st with fences := [(9, f)], seen := [(6, 7)], heard := [w] })
      { withOp { op0 with strand := 3, stage := .applied, acks := [⟨homePart, 1⟩] } b0 with syncs := [w] }
    let ring (d g : Nat) : Ring :=
      { fill := true, slots := false, layNo := 2, lay := 0, first := 5, n := 2, total := 9, strand := 2, pc := 0, txn := 9, done := d, signalled := g }
    let e (r : Ring) := s.modTc tc0 (fun t => { t with engines := [(1, { rings := [(6, r)] })] })
    let g (n : Nat) (ws : List Nat) := withPart (fun p => { p with regions := [(9, { ctx := c0, base := 0x800, len := 64, bf16 := false, next := n, waits := ws })] }) s
    [(s.strand 2).isSome, s.fenceList 2 f == [6, 7] && s.waitsFor 2 .pkg 7, (s.sees 2 0 (some .pkg) 0x400 4).strands != s.strands,
      (s.slotBrings 2 0 0 0x400 4).strands != s.strands, (s.fenceAcquires 2 .sys).strands != s.strands,
      EWait.holds (e (ring 5 4)) 2 (.ready tc0 1 6) == some 0, EWait.holds (e (ring 4 4)) 2 (.ready tc0 1 6) == none,
      EWait.holds (e (ring 4 4)) 2 (.done tc0 1 6) == none, EWait.holds (e (ring 4 4)) 2 (.done tc0 1 5) == some 0,
      EWait.holds (g 5 []) 2 (.seq homePart 9 5) == some 5, EWait.holds (g 5 []) 2 (.seq homePart 9 6) == none,
      EWait.holds (g 0 []) 2 (.seq homePart 9 (2 ^ 32 - 1)) == some 0, EWait.holds (g 5 [7]) 2 (.seq homePart 9 5) == none].all id = true := by
  decide +kernel

/-- LaneTimes: a line that the next instruction names, in a lane with a place free, in a full one with an evictable line and with
none, and in one whose lines, captured ones among them, are pinned; a timer and a tag that are due; a return stack; a NAP that has run out. -/
theorem witness_lane_times : [
    [([], 0), (List.replicate 255 false, 0), (List.replicate 255 false ++ [true], 0), (List.replicate 256 false, 0)].all (fun q =>
      let s := withStrand (fun st => { st with vregs := 192 }) (ready (.iadd h0 (.v 8) (.v 9) (.v 9) .i32 false))
      let s := s.modLane homeLane (fun l => { l with
        lines := q.1.zipIdx.map (fun e => { strand := 9, line := e.2, evictable := e.1, used := e.2 }) })
      (match s.strand 2 with
        | some st => (wantedRegLines s 2 st).contains 9
        | none => false) && happens (.registerLineFill 2 9) s),
    [(256, 0, 1), (254, 2, 1), (254, 2, 0)].all (fun q =>
      let s := ready (.iadd h0 (.v 8) (.v 9) (.v 9) .i32 false)
      let s := withStrand (fun st => { st with vregs := 192, ents := (entry9 1).map (fun e => { e with lines := (List.range q.2.1).map (fun n => (n, [])) }) }) s
      let s := s.modLane homeLane (fun l => { l with lines := (List.range q.1).map (fun n => { strand := 9, line := n, pin := q.2.2 }) })
      s.laneCapt homeLane == q.2.1 && happens (.registerLineFill 2 9) s == (q.2.2 == 0)),
    happens (.fixedLatencyCompletion 2) (withStrand (fun st => { st with timers := [(0, 11), (1, 0)], flags := lset st.flags 11 (fun _ => 1) }) b0),
    happens (.fixedLatencyCompletion 2) (withStrand (fun st => { st with rtags := [(0, 8)] }) b0),
    happens (.returnStackFill 2) (withStrand (fun st => { st with stackBusy := true }) b0),
    happens (.returnStackFill 2) (withThreads (fun th => { th with depth := 5 }) b0),
    happens (.napExpiry 2 15) (withThreads (fun th => { th with st := .parked, park := .nap, parg := 0 }) b0)].all id = true := by
  decide +kernel

/-- DozeReleases: each reason, in a strand whose thread 15 dozes on slots 0 and 3. -/
theorem witness_doze : [
    [({ st := .satisfied, arm := 1 }, 0x90), ({ evicted := true, st := .armed }, 0x92), ({ backinv := true, st := .armed }, 0x94),
      ({ resumed := true, st := .armed }, 0x93), ({}, 0x95)].all (fun (q : Watch × Nat) =>
      let s := withStrand (fun st => { st with watch := [q.1, {}, {}, q.1] }) (withThreads (fun th => { th with st := .parked, park := .doze, psel := 9 }) b0)
      dozeReason [q.1, {}, {}, q.1] 9 false == some q.2 && happens (.dozeTimeout 2) s),
    dozeReason [{ st := .armed }, {}, {}, { st := .armed }] 9 true == some 1, dozeReason [{ st := .armed }, {}, {}, {}] 1 false == none].all id = true := by
  decide +kernel

/-- ResultsLand: a last result, a result for a strand that has ended or of another generation, a fence's result with what it waits for and
without, EWAIT and QFENCE with and without what they wait for. -/
theorem witness_results_land : [
    [(Status.resident, 1, true), (.ended, 1, true), (.resident, 0, true)].all (fun q =>
      happens (.resultLands 5) (withStrand (fun st => { st with status := q.1, gen := q.2.1, pend := [(8, 1)], holdTxn := some 9 })
        (mail (.result 9 0 [(vecKey 8 0, 7)]) (owing b0))) == q.2.2),
    [(true, false), (false, true)].all (fun q =>
      let s := withStrand (fun st => { st with fences := [(9, { ord := 3, scope := .pkg, waits := [7] })] }) (mail (.result 9 0 []) (owing b0))
      happens (.resultLands 5) (if q.1 then withOp op0 s else s) == q.2),
    [([(30, 12)], false), ([], true)].all (fun (q : List (Nat × Nat) × Bool) =>
      happens (.resultLands 5) (withStrand (fun st => { st with placed := q.1 }) (mail (.qwait 9 2 [12]) (owing b0))) == q.2),
    [([12], false), ([], true)].all (fun (q : List Nat × Bool) =>
      let s := mail (.ewait 9 2 (.coll [12])) (owing b0)
      happens (.resultLands 5) (withStrand (fun st => { st with placed := q.1.map (fun n => (18, n)) }) s) == q.2)].all id = true := by
  decide +kernel

/-- Captures: an addition with an unsettled source, with an unsettled predicate and an unsettled flag, and a predicate that keeps every
thread from a destination that is unsettled; without room for one more entry in the strand, parking and faulting, and in the lane;
a speculative task whose predicate is unsettled. Drains: the entry of a multiplication, whose predicate is captured, and settled now, with a
record that is sound and one that is not. -/
theorem witness_captures : [
    [([(9, 1)], []), ([(predLoc 1, 1)], []), ([], [(3, 1)]), ([(8, 1)], [])].all (fun (q : List (Nat × Nat) × List (Nat × Nat)) =>
      let i := Instr.iadd { h0 with pred := if q.1 == [(predLoc 1, 1)] then 1 else 0, wait := if q.2 == [] then 0 else 8 } (.v 8) (.v 9) (.u 4) .i32 false
      let s := deferring false (withStrand (fun st => { st with pend := q.1, flags := lset st.flags 3 (fun _ => if q.2 == [] then 0 else 1) }) (ready i))
      match issueOf i s with
      | some x => mayIssue s x.st x.h x.pc x.t0 && (r96 s i x.sh x.st).isNone && decide ((s.lane x.st.laneId).busy ≤ x.t0) && x.st.deferring &&
          (q.1 == [(predLoc 1, 1)] || !x.act.isEmpty) && setfOk x.st x.h x.t0 && (match exec i s with
            | .next t => ((t.strand 2).map (fun st => st.ents.length)) == some 1
            | _ => false)
      | none => false),
    [false, true].all (fun qflt =>
      let i := Instr.iadd h0 (.v 8) (.v 9) (.u 4) .i32 false
      let s := deferring qflt (withStrand (fun st => { st with pend := [(9, 1)], ents := entry9 1 }) (ready i))
      match exec i s with
      | .next t => ((t.strand 2).map (fun st => (st.ents.length, st.threads.all (fun th => th.st == .parked)))) == some (1, !qflt)
      | _ => false),
    (let i := Instr.iadd h0 (.v 8) (.v 9) (.u 4) .i32 false
     let s := deferring false (withStrand (fun st => { st with pend := [(9, 1)] }) (ready i))
     let s := { s with strands := s.strands ++ (s.strand 2).toList.map (fun st => (3, { st with slot := 1, ents := entry9 32 })) }
     s.laneEnts homeLane == 32 && (match exec i s with
      | .next t => (t.strand 2).map (fun st => st.threads.all (fun th => th.st == .parked)) == some true
      | _ => false)),
    (let i := Instr.task { h0 with pred := 1 } (.v 8) (.u 4) true
     let s := deferring false (withStrand (fun st => { st with pend := [(predLoc 1, 1), (8, 1)] }) (ready i))
     match exec i s with
      | .next t => (t.strand 2).map (fun st => st.ents.map (fun e => e.cause / 32 % 2)) == some [0]
      | _ => false),
    [some 0xFFFF, none].all (fun m => [false, true].all (fun bad =>
      let s := deferring false (withStrand (fun st => { st with ents := (entry9 1).map (fun e => { e with actm := m, bad := bad }), rtags := [(0, 4)] }) b0)
      happens (.residualDrain 2) s))].all id = true := by
  decide +kernel

def bar0 : BarId := ⟨1, 5⟩
def band0 : Band := { inc := 1, members := [2], bid := 6, exp := 8, count := 3, drop := 1, phase := 2 ^ 32 - 1 }
def banded (b : Band) (s : State) : State := withLaunch (fun l => { l with bands := [(5, b)] }) s
def arrival (kind : BarKind) (cnt : Nat) : Msg := .bar bar0 9 2 cnt kind 0 0 6

/-- BarrierArrivals: fewer arrivals than are missing, exactly those, and one more, of every kind, and for a domain barrier that has a
counter. BarrierMessages: BARI in a phase with an arrival and without, BARI.dom with and without a counter, BARQ; two messages in one
cycle; each message back to the lane. -/
theorem witness_barrier_events : [
    [BarKind.bard [], .bara true [], .bara false [], .barw []].all (fun k => [4, 5, 6].all (fun n =>
      happens (.barrierMessage bar0 [5]) (mail (arrival k n) (banded band0 (owing b0))))),
    [(BarKind.bari 8 false, 0), (.bari 8 false, 3), (.bari 8 true, 0), (.bari 8 true, 3), (.barq, 3)].all (fun q =>
      happens (.barrierMessage bar0 [5]) (mail (arrival q.1 1) (banded { band0 with count := q.2 } (owing b0)))),
    [0, 1].all (fun n =>
      let s := mail (arrival (.barw []) 1) (banded { band0 with dom := true } (owing b0))
      let s := withLaunch (fun l => { l with rcd := l.rcd ||| BitVec.ofNat 1024 (n * 2 ^ 821) }) s
      happens (.barrierMessage bar0 [5]) s && (domCtr s bar0).isSome == (n == 1)),
    [(false, 0), (true, 0), (false, 1), (true, 1)].all (fun q =>
      let s := mail (arrival (.bari 8 q.1) 1) (banded { band0 with dom := !q.1, count := 0 } (owing b0))
      let s := withLaunch (fun l => { l with rcd := l.rcd ||| BitVec.ofNat 1024 (q.2 * 2 ^ 821) }) s
      happens (.barrierMessage bar0 [5]) s && (domCtr s bar0).isSome == (q.2 == 1)),
    (let s := mail (arrival (.barw []) 1) (banded band0 (owing b0))
     let m : BarMsg := ⟨5, bar0, 9, 2, 1, .barw [], 0, 0, 6⟩
     !happens (.barrierMessage bar0 [5]) (banded { band0 with lastAt := s.cycle homePart, lastBy := m.place s } s)),
    [BarKind.barw [], .bari 8 false].all (fun k =>
      let st3 := (b0.strand 2).map (fun st => (3, { st with slot := 1 }))
      let s := { mail (arrival (.barw []) 1) (banded band0 (owing b0)) with strands := b0.strands ++ st3.toList }
      let s := { s with msgs := s.msgs ++ [(6, .bar bar0 9 3 1 k 0 0 6)] }
      happens (.barrierMessage bar0 [5, 6]) s && happens (.barrierMessage bar0 [6, 5]) s && happens (.barrierMessage bar0 [5]) s),
    [false, true].all (fun b => happens (.barrierAnswer 5) (mail (.barAns 9 7 b) (owing b0))),
    happens (.overArrivalRefusal 5) (mail (.barRefuse 2 0 { cause := 0x0B }) b0),
    [(Status.resident, none), (.ended, none), (.resident, some 7)].all (fun (q : Status × Option Nat) => happens (.barrierRelease 5)
      (withPart (fun p => { p with line := q.2 }) (withStrand (fun st => { st with status := q.1, framed := true })
        (withThreads (fun th => { th with st := .parked, park := .barw, psel := 5, parg := 7, ptxn := 9 }) (mail (.barRel 2 5 7 []) (owing b0))))) &&
      (mail (.barRel 2 5 7 []) (owing b0)).arrivalOut 9 == false)].all id = true := by
  decide +kernel

def ctr0 : DomCtr := { exp := 8, count := 3, drop := 1, phase := 4, users := [bar0] }
def counted (c : DomCtr) (kind : BarKind) (n : Nat) : State :=
  { linked2 {} (mail (.dom 40 bar0 9 2 n kind 0 0 6) (banded { band0 with dom := true } (owing b0))) with domCtrs := [(40, c)] }

/-- DomainCounters: BARI.dom first, with the standing number and with another; arrivals as at a record; the multicast at a record that uses
the counter and at one that does not. -/
theorem witness_domain_counters : [
    !happens (.domainCounterMessage 40 [5]) ({ counted ctr0 (.barw []) 1 with pkgs := b0.pkgs }),
    [(0, 9), (3, 8), (3, 9)].all (fun q => happens (.domainCounterMessage 40 [5]) (counted { ctr0 with count := q.1 } (.bari q.2 true) 1)),
    [(false, false, 9), (true, true, 8), (true, true, 9)].all (fun q =>
      happens (.domainCounterMessage 40 [5]) (counted { ctr0 with count := 0, setIn := q.2.1 } (.bari q.2.2 q.1) 1)),
    [0, 3].all (fun n => happens (.domainCounterMessage 40 [5])
      (banded { band0 with dom := true, count := n, asked := [(9, (4, false))] } (counted { ctr0 with count := 0 } (.bari 8 false) 1))),
    !happens (.domainCounterMessage 40 [5]) ({ counted ctr0 (.bari 8 true) 1 with msgs := (6, .domPhase 40 bar0 3 8 []) :: (counted ctr0 (.bari 8 true) 1).msgs }),
    [4, 5, 6].all (fun n => [BarKind.bard [], .barw [], .bara true []].all (fun k => happens (.domainCounterMessage 40 [5]) (counted ctr0 k n))),
    [(true, 4), (false, 4), (false, 5)].all (fun q =>
      happens (.domainPhaseMulticast 5) (linked2 {} (mail (.domPhase 40 bar0 4 7 []) (banded { band0 with dom := q.1, phase := q.2 } b0))))].all id = true := by
  decide +kernel

/-! ## Buffers, slots, tasks -/

def bufReq (r : BufReq) (b : Buf) (s : State) : State :=
  mail (.bufReq 9 2 tc0 5 r) ((owing s).modTc tc0 (fun t => { t with bufs := [(5, b)] }))
def buf0 (st : BufSt) : Buf := { base := 0, size := 64, st := st }
def task0 (acc buf cols len : Nat) : Line := BitVec.ofNat 512 (acc + 3 * 2 ^ 8 + buf * 2 ^ 16 + 2 ^ 32 + cols * 2 ^ 40 + len * 2 ^ 64)
def item (k : TKind) (acc : Nat) : TItem := { txn := 9, strand := 2, pc := 0, acc := some acc, kind := k }
/-- A tile with a slot that holds one Q4X block of zeros, a stationary buffer with another, and these items. -/
def matrix (bufSt : BufSt) (items : List TItem) (a : Acc) (s : State) : State :=
  let s := (owing s).modTc tc0 (fun t => { t with
    tq := items, bufs := [(5, buf0 bufSt)], slots := [(3, { st := .sealed_, blocks := [(0, 1), (1, 1)] })], accs := [(7, a)] })
  { s with mem := memPutAll s.mem (cellsOf 8 scratch0 1) }

/-- BufferChanges: every request in its state, with an earlier store on its way, with something pending on the buffer, and with a task
that names it. SlotWritesAndAccepts: an OPUT to an open slot and to another; an item, a task of a buffer that UNSTAT has marked among them. -/
theorem witness_buffer_events : [
    [(BufReq.set .full, BufSt.filling), (.set .filling, .empty), (.set .empty, .filling), (.brel, .filling), (.brel, .empty), (.stat, .full),
      (.unstat, .stationary)].all (fun q =>
      happens (.bufferStateChange 5) (bufReq q.1 (buf0 q.2) b0) && !happens (.bufferStateChange 5) (bufReq q.1 (buf0 q.2) (withOp op0 b0) |> fun s =>
        { s with msgs := s.msgs.map (fun m => (8, m.2)) }) == true),
    [BufReq.set .full, .stat].all (fun r =>
      let hm := Home.slicePort ⟨homePart, 0⟩ 0
      !happens (.bufferStateChange 5) (bufReq r (buf0 .filling) (queued hm [entryOf 7 { op0 with addr := scratch0 + 60 }] b0))),
    [false, true].all (fun late =>
      let s := (bufReq .unstat (buf0 .stationary) b0).modTc tc0 (fun t => { t with tq := [{ item (.task (task0 7 5 1 124) false) 7 with late := late }] })
      happens (.bufferStateChange 5) s == late),
    [SlotSt.open_, .sealed_].all (fun st => [none, some 1].all (fun d => happens (.oputApply 5)
      (mail (.oput 9 2 0 tc0 3 511 d true) ((owing b0).modTc tc0 (fun t => { t with slots := [(3, { st := st })] }))))),
    [false, true].all (fun u => happens (.taskQueueAccept 5) (mail (.tqItem tc0 (item (.task (task0 7 5 1 124) false) 7))
      (b0.modTc tc0 (fun t => { t with bufs := [(5, { buf0 .stationary with unstat := u })], promised := 1 }))))].all id = true := by
  decide +kernel

/-- TaskStarts: a task, one whose release condition holds and does not, a speculative one, one in an open shadow, one without its buffer and with a buffer that is FULL, one whose run goes
beyond its buffer, one with a header of code 0, and one at its end. SegmentSums: its first segment. -/
theorem witness_tasks : [
    [(task0 7 5 1 124, false, none), (task0 7 5 1 124, true, none), (task0 7 5 1 124, true, some []), (task0 7 5 1 124, false, some []),
      (task0 7 6 1 124, false, none), (task0 7 5 1 125, false, none)].all (fun (q : Line × Bool × Option (Assoc Nat (BitVec 40))) =>
      let s := matrix .stationary [item (.task q.1 q.2.1) 7] { shadow := q.2.2 } b0
      healthyNow s && ctxRuns s c0 && ((s.tc tc0).order 7).length == 1 && happens (.taskStart tc0 7) s),
    [true, false].all (fun met =>
      let s := matrix .stationary [{ item (.task (task0 7 5 1 124) false) 7 with rel := [7] }] {} b0
      happens (.taskStart tc0 7) (if met then s else withOp op0 s) == met),
    happens (.taskStart tc0 7) ((matrix .stationary [item (.task (task0 7 5 1 124) false) 7] {} b0).modTc tc0 (fun t => { t with
      slots := [(3, { st := .sealed_ })] })),
    happens (.taskStart tc0 7) (matrix .full [item (.task (task0 7 5 1 124) false) 7] {} b0),
    happens (.taskStart tc0 7) ((matrix .stationary [item (.task (task0 7 5 1 124) false) 7] {} b0).modTc tc0 (fun t => { t with
      slots := [(3, { st := .releasing, before := [9] })] })),
    [false, true].all (fun spec =>
      let s := matrix .stationary [{ item (.task (task0 7 5 1 124) spec) 7 with running := true }] { shadow := if spec then some [] else none } b0
      (runningOps s tc0 7).isSome && happens (.segmentComplete tc0 7) s && !happens (.taskRetire tc0 7) s),
    happens (.taskRetire tc0 7) (matrix .stationary [{ item (.task (task0 7 5 1 124) false) 7 with running := true, seg := 1 }] {} b0)].all id = true := by
  decide +kernel

/-- TaskOperands: a task whose rows and columns run, with a segment in every element; one beyond its region, and one with a header of code
0 in its rows. AccumulatorConversions: words for a tile of their kind and of the other, in the last columns. -/
theorem witness_task_operands :
    let s := matrix .stationary [] {} b0
    let slot (b : Line) : OSlot := { st := .sealed_, blocks := [(0, b), (1, b)] }
    let ops (len : Nat) (b : Line) := taskOps s tc0 (task0 7 5 1 len) (slot b) (buf0 .stationary) false
    [(match ops 124 1 with
       | .ok o => segCount o == 1 && o.rows.length == 1 && o.cols.length == 1
       | .error _ => false),
      ops 125 1 matches .error (.beyond 1), ops 124 0 matches .error (.header 0 0 1), ops 124 (255 * 2 ^ 8 + 0x3E) matches .error (.header 0 _ 1),
      [(Ty.f32, 0, true), (.f32, 1, false), (.i32, 0, false), (.i32, 2, true), (.i64, 0, true), (.i64, 1, true)].all (fun q =>
        (accWrite q.1 60 4 (List.replicate 8 (List.replicate 16 7)) { kind := q.2.1 }).isSome == q.2.2)].all id = true := by
  decide +kernel

/-- ItemsApply: every item with the shadow closed and open, at the head, and an ACCDSC after a speculative task that waits and one that runs. -/
theorem witness_items : [
    [none, some []].all (fun (sh : Option (Assoc Nat (BitVec 40))) =>
      [TKind.accz 1, .accwr .f32 0 1 [List.replicate 16 0], .accwr .i32 60 2 [], .accrd .f32 .rne false true 0 1, .acccmt, .accdsc, .twait].all (fun k =>
        happens (.accumulatorItemApply tc0 7) (matrix .stationary [item k 7] { shadow := sh } b0))),
    happens (.accumulatorItemApply tc0 32) (matrix .stationary [{ item .twaitAll 32 with acc := none }] {} b0),
    [false, true].all (fun run => happens (.accumulatorItemApply tc0 7)
      (matrix .stationary [{ item (.task (task0 7 5 1 124) true) 7 with txn := 8, running := run }, item .accdsc 7] { shadow := some [] } b0))].all id = true := by
  decide +kernel

/-! ## Engines and collectives -/

/-- A layout of one row of two blocks at 0x400 with the header check `chk`; ring 6 of engine 1 over buffer 5 or slot 3. -/
def lay1 (chk : Nat) : Line := BitVec.ofNat 512 (0x400 + chk * 2 ^ 64 + (2 + 2 ^ 16 + 2 ^ 32 + 2 ^ 48) * 2 ^ 256)
def ring1 (fill slots : Bool) (chk : Nat) : Ring :=
  { fill := fill, slots := slots, layNo := 2, lay := lay1 chk, first := if slots then 3 else 5, n := 1, total := 2, strand := 2, pc := 0, txn := 9 }
def engine1 (rings : List Ring) (cq : List ECmd) (bst : BufSt) (s : State) : State :=
  (owing s).modTc tc0 (fun t => { t with
    engines := [(1, { lays := [(2, lay1 0)], rings := rings.map (fun r => (6, r)), cq := cq })]
    bufs := [(5, { buf0 bst with size := 128, ring := !rings.isEmpty })], slots := [(3, { st := if rings.isEmpty then .free else .open_, ring := !rings.isEmpty })] })

/-- EngineCommands: SLAY with a ring on its layout and without; a bind that fits, one of no transfers, one of a ring that is bound, one
of a layout that is not installed, and one whose release condition does not hold. -/
theorem witness_engine_commands : [
    [false, true].all (fun b => happens (.slayInstall tc0 1) (engine1 (if b then [ring1 true false 0] else []) [.slay 9 2 0 2 (lay1 0)] .empty b0) == !b),
    [(true, false, 2, 4), (false, false, 2, 4), (true, true, 2, 4), (true, false, 2, 0), (true, false, 3, 4)].all (fun q =>
      happens (.ringBindCheck tc0 1) (engine1 [] [.bind 9 2 0 q.1 q.2.1 6 q.2.2.1 (if q.2.1 then 3 else 5) 1 q.2.2.2 20 []] .empty b0)),
    !happens (.ringBindCheck tc0 1) (withOp op0 (engine1 [] [.bind 9 2 0 true false 6 2 5 1 4 20 [7]] .empty b0)),
    happens (.ringBindCheck tc0 1) (engine1 [ring1 true false 0] [.bind 9 2 0 true false 6 2 5 1 4 20 []] .empty b0)].all id = true := by
  decide +kernel

/-- RingTransfers: starts of fills and drains with the entry free, signalled and neither; ends of fills into a buffer and a slot, with a
check that passes and one that fails, of drains before and after their writes, of one whose page is not there and one that may not be
read, of one that a buffer refuses, and fills that wait for an entry of a page table and for a word. RingSignals: of each kind for a filled entry, for none, and for a ring that is not there, and one that must wait. -/
theorem witness_rings : [
    [(ring1 true true 0, BufSt.empty, true), (ring1 true false 0, .empty, true), (ring1 false false 0, .draining, true), (ring1 true false 0, .full, false),
      (ring1 false false 0, .filling, false)].all (fun q => happens (.ringTransferStart tc0 1 6) (engine1 [q.1] [] q.2.1 b0) == q.2.2),
    [(ring1 true false 0, 0x73, true), (ring1 true true 0, 0x73, true), (ring1 true false 1, 0x73, true), (ring1 false false 0, 0x73, true),
      (ring1 true false 0, 0x63, true), (ring1 true false 0, 0, true)].all (fun (q : Ring × Nat × Bool) =>
      let s := engine1 [{ q.1 with moving := true }] [] .filling { paged q.2.1 b0 with tiles := [] }
      healthyNow s && ctxRuns s c0 && happens (.ringTransferDone tc0 1 6) s == q.2.2),
    [0x100000, 0x102000].all (fun a =>
      let s := engine1 [{ ring1 true false 0 with moving := true }] [] .filling { paged 0x73 b0 with tiles := [] }
      !happens (.ringTransferDone tc0 1 6) (queued (devHome 0 a) [entryOf 7 { op0 with addr := a, size := 8 }] s)),
    (let s := engine1 [{ ring1 true false 0 with moving := true }] [] .filling { paged 0x73 b0 with tiles := [] }
     !happens (.ringTransferDone tc0 1 6) (queued near0 [entryOf 7 op0] s)),
    (let lay : Line := BitVec.ofNat 512 (window1 + (2 + 2 ^ 16 + 2 ^ 32 + 2 ^ 48) * 2 ^ 256)
     let s := inFilling (engine1 [{ ring1 true false 0 with moving := true, lay := lay }] [] .filling b0)
     (s.bufferRefuses c0 (.slicePort ⟨homePart, 1⟩ 0) (scratchKey 0 (b0.part homePart) 1 0) true).isSome && happens (.ringTransferDone tc0 1 6) s),
    happens (.ringTransferDone tc0 1 6) (engine1 [{ ring1 false false 0 with moving := true, wrote := true, waits := [7] }] [] .draining b0),
    [(true, false, 1, true, BufSt.full), (false, true, 0, true, .filling), (true, false, 0, true, .empty), (true, true, 1, true, .full), (false, false, 0, true, .filling),
      (false, true, 0, true, .draining)].all (fun q =>
      happens (.ssigApply 5) (mail (.ssig 9 2 0 tc0 1 6 q.2.1 []) (engine1 [{ ring1 q.1 false 0 with done := q.2.2.1 }] [] q.2.2.2.2 b0)) == q.2.2.2.1),
    happens (.ssigApply 5) (mail (.ssig 9 2 0 tc0 1 6 false []) (engine1 [{ ring1 true true 0 with done := 1 }] [] .full b0)),
    happens (.ssigApply 5) (mail (.ssig 9 2 0 tc0 1 7 false []) (engine1 [] [] .full b0)),
    !happens (.ssigApply 5) (mail (.ssig 9 2 0 tc0 1 6 true [7]) (engine1 [ring1 false false 0] [] .filling (withOp op0 b0)))].all id = true := by
  decide +kernel

/-- TransferEffects: addresses on both sides of the window's ends and of the image, and translated ones; a fill of a slot and of a buffer, a
drain to two places apart from each other and from the buffer; a ring that has ended and one that has not. An access to near memory
of another package in no common group is refused. -/
theorem witness_transfer_effects :
    let s := engine1 [ring1 false false 0] [] .filling { paged 0x73 b0 with tiles := [] }
    let at_ (need : Need) (va : Nat) := engineAddr s tc0 need va
    let bad (r : EAddr) : Bool := r matches .bad
    let key (r : EAddr) : Bool := r matches .key _ _
    let b := (aget (s.tc tc0).bufs 5).getD (buf0 .empty)
    [bad (at_ .rd (2 ^ 56)), bad (at_ .rd 0xFE000000000000), bad (at_ .rd 0xFEFFFFFFFFFFFF), key (at_ .rd 0xFF000000000000),
      key (at_ .w (0xFF000000000000 + 4 * 2 ^ 23 - 1)), bad (at_ .w (0xFF000000000000 + 4 * 2 ^ 23)), key (at_ .w 0x400),
      bad (engineAddr (engine1 [] [] .full { paged 0x53 b0 with tiles := [] }) tc0 .w 0x400),
      (engineAddr (engine1 [] [] .full { paged 0 b0 with tiles := [] }) tc0 .rd 0x400) matches .page,
      healthyNow s && (aget (s.tc tc0).bufs 5).isSome && bufKey s tc0 b 1 == bufKey s tc0 b 0 + 64 && decide (0x440 < bufKey s tc0 b 0),
      ((engine1 [ring1 true true 0] [] .full b0).tc tc0).slots.any (fun x => x.1 == 3),
      [(2, 2, true), (2, 1, false), (1, 2, false)].all (fun q =>
        let r := { ring1 true false 0 with done := q.1, signalled := q.2.1 }
        (aget (agetD ((ringSweep tc0 (engine1 [r] [] .full b0)).tc tc0).engines 1 {}).rings 6).isNone == q.2.2),
      (let lay : Line := BitVec.ofNat 512 (0x400 + (2 + 2 ^ 16 + 2 ^ 32 + 2 ^ 48) * 2 ^ 256)
       let s := domain2 (engine1 [{ ring1 true false 0 with moving := true, lay := lay }] [] .filling { paged (2 ^ 45 + 0x73) b0 with tiles := [] })
       match engineAddr s tc0 .rd 0x400 with
        | .key k (.near 1 _ _) => (s.sliceOwner 1 (k % 2 ^ 45)).isNone && happens (.ringTransferDone tc0 1 6) s
        | _ => false)].all id = true := by
  decide +kernel

/-- A collective command of three 4-byte elements at 0x400 for region 9 of the package of rank 0, with number 5. -/
def coll0 (extra : Nat) : Coll :=
  { txn := 9, strand := 2, pc := 0, ctx := c0, rcd := BitVec.ofNat 512 (0x400 + 3 * 2 ^ 64 + 9 * 2 ^ 96 + 8 * 2 ^ 128 + 5 * 2 ^ 160 + extra), no := 4, prev := 3 }
def region0 (next len : Nat) : Region := { ctx := c0, base := 0x800, len := len, bf16 := false, next := next }
def collecting (cs : List Coll) (held : List (PartId × Nat × Coll)) (rs : List Region) (leaf : Nat) (s : State) : State :=
  withPart (fun p => { p with cqs := [(2, cs)], held := held, regions := rs.map (fun r => (9, r)) }) { paged leaf (owing s) with tiles := [] }

/-- CollectiveStarts: a command that may start, one that waits for the command before it, for a region and for a store; one for no
package, one whose page is not there, one whose element is on no readable page, one in a buffer that refuses it, and one that waits for an
entry of a page table and for its element. -/
theorem witness_collective_starts : [
    [(coll0 0, [], 0x73, true), (coll0 (2 ^ 252), [{ coll0 0 with no := 3, started := true }], 0x73, false), (coll0 (2 ^ 200 + 9 * 2 ^ 192 + 6 * 2 ^ 208), [], 0x73, false),
      ({ coll0 0 with rel := [7] }, [], 0x73, false), (coll0 (2 ^ 112), [], 0x73, true), (coll0 0, [], 0, true), (coll0 0, [], 0x63, true)].all
        (fun (q : Coll × List Coll × Nat × Bool) =>
      let s := collecting (q.2.1 ++ [q.1]) [] [region0 5 64] q.2.2.1 b0
      let s := if q.1.rel.isEmpty then s else withOp op0 s
      healthyNow s && ctxRuns s c0 && happens (.collCommandStart homePart 2) s == q.2.2.2),
    (let s := inFilling (collecting [coll0 (window1 - 0x400)] [] [region0 5 64] 0x73 b0)
     (s.bufferRefuses c0 (.slicePort ⟨homePart, 1⟩ 0) (scratchKey 0 (b0.part homePart) 1 0) true).isSome && happens (.collCommandStart homePart 2) s),
    [0x102000, 0x400].all (fun a => !happens (.collCommandStart homePart 2)
      (queued (devHome 0 a) [entryOf 7 { op0 with addr := a }] (collecting [coll0 0] [] [region0 5 64] 0x73 b0)))].all id = true := by
  decide +kernel

/-- CollectiveOrder: a command whose turn it is, one ahead with 63 and with 64 held, one that is late, at a region that is not set, refused
before 2^24 cycles and after; applied within its region and beyond it, as a copy and as a sum; one whose number has passed while
it was held, and a second one whose turn it is; its acknowledgement with its writes
performed and not. -/
theorem witness_collective_order : [
    [(5, 0, true), (6, 0, true), (4, 63, true), (4, 64, true)].all (fun (q : Nat × Nat × Bool) =>
      let other (i : Nat) : Coll := { coll0 (10 * 2 ^ 160) with no := i + 10 }
      happens (.collArrival 5) (mail (.coll homePart 2 (coll0 0)) (collecting [] ((List.range q.2.1).map (fun i => (homePart, 2, other i))) [region0 q.1 64] 0x73 b0)) == q.2.2),
    happens (.collArrival 5) (mail (.coll homePart 2 (coll0 0)) (collecting [] [] [] 0x73 b0)),
    [(2 ^ 24, true), (2 ^ 24 - 1, false)].all (fun q =>
      let s := mail (.coll homePart 2 { coll0 0 with refusedAt := some 0 }) (collecting [coll0 0] [] [] 0x73 b0)
      happens (.collRefusalTimeout 5) (s.modPkg 0 (fun p => { p with cyc := q.1 })) == q.2),
    [(0, 64), (2 ^ 240, 64), (0, 16)].all (fun q =>
      let s := collecting [{ coll0 q.1 with started := true }] [(homePart, 2, { coll0 q.1 with started := true, src := [1, 2, 3] })] [region0 5 q.2] 0x73 b0
      healthyNow s && (s.part homePart).line.isNone && happens (.collApply homePart 9) s),
    (let s := collecting [coll0 0] [(homePart, 2, { coll0 0 with src := [1, 2, 3] })] [region0 6 64] 0x73 b0
     healthyNow s && happens (.collApply homePart 9) s),
    (let s := collecting [coll0 0] [(homePart, 2, { coll0 0 with src := [1, 2, 3] })] [{ region0 5 64 with gone := true }] 0x73 b0
     healthyNow s && happens (.collApply homePart 9) s),
    [0, 127, 128].all (fun n =>
      let cmd := { coll0 0 with ctx := ⟨⟨1, 0⟩, 0⟩ }
      let s := linked2 { replay := List.replicate n (flit 7) } (mail (.coll homePart 2 cmd) (collecting [] [] [region0 5 64] 0x73 b0))
      happens (.collArrival 5) s == decide (n < 128)),
    (let s := collecting [coll0 0] [(homePart, 2, { coll0 0 with src := [1, 2, 3] })] [region0 5 64] 0x73 b0
     (aheadHeld s homePart == 0) && happens (.collArrival 5) (mail (.coll homePart 2 { coll0 0 with no := 14 }) s)),
    [([], true), ([7], false)].all (fun (q : List Nat × Bool) =>
      happens (.collAck 5) (mail (.collAck homePart 2 4 q.1 0) (withOp op0 (collecting [coll0 0] [] [] 0x73 b0))) == q.2)].all id = true := by
  decide +kernel

/-! ## Launches -/

def rec1 (extra : Nat) : Nat := 1 + 2 ^ 300 + 2 ^ 304 + 2 ^ 320 + 48 * 2 ^ 338 + 64 * 2 ^ 344 + 2 ^ 356 + 2 ^ 448 + extra
/-- Launch queue 3: enabled, of 16 records at 0x4000, its words at 0x2000. -/
def desc3 (flags : Nat) : BitVec 128 := BitVec.ofNat 128 (flags + 0x4000 * 2 ^ 16 + 0x2000 * 2 ^ 72)
def putRec (a v : Nat) (s : State) : State := { s with mem := memPutAll s.mem (cellsOf 128 a v) }
def withQueue (flags tail head rcd : Nat) (s : State) : State :=
  let s := withPart (fun p => { p with queues := [(3, desc3 flags)] }) (putRec 0x4000 rcd s)
  { s with mem := memPutAll s.mem (cellsOf 8 0x2000 (tail + head * 2 ^ 32)), launches := [] }

/-- LaunchEnqueues: a queue that takes the record, one that is full, one that is not enabled, one that LAUNCH does not feed, a record that
fails its check, one in a buffer that refuses its read, and one in the strand's own image. -/
theorem witness_launch : [
    [(5, 0, rec1 0), (5, 16, rec1 0), (4, 0, rec1 0), (1, 0, rec1 0), (5, 0, 0)].all (fun q =>
      let i := Instr.launch h0 (.u 8) (.u 2) (.u 6)
      let s := withRegs [(uniKey 6, 3)] (pointing 0x400 i)
      meets i (putRec 0x400 q.2.2 { withQueue q.1 q.2.1 0 0 s with launches := s.launches }) (fun y s1 => memGate s1 y && (match checkAddr s1 y.st .rd (readThread s1 y y.lead).a 128 with
        | .at_ (.mem key _ _) => key == 0x400
        | _ => false) &&
        s1.ops.isEmpty && (queueDesc s1 homePart 3).size == 16 && queueHolds s1 (queueDesc s1 homePart 3) == q.2.1 &&
        launchQuiet s1 homePart 3 (BitVec.ofNat 1024 q.2.2) && (match pairRead y homeLane.tile.t 0x400 s1 with
          | some (_, f) => f.isNone
          | none => false))),
    (let i := Instr.launch h0 (.u 8) (.u 2) (.u 6)
     meets i (inFilling (withRegs [(uniKey 6, 3)] (pointing window1 i))) (fun y s1 => memGate s1 y && s1.ops.isEmpty &&
        (match checkAddr s1 y.st .rd (readThread s1 y y.lead).a 128 with
          | .at_ (.mem key _ tile) => launchQuiet s1 homePart 3 (BitVec.ofNat 1024 (s1.read 128 key)) && (match pairRead y tile key s1 with
            | some (_, f) => f.isSome
            | none => false)
          | _ => false))),
    (let i := Instr.launch h0 (.u 8) (.u 2) (.u 6)
     meets i (inImage (pointing 0xFE000000000200 i)) (fun y s1 => checkAddr s1 y.st .rd (readThread s1 y y.lead).a 128 matches .at_ (.image 0x200)))].all id = true := by
  decide +kernel

/-- LaunchQueues: a descriptor that is sound, one that is not, and one whose pseudo-channel has no entry left; disabled; a polled queue that
is watched again; a compute record, a graph of one node, a record that fails; a mode-set record with a table and without, and with a launch
that runs; a queue with a write pending on its head word. -/
theorem witness_launch_queues : [
    [(desc3 1, 0), (desc3 1, 15), (desc3 1, 16), (desc3 (1 + 2 ^ 75), 0)].all (fun q =>
      [false, true].all (fun vf => happens (.queueEnable homePart 3 ⟨vf, q.1⟩)
        (b0.modHome (devHome 0 0x2000) (fun h => { h with reserved := (List.range q.2).map (fun n => (⟨0, 9⟩, n)) })))),
    happens (.queueDisable homePart 3) (withQueue 1 0 0 0 b0),
    happens (.tailPoll homePart 3) (withPart (fun p => { p with polled := [3] }) (withQueue 1 0 0 0 b0)),
    [(rec1 0, 1), (0, 0), (rec1 0 - 2 ^ 448, 0), (3 + 0x400 * 2 ^ 696, 3)].all (fun q =>
      let s := withQueue 1 1 0 q.1 { paged 0x73 b0 with tiles := [] }
      happens (.launchRecordTake homePart 3) (putRec 0x400 (rec1 0) s)),
    [(2 + 2 ^ 8, true), (2 + 2 ^ 11 + 3 * 2 ^ 12, true), (2 + 2 ^ 10 + 0x400 * 2 ^ 696, true)].all (fun q =>
      happens (.modeSetApply homePart 3) (withQueue 1 1 0 q.1 { paged 0x73 b0 with tiles := [] }) == q.2),
    !happens (.modeSetApply homePart 3) { withQueue 1 1 0 (2 + 2 ^ 8) b0 with launches := b0.launches },
    (let s := withQueue 1 1 0 (rec1 0) { paged 0x73 b0 with tiles := [] }
     let s' := queued (devHome 0 0x2000) [entryOf 7 { op0 with addr := 0x2000 }] s
     queueQuiet s homePart (s.queue homePart 3) 0 && !queueQuiet s' homePart (s'.queue homePart 3) 0 && !happens (.launchRecordTake homePart 3) s')].all id = true := by
  decide +kernel

def launch1 (extra : Nat) (st : LSt) : Launch := { ctx := c0, queue := 3, rcd := BitVec.ofNat 1024 (rec1 extra), st := st }
/-- Only these launches; `k` strands of launch 1 on the slots of lane 0. -/
def launching (ls : List (Nat × Launch)) (k : Nat) (s : State) : State :=
  match s.strand 2 with
  | some st => { s with launches := ls, strands := (List.range k).map (fun i => (2 + i, { st with slot := i })) }
  | none => s

/-- Slices: of two candidates the one with the earlier deadline; with its lane full, a running slice with a later deadline, and with none, a
candidate on another tile. A strand is created in the lowest free slot, the last one with fewer threads; a saved strand comes back. -/
theorem witness_slices : [
    happens (.sliceSelect homePart) (launching [(11, launch1 (9 * 2 ^ 512) .taken), (12, launch1 (8 * 2 ^ 512) .taken)] 0 b0),
    happens (.sliceSelect homePart) (launching [(1, { launch1 (9 * 2 ^ 512) .running with live := [2] }), (12, launch1 0 .taken)] 8 b0),
    (let s := launching [(1, { launch1 0 .running with live := [2] }), (12, launch1 (2 ^ 512) .taken), (13, launch1 (2 ^ 513 + 2 ^ 312) .taken)] 8 b0
     (victims s homePart (launch1 (2 ^ 512) .taken)).isEmpty && happens (.sliceSelect homePart) s),
    [0, 7].all (fun k => [0, 2 ^ 356].all (fun n => let s := launching [(11, launch1 n .creating)] k b0
      (grant s homeLane).map (fun g => g.1) == some k && happens (.strandCreate 11) s)),
    (let s := withStrand (fun st => { st with status := .saved, launch := 11 }) (launching [(11, { launch1 0 .running with live := [2], nextSid := 1 })] 1 b0)
     happens (.strandCreate 11) { s with txns := [] })].all id = true := by
  decide +kernel

/-- BudgetsAndRetirement: a budget that has run out with a handler and without, the end of the grace, a slice that is whole with no record,
with one, and with one at no place, one ended by its budget, a node of a graph, one that is not whole, and one that has retired: its record, to a place and to none, and its events, once
its writes are performed, the line is down and no earlier one is left; a record in a package that the partition does not reach. -/
theorem witness_budgets : [
    [0, 0x400 * 2 ^ 760].all (fun v => happens (.budgetExpiry 1) (launching [(1, { launch1 v .running with live := [2], used := 1 })] 1 b0)),
    happens (.budgetGraceExpiry 1) (launching [(1, { launch1 0 .running with live := [2], used := 1, grace := some 0 })] 1 b0),
    [(0, LSt.running), (0x400 * 2 ^ 640, .running), (2 ^ 30 * 2 ^ 640, .running), (0x400 * 2 ^ 640, .byBudget)].all (fun q =>
      let s := launching [(1, launch1 q.1 q.2)] 0 { paged 0x73 b0 with tiles := [], ops := [] }
      sliceDone s 1 (launch1 q.1 q.2) && happens (.sliceRetire 1) s),
    (let s := launching [(1, { launch1 0 .running with node := some (30, 0) })] 0 b0
     happens (.sliceRetire 1) { s with graphs := [(30, { ctx := c0, queue := 3, rcd := 3, nodes := [BitVec.ofNat 1024 (rec1 0)], began := [0] })] }),
    !happens (.sliceRetire 1) (launching [(1, { launch1 0 .running with live := [2] })] 1 b0),
    [(0x400 * 2 ^ 640, true, false), (2 ^ 30 * 2 ^ 640, true, false), (0x400 * 2 ^ 640, false, false), (2 ^ 9, false, true)].all (fun q =>
      let l := { launch1 q.1 .retired with record := if q.2.1 then some 5 else none, lost := q.2.2, waits := [7] }
      let s := launching [(1, l)] 0 { paged 0x73 b0 with tiles := [], ops := [] }
      happens (.sliceRetire 1) s && !happens (.sliceRetire 1) (withOp op0 s) && !happens (.sliceRetire 1) (withPart (fun p => { p with line := some 7 }) s) &&
        !happens (.sliceRetire 1) { s with launches := (0, launch1 0 .retired) :: s.launches }),
    (let l := { launch1 (0x400 * 2 ^ 640) .retired with record := some 5 }
     let s := launching [(1, l)] 0 { domain2 (paged (2 ^ 45 + 0x73) b0) with tiles := [], ops := [] }
     writesQuiet s c0 [0x400] && happens (.sliceRetire 1) s && (match ioAddr s c0 .w 0x400 with
       | .key key (.near 1 _ _) => (s.sliceOwner 1 (key % 2 ^ 45)).isNone
       | _ => false)),
    [0, 2 ^ 9].all (fun v => happens (.sliceRetire 1) (launching [(1, launch1 v .retired)] 0 b0))].all id = true := by
  decide +kernel

/-! ## Contexts, partitions, links and self-tests -/

def ctxIn (st : Nat) (s : State) : State := s.modCtx c0 (fun x => { x with st := st })
def up (l : Option Nat) (s : State) : State := withPart (fun p => { p with line := l }) s

/-- ContextSaves and ContextMoves: SAVE and MOVE of a running context; a knell that has run out for a strand that can be cut back, one with
no live thread, one in its handler, and one with a write on its way; a context that is wholly saved; RESUME with room and without; MOVE of a
saved context that may go, and one that may not; its arrival. -/
theorem witness_contexts : [
    [1, 2].all (fun n => (happens (.save c0) (ctxIn n b0)) == (n == 1)), happens (.move c0 1) b0,
    [(false, false, true), (true, false, true), (false, true, false)].all (fun q =>
      let s := (ctxIn 2 b0).modCtx c0 (fun x => { x with knell := some 0 })
      let s := withStrand (fun st => { st with knell := true, priv := q.1, region := st.threads.map (fun t => t.record 0) }) s
      let s := { s with txns := if q.2.1 then [(9, tx9 1)] else [] }
      outstanding s 2 == q.2.1 && happens (.knellCountExpiry c0) s == q.2.2),
    happens (.saveCompletion c0) (withStrand (fun st => { st with status := .saved }) (ctxIn 2 { b0 with ops := [], msgs := [], txns := [] })),
    (let s := withPart (fun p => { p with recs := [(.launcher, 5)] }) (inBuf .full (withStrand (fun st => { st with status := .saved })
       (ctxIn 2 { b0 with ops := [], msgs := [], txns := [] })))
     saveReady s c0 && happens (.saveCompletion c0) s),
    !happens (.saveCompletion c0) (ctxIn 2 b0),
    [(0, 0), (1, 64)].all (fun q => happens (.resume c0) (withPart (fun p => { p with cqs := [(0, List.replicate q.2 (coll0 0))] })
      ((ctxIn 3 b0).modCtx c0 (fun x => { x with held := List.replicate q.1 (0, coll0 0) })))),
    (let s := (inBuf .full (ctxIn 3 b0)).modCtx c0 (fun x => { x with bytes := [((0, 0), 7)] })
     let s' : State := { s with ctxs := s.ctxs ++ [(⟨homePart, 1⟩, { st := 1 })] }
     let s' := s'.modTc ⟨⟨homePart, 1⟩, 0⟩ (fun t => { t with bufs := [(2, { base := 0, size := 64, st := .full })] })
     !buffersTaken s c0 && happens (.resume c0) s && buffersTaken s' c0 && happens (.resume c0) s'),
    (let dst (s : State) : State := { s with parts := s.parts ++ [(⟨0, 1⟩, { gran := [7] })] }
     let base := ctxIn 3 b0
     let mine := withPart (fun p => { p with regions := [(4, region0 1 8)] }) base
     let holds := base.modCtx c0 (fun x => { x with held := [(2, coll0 0)] })
     [(base, false), (dst base, false), (dst mine, false),
       ({ mine with parts := mine.parts ++ [(⟨0, 1⟩, { gran := [7], regions := [(4, region0 1 8)] })] }, true),
       ({ holds with parts := holds.parts ++ [(⟨0, 1⟩, { gran := [7], cqs := [(2, List.replicate 64 (coll0 0))] })] }, true)].all (fun (q : State × Bool) =>
      happens (.move c0 1) q.1 && (moveRefused q.1 c0 ⟨0, 1⟩ == (q.2 || q.1.parts.length == base.parts.length)))),
    happens (.move c0 1) (ctxIn 3 b0),
    happens (.move c0 1) { ctxIn 3 b0 with parts := b0.parts ++ [(⟨0, 1⟩, { gran := [7] })] },
    happens (.moveArrival 5) (mail (.move c0 1 3) (({ ctxIn 5 b0 with parts := b0.parts ++ [(⟨0, 1⟩, { gran := [7] })] } : State).modCtx c0 (fun x =>
      { x with bytes := [((0, 0), 7)], stops := [(.launcher, 5)] }))),
    happens (.moveArrival 5) (mail (.move c0 1 3) { ctxIn 5 b0 with parts := b0.parts ++ [(⟨0, 1⟩, { gran := [7] })] })].all id = true := by
  decide +kernel

/-- LinesAndCommands: HALT, RELEASE, REPLAY and INVAL; RELEASE of a strand whose barrier completed meanwhile; each unit that has not stopped; an originator that enters its
handler. -/
theorem witness_lines : [
    [1, 3].all (fun n => happens (.halt c0) (ctxIn n b0) == (n == 1)),
    [4, 1].all (fun n => happens (.release c0) (up (some 7) (ctxIn n b0)) == (n == 4)),
    [UnitId.strand 2, .sched 3, .launcher, .collective 3, .engine 3 1].all (fun u =>
      happens (.unitStop homePart u) (up (some 7) b0) && !happens (.unitStop homePart u) b0),
    (let s := withStrand (fun st => { st with orig := some (1, 7, 0xFFFF), tvec := 0x400, stopped := true }) (up (some 7) b0)
     let units : List UnitId := (List.range 4).flatMap (fun n => [.sched n, .engine n 0, .engine n 1]) ++ [.launcher] ++ (List.range 4).map (fun n => .collective n)
     let s := withPart (fun p => { p with quiet := units, originators := [2] }) s
     allStopped s homePart && happens (.originatorHandlerEntry 2) s),
    (let s := withStrand (fun st => { st with recorded := [(5, 7)] }) (withThreads (fun th => { th with st := .parked, park := .barw, psel := 5, parg := 7, ptxn := 9 })
       (owing (up (some 7) (ctxIn 4 b0))))
     match (evOf (.release c0)).bind (fun f => f s) with
     | some t => (t.strand 2).map (fun st => st.threads.all (fun th => th.st == .live)) == some true && s.arrivalOut 9 == false
     | none => false),
    !happens (.originatorHandlerEntry 2) (withStrand (fun st => { st with orig := some (1, 7, 0xFFFF), tvec := 0x400 }) b0),
    [0, 1].all (fun st => happens (.replay c0) (ctxIn st b0) && happens (.inval c0) (ctxIn st b0)),
    [(3, true), (4, false)].all (fun q => happens (.replay ⟨homePart, q.1⟩) b0 == q.2 && happens (.inval ⟨homePart, q.1⟩) b0 == q.2)].all id = true := by
  decide +kernel

def did (o : Option State) : Bool := o.isSome

/-- Configuration: each command of the physical function where it succeeds and where it does not. -/
theorem witness_configuration : [
    [(⟨0, 47⟩, true), (⟨0, 48⟩, false), (homePart, false), (⟨1, 0⟩, false)].all (fun (q : PartId × Bool) => did (evCreatePartition q.1 b0) == q.2),
    [([46, 47], true), ([48], false), ((b0.part homePart).gran, false)].all (fun (q : List Nat × Bool) =>
      did (evAssignGranules ⟨0, 1⟩ q.1 { b0 with parts := b0.parts ++ [(⟨0, 1⟩, {})] }) == q.2),
    did (evCreateContext ⟨homePart, 3⟩ b0),
    did (evCreateContext ⟨homePart, 3⟩ { b0 with ctxs := b0.ctxs ++ [(⟨homePart, 3⟩, { st := 0, kcnt := 5, dest := 6 })] }), did (evSetTranslationRoot c0 4096 b0), did (evDestroyPartition homePart b0),
    [true, false].all (fun d => did (evEnrolDomainGroup homePart 7 (b0.modPkg 0 (fun p => { p with inDomain := d }))) == d),
    did (evContextEnd c0 { b0 with launches := [], strands := [] }),
    did (evContextEnd c0 (withPart (fun p => { p with regions := [(4, region0 1 8)] })
      { b0 with launches := [], strands := [] }))].all id = true := by
  decide +kernel

def linked (c : VChan) : State := b0.modPkg 0 (fun p => { p with ports := [(15, { up := true, vcs := [(2, c)] })] })


/-- Links: a port that is up and not tested, which expects a data flit with this number, is after it, or waits for one that it refused; a
nonzero zero field; ACK, NACK, the flits sent again once they are due; training of a port that is down, in a domain and outside; a port
that is down. -/
theorem witness_links : [
    [(4095, false), (4094, false), (0, false), (0, true)].all (fun (q : Nat × Bool) =>
      let s := linked { expect := 4095, refusing := q.2 }
      portUp s 0 15 && (s.testOf 0 (portUnit 15 0)).isNone && ((portOf s 0 15).vc 2).refusing == q.2 &&
        ((portOf s 0 15).vc (hVc (flitH 0 q.1 0))).expect == 4095 && hSeq (flitH 0 q.1 0) == q.1 && hZero (flitH 0 q.1 0) == 0),
    hZero (flitH 0 0 0 + 2 ^ 17) != 0,
    did (evAckReceive 0 15 (flitH 1 0 7) (linked { resend := some (7, 0), replay := [flit 7, flit 8] })),
    did (evNackReceive 0 15 (flitH 2 0 7) true (linked { replay := [flit 7], crcNacks := 7, crcSeq := 7 })),
    [(0, true), (1, false)].all (fun q => did (evRetransmit 0 15 2 (linked { resend := some (7, q.1), replay := [flit 7] })) == q.2),
    did (evLinkControl 0 15 (flitH 3 0 0) (linked {})),
    [false, true].all (fun d => did (evLinkControl 0 14 (flitH 3 0 0) ((linked {}).modPkg 0 (fun p => { p with inDomain := d })))),
    !did (evFlitReceive 0 14 (flitH 0 0 0) (List.replicate 240 0) 0 true (linked {}))].all id = true := by
  decide +kernel

/-- Links: a CRC that passes and one that does not, whatever the CRC is. -/
theorem witness_crc (h : BitVec 64) (p : List Byte) : (∃ c, c = crcOf h p) ∧ ∃ c, c ≠ crcOf h p :=
  ⟨⟨_, rfl⟩, crcOf h p + 1, by bv_omega⟩

/-- FabricMessages: one with no route; routes from package 0 to 1 on each channel, with 127 flits in the replay buffer, with 128, behind
another, behind an operation, and with no port up. -/
theorem witness_fabric_messages : [
    (Msg.barRel 2 5 7 []).route b0 == none,
    [(Msg.arm 2 0 9 0x400 (2 ^ 45) (.near 1 0 0), 0), (.armAck 2 0 9 true false false { cause := 0 } (.near 1 0 0), 1), (.coll ⟨1, 0⟩ 2 (coll0 0), 3),
        (.collAck homePart 2 4 [] 1, 3)].all (fun (q : Msg × Nat) =>
      let s (n : Nat) := linked2 { next := 4095, expect := 4095, replay := List.replicate n (flit 7) } (mail q.1 b0)
      (q.1.route (s 0)).map (fun r => (r.vc, r.src + r.dst)) == some (q.2, 1) && ((s 127).arrives 5).isSome && ((s 128).arrives 5).isNone &&
        ({ s 0 with msgs := (4, q.1) :: (s 0).msgs } : State).arrives 5 == none && (mail q.1 b0).arrives 5 == none &&
        ((s 0).testOf 0 (portUnit 15 1)).isNone && (List.range 15).all (fun p => !(portOf (s 0) 0 p).up) && (portOf (s 0) 1 15).up),
    (let s := linked2 {} (mail (.arm 2 0 9 0x400 (2 ^ 45) (.near 1 0 0)) b0)
     let o := { op0 with home := .near 1 0 0 }
     s.inTurn 3 o && ({ s with ops := [(3, o)] } : State).arrives 5 == none)].all id = true := by
  decide +kernel

/-- Management: a write of each register; each CMD, accepted or not; the clock's steps; power that goes and that is gone; an attestation. -/
theorem witness_management : [
    (List.range 16).all (fun cmd => [false, true].all (fun vf => [1, 3, 4].all (fun st =>
      did (evRegisterWrite (.ctxctl c0 vf) (BitVec.ofNat 64 (cmd * 2 ^ 8 + 7 * 2 ^ 40)) (ctxIn st b0))))),
    [MgmtReg.ctxctl c0 true, .ctxctl c0 false, .pshare homePart, .counter homePart 0, .vers 0, .energy 0, .temp 0].all (fun r => did (evRegisterWrite r 0xFFFF00FFFF b0)),
    [0, 1600, 65535].all (fun v => did (evPcapWrite 0 (BitVec.ofNat 64 v) b0)),
    [(1001, true), (1000, false)].all (fun q => did (stepDown 0 (b0.modPkg 0 (fun p => { p with mhz := q.1 }))) == q.2),
    did (evThermalThrottle 0 b0), did (evPartitionShareThrottle homePart (withPart (fun p => { p with pshare := 1 }) b0)),
    did (evThermalShutdown 0 b0),
    [(0, true), (1, false)].all (fun q => did (evPowerRemoval 0 (b0.modPkg 0 (fun p => { p with offAt := some (b0.clk + q.1) }))) == q.2),
    !did (evPowerRemoval 0 (b0.modPkg 0 (fun p => { p with offAt := some b0.clk, powered := false }))),
    [none, some homePart].all (fun p => did (evAttestationRequest 0 p 7 b0))].all id = true := by
  decide +kernel

def unit1 : RUnit := { part := none, sel := 0x30000000 }
/-- SelfTests: each result: no detection, one, a repair, and no spare left; a STEST that waits, with no detection. ColdResets with an image
staged and without, one with a security version that is too low, and in recovery; that an image passes is for `Config.verifies` to say, which
is open. -/
theorem witness_self_tests : [
    [(true, 0), (true, 1), (false, 0), (false, 1)].all (fun q =>
      let d : ErrRec := { detail := 0, addr := 0, cons := 0, sseq := 0, unit := 0, time := 0, result := 0, action := 0, cls := 0 }
      did (evSelfTestDone 5 q.1 (mail (.selfTest 0 unit1 [(9, .v 8)] (List.replicate q.2 ([], d)) 0) { owing b0 with uid := 9 }))),
    (aget (owing b0).txns 9).isSome && (b0.strand 2).isSome,
    [none, some { imageDigest := 5, secVersion := 7, keyDigest := 0, signature := 0 }].all (fun (img : Option FwImage) =>
      [false, true].all (fun r => did (evColdReset 0 (b0.modPkg 0 (fun p => { p with fw := { p.fw with staged := img, rollback := 8, recovery := r } })))))].all id = true := by
  decide +kernel

/-- Detections: each kind of site with no error, with one of one bit and with one of two; a unit out of use. -/
theorem witness_detections : [
    [Site.word 0x400, .word scratch0, .word (2 ^ 44), .reg 2 191, .copy homeLane.tile 0x40, .slot tc0 3 15, .acc tc0 15, .shadow tc0 0,
        .link 0 47 63].all (fun site =>
      (match siteUnit b0 site with
        | some (pkg, u, _) => (aget b0.pkgs pkg).isSome && !(b0.pkg pkg).outOfUse.contains (b0.place u) &&
            (b0.modPkg pkg (fun p => { p with outOfUse := [b0.place u] }) |>.pkg pkg).outOfUse.contains (b0.place u)
        | none => false) && (b0.errorAt site).isNone &&
      [false, true].all (fun d => (({ b0 with latent := [⟨site, d⟩] } : State).errorAt site).map (fun l => l.double) == some d)),
    decide ((b0.msgs.map (fun m => m.1)).Nodup)].all id = true := by
  decide +kernel

/-! ## Steps -/

/-- StepRunsDecoded: a lane's turn with one strand at an instruction, at a privileged opcode outside the handler, and at one that is
assigned to nothing; with two strands that are ready; and an event's turn. StepKeepsInv, StrandNumbers and ResetState: the state after reset,
and one that runs. -/
theorem witness_steps : [
    [some (Instr.iadd h0 (.v 8) (.v 9) (.v 9) .i32 false), some (.stoprd h0 (.u 8) (.u 4) (.u 5)), none].all (fun (i : Option Instr) =>
      let w : Slot := match i with
        | some i => (encode i).getD 0
        | none => slotBits 0xFF 0 0 0 0 0 0
      let s := { placeWord w State.reset with agenda := [.lane homeLane] }
      match s.strand 2 with
      | some st => (match st.issueAddr with
        | some pc => (match s.fetched st pc with
          | some f => !f.bad && decide (slotPc pc < 5) && decide (pc.toNat / 8 % 8 = 0) && f.marks pc && slotOf f.data (slotPc pc) == w &&
              mayIssue s st (rawHdr w) pc (s.cycle st.part) && rawReady s st (rawHdr w) pc (s.cycle st.part)
          | none => false)
        | none => false) && st.ents.isEmpty && (s.strands.filter (fun x => decide (x.2.laneId = homeLane ∧ x.2.status = .resident))).length == 1
      | none => false),
    (let s := match b0.strand 2 with
       | some st => { b0 with strands := [(2, { st with lastS := 1 }), (3, { st with slot := 1 })] }
       | none => b0
     ((lanePicks s homeLane).filter (fun x => x.2.2)).length == 2 && (lanePick s homeLane).isSome),
    happens (.lineFetch 2) (b0.modLane homeLane (fun l => { l with buf := [] })),
    [State.reset, b0].all (fun s => decide (Memory.wf s.mem = true) && s.stores.isEmpty && decide ((s.strands.map (fun y => y.1)).Nodup) &&
      s.strands.all (fun y => decide (y.1 ≤ s.uid)))].all id = true := by
  decide +kernel

/-- RegisterFrame and MemoryWriters: a register instruction that completes; a store and an event that leave memory as it is. -/
theorem witness_frames :
    performs (.iadd h0 (.v 8) (.v 9) (.v 9) .i32 false) = true ∧ registerOnly (.iadd h0 (.v 8) (.v 9) (.v 9) .i32 false) = true ∧
    performs (.st h0 (.v 8) perThread .i32 plainMods) = true ∧ writesMemory (.st h0 (.v 8) perThread .i32 plainMods) = false ∧
    happens (.evictionMessage 5) (mail (.evict 2 0 9 near0) b0) = true ∧ writesMemory (.evictionMessage 5) = false := by
  decide +kernel

/-- Readiness: a load that is ready with each of its conditions met, at its highest count, and with each of them not met; a BPEND whose
predicate is unsettled; a precise instruction with an entry in its way. -/
theorem witness_readiness : [
    [(0, 62, 254, true), (1, 0, 0, false), (0, 63, 0, false), (0, 0, 255, false)].all (fun q =>
      let i := Instr.ld { h0 with wait := 1, setf := some 1 } (.v 8) perThread .i32 { plainMods with ord := 1 }
      let s := withStrand (fun st => { st with flags := lset (lset st.flags 0 (fun _ => q.1)) 1 (fun _ => q.2.1), pend := [(8, q.2.2.1)] }) (pointing 0x400 i)
      match issueOf i s with
      | some x => mayIssue s x.st x.h x.pc x.t0 && (r96 s i x.sh x.st).isNone && !x.st.modew.getLsbD 15 && (performOf i s).isSome == q.2.2.2
      | none => false),
    [Instr.ld h0 (.v 8) perThread .i32 { plainMods with ord := 1 }].all (fun i =>
      let s := (pointing 0x400 i).modLane homeLane (fun l => { l with lines := [] })
      (issueOf i s).isSome && !performs i == false && (performOf i s).isNone),
    (let i := Instr.bpend { h0 with pred := 1 } 0 0 (.v 2) true 0
     let s := withStrand (fun st => { st with pend := [(predLoc 1, 1)] }) (ready i)
     match issueOf i s with
      | some x => x.sh.cls == .tagTest && x.st.tagged (predLoc 1) x.t0 && mayIssue s x.st x.h x.pc x.t0 && (r96 s i x.sh x.st).isNone &&
          !x.st.modew.getLsbD 15 && decide ((s.lane x.st.laneId).busy ≤ x.t0)
      | none => false),
    [(.nop { h0 with wait := 1 }, 1, false), (.idem h0, 0, false), (.idem h0, 0, true)].all (fun (q : Instr × Nat × Bool) =>
      let s := withStrand (fun st => { st with flags := lset st.flags 0 (fun _ => q.2.1), ents := if q.2.2 then entry9 1 else [] }) (ready q.1)
      match issueOf q.1 s with
      | some x => mayIssue s x.st x.h x.pc x.t0 && (r96 s q.1 x.sh x.st).isNone
      | none => false),
    (match issueOf (.nop { h0 with pred := 1, neg := false }) (ready (.nop { h0 with pred := 1 })) with
      | some x => x.act.isEmpty
      | none => false)].all id = true := by
  decide +kernel

/-- DecodeEncodeAgree and DecodedSlotsAreEncoded: instructions of every shape are well formed, and their words decode to them; events have no
word. -/
theorem witness_encodings : [
    [Instr.iadd h0 (.v 191) (.u 47) .zero .n32 true, .bra h0 (-1) 0, .ld h0 (.v 8) perThread .i32 plainMods, .exit h0, .movi h0 (.u 47) (-1) 0].all (fun i =>
      i.wf && (match encode i with
        | some w => decodesTo w i
        | none => false)),
    (encode (.lineFetch 2)).isNone].all id = true := by
  decide +kernel

end Sys2Proof.Tests
end

section
/-! SUPPORT. Maps: what a key holds after the value of a key that is present, or of any key, has been changed. -/

namespace Sys2Proof.Machine

section maps
variable {κ β : Type} [DecidableEq κ]

theorem agetD_amod_same (m : Assoc κ β) {k : κ} (d : β) (f : β → β) (h : (aget m k).isSome = true) :
    agetD (amod m k f) k d = f (agetD m k d) := by
  obtain ⟨v, hv⟩ := Option.isSome_iff_exists.1 h
  simp [agetD, aget_amod_same, hv]

theorem agetD_amod_other (m : Assoc κ β) {k j : κ} (d : β) (f : β → β) (h : k ≠ j) :
    agetD (amod m k f) j d = agetD m j d := by
  simp [agetD, aget_amod_other m f h]

@[simp] theorem agetD_amodD_same (m : Assoc κ β) (k : κ) (d : β) (f : β → β) :
    agetD (amodD m k d f) k d = f (agetD m k d) := by
  simp [agetD, amodD]

theorem agetD_amodD_other (m : Assoc κ β) {k j : κ} (d e : β) (f : β → β) (h : k ≠ j) :
    agetD (amodD m k d f) j e = agetD m j e := by
  simp [agetD, amodD, aget_aput_other m _ h]

@[simp] theorem isSome_aget_amod (m : Assoc κ β) (k j : κ) (f : β → β) :
    (aget (amod m k f) j).isSome = (aget m j).isSome := by
  by_cases h : k = j
  · subst h; simp [aget_amod_same]
  · rw [aget_amod_other m f h]

theorem map_aput {γ : Type} (g : κ × β → γ) {m : Assoc κ β} {k : κ} {v w : β} (hv : aget m k = some v) (h : g (k, w) = g (k, v)) :
    (aput m k w).map g = m.map g := by
  induction m with
  | nil => cases hv
  | cons p m ih =>
    by_cases hp : p.1 = k
    · simp only [aget, hp, if_true, Option.some.injEq] at hv
      subst hp hv
      simp [aput, h]
    · simp only [aget, hp, if_false] at hv
      simp [aput, hp, ih hv]

/-- What a change of one value keeps, for its key, it keeps of the whole map. -/
theorem map_amod {γ : Type} (g : κ × β → γ) (m : Assoc κ β) (k : κ) (f : β → β) (h : ∀ v, g (k, f v) = g (k, v)) :
    (amod m k f).map g = m.map g := by
  unfold amod
  split
  next v hv => exact map_aput g hv (h v)
  next => rfl

/-- A key whose value has just been set is deleted as if it had not been. -/
theorem adel_aput (m : Assoc κ β) (k : κ) (v : β) : adel (aput m k v) k = adel m k := by
  induction m with
  | nil => simp [aput, adel]
  | cons p m ih =>
    unfold adel at ih ⊢
    by_cases h : p.1 = k <;> simp [aput, h, ih]

theorem mem_of_aget {m : Assoc κ β} {k : κ} {v : β} (h : aget m k = some v) : (k, v) ∈ m := by
  induction m with
  | nil => cases h
  | cons p m ih =>
    by_cases hp : p.1 = k
    · simp only [aget, hp, if_true, Option.some.injEq] at h
      subst hp h
      exact List.mem_cons_self
    · simp only [aget, hp, if_false] at h
      exact List.mem_cons_of_mem _ (ih h)

theorem aget_of_mem {m : Assoc κ β} (hd : (m.map Prod.fst).Nodup) {p : κ × β} (h : p ∈ m) :
    aget m p.1 = some p.2 := by
  induction m with
  | nil => cases h
  | cons q m ih =>
    obtain ⟨hq, hm⟩ := List.nodup_cons.1 hd
    rcases List.mem_cons.1 h with rfl | h
    · simp [aget]
    · have hne : q.1 ≠ p.1 := fun e => hq (e ▸ List.mem_map_of_mem h)
      simp [aget, hne, ih hm h]

end maps

/-! ## Events -/

/-- An event that cannot happen leaves the state as it is. -/
theorem exec_of_none {i : Instr} {f : State → Option State} {s : State} (he : evOf i = some f) (hf : f s = none) :
    exec i s = .next s := by
  rw [exec_event he, hf]

/-- An event that happens ends in what its effect leaves, committed. -/
theorem exec_of_some {i : Instr} {f : State → Option State} {s t : State} (he : evOf i = some f) (hf : f s = some t)
    (hk : cleared i = fun _ => true) : exec i s = .next (commit s.mem t) :=
  Safety.happens_of_some he hf hk

/-! ## Packages -/

theorem State.pkg_modPkg_same {s : State} {n : Nat} (f : Pkg → Pkg) (h : (aget s.pkgs n).isSome = true) :
    (s.modPkg n f).pkg n = f (s.pkg n) :=
  agetD_amod_same s.pkgs _ f h

theorem State.pkg_modPkg_other (s : State) {n m : Nat} (f : Pkg → Pkg) (h : n ≠ m) : (s.modPkg n f).pkg m = s.pkg m :=
  agetD_amod_other s.pkgs _ f h

/-- A field that a change of one package keeps is kept in every package. -/
theorem State.field_modPkg {γ : Type} (g : Pkg → γ) (s : State) (n m : Nat) (f : Pkg → Pkg) (h : ∀ p, g (f p) = g p) :
    g ((s.modPkg n f).pkg m) = g (s.pkg m) := by
  by_cases hm : n = m
  · subst hm
    by_cases hn : (aget s.pkgs n).isSome = true
    · rw [State.pkg_modPkg_same f hn, h]
    · have : aget s.pkgs n = none := by simpa using hn
      simp [State.pkg, State.modPkg, amod, this]
  · rw [State.pkg_modPkg_other s f hm]

/-! ## Ports and channels (19 R376 to R378) -/

theorem portOf_modPkg (s : State) (n m port : Nat) (f : Pkg → Pkg) (h : ∀ p, (f p).ports = p.ports) :
    portOf (s.modPkg n f) m port = portOf s m port := by
  unfold portOf
  rw [State.field_modPkg Pkg.ports s n m f h]

@[simp] theorem isSome_pkgs_modPort (s : State) (n port m : Nat) (f : Port → Port) :
    (aget (s.modPort n port f).pkgs m).isSome = (aget s.pkgs m).isSome := isSome_aget_amod ..

theorem portOf_modPort_same {s : State} {n : Nat} (port : Nat) (f : Port → Port) (h : (aget s.pkgs n).isSome = true) :
    portOf (s.modPort n port f) n port = f (portOf s n port) := by
  simp [portOf, State.modPort, State.pkg_modPkg_same _ h]

theorem portOf_modPort_other (s : State) {n port m q : Nat} (f : Port → Port) (h : m ≠ n ∨ q ≠ port) :
    portOf (s.modPort n port f) m q = portOf s m q := by
  by_cases hm : n = m
  · subst hm
    have hq : port ≠ q := fun e => (h.resolve_left (fun e => e rfl)) e.symm
    by_cases hn : (aget s.pkgs n).isSome = true
    · simp [portOf, State.modPort, State.pkg_modPkg_same _ hn, agetD_amodD_other _ _ _ _ hq]
    · have : aget s.pkgs n = none := by simpa using hn
      simp [portOf, State.modPort, State.pkg, State.modPkg, amod, this]
  · simp [portOf, State.modPort, State.pkg_modPkg_other s _ hm]

/-- A field that a change of one port keeps is kept at every port. -/
theorem field_modPort {γ : Type} (g : Port → γ) (s : State) (n port m q : Nat) (f : Port → Port) (h : ∀ p, g (f p) = g p) :
    g (portOf (s.modPort n port f) m q) = g (portOf s m q) := by
  by_cases hmq : m = n ∧ q = port
  · obtain ⟨rfl, rfl⟩ := hmq
    by_cases hm : (aget s.pkgs m).isSome = true
    · rw [portOf_modPort_same q f hm, h]
    · have : aget s.pkgs m = none := by simpa using hm
      simp [portOf, State.modPort, State.pkg, State.modPkg, amod, this]
  · rw [portOf_modPort_other s f (by omega)]

/-- A package that is not there has no port that is up. -/
theorem isSome_of_up {s : State} {n port : Nat} (h : (portOf s n port).up = true) : (aget s.pkgs n).isSome = true := by
  cases hn : aget s.pkgs n with
  | some p => rfl
  | none =>
    have : portOf s n port = {} := by simp [portOf, State.pkg, agetD, hn, Pkg.reset, aget]
    rw [this] at h
    cases h

end Sys2Proof.Machine
end

section
/-! SUPPORT. What each operation on a fabric port leaves in its channels, and in the flits it has sent (19 R376 to R378). -/

namespace Sys2Proof.Proofs.Ports

open Sys2Proof.Machine Sys2Proof.Claims

variable {s t u : State} {n port v : Nat}

/-! ## Frames: the other channels and ports -/

theorem onlyChannel_refl (s : State) (n port v : Nat) : onlyChannel s s n port v := ⟨fun _ _ => rfl, fun _ _ => rfl⟩

theorem onlyChannel_trans (h : onlyChannel s t n port v) (h' : onlyChannel t u n port v) : onlyChannel s u n port v :=
  ⟨fun w hw => (h'.1 w hw).trans (h.1 w hw), fun q hq => (h'.2 q hq).trans (h.2 q hq)⟩

/-- Only the ports count. -/
theorem channel_congr (ht : ∀ q, portOf t n q = portOf u n q) (q w : Nat) : channel t n q w = channel u n q w := by
  simp only [channel, ht]

theorem onlyChannel_congr (ht : ∀ q, portOf t n q = portOf u n q) (h : onlyChannel s u n port v) : onlyChannel s t n port v :=
  ⟨fun w hw => (channel_congr ht port w).trans (h.1 w hw), fun q hq => (ht q).trans (h.2 q hq)⟩

/-- A change of a port that keeps every channel but one. -/
theorem onlyChannel_modPort (s : State) (n port v : Nat) (f : Port → Port) (h : ∀ p w, w ≠ v → (f p).vc w = p.vc w) :
    onlyChannel s (s.modPort n port f) n port v :=
  ⟨fun w hw => field_modPort (fun p => p.vc w) s n port n port f (fun p => h p w hw),
    fun _ hq => portOf_modPort_other s f (.inr hq)⟩

theorem onlyChannel_modVc (s : State) (n port v : Nat) (f : VChan → VChan) : onlyChannel s (s.modVc n port v f) n port v :=
  onlyChannel_modPort s n port v _ (fun _ _ hw => agetD_amodD_other _ _ _ _ (Ne.symm hw))

theorem onlyChannel_sendFlit (s : State) (n port v : Nat) (f : Flit) : onlyChannel s (sendFlit n port f s) n port v :=
  onlyChannel_modPort s n port v _ (by intros; rfl)

theorem onlyChannel_sendCtl (s : State) (n port v : Nat) (h : BitVec 64) : onlyChannel s (sendCtl n port h s) n port v :=
  onlyChannel_sendFlit { s with fresh := s.fresh + 1 } n port v _

/-! ## The channel itself -/

theorem channel_modVc (hn : (aget s.pkgs n).isSome = true) (port v : Nat) (f : VChan → VChan) :
    channel (s.modVc n port v f) n port v = f (channel s n port v) := by
  simp [channel, State.modVc, portOf_modPort_same port _ hn]

/-- A change of a port other than of its channels leaves every channel. -/
theorem channel_modPort (s : State) (n port : Nat) (f : Port → Port) (h : ∀ p, (f p).vcs = p.vcs) (m q w : Nat) :
    channel (s.modPort n port f) m q w = channel s m q w :=
  field_modPort (fun p => p.vc w) s n port m q f (fun p => by simp only [Port.vc, h])

@[simp] theorem channel_sendFlit (s : State) (n port : Nat) (f : Flit) (m q w : Nat) :
    channel (sendFlit n port f s) m q w = channel s m q w := channel_modPort s n port _ (by intro; rfl) m q w

@[simp] theorem channel_sendCtl (s : State) (n port : Nat) (h : BitVec 64) (m q w : Nat) :
    channel (sendCtl n port h s) m q w = channel s m q w := channel_sendFlit { s with fresh := s.fresh + 1 } n port _ m q w

/-! ## What has been sent -/

@[simp] theorem sent_modVc (s : State) (n port v : Nat) (f : VChan → VChan) (m q : Nat) :
    (portOf (s.modVc n port v f) m q).sent = (portOf s m q).sent :=
  field_modPort Port.sent s n port m q _ (fun _ => rfl)

theorem sent_sendFlit (hn : (aget s.pkgs n).isSome = true) (port : Nat) (f : Flit) :
    (portOf (sendFlit n port f s) n port).sent = (portOf s n port).sent ++ [f] := by
  rw [sendFlit, portOf_modPort_same port _ hn]

/-- A flit made by a port is as the port sends it. -/
theorem sound240_mkFlit (h : BitVec 64) (n : Nat) : sound240 (mkFlit h (flitPayload n)) :=
  ⟨by simp [mkFlit, flitPayload], rfl⟩

theorem answersWith_sendCtl (hn : (aget s.pkgs n).isSome = true) (port : Nat) (h : BitVec 64) :
    answersWith s (sendCtl n port h s) n port h :=
  ⟨mkFlit h (flitPayload s.fresh), rfl, sound240_mkFlit h s.fresh,
    sent_sendFlit (s := { s with fresh := s.fresh + 1 }) hn port _⟩

/-- Only what a port had sent before the answer counts. -/
theorem answersWith_of_sent {h : BitVec 64} (hs : (portOf t n port).sent = (portOf s n port).sent)
    (ha : answersWith t u n port h) : answersWith s u n port h := by
  obtain ⟨f, hf, hf', hu⟩ := ha
  exact ⟨f, hf, hf', by rw [hu, hs]⟩

/-! ## Headers -/

/-- A field of a word, from the number that the word is made of. -/
theorem toNat_field (x lo w : Nat) : ((BitVec.ofNat 64 x).extractLsb' lo w).toNat = x % 2 ^ 64 / 2 ^ lo % 2 ^ w := by
  rw [BitVec.extractLsb'_toNat, BitVec.toNat_ofNat, Nat.shiftRight_eq_div_pow]

/-- An answer's header as the model puts it together (19 R376). -/
theorem flitHdr_answer (h : BitVec 64) (kind aseq : Nat) :
    flitHdr 0 (hVc h) kind aseq (hSrc h) (hDst h) = flitAnswer h kind aseq := by
  simp only [flitHdr, flitAnswer, at_, hVc, flitVc, hSrc, hDst]
  norm_num

/-! ## Refusal and acceptance -/

/-- A port as it refuses a flit of a channel, before its NACK leaves. -/
def refusing (n port v : Nat) (s : State) : State :=
  (s.modVc n port v (fun c => { c with refusing := true })).modPort n port (fun p => { p with retries := p.retries + 1 })

theorem refuseFlit_eq (n port : Nat) (h : BitVec 64) (s : State) :
    refuseFlit n port h s =
      sendCtl n port (flitAnswer h 2 (channel s n port (flitVc h)).expect) (refusing n port (flitVc h) s) := by
  rw [← flitHdr_answer]
  rfl

@[simp] theorem isSome_pkgs_refusing (s : State) (n port v m : Nat) :
    (aget (refusing n port v s).pkgs m).isSome = (aget s.pkgs m).isSome := by
  simp [refusing, State.modVc]

theorem onlyChannel_refusing (s : State) (n port v : Nat) : onlyChannel s (refusing n port v s) n port v :=
  onlyChannel_trans (onlyChannel_modVc s n port v _) (onlyChannel_modPort _ n port v _ (by intros; rfl))

theorem channel_refusing (hn : (aget s.pkgs n).isSome = true) (port v : Nat) :
    channel (refusing n port v s) n port v = { channel s n port v with refusing := true } :=
  (channel_modPort _ n port _ (by intro; rfl) n port v).trans (channel_modVc hn port v _)

theorem sent_refusing (s : State) (n port v : Nat) : (portOf (refusing n port v s) n port).sent = (portOf s n port).sent :=
  (field_modPort Port.sent _ n port n port _ (by intro; rfl)).trans (sent_modVc s n port v _ n port)

/-- A refused flit: its channel discards until it comes again, and a NACK names the next number (19 R378). -/
theorem refuseFlit_spec (hn : (aget s.pkgs n).isSome = true) (port : Nat) (h : BitVec 64) :
    onlyChannel s (refuseFlit n port h s) n port (flitVc h) ∧
    channel (refuseFlit n port h s) n port (flitVc h) = { channel s n port (flitVc h) with refusing := true } ∧
    answersWith s (refuseFlit n port h s) n port (flitAnswer h 2 (channel s n port (flitVc h)).expect) := by
  rw [refuseFlit_eq]
  refine ⟨onlyChannel_trans (onlyChannel_refusing s n port _) (onlyChannel_sendCtl _ n port _ _),
    (channel_sendCtl ..).trans (channel_refusing hn port _), ?_⟩
  exact answersWith_of_sent (sent_refusing s n port _) (answersWith_sendCtl (by simpa using hn) port _)

/-- The channel of an accepted data flit: the flit delivered, the next one expected. -/
def accepted (payload : List Byte) (c : VChan) : VChan :=
  { c with expect := (c.expect + 1) % 4096, refusing := false, delivered := c.delivered ++ [payload] }

/-- A data flit that is accepted: delivered once, and acknowledged up to it (19 R378). -/
theorem acceptData_spec (hn : (aget s.pkgs n).isSome = true) (port v dst src : Nat) (payload : List Byte) :
    let c := channel s n port v
    onlyChannel s (acceptData n port v dst src payload s) n port v ∧
    channel (acceptData n port v dst src payload s) n port v =
      { c with expect := (c.expect + 1) % 4096, refusing := false, delivered := c.delivered ++ [payload] } ∧
    answersWith s (acceptData n port v dst src payload s) n port (flitHdr 0 v 1 c.expect src dst) := by
  refine ⟨onlyChannel_trans (onlyChannel_modVc s n port v (accepted payload)) (onlyChannel_sendCtl _ n port v _),
    (channel_sendCtl ..).trans (channel_modVc hn port v (accepted payload)), ?_⟩
  exact answersWith_of_sent (sent_modVc s n port v (accepted payload) n port)
    (answersWith_sendCtl (by simpa [State.modVc] using hn) port _)

/-! ## A link error, and flits sent again -/

/-- A link error is a detection: no port changes (18 R360, R362). -/
@[simp] theorem portOf_portError (s : State) (n port dir m q : Nat) : portOf (portError n port dir s) m q = portOf s m q := by
  unfold portError State.detect State.startTest
  dsimp only [List.foldl_nil]
  split <;> exact portOf_modPkg s n m q _ (fun _ => rfl)

/-- Sending a list of flits appends it, and leaves every channel and the other ports. -/
theorem sendFlits_spec (fs : List Flit) (hn : (aget s.pkgs n).isSome = true) (port w : Nat) :
    let t := fs.foldl (fun s f => sendFlit n port f s) s
    onlyChannel s t n port w ∧ channel t n port w = channel s n port w ∧
    (portOf t n port).sent = (portOf s n port).sent ++ fs := by
  induction fs generalizing s with
  | nil => exact ⟨onlyChannel_refl s n port w, rfl, by simp⟩
  | cons f fs ih =>
    have hf : (aget (sendFlit n port f s).pkgs n).isSome = true := by simpa [sendFlit] using hn
    obtain ⟨h1, h2, h3⟩ := ih hf
    refine ⟨onlyChannel_trans (onlyChannel_sendFlit s n port w f) h1, h2.trans (channel_sendFlit ..), ?_⟩
    rw [List.foldl_cons, h3, sent_sendFlit hn, List.append_assoc]
    rfl

end Sys2Proof.Proofs.Ports
end

section
/-! SUPPORT. Flits received and sent again at a port: the clauses of 19 R376 to R378. -/

namespace Sys2Proof.Proofs.Ports

open Sys2Proof.Machine Sys2Proof.Claims

variable {s : State} {n port : Nat} {h : BitVec 64}

/-! ## The model's names of fields in those of the statements -/

theorem hSeq_eq (h : BitVec 64) : hSeq h = flitSeq h := rfl
theorem hVc_eq (h : BitVec 64) : hVc h = flitVc h := rfl
theorem hKind_eq (h : BitVec 64) : hKind h = flitKind h := rfl
theorem hAseq_eq (h : BitVec 64) : hAseq h = flitAseq h := rfl
theorem hZero_eq (h : BitVec 64) : (hZero h = 0) = (h.extractLsb' 0 18 = 0) :=
  propext (BitVec.toNat_inj (y := (0 : BitVec 18)))
theorem flitCrc_eq (h : BitVec 64) (payload : List Byte) : Config.flitCrc (flitBytes h payload) = crcOf h payload := rfl
theorem vc_portOf (s : State) (n port v : Nat) : (portOf s n port).vc v = channel s n port v := rfl

theorem seqUpTo_iff (a b : Nat) : seqUpTo a b = true ↔ (b + 4096 - a) % 4096 < 2048 := by
  unfold seqUpTo
  exact decide_eq_true_iff

/-- The package answers (19 R382, R386). -/
theorem pkgUp_of_isUp (hu : isUp s n) : pkgUp s n = true := by
  obtain ⟨k, hk, h5, hr⟩ := hu
  simp [pkgUp, hk, h5, hr]

theorem isSome_of_isUp (hu : isUp s n) : (aget s.pkgs n).isSome = true := by
  obtain ⟨k, hk, -⟩ := hu
  simp [hk]

theorem portUp_of_isUp (hu : isUp s n) (hp : port < 16) : portUp s n port = (portOf s n port).up := by
  simp [portUp, pkgUp_of_isUp hu, hp]

/-! ## FLIT_RECEIVE -/

/-- What becomes of a data flit of full length at a port that is up, its receiving lanes not being tested. -/
theorem evFlitReceive_eq (hup : portUp s n port = true) (hk : flitKind h = 0) {payload : List Byte} (hl : payload.length = 240)
    (ht : untested s n port 0) (crc : BitVec 64) (room : Bool) :
    evFlitReceive n port h payload crc room s = some (
      if crc = crcOf h payload ∧ h.extractLsb' 0 18 = 0 then
        if flitSeq h = (channel s n port (flitVc h)).expect then
          if room then acceptData n port (flitVc h) (hDst h) (hSrc h) payload s else refuseFlit n port h s
        else if (channel s n port (flitVc h)).refusing = true ∨
            ((channel s n port (flitVc h)).expect + 4096 - flitSeq h) % 4096 < 2048 then s
        else refuseFlit n port h s
      else portError n port 0 (refuseFlit n port h s)) := by
  have ht' : s.testOf n (portUnit port 0) = none := ht
  simp only [evFlitReceive, hSeq_eq, hVc_eq, hKind_eq, hZero_eq, flitCrc_eq, vc_portOf, ne_eq, hup, hk, hl, ht']
  by_cases hcrc : crc = crcOf h payload
  · by_cases hzero : h.extractLsb' 0 18 = 0
    · by_cases hseq : flitSeq h = (channel s n port (flitVc h)).expect
      · cases room <;> simp [hcrc, hzero, hseq]
      · simp [hcrc, hzero, hseq, seqUpTo_iff, apply_ite some]
    · simp only [hcrc, hzero]
      rfl
  · simp [hcrc]

/-- At a port that is down nothing is received. -/
theorem evFlitReceive_down (hup : portUp s n port = false) (payload : List Byte) (crc : BitVec 64) (room : Bool) :
    evFlitReceive n port h payload crc room s = none := by
  simp [evFlitReceive, hup]

/-- The flit is refused in the state `t`: with a NACK that names the next number, and nothing else of the port's channels. -/
def Refuses (s t : State) (n port : Nat) (h : BitVec 64) : Prop :=
  onlyChannel s t n port (flitVc h) ∧ channel t n port (flitVc h) = { channel s n port (flitVc h) with refusing := true } ∧
    answersWith s t n port (flitAnswer h 2 (channel s n port (flitVc h)).expect)

/-- A link error on top of a refusal changes no port. -/
theorem refuses_of_portError {t : State} (hr : Refuses s t n port h) (dir : Nat) : Refuses s (portError n port dir t) n port h := by
  obtain ⟨hframe, hchan, f, hhdr, hsound, hsent⟩ := hr
  have hport : ∀ q, portOf (portError n port dir t) n q = portOf t n q := portOf_portError t n port dir n
  exact ⟨onlyChannel_congr hport hframe, (channel_congr hport port _).trans hchan, f, hhdr, hsound, by rw [hport, hsent]⟩

/-! ## ACK_RECEIVE and NACK_RECEIVE -/

/-- The channel after an ACK: the flits up to its number are freed, and a retransmission that they have overtaken is off (19 R378). -/
def acked (a : Nat) (c : VChan) : VChan :=
  { c with
    replay := c.replay.filter (fun f => decide (2048 ≤ (a + 4096 - flitSeq f.hdr) % 4096))
    resend := c.resend.bind (fun r => if (a + 4096 - r.1) % 4096 < 2048 then none else some r) }

theorem evAckReceive_eq (hup : portUp s n port = true) (hk : flitKind h = 1) :
    evAckReceive n port h s = some (s.modVc n port (flitVc h) (acked (flitAseq h))) := by
  have hup' : ¬ (!portUp s n port || hKind h != 1) = true := by simp [hup, hKind_eq, hk]
  have hf : (fun f : Flit => !seqUpTo (hSeq f.hdr) (hAseq h)) =
      fun f => decide (2048 ≤ (flitAseq h + 4096 - flitSeq f.hdr) % 4096) := by
    funext f
    rw [Bool.eq_iff_iff, Bool.not_eq_true', ← Bool.not_eq_true, seqUpTo_iff, Nat.not_lt, decide_eq_true_iff]
    rfl
  unfold evAckReceive
  rw [if_neg hup', hf]
  refine congrArg (fun f => some (s.modVc n port (flitVc h) f)) (funext fun c => ?_)
  unfold acked
  cases c.resend with
  | none => rfl
  | some r => simp only [seqUpTo_iff, hAseq_eq, Option.bind_some]

theorem evAckReceive_down (hup : portUp s n port = false) : evAckReceive n port h s = none := by
  simp [evAckReceive, hup]

/-- The channel after a NACK: the flit to send again from, and when; how many NACKs in a row have named it for its CRC (19 R378). -/
def nacked (a due count : Nat) (crc : Bool) (c : VChan) : VChan :=
  { c with resend := some (a, due), crcNacks := if count = 8 then 0 else count, crcSeq := if crc then a else c.crcSeq }

theorem evNackReceive_eq (hup : portUp s n port = true) (hk : flitKind h = 2) (crc : Bool) :
    ∃ count, evNackReceive n port h crc s = some (
      let t := s.modVc n port (flitVc h) (nacked (flitAseq h) ((s.pkg n).cyc + 64) count crc)
      if crc = true ∧ count = 8 then portError n port 1 t else t) := by
  let c := channel s n port (flitVc h)
  refine ⟨if !crc then c.crcNacks else if c.crcSeq = flitAseq h then c.crcNacks + 1 else 1, ?_⟩
  have hup' : ¬ (!portUp s n port || hKind h != 2) = true := by simp [hup, hKind_eq, hk]
  unfold evNackReceive
  rw [if_neg hup']
  rfl

/-- A NACK changes its channel alone, and no flit of its replay buffer (19 R378). -/
theorem evNackReceive_spec (hn : (aget s.pkgs n).isSome = true) (hup : portUp s n port = true) (hk : flitKind h = 2) (crc : Bool) :
    ∃ t, evNackReceive n port h crc s = some t ∧ onlyChannel s t n port (flitVc h) ∧
      (channel t n port (flitVc h)).resend = some (flitAseq h, (s.pkg n).cyc + 64) ∧
      (channel t n port (flitVc h)).replay = (channel s n port (flitVc h)).replay := by
  obtain ⟨count, heq⟩ := evNackReceive_eq hup hk crc
  let f := nacked (flitAseq h) ((s.pkg n).cyc + 64) count crc
  let u := s.modVc n port (flitVc h) f
  have hframe : onlyChannel s u n port (flitVc h) := onlyChannel_modVc s n port (flitVc h) f
  have hchan : channel u n port (flitVc h) = f (channel s n port (flitVc h)) := channel_modVc hn port (flitVc h) f
  have hport : ∀ q, portOf (if crc = true ∧ count = 8 then portError n port 1 u else u) n q = portOf u n q := by
    intro q
    split
    · exact portOf_portError u n port 1 n q
    · rfl
  exact ⟨_, heq, onlyChannel_congr hport hframe, by rw [channel_congr hport, hchan]; rfl, by rw [channel_congr hport, hchan]; rfl⟩

theorem evNackReceive_down (hup : portUp s n port = false) (crc : Bool) : evNackReceive n port h crc s = none := by
  simp [evNackReceive, hup]

/-! ## RETRANSMIT -/

theorem evRetransmit_early {w q due : Nat} (hr : (channel s n port w).resend = some (q, due)) (hd : (s.pkg n).cyc < due) :
    evRetransmit n port w s = none := by
  simp [evRetransmit, vc_portOf, hr, hd]

/-- The flits from the number of the NACK on are sent again, in order (19 R378). -/
theorem evRetransmit_spec (hn : (aget s.pkgs n).isSome = true) (hup : portUp s n port = true) {w q due : Nat}
    (hr : (channel s n port w).resend = some (q, due)) (hd : due ≤ (s.pkg n).cyc) :
    ∃ t, evRetransmit n port w s = some t ∧ onlyChannel s t n port w ∧ (channel t n port w).resend = none ∧
      (channel t n port w).replay = (channel s n port w).replay ∧ (portOf t n port).sent = (portOf s n port).sent ++
        (channel s n port w).replay.filter (fun f => decide ((flitSeq f.hdr + 4096 - q) % 4096 < 2048)) := by
  let a := s.modVc n port w (fun c => { c with resend := none })
  let b := a.modPort n port (fun p => { p with retries := p.retries + 1 })
  have hb : (aget b.pkgs n).isSome = true := by simpa [b, a, State.modVc] using hn
  have hchan : channel b n port w = { channel s n port w with resend := none } :=
    (channel_modPort a n port _ (by intro; rfl) n port w).trans (channel_modVc hn port w _)
  have hsent : (portOf b n port).sent = (portOf s n port).sent :=
    (field_modPort Port.sent a n port n port _ (by intro; rfl)).trans (sent_modVc s n port w _ n port)
  have hframe : onlyChannel s b n port w :=
    onlyChannel_trans (onlyChannel_modVc s n port w _) (onlyChannel_modPort a n port w _ (by intros; rfl))
  obtain ⟨h1, h2, h3⟩ := sendFlits_spec
    ((channel s n port w).replay.filter (fun f => decide ((flitSeq f.hdr + 4096 - q) % 4096 < 2048))) hb port w
  have hd' : ¬ (s.pkg n).cyc < due := Nat.not_lt.2 hd
  refine ⟨_, ?_, onlyChannel_trans hframe h1, by rw [h2, hchan], by rw [h2, hchan], by rw [h3, hsent]⟩
  simp only [evRetransmit, vc_portOf, hr, hup, hd', seqUpTo, hSeq_eq]
  rfl

end Sys2Proof.Proofs.Ports
end

section
/-! SUPPORT. Training of a port, and the domain that a package joins (19 R379 to R381). -/

namespace Sys2Proof.Proofs.Training

open Sys2Proof.Machine Sys2Proof.Claims

/-! ## Versions (19 R380) -/

theorem agree_mem {a b v : Nat} (h : agree a b = some v) : v ∈ List.range 8 ∧ a.testBit v = true := by
  have hm := List.mem_of_find?_eq_some h
  have hp := List.find?_some h
  simp only [Bool.and_eq_true] at hp
  exact ⟨List.mem_reverse.1 hm, hp.1⟩

theorem agreeLowest_mem {a b v : Nat} (h : agreeLowest a b = some v) : v ∈ List.range 8 ∧ a.testBit v = true := by
  have hm := List.mem_of_find?_eq_some h
  have hp := List.find?_some h
  simp only [Bool.and_eq_true] at hp
  exact ⟨hm, hp.1⟩

/-- A link runs at version 1, 2 or 3. -/
theorem linkVersions_bounds {b v : Nat} (h : agree linkVersions b = some v) : 1 ≤ v ∧ v ≤ 3 := by
  obtain ⟨hm, hv⟩ := agree_mem h
  have : ∀ v ∈ List.range 8, linkVersions.testBit v = true → 1 ≤ v ∧ v ≤ 3 := by decide
  exact this v hm hv

/-- A domain runs at version 1 or 2. -/
theorem domVersions_cases {v : Nat} (hv : domVersions.testBit v = true) : v = 1 ∨ v = 2 := by
  have hlt : v < 3 := by
    by_contra hge
    have h6 : domVersions < 2 ^ v := lt_of_lt_of_le (by decide : domVersions < 2 ^ 3) (Nat.pow_le_pow_right (by decide) (by omega))
    rw [Nat.testBit_lt_two_pow h6] at hv
    cases hv
  have : ∀ v < 3, domVersions.testBit v = true → v = 1 ∨ v = 2 := by decide
  exact this v hlt hv

/-! ## VERS -/

theorem fld_lt {n : Nat} (r : BitVec n) (lo w : Nat) : fld r lo w < 2 ^ w := (r.extractLsb' lo w).isLt

theorem setVers_vers (dom : Nat) (p : Pkg) : (p.setVers dom).vers =
    BitVec.ofNat 64 (at_ (fld p.vers 32 32) 32 + at_ (if p.managed then linkMin p else 0) 24 + at_ dom 16 + fld p.vers 0 16) := rfl

/-- The fields of VERS as numbers (19 R381). -/
theorem dom_of_fields {dom low : Nat} (high link : Nat) (hd : dom < 2 ^ 8) (hl : low < 2 ^ 16) :
    (at_ high 32 + at_ link 24 + at_ dom 16 + low) % 2 ^ 64 / 2 ^ 16 % 2 ^ 8 = dom := by
  simp only [at_, Nat.reducePow] at *
  omega

theorem linkMin_of_fields {dom low : Nat} (high : Nat) (hd : dom < 2 ^ 8) (hl : low < 2 ^ 16) :
    (at_ high 32 + at_ 0 24 + at_ dom 16 + low) % 2 ^ 64 / 2 ^ 24 % 2 ^ 8 = 0 := by
  simp only [at_, Nat.reducePow] at *
  omega

/-- DOM of VERS is what is put there (19 R381). -/
theorem setVers_dom {dom : Nat} (hd : dom < 2 ^ 8) (p : Pkg) : (p.setVers dom).vers.extractLsb' 16 8 = BitVec.ofNat 8 dom := by
  apply BitVec.eq_of_toNat_eq
  rw [setVers_vers, Ports.toNat_field, dom_of_fields _ _ hd (fld_lt ..), BitVec.toNat_ofNat, Nat.mod_eq_of_lt hd]

/-- LINKMIN reads 0 outside a domain without a fabric manager (19 R379). -/
theorem setVers_linkMin {dom : Nat} (hd : dom < 2 ^ 8) {p : Pkg} (hm : p.managed = false) :
    (p.setVers dom).vers.extractLsb' 24 8 = 0#8 := by
  apply BitVec.eq_of_toNat_eq
  rw [setVers_vers, Ports.toNat_field, hm, if_neg Bool.false_ne_true, linkMin_of_fields _ hd (fld_lt ..), BitVec.toNat_ofNat]

/-! ## Ranks -/

/-- A free rank is one that no package of the domain has, below 512 (00 R5). -/
theorem freeRank_spec {s : State} {r : Nat} (h : freeRank s = some r) :
    r < 512 ∧ ∀ q ∈ s.pkgs, q.2.inDomain = true → q.2.rank ≠ r := by
  have hm := List.mem_of_find?_eq_some h
  have hp := List.find?_some h
  simp only [Bool.not_eq_true', List.any_eq_false, Bool.and_eq_true, beq_iff_eq, not_and] at hp
  exact ⟨List.mem_range.1 hm, hp⟩

/-! ## What training can do -/

/-- A port that trains comes up at a version of 1 to 3, or stays as it is and event 0x8200 names it (19 R380). -/
theorem trainPort_cases (n port : Nat) (s : State) :
    (∃ v, 1 ≤ v ∧ v ≤ 3 ∧
      trainPort n port s = State.modPort { s with fresh := s.fresh + 1 } n port (fun p => { p with up := true, version := v })) ∨
    trainPort n port s = State.modPkg { s with fresh := s.fresh + 1 } n (fun p => { p with events := p.events ++ [(0x8200, port)] }) := by
  unfold trainPort
  dsimp only
  split
  next => exact .inr rfl
  next v hv =>
    obtain ⟨h1, h3⟩ := linkVersions_bounds hv
    exact .inl ⟨v, h1, h3, rfl⟩

/-- How a package `p` of a machine stands to its domain after it has tried to join (19 R379, R380): outside it without a manager, or in it
already; in it now, at version `v` with the free rank `r`; or refused. -/
inductive Joins (s : State) (p : Pkg) : Pkg → Prop
  | stays (m : Bool) (h : m = false ∨ p.inDomain = true) : Joins s p (({ p with managed := m } : Pkg).setVers (fld p.vers 16 8))
  | enters (v r : Nat) (hp : p.inDomain = false) (hv : v = 1 ∨ v = 2) (hr : freeRank s = some r) :
      Joins s p (({ p with managed := true, inDomain := true, rank := r } : Pkg).setVers v)
  | refused (evs : List (Nat × Nat)) (hp : p.inDomain = false) (he : evs = [] ∨ evs = [(0x8200, 17)]) :
      Joins s p (({ p with managed := true, events := p.events ++ evs } : Pkg).setVers 0)

/-- Joining draws one free value and changes that package alone. -/
theorem joinDomain_cases (n : Nat) (s : State) :
    ∃ f : Pkg → Pkg, joinDomain n s = State.modPkg { s with fresh := s.fresh + 1 } n f ∧ Joins s (s.pkg n) (f (s.pkg n)) := by
  unfold joinDomain
  dsimp only
  split
  next h =>
    rw [Bool.or_eq_true, Bool.not_eq_true'] at h
    exact ⟨_, rfl, Joins.stays _ h⟩
  next h =>
    have hp : (s.pkg n).inDomain = false := by
      rw [Bool.or_eq_true, not_or, Bool.not_eq_true] at h
      exact h.2 |> Bool.eq_false_of_not_eq_true
    split
    next v r hv hr =>
      refine ⟨_, rfl, Joins.enters v r hp (domVersions_cases ?_) hr⟩
      split at hv
      next w _ =>
        split at hv
        next hb => exact Option.some.inj hv ▸ hb
        next => cases hv
      next => exact (agreeLowest_mem hv).2
    next => exact ⟨_, rfl, by simpa using Joins.refused (s := s) [] hp (.inl rfl)⟩
    next => exact ⟨_, rfl, Joins.refused [(0x8200, 17)] hp (.inr rfl)⟩

/-! ## What joining leaves of a package -/

variable {s : State} {p p' : Pkg}

theorem Joins.ports_eq (h : Joins s p p') : p'.ports = p.ports := by
  cases h <;> rfl

theorem Joins.events_eq (h : Joins s p p') : ∃ evs, (evs = [] ∨ evs = [(0x8200, 17)]) ∧ p'.events = p.events ++ evs := by
  cases h with
  | stays m h => exact ⟨[], .inl rfl, (List.append_nil _).symm⟩
  | enters v r hp hv hr => exact ⟨[], .inl rfl, (List.append_nil _).symm⟩
  | refused evs hp he => exact ⟨evs, he, rfl⟩

/-- A member of the domain stays one, with its rank. -/
theorem Joins.member (h : Joins s p p') (hp : p.inDomain = true) : p'.inDomain = true ∧ p'.rank = p.rank := by
  cases h with
  | stays m h => exact ⟨hp, rfl⟩
  | enters v r hp' hv hr => rw [hp] at hp'; cases hp'
  | refused evs hp' he => rw [hp] at hp'; cases hp'

/-- A new member has a manager, a version of the domain protocol, and a rank that none has (19 R379, R380; 00 R5). -/
theorem Joins.newMember (h : Joins s p p') (hp : p.inDomain = false) (hp' : p'.inDomain = true) :
    p'.rank < 512 ∧ p'.managed = true ∧ (p'.vers.extractLsb' 16 8 = 1#8 ∨ p'.vers.extractLsb' 16 8 = 2#8) ∧
    ∀ q ∈ s.pkgs, q.2.inDomain = true → q.2.rank ≠ p'.rank := by
  cases h with
  | stays m h => exact absurd (hp'.symm.trans hp) (by decide)
  | enters v r hp hv hr =>
    obtain ⟨hlt, hfree⟩ := freeRank_spec hr
    refine ⟨hlt, rfl, ?_, hfree⟩
    rw [setVers_dom (by omega)]
    exact hv.imp (congrArg _) (congrArg _)
  | refused evs hp he => exact absurd (hp'.symm.trans hp) (by decide)

/-- Without a manager a package is where it was, and LINKMIN reads 0 (19 R379). -/
theorem Joins.unmanaged (h : Joins s p p') (hm : p'.managed = false) :
    p'.vers.extractLsb' 24 8 = 0#8 ∧ p'.inDomain = p.inDomain := by
  cases h with
  | stays m h => exact ⟨setVers_linkMin (fld_lt ..) hm, rfl⟩
  | enters v r hp hv hr => cases hm
  | refused evs hp he => cases hm

/-! ## LINK_CONTROL -/

/-- What the domain knows of a package: whether it is in it, and its rank. -/
def membership (p : Pkg) : Bool × Nat := (p.inDomain, p.rank)

theorem map_membership_modPkg (s : State) (n : Nat) (f : Pkg → Pkg) (h : ∀ p, membership (f p) = membership p) :
    (s.modPkg n f).pkgs.map (fun q => membership q.2) = s.pkgs.map (fun q => membership q.2) :=
  map_amod (fun q => membership q.2) s.pkgs n f h

/-- Training leaves every membership as it is, and the port up, or as it was with its event posted. -/
theorem trainPort_spec {n : Nat} (hn : (aget s.pkgs n).isSome = true) (port : Nat) :
    let t := trainPort n port s
    t.fresh = s.fresh + 1 ∧ (aget t.pkgs n).isSome = true ∧ membership (t.pkg n) = membership (s.pkg n) ∧
    t.pkgs.map (fun q => membership q.2) = s.pkgs.map (fun q => membership q.2) ∧
    (((portOf t n port).up = true ∧ 1 ≤ (portOf t n port).version ∧ (portOf t n port).version ≤ 3 ∧
        (t.pkg n).events = (s.pkg n).events) ∨
      (portOf t n port = portOf s n port ∧ (t.pkg n).events = (s.pkg n).events ++ [(0x8200, port)])) := by
  let a : State := { s with fresh := s.fresh + 1 }
  have ha : (aget a.pkgs n).isSome = true := hn
  rcases trainPort_cases n port s with ⟨v, h1, h3, ht⟩ | ht
  · have hport : portOf (trainPort n port s) n port = { portOf s n port with up := true, version := v } := by
      rw [ht]; exact portOf_modPort_same port _ ha
    dsimp only
    rw [hport, ht]
    exact ⟨rfl, (isSome_pkgs_modPort a n port n _).trans hn, State.field_modPkg membership a n n _ (fun _ => rfl),
      map_membership_modPkg a n _ (fun _ => rfl), .inl ⟨rfl, h1, h3, State.field_modPkg Pkg.events a n n _ (fun _ => rfl)⟩⟩
  · rw [ht]
    refine ⟨rfl, (isSome_aget_amod ..).trans hn, State.field_modPkg membership a n n _ (by intro; rfl),
      map_membership_modPkg a n _ (by intro; rfl), .inr ⟨portOf_modPkg a n n port _ (by intro; rfl), ?_⟩⟩
    rw [State.pkg_modPkg_same _ ha]
    rfl

/-- A control flit on a port that is down: the package trains it and tries to join the domain (19 R376, R379 to R381). -/
theorem evLinkControl_down {n port : Nat} {h : BitVec 64} (hu : isUp s n) (hp : port < 16) (hdown : ¬ (portOf s n port).up = true)
    (hk : flitKind h = 3) : evLinkControl n port h s = some (joinDomain n (trainPort n port s)) := by
  have hup : (!pkgUp s n || decide (16 ≤ port) || hKind h != 3) = false := by
    simp [Ports.pkgUp_of_isUp hu, Ports.hKind_eq, hk, hp]
  simp [evLinkControl, hup, hdown]

theorem evLinkControl_up {n port : Nat} {h : BitVec 64} (hu : isUp s n) (hp : port < 16) (hup : (portOf s n port).up = true)
    (hk : flitKind h = 3) : evLinkControl n port h s = some s := by
  have hc : (!pkgUp s n || decide (16 ≤ port) || hKind h != 3) = false := by
    simp [Ports.pkgUp_of_isUp hu, Ports.hKind_eq, hk, hp]
  simp [evLinkControl, hc, hup]

/-- The whole of what training and joining leave, in the terms of the statement. -/
theorem joinDomain_trainPort_spec {n : Nat} (hn : (aget s.pkgs n).isSome = true) (port : Nat) :
    let t := joinDomain n (trainPort n port s)
    t.fresh = s.fresh + 2 ∧
    ((s.pkg n).inDomain = true → (t.pkg n).inDomain = true ∧ (t.pkg n).rank = (s.pkg n).rank) ∧
    ((s.pkg n).inDomain = false → (t.pkg n).inDomain = true →
      (t.pkg n).rank < 512 ∧ (t.pkg n).managed = true ∧
        ((t.pkg n).vers.extractLsb' 16 8 = 1#8 ∨ (t.pkg n).vers.extractLsb' 16 8 = 2#8) ∧
        ∀ q ∈ s.pkgs, q.2.inDomain = true → q.2.rank ≠ (t.pkg n).rank) ∧
    ((t.pkg n).managed = false → (t.pkg n).vers.extractLsb' 24 8 = 0#8 ∧ (t.pkg n).inDomain = (s.pkg n).inDomain) ∧
    (∃ evs, (evs = [] ∨ evs = [(0x8200, 17)]) ∧
      (((portOf t n port).up = true ∧ 1 ≤ (portOf t n port).version ∧ (portOf t n port).version ≤ 3 ∧
          (t.pkg n).events = (s.pkg n).events ++ evs) ∨
        (portOf t n port = portOf s n port ∧ (t.pkg n).events = (s.pkg n).events ++ (0x8200, port) :: evs))) := by
  obtain ⟨hfresh, ha, hmem, hall, hport⟩ := trainPort_spec hn port
  generalize trainPort n port s = a at *
  obtain ⟨f, hf, hj⟩ := joinDomain_cases n a
  obtain ⟨evs, hevs, hevents⟩ := hj.events_eq
  have hdom : (a.pkg n).inDomain = (s.pkg n).inDomain := congrArg Prod.fst hmem
  have hrank : (a.pkg n).rank = (s.pkg n).rank := congrArg Prod.snd hmem
  have hpkg : (joinDomain n a).pkg n = f (a.pkg n) := by
    rw [hf]; exact State.pkg_modPkg_same (s := { a with fresh := a.fresh + 1 }) f ha
  have hsame : portOf (joinDomain n a) n port = portOf a n port := by
    unfold portOf; rw [hpkg, hj.ports_eq]
  dsimp only
  rw [hpkg, hsame, hevents, ← hdom, ← hrank]
  refine ⟨by rw [hf]; exact congrArg (· + 1) hfresh, hj.member, fun hout hin => ?_, hj.unmanaged, evs, hevs, ?_⟩
  · obtain ⟨hlt, hman, hvers, hfree⟩ := hj.newMember hout hin
    refine ⟨hlt, hman, hvers, fun q hq hqd => ?_⟩
    obtain ⟨q', hq', hqm⟩ : ∃ q' ∈ a.pkgs, membership q'.2 = membership q.2 :=
      List.mem_map.1 (hall ▸ List.mem_map_of_mem hq)
    have hd' : q'.2.inDomain = q.2.inDomain := congrArg Prod.fst hqm
    have hr' : q'.2.rank = q.2.rank := congrArg Prod.snd hqm
    exact hr' ▸ hfree q' hq' (hd'.trans hqd)
  · rcases hport with ⟨hup, h1, h3, he⟩ | ⟨hsamePort, he⟩
    · exact .inl ⟨hup, h1, h3, by rw [he]⟩
    · exact .inr ⟨hsamePort, by rw [he, List.append_assoc]; rfl⟩

end Sys2Proof.Proofs.Training
end

section
/-! SUPPORT. A message between packages as one flit from port to port (10 R244; 19 R376 to R378). -/

namespace Sys2Proof.Proofs.Fabric

open Sys2Proof.Machine Sys2Proof.Claims Sys2Proof.Proofs.Ports

variable {s : State} {n : Nat} {r : Route}

/-! ## Waiting -/

/-- What was sent before it on its route, a message or an operation, keeps it waiting (10 R244). -/
theorem behind_of_msg {x : Nat × Msg} (hx : x ∈ s.msgs) (hlt : x.1 < n) (hr : x.2.route s = some r) (hs : x.2.sent s = true) :
    s.behind [] n r = true := by
  unfold State.behind
  rw [Bool.or_eq_true]
  exact .inl (List.any_eq_true.2 ⟨x, hx, by simp [hlt, hr, hs]⟩)

theorem behind_of_op {o : Nat × Op} (ho : o ∈ s.ops) (hlt : o.1 < n) (hm : o.2.stage = .mesh) (hr : o.2.route = some r)
    (ht : s.inTurn o.1 o.2 = true) : s.behind [] n r = true := by
  unfold State.behind
  rw [Bool.or_eq_true]
  exact .inr (List.any_eq_true.2 ⟨o, ho, by simp [hlt, hm, hr, ht]⟩)

theorem carry_of_behind (h : s.behind [] n r = true) : s.carry n (some r) = none := by
  simp [State.carry, h]

theorem carry_of_not_behind (h : s.behind [] n r = false) :
    s.carry n (some r) = (s.leaves r n).bind (fun s => s.enters r n false) := by
  simp [State.carry, h, State.transmit]

theorem carry_of_leaves_none (h : s.leaves r n = none) : s.carry n (some r) = none := by
  by_cases hb : s.behind [] n r = true
  · exact carry_of_behind hb
  · rw [carry_of_not_behind (by simpa using hb), h]
    rfl

/-! ## The ports it leaves and arrives by -/

theorem portOut_of_firstUp {m port : Nat} (h : firstUp s m port) : s.portOut m = some port := by
  obtain ⟨hlt, hup, hbelow⟩ := h
  have := List.find?_range_eq_some (n := 16) (i := port) (p := fun i => (portOf s m i).up)
  exact this.2 ⟨hup, List.mem_range.2 hlt, fun j hj => by simp [hbelow j hj]⟩

theorem portOut_eq_none {m : Nat} (h : ∀ port < 16, (portOf s m port).up = false) : s.portOut m = none :=
  List.find?_eq_none.2 (fun i hi => by simp [h i (List.mem_range.1 hi)])

/-- A change at a port of one package leaves the ports and the rank of another. -/
theorem portOf_of_otherPkg (s : State) {m k : Nat} (port : Nat) (f : Port → Port) (h : k ≠ m) (q : Nat) :
    portOf (s.modPort m port f) k q = portOf s k q := portOf_modPort_other s f (.inl h)

theorem rank_modPort (s : State) (m port k : Nat) (f : Port → Port) : ((s.modPort m port f).pkg k).rank = (s.pkg k).rank :=
  State.field_modPkg Pkg.rank s m k _ (fun _ => rfl)

/-! ## The header of a data flit -/

/-- A data flit's header: its number, its channel, and the ranks of the packages it is for and from (19 R376). -/
def dataHdr (seq vc dst src : Nat) : BitVec 64 :=
  BitVec.ofNat 64 (seq % 4096 * 2 ^ 52 + vc * 2 ^ 50 + dst * 2 ^ 27 + src * 2 ^ 18)

theorem flitHdr_data (seq vc dst src : Nat) : flitHdr seq vc 0 0 dst src = dataHdr seq vc dst src := by
  simp [flitHdr, dataHdr, at_]

variable {seq vc dst src : Nat}

theorem field_vc (hv : vc < 4) (hd : dst < 512) (hs : src < 512) :
    (seq % 4096 * 2 ^ 52 + vc * 2 ^ 50 + dst * 2 ^ 27 + src * 2 ^ 18) % 2 ^ 64 / 2 ^ 50 % 2 ^ 2 = vc := by
  simp only [Nat.reducePow]
  omega

theorem field_dst (hd : dst < 512) (hs : src < 512) :
    (seq % 4096 * 2 ^ 52 + vc * 2 ^ 50 + dst * 2 ^ 27 + src * 2 ^ 18) % 2 ^ 64 / 2 ^ 27 % 2 ^ 9 = dst := by
  simp only [Nat.reducePow]
  omega

theorem field_src (hs : src < 512) :
    (seq % 4096 * 2 ^ 52 + vc * 2 ^ 50 + dst * 2 ^ 27 + src * 2 ^ 18) % 2 ^ 64 / 2 ^ 18 % 2 ^ 9 = src := by
  simp only [Nat.reducePow]
  omega

/-- The acknowledgement of a data flit goes back on its channel, to the package that it came from (19 R376, R378). -/
theorem flitHdr_ack (hv : vc < 4) (hd : dst < 512) (hs : src < 512) (aseq : Nat) :
    flitHdr 0 vc 1 aseq src dst = flitAnswer (dataHdr seq vc dst src) 1 aseq := by
  have h1 : flitVc (dataHdr seq vc dst src) = vc := by
    rw [flitVc, dataHdr, toNat_field, field_vc hv hd hs]
  have h2 : ((dataHdr seq vc dst src).extractLsb' 27 9).toNat = dst := by
    rw [dataHdr, toNat_field, field_dst hd hs]
  have h3 : ((dataHdr seq vc dst src).extractLsb' 18 9).toNat = src := by
    rw [dataHdr, toNat_field, field_src hs]
  simp [flitAnswer, flitHdr, h1, h2, h3, at_]

/-! ## Leaving -/

/-- The channel of a data flit that has left: the next number, and the flit in the replay buffer (19 R378). -/
def sentOn (f : Flit) (c : VChan) : VChan := { c with next := (c.next + 1) % 4096, replay := c.replay ++ [f] }

/-- The state in which a data flit has left by a port. -/
def afterSend (m port vc : Nat) (f : Flit) (s : State) : State := sendFlit m port f (s.modVc m port vc (sentOn f))

/-- A full replay buffer sends nothing. -/
theorem sendData_full {m port : Nat} (h : 128 ≤ (channel s m port vc).replay.length) (payload : List Byte) :
    sendData m port vc dst src payload s = none := by
  have : replaySize ≤ ((portOf s m port).vc vc).replay.length := h
  simp [sendData, this]

theorem sendData_room {m port : Nat} (h : (channel s m port vc).replay.length < 128) (ht : untested s m port 1) (payload : List Byte) :
    sendData m port vc dst src payload s =
      some (afterSend m port vc (mkFlit (dataHdr (channel s m port vc).next vc dst src) payload) s) := by
  have hroom : ¬ replaySize ≤ ((portOf s m port).vc vc).replay.length := Nat.not_le.2 h
  have htest : s.testOf m (portUnit port 1) = none := ht
  rw [← flitHdr_data]
  simp only [sendData, hroom, htest]
  rfl

section
variable {m port : Nat} (f : Flit) (s : State)

theorem isSome_pkgs_afterSend (k : Nat) : (aget (afterSend m port vc f s).pkgs k).isSome = (aget s.pkgs k).isSome :=
  (isSome_pkgs_modPort ..).trans (isSome_pkgs_modPort ..)

theorem portOf_afterSend {k : Nat} (hk : k ≠ m) (q : Nat) : portOf (afterSend m port vc f s) k q = portOf s k q :=
  (portOf_of_otherPkg _ port _ hk q).trans (portOf_of_otherPkg s port _ hk q)

theorem rank_afterSend (k : Nat) : ((afterSend m port vc f s).pkg k).rank = (s.pkg k).rank :=
  (rank_modPort ..).trans (rank_modPort ..)

theorem channel_afterSend (hm : (aget s.pkgs m).isSome = true) :
    channel (afterSend m port vc f s) m port vc = sentOn f (channel s m port vc) :=
  (channel_sendFlit ..).trans (channel_modVc hm port vc _)

theorem sent_afterSend (hm : (aget s.pkgs m).isSome = true) :
    (portOf (afterSend m port vc f s) m port).sent = (portOf s m port).sent ++ [f] :=
  (sent_sendFlit ((isSome_pkgs_modPort ..).trans hm) port f).trans (congrArg (· ++ [f]) (sent_modVc s m port vc _ m port))

end

/-! ## From port to port -/

/-- Where a message leaves by a port of its package. -/
theorem leaves_eq {a : Nat} (hsrc : r.src ≠ switches) (ha : firstUp s r.src a) :
    s.leaves r n = sendData r.src a r.vc (s.pkg r.dst).rank (s.pkg r.src).rank (flitPayload n) s := by
  simp [State.leaves, hsrc, portOut_of_firstUp ha]

theorem leaves_none (hsrc : r.src ≠ switches) (h : ∀ port < 16, (portOf s r.src port).up = false) : s.leaves r n = none := by
  simp [State.leaves, hsrc, portOut_eq_none h]

theorem enters_eq {b : Nat} (hdst : r.dst ≠ switches) (hb : firstUp s r.dst b) :
    s.enters r n false = some (acceptData r.dst b r.vc (s.pkg r.dst).rank (s.pkg r.src).rank (flitPayload n) s) := by
  simp [State.enters, hdst, portOut_of_firstUp hb]

/-- A data flit that arrives leaves the ports of other packages alone. -/
theorem portOf_acceptData (s : State) {k m : Nat} (hk : k ≠ m) (port v d c : Nat) (payload : List Byte) (q : Nat) :
    portOf (acceptData m port v d c payload s) k q = portOf s k q :=
  (portOf_of_otherPkg _ port _ hk q).trans (portOf_of_otherPkg s port _ hk q)

/-- The state in which a message with a route has arrived as the flit `f`. -/
def afterFlit (n : Nat) (r : Route) (a b : Nat) (f : Flit) (s : State) : State :=
  acceptData r.dst b r.vc (s.pkg r.dst).rank (s.pkg r.src).rank (flitPayload n) (afterSend r.src a r.vc f s)

/-- The flit of message `n` on its route, leaving by port `a`. -/
def flitOf (s : State) (n : Nat) (r : Route) (a : Nat) : Flit :=
  mkFlit (dataHdr (channel s r.src a r.vc).next r.vc (s.pkg r.dst).rank (s.pkg r.src).rank) (flitPayload n)

theorem carry_eq {a b : Nat} (hsrc : r.src ≠ switches) (hdst : r.dst ≠ switches) (hne : r.src ≠ r.dst)
    (hb : s.behind [] n r = false) (ha : firstUp s r.src a) (hb' : firstUp s r.dst b)
    (hroom : (channel s r.src a r.vc).replay.length < 128) (ht : untested s r.src a 1) :
    s.carry n (some r) = some (afterFlit n r a b (flitOf s n r a) s) := by
  let u := afterSend r.src a r.vc (flitOf s n r a) s
  have hu : firstUp u r.dst b := by
    have hp : ∀ q, portOf u r.dst q = portOf s r.dst q := portOf_afterSend _ s (Ne.symm hne)
    simpa only [firstUp, hp] using hb'
  have henters : u.enters r n false = some (afterFlit n r a b (flitOf s n r a) s) := by
    rw [enters_eq hdst hu, rank_afterSend, rank_afterSend]
    rfl
  rw [carry_of_not_behind hb, leaves_eq hsrc ha, sendData_room hroom ht]
  exact henters

/-- What the flit leaves at the port it goes out by, at the port it comes in by, and of the rest (19 R376 to R378). -/
theorem afterFlit_spec {a b : Nat} (hne : r.src ≠ r.dst) (hv : r.vc < 4) (hrs : (s.pkg r.src).rank < 512) (hrd : (s.pkg r.dst).rank < 512)
    (ha : firstUp s r.src a) (hb : firstUp s r.dst b) :
    let f := flitOf s n r a
    let t := afterFlit n r a b f s
    let out := channel s r.src a r.vc
    let inn := channel s r.dst b r.vc
    (portOf t r.src a).sent = (portOf s r.src a).sent ++ [f] ∧
    channel t r.src a r.vc = { out with next := (out.next + 1) % 4096, replay := out.replay ++ [f] } ∧
    channel t r.dst b r.vc = { inn with
      expect := (inn.expect + 1) % 4096, refusing := false, delivered := inn.delivered ++ [f.payload] } ∧
    answersWith s t r.dst b (flitAnswer f.hdr 1 inn.expect) := by
  have hm : (aget s.pkgs r.src).isSome = true := isSome_of_up ha.2.1
  have hd : (aget s.pkgs r.dst).isSome = true := isSome_of_up hb.2.1
  let f := flitOf s n r a
  let u := afterSend r.src a r.vc f s
  have hsrc : ∀ q, portOf (afterFlit n r a b f s) r.src q = portOf u r.src q := portOf_acceptData u hne b _ _ _ _
  have hdst : ∀ q, portOf u r.dst q = portOf s r.dst q := portOf_afterSend f s (Ne.symm hne)
  obtain ⟨-, hchan, hans⟩ := acceptData_spec (s := u) ((isSome_pkgs_afterSend f s r.dst).trans hd) b r.vc
    (s.pkg r.dst).rank (s.pkg r.src).rank (flitPayload n)
  have hexp : channel u r.dst b r.vc = channel s r.dst b r.vc := channel_congr hdst b r.vc
  rw [hexp] at hchan hans
  rw [flitHdr_ack (seq := (channel s r.src a r.vc).next) hv hrd hrs] at hans
  refine ⟨?_, (channel_congr hsrc a r.vc).trans (channel_afterSend f s hm), hchan,
    answersWith_of_sent (congrArg Port.sent (hdst b)) hans⟩
  exact (congrArg Port.sent (hsrc a)).trans (sent_afterSend f s hm)

end Sys2Proof.Proofs.Fabric
end

section
/-! SUPPORT. Flits, training and messages between packages: the statement of links. -/

namespace Sys2Proof.Proofs

open Sys2Proof.Machine Sys2Proof.Claims Sys2Proof.Proofs.Ports Sys2Proof.Proofs.Training Sys2Proof.Proofs.Fabric

variable {s : State} {n port : Nat} {h : BitVec 64}

/-- A data flit received at a port that is up (19 R376 to R378). -/
theorem flitReceive_spec (hn : (aget s.pkgs n).isSome = true) (hup : portUp s n port = true) (hk : flitKind h = 0)
    {payload : List Byte} (hl : payload.length = 240) (ht : untested s n port 0) (crc : BitVec 64) (room : Bool) :
    let c := channel s n port (flitVc h)
    let e : Instr := .flitReceive n port h payload crc room
    let clean := crc = crcOf h payload ∧ h.extractLsb' 0 18 = 0
    (clean → flitSeq h = c.expect → room = true → ∃ t, exec e s = .next t ∧ onlyChannel s t n port (flitVc h) ∧
      channel t n port (flitVc h) = { c with expect := (c.expect + 1) % 4096, refusing := false, delivered := c.delivered ++ [payload] } ∧
      answersWith s t n port (flitAnswer h 1 (flitSeq h))) ∧
    (clean → flitSeq h = c.expect → room = false → ∃ t, exec e s = .next t ∧ Refuses s t n port h) ∧
    (clean → flitSeq h ≠ c.expect → (c.refusing = true ∨ (c.expect + 4096 - flitSeq h) % 4096 < 2048) →
      ∃ t, exec e s = .next t ∧ t.pkgs = s.pkgs) ∧
    (clean → flitSeq h ≠ c.expect → c.refusing = false → 2048 ≤ (c.expect + 4096 - flitSeq h) % 4096 →
      ∃ t, exec e s = .next t ∧ Refuses s t n port h) ∧
    (¬ clean → ∃ t, exec e s = .next t ∧ Refuses s t n port h) := by
  intro c e clean
  have hexec : ∀ t, evFlitReceive n port h payload crc room s = some t → exec e s = .next (commit s.mem t) :=
    fun t he => exec_of_some (f := evFlitReceive n port h payload crc room) rfl he rfl
  have heq := evFlitReceive_eq hup hk hl ht crc room
  have hrefuse : Refuses s (refuseFlit n port h s) n port h := refuseFlit_spec hn port h
  refine ⟨fun hc hs hr => ?_, fun hc hs hr => ?_, fun hc hs hd => ?_, fun hc hs hr hd => ?_, fun hc => ?_⟩
  · rw [if_pos hc, if_pos hs, if_pos hr] at heq
    obtain ⟨hframe, hchan, hans⟩ := acceptData_spec hn port (flitVc h) (hDst h) (hSrc h) payload
    exact ⟨_, hexec _ heq, hframe, hchan, by rw [hs, ← flitHdr_answer]; exact hans⟩
  · rw [if_pos hc, if_pos hs, if_neg (Bool.not_eq_true room ▸ hr)] at heq
    exact ⟨_, hexec _ heq, hrefuse⟩
  · rw [if_pos hc, if_neg hs, if_pos hd] at heq
    exact ⟨_, hexec _ heq, rfl⟩
  · have hpassed : ¬ (c.refusing = true ∨ (c.expect + 4096 - flitSeq h) % 4096 < 2048) := by
      rw [hr, not_or, Nat.not_lt]
      exact ⟨Bool.false_ne_true, hd⟩
    rw [if_pos hc, if_neg hs, if_neg hpassed] at heq
    exact ⟨_, hexec _ heq, hrefuse⟩
  · rw [if_neg hc] at heq
    exact ⟨_, hexec _ heq, refuses_of_portError hrefuse 0⟩

/-- 19 R376 to R381: flits, training and the domain. -/
theorem flitsAndTraining : Claims.links := by
  intro n port h s hu hp
  have hn := isSome_of_isUp hu
  have hport : portUp s n port = (portOf s n port).up := portUp_of_isUp hu hp
  refine ⟨fun payload crc room hup hk hl ht => ?_, fun hup hk => ?_, fun hup hk crc => ?_, fun w q due hup hr => ⟨fun hd => ?_, fun hd => ?_⟩,
    fun hk => ⟨fun hup => ?_, fun hdown => ?_⟩, fun hdown => ?_⟩
  · exact flitReceive_spec hn (hport.trans hup) hk hl ht crc room
  · have he := evAckReceive_eq (hport.trans hup) hk
    have hchan := channel_modVc hn port (flitVc h) (acked (flitAseq h))
    refine ⟨_, exec_of_some (i := .ackReceive n port h) rfl he rfl, onlyChannel_modVc s n port _ _,
      (congrArg VChan.replay hchan :), (congrArg VChan.delivered hchan :), (congrArg VChan.expect hchan :),
      (congrArg VChan.resend hchan :)⟩
  · obtain ⟨t, he, hframe, hres, hrep⟩ := evNackReceive_spec hn (hport.trans hup) hk crc
    exact ⟨_, exec_of_some (i := .nackReceive n port h crc) rfl he rfl, hframe, hres, hrep⟩
  · exact exec_of_none (i := .retransmit n port w) rfl (evRetransmit_early hr hd)
  · obtain ⟨t, he, hframe, hres, hrep, hsent⟩ := evRetransmit_spec hn (hport.trans hup) hr hd
    exact ⟨_, exec_of_some (i := .retransmit n port w) rfl he rfl, hframe, hres, hrep, hsent⟩
  · exact ⟨_, exec_of_some (i := .linkControl n port h) rfl (evLinkControl_up hu hp hup hk) rfl, rfl⟩
  · exact ⟨_, exec_of_some (i := .linkControl n port h) rfl (evLinkControl_down hu hp hdown hk) rfl, joinDomain_trainPort_spec hn port⟩
  · have hfalse : portUp s n port = false := by rw [hport]; simpa using hdown
    exact ⟨fun payload crc room => exec_of_none (i := .flitReceive n port h payload crc room) rfl (evFlitReceive_down hfalse payload crc room),
      exec_of_none (i := .ackReceive n port h) rfl (evAckReceive_down hfalse),
      fun crc => exec_of_none (i := .nackReceive n port h crc) rfl (evNackReceive_down hfalse crc)⟩

/-- 10 R244; 19 R376 to R378: messages between packages. -/
theorem messagesBetweenPackages : Claims.fabricMessages := by
  intro n m s hm
  have harrives : s.arrives n = s.carry n (m.route s) := by simp [State.arrives, hm]
  refine ⟨fun hr => by rw [harrives, hr]; rfl, fun r hr => ?_⟩
  rw [harrives, hr]
  refine ⟨fun x hx hlt hxr hxs => carry_of_behind (behind_of_msg hx hlt hxr hxs),
    fun o ho hlt hst hor hot => carry_of_behind (behind_of_op ho hlt hst hor hot),
    fun hsrc hdown => carry_of_leaves_none (leaves_none hsrc hdown),
    fun hsrc hdst hne hv hrs hrd hb a b ha hb' => ⟨fun hfull => ?_, fun hroom ht => ?_⟩⟩
  · exact carry_of_leaves_none ((leaves_eq hsrc ha).trans (sendData_full hfull _))
  · obtain ⟨hsent, hout, hinn, hans⟩ := afterFlit_spec (n := n) hne hv hrs hrd ha hb'
    exact ⟨_, _, carry_eq hsrc hdst hne hb ha hb' hroom ht, rfl, sound240_mkFlit _ n, hsent, hout, hinn, hans, rfl, rfl, rfl, rfl⟩

/-- Settles O48: what each received flit leaves at its port, what training and joining can do, and a message as one flit from port to port. -/
theorem links : Obligations.Links := ⟨flitsAndTraining, messagesBetweenPackages⟩

end Sys2Proof.Proofs
end

section
/-! SUPPORT. Copies, acknowledgements and fault reports (08 R192, R199; 10 R240, R242, R260; 11 R270). -/

namespace Sys2Proof.Proofs.Copies

open Sys2Proof.Machine Sys2Proof.Claims Sys2Proof.Safety

/-! ## A message that arrives writes no memory -/

/-- A flit that leaves or arrives changes packages and draws free values: nothing of memory. -/
theorem leaves_stores {s t : State} {r : Route} {n : Nat} (h : s.leaves r n = some t) : t.stores = s.stores := by
  unfold State.leaves at h
  split at h
  · exact (Option.some.inj h) ▸ rfl
  · obtain ⟨port, -, h⟩ := Option.bind_eq_some_iff.1 h
    unfold sendData at h
    dsimp only at h
    split at h
    · cases h
    · exact (Option.some.inj h) ▸ rfl

theorem enters_stores {s t : State} {r : Route} {n : Nat} (h : s.enters r n false = some t) : t.stores = s.stores := by
  unfold State.enters at h
  split at h
  · exact (Option.some.inj h) ▸ rfl
  · obtain ⟨port, -, h⟩ := Option.map_eq_some_iff.1 h
    exact h ▸ rfl

theorem carry_stores {s t : State} {n : Nat} {r : Option Route} (h : s.carry n r = some t) : t.stores = s.stores := by
  cases r with
  | none => exact (Option.some.inj h) ▸ rfl
  | some r =>
    unfold State.carry State.transmit at h
    dsimp only at h
    split at h
    · cases h
    · obtain ⟨u, hu, ht⟩ := Option.bind_eq_some_iff.1 h
      exact (enters_stores ht).trans (leaves_stores hu)

/-! ## Acknowledgements -/

/-- An acknowledgement for one operation: one fewer to wait for; with none left, and nothing to return, it is forgotten (10 R240,
R242). -/
theorem acked_eq (s : State) (i : Nat) (tile : TileId) :
    (s.modOp i (fun o => { o with acks := o.acks.erase tile })).retire i =
      match aget s.ops i with
      | none => s
      | some o =>
        if o.stage = .applied ∧ o.acks.erase tile = [] ∧ o.ret = false then { s with ops := adel s.ops i }
        else { s with ops := aput s.ops i { o with acks := o.acks.erase tile } } := by
  cases ho : aget s.ops i with
  | none => simp [State.modOp, amod, State.retire, ho]
  | some o =>
    have hops : (s.modOp i (fun o => { o with acks := o.acks.erase tile })).ops = aput s.ops i { o with acks := o.acks.erase tile } := by
      simp [State.modOp, amod, ho]
    have hdone : (({ o with acks := o.acks.erase tile } : Op).performed && !o.ret) = true ↔
        o.stage = .applied ∧ o.acks.erase tile = [] ∧ o.ret = false := by
      simp [Op.performed, and_assoc]
    unfold State.retire
    rw [hops, aget_aput_same]
    dsimp only
    by_cases hd : o.stage = .applied ∧ o.acks.erase tile = [] ∧ o.ret = false
    · rw [if_pos (hdone.2 hd), if_pos hd, adel_aput]
      rfl
    · rw [if_neg (fun h => hd (hdone.1 h)), if_neg hd]
      simp only [State.modOp, amod, ho]

/-! ## Fills -/

/-- The number in the bytes at a key, between two steps (10 R242). -/
theorem read_eq_bytesAt {s : State} (h : s.stores = []) (n a : Nat) : s.read n a = bytesAt s.mem n a := by
  induction n generalizing a with
  | zero => rfl
  | succ n ih => simp [State.read, bytesAt, State.byte_eq h, ih]

theorem ownWriteOut_iff (s : State) (tile : TileId) (line : Nat) : s.ownWriteOut tile line = true ↔
    ∃ p ∈ s.ops, p.2.ctx.part = tile.part ∧ p.2.tile = tile.t ∧ lineKey p.2.addr = line ∧
      (p.2.opr ≠ 0 ∨ p.2.atom = true) ∧ p.2.stage ≠ .applied := by
  simp [State.ownWriteOut, Op.stores, and_assoc]

/-- The line that leaves a full tile cache: the first of those at the lowest retention, else of all others (08 R194; log entry 59). -/
theorem leavingLine_eq (m : Assoc Nat Copy) (line : Nat) :
    let others := m.filter (fun p => p.1 ≠ line)
    leavingLine m line = (others.filter (fun p => p.2.low) ++ others).head?.map (fun p => p.1) := by
  have hne : (fun p : Nat × Copy => p.1 != line) = fun p => decide (p.1 ≠ line) := by
    funext p; simp [bne, Bool.beq_eq_decide_eq]
  unfold leavingLine
  dsimp only
  rw [hne, List.head?_append, ← List.head?_filter (p := fun p : Nat × Copy => p.2.low)]
  cases ((m.filter (fun p => decide (p.1 ≠ line))).filter (fun p => p.2.low)).head? <;> rfl

/-- A tile cache of 8,192 lines after line `line` has entered it (00 R1, 08 R194). -/
def roomFor (line : Nat) (m : Assoc Nat Copy) : Assoc Nat Copy :=
  let others := m.filter (fun p => p.1 ≠ line)
  match (others.filter (fun p => p.2.low) ++ others).head? with
  | some p => if m.length ≤ 8192 then m else adel m p.1
  | none => m

theorem keep_eq (t : Tile) (line : Nat) (c : Copy) :
    t.keep line c = { t with copies := roomFor line (aput t.copies line c) } := by
  unfold Tile.keep roomFor
  dsimp only
  rw [leavingLine_eq]
  cases (List.filter (fun p => p.2.low) ((aput t.copies line c).filter (fun p => p.1 ≠ line)) ++
    (aput t.copies line c).filter (fun p => p.1 ≠ line)).head? with
  | none => simp
  | some p => rfl

/-- The copy that a fill brings: the line as memory holds it, modified if the tile's own is (10 R242, R260). -/
def filled (s : State) (tile : TileId) (line : Nat) (low : Bool) : Copy :=
  { data := BitVec.ofNat 512 (bytesAt s.mem 64 line), low := low
    modified := ((aget (s.tile tile).copies line).map (fun c => c.modified)).getD false }

theorem shareLine_eq {s : State} (hs : s.stores = []) (tile : TileId) (line : Nat) (low : Bool) :
    s.shareLine tile line low = ((if hostBase ≤ line then s.unmodify (some tile) line else s).modTile tile (fun t =>
      { t with copies := roomFor line (aput t.copies line (filled s tile line low)) })).clean (.copy tile line) := by
  have hcopy : ({ data := s.lineAt line
                  modified := match aget (s.tile tile).copies line with
                    | some c => c.modified
                    | none => false
                  low := low } : Copy) = filled s tile line low := by
    unfold filled State.lineAt
    rw [read_eq_bytesAt hs]
    cases aget (s.tile tile).copies line <;> rfl
  unfold State.shareLine
  simp only [keep_eq]
  exact congrArg (fun c => (State.modTile (if hostBase ≤ line then s.unmodify (some tile) line else s) tile
    (fun t => { t with copies := roomFor line (aput t.copies line c) })).clean (.copy tile line)) hcopy

/-! ## Fault reports -/

theorem mem_reportsOf {s : State} {n k txn : Nat} {pc : Pc} {f : Flt} (h : aget s.msgs n = some (.faultReport k pc f txn)) :
    f ∈ s.reportsOf txn :=
  List.mem_filterMap.2 ⟨_, mem_of_aget h, by simp⟩

/-- The fault of the lowest thread is one of them, and none has a lower one (08 R192). -/
theorem lowestFlt_spec (f : Flt) (fs : List Flt) :
    lowestFlt f fs ∈ f :: fs ∧ ∀ g ∈ f :: fs, (lowestFlt f fs).lowt ≤ g.lowt := by
  induction fs generalizing f with
  | nil => simp [lowestFlt]
  | cons x fs ih =>
    have hstep : lowestFlt f (x :: fs) = lowestFlt (if x.lowt < f.lowt then x else f) fs := rfl
    obtain ⟨hmem, hmin⟩ := ih (if x.lowt < f.lowt then x else f)
    have hle : (lowestFlt (if x.lowt < f.lowt then x else f) fs).lowt ≤ min f.lowt x.lowt := by
      have := hmin _ List.mem_cons_self
      split at this <;> split <;> omega
    rw [hstep]
    refine ⟨?_, fun g hg => ?_⟩
    · rcases List.mem_cons.1 hmem with hm | hm
      · rw [hm]; split <;> simp
      · exact List.mem_cons_of_mem _ (List.mem_cons_of_mem _ hm)
    · rcases List.mem_cons.1 hg with rfl | hg
      · exact hle.trans (min_le_left ..)
      · rcases List.mem_cons.1 hg with rfl | hg
        · exact hle.trans (min_le_right ..)
        · exact hmin g (List.mem_cons_of_mem _ hg)

/-- The reports of one instruction are no longer on their way. -/
def withoutReports (txn : Nat) (s : State) : State :=
  { s with msgs := s.msgs.filter (fun m => match m.2 with
      | .faultReport _ _ _ t => t != txn
      | _ => true) }

/-- Its fault is reported once all its operations are applied or refused (08 R192, 18 R363). -/
theorem evImpreciseFaultReport_eq {s : State} {n k txn : Nat} {pc : Pc} {f : Flt} {st : Strand}
    (hm : aget s.msgs n = some (.faultReport k pc f txn)) (hst : s.strand k = some st)
    (happlied : ∀ o ∈ s.ops, o.2.txn = txn → o.2.stage = .applied)
    (hline : (lowestFlt f (s.reportsOf txn)).cause ≠ 0x21 ∨ (s.part st.part).line = none) :
    evImpreciseFaultReport n s = some ((withoutReports txn s).impreciseFault k (lowestFlt f (s.reportsOf txn)) pc) := by
  have hops : ¬ (s.ops.any (fun o => o.2.txn == txn && o.2.stage != .applied)) = true := by
    simpa using happlied
  have hready : ¬ ((lowestFlt f (s.reportsOf txn)).cause == 0x21 && (s.part st.part).line.isSome) = true := by
    rcases hline with hc | hl
    · simp [hc]
    · simp [hl]
  unfold evImpreciseFaultReport
  rw [hm]
  dsimp only
  rw [hst]
  dsimp only
  rw [if_neg hready, if_neg hops]
  rfl

/-! ## The statement -/

/-- 08 R192, R199; 10 R240, R242, R260; 11 R270: copies and reports, the half of the statement that holds of every state. -/
theorem copiesAcksAndReports : Claims.copiesAndReports := by
  intro n s0 s hs0
  refine ⟨fun op tile line hm ha => ?_, fun op tile hm ha => ?_, fun tile line k low hm ha => ?_, fun txn tile line drop hm => ?_,
    fun k pc f txn st hm hst happlied => ?_⟩
  · exact happens_of_some (f := evInvalidationArrival n) rfl (by simp only [evInvalidationArrival, hm, ha]; rfl) rfl
  · refine happens_of_some (f := evInvalidationAcknowledgement n) rfl ?_ rfl
    have hled : s.ledBy op = (s.ops.filter (fun o => decide (o.1 = op ∨ o.2.lead = op))).map (fun o => o.1) := by
      simp [State.ledBy, Bool.beq_eq_decide_eq]
    simp only [evInvalidationAcknowledgement, hm, ha, Option.map_some, hled]
    exact congrArg some (List.foldl_ext _ _ _ (fun u i _ => acked_eq u i tile))
  · have hs : (s.dropMsg n).stores = [] := (carry_stores ha).trans hs0
    have heq : evTileCacheFill n s0 =
        some (if s.ownWriteOut tile line then s.dropMsg n else (s.dropMsg n).shareLine tile line low) := by
      simp only [evTileCacheFill, hm, ha]; rfl
    refine ⟨fun hout => ?_, fun hout => ?_⟩
    · rw [if_pos ((ownWriteOut_iff s tile line).2 hout)] at heq
      exact happens_of_some (f := evTileCacheFill n) rfl heq rfl
    · rw [if_neg (fun h => hout ((ownWriteOut_iff s tile line).1 h)), shareLine_eq hs] at heq
      exact happens_of_some (f := evTileCacheFill n) rfl heq rfl
  · exact happens_of_some (f := evHostWritebackAck n) rfl (by simp only [evHostWritebackAck, hm]) rfl
  · obtain ⟨hmem, hmin⟩ := lowestFlt_spec f (s0.reportsOf txn)
    have hf := mem_reportsOf hm
    refine ⟨lowestFlt f (s0.reportsOf txn), ?_, fun g hg => hmin g (List.mem_cons_of_mem _ hg), fun hline => ?_⟩
    · rcases List.mem_cons.1 hmem with he | he
      · rw [he]; exact hf
      · exact he
    · exact happens_of_some (f := evImpreciseFaultReport n) rfl (evImpreciseFaultReport_eq hm hst happlied hline) rfl

end Sys2Proof.Proofs.Copies
end

section
/-! SUPPORT. A host's write to its own memory: the watch copies that it takes (10 R260, 14 R304), and the state that refutes O26. -/

namespace Sys2Proof.Machine

/-! ## Watch copies -/

/-- Steps that change strands alone leave the packages. -/
theorem pkgs_foldl {β : Type} {f : State → β → State} (h : ∀ s b, (f s b).pkgs = s.pkgs) (l : List β) (s : State) :
    (l.foldl f s).pkgs = s.pkgs := by
  induction l generalizing s with
  | nil => rfl
  | cons b l ih => rw [List.foldl_cons, ih, h]

/-- A package without its copy of a line. -/
def Pkg.without (line : Nat) (p : Pkg) : Pkg := { p with hostCopies := p.hostCopies.filter (fun l => l != line) }

theorem pkgs_backInvalidate (n line : Nat) (s : State) :
    (backInvalidate n line s).pkgs = if (s.pkg n).hostCopies.contains line then amod s.pkgs n (Pkg.without line) else s.pkgs := by
  unfold backInvalidate
  cases (s.pkg n).hostCopies.contains line with
  | false => rfl
  | true =>
    refine pkgs_foldl (fun u e => ?_) _ _
    split <;> rfl

/-- The package has the copy no more; the others have what they had. -/
theorem not_mem_backInvalidate (n line : Nat) (s : State) : line ∉ ((backInvalidate n line s).pkg n).hostCopies := by
  unfold State.pkg
  rw [pkgs_backInvalidate]
  split
  next h =>
    have hn : (aget s.pkgs n).isSome = true := by
      cases hp : aget s.pkgs n with
      | some p => rfl
      | none => simp [State.pkg, agetD, hp, Pkg.reset] at h
    rw [agetD_amod_same _ _ _ hn]
    simp [Pkg.without]
  next h => simpa [State.pkg] using h

theorem pkg_backInvalidate_other {n m : Nat} (h : n ≠ m) (line : Nat) (s : State) : (backInvalidate n line s).pkg m = s.pkg m := by
  unfold State.pkg
  rw [pkgs_backInvalidate]
  split
  · exact agetD_amod_other _ _ _ h
  · rfl

theorem keys_backInvalidate (n line : Nat) (s : State) : (backInvalidate n line s).pkgs.map Prod.fst = s.pkgs.map Prod.fst := by
  rw [pkgs_backInvalidate]
  split
  · exact map_amod Prod.fst _ _ _ (fun _ => rfl)
  · rfl

/-- Taken from each package of a list in turn, the copy is with none of them. -/
theorem not_mem_foldl_backInvalidate (line : Nat) (l : List (Nat × Pkg)) (s : State) (m : Nat)
    (h : m ∈ l.map Prod.fst ∨ line ∉ (s.pkg m).hostCopies) :
    line ∉ ((l.foldl (fun s p => backInvalidate p.1 line s) s).pkg m).hostCopies := by
  induction l generalizing s with
  | nil => simpa using h
  | cons q l ih =>
    refine ih (backInvalidate q.1 line s) ?_
    by_cases hq : q.1 = m
    · exact .inr (hq ▸ not_mem_backInvalidate q.1 line s)
    · rw [pkg_backInvalidate_other hq]
      simpa [Ne.symm hq] using h

theorem keys_foldl_backInvalidate (line : Nat) (l : List (Nat × Pkg)) (s : State) :
    (l.foldl (fun s p => backInvalidate p.1 line s) s).pkgs.map Prod.fst = s.pkgs.map Prod.fst := by
  induction l generalizing s with
  | nil => rfl
  | cons q l ih => rw [List.foldl_cons, ih, keys_backInvalidate]

/-- Where each package number stands once, no package keeps its watch copy of the line (10 R260, 14 R304). -/
theorem backInvalidateAll_takes {s : State} (hd : (s.pkgs.map Prod.fst).Nodup) (line : Nat) :
    ∀ p ∈ (backInvalidateAll line s).pkgs, line ∉ p.2.hostCopies := by
  intro p hp
  have hkeys : (backInvalidateAll line s).pkgs.map Prod.fst = s.pkgs.map Prod.fst := keys_foldl_backInvalidate line s.pkgs s
  have hpkg : (backInvalidateAll line s).pkg p.1 = p.2 := by
    simp [State.pkg, agetD, aget_of_mem (hkeys ▸ hd) hp]
  rw [← hpkg]
  exact not_mem_foldl_backInvalidate line s.pkgs s p.1 (.inl (hkeys ▸ List.mem_map_of_mem hp))

end Sys2Proof.Machine

namespace Sys2Proof.Proofs.HostAccess

open Sys2Proof.Machine Sys2Proof.Claims Sys2Proof.Safety

/-! ## Sound states (18 R362, R363, R365) -/

variable {s : State}

theorem testOf_of_sound (h : sound s) (n : Nat) (u : RUnit) : s.testOf n u = none := by
  obtain ⟨-, -, htests⟩ := h
  unfold State.testOf
  rw [List.find?_eq_none.2]
  · rfl
  · intro m hm
    have := htests m hm
    split
    next p v ts ds since he => exact absurd he (this p v ts ds since)
    next => exact Bool.false_ne_true

theorem testing_of_sound (h : sound s) (site : Site) : s.testing site = false := by
  unfold State.testing
  split
  · rw [testOf_of_sound h]; rfl
  · rfl

theorem unusable_of_sound (h : sound s) (n : Nat) (u : RUnit) : s.unusable n u = false := by
  obtain ⟨-, hall, -⟩ := h
  have hout : (s.pkg n).outOfUse = [] := by
    cases hp : aget s.pkgs n with
    | some p => simpa [State.pkg, agetD, hp] using hall _ (mem_of_aget hp)
    | none => simp [State.pkg, agetD, hp, Pkg.reset]
  simp [State.unusable, hout]

/-- A consumer meets no error. -/
theorem consume_of_sound (h : sound s) (site : Site) (whole : Bool) (cons : Nat) (who : PartId) :
    s.consume site whole cons who = (s, .ok) := by
  have hno : s.errorAt site = none := by simp [State.errorAt, h.1]
  unfold State.consume
  rw [hno]
  split
  · rfl
  · rw [unusable_of_sound h]; rfl

/-! ## The write -/

/-- A host-homed line as a write to it leaves memory and the tiles, before the watch copies are taken (10 R260). -/
def hostWritten (key size v : Nat) (s : State) : State :=
  let u := (({ s.cutSyncs key size with uid := s.uid + 1 } : State).write size key v).takeLine none (lineKey key)
  { u with hostHeld := u.hostHeld.filter (fun l => l != lineKey key) }

theorem bareWrite_hostLine (h : sound s) (c : CtxId) (pkg key size v : Nat) :
    (bareWrite c (.hostLine pkg) key size v s).2 = backInvalidateAll (lineKey key) (hostWritten key size v s) := by
  unfold bareWrite
  rw [consume_of_sound h]
  rfl

/-- What a write of the host to its own memory does, where nothing is pending on its bytes. -/
theorem evHostMemAccess_own {pkg addr : Nat} {bytes : List Byte} (hs : sound s) (hb : bytes ≠ []) (hline : addr % 64 + bytes.length ≤ 64)
    (haddr : hostBase ≤ addr) (hq : ∀ e ∈ (s.home (.hostLine pkg)).queue, e.addr + e.size ≤ addr ∨ addr + bytes.length ≤ e.addr) :
    evHostMemAccess pkg (.write .own addr bytes) s =
      some (backInvalidateAll (lineKey addr) (hostWritten addr bytes.length (bytesNat bytes) s)) := by
  have htest : ¬ (s.testOf pkg hostUnit).isSome = true := by simp [testOf_of_sound hs]
  have hlen : ¬ (bytes.length = 0 ∨ 64 < addr % 64 + bytes.length) := by
    rw [List.length_eq_zero_iff]
    exact fun h => h.elim hb (by omega)
  have hsettled : s.settledAt (.hostLine pkg) addr bytes.length = true := by
    refine List.all_eq_true.2 (fun e he => ?_)
    have := hq e he
    simp only [Bool.not_eq_true', decide_eq_false_iff_not]
    omega
  have hfree : ¬ (!s.settledAt (.hostLine pkg) addr bytes.length || s.testing (.word (lineKey addr))) = true := by
    simp [hsettled, testing_of_sound hs]
  have hplace : hostPlace s pkg .own addr = some (addr, .hostLine pkg) := if_pos haddr
  unfold evHostMemAccess
  rw [if_neg htest]
  dsimp only
  rw [if_neg hlen, hplace, Option.bind_some, if_neg hfree, bareWrite_hostLine hs]

/-- The clause of `hostAccesses` that fails, where each package number stands once: no package keeps its watch copy (10 R260, 14 R304). -/
theorem write_takesWatchCopies {pkg addr : Nat} {bytes : List Byte} (hs : sound s) (hd : (s.pkgs.map Prod.fst).Nodup) (hb : bytes ≠ [])
    (hline : addr % 64 + bytes.length ≤ 64) (haddr : hostBase ≤ addr)
    (hq : ∀ e ∈ (s.home (.hostLine pkg)).queue, e.addr + e.size ≤ addr ∨ addr + bytes.length ≤ e.addr) :
    ∃ t, exec (.hostMemAccess pkg (.write .own addr bytes)) s = .next t ∧ ∀ p ∈ t.pkgs, lineKey addr ∉ p.2.hostCopies := by
  exact ⟨_, exec_of_some (i := .hostMemAccess pkg (.write .own addr bytes)) rfl (evHostMemAccess_own hs hb hline haddr hq) rfl,
    backInvalidateAll_takes (s := hostWritten addr bytes.length (bytesNat bytes) s) hd (lineKey addr)⟩

/-! ## The refutation -/

/-- A state that lists package 0 twice, the second time with a watch copy of the first host-homed line. `Inv` and `sound` allow it: they
say nothing of package numbers. -/
def pkgTwice : State := { State.reset with pkgs := [(0, Pkg.reset), (0, { Pkg.reset with hostCopies := [hostBase] })] }

theorem inv_pkgTwice : Inv pkgTwice := ⟨rfl, rfl⟩

theorem sound_pkgTwice : sound pkgTwice := by
  refine ⟨rfl, fun p hp => ?_, fun m hm => by cases hm⟩
  have hp' : p = (0, Pkg.reset) ∨ p = (0, { Pkg.reset with hostCopies := [hostBase] }) := by simpa [pkgTwice] using hp
  rcases hp' with rfl | rfl <;> rfl

/-- The watch copies of every entry of the packages after a step. -/
def watchCopies : Result → List (List Nat)
  | .next t => t.pkgs.map (fun p => p.2.hostCopies)
  | _ => []

/-- The write takes the copy of the first entry of package 0, which has none, and not that of the second. -/
theorem watchCopies_pkgTwice :
    watchCopies (exec (.hostMemAccess 0 (.write .own hostBase [1])) pkgTwice) = [[], [hostBase]] := by
  decide +kernel

/-- A host write to a host-homed line leaves a watch copy of the line in a state that lists a package twice. -/
theorem not_hostAccesses : ¬ Claims.hostAccesses := by
  rintro ⟨hwrite, -⟩
  have hline : hostBase % 64 + ([1] : List Byte).length ≤ 64 := by decide +kernel
  obtain ⟨t, ht, -, -, -, htaken, -⟩ := hwrite 0 hostBase hostBase .own (.hostLine 0) [1] pkgTwice inv_pkgTwice sound_pkgTwice
    (List.cons_ne_nil _ _) hline (.inl ⟨rfl, le_rfl, rfl, rfl⟩) (fun e he => by cases he)
  have hcopies : t.pkgs.map (fun p => p.2.hostCopies) = [[], [hostBase]] := by
    have h := watchCopies_pkgTwice
    rw [ht] at h
    exact h
  have hmem : [hostBase] ∈ t.pkgs.map (fun p => p.2.hostCopies) := by rw [hcopies]; simp
  obtain ⟨p, hp, hpc⟩ := List.mem_map.1 hmem
  have hkey : lineKey hostBase = hostBase := by decide +kernel
  refine (htaken rfl).2 p hp ?_
  rw [hkey, hpc]
  exact List.mem_singleton.2 rfl

end Sys2Proof.Proofs.HostAccess

namespace Sys2Proof.Proofs

/-- Refutes O26: its hypotheses allow a state that lists package 0 twice, with the watch copy of a host-homed line in the second entry
(`pkgTwice`); a host write to the line is applied, and that entry keeps its copy. The half about copies and reports holds of every state
(`copiesAcksAndReports`), and where each package number stands once a host write takes every watch copy (`write_takesWatchCopies`). -/
theorem not_copiesReportsAndHost : ¬ Obligations.CopiesReportsAndHost := fun h => HostAccess.not_hostAccesses h.2

end Sys2Proof.Proofs
end

section
/-! SUPPORT. One strand of the state: what it is after it, or another one, has been changed. -/

namespace Sys2Proof.Machine

theorem State.strand_modStrand_same (s : State) (k : Nat) (f : Strand → Strand) : (s.modStrand k f).strand k = (s.strand k).map f :=
  aget_amod_same ..

theorem State.strand_modStrand_of {s : State} {k : Nat} {st : Strand} (h : s.strand k = some st) (f : Strand → Strand) :
    (s.modStrand k f).strand k = some (f st) := by
  rw [State.strand_modStrand_same, h, Option.map_some]

theorem State.strand_modStrand_other (s : State) {k j : Nat} (f : Strand → Strand) (h : k ≠ j) :
    (s.modStrand k f).strand j = s.strand j := aget_amod_other _ _ h

/-- The state of a thread that executes, with its PC behind the instruction. -/
theorem thread_advance {x : Iss} {s : State} {st : Strand} (h : s.strand x.k = some st) :
    ∃ st', (advance x s).strand x.k = some st' ∧ { st' with threads := st.threads } = st ∧
      ∀ t < 16, st'.thread t = if t ∈ x.exm then { st.thread t with pc := nextPc x.pc } else st.thread t := by
  refine ⟨_, State.strand_modStrand_of h _, rfl, fun t ht => ?_⟩
  simp [Strand.thread, ht, List.getD_eq_getElem?_getD]

/-- What an issue in place leaves of its strand besides the effect: registers, threads and bindings stay (01 R14, R23). -/
theorem strand_finish (x : Iss) (s : State) {st : Strand} (h : s.strand x.k = some st) :
    ∃ st', (finish x s).strand x.k = some st' ∧ { st' with
        flags := st.flags, timers := st.timers, pend := st.pend, lastE := st.lastE, lastS := st.lastS, pairAt := st.pairAt
        begun := st.begun, region := st.region } = st := by
  refine ⟨_, State.strand_modStrand_of (s := s.modLane _ _) h _, ?_⟩
  unfold setFlag
  cases x.h.setf <;> rfl

end Sys2Proof.Machine
end

section
/-! SUPPORT. When a strand is ready for an instruction and performs it (01 R24 to R26, 08 R203), and what a register write leaves (01 R25). -/

namespace Sys2Proof.Proofs.Readiness

open Sys2Proof.Machine Sys2Proof.Claims Sys2Proof.Safety

variable {i : Instr} {s : State} {x : Iss}

/-! ## Instructions of the lanes -/

theorem isSome_effOf_of_shape {sh : Shape} (h : shape i = some sh) : ∃ eff, effOf i = some eff := by
  cases i <;> first
    | exact ⟨_, rfl⟩
    | cases h

/-- Only BPEND tests a tag, and it carries no memory operation (02 R52). -/
theorem tagTest_inv {sh : Shape} (h : shape i = some sh) (hc : sh.cls = .tagTest) :
    Instr.isSpecTask i = false ∧ Instr.memory i = false := by
  cases i with
  | cseq _ _ _ _ _ rd _ => cases rd <;> (cases Option.some.inj h; cases hc)
  | _ => first
    | exact ⟨rfl, rfl⟩
    | (cases Option.some.inj h; cases hc)

/-! ## The conditions as the statement gives them -/

theorem waitClear_iff {st : Strand} {h : Hdr} {now : Nat} :
    waitClear st h now = true ↔ ∀ j < 12, h.wait.getLsbD j = true → st.flagCount j now = 0 := by
  simp [waitClear, Hdr.waits, ← Bool.not_eq_true, imp_iff_not_or]

theorem setfOk_iff {st : Strand} {h : Hdr} {now : Nat} :
    setfOk st h now = true ↔ ∀ j, h.setf = some j → st.flagCount j.val now < 63 := by
  unfold setfOk
  cases h.setf <;> simp

theorem pendOk_iff {st : Strand} {sh : Shape} :
    pendOk st sh = true ↔ (sh.isLong = true → ∀ l ∈ sh.dstLocs st, agetD st.pend l 0 < 255) := by
  unfold pendOk
  cases sh.isLong <;> simp

/-- What holds back an instruction that carries a memory operation (08 R203, 10 R250, 13 R291). -/
def Blocked (i : Instr) (s : State) (x : Iss) : Prop :=
  Instr.memory i = true ∧ (x.st.fences ≠ [] ∨ (∃ th ∈ x.st.threads, th.st = .parked ∧ th.park = .barw ∧ th.ptxn ≠ 0) ∨
    ∃ o ∈ s.ops, o.2.strand = x.k ∧ o.2.acq = true ∧ o.2.ret = true)

theorem memReady_iff (hi : x.i = i) (hst : s.strand x.k = some x.st) : memReady s x = true ↔ ¬ Blocked i s x := by
  subst hi
  unfold memReady memGate Blocked
  rw [hst]
  cases Instr.memory x.i with
  | false => simp
  | true => simp [not_or, imp_iff_not_or, or_assoc, and_assoc]

/-- No word holds an error, no unit is out of use, no test runs. -/
theorem healthy_of_sound (h : sound s) (n : Nat) : s.healthy n = true := by
  obtain ⟨hlat, hout, htest⟩ := h
  have h1 : (s.pkg n).outOfUse = [] := by
    cases hp : aget s.pkgs n with
    | some p => simpa [State.pkg, agetD, hp] using hout _ (mem_of_aget hp)
    | none => simp [State.pkg, agetD, hp, Pkg.reset]
  have h2 : s.anyTest = false := by
    unfold State.anyTest
    rw [List.any_eq_false]
    intro m hm
    split
    next p u ts ds since he => exact absurd he (htest m hm p u ts ds since)
    next => exact Bool.false_ne_true
  simp [State.healthy, hlat, h1, h2]

/-! ## What becomes of the instruction -/

/-- The counts have room, the register lines are held, and no fence, acquire or BARW holds the instruction back. -/
def hasRoom (s : State) (x : Iss) : Bool :=
  setfOk x.st x.h x.t0 && pendOk x.st x.sh && linesHeld s x.k x.st x.sh.namedLocs && memReady s x

/-- Everything that an issue in place needs besides its class's own conditions (01 R23, R26, R30; 08 R203). -/
def canIssue (s : State) (x : Iss) : Bool := waitClear x.st x.h x.t0 && hasRoom s x

/-- No entry is in the way of a precise or a state instruction (02 R46). -/
def Clear (x : Iss) : Prop :=
  (x.sh.cls = .precise → x.st.ents = []) ∧ (x.sh.cls = .stateOrdered → ∀ e ∈ x.st.ents, e.ord = false)

theorem clear_iff : Clear x ↔ ¬ (x.sh.cls = .precise ∧ (!x.st.ents.isEmpty) = true) ∧
    ¬ (x.sh.cls = .stateOrdered ∧ x.st.orderedEnts = true) := by
  simp [Clear, Strand.orderedEnts, not_and]

theorem planPlain_eq (s : State) (x : Iss) [Decidable (Clear x)] :
    planPlain s x = if canIssue s x = true ∧ Clear x then .inPlace x none else .wait := by
  have hcan : (!waitClear x.st x.h x.t0 || !setfOk x.st x.h x.t0 || !pendOk x.st x.sh || !linesHeld s x.k x.st x.sh.namedLocs
      || !memReady s x) = !canIssue s x := by
    simp only [canIssue, hasRoom, Bool.not_and, Bool.or_assoc]
  rw [planPlain, hcan]
  by_cases hc : canIssue s x = true
  · by_cases h1 : x.sh.cls = .precise ∧ (!x.st.ents.isEmpty) = true
    · rw [if_neg (by simp [hc]), if_pos h1, if_neg (fun h => (clear_iff.1 h.2).1 h1)]
    · by_cases h2 : x.sh.cls = .stateOrdered ∧ x.st.orderedEnts = true
      · rw [if_neg (by simp [hc]), if_neg h1, if_pos h2, if_neg (fun h => (clear_iff.1 h.2).2 h2)]
      · rw [if_neg (by simp [hc]), if_neg h1, if_neg h2, if_pos ⟨hc, clear_iff.2 ⟨h1, h2⟩⟩]
  · rw [if_pos (by simpa using hc), if_neg (fun h => hc h.1)]

/-- The predicate of a BPEND is unsettled (02 R52). -/
def Unsettled (x : Iss) : Prop := x.sh.cls = .tagTest ∧ x.h.pred ≠ 0 ∧ x.st.tagged (predLoc x.h.pred.toNat) x.t0 = true

/-- A BPEND whose predicate is unsettled parks its strand, in and outside deferring mode (02 R52). -/
theorem plan_of_unsettled (hs : Instr.isSpecTask x.i = false) (h : Unsettled x) :
    plan s x = .other (s.modStrand x.k (parkAll .branch [predLoc x.h.pred.toNat])) := by
  obtain ⟨hc, hp, ht⟩ := h
  have hp' : (x.h.pred != 0) = true := by simpa using hp
  simp only [plan, planDeferring, hc, hp', ht, hs, or_true, if_true, Bool.not_false, Bool.and_true, Bool.and_false, if_false, Bool.false_eq_true]

/-- With its predicate settled a BPEND issues as it would outside deferring mode. -/
theorem plan_of_tagTest (hc : x.sh.cls = .tagTest) (hs : Instr.isSpecTask x.i = false) (hu : ¬ Unsettled x)
    (hr : ∀ j < 12, x.st.residual (flagLoc j) x.t0 = false) :
    plan s x = if canIssue s x then .inPlace x none else .wait := by
  have hpred : (x.h.pred != 0 && x.st.tagged (predLoc x.h.pred.toNat) x.t0) = false := by
    rw [Bool.and_eq_false_iff]
    by_contra hn
    simp only [not_or, bne_eq_false_iff_eq, Bool.not_eq_false] at hn
    exact hu ⟨hc, hn.1, hn.2⟩
  have hwait : (Hdr.waits x.h).any (fun j => x.st.flagCount j x.t0 != 0 || x.st.residual (flagLoc j) x.t0) =
      !waitClear x.st x.h x.t0 := by
    rw [waitClear, List.not_all_eq_any_not, Bool.eq_iff_iff, List.any_eq_true, List.any_eq_true]
    refine exists_congr (fun j => and_congr_right (fun hj => ?_))
    have hj12 : j < 12 := List.mem_range.1 (List.mem_filter.1 hj).1
    simp [hr j hj12]
  have hcan : (!setfOk x.st x.h x.t0 || !pendOk x.st x.sh || !linesHeld s x.k x.st x.sh.namedLocs || !memReady s x) =
      !hasRoom s x := by
    simp only [hasRoom, Bool.not_and]
  simp only [plan, planDeferring, hc, hpred, hwait, hs, or_true, if_true, if_false, Bool.and_false, Bool.false_and, Bool.false_eq_true, hcan,
    canIssue]
  by_cases hw : waitClear x.st x.h x.t0 = true <;> by_cases hb : hasRoom s x = true <;> simp [hw, hb]

theorem plan_of_plain (hd : x.st.deferring = false) (hc : x.sh.cls ≠ .tagTest) : plan s x = planPlain s x := by
  simp [plan, hd, hc]

/-! ## What a step does -/

section
variable {eff : Effect}

theorem attempt_eq (hx : issueOf i s = some x) (hm : mayIssue s x.st x.h x.pc x.t0 = true) (hr : r96 s i x.sh x.st = none) :
    attempt i eff s = match plan s x with
      | .wait => none
      | .inPlace y c => issueIn s y eff c
      | .other t => if (s.lane x.st.laneId).busy ≤ x.t0 then some t else none := by
  simp only [attempt, hx, hm, hr, Bool.not_true, Bool.false_eq_true, if_false]
  cases plan s x with
  | wait => rfl
  | inPlace y c => cases c <;> rfl
  | other t => rfl

/-- A strand that is not ready waits. -/
theorem exec_of_wait (hx : issueOf i s = some x) (hm : mayIssue s x.st x.h x.pc x.t0 = true) (hr : r96 s i x.sh x.st = none)
    (hp : plan s x = .wait) : exec i s = .next s := by
  obtain ⟨hsh, -, -, -, hst, -⟩ := issueOf_inv hx
  obtain ⟨eff, he⟩ := isSome_effOf_of_shape hsh
  have ha : attempt i eff s = none := by rw [attempt_eq hx hm hr, hp]
  simp [exec_lane he, issue, hst, ha]

theorem exec_of_other {t : State} (hx : issueOf i s = some x) (hm : mayIssue s x.st x.h x.pc x.t0 = true)
    (hr : r96 s i x.sh x.st = none) (hb : (s.lane x.st.laneId).busy ≤ x.t0) (hp : plan s x = .other t) :
    exec i s = .next (commit s.mem t) := by
  obtain ⟨hsh, -⟩ := issueOf_inv hx
  obtain ⟨eff, he⟩ := isSome_effOf_of_shape hsh
  rw [exec_lane he, issue_next]
  rw [attempt_eq hx hm hr, hp]
  exact if_pos hb

/-- An instruction with no active thread only advances the PCs (01 R14). -/
theorem exec_of_noActive (h : Ready i s x) (ha : x.act = []) : exec i s = .next (commit s.mem (finish x (advance x s))) := by
  obtain ⟨y, c, hy, -, -, hp, -⟩ := id h
  obtain ⟨hsh, -⟩ := issueOf_inv hy
  obtain ⟨eff, he⟩ := isSome_effOf_of_shape hsh
  obtain ⟨c, hc⟩ := ready_attempt (eff := eff) h
  rw [exec_lane he, issue_next]
  rw [hc]
  simp [performs, ha, settle]

/-- With an active thread and no queue port it performs. -/
theorem performs_of_ready (h : Ready i s x) (hpops : x.pops = []) (ha : x.act ≠ []) (hpp : x.sh.popPorts = []) (hq : x.sh.pushPort = none) :
    Performs i s x (advance x s) := by
  have hreq : x.requests = [] := by simp [Iss.requests, hpp]
  refine ⟨x, [], h, ha, by simp [Iss.boundPorts, hpp, hq], by rw [hreq]; rfl, by simp [Iss.room, hq], ?_⟩
  rw [← hpops]

end

/-- What the issue of an instruction with no active thread leaves of its strand and of the machine. -/
theorem noActive_leaves (h : Ready i s x) (ha : x.act = []) (hst : s.strand x.k = some x.st) :
    ∃ t st', exec i s = .next t ∧ t.strand x.k = some st' ∧ st'.regs = x.st.regs ∧ (s.stores = [] → t.mem = s.mem) ∧ t.ops = s.ops ∧
      t.msgs = s.msgs ∧ ∀ th ∈ x.exm, th < 16 → (st'.thread th).pc = nextPc x.pc := by
  obtain ⟨st1, hs1, hkeep, hth⟩ := thread_advance hst
  obtain ⟨st2, hs2, hkeep2⟩ := strand_finish x (advance x s) hs1
  refine ⟨_, st2, exec_of_noActive h ha, hs2, ?_, fun h0 => ?_, rfl, rfl, fun th hmem hlt => ?_⟩
  · exact Eq.trans (congrArg Strand.regs hkeep2 :) (congrArg Strand.regs hkeep :)
  · show memPutAll s.mem s.stores = s.mem
    rw [h0]; rfl
  · have ht2 : st2.threads = st1.threads := (congrArg Strand.threads hkeep2 :)
    have : st2.thread th = st1.thread th := by simp [Strand.thread, ht2]
    rw [this, hth th hlt, if_pos hmem]

/-! ## Reads and writes of registers (01 R20, R22, R25) -/

theorem predBit_zero (s : State) (st : Strand) (t c : Nat) : s.predBit st 0 t c = true := rfl

theorem readWord_zero (s : State) (x : Iss) {u : Use} (h : u.o = .zero) (n t c : Nat) : readWord s x u n t c = 0#32 := by
  simp [readWord, h, special]

theorem sharedKey_none {st : Strand} (h : st.shr = []) (key : Nat) : sharedKey st key = none := by
  simp [sharedKey, h]

theorem reg_of_unshared (s : State) {st : Strand} (h : st.shr = []) (key c : Nat) : s.reg st key c = regRead st.regs key c := by
  rw [State.reg, sharedKey_none h]

theorem regBest_mem {key c : Nat} {ws : List RegWr} {v : RegWr} (h : regBest key c ws = some v) :
    v ∈ ws ∧ v.key = key ∧ v.vis ≤ c := by
  induction ws with
  | nil => cases h
  | cons w ws ih =>
    unfold regBest at h
    dsimp only at h
    split at h
    next hw =>
      split at h
      next b hb =>
        split at h
        next => exact ⟨List.mem_cons_of_mem _ (ih (hb.trans h)).1, (ih (hb.trans h)).2⟩
        next => cases h; exact ⟨List.mem_cons_self, hw⟩
      next => cases h; exact ⟨List.mem_cons_self, hw⟩
    next => exact ⟨List.mem_cons_of_mem _ (ih h).1, (ih h).2⟩

/-- A write to another key, or one that is not visible yet, changes no read. -/
theorem regRead_cons_other (w : RegWr) (ws : List RegWr) {key c : Nat} (h : ¬ (w.key = key ∧ w.vis ≤ c)) :
    regRead (w :: ws) key c = regRead ws key c := by
  simp only [regRead, regBest, if_neg h]

/-- A visible write is read where no write made later is visible. -/
theorem regRead_cons_latest (w : RegWr) (ws : List RegWr) {c : Nat} (hv : w.vis ≤ c)
    (h : ∀ v ∈ ws, v.key = w.key → v.vis ≤ c → v.made ≤ w.made) : regRead (w :: ws) w.key c = w.val := by
  have hbest : regBest w.key c (w :: ws) = some w := by
    unfold regBest
    dsimp only
    rw [if_pos ⟨rfl, hv⟩]
    split
    next v hb =>
      obtain ⟨hm, hk, hvis⟩ := regBest_mem hb
      exact if_neg (Nat.not_lt.2 (h v hm hk hvis))
    next => rfl
  simp [regRead, hbest]

theorem strand_putReg {k : Nat} {st : Strand} (hst : s.strand k = some st) (hsh : st.shr = []) (w : RegWr) :
    (s.putReg k w).strand k = some { st with regs := w :: st.regs } := by
  unfold State.putReg
  rw [hst]
  dsimp only
  rw [sharedKey_none hsh]
  exact State.strand_modStrand_of hst _

end Sys2Proof.Proofs.Readiness

namespace Sys2Proof.Proofs

open Sys2Proof.Machine Sys2Proof.Claims Sys2Proof.Safety Readiness

/-- Settles O60: the plan of an issue outside deferring mode is `inPlace` exactly where its conditions hold (`planPlain_eq`,
`plan_of_tagTest`), and a register read takes the visible write made latest. -/
theorem readiness : Obligations.Readiness := by
  refine ⟨fun i s x hx hm hr hd hb => ?_, fun s st x u n t c => ⟨predBit_zero s st t c, fun h => readWord_zero s x h n t c⟩, ?_⟩
  · obtain ⟨hsh, -, hi, hk, hst, -, -, -, -, -, hpops⟩ := issueOf_inv hx
    rw [← hk] at hst
    have hcan : (canIssue s x = true) ↔ (∀ j < 12, x.h.wait.getLsbD j = true → x.st.flagCount j x.t0 = 0) ∧
        linesHeld s x.k x.st x.sh.namedLocs = true ∧ ((∀ j, x.h.setf = some j → x.st.flagCount j.val x.t0 < 63) ∧
        (x.sh.isLong = true → ∀ l ∈ x.sh.dstLocs x.st, agetD x.st.pend l 0 < 255)) ∧ ¬ Blocked i s x := by
      simp only [canIssue, hasRoom, Bool.and_eq_true, waitClear_iff, setfOk_iff, pendOk_iff, memReady_iff hi hst]
      tauto
    have hspec : x.sh.cls = .tagTest → Instr.isSpecTask x.i = false := fun hc => hi ▸ (tagTest_inv hsh hc).1
    refine ⟨fun hu => exec_of_other hx hm hr hb (plan_of_unsettled (hspec hu.1) hu), fun hu hres => ?_⟩
    classical
    have hplan : plan s x = if canIssue s x = true ∧ Clear x then .inPlace x none else .wait := by
      by_cases hc : x.sh.cls = .tagTest
      · have hclear : Clear x := by simp [Clear, hc]
        rw [plan_of_tagTest hc (hspec hc) hu (hres hc)]
        simp [hclear]
      · rw [plan_of_plain hd hc, planPlain_eq]
    refine ⟨fun hw hl hco hcl hbl hs => ?_, fun hno => ?_⟩
    · have hready : Ready i s x :=
        ⟨x, none, hx, hm, hr, hplan.trans (if_pos ⟨hcan.2 ⟨hw, hl, hco, hbl⟩, hcl⟩), healthy_of_sound hs _⟩
      exact ⟨hready, performs_of_ready hready hpops, fun ha => noActive_leaves hready ha hst⟩
    · refine exec_of_wait hx hm hr (hplan.trans (if_neg ?_))
      rintro ⟨hc, hcl⟩
      obtain ⟨hw, hl, hco, hbl⟩ := hcan.1 hc
      rcases hno with h | h | h | h | h
      · exact h hw
      · exact h hl
      · exact h hco
      · exact h hcl
      · exact hbl h
  · intro s k key val vis made c st hst hsh
    let w : RegWr := ⟨vis, key, BitVec.ofNat 32 val, made⟩
    have hafter : ∀ (u : State) (key c : Nat), u.reg { st with regs := w :: st.regs } key c = regRead (w :: st.regs) key c :=
      fun u key c => reg_of_unshared u (st := { st with regs := w :: st.regs }) hsh key c
    refine ⟨_, strand_putReg hst hsh w, fun hc => ?_, fun hv hl => ?_, fun key' hne => ?_⟩
    · rw [hafter, reg_of_unshared _ hsh, regRead_cons_other w _ (fun h => absurd h.2 (Nat.not_le.2 hc))]
    · exact (hafter ..).trans (regRead_cons_latest w _ hv hl)
    · rw [hafter, reg_of_unshared _ hsh, regRead_cons_other w _ (fun h => hne h.1.symm)]

end Sys2Proof.Proofs
end

section
/-! SUPPORT. What comes next: a lane's turn with one strand, the order of ready strands, and an event's turn (01 R26, R27). -/

namespace Sys2Proof.Proofs.Turns

open Sys2Proof.Machine Sys2Proof.Claims

/-! ## The order of strands (01 R27) -/

/-- Strictly before: the earlier previous issue, the lower slot among equals. -/
def Before (a b : Strand) : Prop := a.lastS < b.lastS ∨ (a.lastS = b.lastS ∧ a.slot < b.slot)

theorem beforeR27_of_before {a b : Strand} (h : Before a b) : beforeR27 a b = true := by
  unfold beforeR27
  rcases h with h | ⟨he, hs⟩
  · simp [h]
  · simp [he, Nat.le_of_lt hs]

theorem not_beforeR27_of_before {a b : Strand} (h : Before a b) : beforeR27 b a = false := by
  unfold beforeR27
  rcases h with h | ⟨he, hs⟩
  · simp [Nat.not_lt.2 (Nat.le_of_lt h), Nat.ne_of_gt h]
  · simp [he, hs]

theorem mem_of_firstR27 {l : List (Strand × Pick × Bool)} {y : Strand × Pick × Bool} (h : firstR27 l = some y) : y ∈ l := by
  induction l generalizing y with
  | nil => cases h
  | cons x l ih =>
    unfold firstR27 at h
    split at h
    next => cases h; exact List.mem_cons_self
    next z hz =>
      split at h
      next => cases h; exact List.mem_cons_self
      next => cases h; exact List.mem_cons_of_mem _ (ih hz)

theorem firstR27_cons_of_before {x : Strand × Pick × Bool} {l : List (Strand × Pick × Bool)} (h : ∀ y ∈ l, Before x.1 y.1) :
    firstR27 (x :: l) = some x := by
  unfold firstR27
  split
  next => rfl
  next y hy => exact if_pos (beforeR27_of_before (h y (mem_of_firstR27 hy)))

/-- The strand that comes before all the others is the first. -/
theorem firstR27_append {x : Strand × Pick × Bool} (pre : List (Strand × Pick × Bool)) {post : List (Strand × Pick × Bool)}
    (h : ∀ y ∈ pre ++ post, Before x.1 y.1) : firstR27 (pre ++ x :: post) = some x := by
  induction pre with
  | nil => exact firstR27_cons_of_before h
  | cons y pre ih =>
    have hx : firstR27 (pre ++ x :: post) = some x := ih (fun z hz => h z (List.mem_cons_of_mem _ hz))
    have hy : beforeR27 y.1 x.1 = false := not_beforeR27_of_before (h y List.mem_cons_self)
    simp only [List.cons_append, firstR27, hx, hy]
    rfl

/-! ## A lane's turn -/

variable {s : State} {l : LaneId}

/-- A lane with one strand gives it its turn where it is ready. -/
theorem lanePick_single_ready {st : Strand} {p : Pick} (h : lanePicks s l = [(st, p, true)]) : lanePick s l = some p := by
  simp [lanePick, laneReady, h, firstR27]

/-- An instruction's turn comes also where it is not ready: it waits. -/
theorem lanePick_single_issue {st : Strand} {k : Nat} {i : Instr} {b : Bool} (h : lanePicks s l = [(st, .issue k i, b)]) :
    lanePick s l = some (.issue k i) := by
  cases b with
  | true => exact lanePick_single_ready h
  | false => simp [lanePick, laneReady, h, firstR27]

theorem lanePick_of_first {x : Strand × Pick × Bool} (h : firstR27 ((lanePicks s l).filter (fun x => x.2.2)) = some x) :
    lanePick s l = some x.2.1 := by
  simp [lanePick, laneReady, h]

/-- With one resident strand on the lane, the picks of the lane are that strand's. -/
theorem lanePicks_single {k : Nat} {st : Strand} {p : Pick × Bool}
    (h : s.strands.filter (fun x => decide (x.2.laneId = l ∧ x.2.status = .resident)) = [(k, st)])
    (hp : strandPick s k st = some p) : lanePicks s l = [(st, p)] := by
  have hfm : lanePicks s l =
      (s.strands.filter (fun x => decide (x.2.laneId = l ∧ x.2.status = .resident))).filterMap
        (fun x => (strandPick s x.1 x.2).map (fun p => (x.2, p))) := by
    rw [List.filterMap_filter]
    simp [lanePicks]
  rw [hfm, h]
  simp [hp]

/-- With no entry a strand is in its main stream (02 R48). -/
theorem strandPick_of_noEntries {k : Nat} {st : Strand} (hst : s.strand k = some st) (he : st.ents = []) :
    strandPick s k st = mainPick s k st := by
  simp [strandPick, attemptDrain, drainOf, hst, he]

/-- Nothing stops a strand at a slot of a good line that it may enter (04 R82, R84, R85). -/
theorem entryFault_eq_none {st : Strand} {pc : Pc} {f : FetchLine} (hb : f.bad = false) (hs : slotPc pc < 5) (ha : pc.toNat / 8 % 8 = 0)
    (ht : st.begun = true ∨ st.framed = true ∨ f.marks pc = true) : entryFault st pc (some f) = none := by
  have h1 : ¬ (5 ≤ slotPc pc ∨ pc.toNat / 8 % 8 ≠ 0) := by omega
  have h2 : (!st.begun && !st.framed && !f.marks pc) = false := by
    rcases ht with h | h | h <;> simp [h]
  simp [entryFault, h1, hb, h2]

theorem step_of_issue {r : List Turn} {k : Nat} {i : Instr} (hag : s.agenda = .lane l :: r)
    (hp : lanePick { s with agenda := r } l = some (.issue k i)) : step s = exec i { s with agenda := r, cur := k } := by
  simp only [step, nextAct, hag, hp, pickAct]

theorem step_of_fault {r : List Turn} {k : Nat} {f : Flt} {pc : Pc} {exm act : List Nat} (hag : s.agenda = .lane l :: r)
    (hp : lanePick { s with agenda := r } l = some (.fault k f pc exm act)) :
    step s = .next (commit s.mem (({ s with agenda := r } : State).preciseFault k f pc exm act)) := by
  simp only [step, nextAct, hag, hp, pickAct]

/-- An event's turn; a drain's is that of its lane. -/
theorem step_of_event {r : List Turn} {i : Instr} (hag : s.agenda = .event i :: r) (hd : ∀ k, i ≠ .residualDrain k)
    (hev : (evOf i).isSome = true) : step s = exec i { s with agenda := r } := by
  unfold step nextAct
  rw [hag]
  cases i with
  | residualDrain k => exact absurd rfl (hd k)
  | _ => simp only [hev, if_true]

/-- A strand at a slot that it may enter. -/
structure AtSlot (s : State) (st : Strand) (pc : Pc) (f : FetchLine) : Prop where
  issues : st.issueAddr = some pc
  line : s.fetched st pc = some f
  enters : entryFault st pc (some f) = none

theorem mainPick_of_decodes {k : Nat} {st : Strand} {pc : Pc} {f : FetchLine} {i : Instr} (h : AtSlot s st pc f)
    (hi : decode (slotOf f.data (slotPc pc)) = .ok i) : ∃ b, mainPick s k st = some (.issue k i, b) := by
  obtain ⟨hpc, hf, he⟩ := h
  simp only [mainPick, hpc, hf, he, hi]
  exact ⟨_, rfl⟩

theorem mainPick_of_refused {k : Nat} {st : Strand} {pc : Pc} {f : FetchLine} {e : Reject} (h : AtSlot s st pc f)
    (he : decode (slotOf f.data (slotPc pc)) = .error e) :
    mainPick s k st = some (.fault k { cause := encodingCause st (slotOf f.data (slotPc pc)), lowt := (st.executing pc).headD 0 } pc
      (st.executing pc) (activeOf s st (rawHdr (slotOf f.data (slotPc pc))) (st.executing pc) (s.cycle st.part)),
      rawReady s st (rawHdr (slotOf f.data (slotPc pc))) pc (s.cycle st.part)) := by
  obtain ⟨hpc, hf, hent⟩ := h
  simp only [mainPick, hpc, hf, hent, he]

theorem encodingCause_eq (st : Strand) (w : Slot) :
    encodingCause st w = if privilegedOpcode w = true ∧ st.priv = false then 2 else 1 := by
  simp [encodingCause]

end Sys2Proof.Proofs.Turns

namespace Sys2Proof.Proofs

open Sys2Proof.Machine Sys2Proof.Claims Turns

/-- Settles O54: a lane with one resident strand has that strand's pick (`lanePicks_single`), and of several the one that comes before the
others (`firstR27_append`). -/
theorem stepRunsDecoded : Obligations.StepRunsDecoded := by
  intro s l r s'
  refine ⟨fun k st pc f hag hone hst hents hpc hf hbad hslot hal htgt => ?_, fun pre post x hag hfilter hbefore => ?_, fun i f t hag hnd hev hf => ?_⟩
  · have hlane : ∀ p, strandPick s' k st = some p → lanePicks s' l = [(st, p)] := fun p => lanePicks_single (s := s') hone
    have hmain : strandPick s' k st = mainPick s' k st := strandPick_of_noEntries (s := s') hst hents
    have hat : AtSlot s' st pc f := ⟨hpc, hf, entryFault_eq_none hbad hslot hal htgt⟩
    refine ⟨fun i hi => ?_, fun e he hready => ?_⟩
    · obtain ⟨b, hb⟩ := mainPick_of_decodes (k := k) hat hi
      exact step_of_issue hag (lanePick_single_issue (hlane _ (hmain.trans hb)))
    · have hpick := mainPick_of_refused (k := k) hat he
      rw [show rawReady s' st _ pc (s'.cycle st.part) = true from hready] at hpick
      refine (step_of_fault hag (lanePick_single_ready (hlane _ (hmain.trans hpick)))).trans ?_
      rw [encodingCause_eq]
      rfl
  · exact lanePick_of_first (hfilter ▸ firstR27_append pre hbefore)
  · exact step_of_event hag hnd (by simp [hev])

end Sys2Proof.Proofs
end

section
/-! SUPPORT. Addresses and moves, and the registers that MOVX and MOVXW address (05 R117 to R119). -/

namespace Sys2Proof.Proofs.Moves

open Sys2Proof.Machine Sys2Proof.Claims Sys2Proof.Safety

/-! ## LEA -/

/-- A position at which an instruction names no source reads as zero (01 R20). -/
theorem readOpd_zero (s : State) (x : Iss) (p : Pos) (t : Nat) : readOpd s x ⟨p, .zero, 1, 1, []⟩ t = 0#64 := by
  simp [readOpd, readWord, special]

theorem srcAt_none {sh : Shape} {p : Pos} (h : ∀ u ∈ sh.srcs, u.pos ≠ p) : srcAt sh p = ⟨p, .zero, 1, 1, []⟩ := by
  have : sh.srcs.find? (fun u => u.pos == p) = none := List.find?_eq_none.2 (fun u hu => by simpa using h u hu)
  simp [srcAt, this]

/-- LEA names no source at C, so what it reads there is zero (05 R117). -/
theorem readThread_c_of_lea {h : Hdr} {d : Opd} {m : Addr} {s s1 : State} {y : Iss} (hp : Performs (.lea h d m) s y s1) (t : Nat) :
    (readThread s1 y t).c = 0#64 := by
  obtain ⟨hsh, -⟩ := performs_inv hp
  have hsrc : ∀ u ∈ y.sh.srcs, u.pos ≠ .c := by
    rw [← Option.some.inj hsh]
    simp [regOp, s64, s32]
  exact (congrArg (fun u => readOpd s1 y u t) (srcAt_none hsrc)).trans (readOpd_zero ..)

theorem addrVal_eq (m : Addr) (base : Dword) : addrVal m base 0#32 = base + ((0#32).signExtend 64 <<< m.sc.toNat) + m.off.signExtend 64 := by
  have : (0#32 : Word).signExtend 64 = 0#64 := by decide
  simp [addrVal, sext64, this]

theorem each_lea (h : Hdr) (d : Opd) (m : Addr) :
    Each (.lea h d m) (fun _ r => { d := r.b + (r.cw.signExtend 64 <<< m.sc.toNat) + m.off.signExtend 64 }) := by
  refine each_of (fun _ r => { d := addrVal m r.b r.cw }) rfl (fun y => rfl) (fun s y s1 t hp => ?_)
  have hcw : (readThread s1 y t).cw = 0#32 := by simp [Rd.cw, readThread_c_of_lea hp]
  simp only [hcw, addrVal_eq]

/-! ## MOVX and MOVXW -/

variable {wide wr : Bool} {base : Opd}

/-- The register of a row lies below the declared count. -/
def Inside (wide : Bool) (base : Opd) (st : Strand) (r : Rd) : Prop :=
  (Opd.num base + if wide then 2 * r.bw.toNat else r.bw.toNat) + (if wide then 1 else 0) < if Opd.isVec base then st.vregs else st.uregs

theorem inside_iff {st : Strand} {r : Rd} :
    Inside wide base st r ↔ ¬ movxTop base st < movxNum wide base r.bw + if wide then 2 else 1 := by
  unfold Inside movxTop movxNum
  cases wide
  · simp
  · simp
    omega

theorem movxBad_eq_none {st : Strand} {rows : List Rd} (h : ∀ r ∈ rows, Inside wide base st r) : movxBad wide base st rows = none :=
  List.find?_eq_none.2 (fun r hr => by simpa using Nat.not_lt.1 (inside_iff.1 (h r hr)))

theorem movxBad_append {st : Strand} {pre post : List Rd} {r : Rd} (hpre : ∀ q ∈ pre, Inside wide base st q) (hr : ¬ Inside wide base st r) :
    movxBad wide base st (pre ++ r :: post) = some r := by
  have hr' : movxTop base st < movxNum wide base r.bw + if wide then 2 else 1 := by
    by_contra hn
    exact hr (inside_iff.2 hn)
  have hnone : pre.find? (fun r => decide (movxTop base st < movxNum wide base r.bw + if wide then 2 else 1)) = none := movxBad_eq_none hpre
  simp [movxBad, List.find?_append, hnone, hr']

theorem isSome_effOf_movx (h : Hdr) (d a b : Opd) (wide wr : Bool) :
    effOf (if wide then .movxw h d a b wr else .movx h d a b wr) = some (effMovxAny wide (if wr then d else a) wr) := by
  cases wide <;> rfl

/-- Register `j` of those that a row addresses. -/
def rowKey (wide : Bool) (base : Opd) (r : Rd) (j : Nat) : Nat :=
  if Opd.isVec base then vecKey (movxNum wide base r.bw + j) r.t else uniKey (movxNum wide base r.bw + j)

theorem movxKeys_eq (wide : Bool) (base : Opd) (r : Rd) : movxKeys wide base (movxNum wide base r.bw) r.t =
    rowKey wide base r 0 :: if wide then [rowKey wide base r 1] else [] := by
  cases wide <;> simp [movxKeys, rowKey]

theorem movxWrites_eq (wide : Bool) (base : Opd) (x : Iss) (r : Rd) : movxWrites wide base x r =
    { vis := x.wcyc r.t + 6, key := rowKey wide base r 0, val := r.aw, made := x.wcyc r.t } ::
      if wide then [{ vis := x.wcyc r.t + 6, key := rowKey wide base r 1, val := r.a.extractLsb' 32 32, made := x.wcyc r.t }] else [] := by
  have haw : r.a.extractLsb' 0 32 = r.aw := BitVec.eq_of_toNat_eq (by simp [Rd.aw])
  rw [movxWrites, movxKeys_eq]
  cases wide <;> simp [List.range_succ, haw]

theorem zeroExtend_eq_append (v : Word) : v.zeroExtend 64 = 0#32 ++ v := by
  refine BitVec.eq_of_toNat_eq ?_
  rw [BitVec.toNat_append (0#32) v, BitVec.toNat_setWidth, BitVec.toNat_ofNat, Nat.zero_mod, Nat.zero_shiftLeft, Nat.zero_or]
  exact Nat.mod_eq_of_lt (by omega)

theorem movxRead_eq (wide : Bool) (base : Opd) (s : State) (x : Iss) (r : Rd) : movxRead wide base s x r =
    (if wide then s.reg x.st (rowKey wide base r 1) (x.cyc r.t) else 0#32) ++ s.reg x.st (rowKey wide base r 0) (x.cyc r.t) := by
  rw [movxRead, movxKeys_eq]
  cases wide with
  | true => rfl
  | false => exact zeroExtend_eq_append _

/-- Every row inside, and the lines held: the lines that it names are used, and it reads or writes them (05 R119, 01 R30). -/
theorem effMovxAny_ok {s : State} {y : Iss} (hin : ∀ r ∈ y.poppers.map (fun t => readThread s y t), Inside wide base y.st r)
    (hl : linesHeld s y.k y.st (movxLines wide base (y.poppers.map (fun t => readThread s y t))) = true) :
    let rows := y.poppers.map (fun t => readThread s y t)
    let named := movxLines wide base rows
    let s2 := s.modLane y.st.laneId (useLines y.k named (if wr then named else []) y.last)
    effMovxAny wide base wr y s = .ok (if wr then putOrLand y (rows.flatMap (movxWrites wide base y)) s2
      else writeRows y (rows.map (fun r => (r.t, { d := movxRead wide base s2 y r }))) s2) := by
  simp only [effMovxAny, movxBad_eq_none hin, hl]
  cases wr <;> rfl

theorem effMovxAny_stop {s : State} {y : Iss} {pre post : List Rd} {r : Rd} (hrows : y.poppers.map (fun t => readThread s y t) = pre ++ r :: post)
    (hpre : ∀ q ∈ pre, Inside wide base y.st q) (hr : ¬ Inside wide base y.st r) :
    effMovxAny wide base wr y s = .stop { cause := 3, lowt := r.t } := by
  simp only [effMovxAny, hrows, movxBad_append hpre hr]

end Sys2Proof.Proofs.Moves

namespace Sys2Proof.Proofs

open Sys2Proof.Machine Sys2Proof.Claims Sys2Proof.Safety Moves

/-- Settles O2: each move is its effect; MOVX and MOVXW complete where no row is `movxBad`, which is what lies below the declared count means
(`inside_iff`). -/
theorem moves : Obligations.Moves := by
  refine ⟨fun h d a m w imm => ⟨each_lea h d m, each_of_eff rfl (fun _ _ => rfl), each_of_eff rfl (fun _ _ => rfl),
    each_of_eff rfl (fun _ _ => rfl), each_of_eff rfl (fun _ _ => rfl)⟩, ?_⟩
  intro h d a b wide wr s s1 y i base rows first inside key hp
  have he : effOf i = some (effMovxAny wide base wr) := isSome_effOf_movx h d a b wide wr
  refine ⟨fun hin hl => ?_, fun r pre post hrows hpre hr => ?_⟩
  · have hok := completes_of_ok he hp (effMovxAny_ok (wr := wr) hin hl)
    rw [show movxWrites wide base y = _ from funext (movxWrites_eq wide base y)] at hok
    simp only [movxRead_eq] at hok
    exact hok
  · exact stops_of_stop he hp (effMovxAny_stop hrows hpre hr)

end Sys2Proof.Proofs
end

section
/-! SUPPORT. A placed strand performs an instruction where the checks of its issue pass, as one Bool that a concrete state evaluates. -/

namespace Sys2Proof.Proofs.Placed

open Sys2Proof.Machine Sys2Proof.Claims Sys2Proof.Safety Readiness

/-- A state with one strand, whose number is 2 (`placeWord`), changed by `f`. -/
def placed (f : Strand → Strand) : State :=
  State.modStrand { placeWord 0 State.reset with agenda := [], cur := 2 } 2 f

/-- What holds of an issue outside deferring mode that is planned in place and waits for nothing (04 R96; 01 R26). -/
def planned (i : Instr) (s : State) (x : Iss) : Bool :=
  mayIssue s x.st x.h x.pc x.t0 && (r96 s i x.sh x.st).isNone && !x.st.deferring && decide (x.sh.cls ≠ .tagTest) && canIssue s x &&
    (decide (x.sh.cls ≠ .precise) || x.st.ents.isEmpty) && !x.st.orderedEnts

/-- No unit of its package is out of use besides. -/
def issues (i : Instr) (s : State) (x : Iss) : Bool := planned i s x && s.healthy x.st.part.pkg

variable {i : Instr} {s : State} {x : Iss}

theorem mayIssue_of_planned (h : planned i s x = true) : mayIssue s x.st x.h x.pc x.t0 = true ∧ r96 s i x.sh x.st = none := by
  simp only [planned, Bool.and_eq_true, Option.isNone_iff_eq_none] at h
  tauto

theorem plan_of_planned (h : planned i s x = true) : plan s x = .inPlace x none := by
  simp only [planned, Bool.and_eq_true, Bool.not_eq_true', Bool.or_eq_true, decide_eq_true_eq] at h
  obtain ⟨⟨⟨⟨⟨⟨-, -⟩, hd⟩, hc⟩, hcan⟩, hp⟩, ho⟩ := h
  have hclear : Clear x := by
    rw [clear_iff]
    refine ⟨fun hn => ?_, fun hn => by simp [ho] at hn⟩
    rcases hp with hp | hp
    · exact hp hn.1
    · simp [hp] at hn
  classical
  rw [plan_of_plain hd hc, planPlain_eq, if_pos ⟨hcan, hclear⟩]

theorem ready_of_issues (hx : issueOf i s = some x) (h : issues i s x = true) : Ready i s x := by
  obtain ⟨hp, hh⟩ := Bool.and_eq_true_iff.1 h
  exact ⟨x, none, hx, (mayIssue_of_planned hp).1, (mayIssue_of_planned hp).2, plan_of_planned hp, hh⟩

/-- It has an active thread besides, and names no queue port. -/
def performsAlone (x : Iss) : Bool := !x.act.isEmpty && x.sh.popPorts.isEmpty && x.sh.pushPort.isNone

theorem performs_of_issues (hx : issueOf i s = some x) (h : issues i s x = true)
    (ha : performsAlone x = true) : Performs i s x (advance x s) := by
  obtain ⟨-, -, -, -, -, -, -, -, -, -, hpops⟩ := issueOf_inv hx
  simp only [performsAlone, Bool.and_eq_true, Bool.not_eq_true', List.isEmpty_eq_false_iff, List.isEmpty_iff,
    Option.isNone_iff_eq_none] at ha
  exact performs_of_ready (ready_of_issues hx h) hpops ha.1.1 ha.1.2 ha.2

theorem exists_of_any {α : Type*} {o : Option α} {p : α → Bool} (h : o.any p = true) : ∃ a, o = some a ∧ p a = true := by
  cases o with
  | none => cases h
  | some a => exact ⟨a, rfl, h⟩

/-- What `g` makes of strand 2 after a step. -/
def strandAfter {α : Type} (g : Strand → α) : Result → Option α
  | .next t => (t.strand 2).map g
  | _ => none

end Sys2Proof.Proofs.Placed
end

section
/-! SUPPORT. A register instruction that writes beyond the registers of its destination (01 R20, R22). -/

namespace Sys2Proof.Proofs.UnpackPast

open Sys2Proof.Machine Sys2Proof.Claims Sys2Proof.Safety Placed

/-- BLKUNP of a block with header 2 in v2, to the eight vector registers from v191 on. -/
def unpackPast : Instr := .blkunp (bare 0) (.v 191) (.v 2) 7 .rne false

/-- A strand with 199 vector registers declared; the register of key 3079, uniform register 7, reads 5. `Inv` says nothing of the declared count. -/
def declaredPast : State :=
  placed (fun st => { st with vregs := 199, uregs := 0, regs := [⟨0, 3079, 5#32, 0⟩, ⟨0, 32, 2#32, 0⟩] })

theorem inv_declaredPast : Inv declaredPast := ⟨by decide +kernel, rfl⟩

theorem issues_unpackPast :
    (issueOf unpackPast declaredPast).any (fun x => issues unpackPast declaredPast x && performsAlone x &&
      x.sh.dstLocs x.st == [191, 192, 193, 194, 195, 196, 197, 198] && regRead x.st.regs 3079 100 == 5#32) = true := by
  decide +kernel

/-- The keys of v192 on are those of the uniform registers, and one of the elements lands in uniform register 7. -/
theorem exec_unpackPast : strandAfter (fun st => regRead st.regs 3079 100) (exec unpackPast declaredPast) = some 0#32 := by
  decide +kernel

end Sys2Proof.Proofs.UnpackPast

namespace Sys2Proof.Proofs

open Sys2Proof.Machine Sys2Proof.Claims Sys2Proof.Safety Placed UnpackPast

/-- Refutes O59: its hypotheses allow a strand with more than 192 vector registers declared (`declaredPast`). There BLKUNP to the eight
registers from v191 on completes, and an element lands in uniform register 7, which is none of its destination's lines. -/
theorem not_registerFrame : ¬ Obligations.RegisterFrame := by
  intro h
  obtain ⟨x, hx, hc⟩ := exists_of_any issues_unpackPast
  simp only [Bool.and_eq_true, beq_iff_eq] at hc
  obtain ⟨⟨⟨hi, ha⟩, hdst⟩, hread⟩ := hc
  obtain ⟨-, -, -, hk, -⟩ := issueOf_inv hx
  have hafter := exec_unpackPast
  cases he : exec unpackPast declaredPast with
  | next t =>
    obtain ⟨-, -, -, -, -, -, -, -, -, -, -, -, st', hst, hregs, -⟩ :=
      h unpackPast declaredPast _ t x rfl inv_declaredPast (performs_of_issues hx hi ha) he
    have hsame : regRead st'.regs 3079 100 = 5#32 := (hregs 3079 100 (by rw [hdst]; decide)).trans hread
    have hk2 : x.k = 2 := hk
    rw [he, strandAfter, ← hk2, hst, Option.map_some, hsame] at hafter
    exact absurd hafter (by decide)
  | _ => rw [he] at hafter; cases hafter

end Sys2Proof.Proofs
end

section
/-! SUPPORT. A return from a handler whose threads counted a wait in the handler (07 R168, 17 R335). -/

namespace Sys2Proof.Proofs.ReturnTimes

open Sys2Proof.Machine Sys2Proof.Claims Sys2Proof.Safety Placed

/-- A TRET with no clause. -/
def tret : Instr := .tret (bare 0)

/-- A strand in its handler with a frame outstanding, whose threads, live in the frame, counted a wait from cycle 7 on. `Inv` says nothing
of these times. -/
def waitedInHandler : State :=
  ((placed id).enterHandler 2 1 0 0xFFFF).modStrand 2 (fun st => { st with
    threads := st.threads.map (fun th => { th with pc := 0, since := 7 }) })

theorem issueOf_isSome : (issueOf tret waitedInHandler).isSome = true := by decide +kernel

/-- The issue of the TRET. -/
def returning : Iss := (issueOf tret waitedInHandler).get issueOf_isSome

theorem issueOf_tret : issueOf tret waitedInHandler = some returning := (Option.some_get _).symm

theorem performs_tret : Performs tret waitedInHandler returning (advance returning waitedInHandler) :=
  performs_of_issues issueOf_tret (by decide +kernel) (by decide +kernel)

theorem frameRecords_isSome : (frameRecords returning.st.image 16).isSome = true := by decide +kernel

/-- The records of its frame. -/
def records : List ThreadRec := (frameRecords returning.st.image 16).get frameRecords_isSome

/-- The cycles that its threads wait from. -/
def waitsFrom (st : Strand) : List Nat := st.threads.map (fun th => th.since)

/-- The step lets them count anew. -/
theorem exec_tret : strandAfter waitsFrom (exec tret waitedInHandler) = some (List.replicate 16 0) := by decide +kernel

theorem not_allExited {o : Option Strand} (h : o.any (fun st => st.threads.any (fun th => th.st != .exited)) = true) :
    ¬ ∃ st, o = some st ∧ ∀ th ∈ st.threads, th.st = .exited := by
  rintro ⟨st, rfl, hall⟩
  obtain ⟨th, hm, hne⟩ := List.any_eq_true.1 (Option.any_some.symm.trans h)
  exact absurd (hall th hm) (by simpa using hne)

theorem not_graced {o : Option Launch} (h : o.any (fun l => l.grace.isSome) = false) : ¬ ∃ l, o = some l ∧ l.grace.isSome = true := by
  rintro ⟨l, rfl, hg⟩
  rw [Option.any_some, hg] at h
  cases h

end Sys2Proof.Proofs.ReturnTimes

namespace Sys2Proof.Proofs

open Sys2Proof.Machine Sys2Proof.Claims Sys2Proof.Safety Placed ReturnTimes

/-- Refutes O20: the state that `handlerReturn` restores keeps the cycle from which each thread counted a wait in the handler, 7 in
`waitedInHandler`, and the step sets it to 0. -/
theorem not_handlerEntryAndReturn : ¬ Obligations.HandlerEntryAndReturn := by
  rintro ⟨-, h⟩
  obtain ⟨-, -, hret⟩ := h (bare 0) waitedInHandler _ returning records performs_tret
  obtain ⟨hback, -⟩ := hret (by decide +kernel) (Option.some_get _).symm
  obtain ⟨hlive, -⟩ := hback (by decide +kernel)
  have hstep := (hlive _ (Option.some_get (by decide +kernel)).symm (not_allExited (by decide +kernel))).2 (not_graced (by decide +kernel))
  have hkept := congrArg (strandAfter waitsFrom) hstep
  exact absurd (exec_tret.symm.trans hkept) (by decide +kernel)

end Sys2Proof.Proofs
end

section
/-! SUPPORT. An instruction that an empty queue holds back, and whose source register holds an error. -/

namespace Sys2Proof.Proofs.HeldBack

open Sys2Proof.Machine Sys2Proof.Claims Sys2Proof.Safety Placed

/-- IADD of the next element of queue port 0 and of v4. -/
def addPopped : Instr := .iadd (bare 0) (.v 8) (.qp 0) (.v 4) .i32 false

/-- Port 0 is bound to queue 7 of its tile, which holds nothing, and the line of v4 holds an error that is found when the line is read. -/
def emptyQueue : State :=
  { placed (fun st => { st with qpb := [(0, (0, 7))] }) with latent := [⟨.reg 2 4, true⟩] }

theorem issueOf_isSome : (issueOf addPopped emptyQueue).isSome = true := by decide +kernel

/-- The issue of the IADD. -/
def adding : Iss := (issueOf addPopped emptyQueue).get issueOf_isSome

theorem issueOf_addPopped : issueOf addPopped emptyQueue = some adding := (Option.some_get _).symm

theorem planned_adding : planned addPopped emptyQueue adding = true := by decide +kernel

theorem effOf_isSome : (effOf addPopped).isSome = true := rfl

theorem condUnmet_adding : condUnmet emptyQueue adding ((effOf addPopped).get effOf_isSome) = true := by decide +kernel

/-- The error stops the strand, before the queue holds it back. -/
theorem exec_addPopped : strandAfter (fun st => st.stopped) (exec addPopped emptyQueue) = some true := by decide +kernel

end Sys2Proof.Proofs.HeldBack

namespace Sys2Proof.Proofs

open Sys2Proof.Machine Sys2Proof.Claims Sys2Proof.Safety Placed HeldBack

/-- Refutes O22: an instruction that an empty queue holds back does not wait in every state. In `emptyQueue`, where its encoding is good,
its source register holds an error, and the step is the machine-check fault of that error (18 R362). -/
theorem not_trapsAndEncodingFaults : ¬ Obligations.TrapsAndEncodingFaults := by
  rintro ⟨-, h⟩
  have hplan := plan_of_planned planned_adding
  have hshape : shape addPopped = some adding.sh := (issueOf_inv issueOf_addPopped).1
  obtain ⟨hheld, -⟩ := h addPopped emptyQueue adding adding.sh issueOf_addPopped hshape (mayIssue_of_planned planned_adding).1
    (by rw [hplan]; exact fun hn => by cases hn) (by decide +kernel)
  have hwait := hheld ⟨_, adding, (Option.some_get effOf_isSome).symm, hplan, condUnmet_adding⟩
  have hrunning := congrArg (strandAfter (fun st => st.stopped)) hwait
  exact absurd (exec_addPopped.symm.trans hrunning) (by decide +kernel)

end Sys2Proof.Proofs
end

section
/-! SUPPORT. The threads of the strand that performs, changed one by one or together. -/

namespace Sys2Proof.Machine

theorem amod_congr {κ β : Type} [DecidableEq κ] {m : Assoc κ β} {k : κ} {f g : β → β} (h : ∀ v, aget m k = some v → f v = g v) :
    amod m k f = amod m k g := by
  unfold amod
  split
  next v hv => rw [h v hv]
  next => rfl

theorem State.modStrand_congr {s : State} {k : Nat} {f g : Strand → Strand} (h : ∀ st, s.strand k = some st → f st = g st) :
    s.modStrand k f = s.modStrand k g := by
  unfold State.modStrand
  rw [amod_congr h]

theorem popAll_strands {c : CtxId} {qpb : Assoc Nat (Nat × Nat)} {rs : List (Nat × Pos × Nat)} {s s1 : State}
    {acc pops : Assoc (Nat × Pos) Word} (h : popAll c qpb rs s acc = some (s1, pops)) : s1.strands = s.strands := by
  induction rs generalizing s acc with
  | nil => cases h; rfl
  | cons r rs ih =>
    unfold popAll at h
    split at h
    next => cases h
    next =>
      split at h
      next => cases h
      next =>
        have hrest := ih h
        exact hrest

theorem length_lset {β : Type} (l : List β) (i : Nat) (f : β → β) : (lset l i f).length = l.length := by
  induction l generalizing i with
  | nil => rfl
  | cons x xs ih => cases i <;> simp [lset, ih]

theorem getElem?_lset {β : Type} (l : List β) (i j : Nat) (f : β → β) :
    (lset l i f)[j]? = if i = j then l[j]?.map f else l[j]? := by
  induction l generalizing i j with
  | nil => simp [lset]
  | cons x xs ih => cases i <;> cases j <;> simp [lset, ih]

/-- The threads of a list, all changed alike by a change that is the same when made twice. -/
theorem foldl_modThread {f : Thread → Thread} (hf : ∀ th, f (f th) = f th) {st : Strand} (hlen : st.threads.length = 16) (ts : List Nat) :
    ts.foldl (fun st t => st.modThread t f) st =
      { st with threads := (List.range 16).map (fun t => if ts.contains t then f (st.thread t) else st.thread t) } := by
  have hthreads : ∀ st : Strand, st.threads.length = 16 → (List.range 16).map st.thread = st.threads := fun st h =>
    List.ext_getElem (by simp [h]) (fun i h1 h2 => by simp [Strand.thread, List.getD_eq_getElem?_getD, h2])
  induction ts generalizing st with
  | nil => simp [hthreads st hlen]
  | cons t ts ih =>
    rw [List.foldl_cons, ih (by simp [Strand.modThread, length_lset, hlen])]
    refine congrArg (fun l => { st with threads := l }) (List.map_congr_left (fun u hu => ?_))
    have hu16 : u < st.threads.length := by rw [hlen]; exact List.mem_range.1 hu
    by_cases htu : t = u
    · subst htu
      by_cases hm : t ∈ ts <;> simp [Strand.thread, Strand.modThread, List.getD_eq_getElem?_getD, getElem?_lset, hu16, hf, hm]
    · have hne : u ≠ t := fun h => htu h.symm
      simp [Strand.thread, Strand.modThread, List.getD_eq_getElem?_getD, getElem?_lset, htu, hne]

end Sys2Proof.Machine

namespace Sys2Proof.Safety

open Sys2Proof.Machine Sys2Proof.Claims

/-- Where an instruction performs, its strand has a state for each of its threads. -/
theorem Performs.threads {i : Instr} {s s1 : State} {y : Iss} (h : Performs i s y s1) :
    ∃ st, s1.strand y.k = some st ∧ st.threads.length = 16 := by
  obtain ⟨x, pops, ⟨z, c, hx, -, -, hp, -⟩, -, -, hpop, -, rfl⟩ := h
  obtain ⟨-, -, -, hk, hst, -⟩ := issueOf_inv hx
  have hxk : x.k = z.k := by
    rcases plan_inPlace hp with rfl | rfl <;> rfl
  have hz : s.strand x.k = some z.st := by rw [hxk, hk]; exact hst
  exact ⟨_, (congrArg (fun m => aget m x.k) (popAll_strands hpop)).trans (State.strand_modStrand_of hz _), by simp⟩

/-- An effect that changes the active threads alike. -/
theorem modStrand_eq_onActive {s : State} {y : Iss} {f : Thread → Thread} (hf : ∀ th, f (f th) = f th)
    (h : ∃ st, s.strand y.k = some st ∧ st.threads.length = 16) :
    s.modStrand y.k (fun st => y.act.foldl (fun st t => st.modThread t f) st) = onActive y (fun _ => f) s := by
  obtain ⟨st, hst, hlen⟩ := h
  refine State.modStrand_congr (fun st' hst' => ?_)
  cases hst.symm.trans hst'
  exact foldl_modThread hf hlen _

end Sys2Proof.Safety
end

section
/-! SUPPORT. Watches, DOZE and the mallet (07 R174 to R176, R182; 14 R298, R299; 15 R316). -/

namespace Sys2Proof.Proofs.Watches

open Sys2Proof.Machine Sys2Proof.Claims Sys2Proof.Safety

/-! ## The address of format M -/

theorem readOpd_of_zero (s : State) (x : Iss) {u : Use} (h : u.o = .zero) (t : Nat) : readOpd s x u t = 0#64 := by
  simp only [readOpd, Readiness.readWord_zero s x h]
  split <;> rfl

/-- The address that an instruction computes is that of 04 R93: an index that is not named reads zero. -/
theorem addrOf_eq_address (s : State) {y : Iss} {m : Addr} (h : y.sh.idxUse.o = m.idx) (t : Nat) : addrOf s y m t = address s y m t := by
  have hidx : (if m.idx = .zero then 0#64 else sext64 ((readOpd s y y.sh.idxUse t).truncate 32)) =
      ((readOpd s y y.sh.idxUse t).truncate 32).signExtend 64 := by
    split
    next hz => rw [readOpd_of_zero s y (h.trans hz)]; rfl
    next => rfl
  unfold addrOf addrVal
  rw [hidx]
  unfold address Shape.baseUse Shape.idxUse
  split <;> rfl

/-! ## WATCH -/

/-- What an instruction reads is not changed by a slot that is disarmed, nor by a transaction. -/
theorem watchWords_disarmSlot (txn k j : Nat) (s : State) (x : Iss) (ty : Ty) (i : Nat) :
    watchWords (disarmSlot txn k j s) x ty i = watchWords s x ty i := by
  unfold disarmSlot
  split
  next => rfl
  next =>
    split
    next => rfl
    next => dsimp only; split <;> rfl

theorem watchWords_openTxn (y : Iss) (left : Nat) (d : Opd) (s : State) (x : Iss) (ty : Ty) (i : Nat) :
    watchWords (openTxn y left d s).2 x ty i = watchWords s x ty i := rfl

theorem openTxn_fst (y : Iss) (left : Nat) (d : Opd) (s : State) : (openTxn y left d s).1 = s.uid + 1 := rfl

variable {h : Hdr} {d a : Opd} {m : Addr} {ty : Ty} {cmp slot : BitVec 2} {s s1 : State} {y : Iss}

theorem address_watch (hp : Performs (.watch h d m ty cmp slot) s y s1) : addrOf s1 y m y.lead = address s1 y m y.lead := by
  obtain ⟨hsh, -⟩ := performs_inv hp
  refine addrOf_eq_address s1 ?_ _
  rw [← Option.some.inj hsh]
  rfl

theorem effWatch_stop {cause : Nat} (hp : Performs (.watch h d m ty cmp slot) s y s1)
    (hc : checkAddr s1 y.st .rd (address s1 y m y.lead) (memSize ty) = .stop cause) : effWatch m ty cmp slot y s1 =
      .stop { cause := cause, addr := (address s1 y m y.lead).toNat, lowt := y.lead } := by
  simp only [effWatch, address_watch hp, hc]

theorem effWatch_image {off : Nat} (hp : Performs (.watch h d m ty cmp slot) s y s1)
    (hc : checkAddr s1 y.st .rd (address s1 y m y.lead) (memSize ty) = .at_ (.image off)) : effWatch m ty cmp slot y s1 =
      .stop { cause := 0x0E, addr := (address s1 y m y.lead).toNat, lowt := y.lead } := by
  simp only [effWatch, address_watch hp, hc]

theorem effWatch_mem {w : Spot} (hp : Performs (.watch h d m ty cmp slot) s y s1)
    (hc : checkAddr s1 y.st .rd (address s1 y m y.lead) (memSize ty) = .at_ (.mem w.key w.leaf w.tile)) : effWatch m ty cmp slot y s1 =
      if Home.far (homeOf y.st.part w.tile w.key) then .stop { cause := 0x0C, addr := (address s1 y m y.lead).toNat, lowt := y.lead }
      else .ok (((disarmSlot 0 y.k slot.toNat (opened y .zero s1)).modStrand y.k (fun st => { st with
        watch := lset st.watch slot.toNat (fun _ =>
          { st := .arming, cmp := cmp, ty := ty, exp := watchWords s1 y ty 0, mask := watchWords s1 y ty 1
            va := (address s1 y m y.lead).toNat, arm := s1.uid + 1, outside := Home.outside (homeOf y.st.part w.tile w.key) }) })).send
        (.arm y.k slot.toNat (s1.uid + 1) (address s1 y m y.lead).toNat w.key (homeOf y.st.part w.tile w.key))) := by
  simp only [effWatch, address_watch hp, hc, opened, watchWords_disarmSlot, watchWords_openTxn, openTxn_fst]

/-! ## DOZE and UNWATCH -/

theorem slotsOf_toNat (sel : BitVec 4) : slotsOf sel.toNat = (List.range 4).filter (fun i => sel.getLsbD i) := by
  revert sel
  decide

theorem effDoze_eq {sel : BitVec 4} (hp : Performs (.doze h d a sel) s y s1) : effDoze d a sel y s1 =
    .ok (onActive y (fun _ th => { th with
        st := .parked, park := .doze, psel := sel.toNat
        parg := if a = .zero then 0 else max 1 (y.t0 + (readThread s1 y y.lead).a.toNat), ptxn := s1.uid + 1, since := y.last })
      (opened y d s1)) := by
  refine congrArg Eff.ok ?_
  exact modStrand_eq_onActive (s := opened y d s1) (fun _ => rfl) hp.threads

theorem effUnwatch_eq (sel : BitVec 4) (y : Iss) (s : State) :
    let slots := (List.range 4).filter (fun i => sel.getLsbD i)
    let live := slots.filter (fun i => (y.st.watch.getD i {}).st = .arming ∨ (y.st.watch.getD i {}).st = .armed)
    let gone := slots.foldl (fun t i => disarmSlot (s.uid + 1) y.k i t) (openTxn y live.length .zero s).2
    effUnwatch sel y s = .ok (if live = [] then gone.send (.result (s.uid + 1) 0 []) else gone) := by
  have hlive : (fun i => (y.st.watch.getD i {}).st == .arming || (y.st.watch.getD i {}).st == .armed) =
      (fun i => decide ((y.st.watch.getD i {}).st = .arming ∨ (y.st.watch.getD i {}).st = .armed)) := by
    funext i
    rw [Bool.eq_iff_iff]
    simp
  simp only [effUnwatch, slotsOf_toNat, List.isEmpty_iff, hlive]
  rfl

/-! ## The mallet -/

theorem effTokw_eq (hp : Performs (.tokw h) s y s1) : effTokw y s1 =
    .ok (if y.st.det = true ∧ y.st.hold = false then parked y .tokw 0 0 0 s1 else s1) := by
  have hpark : s1.modStrand y.k _ = parked y .tokw 0 0 0 s1 := modStrand_eq_onActive (fun _ => rfl) hp.threads
  rw [← hpark, effTokw]
  cases y.st.det <;> cases y.st.hold <;> rfl

/-- What waits changes nothing (01 R26). -/
theorem next_of_wait {i : Instr} {eff : Effect} (he : effOf i = some eff) (hp : Performs i s y s1) (hf : eff y s1 = .wait) :
    exec i s = .next s := by
  obtain ⟨x, hr, hx, -⟩ := performs_eff eff hp
  obtain ⟨c, ha⟩ := ready_attempt (eff := eff) hr
  obtain ⟨z, -, hz, -⟩ := id hr
  obtain ⟨-, -, -, -, hst, -⟩ := issueOf_inv hz
  rw [hx, hf] at ha
  simp [exec_lane he, issue, hst, ha, settle]

theorem watchAndMallet : Claims.watchAndMallet := by
  intro h d a m ty cmp slot sel s s1 y w n va home arg until_ slots live fault bad
  refine ⟨fun hp => ⟨fun cause hc => stops_of_stop rfl hp (effWatch_stop hp hc), fun off hc => stops_of_stop rfl hp (effWatch_image hp hc),
      fun hc hfar => stops_of_stop rfl hp ((effWatch_mem hp hc).trans (if_pos hfar))⟩,
    fun hp hc hfar => completes_of_ok rfl hp ((effWatch_mem hp hc).trans (if_neg (Bool.eq_false_iff.1 hfar))),
    fun hp => completes_of_ok rfl hp (effDoze_eq hp), fun hp => completes_of_ok rfl hp (effUnwatch_eq sel y s1),
    fun hp => completes_of_ok rfl hp (effTokw_eq hp), fun hp => ⟨fun hd => ?_, fun hd hh hs => ?_, fun hd hh hs => ?_, fun hd hh => ?_⟩⟩
  · exact completes_of_ok rfl hp (by simp [effTokp, hd])
  · exact completes_of_ok rfl hp (by simp [effTokp, hd, hh, hs])
  · exact next_of_wait rfl hp (by simp [effTokp, hd, hh, hs])
  · exact stops_of_stop rfl hp (by simp [effTokp, hd, hh])

end Sys2Proof.Proofs.Watches
end

section
/-! SUPPORT. Shared register ranges, their full and empty words, and queue ports (01 R34 to R40; 07 R177, R178, R180, R181). -/

namespace Sys2Proof.Proofs.SharedRanges

open Sys2Proof.Machine Sys2Proof.Claims Sys2Proof.Safety

variable {i : Instr} {eff : Effect} {s s1 : State} {y : Iss}

/-! ## Instructions that wait, and that name an unbound port -/

/-- Outside deferring mode a condition that is not met changes nothing (01 R26). -/
theorem next_of_cond (he : effOf i = some eff) (hp : Performs i s y s1) (hd : y.st.deferring = false) (hc : y.sh.cls ≠ .tagTest)
    (hf : eff y s1 = .cond) : exec i s = .next s := by
  obtain ⟨x, hr, hx, pops, rfl⟩ := performs_eff eff hp
  obtain ⟨z, c, hz, hm, h96, hplan, hh⟩ := id hr
  obtain ⟨-, -, -, -, hst, -⟩ := issueOf_inv hz
  have hzx : z.st = x.st ∧ z.sh = x.sh := by
    rcases plan_inPlace hplan with rfl | rfl <;> exact ⟨rfl, rfl⟩
  have hnone : c = none := by
    classical
    rw [Readiness.plan_of_plain (hzx.1 ▸ hd) (hzx.2 ▸ hc), Readiness.planPlain_eq] at hplan
    split at hplan
    · exact (Plan.inPlace.inj hplan).2.symm
    · cases hplan
  have ha : attempt i eff s = none := by
    simp [attempt, hz, hm, h96, hplan, issueIn, State.useSitesOf, hh, hx, hf, hnone, settle]
  simp [exec_lane he, issue, hst, ha]

/-- An instruction with an active thread that names an unbound port takes the queue-port fault (01 R37). -/
theorem stops_of_unbound (hr : Ready i s y) (ha : y.act ≠ []) (hb : y.boundPorts = false) (he : (effOf i).isSome = true) :
    exec i s = .next (commit s.mem (s.preciseFault y.k { cause := 5, lowt := y.lead } y.pc y.exm y.act)) := by
  obtain ⟨eff, heff⟩ := Option.isSome_iff_exists.1 he
  obtain ⟨c, hatt⟩ := ready_attempt (eff := eff) hr
  rw [exec_lane heff, issue_next]
  rw [hatt]
  simp [performs, ha, hb, settle]

/-! ## Ranges -/

theorem vecKey_zero (j : Nat) : vecKey j 0 = 16 * j := rfl

theorem effShrunmap_found {d : Opd} {pre post : List Shr} {r : Shr} (hshr : y.st.shr = pre ++ r :: post)
    (hpre : ∀ q ∈ pre, q.first ≠ Opd.num d) (hr : r.first = Opd.num d) : effShrunmap d y s = .ok (unmapRange y.k r s) := by
  have hnone : pre.find? (fun q => q.first == Opd.num d) = none := List.find?_eq_none.2 (fun q hq => by simpa using hpre q hq)
  have hfind : y.st.shr.find? (fun q => q.first == Opd.num d) = some r := by
    rw [hshr, List.find?_append, hnone]
    simp [hr]
  simp only [effShrunmap, hfind]

theorem effShrunmap_none {d : Opd} (h : ∀ r ∈ y.st.shr, r.first ≠ Opd.num d) :
    effShrunmap d y s = .stop { cause := 4, lowt := y.lead } := by
  have hfind : y.st.shr.find? (fun q => q.first == Opd.num d) = none := List.find?_eq_none.2 (fun q hq => by simpa using h q hq)
  simp only [effShrunmap, hfind]

/-! ## FERD and FEWR -/

variable {sh : Shr} {base : Nat}

/-- Every active thread's word is full. -/
def AllFull (s : State) (y : Iss) (sh : Shr) (base : Nat) : Prop := ∀ t ∈ y.act, ∃ c, s.fullAt y.st sh (base + t) = some c ∧ c ≤ y.t0

theorem all_full_iff : y.act.all (fun t => match s.fullAt y.st sh (base + t) with
    | some c => decide (c ≤ y.t0)
    | none => false) = true ↔ AllFull s y sh base := by
  rw [List.all_eq_true]
  refine forall₂_congr (fun t _ => ?_)
  cases s.fullAt y.st sh (base + t) <;> simp

theorem effFerd_eq {a : Opd} [Decidable (AllFull s y sh base)] (hk : sharedKey y.st (16 * Opd.num a) = some (sh, base)) : effFerd a y s =
    if AllFull s y sh base then
      .ok (setFull y sh (fun m => y.act.foldl (fun m t => adel m (base + t)) m)
        (writeRows y (y.act.map (fun t => (t, ({ d := (readThread s y t).a } : Wv)))) s))
    else .cond := by
  unfold effFerd
  rw [vecKey_zero, hk]
  exact if_congr all_full_iff rfl rfl

theorem effFewr_eq {d : Opd} (hk : sharedKey y.st (16 * Opd.num d) = some (sh, base)) : effFewr d y s =
    if ∀ t ∈ y.act, s.fullAt y.st sh (base + t) = none then
      let done := setFull y sh (fun m => y.act.foldl (fun m t => aput m (base + t) (y.cyc t + 6)) m)
        (s.putRegs y.k (y.act.map (fun t => ⟨y.cyc t + 6, 16 * Opd.num d + t, (readThread s y t).aw, y.cyc t⟩)))
      .ok (if y.sh.isLong then (opened y .zero done).send (.result (done.uid + 1) 0 []) else done)
    else .cond := by
  unfold effFewr
  rw [vecKey_zero, hk]
  refine if_congr (by simp [List.all_eq_true]) ?_ rfl
  cases y.sh.isLong <;> rfl

theorem sharedAndQueues : Claims.sharedAndQueues := by
  classical
  intro h d a cnt key rid qn unb s s1 y sh base p tile q range full vals named used fault
  refine ⟨fun hp => ⟨fun hb => completes_of_ok rfl hp (if_neg (Bool.eq_false_iff.1 hb)), fun hb => stops_of_stop rfl hp (if_pos hb)⟩,
    fun hp pre r post hs hpre hr => completes_of_ok rfl hp (effShrunmap_found hs hpre hr),
    fun hp hn => stops_of_stop rfl hp (effShrunmap_none hn),
    fun hp hn => stops_of_stop rfl hp ?_, fun hp hn => stops_of_stop rfl hp ?_, fun hp hd hk hw => ?_, fun hp hd hk hw => ?_,
    fun i => stops_of_unbound, fun hp hk hf => completes_of_ok rfl hp ((effFerd_eq hk).trans (if_pos hf)),
    fun hp hk hf => completes_of_ok rfl hp ((effFewr_eq hk).trans (if_pos hf)), fun hp hport => ⟨fun hu => ?_, fun hu ht => ?_, fun hu ht => ?_⟩,
    fun hp hport hn => ?_, fun hp hport hb => ?_⟩
  · simp only [effFerd, vecKey_zero, hn]
  · simp only [effFewr, vecKey_zero, hn]
  · have hclass : y.sh.cls ≠ .tagTest := by
      rw [← Option.some.inj (performs_inv hp).1]
      exact fun hn => by cases hn
    refine next_of_cond rfl hp hd hclass ((effFerd_eq hk).trans (if_neg (fun hall => ?_)))
    obtain ⟨t, ht, hlate⟩ := hw
    obtain ⟨c, hc, hle⟩ := hall t ht
    exact absurd (hlate c hc) (Nat.not_lt.2 hle)
  · have hclass : y.sh.cls ≠ .tagTest := by
      rw [← Option.some.inj (performs_inv hp).1]
      exact fun hn => by cases hn
    obtain ⟨t, ht, hfull⟩ := hw
    exact next_of_cond rfl hp hd hclass ((effFewr_eq hk).trans (if_neg (fun hall => hfull (hall t ht))))
  · exact completes_of_ok rfl hp (by simp [effQcfg, hport, hu])
  · exact completes_of_ok rfl hp (by
      have : ¬ (s1.part y.st.part).tiles ≤ (readOpd s1 y (srcAt y.sh .a) y.lead).toNat := Nat.not_le.2 ht
      simp [effQcfg, hport, hu, this] <;> rfl)
  · refine stops_of_stop rfl hp ?_
    have : (s1.part y.st.part).tiles ≤ (readOpd s1 y (srcAt y.sh .a) y.lead).toNat := ht
    simp [effQcfg, hport, hu, this]
  · exact stops_of_stop rfl hp (by simp [effQstat, hport, hn])
  · exact completes_of_ok rfl hp (by simp [effQstat, hport, hb] <;> rfl)

end Sys2Proof.Proofs.SharedRanges

namespace Sys2Proof.Proofs

/-- Settles O14: each instruction's effect is what the statement says of it; a condition that is not met leaves a strand outside deferring
mode as it was (`next_of_cond`). -/
theorem watchSharedAndQueues : Obligations.WatchSharedAndQueues := ⟨Watches.watchAndMallet, SharedRanges.sharedAndQueues⟩

end Sys2Proof.Proofs
end

section
/-! SUPPORT. A read with no consumer, the lane's register cache and its least recently used line (18 R363; 01 R30). -/

namespace Sys2Proof.Machine

/-- What a detection leaves: messages, packages, partitions and the free words apart, everything (18 R365, R367). -/
theorem State.detect_rest (s : State) (pkg : Nat) (u : RUnit) (ps : List PartId) (cls action addr cons detail result : Nat) :
    { s.detect pkg u ps cls action addr cons detail result with
      pkgs := s.pkgs, parts := s.parts, fresh := s.fresh, msgs := s.msgs, uid := s.uid } = s := by
  have hfold : ∀ (ps : List PartId) (t : State),
      { ps.foldl (fun s q => s.modPart q (fun p => { p with ctrs := p.ctrs.detected action })) t with parts := t.parts } = t := by
    intro ps
    induction ps with
    | nil => exact fun t => rfl
    | cons q ps ih => exact fun t => congrArg (fun r : State => { r with parts := t.parts }) (ih (t.modPart q _))
  have hrest := hfold ps (s.modPkg pkg (fun p => { p with
    sseq := aput p.sseq (s.place u) ((agetD (s.pkg pkg).sseq (s.place u) 0 + 1) % 2 ^ 32)
    history := (s.place u, s.clk) :: p.history, ctrs := p.ctrs.detected action }))
  have hs := congrArg (fun r : State => { r with pkgs := s.pkgs, parts := s.parts, fresh := s.fresh, msgs := s.msgs, uid := s.uid }) hrest
  unfold State.detect State.startTest
  dsimp only
  split <;> exact hs

theorem State.glance_rest (s : State) (site : Site) : { s.glance site with
    pkgs := s.pkgs, parts := s.parts, fresh := s.fresh, msgs := s.msgs, uid := s.uid, latent := s.latent } = s := by
  unfold State.glance
  split
  next =>
    split
    next => exact congrArg (fun r : State => { r with latent := s.latent }) (State.detect_rest ..)
    next => exact congrArg (fun r : State => { r with latent := s.latent }) (State.detect_rest (s.clean site) ..)
  next => rfl

@[simp] theorem State.glance_lanes (s : State) (site : Site) : (s.glance site).lanes = s.lanes :=
  (congrArg State.lanes (s.glance_rest site) :)

@[simp] theorem State.glance_strands (s : State) (site : Site) : (s.glance site).strands = s.strands :=
  (congrArg State.strands (s.glance_rest site) :)

@[simp] theorem writeLine_lanes (h : HeldLine) (s : State) : (writeLine h s).lanes = s.lanes := by
  unfold writeLine
  split <;> simp

/-- What a lane's capture lines depend on. -/
theorem laneCapt_congr {s t : State} {l : LaneId} (h : t.strands.map (fun p => (p.2.laneId, p.2.status, p.2.ents)) =
    s.strands.map (fun p => (p.2.laneId, p.2.status, p.2.ents))) : t.laneCapt l = s.laneCapt l := by
  have hmap : ∀ u : State, u.laneCapt l = (u.strands.map (fun p => (p.2.laneId, p.2.status, p.2.ents))).foldl (fun n q =>
      if q.1 = l ∧ q.2.1 = .resident then n + (q.2.2.map (fun e => e.lines.length)).sum else n) 0 :=
    fun u => by rw [List.foldl_map]; rfl
  rw [hmap, hmap, h]

/-- A change of a strand that leaves its place, its status and its entries gives no place free. -/
theorem laneCapt_modStrand (s : State) (k : Nat) (f : Strand → Strand) (l : LaneId)
    (h : ∀ st, (f st).ctx = st.ctx ∧ (f st).tile = st.tile ∧ (f st).lane = st.lane ∧ (f st).status = st.status ∧ (f st).ents = st.ents) :
    (s.modStrand k f).laneCapt l = s.laneCapt l := by
  refine laneCapt_congr (map_amod _ _ _ _ (fun v => ?_))
  obtain ⟨hctx, htile, hlane, hstatus, hents⟩ := h v
  simp only [Strand.laneId, hctx, htile, hlane, hstatus, hents]

theorem laneCapt_writeLine (h : HeldLine) (s : State) (l : LaneId) : (writeLine h s).laneCapt l = s.laneCapt l := by
  unfold writeLine
  split
  next => rfl
  next =>
    refine Eq.trans (laneCapt_modStrand _ _ _ _ ?_) (laneCapt_congr (congrArg (List.map _) (State.glance_strands ..)))
    exact fun st => ⟨rfl, rfl, rfl, rfl, rfl⟩

theorem leastUsed_mem {ls : List HeldLine} {v : HeldLine} (h : leastUsed ls = some v) : v ∈ ls := by
  induction ls with
  | nil => cases h
  | cons a ls ih =>
    unfold leastUsed at h
    split at h
    next => cases h; exact List.mem_cons_self
    next g hg =>
      split at h
      next => cases h; exact List.mem_cons_of_mem _ (ih hg)
      next => cases h; exact List.mem_cons_self

/-- The first of those used longest ago. -/
theorem leastUsed_append {pre post : List HeldLine} {v : HeldLine} (hpre : ∀ h ∈ pre, v.used < h.used)
    (hpost : ∀ h ∈ post, v.used ≤ h.used) : leastUsed (pre ++ v :: post) = some v := by
  induction pre with
  | nil =>
    rw [List.nil_append, leastUsed]
    split
    next => rfl
    next g hg => exact if_neg (Nat.not_lt.2 (hpost g (leastUsed_mem hg)))
  | cons a pre ih =>
    rw [List.cons_append, leastUsed, ih (fun h hh => hpre h (List.mem_cons_of_mem _ hh))]
    exact if_pos (hpre a List.mem_cons_self)

/-- No instruction in progress has pinned the line (01 R30). -/
def HeldLine.loose (now : Nat) (h : HeldLine) : Bool := decide (h.pin ≤ now)

theorem mem_loose {ls : List HeldLine} {now : Nat} {h : HeldLine} : h ∈ ls.filter (HeldLine.loose now) ↔ h ∈ ls ∧ h.pin ≤ now := by
  simp [List.mem_filter, HeldLine.loose]

theorem victim_eq (l : Lane) (now : Nat) : l.victim now = match (l.lines.filter (HeldLine.loose now)).find? (fun h => h.evictable) with
    | some h => some h
    | none => leastUsed (l.lines.filter (HeldLine.loose now)) := rfl

/-- Where no line is loose there is none to replace. -/
theorem victim_none {l : Lane} {now : Nat} (h : ∀ v ∈ l.lines, ¬ v.pin ≤ now) : l.victim now = none := by
  have hfree : l.lines.filter (HeldLine.loose now) = [] := List.filter_eq_nil_iff.2 (fun v hv => by simpa [HeldLine.loose] using h v hv)
  rw [victim_eq, hfree]
  rfl

/-- The first loose evictable line is replaced, or else the first of those used longest ago. -/
theorem victim_append {l : Lane} {now : Nat} {pre post : List HeldLine} {v : HeldLine} (hl : l.lines = pre ++ v :: post) (hv : v.pin ≤ now)
    (h : (v.evictable = true ∧ ∀ h ∈ pre, h.pin ≤ now → h.evictable = false) ∨
      ((∀ h ∈ l.lines, h.pin ≤ now → h.evictable = false) ∧ (∀ h ∈ pre, h.pin ≤ now → v.used < h.used) ∧
        ∀ h ∈ post, h.pin ≤ now → v.used ≤ h.used)) : l.victim now = some v := by
  have hfree : l.lines.filter (HeldLine.loose now) = pre.filter (HeldLine.loose now) ++ v :: post.filter (HeldLine.loose now) := by
    rw [hl, List.filter_append, List.filter_cons_of_pos (by simpa [HeldLine.loose] using hv)]
  rw [victim_eq]
  rcases h with ⟨he, hpre⟩ | ⟨hnone, hpre, hpost⟩
  · have hno : (pre.filter (HeldLine.loose now)).find? (fun h => h.evictable) = none :=
      List.find?_eq_none.2 (fun a ha => by simpa using hpre a (mem_loose.1 ha).1 (mem_loose.1 ha).2)
    rw [hfree, List.find?_append, hno]
    simp [he]
  · have hno : (l.lines.filter (HeldLine.loose now)).find? (fun h => h.evictable) = none :=
      List.find?_eq_none.2 (fun a ha => by simpa using hnone a (mem_loose.1 ha).1 (mem_loose.1 ha).2)
    rw [hno, hfree]
    exact leastUsed_append (fun a ha => hpre a (mem_loose.1 ha).1 (mem_loose.1 ha).2) (fun a ha => hpost a (mem_loose.1 ha).1 (mem_loose.1 ha).2)

end Sys2Proof.Machine
end

section
/-! SUPPORT. What becomes due in a lane: line fills, completions, return stacks and naps (01 R23, R30; 02 R44; 07 R161, R165). -/

namespace Sys2Proof.Machine

theorem aput_aput {κ β : Type} [DecidableEq κ] (m : Assoc κ β) (k : κ) (v w : β) : aput (aput m k v) k w = aput m k w := by
  induction m with
  | nil => simp [aput]
  | cons p m ih => by_cases h : p.1 = k <;> simp [aput, h, ih]

@[simp] theorem State.lane_modLane_same (s : State) (l : LaneId) (f : Lane → Lane) : (s.modLane l f).lane l = f (s.lane l) :=
  agetD_amodD_same ..

theorem State.modLane_modLane (s : State) (l : LaneId) (f g : Lane → Lane) : (s.modLane l f).modLane l g = s.modLane l (g ∘ f) := by
  simp only [State.modLane, amodD, aput_aput, Function.comp]
  simp [agetD]

/-- What a change of a lane depends on. -/
theorem State.modLane_congr {s : State} {l : LaneId} {f g : Lane → Lane} (h : f (s.lane l) = g (s.lane l)) : s.modLane l f = s.modLane l g := by
  simp only [State.modLane, amodD]
  rw [show f (agetD s.lanes l {}) = g (agetD s.lanes l {}) from h]

/-- The fields of a thread are those that a list changed element by element gives them. -/
theorem getD_lset (l : List Nat) (i j : Nat) (f : Nat → Nat) (hi : i < l.length) :
    (lset l i f).getD j 0 = if i = j then f (l.getD j 0) else l.getD j 0 := by
  rw [List.getD_eq_getElem?_getD, getElem?_lset, List.getD_eq_getElem?_getD]
  split
  next h => subst h; simp [hi]
  next => rfl

/-- Counts that are each lowered by one for every completion of its flag. -/
theorem getD_foldl_lower (due : List (Nat × Nat)) (fs : List Nat) (hdue : ∀ c ∈ due, c.2 < fs.length) (j : Nat) :
    (due.foldl (fun fs c => lset fs c.2 (fun n => n - 1)) fs).getD j 0 = fs.getD j 0 - (due.filter (fun c => decide (c.2 = j))).length := by
  induction due generalizing fs with
  | nil => rfl
  | cons c due ih =>
    rw [List.foldl_cons, ih _ (fun d hd => by rw [length_lset]; exact hdue d (List.mem_cons_of_mem _ hd)),
      getD_lset _ _ _ _ (hdue c List.mem_cons_self)]
    by_cases h : c.2 = j
    · simp [h]
      omega
    · simp [h]

end Sys2Proof.Machine

namespace Sys2Proof.Proofs.LaneTimes

open Sys2Proof.Machine Sys2Proof.Claims Sys2Proof.Safety

variable {s : State} {k line : Nat} {st : Strand}

/-! ## Register line fills -/

/-- The lines of a lane with a new one behind them. -/
def withLine (l : LaneId) (ls : List HeldLine) (h : HeldLine) (s : State) : State := s.modLane l (fun x => { x with lines := ls ++ [h] })

def newLine (k line now : Nat) : HeldLine := { strand := k, line := line, used := now }

theorem evRegisterLineFill_eq (hst : s.strand k = some st) (hr : st.status = .resident) (hw : line ∈ wantedRegLines s k st)
    (ht : s.testing (.reg k line) = false) : evRegisterLineFill k line s = fillLine k line st.laneId (s.cycle st.part) s := by
  have hw' : (wantedRegLines s k st).contains line = true := by simpa using hw
  simp [evRegisterLineFill, hst, hr, hw, ht]

theorem fillLine_room {l : LaneId} {now : Nat} (h : (s.lane l).lines.length + s.laneCapt l < 256) :
    fillLine k line l now s = some (withLine l (s.lane l).lines (newLine k line now) s) := by
  have hroom : (s.lane l).lines.length + s.laneCapt l + 1 ≤ 256 := h
  simp only [fillLine, makeRoom, if_pos hroom, Option.map_some, withLine]
  exact congrArg some (State.modLane_congr rfl)

theorem fillLine_full {l : LaneId} {now : Nat} {v : HeldLine} (hfull : (s.lane l).lines.length + s.laneCapt l = 256)
    (hv : (s.lane l).victim now = some v) (hmem : v ∈ (s.lane l).lines) : fillLine k line l now s =
      some (withLine l ((s.lane l).lines.filter (fun h => !(h.strand == v.strand && h.line == v.line))) (newLine k line now) (writeLine v s)) := by
  have hno : ¬ (s.lane l).lines.length + s.laneCapt l + 1 ≤ 256 := by omega
  have hlane : (writeLine v s).lane l = s.lane l := congrArg (fun m => agetD m l ({} : Lane)) (writeLine_lanes v s)
  have hout : evictLines l [v] s = (writeLine v s).modLane l (fun x => { x with
      lines := x.lines.filter (fun h => !(h.strand == v.strand && h.line == v.line)) }) := by
    simp [evictLines, BEq.comm]
  have hless : ((s.lane l).lines.filter (fun h => !(h.strand == v.strand && h.line == v.line))).length < (s.lane l).lines.length :=
    List.length_filter_lt_length_iff_exists.2 ⟨v, hmem, by simp⟩
  have hroom : ((evictLines l [v] s).lane l).lines.length + (evictLines l [v] s).laneCapt l + 1 ≤ 256 := by
    have hcapt : (evictLines l [v] s).laneCapt l = s.laneCapt l := by
      rw [hout]
      exact laneCapt_writeLine v s l
    rw [hcapt, hout, State.lane_modLane_same, hlane]
    dsimp only
    omega
  simp only [fillLine, makeRoom, if_neg hno, hv, if_pos hroom, Option.map_some]
  rw [hout, State.modLane_modLane]
  refine congrArg some (State.modLane_congr ?_)
  rw [hlane]
  rfl

theorem fillLine_pinned {l : LaneId} {now : Nat} (hfull : 256 ≤ (s.lane l).lines.length + s.laneCapt l)
    (hv : (s.lane l).victim now = none) : fillLine k line l now s = none := by
  have hno : ¬ (s.lane l).lines.length + s.laneCapt l + 1 ≤ 256 := by omega
  simp [fillLine, makeRoom, hno, hv]

/-! ## Completions -/

/-- What a release of parked threads leaves of its strand: all but the threads and what they wait for (02 R51). -/
theorem strand_unparkBranch (hst : s.strand k = some st) : ∃ st', (s.unparkBranch k).strand k = some st' ∧
    { st' with threads := st.threads, waitLocs := st.waitLocs } = st := by
  unfold State.unparkBranch
  rw [hst]
  dsimp only
  split
  next => exact ⟨st, hst, rfl⟩
  next => exact ⟨_, State.strand_modStrand_of hst _, rfl⟩

theorem follow_rest (st : Strand) (now : Nat) : { st.follow now with image := st.image } = st := by
  unfold Strand.follow
  split <;> rfl

/-- What the completion that is due leaves of the strand (01 R23, 02 R44). -/
def completed (st : Strand) (now : Nat) : Strand :=
  { st with
    flags := (st.timers.filter (fun c => decide (c.1 ≤ now))).foldl (fun fs c => lset fs c.2 (fun n => n - 1)) st.flags
    timers := st.timers.filter (fun c => decide (now < c.1))
    rtags := st.rtags.filter (fun r => decide (now < r.1)) }

theorem unparkBranch_stores (s : State) (k : Nat) : (s.unparkBranch k).stores = s.stores ∧ (s.unparkBranch k).mem = s.mem := by
  unfold State.unparkBranch
  split
  next => exact ⟨rfl, rfl⟩
  next => split <;> exact ⟨rfl, rfl⟩

theorem exec_fixedLatencyCompletion (hst : s.strand k = some st)
    (hdue : st.timers.filter (fun c => decide (c.1 ≤ s.cycle st.part)) ≠ [] ∨ ∃ r ∈ st.rtags, r.1 ≤ s.cycle st.part) :
    ∃ t st', exec (.fixedLatencyCompletion k) s = .next (commit s.mem t) ∧ t.strand k = some st' ∧ t.stores = s.stores ∧
      { st' with threads := st.threads, waitLocs := st.waitLocs, image := st.image } = completed st (s.cycle st.part) := by
  have hnot : ¬ ((st.timers.filter (fun c => decide (c.1 ≤ s.cycle st.part))).isEmpty &&
      st.rtags.all (fun r => decide (s.cycle st.part < r.1))) = true := by
    intro hn
    rw [Bool.and_eq_true, List.isEmpty_iff, List.all_eq_true] at hn
    rcases hdue with h | ⟨r, hr, hle⟩
    · exact h hn.1
    · exact absurd (of_decide_eq_true (hn.2 r hr)) (Nat.not_lt.2 hle)
  have hfollowed : (s.modStrand k (fun _ => (completed st (s.cycle st.part)).follow (s.cycle st.part))).strand k = some _ :=
    State.strand_modStrand_of hst _
  obtain ⟨st', hst', hkeep⟩ := strand_unparkBranch hfollowed
  refine ⟨_, st', happens_of_some (i := .fixedLatencyCompletion k) rfl ?_ rfl, hst', (unparkBranch_stores _ k).1, ?_⟩
  · simp only [evFixedLatencyCompletion, hst, if_neg hnot]
    refine congrArg (fun t : State => some (t.unparkBranch k)) (State.modStrand_congr (fun st0 hst0 => ?_))
    cases hst.symm.trans hst0
    rfl
  · have hrest := follow_rest (completed st (s.cycle st.part)) (s.cycle st.part)
    rw [← hkeep] at hrest
    have hthreads : ((completed st (s.cycle st.part)).follow (s.cycle st.part)).threads = st.threads := by
      unfold Strand.follow
      split <;> rfl
    have hlocs : ((completed st (s.cycle st.part)).follow (s.cycle st.part)).waitLocs = st.waitLocs := by
      unfold Strand.follow
      split <;> rfl
    rw [hthreads, hlocs] at hrest
    exact hrest

/-! ## Return stacks and naps -/

theorem evReturnStackFill_eq (hst : s.strand k = some st) (h : st.stackBusy = true ∨ ∃ th ∈ st.threads, th.inLane = 0 ∧ th.depth ≠ 0) :
    evReturnStackFill k s = some (s.modStrand k (fun st => { st with
      stackBusy := false
      threads := st.threads.map (fun th => if th.inLane = 0 ∧ th.depth ≠ 0 then { th with inLane := min 4 th.depth } else th) })) := by
  have hneeds : ∀ th : Thread, th.needsFill = true ↔ th.inLane = 0 ∧ th.depth ≠ 0 := fun th => by simp [Thread.needsFill]
  have hnot : ¬ (!st.stackBusy && !st.threads.any Thread.needsFill) = true := by
    rcases h with h | ⟨th, hm, hth⟩
    · simp [h]
    · have : st.threads.any Thread.needsFill = true := List.any_eq_true.2 ⟨th, hm, (hneeds th).2 hth⟩
      simp [this]
  simp only [evReturnStackFill, hst, if_neg hnot, hneeds]

theorem evNapExpiry_eq {n : Nat} (hst : s.strand k = some st) (hr : st.status = .resident) (hp : (st.thread n).st = .parked)
    (hn : (st.thread n).park = .nap) (ht : (st.thread n).parg ≤ s.cycle st.part) :
    evNapExpiry k n s = some (s.modStrand k (fun st => st.modThread n Thread.release)) := by
  have hdue : st.napDue n (s.cycle st.part) = true := by simp [Strand.napDue, hr, hp, hn, ht]
  simp only [evNapExpiry, hst, hdue, if_true]

/-! ## The statement -/

theorem exec_of_noEvent {i : Instr} {f : State → Option State} (he : evOf i = some f) (hf : f s = none) : exec i s = .next s := by
  rw [exec_event he, hf]

theorem laneTimes : Claims.laneTimes := by
  intro k st s hst now due
  refine ⟨fun line hr hw ht => ?_, fun hdue hlen hflags => ?_, fun h => ?_, fun n hr hp hn ht => ?_⟩
  · have hfill := evRegisterLineFill_eq hst hr hw ht
    intro fresh put ls size loose
    refine ⟨fun hroom => ?_, fun hfull pre v post hls hv hcase => ?_, fun hfull hnone => ?_⟩
    · exact happens_of_some (i := .registerLineFill k line) rfl (hfill.trans (fillLine_room hroom)) rfl
    · have hmem : v ∈ (s.lane st.laneId).lines := by
        rw [show (s.lane st.laneId).lines = _ from hls]
        simp
      exact happens_of_some (i := .registerLineFill k line) rfl
        (hfill.trans (fillLine_full hfull (victim_append hls hv hcase) hmem)) rfl
    · exact exec_of_noEvent (i := .registerLineFill k line) rfl (hfill.trans (fillLine_pinned hfull (victim_none hnone)))
  · obtain ⟨t, st', hexec, hst', hstores, hkeep⟩ := exec_fixedLatencyCompletion hst hdue
    refine ⟨_, st', hexec, hst', fun j _ => ?_, (congrArg Strand.timers hkeep :), (congrArg Strand.rtags hkeep :),
      (congrArg Strand.regs hkeep :), (congrArg Strand.pend hkeep :), fun h0 => ?_⟩
    · have hfl : st'.flags = (completed st now).flags := (congrArg Strand.flags hkeep :)
      rw [hfl]
      exact getD_foldl_lower due st.flags (fun c hc => by rw [hlen]; exact hflags c hc) j
    · show memPutAll s.mem t.stores = s.mem
      rw [hstores, h0]
      rfl
  · exact happens_of_some (i := .returnStackFill k) rfl (evReturnStackFill_eq hst h) rfl
  · exact happens_of_some (i := .napExpiry k n) rfl (evNapExpiry_eq hst hr hp hn ht) rfl

end Sys2Proof.Proofs.LaneTimes
end

section
/-! SUPPORT. The snare: the line rises, and the strands that only their context could release write their stop records (14 R307, 17 R344). -/

namespace Sys2Proof.Machine

theorem State.part_of_aget {s : State} {p : PartId} {q : Part} (h : aget s.parts p = some q) : s.part p = q := by
  simp [State.part, agetD, h]

theorem State.ctx_of_aget {s : State} {c : CtxId} {x : Ctx} (h : aget s.ctxs c = some x) : s.ctx c = x := by
  simp [State.ctx, agetD, h]

theorem foldl_modCtx (f : Ctx → Ctx) (cs : List CtxId) (s : State) :
    cs.foldl (fun s c => s.modCtx c f) s = { s with ctxs := cs.foldl (fun m c => amod m c f) s.ctxs } := by
  induction cs generalizing s with
  | nil => rfl
  | cons c cs ih => exact ih (s.modCtx c f)

theorem aget_foldl_amod {κ β : Type} [DecidableEq κ] (f : β → β) {ks : List κ} (hd : ks.Nodup) (m : Assoc κ β) (k : κ) :
    aget (ks.foldl (fun m k => amod m k f) m) k = if k ∈ ks then (aget m k).map f else aget m k := by
  induction ks generalizing m with
  | nil => rfl
  | cons j ks ih =>
    rw [List.foldl_cons, ih (List.nodup_cons.1 hd).2]
    by_cases hjk : j = k
    · subst hjk
      simp [(List.nodup_cons.1 hd).1, aget_amod_same]
    · have hne : k ≠ j := fun h => hjk h.symm
      simp [aget_amod_other m f hjk, hne]

theorem mem_contextsOf {c : CtxId} (h : c.n < 4) : c ∈ contextsOf c.part := by
  obtain ⟨p, n⟩ := c
  have : n = 0 ∨ n = 1 ∨ n = 2 ∨ n = 3 := by
    dsimp only at h
    omega
  rcases this with rfl | rfl | rfl | rfl <;> simp [contextsOf]

theorem nodup_contextsOf (p : PartId) : (contextsOf p).Nodup := by simp [contextsOf]

/-- A halted context, and what it was (17 R344). -/
def Ctx.halted (x : Ctx) : Ctx := if x.st = 1 ∨ x.st = 2 then { x with before := x.st, st := 4 } else x

/-- A line that is down rises with its cause and its event, and halts the contexts of the partition. -/
theorem State.raiseLine_down {s : State} {p : PartId} {q : Part} (hq : aget s.parts p = some q) (hline : q.line = none) (cause : Nat) :
    s.raiseLine p cause none = { (s.modPart p (fun q => { q with line := some cause, lineAt := s.cycle p, lineBy := none })).post p 0x8002 cause
      with ctxs := (contextsOf p).foldl (fun m c => amod m c Ctx.halted) s.ctxs } := by
  have hdown : ¬ (s.part p).line.isSome = true := by simp [State.part_of_aget hq, hline]
  rw [State.raiseLine, if_neg hdown]
  exact foldl_modCtx Ctx.halted _ _

end Sys2Proof.Machine

namespace Sys2Proof.Proofs.Snare

open Sys2Proof.Machine Sys2Proof.Claims Sys2Proof.Safety

/-- What the stop records of a snare leave: everything but strands and partitions, the partitions' lines and events, and the threads and
registers of every strand; a strand that has stopped stays so. -/
def Recorded (s t : State) : Prop :=
  { t with strands := s.strands, parts := s.parts } = s ∧
  (∀ p, (t.part p).line = (s.part p).line ∧ (t.part p).events = (s.part p).events) ∧
  ∀ j st, s.strand j = some st → ∃ st', t.strand j = some st' ∧ st'.threads = st.threads ∧ st'.regs = st.regs ∧
    (st.stopped = true → st'.stopped = true)

theorem Recorded.refl (s : State) : Recorded s s := ⟨rfl, fun _ => ⟨rfl, rfl⟩, fun _ st h => ⟨st, h, rfl, rfl, id⟩⟩

theorem Recorded.trans {s t u : State} (h : Recorded s t) (h' : Recorded t u) : Recorded s u := by
  obtain ⟨hrest, hpart, hstrand⟩ := h
  obtain ⟨hrest', hpart', hstrand'⟩ := h'
  refine ⟨?_, fun p => ⟨(hpart' p).1.trans (hpart p).1, (hpart' p).2.trans (hpart p).2⟩, fun j st hst => ?_⟩
  · have := congrArg (fun r : State => { r with strands := s.strands, parts := s.parts }) hrest'
    exact Eq.trans this hrest
  · obtain ⟨st1, h1, ht1, hr1, hs1⟩ := hstrand j st hst
    obtain ⟨st2, h2, ht2, hr2, hs2⟩ := hstrand' j st1 h1
    exact ⟨st2, h2, ht2.trans ht1, hr2.trans hr1, hs2 ∘ hs1⟩

/-- A strand changed, its threads, registers and stop apart. -/
theorem recorded_modStrand (s : State) (k : Nat) {f : Strand → Strand}
    (h : ∀ st, (f st).threads = st.threads ∧ (f st).regs = st.regs ∧ (st.stopped = true → (f st).stopped = true)) :
    Recorded s (s.modStrand k f) := by
  refine ⟨rfl, fun _ => ⟨rfl, rfl⟩, fun j st hst => ?_⟩
  by_cases hkj : k = j
  · subst hkj
    exact ⟨f st, State.strand_modStrand_of hst f, h st⟩
  · exact ⟨st, (State.strand_modStrand_other s f hkj).trans hst, rfl, rfl, id⟩

theorem recorded_modPart (s : State) (p : PartId) {f : Part → Part} (h : ∀ q, (f q).line = q.line ∧ (f q).events = q.events) :
    Recorded s (s.modPart p f) := by
  refine ⟨rfl, fun r => ?_, fun j st hst => ⟨st, hst, rfl, rfl, id⟩⟩
  by_cases hpr : p = r
  · subst hpr
    cases hq : aget s.parts p with
    | some q =>
      rw [State.part_of_aget hq, State.part_of_aget (q := f q) (by simp [aget_amod_same, hq])]
      exact h q
    | none => simp [State.part, agetD, aget_amod_same, hq]
  · simp [State.part, agetD, aget_amod_other s.parts f hpr]

theorem strand_modPart (s : State) (p : PartId) (f : Part → Part) (k : Nat) : (s.modPart p f).strand k = s.strand k := rfl

/-- A strand writes its stop record, and is stopped. -/
theorem recorded_snareStrand (k : Nat) (s : State) : Recorded s (snareStrand k s) ∧
    ∀ st, s.strand k = some st → ∃ st', (snareStrand k s).strand k = some st' ∧ st'.stopped = true := by
  unfold snareStrand
  cases hst : s.strand k with
  | none => exact ⟨Recorded.refl s, fun st h => by cases h⟩
  | some st =>
    dsimp only
    generalize hr : StopInfo.bits _ s.clk = r
    have hput : Recorded s (s.putStop st.part (.strand k) r) := recorded_modStrand s k (fun _ => ⟨rfl, rfl, fun _ => rfl⟩)
    have hstop : ∃ st', (s.putStop st.part (.strand k) r).strand k = some st' ∧ st'.stopped = true :=
      ⟨_, State.strand_modStrand_of hst _, rfl⟩
    split
    next => exact ⟨hput, fun _ _ => hstop⟩
    next =>
      obtain ⟨st1, hst1, hstop1⟩ := hstop
      refine ⟨hput.trans (Recorded.trans (recorded_modPart _ _ ?_) (recorded_modStrand _ k ?_)), fun _ _ => ?_⟩
      · exact fun _ => ⟨rfl, rfl⟩
      · exact fun _ => ⟨rfl, rfl, id⟩
      · exact ⟨_, State.strand_modStrand_of ((strand_modPart ..).trans hst1) _, hstop1⟩

theorem recorded_foldl (ks : List Nat) (s : State) : Recorded s (ks.foldl (fun s k => snareStrand k s) s) ∧
    ∀ k ∈ ks, ∀ st, s.strand k = some st → ∃ st', (ks.foldl (fun s k => snareStrand k s) s).strand k = some st' ∧ st'.stopped = true := by
  induction ks generalizing s with
  | nil => exact ⟨Recorded.refl s, fun _ h => by cases h⟩
  | cons j ks ih =>
    obtain ⟨hfirst, hstops⟩ := recorded_snareStrand j s
    obtain ⟨hrest, hlater⟩ := ih (snareStrand j s)
    refine ⟨hfirst.trans hrest, fun k hk st hst => ?_⟩
    obtain ⟨st1, hst1, -, -, -⟩ := hfirst.2.2 k st hst
    rcases List.mem_cons.1 hk with rfl | hk
    · obtain ⟨st2, hst2, hstop2⟩ := hstops st hst
      obtain ⟨st3, hst3, -, -, hkeep⟩ := hrest.2.2 k st2 hst2
      exact ⟨st3, hst3, hkeep hstop2⟩
    · exact hlater k hk st1 hst1

variable {c : CtxId} {x : Ctx} {q : Part} {s : State}

/-- The strands that a snare of a context stops. -/
def snared (c : CtxId) (s : State) : List Nat :=
  (s.strands.filter (fun x => x.2.ctx == c && x.2.status != .ended && !x.2.allExited && internalWait s x.2)).map (fun x => x.1)

/-- The state in which the snare of a context has raised the line. -/
def raised (c : CtxId) (s : State) : State := (s.raiseLine c.part 0x34 none).modCtx c (fun x => { x with snare := 0 })

theorem evSnare_eq (hx : aget s.ctxs c = some x) (hq : aget s.parts c.part = some q) (hline : q.line = none) (hrun : x.st = 1 ∨ x.st = 2)
    (hcount : snareInterval s c ≤ x.snare) : evSnare c s = some ((snared c s).foldl (fun s k => snareStrand k s) (raised c s)) := by
  have hnot : ¬ ((s.part c.part).line.isSome || ((s.ctx c).st != 1 && (s.ctx c).st != 2) ||
      decide ((s.ctx c).snare < snareInterval s c)) = true := by
    rw [State.part_of_aget hq, State.ctx_of_aget hx]
    rcases hrun with h | h <;> simp [hline, h, hcount]
  rw [evSnare, if_neg hnot]
  rfl

theorem raised_facts (hx : aget s.ctxs c = some x) (hq : aget s.parts c.part = some q) (hn : c.n < 4) (hline : q.line = none)
    (hrun : x.st = 1 ∨ x.st = 2) : ((raised c s).part c.part).line = some 0x34 ∧
    ((raised c s).part c.part).events = q.events ++ [(0x8002, 0x34)] ∧ (raised c s).ctx c = { x with st := 4, before := x.st, snare := 0 } ∧
    { raised c s with parts := s.parts, ctxs := s.ctxs } = s := by
  unfold raised
  rw [State.raiseLine_down hq hline]
  refine ⟨?_, ?_, ?_, rfl⟩
  · simp [State.part, State.post, agetD, aget_amod_same, hq]
  · simp [State.part, State.post, agetD, aget_amod_same, hq]
  · have hhalted : x.halted = { x with before := x.st, st := 4 } := if_pos hrun
    refine State.ctx_of_aget ?_
    simp [aget_amod_same, aget_foldl_amod Ctx.halted (nodup_contextsOf c.part), mem_contextsOf hn, hx, hhalted]

theorem snare : Claims.snare := by
  intro c x q s h0 hx hq hn hline hrun hcount
  obtain ⟨hl, he, hc, hrest⟩ := raised_facts hx hq hn hline hrun
  obtain ⟨⟨hrest', hpart, hstrand⟩, hstops⟩ := recorded_foldl (snared c s) (raised c s)
  have hexec := happens_of_some (i := .snare c) rfl (evSnare_eq hx hq hline hrun hcount) rfl
  refine ⟨_, hexec, (hpart _).1.trans hl, (hpart _).2.trans he, ?_, ?_, ?_, ?_, fun k st hst hctx hres hlive hint => ?_⟩
  · have hctxs : State.ctxs _ = State.ctxs _ := (congrArg State.ctxs hrest' :)
    exact Eq.trans (congrArg (fun m => agetD m c _) hctxs) hc
  · have hstores : State.stores _ = State.stores _ := (congrArg State.stores hrest' :)
    have hstores' : State.stores _ = State.stores _ := (congrArg State.stores hrest :)
    show memPutAll s.mem _ = s.mem
    rw [hstores, hstores', h0]
    rfl
  · exact Eq.trans (congrArg State.ops hrest' :) (congrArg State.ops hrest :)
  · exact Eq.trans (congrArg State.msgs hrest' :) (congrArg State.msgs hrest :)
  · have hin : (raised c s).strand k = some st := 
      (congrArg (fun m => aget m k) (congrArg State.strands hrest :)).trans hst
    have hmem : k ∈ snared c s := by
      refine List.mem_map.2 ⟨(k, st), List.mem_filter.2 ⟨mem_of_aget hst, ?_⟩, rfl⟩
      simp [hctx, hres, hlive, hint]
    obtain ⟨st1, hst1, hstop⟩ := hstops k hmem st hin
    obtain ⟨st2, hst2, hthreads, hregs, -⟩ := hstrand k st hin
    cases hst1.symm.trans hst2
    exact ⟨st1, hst1, hstop, hthreads, hregs⟩

end Sys2Proof.Proofs.Snare

namespace Sys2Proof.Proofs

/-- Settles O30: a stop record leaves the line, the context and the threads as they are (`recorded_foldl`), and a fill takes the line that
`Lane.victim` names, which is the statement's (`victim_append`). -/
theorem snareAndLaneTimes : Obligations.SnareAndLaneTimes := ⟨Snare.snare, LaneTimes.laneTimes⟩

end Sys2Proof.Proofs
end

section
/-! SUPPORT. What landing a result changes: its strand, the lane's lines and the open transactions (01 R23, R25, R33). -/

namespace Sys2Proof.Machine

variable {k : Nat} {s : State} {st : Strand}

theorem putReg_frame (hst : s.strand k = some st) (hshr : st.shr = []) (w : RegWr) :
    { s.putReg k w with strands := s.strands } = s := by
  unfold State.putReg
  rw [hst]
  dsimp only
  rw [Proofs.Readiness.sharedKey_none hshr]
  rfl

/-- Writes to registers of a strand that shares none stand before those it has (01 R25). -/
theorem putRegs_unshared (hst : s.strand k = some st) (hshr : st.shr = []) (ws : List RegWr) :
    (s.putRegs k ws).strand k = some { st with regs := ws.reverse ++ st.regs } ∧ { s.putRegs k ws with strands := s.strands } = s := by
  unfold State.putRegs
  induction ws generalizing s st with
  | nil => exact ⟨hst, rfl⟩
  | cons w ws ih =>
    obtain ⟨hstrand, hframe⟩ := ih (Proofs.Readiness.strand_putReg hst hshr w) (by exact hshr)
    refine ⟨?_, ?_⟩
    · rw [List.foldl_cons, hstrand, List.reverse_cons, List.append_assoc]
      rfl
    · exact Eq.trans (congrArg (fun r : State => { r with strands := s.strands }) hframe) (putReg_frame hst hshr w)

theorem State.strand_setLanes (s : State) (k : Nat) (ls : Assoc LaneId Lane) : State.strand { s with lanes := ls } k = s.strand k := rfl

theorem State.strand_setTxns (s : State) (k : Nat) (ts : Assoc Nat Txn) : State.strand { s with txns := ts } k = s.strand k := rfl

/-- Words land in a strand that shares no registers: in its registers, its image and its lane's lines (01 R25, R30). -/
theorem landWords_unshared (hst : s.strand k = some st) (hshr : st.shr = []) (ws : List (Nat × Word)) :
    ∃ st', (landWords k ws s).strand k = some st' ∧ { st' with regs := st.regs, image := st.image } = st ∧
      st'.regs = (ws.map (fun w => (⟨s.cycle st.part, w.1, w.2, s.cycle st.part⟩ : RegWr))).reverse ++ st.regs ∧
      { landWords k ws s with strands := s.strands, lanes := s.lanes } = s := by
  obtain ⟨hput, hframe⟩ := putRegs_unshared hst hshr (ws.map (fun w => ⟨s.cycle st.part, w.1, w.2, s.cycle st.part⟩))
  unfold landWords
  rw [hst]
  dsimp only
  rw [hshr, List.foldl_nil, ite_self]
  refine ⟨_, State.strand_modStrand_of ((State.strand_setLanes ..).trans hput) _, rfl, rfl, ?_⟩
  exact Eq.trans (congrArg (fun r : State => { r with lanes := s.lanes }) hframe) rfl

/-- A transaction that completes leaves its strand's counts, or nothing where its strand has gone (01 R23, R33). -/
theorem completeTxn_spec {n : Nat} {t : Txn} (ht : aget s.txns n = some t) (hst : s.strand t.strand = some st) :
    ∃ st', (completeTxn n s).strand t.strand = some st' ∧ { completeTxn n s with strands := s.strands, txns := s.txns } = s ∧
      (completeTxn n s).txns = adel s.txns n ∧
      (st.status ≠ .ended → st.gen = t.gen → st'.regs = st.regs ∧ st'.pend = subPend st.pend t.locs ∧
        (∀ j, t.flag = some j → st'.flags = lset st.flags j (fun c => c - 1)) ∧ (t.flag = none → st'.flags = st.flags) ∧
        st'.holdTxn = if st.holdTxn = some n then none else st.holdTxn) ∧
      (st.status = .ended ∨ st.gen ≠ t.gen → st' = st) := by
  have hfinds : t.finds { s with txns := adel s.txns n } = if st.status ≠ .ended ∧ st.gen = t.gen then some st else none := by
    unfold Txn.finds
    rw [show State.strand { s with txns := adel s.txns n } t.strand = some st from hst]
  unfold completeTxn
  rw [ht]
  dsimp only
  rw [hfinds]
  by_cases hlive : st.status ≠ .ended ∧ st.gen = t.gen
  · rw [if_pos hlive]
    generalize hdone : ({ st with
      flags := (match t.flag with
        | some j => lset st.flags j (fun c => c - 1)
        | none => st.flags)
      pend := subPend st.pend t.locs
      holdTxn := if st.holdTxn = some n then none else st.holdTxn } : Strand) = done
    have hrest := Proofs.LaneTimes.follow_rest done (s.cycle st.part)
    refine ⟨done.follow (s.cycle st.part), (State.strand_modStrand_of ((State.strand_setTxns ..).trans hst) _).trans (by rw [← hdone]; rfl), rfl, rfl,
      fun _ _ => ?_, fun h => ?_⟩
    · have hflags : (done.follow (s.cycle st.part)).flags = done.flags := (congrArg Strand.flags hrest :)
      rw [hflags, (congrArg Strand.regs hrest :), (congrArg Strand.pend hrest :), (congrArg Strand.holdTxn hrest :), ← hdone]
      refine ⟨rfl, rfl, fun j hj => ?_, fun hj => ?_, rfl⟩ <;> simp only [hj]
    · rcases h with h | h
      · exact absurd h hlive.1
      · exact absurd hlive.2 h
  · rw [if_neg hlive]
    exact ⟨st, hst, rfl, rfl, fun h h' => absurd ⟨h, h'⟩ hlive, fun _ => rfl⟩

/-- What landing the last result of a transaction leaves of its strand: the words where it still finds it, and its counts. -/
theorem landResult_spec {n : Nat} {t : Txn} (ht : aget s.txns n = some t) (hleft : t.left ≤ 1) (hst : s.strand t.strand = some st)
    (hshr : st.shr = []) (ws : List (Nat × Word)) :
    ∃ st', (landResult n ws s).strand t.strand = some st' ∧
      { landResult n ws s with strands := s.strands, lanes := s.lanes, txns := s.txns } = s ∧ (landResult n ws s).txns = adel s.txns n ∧
      (st.status ≠ .ended → st.gen = t.gen →
        st'.regs = (ws.map (fun w => (⟨s.cycle st.part, w.1, w.2, s.cycle st.part⟩ : RegWr))).reverse ++ st.regs ∧
        st'.pend = subPend st.pend t.locs ∧ (∀ j, t.flag = some j → st'.flags = lset st.flags j (fun c => c - 1)) ∧
        (t.flag = none → st'.flags = st.flags) ∧ st'.holdTxn = if st.holdTxn = some n then none else st.holdTxn) ∧
      (st.status = .ended ∨ st.gen ≠ t.gen → st' = st) := by
  have hfinds : t.finds s = if st.status ≠ .ended ∧ st.gen = t.gen then some st else none := by
    unfold Txn.finds
    rw [hst]
  unfold landResult
  rw [ht]
  dsimp only
  rw [hfinds, if_pos hleft]
  by_cases hlive : st.status ≠ .ended ∧ st.gen = t.gen
  · rw [if_pos hlive]
    dsimp only
    obtain ⟨st1, hst1, hkeep, hregs, hframe⟩ := landWords_unshared hst hshr ws
    have htxns : (landWords t.strand ws s).txns = s.txns := (congrArg State.txns hframe :)
    obtain ⟨st2, hst2, hframe2, htxns2, hlands, -⟩ := completeTxn_spec (htxns.symm ▸ ht) hst1
    have hstatus : st1.status = st.status := (congrArg Strand.status hkeep :)
    have hgen : st1.gen = st.gen := (congrArg Strand.gen hkeep :)
    have hpend : st1.pend = st.pend := (congrArg Strand.pend hkeep :)
    have hflags : st1.flags = st.flags := (congrArg Strand.flags hkeep :)
    have hhold : st1.holdTxn = st.holdTxn := (congrArg Strand.holdTxn hkeep :)
    refine ⟨st2, hst2, ?_, htxns2.trans (by rw [htxns]), fun h h' => ?_, fun h => ?_⟩
    · exact Eq.trans (congrArg (fun r : State => { r with strands := s.strands, lanes := s.lanes, txns := s.txns }) hframe2)
        (congrArg (fun r : State => { r with txns := s.txns }) hframe)
    · obtain ⟨h1, h2, h3, h4, h5⟩ := hlands (by rw [hstatus]; exact h) (by rw [hgen]; exact h')
      rw [hpend] at h2
      rw [hflags] at h3 h4
      rw [hhold] at h5
      exact ⟨h1.trans hregs, h2, h3, h4, h5⟩
    · rcases h with h | h
      · exact absurd h hlive.1
      · exact absurd hlive.2 h
  · rw [if_neg hlive]
    dsimp only
    obtain ⟨st2, hst2, hframe2, htxns2, -, hgone⟩ := completeTxn_spec ht hst
    exact ⟨st2, hst2, congrArg (fun r : State => { r with lanes := s.lanes }) hframe2, htxns2, fun h h' => absurd ⟨h, h'⟩ hlive, hgone⟩

end Sys2Proof.Machine
end

section
/-! SUPPORT. A result on its way, and the fence that it ends (08 R203; 10 R250, R252; 19 R377). -/

namespace Sys2Proof.Machine

variable {s : State}

/-! ## A message that arrives -/

/-- A change of ports and free values: nothing else of the machine, and no package's clock. -/
def OnlyPorts (s t : State) : Prop := { t with pkgs := s.pkgs, fresh := s.fresh } = s ∧ ∀ p, t.cycle p = s.cycle p

theorem OnlyPorts.refl (s : State) : OnlyPorts s s := ⟨rfl, fun _ => rfl⟩

theorem OnlyPorts.trans {s t u : State} (h : OnlyPorts s t) (h' : OnlyPorts t u) : OnlyPorts s u :=
  ⟨Eq.trans (congrArg (fun r : State => { r with pkgs := s.pkgs, fresh := s.fresh }) h'.1) h.1, fun p => (h'.2 p).trans (h.2 p)⟩

theorem onlyPorts_modPort (s : State) (n port : Nat) (f : Port → Port) : OnlyPorts s (s.modPort n port f) :=
  ⟨rfl, fun p => State.field_modPkg Pkg.cyc s n p.pkg _ (fun _ => rfl)⟩

theorem onlyPorts_fresh (s : State) (w : Nat) : OnlyPorts s { s with fresh := w } := ⟨rfl, fun _ => rfl⟩

theorem onlyPorts_leaves {t : State} {r : Route} {n : Nat} (h : s.leaves r n = some t) : OnlyPorts s t := by
  unfold State.leaves at h
  split at h
  · cases h; exact OnlyPorts.refl s
  · obtain ⟨port, -, h⟩ := Option.bind_eq_some_iff.1 h
    unfold sendData at h
    dsimp only at h
    split at h
    · cases h
    · cases h
      exact (onlyPorts_modPort ..).trans (onlyPorts_modPort ..)

theorem onlyPorts_enters {t : State} {r : Route} {n : Nat} (h : s.enters r n false = some t) : OnlyPorts s t := by
  unfold State.enters at h
  split at h
  · cases h; exact OnlyPorts.refl s
  · obtain ⟨port, -, h⟩ := Option.map_eq_some_iff.1 h
    rw [← h]
    exact (onlyPorts_modPort ..).trans ((onlyPorts_fresh ..).trans (onlyPorts_modPort ..))

/-- A message that arrives changes ports alone (19 R377). -/
theorem onlyPorts_arrives {t : State} {n : Nat} (h : s.arrives n = some t) : OnlyPorts s t := by
  unfold State.arrives State.carry at h
  split at h
  next => cases h; exact OnlyPorts.refl s
  next =>
    split at h
    · cases h
    · unfold State.transmit at h
      obtain ⟨u, hu, ht⟩ := Option.bind_eq_some_iff.1 h
      exact (onlyPorts_leaves hu).trans (onlyPorts_enters ht)

/-! ## Fences -/

/-- What the end of a fence changes of its strand: its fences, and what it has seen and heard (10 R250, R252). -/
def Strand.fenceEnds (st st' : Strand) : Prop := { st' with fences := st.fences, seen := st.seen, heard := st.heard } = st

theorem fenceAcquires_spec {k : Nat} {st : Strand} (hst : s.strand k = some st) (sc : Scope) :
    (s.fenceAcquires k sc).strand k = some { st with
      seen := st.seen ++ (st.heard.filter (s.syncsWith k sc)).flatMap (fun w => w.before.map (fun n => (0, n)))
      heard := st.heard.filter (fun w => !(st.heard.filter (s.syncsWith k sc)).contains w) } ∧
    { s.fenceAcquires k sc with strands := s.strands } = s := by
  unfold State.fenceAcquires
  rw [hst]
  exact ⟨State.strand_modStrand_of hst _, rfl⟩

theorem dropFence_spec {txn : Nat} {t : Txn} {st : Strand} (ht : aget s.txns txn = some t) (hst : s.strand t.strand = some st) :
    ∃ st', (dropFence txn s).strand t.strand = some st' ∧ st.fenceEnds st' ∧ { dropFence txn s with strands := s.strands } = s := by
  have hst1 := State.strand_modStrand_of hst (fun st => { st with fences := adel st.fences txn })
  unfold dropFence
  rw [ht]
  dsimp only
  split
  next f _ =>
    split
    next => exact ⟨_, hst1, rfl, rfl⟩
    next =>
      obtain ⟨hst2, hframe⟩ := fenceAcquires_spec hst1 f.scope
      exact ⟨_, hst2, rfl, congrArg (fun r : State => { r with strands := s.strands }) hframe⟩
  next => exact ⟨_, hst1, rfl, rfl⟩

theorem retire_frame (s : State) (n : Nat) : { s.retire n with ops := s.ops } = s := by
  unfold State.retire
  split
  next => rfl
  next => split <;> rfl

end Sys2Proof.Machine
end

section
/-! SUPPORT. A result lands, an EWAIT's condition holds, the commands of a QFENCE are complete (01 R23, R33; 08 R203; 09 R234, R238). -/

namespace Sys2Proof.Proofs.Landings

open Sys2Proof.Machine Sys2Proof.Claims Sys2Proof.Safety

/-- What the landing of words with message `n` leaves of the strand of a transaction, as the statement has it. -/
def Lands (n txn : Nat) (tx : Txn) (st : Strand) (s : State) (ws : List (Nat × Word)) (i : Instr) : Prop :=
  ∃ t st', exec i s = .next t ∧ t.strand tx.strand = some st' ∧ aget t.txns txn = none ∧ aget t.msgs n = none ∧ t.mem = s.mem ∧
    (st.status ≠ .ended → st.gen = tx.gen →
      st'.regs = (ws.map (fun w => (⟨s.cycle st.part, w.1, w.2, s.cycle st.part⟩ : RegWr))).reverse ++ st.regs ∧
      st'.pend = subPend st.pend tx.locs ∧
      (∀ j, tx.flag = some j → st'.flags = lset st.flags j (fun c => c - 1)) ∧ (tx.flag = none → st'.flags = st.flags) ∧
      (st.holdTxn = some txn → st'.holdTxn = none) ∧ (st.holdTxn ≠ some txn → st'.holdTxn = st.holdTxn)) ∧
    (st.status = .ended ∨ st.gen ≠ tx.gen → st'.regs = st.regs ∧ st'.flags = st.flags ∧ st'.pend = st.pend)

variable {n txn : Nat} {tx : Txn} {st : Strand} {s : State}

theorem aget_adel_same {κ β : Type} [DecidableEq κ] (m : Assoc κ β) (k : κ) : aget (adel m k) k = none := by
  induction m with
  | nil => rfl
  | cons p m ih =>
    unfold adel at ih ⊢
    by_cases h : p.1 = k
    · simpa [h] using ih
    · simpa [h, aget] using ih

/-- What a message leaves in whose place nothing has been done yet but to end a fence and to forget an operation. -/
structure Arrived (n txn : Nat) (tx : Txn) (st : Strand) (s u : State) : Prop where
  txns : u.txns = s.txns
  stores : u.stores = s.stores
  msgs : aget u.msgs n = none
  cycle : u.cycle st.part = s.cycle st.part
  strand : ∃ st', u.strand tx.strand = some st' ∧ st.fenceEnds st'

theorem lands_of {u v : State} {ws : List (Nat × Word)} {i : Instr} (h0 : s.stores = []) (ht : aget s.txns txn = some tx) (hleft : tx.left ≤ 1)
    (hshr : st.shr = []) (hu : Arrived n txn tx st s u) (hv : v.txns = s.txns)
    (hexec : exec i s = .next (commit s.mem (unparkOwner txn v (landResult txn ws u)))) : Lands n txn tx st s ws i := by
  obtain ⟨htxns, hstores, hmsgs, hcycle, st1, hst1, hends⟩ := hu
  have hpart : st1.part = st.part := (congrArg Strand.part hends :)
  obtain ⟨st2, hst2, hframe, htxns2, hlands, hgone⟩ := landResult_spec (htxns ▸ ht) hleft hst1 ((congrArg Strand.shr hends :).trans hshr) ws
  obtain ⟨st3, hst3, hkeep⟩ := LaneTimes.strand_unparkBranch hst2
  have howner : unparkOwner txn v (landResult txn ws u) = (landResult txn ws u).unparkBranch tx.strand := by
    unfold unparkOwner
    rw [hv, ht]
  have hbranch := State.unparkBranch_frame (landResult txn ws u) tx.strand
  have hregs1 : st1.regs = st.regs := (congrArg Strand.regs hends :)
  have hpend1 : st1.pend = st.pend := (congrArg Strand.pend hends :)
  have hflags1 : st1.flags = st.flags := (congrArg Strand.flags hends :)
  have hhold1 : st1.holdTxn = st.holdTxn := (congrArg Strand.holdTxn hends :)
  have hregs3 : st3.regs = st2.regs := (congrArg Strand.regs hkeep :)
  have hpend3 : st3.pend = st2.pend := (congrArg Strand.pend hkeep :)
  have hflags3 : st3.flags = st2.flags := (congrArg Strand.flags hkeep :)
  have hhold3 : st3.holdTxn = st2.holdTxn := (congrArg Strand.holdTxn hkeep :)
  rw [howner] at hexec
  refine ⟨_, st3, hexec, hst3, ?_, ?_, ?_, fun h h' => ?_, fun h => ?_⟩
  · have h1 : ((landResult txn ws u).unparkBranch tx.strand).txns = _ := (congrArg State.txns hbranch :)
    show aget ((landResult txn ws u).unparkBranch tx.strand).txns txn = none
    rw [h1, htxns2]
    exact aget_adel_same _ _
  · have h1 : ((landResult txn ws u).unparkBranch tx.strand).msgs = _ := (congrArg State.msgs hbranch :)
    have h2 : (landResult txn ws u).msgs = u.msgs := (congrArg State.msgs hframe :)
    show aget ((landResult txn ws u).unparkBranch tx.strand).msgs n = none
    rw [h1, h2]
    exact hmsgs
  · have h1 : ((landResult txn ws u).unparkBranch tx.strand).stores = _ := (congrArg State.stores hbranch :)
    have h2 : (landResult txn ws u).stores = u.stores := (congrArg State.stores hframe :)
    show memPutAll s.mem ((landResult txn ws u).unparkBranch tx.strand).stores = s.mem
    rw [h1, h2, hstores, h0]
    rfl
  · obtain ⟨hr, hp, hf, hf', hh⟩ := hlands ((congrArg Strand.status hends :) ▸ h) ((congrArg Strand.gen hends :).trans h')
    rw [hregs1, hpart, hcycle] at hr
    rw [hpend1] at hp
    rw [hflags1] at hf hf'
    rw [hhold1] at hh
    rw [hregs3, hpend3, hflags3, hhold3]
    exact ⟨hr, hp, hf, hf', fun he => hh.trans (if_pos he), fun he => hh.trans (if_neg he)⟩
  · have hsame : st2 = st1 := hgone (h.imp ((congrArg Strand.status hends :).trans) (fun hne => (congrArg Strand.gen hends :) ▸ hne))
    rw [hregs3, hflags3, hpend3, hsame]
    exact ⟨hregs1, hflags1, hpend1⟩

/-! ## The messages -/

theorem fenceOpen_none (ht : aget s.txns txn = some tx) (hst : s.strand tx.strand = some st) (hf : aget st.fences txn = none) :
    fenceOpen s txn = true := by
  simp only [fenceOpen, ht, hst, hf]

theorem fenceOpen_iff {f : Fence} (ht : aget s.txns txn = some tx) (hst : s.strand tx.strand = some st) (hf : aget st.fences txn = some f) :
    fenceOpen s txn = true ↔ ∀ i ∈ s.fenceList tx.strand f, s.waitsFor tx.strand f.scope i = false := by
  simp [fenceOpen, ht, hst, hf]

/-- No command of a list that a strand has placed is left incomplete (09 R234). -/
theorem placedBy_eq_false {k : Nat} {ids : List Nat} :
    s.placedBy k ids = false ↔ ∀ p ∈ (s.strand k).elim [] (fun st => st.placed), p.2 ∉ ids := by
  unfold State.placedBy
  cases s.strand k <;> simp

theorem lands_result {s2 : State} {op : Nat} {ws : List (Nat × Word)} (h0 : s.stores = []) (ht : aget s.txns txn = some tx) (hleft : tx.left ≤ 1)
    (hst : s.strand tx.strand = some st) (hshr : st.shr = []) (hm : aget s.msgs n = some (.result txn op ws))
    (hopen : fenceOpen s txn = true) (harr : s.arrives n = some s2) : Lands n txn tx st s ws (.resultLands n) := by
  obtain ⟨hframe, hcyc⟩ := onlyPorts_arrives harr
  have ht2 : aget (s2.dropMsg n).txns txn = some tx := (congrArg (fun m => aget m txn) (congrArg State.txns hframe :)).trans ht
  have hst2 : (s2.dropMsg n).strand tx.strand = some st := (congrArg (fun m => aget m tx.strand) (congrArg State.strands hframe :)).trans hst
  obtain ⟨st1, hst1, hends, hframe1⟩ := dropFence_spec ht2 hst2
  have hframe2 := retire_frame ((dropFence txn (s2.dropMsg n)).modOp op (fun o => { o with ret := false })) op
  have hexec := happens_of_some (i := .resultLands n) (s := s) rfl
    (show evResultLands n s = _ by simp only [evResultLands, hm, hopen, harr]; rfl) rfl
  refine lands_of h0 ht hleft hshr ⟨?_, ?_, ?_, ?_, st1, ?_, hends⟩ (congrArg State.txns hframe :) hexec
  · exact Eq.trans (congrArg State.txns hframe2 :) (Eq.trans (congrArg State.txns hframe1 :) (congrArg State.txns hframe :))
  · exact Eq.trans (congrArg State.stores hframe2 :) (Eq.trans (congrArg State.stores hframe1 :) (congrArg State.stores hframe :))
  · exact (congrArg (fun m => aget m n) (Eq.trans (congrArg State.msgs hframe2 :) (congrArg State.msgs hframe1 :))).trans (aget_adel_same s2.msgs n)
  · exact Eq.trans (congrArg (fun r : State => r.cycle st.part) hframe2 :) (Eq.trans (congrArg (fun r : State => r.cycle st.part) hframe1 :) (hcyc _))
  · exact (congrArg (fun m => aget m tx.strand) (congrArg State.strands hframe2 :)).trans hst1

theorem lands_held {ws : List (Nat × Word)} (h0 : s.stores = []) (ht : aget s.txns txn = some tx) (hleft : tx.left ≤ 1)
    (hst : s.strand tx.strand = some st) (hshr : st.shr = [])
    (hev : evResultLands n s = some (unparkOwner txn s (landResult txn ws (s.dropMsg n)))) : Lands n txn tx st s ws (.resultLands n) :=
  lands_of (u := s.dropMsg n) h0 ht hleft hshr ⟨rfl, rfl, aget_adel_same s.msgs n, rfl, st, hst, rfl⟩ rfl
    (happens_of_some (i := .resultLands n) (s := s) rfl hev rfl)

theorem landings : Claims.landings := by
  intro n txn tx st s s2 h0 ht hleft hst hshr now lands
  refine ⟨fun op ws hm hf harr => lands_result h0 ht hleft hst hshr hm (fenceOpen_none ht hst hf) harr,
    fun op ws f hm hf => ⟨fun hall harr => lands_result h0 ht hleft hst hshr hm ((fenceOpen_iff ht hst hf).2 hall) harr, fun hany => ?_⟩,
    fun k c hm => ⟨fun v hv => lands_held h0 ht hleft hst hshr ?_, fun hv => ?_⟩,
    fun k ids hm => ⟨fun hall => lands_held h0 ht hleft hst hshr ?_, fun hany => ?_⟩⟩
  · have hclosed : fenceOpen s txn = false := by
      rw [Bool.eq_false_iff]
      intro ho
      obtain ⟨i, hi, hw⟩ := hany
      exact absurd ((fenceOpen_iff ht hst hf).1 ho i hi) (by simp [hw])
    exact LaneTimes.exec_of_noEvent (i := .resultLands n) rfl (by simp only [evResultLands, hm, hclosed]; rfl)
  · simp only [evResultLands, hm, hv, ht]
  · exact LaneTimes.exec_of_noEvent (i := .resultLands n) rfl (by simp only [evResultLands, hm, hv])
  · simp only [evResultLands, hm, placedBy_eq_false.2 hall]
    rfl
  · have hplaced : s.placedBy k ids = true := by
      by_contra hn
      obtain ⟨p, hp, hin⟩ := hany
      exact placedBy_eq_false.1 (Bool.eq_false_iff.2 hn) p hp hin
    exact LaneTimes.exec_of_noEvent (i := .resultLands n) rfl (by simp only [evResultLands, hm, hplaced, if_true])

end Sys2Proof.Proofs.Landings
end

section
/-! SUPPORT. Scopes, and what fences, releases, acquires, commands and EWAIT wait for (10 R240, R245, R246, R250 to R252, R256, R257). -/

namespace Sys2Proof.Proofs.WaitRules

open Sys2Proof.Machine Sys2Proof.Claims Sys2Proof.Safety

variable {k : Nat} {st : Strand} {s : State}

/-! ## Scopes -/

theorem alone_iff {sc : Scope} {band : Option Nat} :
    Scope.alone band sc = true ↔ sc = .thread ∨ sc = .strand ∨ (sc = .band ∧ band = none) := by
  cases sc <;> simp [Scope.alone]

theorem sameDomain_iff {a b : Nat} : s.sameDomain a b = true ↔ b = a ∨ ((s.pkg a).inDomain = true ∧ (s.pkg b).inDomain = true) := by
  simp only [State.sameDomain, Bool.or_eq_true, Bool.and_eq_true, beq_iff_eq]
  exact or_congr_left eq_comm

theorem covers_iff (hst : s.strand k = some st) {sc : Scope} {band : Option Nat} {t : TileId} :
    s.covers k sc band t = true ↔ tileIn s st sc band t := by
  unfold State.covers
  rw [hst]
  cases sc with
  | band =>
    simp only [Bool.or_eq_true, beq_iff_eq, tileIn]
    refine or_congr_right ?_
    cases band with
    | none => simp
    | some key => simp [Option.map_eq_some_iff]
  | dom => exact sameDomain_iff
  | sys => exact sameDomain_iff
  | thread => exact beq_iff_eq
  | strand => exact beq_iff_eq
  | tile => exact beq_iff_eq
  | pkg => exact beq_iff_eq
  | dflt => exact beq_iff_eq

theorem performedIn_iff (hst : s.strand k = some st) (sc : Scope) (band : Option Nat) (n : Nat) :
    s.performedIn k sc band n = true ↔ performedFor s st sc band n := by
  unfold State.performedIn performedFor
  cases ho : aget s.ops n with
  | none => simp
  | some o =>
    have hacks : (o.acks.all (fun t => !s.covers k sc band t)) = true ↔ ∀ t ∈ o.acks, ¬ tileIn s st sc band t := by
      simp [List.all_eq_true, ← covers_iff hst]
    simp only [Bool.or_eq_true, Bool.and_eq_true, beq_iff_eq, alone_iff, hacks, Option.some.injEq, forall_eq', or_assoc]

theorem ownBand_eq (hst : s.strand k = some st) : s.ownBand k = st.band := by
  simp [State.ownBand, hst]

theorem performedAt_iff (hst : s.strand k = some st) (sc : Scope) (n : Nat) :
    s.performedAt k sc n = true ↔ performedFor s st sc st.band n := by
  rw [State.performedAt, ownBand_eq hst, performedIn_iff hst]

theorem inScope_iff (hst : s.strand k = some st) {sc : Scope} {band : Option Nat} {j : Nat} :
    s.inScope k sc band j = true ↔ ∀ su, s.strand j = some su → strandIn s k st sc band j su := by
  unfold State.inScope
  rw [hst]
  cases hj : s.strand j with
  | none => simp
  | some su =>
    simp only [Option.some.injEq, forall_eq']
    cases sc with
    | thread => exact beq_iff_eq
    | strand => exact beq_iff_eq
    | band =>
      simp only [Bool.or_eq_true, beq_iff_eq, strandIn]
      refine or_congr_right ?_
      cases band <;> simp
    | tile => exact covers_iff hst
    | pkg => exact covers_iff hst
    | dflt => exact covers_iff hst
    | dom => exact covers_iff hst
    | sys => exact covers_iff hst

theorem syncsWith_iff (hst : s.strand k = some st) {sc : Scope} {w : Sync} : s.syncsWith k sc w = true ↔ synchronises s k st sc w := by
  have hback : ∀ r, s.inScope w.strand r w.band k = true ↔ ∀ su, s.strand w.strand = some su → strandIn s w.strand su r w.band k st := by
    intro r
    cases hw : s.strand w.strand with
    | none => simp [State.inScope, hw]
    | some sw => simp [inScope_iff hw, hst]
  simp only [State.syncsWith, Bool.and_eq_true, ownBand_eq hst, inScope_iff hst, List.any_eq_true, hback, synchronises]

/-! ## What comes before -/

theorem seenBy_eq (hst : s.strand k = some st) : s.seenBy k = st.seen := by
  simp [State.seenBy, hst]

theorem mem_earlier (hst : s.strand k = some st) {n : Nat} : n ∈ s.earlier k ↔ comesBefore s k st n := by
  simp only [State.earlier, seenBy_eq hst, List.mem_append, List.mem_map, List.mem_filter, beq_iff_eq, comesBefore, Prod.exists]
  constructor
  · rintro (⟨a, o, ⟨hm, hk⟩, rfl⟩ | ⟨rd, b, hm, rfl⟩)
    · exact .inl ⟨a, o, hm, rfl, hk⟩
    · exact .inr ⟨rd, hm⟩
  · rintro (⟨a, o, hm, rfl, hk⟩ | ⟨rd, hm⟩)
    · exact .inl ⟨a, o, ⟨hm, hk⟩, rfl⟩
    · exact .inr ⟨rd, n, hm, rfl⟩

theorem mem_withReturned (hst : s.strand k = some st) {ids : List Nat} {n : Nat} :
    n ∈ s.withReturned k ids ↔ n ∈ ids ∨ ∃ rd ∈ ids, (rd, n) ∈ st.seen := by
  simp only [State.withReturned, seenBy_eq hst, List.mem_append, List.mem_map, List.mem_filter, List.contains_iff_mem, Prod.exists]
  refine or_congr_right ⟨?_, ?_⟩
  · rintro ⟨rd, b, ⟨hm, hin⟩, rfl⟩
    exact ⟨rd, hin, hm⟩
  · rintro ⟨rd, hin, hm⟩
    exact ⟨rd, n, ⟨hm, hin⟩, rfl⟩

theorem barMsgs_isEmpty_iff : (s.barMsgs k).isEmpty = true ↔ ∀ m ∈ s.msgs,
    (∀ b t n kd pc l bid, m.2 ≠ .bar b t k n kd pc l bid) ∧ ∀ c b t n kd pc l bid, m.2 ≠ .dom c b t k n kd pc l bid := by
  rw [State.barMsgs, List.isEmpty_iff, List.map_eq_nil_iff, List.filter_eq_nil_iff]
  refine forall₂_congr (fun m _ => ?_)
  cases m.2 with
  | bar =>
    simp
    exact ⟨fun h _ _ _ _ _ _ _ _ _ hk => absurd hk h, fun h hk => h _ _ _ _ _ _ _ rfl rfl hk rfl rfl rfl rfl rfl⟩
  | dom =>
    simp
    exact ⟨fun h _ _ _ _ _ _ _ _ _ _ _ hk => absurd hk h, fun h hk => h _ _ _ _ _ _ _ _ rfl rfl rfl hk rfl rfl rfl rfl rfl⟩
  | _ => simp

theorem relGate_iff (hst : s.strand k = some st) {x : Iss} (hx : x.k = k) (sc : Scope) (band : Option Nat) :
    relGate s x sc band = true ↔ sc = .thread ∨ sc = .strand ∨ (sc = .band ∧ band = none) ∨
      ((∀ n, comesBefore s k st n → performedFor s st sc band n) ∧ ∀ m ∈ s.msgs,
        (∀ b t n kd pc l bid, m.2 ≠ .bar b t k n kd pc l bid) ∧ ∀ c b t n kd pc l bid, m.2 ≠ .dom c b t k n kd pc l bid) := by
  subst hx
  simp only [relGate, Bool.or_eq_true, Bool.and_eq_true, alone_iff, List.all_eq_true, mem_earlier hst, performedIn_iff hst,
    barMsgs_isEmpty_iff, or_assoc]

theorem waitsFor_eq_false (hst : s.strand k = some st) (sc : Scope) (n : Nat) : s.waitsFor k sc n = false ↔
    performedFor s st sc st.band n ∧ (∀ o, aget s.ops n = some o → o.ret = false) ∧ aget s.msgs n = none := by
  have hret : (match aget s.ops n with
      | some o => o.ret
      | none => false) = false ↔ ∀ o, aget s.ops n = some o → o.ret = false := by
    cases aget s.ops n <;> simp
  rw [State.waitsFor, Bool.or_eq_false_iff, Bool.or_eq_false_iff, ← performedAt_iff hst, and_assoc]
  refine and_congr (by simp) (and_congr hret (by simp))

theorem mem_fenceList (hst : s.strand k = some st) (f : Fence) (n : Nat) :
    n ∈ s.fenceList k f ↔ n ∈ f.waits ∨ (f.ord ≠ 0 ∧ ∃ rd ∈ f.waits, (rd, n) ∈ st.seen) := by
  unfold State.fenceList
  split
  next h => simp [h]
  next h => exact (mem_withReturned hst).trans (or_congr_right (and_iff_right h).symm)

theorem relMet_iff (hst : s.strand k = some st) (sc : Scope) (ids : List Nat) : s.relMet k sc ids = true ↔
    ∀ n, (n ∈ ids ∨ ∃ rd ∈ ids, (rd, n) ∈ st.seen) → performedFor s st sc st.band n ∧ aget s.msgs n = none := by
  simp only [State.relMet, List.all_eq_true, mem_withReturned hst, Bool.and_eq_true, performedAt_iff hst, Option.isNone_iff_eq_none]

theorem performed_iff {o : Op} : o.performed = true ↔ o.stage = .applied ∧ o.acks = [] := by
  simp [Op.performed]

theorem mem_pendingBefore (hst : s.strand k = some st) (n : Nat) : n ∈ s.pendingBefore k ↔
    comesBefore s k st n ∧ ∃ o, aget s.ops n = some o ∧ o.opr ≠ 0 ∧ ¬ (o.stage = .applied ∧ o.acks = []) := by
  rw [State.pendingBefore, List.mem_filter, List.mem_eraseDups, mem_earlier hst]
  refine and_congr_right (fun _ => ?_)
  cases aget s.ops n with
  | none => simp
  | some o => simp [← performed_iff]

/-! ## What reads and acquires add -/

theorem mem_unperformed {key size n : Nat} : n ∈ s.unperformed key size ↔ openWrite s key size n := by
  simp only [State.unperformed, List.mem_map, List.mem_filter, openWrite, Bool.and_eq_true, bne_iff_ne, beq_iff_eq, Bool.not_eq_true',
    List.isEmpty_eq_false_iff, decide_eq_true_eq]
  refine exists_congr (fun p => ?_)
  tauto

theorem mem_syncsAt {key size : Nat} {w : Sync} : w ∈ s.syncsAt key size ↔ releaseAt s key size w := by
  simp [State.syncsAt, releaseAt]

/-- The releases at these bytes that an acquire synchronises with (none without an acquire), and the others. -/
def acquired (s : State) (k : Nat) (acq : Option Scope) (key size : Nat) : List Sync :=
  match acq with
  | some sc => (s.syncsAt key size).filter (s.syncsWith k sc)
  | none => []

theorem mem_acquiredNow (hst : s.strand k = some st) {acq : Option Scope} {key size : Nat} {w : Sync} :
    w ∈ acquired s k acq key size ↔ releaseAt s key size w ∧ ∃ sc, acq = some sc ∧ synchronises s k st sc w := by
  cases acq with
  | none => simp [acquired]
  | some sc => simp [acquired, mem_syncsAt, syncsWith_iff hst]

theorem sees_spec (hst : s.strand k = some st) (rd : Nat) (acq : Option Scope) (key size : Nat) :
    { s.sees k rd acq key size with strands := s.strands } = s ∧ ∃ st', (s.sees k rd acq key size).strand k = some st' ∧
      { st' with seen := st.seen, heard := st.heard } = st ∧
      st'.seen = st.seen ++ (s.unperformed key size ++ (acquired s k acq key size).flatMap (fun w => w.before)).map (fun n => (rd, n)) ∧
      st'.heard = st.heard ++ (s.syncsAt key size).filter (fun w => !(acquired s k acq key size).contains w) := by
  have heq : s.sees k rd acq key size = match (s.unperformed key size ++ (acquired s k acq key size).flatMap (fun w => w.before)).map
      (fun n => (rd, n)), (s.syncsAt key size).filter (fun w => !(acquired s k acq key size).contains w) with
    | [], [] => s
    | ids, rest => s.modStrand k (fun st => { st with seen := st.seen ++ ids, heard := st.heard ++ rest }) := by
    cases acq <;> rfl
  rw [heq]
  split
  next hids hrest => exact ⟨rfl, st, hst, rfl, by rw [hids, List.append_nil], by rw [hrest, List.append_nil]⟩
  next => exact ⟨rfl, _, State.strand_modStrand_of hst _, rfl, rfl, rfl⟩

theorem mem_seen_of_sees (hst : s.strand k = some st) {rd : Nat} {acq : Option Scope} {key size r n : Nat} :
    (r, n) ∈ (s.unperformed key size ++ (acquired s k acq key size).flatMap (fun w => w.before)).map (fun n => (rd, n)) ↔
      r = rd ∧ (openWrite s key size n ∨
        ∃ w, releaseAt s key size w ∧ (∃ sc, acq = some sc ∧ synchronises s k st sc w) ∧ n ∈ w.before) := by
  simp only [List.mem_map, List.mem_append, List.mem_flatMap, mem_unperformed, mem_acquiredNow hst, Prod.mk.injEq, and_assoc]
  constructor
  · rintro ⟨m, hm, rfl, rfl⟩
    exact ⟨rfl, hm⟩
  · rintro ⟨rfl, hm⟩
    exact ⟨n, hm, rfl, rfl⟩

theorem mem_heard_of_sees (hst : s.strand k = some st) {acq : Option Scope} {key size : Nat} {w : Sync} :
    w ∈ (s.syncsAt key size).filter (fun w => !(acquired s k acq key size).contains w) ↔
      releaseAt s key size w ∧ ¬ ∃ sc, acq = some sc ∧ synchronises s k st sc w := by
  have hnot : (!(acquired s k acq key size).contains w) = true ↔ w ∉ acquired s k acq key size := by
    rw [Bool.not_eq_true', ← Bool.not_eq_true, List.contains_iff_mem]
  rw [List.mem_filter, mem_syncsAt, hnot, mem_acquiredNow hst]
  exact and_congr_right (fun h => not_congr (and_iff_right h))

theorem mem_acquired (hst : s.strand k = some st) {sc : Scope} {r n : Nat} :
    (r, n) ∈ (st.heard.filter (s.syncsWith k sc)).flatMap (fun w => w.before.map (fun n => (0, n))) ↔
      r = 0 ∧ ∃ w ∈ st.heard, synchronises s k st sc w ∧ n ∈ w.before := by
  simp only [List.mem_flatMap, List.mem_filter, List.mem_map, syncsWith_iff hst, Prod.mk.injEq]
  constructor
  · rintro ⟨w, ⟨hm, hs⟩, m, hb, rfl, rfl⟩
    exact ⟨rfl, w, hm, hs, hb⟩
  · rintro ⟨rfl, w, hm, hs, hb⟩
    exact ⟨w, ⟨hm, hs⟩, n, hb, rfl, rfl⟩

theorem mem_unacquired (hst : s.strand k = some st) {sc : Scope} {w : Sync} :
    w ∈ st.heard.filter (fun w => !(st.heard.filter (s.syncsWith k sc)).contains w) ↔ w ∈ st.heard ∧ ¬ synchronises s k st sc w := by
  have hnot : (!(st.heard.filter (s.syncsWith k sc)).contains w) = true ↔ w ∉ st.heard.filter (s.syncsWith k sc) := by
    rw [Bool.not_eq_true', ← Bool.not_eq_true, List.contains_iff_mem]
  rw [List.mem_filter, hnot, List.mem_filter, syncsWith_iff hst]
  exact and_congr_right (fun h => not_congr (and_iff_right h))

theorem slotBrings_spec (hst : s.strand k = some st) {slot arm key size : Nat} (hslot : slot < st.watch.length)
    (harm : (st.watch.getD slot {}).arm = arm) : ∃ st', (s.slotBrings k slot arm key size).strand k = some st' ∧
      ∀ n, n ∈ (st'.watch.getD slot {}).brings ↔
        openWrite s key size n ∨ ∃ w, releaseAt s key size w ∧ synchronises s k st .sys w ∧ n ∈ w.before := by
  refine ⟨_, State.strand_modStrand_of hst _, fun n => ?_⟩
  have hget : st.watch[slot]? = some (st.watch[slot]) := List.getElem?_eq_getElem hslot
  have harm' : (st.watch[slot]).arm = arm := by simpa [List.getD_eq_getElem?_getD, hget] using harm
  simp only [List.getD_eq_getElem?_getD, getElem?_lset, if_true, hget, Option.map_some, Option.getD_some, harm', List.mem_append,
    List.mem_flatMap, List.mem_filter, mem_unperformed, mem_syncsAt, syncsWith_iff hst, and_assoc]

/-! ## EWAIT -/

theorem ite_eq_some {α : Type} {c : Prop} [Decidable c] {a v : α} : (if c then some a else none) = some v ↔ v = a ∧ c := by
  by_cases h : c <;> simp [h, eq_comm]

theorem holds_ready (tc : TileCtx) (eng ring : Nat) (v : Word) : EWait.holds s k (.ready tc eng ring) = some v ↔
    ∃ r, ringOf s tc eng ring = some r ∧ v = BitVec.ofNat 32 (r.signalled % r.n) ∧ (r.fill = true → r.signalled < r.done) ∧
      (r.fill = false → r.signalled < r.total ∧ ∃ b, aget (s.tc tc).bufs (r.first + r.signalled % r.n) = some b ∧ b.st = .filling) := by
  cases hr : ringOf s tc eng ring with
  | none => simp [EWait.holds, hr]
  | some r =>
    have hbuf : (match aget (s.tc tc).bufs (r.entry r.signalled) with
        | some b => b.st == .filling
        | none => false) = true ↔ ∃ b, aget (s.tc tc).bufs (r.first + r.signalled % r.n) = some b ∧ b.st = .filling := by
      unfold Ring.entry
      cases aget (s.tc tc).bufs (r.first + r.signalled % r.n) <;> simp
    have hok : (if r.fill then decide (r.signalled < r.done)
        else decide (r.signalled < r.total) && (match aget (s.tc tc).bufs (r.entry r.signalled) with
          | some b => b.st == .filling
          | none => false)) = true ↔ (r.fill = true → r.signalled < r.done) ∧ (r.fill = false → r.signalled < r.total ∧
        ∃ b, aget (s.tc tc).bufs (r.first + r.signalled % r.n) = some b ∧ b.st = .filling) := by
      cases r.fill with
      | true => simp
      | false =>
        rw [if_neg Bool.false_ne_true, Bool.and_eq_true, hbuf]
        simp
    simp only [Option.some.injEq, exists_eq_left', ← hok]
    rw [EWait.holds, hr]
    exact ite_eq_some

theorem holds_done (tc : TileCtx) (eng ring : Nat) (v : Word) :
    EWait.holds s k (.done tc eng ring) = some v ↔ v = 0 ∧ ringOf s tc eng ring = none := by
  rw [EWait.holds, ite_eq_some, Option.isNone_iff_eq_none]

theorem holds_coll (hst : s.strand k = some st) (ids : List Nat) (v : Word) :
    EWait.holds s k (.coll ids) = some v ↔ v = 0 ∧ ∀ p ∈ st.placed, p.2 ∉ ids := by
  have hplaced : s.placedBy k ids = false ↔ ∀ p ∈ st.placed, p.2 ∉ ids := by
    rw [Landings.placedBy_eq_false, hst]
    rfl
  rw [← hplaced, EWait.holds]
  cases s.placedBy k ids with
  | true => simp
  | false => exact ⟨fun h => ⟨(Option.some.inj h).symm, rfl⟩, fun h => congrArg some h.1.symm⟩

theorem opPerformed_iff {n : Nat} : s.opPerformed n = true ↔ ∀ o, aget s.ops n = some o → o.stage = .applied ∧ o.acks = [] := by
  unfold State.opPerformed
  cases aget s.ops n with
  | none => simp
  | some o => simp [performed_iff]

theorem holds_seq (p : PartId) (region w : Nat) (v : Word) : EWait.holds s k (.seq p region w) = some v ↔
    ∃ r, aget (s.part p).regions region = some r ∧ v = BitVec.ofNat 32 r.next ∧ (r.next + 2 ^ 32 - w) % 2 ^ 32 < 2 ^ 31 ∧
      ∀ n ∈ r.waits, ∀ o, aget s.ops n = some o → o.stage = .applied ∧ o.acks = [] := by
  cases hr : aget (s.part p).regions region with
  | none => simp [EWait.holds, State.reached, hr]
  | some r =>
    have hwaits : r.waits.all s.opPerformed = true ↔ ∀ n ∈ r.waits, ∀ o, aget s.ops n = some o → o.stage = .applied ∧ o.acks = [] := by
      rw [List.all_eq_true]
      exact forall₂_congr (fun n _ => opPerformed_iff)
    have hok : (s.reached p region w && s.regionPerformed p region) = true ↔ (r.next + 2 ^ 32 - w) % 2 ^ 32 < 2 ^ 31 ∧
        ∀ n ∈ r.waits, ∀ o, aget s.ops n = some o → o.stage = .applied ∧ o.acks = [] := by
      rw [Bool.and_eq_true, ← hwaits, State.reached, State.regionPerformed, hr]
      exact and_congr_left' decide_eq_true_iff
    simp only [Option.some.injEq, exists_eq_left', ← hok]
    rw [EWait.holds, hr]
    exact ite_eq_some

theorem waitRules : Claims.waitRules := by
  intro k st s hst
  refine ⟨performedIn_iff hst, waitsFor_eq_false hst, mem_fenceList hst, relMet_iff hst, fun x sc band hx => relGate_iff hst hx sc band,
    mem_pendingBefore hst, fun rd acq key size => ?_, fun sc => ?_, fun slot arm key size hslot harm => slotBrings_spec hst hslot harm,
    holds_ready, holds_done, holds_coll hst, holds_seq⟩
  · obtain ⟨hframe, st', hst', hkeep, hseen, hheard⟩ := sees_spec hst rd acq key size
    refine ⟨hframe, st', hst', hkeep, fun r n => ?_, fun w => ?_⟩
    · rw [hseen, List.mem_append, mem_seen_of_sees hst]
    · rw [hheard, List.mem_append, mem_heard_of_sees hst]
  · refine ⟨_, (fenceAcquires_spec hst sc).1, fun r n => ?_, fun w => mem_unacquired hst⟩
    exact List.mem_append.trans (or_congr_right (mem_acquired hst))

end Sys2Proof.Proofs.WaitRules

namespace Sys2Proof.Proofs

/-- Settles O32: what landing a result leaves of its strand (`landResult_spec`), and each wait of the model read off the state. -/
theorem resultsLand : Obligations.ResultsLand := ⟨Landings.landings, WaitRules.waitRules⟩

end Sys2Proof.Proofs
end

section
/-! SUPPORT. The numbers of strands: what a change of the list of strands and of the next number has to keep (01 R12, R33; 16 R324). -/

namespace Sys2Proof.Proofs.Numbers

open Sys2Proof.Machine Sys2Proof.Claims Sys2Proof.Safety

variable {s : State}

/-- Where a state is the result, its strands are numbered. -/
def Keeps (o : Option State) : Prop := ∀ t, o = some t → numbered t

/-- The same of a state with a value. -/
def KeepsFst {α : Type} (o : Option (State × α)) : Prop := ∀ p, o = some p → numbered p.1

/-- The same of an effect that succeeds. -/
def KeepsEff (e : Eff) : Prop := ∀ t, e = .ok t → numbered t

theorem keeps_none : Keeps none := fun _ h => by cases h

theorem keeps_some (h : numbered s) : Keeps (some s) := fun _ ht => Option.some.inj ht ▸ h

theorem keeps_bind {o : Option State} {f : State → Option State} (ho : Keeps o) (hf : ∀ t, numbered t → Keeps (f t)) : Keeps (o.bind f) := by
  cases o with
  | none => exact keeps_none
  | some t => exact hf t (ho t rfl)

theorem keeps_bindAny {α : Type} {o : Option α} {f : α → Option State} (hf : ∀ a, Keeps (f a)) : Keeps (o.bind f) := by
  cases o with
  | none => exact keeps_none
  | some a => exact hf a

theorem keeps_bindFst {α : Type} {o : Option (State × α)} {f : State × α → Option State} (ho : KeepsFst o)
    (hf : ∀ p, numbered p.1 → Keeps (f p)) : Keeps (o.bind f) := by
  cases o with
  | none => exact keeps_none
  | some p => exact hf p (ho p rfl)

theorem keeps_map {o : Option State} {f : State → State} (ho : Keeps o) (hf : ∀ t, numbered t → numbered (f t)) : Keeps (o.map f) := by
  cases o with
  | none => exact keeps_none
  | some t => exact keeps_some (hf t (ho t rfl))

theorem keeps_mapAny {α : Type} {o : Option α} {f : α → State} (hf : ∀ a, numbered (f a)) : Keeps (o.map f) := by
  cases o with
  | none => exact keeps_none
  | some a => exact keeps_some (hf a)

theorem keeps_mapFst {α : Type} {o : Option (State × α)} {f : State × α → State} (ho : KeepsFst o) (hf : ∀ p, numbered p.1 → numbered (f p)) :
    Keeps (o.map f) := by
  cases o with
  | none => exact keeps_none
  | some p => exact keeps_some (hf p (ho p rfl))

theorem keepsFst_none {α : Type} : KeepsFst (none : Option (State × α)) := fun _ h => by cases h

theorem keepsFst_some {α : Type} {p : State × α} (h : numbered p.1) : KeepsFst (some p) := fun _ ht => Option.some.inj ht ▸ h

theorem keepsEff_ok (h : numbered s) : KeepsEff (.ok s) := fun _ ht => Eff.ok.inj ht ▸ h

theorem keepsEff_stop {f : Flt} : KeepsEff (.stop f) := fun _ h => by cases h

theorem keepsEff_wait : KeepsEff .wait := fun _ h => by cases h

theorem keepsEff_walk {va : Nat} : KeepsEff (.walk va) := fun _ h => by cases h

theorem keepsEff_cond : KeepsEff .cond := fun _ h => by cases h

theorem numbered_foldl {α : Type} {f : State → α → State} (hf : ∀ s a, numbered s → numbered (f s a)) (h : numbered s) (l : List α) :
    numbered (l.foldl f s) := by
  induction l generalizing s with
  | nil => exact h
  | cons a l ih => exact ih (hf s a h)

theorem keeps_foldl {α : Type} {f : Option State → α → Option State} (hf : ∀ o a, Keeps o → Keeps (f o a)) {o : Option State} (ho : Keeps o)
    (l : List α) : Keeps (l.foldl f o) := by
  induction l generalizing o with
  | nil => exact ho
  | cons a l ih => exact ih (hf o a ho)

/-! ## The two fields -/

/-- A next number that is no lower. -/
theorem numbered_uid {n : Nat} (h : numbered s) (hn : s.uid ≤ n) : numbered { s with uid := n } :=
  ⟨h.1, fun y hy => (h.2 y hy).trans hn⟩

/-- Strands whose numbers are those of before. -/
theorem numbered_strands {m : Assoc Nat Strand} (h : numbered s) (hm : m.map (fun y => y.1) = s.strands.map (fun y => y.1)) :
    numbered { s with strands := m } := by
  refine ⟨by rw [hm]; exact h.1, fun y hy => ?_⟩
  have hmem : y.1 ∈ s.strands.map (fun y => y.1) := hm ▸ List.mem_map_of_mem hy
  obtain ⟨z, hz, hzy⟩ := List.mem_map.1 hmem
  exact hzy ▸ h.2 z hz

theorem numbered_modStrand {k : Nat} {f : Strand → Strand} (h : numbered s) : numbered (s.modStrand k f) :=
  numbered_strands h (map_amod (fun y => y.1) s.strands k f (fun _ => rfl))

theorem numbered_mapStrands {f : Nat × Strand → Nat × Strand} (h : numbered s) (hf : ∀ x, (f x).1 = x.1) :
    numbered { s with strands := s.strands.map f } :=
  numbered_strands h (by rw [List.map_map]; exact List.map_congr_left (fun x _ => hf x))

theorem numbered_filterStrands {p : Nat × Strand → Bool} (h : numbered s) : numbered { s with strands := s.strands.filter p } :=
  ⟨h.1.sublist (List.filter_sublist.map _), fun y hy => h.2 y (List.mem_of_mem_filter hy)⟩

/-- A new strand takes a number above all. -/
theorem numbered_newStrand (h : numbered s) (st : Strand) :
    numbered { s with uid := s.uid + 1, strands := s.strands ++ [(s.uid + 1, st)] } := by
  refine ⟨?_, fun y hy => ?_⟩
  · rw [List.map_append, List.map_singleton]
    refine List.nodup_append.2 ⟨h.1, List.nodup_singleton _, fun a ha b hb hab => ?_⟩
    obtain ⟨y, hy, rfl⟩ := List.mem_map.1 ha
    have := h.2 y hy
    rw [List.mem_singleton] at hb
    omega
  · rcases List.mem_append.1 hy with hy | hy
    · exact (h.2 y hy).trans (Nat.le_succ _)
    · rw [List.mem_singleton.1 hy]

theorem numbered_of_fst {α : Type} {p : State × α} {t : State} {a : α} (h : numbered p.1) (e : p = (t, a)) : numbered t := by
  subst e
  exact h

theorem numbered_of_snd {α : Type} {p : α × State} {t : State} {a : α} (h : numbered p.2) (e : p = (a, t)) : numbered t := by
  subst e
  exact h

/-! ## The operations on the state -/

theorem numbered_write {n a v : Nat} (h : numbered s) : numbered (s.write n a v) :=
  h

theorem numbered_commit {m : List Host.Cell} (h : numbered s) : numbered (commit m s) :=
  h

theorem numbered_modPart {p : PartId} {f : Machine.Part → Machine.Part} (h : numbered s) : numbered (s.modPart p f) :=
  h

theorem numbered_modCtx {c : CtxId} {f : Ctx → Ctx} (h : numbered s) : numbered (s.modCtx c f) :=
  h

theorem numbered_modPkg {n : Nat} {f : Pkg → Pkg} (h : numbered s) : numbered (s.modPkg n f) :=
  h

theorem numbered_modLane {l : LaneId} {f : Lane → Lane} (h : numbered s) : numbered (s.modLane l f) :=
  h

theorem numbered_modTile {t : TileId} {f : Tile → Tile} (h : numbered s) : numbered (s.modTile t f) :=
  h

theorem numbered_modTc {t : TileCtx} {f : TCtx → TCtx} (h : numbered s) : numbered (s.modTc t f) :=
  h

theorem numbered_modHome {hm : Home} {f : HomeSt → HomeSt} (h : numbered s) : numbered (s.modHome hm f) :=
  h

theorem numbered_modLaunch {l : Nat} {f : Launch → Launch} (h : numbered s) : numbered (s.modLaunch l f) :=
  h

theorem numbered_modOp {n : Nat} {f : Op → Op} (h : numbered s) : numbered (s.modOp n f) :=
  h

theorem numbered_modTxn {n : Nat} {f : Txn → Txn} (h : numbered s) : numbered (s.modTxn n f) :=
  h

theorem numbered_newId (h : numbered s) : numbered (s.newId).2 :=
  numbered_uid h (Nat.le_add_right ..)

theorem numbered_send {m : Msg} (h : numbered s) : numbered (s.send m) :=
  numbered_uid h (Nat.le_add_right ..)

theorem numbered_dropMsg {n : Nat} (h : numbered s) : numbered (s.dropMsg n) :=
  h

theorem numbered_post {p : PartId} {code data : Nat} (h : numbered s) : numbered (s.post p code data) :=
  numbered_modPart h

theorem numbered_numbered {p : PartId} {u : UnitId} (h : numbered s) : numbered (s.numbered p u) :=
  numbered_modPart h

theorem numbered_postBy {p : PartId} {u : UnitId} {code data : Nat} (h : numbered s) : numbered (s.postBy p u code data) :=
  numbered_post (numbered_numbered h)

theorem numbered_putReg {k : Nat} {w : RegWr} (h : numbered s) : numbered (s.putReg k w) := by
  unfold State.putReg
  split
  · exact h
  · split
    · exact numbered_modLane h
    · exact numbered_modStrand h

theorem numbered_putRegs {k : Nat} {ws : List RegWr} (h : numbered s) : numbered (s.putRegs k ws) :=
  numbered_foldl (fun _ _ ht => numbered_putReg ht) h _

theorem numbered_modBand {launch key : Nat} {f : Band → Band} (h : numbered s) : numbered (s.modBand launch key f) :=
  numbered_modLaunch h

theorem numbered_coincide {bits k : Nat} (h : numbered s) : numbered (s.coincide bits k) :=
  numbered_modStrand h

theorem numbered_coincideWith {p : PartId} {by_ : Option UnitId} (h : numbered s) : numbered (s.coincideWith p by_) :=
  numbered_foldl (fun _ _ ht => numbered_coincide ht) h _

theorem numbered_raiseLine {p : PartId} {cause : Nat} {by_ : Option UnitId} (h : numbered s) : numbered (s.raiseLine p cause by_) := by
  unfold State.raiseLine
  split
  · split
    · exact numbered_coincideWith h
    · exact h
  · dsimp only
    refine numbered_foldl (fun t a ht => numbered_modCtx ht) (numbered_post (numbered_modPart ?_)) _
    split
    · exact numbered_numbered h
    · exact h

theorem numbered_putStop {p : PartId} {u : UnitId} {r : BitVec 1024} (h : numbered s) : numbered (s.putStop p u r) := by
  unfold State.putStop
  split
  · exact numbered_modStrand h
  · exact numbered_modPart h

theorem numbered_lineFor {k : Nat} {st : Strand} {cause : Nat} (h : numbered s) : numbered (s.lineFor k st cause) := by
  unfold State.lineFor
  split
  · exact numbered_postBy (numbered_modPart h)
  · exact numbered_raiseLine h

theorem numbered_strandFault {k : Nat} {f : Flt} {w : Where} {kind code : Nat} {mask : Mask} (h : numbered s) :
    numbered (s.strandFault k f w kind code mask) := by
  unfold State.strandFault
  split
  · exact h
  · dsimp only
    split
    · split
      · exact numbered_coincide h
      · exact numbered_modStrand (numbered_modPart (numbered_putStop (numbered_lineFor h)))
    · split
      · exact numbered_coincide h
      · exact numbered_modStrand (numbered_modPart (numbered_putStop (numbered_lineFor h)))

theorem numbered_preciseFault {k : Nat} {f : Flt} {pc : Pc} {exm act : List Nat} (h : numbered s) :
    numbered (s.preciseFault k f pc exm act) :=
  numbered_strandFault h

theorem numbered_drainFault {k : Nat} {f : Flt} {e : Entry} {act : List Nat} (h : numbered s) : numbered (s.drainFault k f e act) :=
  numbered_strandFault h

theorem numbered_impreciseFault {k : Nat} {f : Flt} {pc : Pc} (h : numbered s) : numbered (s.impreciseFault k f pc) :=
  numbered_strandFault h

theorem numbered_enterHandler {k kind code : Nat} {mask : Mask} (h : numbered s) : numbered (s.enterHandler k kind code mask) := by
  unfold State.enterHandler
  split
  · exact h
  · exact numbered_modStrand h

theorem numbered_startTest {pkg : Nat} {u : RUnit} {txns : List (Nat × Opd)} {dets : List (List PartId × ErrRec)} (h : numbered s) :
    numbered (s.startTest pkg u txns dets) := by
  unfold State.startTest
  split
  · exact h
  · exact numbered_send h

theorem numbered_clean {site : Site} (h : numbered s) : numbered (s.clean site) :=
  h

theorem numbered_detect {pkg : Nat} {u : RUnit} {parts : List PartId} {cls action addr cons detail result : Nat}
    (h : numbered s) :
    numbered (s.detect pkg u parts cls action addr cons detail result) :=
  numbered_startTest (numbered_foldl (fun _ _ ht => numbered_modPart ht) (numbered_modPkg h) _)

theorem numbered_consume {site : Site} {whole : Bool} {cons : Nat} {who : PartId} (h : numbered s) :
    numbered (s.consume site whole cons who).1 := by
  unfold State.consume
  split
  · split
    · exact h
    · split
      · exact h
      · exact numbered_clean h
  · split
    · exact h
    · split
      · exact h
      · split
        · exact numbered_clean h
        · split
          · exact numbered_detect h
          · exact numbered_detect (numbered_clean h)

theorem numbered_consumeAll {sites : List Site} {cons : Nat} {who : PartId} (h : numbered s) :
    numbered (s.consumeAll sites cons who).1 := by
  induction sites generalizing s with
  | nil => exact h
  | cons x xs ih =>
    unfold State.consumeAll
    split
    next he => exact ih (numbered_of_fst (numbered_consume h) he)
    next => exact numbered_consume h

theorem numbered_glance {site : Site} (h : numbered s) : numbered (s.glance site) := by
  unfold State.glance
  split
  · split
    · exact numbered_detect h
    · exact numbered_detect (numbered_clean h)
  · exact h

theorem numbered_glanceAll {sites : List Site} (h : numbered s) : numbered (s.glanceAll sites) :=
  numbered_foldl (fun _ _ ht => numbered_glance ht) h _

theorem keeps_useSitesOf {pkg : Nat} {reads writes : List Site} {cons : Nat} {who : PartId} (h : numbered s) :
    KeepsFst (s.useSitesOf pkg reads writes cons who) := by
  unfold State.useSitesOf
  split
  · exact keepsFst_some h
  · split
    · exact keepsFst_none
    · split
      · exact keepsFst_some h
      · exact keepsFst_some (numbered_consumeAll h)

theorem numbered_crossLinks {pkg : Nat} {ls : List Nat} (h : numbered s) : numbered (s.crossLinks pkg ls) := by
  unfold State.crossLinks
  refine numbered_foldl (fun t a ht => ?_) h _
  split
  · exact numbered_detect (numbered_clean ht)
  · exact ht

/-! ## Transactions, results and captured instructions -/

theorem numbered_openTxn {x : Iss} {left : Nat} {dst : Opd} (h : numbered s) : numbered (openTxn x left dst s).2 :=
  numbered_uid h (Nat.le_add_right ..)

theorem numbered_completeTxn {n : Nat} (h : numbered s) : numbered (completeTxn n s) := by
  unfold completeTxn
  split
  · exact h
  · dsimp only
    split
    · exact h
    · exact numbered_modStrand h

theorem numbered_saveRange {launch : Nat} {l : LaneId} {sh : Shr} {now : Nat} (h : numbered s) :
    numbered (saveRange launch l sh now s) := by
  unfold saveRange
  dsimp only
  split
  · exact h
  · split
    · exact h
    · split
      · exact h
      · exact numbered_modStrand h

theorem numbered_landWords {k : Nat} {ws : List (Nat × Word)} (h : numbered s) : numbered (landWords k ws s) := by
  unfold landWords
  split
  · exact h
  · dsimp only
    split
    · refine numbered_foldl (fun t r ht => numbered_saveRange ht) ?_ _
      exact numbered_modStrand (numbered_putRegs h)
    · exact numbered_modStrand (numbered_putRegs h)

theorem numbered_landResult {n : Nat} {ws : List (Nat × Word)} (h : numbered s) : numbered (landResult n ws s) := by
  unfold landResult
  split
  · exact h
  · dsimp only
    split
    · refine numbered_completeTxn ?_
      split
      · exact numbered_landWords h
      · exact h
    · refine numbered_modTxn ?_
      split
      · exact numbered_landWords h
      · exact h

theorem numbered_pushWords {x : Iss} {ws : List Word} (h : numbered s) : numbered (pushWords x ws s) := by
  unfold pushWords
  split
  · exact h
  · split
    · exact h
    · exact numbered_modTc h

theorem numbered_advance {x : Iss} (h : numbered s) : numbered (advance x s) :=
  numbered_modStrand h

theorem numbered_finish {x : Iss} (h : numbered s) : numbered (finish x s) :=
  numbered_modStrand (numbered_modLane h)

theorem numbered_writeLine {hm : HeldLine} (h : numbered s) : numbered (writeLine hm s) := by
  unfold writeLine
  split
  · exact h
  · exact numbered_modStrand (numbered_glance h)

theorem numbered_evictLines {l : LaneId} {hs : List HeldLine} (h : numbered s) : numbered (evictLines l hs s) :=
  numbered_modLane (numbered_foldl (fun _ _ ht => numbered_writeLine ht) h _)

theorem keeps_makeRoom {l : LaneId} {need now fuel : Nat} (h : numbered s) : Keeps (makeRoom l need now fuel s) := by
  induction fuel generalizing s with
  | zero =>
    unfold makeRoom
    split
    · exact keeps_some h
    · exact keeps_none
  | succ fuel ih =>
    unfold makeRoom
    split
    · exact keeps_some h
    · split
      · exact keeps_none
      · exact ih (numbered_evictLines h)

theorem numbered_unparkBranch {k : Nat} (h : numbered s) : numbered (s.unparkBranch k) := by
  unfold State.unparkBranch
  split
  · exact h
  · split
    · exact h
    · exact numbered_modStrand h

theorem numbered_unparkQuota {l : LaneId} (h : numbered s) : numbered (s.unparkQuota l) :=
  numbered_mapStrands h (fun x => by split <;> rfl)

theorem numbered_putEntry {x : Iss} {e : Entry} (h : numbered s) : numbered (putEntry s x e) :=
  numbered_modStrand (numbered_modLane (numbered_advance h))

theorem keeps_capture {x : Iss} {predOk : Bool} {cause : Nat} (h : numbered s) : Keeps (capture s x predOk cause) := by
  unfold capture
  split
  · exact keeps_none
  · dsimp only
    split
    · split
      · exact keeps_some (numbered_preciseFault h)
      · exact keeps_some (numbered_modStrand h)
    · split
      · exact keeps_some (numbered_modStrand h)
      · split
        · exact keeps_none
        · refine keeps_bind (keeps_makeRoom (numbered_modLane h)) (fun t ht => keeps_mapFst (keeps_useSitesOf ht) (fun p hp => ?_))
          split
          · exact numbered_putEntry hp
          · exact numbered_preciseFault hp

theorem numbered_finishDrain {x : Iss} {e : Entry} (h : numbered s) : numbered (finishDrain x e s) :=
  numbered_unparkBranch (numbered_unparkQuota (numbered_modStrand (numbered_modLane h)))

theorem numbered_putOrLand {x : Iss} {ws : List RegWr} (h : numbered s) : numbered (putOrLand x ws s) := by
  unfold putOrLand
  split
  · exact numbered_send (numbered_uid h (Nat.le_add_right ..))
  · exact numbered_putRegs h

/-! ## Register effects -/

theorem numbered_writeRows {x : Iss} {rows : List (Nat × Wv)} (h : numbered s) : numbered (writeRows x rows s) :=
  numbered_putOrLand (numbered_pushWords h)

theorem keeps_eff3 {f : Word → Word → Word → Word} {a : Iss} (h : numbered s) : KeepsEff (eff3 f a s) :=
  keepsEff_ok (numbered_writeRows h)

theorem keeps_effMovxAny {wide : Bool} {base : Opd} {wr : Bool} {a : Iss} (h : numbered s) : KeepsEff (effMovxAny wide base wr a s) := by
  unfold effMovxAny
  dsimp only
  split
  · exact keepsEff_stop
  · split
    · exact keepsEff_wait
    · split
      · exact keepsEff_ok (numbered_putOrLand (numbered_modLane h))
      · exact keepsEff_ok (numbered_writeRows (numbered_modLane h))

theorem keeps_effMovx {d a : Opd} {wr : Bool} {a' : Iss} (h : numbered s) : KeepsEff (effMovx d a wr a' s) :=
  keeps_effMovxAny h

theorem keeps_effMovxw {d a : Opd} {wr : Bool} {a' : Iss} (h : numbered s) : KeepsEff (effMovxw d a wr a' s) :=
  keeps_effMovxAny h

/-! ## Threads, bands and the end of a strand -/

theorem numbered_unmapRange {k : Nat} {sh : Shr} (h : numbered s) : numbered (unmapRange k sh s) := by
  unfold unmapRange
  split
  · exact h
  · dsimp only
    split
    · exact numbered_modStrand h
    · exact numbered_modLane (numbered_modStrand h)

theorem numbered_dissolve {b : BarId} (h : numbered s) : numbered (dissolve b s) :=
  h

theorem numbered_leaveBand {k key : Nat} (h : numbered s) : numbered (leaveBand k key s) := by
  unfold leaveBand
  split
  · exact h
  · dsimp only
    split
    · exact numbered_dissolve (numbered_modBand (numbered_modStrand (numbered_foldl (fun t a2 ht => numbered_unmapRange ht) h _)))
    · exact numbered_modBand (numbered_modStrand (numbered_foldl (fun t a2 ht => numbered_unmapRange ht) h _))

theorem numbered_takeMallet {k : Nat} (h : numbered s) : numbered (takeMallet k s) :=
  numbered_modStrand h

theorem numbered_passMallet {k : Nat} (h : numbered s) : numbered (passMallet k s) := by
  unfold passMallet
  split
  · exact h
  · split
    · exact h
    · split
      · exact h
      · exact numbered_takeMallet (numbered_modLaunch (numbered_modStrand h))

theorem numbered_disarmSlot {txn k n : Nat} (h : numbered s) : numbered (disarmSlot txn k n s) := by
  unfold disarmSlot
  split
  · exact h
  · split
    · exact h
    · dsimp only
      split
      · exact numbered_send (numbered_modStrand h)
      · exact numbered_modStrand h

theorem numbered_strandEnd {k : Nat} (h : numbered s) : numbered (strandEnd k s) := by
  unfold strandEnd
  split
  · exact h
  · dsimp only
    refine numbered_modLaunch (numbered_unparkQuota (numbered_modLane (numbered_modStrand (numbered_foldl
      (fun t a2 ht => numbered_unmapRange ht) (numbered_foldl (fun t a2 ht => numbered_disarmSlot ht) (numbered_foldl
        (fun t a2 ht => numbered_leaveBand ht) ?_ _) _) _))))
    split
    · exact numbered_passMallet h
    · exact h

theorem numbered_withdrawWatches {k : Nat} (h : numbered s) : numbered (withdrawWatches k s) :=
  h

theorem numbered_saveStrand {k : Nat} (h : numbered s) : numbered (saveStrand k s) := by
  unfold saveStrand
  split
  · exact h
  · exact numbered_foldl (fun t a2 ht => numbered_saveRange ht) (numbered_unparkQuota (numbered_modStrand (numbered_modLane
    (numbered_withdrawWatches h)))) _

theorem numbered_cutBack {k : Nat} (h : numbered s) : numbered (cutBack k s) := by
  unfold cutBack
  split
  · exact h
  · exact numbered_saveStrand (numbered_modStrand h)

theorem numbered_walkFill {t : TileId} {c : CtxId} {va : Nat} (h : numbered s) : numbered (s.walkFill t c va) :=
  h

theorem numbered_tlbFill {t : TileId} {e : TlbE} (h : numbered s) : numbered (s.tlbFill t e) :=
  numbered_modTile h

theorem numbered_pageFault {k va : Nat} (h : numbered s) : numbered (s.pageFault k va) := by
  unfold State.pageFault
  split
  · exact h
  · exact numbered_postBy (numbered_modStrand h)

theorem numbered_setPcs {k : Nat} {ts : List (Nat × Pc)} (h : numbered s) : numbered (setPcs k ts s) :=
  numbered_modStrand h

theorem numbered_pushAll {x : Iss} (h : numbered s) : numbered (pushAll x s) :=
  numbered_modStrand h

/-- The checks of a target come to no next state. -/
theorem keeps_targetChk {st : Strand} {t : Nat} {pc : Pc} {e : Eff} (he : targetChk s st t pc = some e) : KeepsEff e := by
  unfold targetChk at he
  split at he
  next =>
    split at he
    · cases he
    · cases he; exact keepsEff_stop
  next =>
    split at he <;> cases he
    · exact keepsEff_walk
    · exact keepsEff_stop
    · exact keepsEff_wait

theorem firstSome_inv {β γ : Type} {f : β → Option γ} {l : List β} {y : γ} (h : firstSome f l = some y) : ∃ x, f x = some y := by
  induction l with
  | nil => cases h
  | cons x xs ih =>
    unfold firstSome at h
    split at h
    next y' hy => exact ⟨x, hy.trans h⟩
    next => exact ih h

theorem keeps_targetsChk {st : Strand} {ts : List (Nat × Pc)} {e : Eff} (he : targetsChk s st ts = some e) : KeepsEff e := by
  unfold targetsChk at he
  split at he
  next => cases he; exact keepsEff_stop
  next =>
    obtain ⟨p, hp⟩ := firstSome_inv he
    exact keeps_targetChk hp

theorem keeps_branchTo {ts : List (Nat × Pc)} {x : Iss} (h : numbered s) : KeepsEff (branchTo ts x s) := by
  unfold branchTo
  split
  next he => exact keeps_targetsChk he
  next => exact keepsEff_ok (numbered_modStrand h)

theorem keeps_effBra {off : BitVec 30} {slot : BitVec 3} {a : Iss} (h : numbered s) : KeepsEff (effBra off slot a s) :=
  keeps_branchTo h

theorem keeps_effBrx {a : Iss} (h : numbered s) : KeepsEff (effBrx a s) := by
  unfold effBrx
  split
  · exact keepsEff_stop
  · exact keeps_branchTo h

theorem keeps_callTo {ts : List (Nat × Pc)} {a : Iss} (h : numbered s) : KeepsEff (callTo ts a s) := by
  unfold callTo
  split
  next he => exact keeps_targetsChk he
  · split
    · exact keepsEff_stop
    · exact keepsEff_ok (numbered_setPcs (numbered_pushAll h))

theorem keeps_effCall {off : BitVec 30} {slot : BitVec 3} {a : Iss} (h : numbered s) : KeepsEff (effCall off slot a s) :=
  keeps_callTo h

theorem keeps_effCallx {a : Iss} (h : numbered s) : KeepsEff (effCallx a s) := by
  unfold effCallx
  split
  · exact keepsEff_stop
  · exact keeps_callTo h

theorem keeps_effRet {a : Iss} (h : numbered s) : KeepsEff (effRet a s) := by
  unfold effRet
  split
  · exact keepsEff_stop
  · split
    · exact keepsEff_wait
    · dsimp only
      split
      · exact keepsEff_stop
      · exact keepsEff_ok (numbered_setPcs (numbered_modStrand h))

theorem keeps_effBpend {off : BitVec 30} {slot : BitVec 3} {test : Opd} {sense : Bool} {fmask : BitVec 12} {x : Iss} (h : numbered s) :
    KeepsEff (effBpend off slot test sense fmask x s) := by
  unfold effBpend
  dsimp only
  split
  next he => exact keeps_targetsChk he
  next =>
    refine keepsEff_ok ?_
    split
    · exact numbered_setPcs h
    · exact h

theorem numbered_exitThreads {x : Iss} (h : numbered s) : numbered (exitThreads x s) :=
  numbered_modStrand h

theorem keeps_effExit {a : Iss} (h : numbered s) : KeepsEff (effExit a s) := by
  unfold effExit
  dsimp only
  split
  · exact keepsEff_ok (numbered_exitThreads h)
  · split
    · exact keepsEff_ok (numbered_exitThreads h)
    · split
      · exact keepsEff_ok (numbered_strandEnd (numbered_exitThreads h))
      · exact keepsEff_wait

theorem keeps_effYield {a : Iss} (h : numbered s) : KeepsEff (effYield a s) := by
  unfold effYield
  refine keepsEff_ok ?_
  split
  · exact numbered_saveStrand h
  · exact h

theorem keeps_effTrap {code : BitVec 16} {a : Iss} (h : numbered s) : KeepsEff (effTrap code a s) := by
  unfold effTrap
  split
  · exact keepsEff_stop
  · split
    · exact keepsEff_stop
    · exact keepsEff_ok (numbered_enterHandler h)

theorem keeps_effBrk {code : BitVec 16} {a : Iss} (h : numbered s) : KeepsEff (effBrk code a s) :=
  keepsEff_ok (numbered_strandFault h)

theorem keeps_effMode {sel : BitVec 5} {imm : Word} {a : Iss} (h : numbered s) : KeepsEff (effMode sel imm a s) :=
  keepsEff_ok (numbered_writeRows (numbered_modStrand h))

theorem numbered_joinBand {k launch key : Nat} (h : numbered s) : numbered (joinBand k launch key s) :=
  numbered_modStrand (numbered_modBand h)

theorem keeps_effJoin {key : BitVec 4} {a : Iss} (h : numbered s) : KeepsEff (effJoin key a s) := by
  unfold effJoin
  dsimp only
  split
  · exact keepsEff_ok (numbered_writeRows h)
  · split
    · exact keepsEff_stop
    · exact keepsEff_ok (numbered_writeRows (numbered_joinBand h))

theorem keeps_effLeave {key : BitVec 4} {a : Iss} (h : numbered s) : KeepsEff (effLeave key a s) := by
  unfold effLeave
  split
  · exact keepsEff_stop
  · exact keepsEff_ok (numbered_leaveBand h)

/-! ## Links -/

theorem numbered_modPort {n port : Nat} {f : Port → Port} (h : numbered s) : numbered (s.modPort n port f) :=
  numbered_modPkg h

theorem numbered_modVc {n port v : Nat} {f : VChan → VChan} (h : numbered s) : numbered (s.modVc n port v f) :=
  numbered_modPort h

theorem numbered_sendFlit {n port : Nat} {f : Flit} (h : numbered s) : numbered (sendFlit n port f s) :=
  numbered_modPort h

theorem numbered_sendCtl {n port : Nat} {hm : BitVec 64} (h : numbered s) : numbered (sendCtl n port hm s) :=
  numbered_sendFlit h

theorem keeps_sendData {n port : Nat} {vc dst src : Nat} {payload : List Byte} (h : numbered s) :
    Keeps (sendData n port vc dst src payload s) := by
  unfold sendData
  dsimp only
  split
  · exact keeps_none
  · exact keeps_some (numbered_sendFlit (numbered_modVc h))

theorem numbered_refuseFlit {n port : Nat} {hm : BitVec 64} (h : numbered s) : numbered (refuseFlit n port hm s) :=
  numbered_sendCtl (numbered_modPort (numbered_modVc h))

theorem numbered_acceptData {n port : Nat} {vc dst src : Nat} {payload : List Byte} (h : numbered s) :
    numbered (acceptData n port vc dst src payload s) :=
  numbered_sendCtl (numbered_modVc h)

theorem keeps_leaves {r : Route} {n : Nat} (h : numbered s) : Keeps (s.leaves r n) := by
  unfold State.leaves
  split
  · exact keeps_some h
  · exact keeps_bindAny (fun a => keeps_sendData h)

theorem keeps_enters {r : Route} {n : Nat} {refused : Bool} (h : numbered s) : Keeps (s.enters r n refused) := by
  unfold State.enters
  split
  · exact keeps_some h
  · refine keeps_mapAny (fun a => ?_)
    split
    · exact numbered_refuseFlit h
    · exact numbered_acceptData h

theorem keeps_transmit {r : Route} {n : Nat} {again refused : Bool} (h : numbered s) : Keeps (s.transmit r n again refused) := by
  unfold State.transmit
  refine keeps_bind ?_ (fun t ht => keeps_enters ht)
  split
  · exact keeps_some h
  · exact keeps_leaves h

theorem numbered_retire {n : Nat} (h : numbered s) : numbered (s.retire n) := by
  unfold State.retire
  split
  · exact h
  · split
    · exact h
    · exact h

theorem numbered_sees {k rd : Nat} {acq : Option Scope} {key size : Nat} (h : numbered s) : numbered (s.sees k rd acq key size) := by
  unfold State.sees
  dsimp only
  split
  · exact h
  · exact numbered_modStrand h

theorem numbered_fenceAcquires {k : Nat} {sc : Scope} (h : numbered s) : numbered (s.fenceAcquires k sc) := by
  unfold State.fenceAcquires
  split
  · exact h
  · exact numbered_modStrand h

/-! ## Homes -/

theorem numbered_cutSyncs {key size : Nat} (h : numbered s) : numbered (s.cutSyncs key size) :=
  h

theorem numbered_noteSync {n : Nat} (h : numbered s) : numbered (noteSync s n) := by
  unfold noteSync
  split
  · exact h
  next o _ =>
    split
    · exact h
    · cases o.atom <;> exact h

theorem numbered_slotBrings {k slot : Nat} {arm key size : Nat} (h : numbered s) : numbered (s.slotBrings k slot arm key size) :=
  numbered_modStrand h

theorem numbered_evalWatches {hm : Home} {key size op : Nat} (h : numbered s) : numbered (evalWatches hm key size op s) := by
  unfold evalWatches
  dsimp only
  split
  · exact h
  · refine numbered_foldl (fun t a1 ht => ?_) (numbered_modHome h) _
    split
    · exact numbered_send (numbered_modHome (numbered_slotBrings ht))
    · exact ht

theorem numbered_placeEntry {hm : Home} {e : WEntry} (h : numbered s) : numbered (placeEntry hm e s) := by
  unfold placeEntry
  dsimp only
  split
  · exact numbered_modHome h
  · split
    · exact h
    · split
      · exact numbered_send (numbered_modHome h)
      · exact numbered_modHome h

theorem numbered_backInvalidate {pkg line : Nat} (h : numbered s) : numbered (backInvalidate pkg line s) := by
  unfold backInvalidate
  split
  · exact h
  · dsimp only
    refine numbered_foldl (fun t a ht => ?_) (numbered_modPkg h) _
    split
    · exact numbered_modStrand ht
    · exact ht

theorem numbered_backInvalidateAll {line : Nat} (h : numbered s) : numbered (backInvalidateAll line s) :=
  numbered_foldl (fun _ _ ht => numbered_backInvalidate ht) h _

theorem numbered_wakeAt {hm : Home} {key size op : Nat} (h : numbered s) : numbered (wakeAt hm key size op s) := by
  unfold wakeAt
  split
  · exact numbered_backInvalidateAll h
  · exact numbered_evalWatches h

theorem numbered_takeLine {but : Option TileId} {line : Nat} (h : numbered s) : numbered (s.takeLine but line) :=
  h

theorem numbered_dropCopies {hm : Home} {line op : Nat} (h : numbered s) : numbered (dropCopies hm line op s).2 := by
  unfold dropCopies
  split
  · exact numbered_takeLine h
  · exact numbered_foldl (fun t a1 ht => numbered_send ht) h _

theorem numbered_applyWrite {hm : Home} {key size : Nat} {v op : Nat} (h : numbered s) : numbered (applyWrite hm key size v op s).2 := by
  unfold applyWrite
  refine numbered_wakeAt ?_
  exact numbered_dropCopies (numbered_write h)

theorem numbered_unmodify {but : Option TileId} {line : Nat} (h : numbered s) : numbered (s.unmodify but line) :=
  h

theorem numbered_dropOlder {tile : TileId} {line : Nat} (h : numbered s) : numbered (s.dropOlder tile line) := by
  unfold State.dropOlder
  split
  · split
    · exact h
    · exact numbered_modTile h
  · exact h

theorem numbered_readAt {o : Op} (h : numbered s) : numbered (s.readAt o) := by
  unfold State.readAt
  dsimp only
  split
  · exact numbered_send (numbered_dropOlder h)
  · exact numbered_dropOlder h

theorem keeps_unitRead {size : Nat} {ks : List (Nat × Home)} {sel : Nat} {p : PartId} (h : numbered s) :
    KeepsFst (unitRead size ks sel p s) := by
  unfold unitRead
  dsimp only
  split
  · exact keepsFst_none
  · split
    next he1 => exact keepsFst_some (numbered_of_fst (numbered_consumeAll h) he1)
    next he1 => exact keepsFst_some (numbered_of_fst (numbered_consumeAll h) he1)

theorem numbered_refuseOp {n : Nat} {o : Op} {f : Flt} (h : numbered s) : numbered (refuseOp n o f s) :=
  numbered_send h

theorem keeps_carry {n : Nat} {r : Option Route} (h : numbered s) : Keeps (s.carry n r) := by
  unfold State.carry
  split
  · exact keeps_some h
  · split
    · exact keeps_none
    · exact keeps_transmit h

theorem keeps_arrives {n : Nat} (h : numbered s) : Keeps (s.arrives n) :=
  keeps_carry h

theorem keeps_arriveAll {ns : List Nat} (h : numbered s) : Keeps (s.arriveAll ns) := by
  refine keeps_foldl (fun o n ho => keeps_bind ho (fun t ht => ?_)) (keeps_some h) ns
  split
  · exact keeps_some ht
  · split
    · exact keeps_none
    · exact keeps_transmit ht

theorem numbered_ownLine {o : Op} (h : numbered s) : numbered (s.ownLine o) := by
  unfold State.ownLine
  dsimp only
  split
  · split
    · exact numbered_clean (numbered_modTile (numbered_backInvalidateAll (numbered_takeLine h)))
    · split
      · refine numbered_clean (numbered_modTile ?_)
        split
        · exact numbered_unmodify h
        · exact h
      · exact numbered_unmodify h
  · exact h

theorem keeps_acceptOp {n : Nat} {o : Op} (h : numbered s) : Keeps (acceptOp n o s) := by
  unfold acceptOp
  split
  · exact keeps_none
  · refine keeps_bind (keeps_carry h) (fun t ht => ?_)
    split
    · exact keeps_some (numbered_refuseOp ht)
    · dsimp only
      split
      · exact keeps_none
      · refine keeps_some ?_
        split
        · exact numbered_modHome (numbered_modOp (numbered_ownLine (numbered_crossLinks ht)))
        · exact numbered_landResult (numbered_modHome (numbered_modOp (numbered_ownLine (numbered_crossLinks ht))))

theorem keeps_acceptArm {n k : Nat} {slot arm : Nat} {va key : Nat} {hm : Home} (h : numbered s) :
    Keeps (acceptArm n k slot arm va key hm s) := by
  unfold acceptArm
  split
  · exact keeps_some (numbered_dropMsg h)
  · split
    · exact keeps_none
    · refine keeps_bind (keeps_arrives h) (fun t ht => ?_)
      dsimp only
      split
      · exact keeps_some (numbered_send (numbered_dropMsg ht))
      · split
        · exact keeps_none
        · exact keeps_some (numbered_modHome (numbered_dropMsg (numbered_crossLinks ht)))

theorem keeps_evHomeAccept {n : Nat} (h : numbered s) : Keeps (evHomeAccept n s) := by
  unfold evHomeAccept
  split
  · exact keeps_acceptOp h
  · split
    · exact keeps_acceptArm h
    · exact keeps_none

theorem numbered_applyOne {tiles : List TileId} {wrote : Bool} {lead : Nat} {r : Nat × Nat} (h : numbered s) :
    numbered (applyOne tiles wrote lead s r) := by
  unfold applyOne
  split
  · exact h
  · dsimp only
    refine numbered_retire ?_
    split
    · split
      · exact numbered_sees (numbered_readAt (numbered_ownLine (numbered_modOp h)))
      · exact numbered_ownLine (numbered_modOp h)
    · split
      · refine numbered_send (numbered_modOp ?_)
        split
        · exact numbered_sees (numbered_readAt (numbered_ownLine (numbered_modOp h)))
        · exact numbered_ownLine (numbered_modOp h)
      · refine numbered_send ?_
        split
        · exact numbered_sees (numbered_readAt (numbered_ownLine (numbered_modOp h)))
        · exact numbered_ownLine (numbered_modOp h)

theorem numbered_applyAlso {tiles : List TileId} {lead n : Nat} (h : numbered s) : numbered (applyAlso tiles lead s n) :=
  numbered_retire (numbered_modOp h)

theorem numbered_refuseEntry {e : QEnt} {cause : Nat} (h : numbered s) : numbered (refuseEntry e cause s) := by
  unfold refuseEntry
  dsimp only
  refine numbered_foldl (fun t a ht => ?_) (numbered_foldl (fun t a ht => numbered_applyAlso ht) h _) _
  split
  · exact numbered_refuseOp ht
  · exact ht

theorem numbered_popQueue {hm : Home} (h : numbered s) : numbered (popQueue hm s) :=
  numbered_modHome h

theorem numbered_applyEntry {hm : Home} {e : QEnt} (h : numbered s) : numbered (applyEntry hm e s) := by
  unfold applyEntry
  dsimp only
  refine numbered_foldl (fun t n ht => numbered_applyAlso ht) (numbered_foldl (fun t r ht => numbered_applyOne ht) ?_ _) _
  split
  · exact numbered_applyWrite (numbered_foldl (fun t n ht => numbered_noteSync ht) h _)
  · exact h

theorem keeps_evHomeApply {hm : Home} (h : numbered s) : Keeps (evHomeApply hm s) := by
  unfold evHomeApply
  split
  · exact keeps_none
  · dsimp only
    split
    · exact keeps_none
    · split
      next he2 => exact keeps_some (numbered_popQueue (numbered_refuseEntry (numbered_of_fst (numbered_consume h) he2)))
      next he2 => exact keeps_some (numbered_applyEntry (numbered_popQueue (numbered_of_fst (numbered_consume h) he2)))

theorem numbered_watchCopy {hm : Home} {line : Nat} (h : numbered s) : numbered (watchCopy hm line s) := by
  unfold watchCopy
  split
  · split
    · exact h
    · exact numbered_evalWatches (numbered_modPkg h)
  · exact h

theorem keeps_evWatchArm {hm : Home} (h : numbered s) : Keeps (evWatchArm hm s) := by
  unfold evWatchArm
  split
  · exact keeps_none
  · split
    · exact keeps_none
    · split
      · exact keeps_none
      · dsimp only
        split
        · exact keeps_some (numbered_popQueue h)
        · split
          · exact keeps_some (numbered_send (numbered_popQueue h))
          · split
            next he5 => exact keeps_some (numbered_send (numbered_of_fst (numbered_consume (numbered_popQueue h)) he5))
            next he5 =>
              split
              · exact keeps_some (numbered_send (numbered_slotBrings (numbered_dropOlder (numbered_of_fst (numbered_consume
                (numbered_popQueue h)) he5))))
              · exact keeps_some (numbered_send (numbered_watchCopy (numbered_placeEntry (numbered_of_fst (numbered_consume
                (numbered_popQueue h)) he5))))

theorem keeps_evInvalidationArrival {n : Nat} (h : numbered s) : Keeps (evInvalidationArrival n s) := by
  unfold evInvalidationArrival
  split
  · exact keeps_map (keeps_arrives h) (fun t ht => numbered_send (numbered_modTile (numbered_dropMsg ht)))
  · exact keeps_none

theorem keeps_evInvalidationAcknowledgement {n : Nat} (h : numbered s) : Keeps (evInvalidationAcknowledgement n s) := by
  unfold evInvalidationAcknowledgement
  split
  · exact keeps_map (keeps_arrives h) (fun t ht => numbered_foldl (fun t1 a3 ht1 => numbered_retire (numbered_modOp ht1))
    (numbered_dropMsg ht) _)
  · exact keeps_none

theorem keeps_evTileCacheFill {n : Nat} (h : numbered s) : Keeps (evTileCacheFill n s) := by
  unfold evTileCacheFill
  split
  · refine keeps_map (keeps_arrives h) (fun t ht => ?_)
    split
    · exact numbered_dropMsg ht
    · refine numbered_clean (numbered_modTile ?_)
      split
      · exact numbered_unmodify (numbered_dropMsg ht)
      · exact numbered_dropMsg ht
  · exact keeps_none

theorem keeps_evImpreciseFaultReport {n : Nat} (h : numbered s) : Keeps (evImpreciseFaultReport n s) := by
  unfold evImpreciseFaultReport
  split
  · dsimp only
    split
    · split
      · exact keeps_none
      · split
        · exact keeps_none
        · exact keeps_some (numbered_impreciseFault h)
    · split
      · exact keeps_none
      · split
        · exact keeps_none
        · exact keeps_some (numbered_impreciseFault h)
  · exact keeps_none

theorem numbered_dropOps {ids : List Nat} (h : numbered s) : numbered (dropOps ids s) :=
  h

theorem keeps_evPendingRewrite {hm : Home} {i : Nat} {rw : Rewrite} (h : numbered s) : Keeps (evPendingRewrite hm i rw s) := by
  unfold evPendingRewrite
  dsimp only
  split
  · exact keeps_none
  · split
    · exact keeps_none
    · split
      · exact keeps_none
      · split
        · exact keeps_none
        · exact keeps_some (numbered_dropOps (numbered_modHome h))

/-! ## Accesses to memory -/

/-- The checks of an access come to no next state. -/
theorem keeps_checkAll {x : Iss} {need : Need} {size : Nat} {page : Place → Option Flt} {l : List (Nat × Dword)} {e : Eff}
    (he : checkAll s x need size page l = .error e) : KeepsEff e := by
  induction l with
  | nil => cases he
  | cons a l ih =>
    unfold checkAll at he
    split at he
    · cases he; exact keepsEff_walk
    · cases he; exact keepsEff_stop
    · split at he
      · cases he; exact keepsEff_stop
      · split at he
        next => cases he
        next e' he' => cases he; exact ih he'

theorem numbered_returnNow {o : Op} {v : Nat} (h : numbered s) : numbered (returnNow o v s) := by
  unfold returnNow
  split
  · exact numbered_send h
  · exact numbered_send (numbered_uid h (Nat.le_add_right ..))

theorem numbered_storeLeaves {x : Iss} {key : Nat} (h : numbered s) : numbered (storeLeaves x key s) :=
  numbered_modStrand (numbered_modTile h)

theorem numbered_leave {x : Iss} {n : Nat} {sp : OpSpec} {a : Access} (h : numbered s) : numbered (leave x n sp s a) := by
  unfold leave
  split
  · split
    · exact numbered_returnNow h
    · exact numbered_send (numbered_modStrand h)
  · dsimp only
    split
    · split
      next he2 => exact numbered_returnNow (numbered_sees (numbered_of_fst (numbered_consume h) he2))
      next he2 => exact numbered_send (numbered_of_fst (numbered_consume h) he2)
    · refine numbered_uid ?_ (Nat.le_add_right ..)
      split
      · exact h
      · exact numbered_storeLeaves h

theorem keeps_issueAccesses {sp : OpSpec} {as : List Access} {a : Iss} (h : numbered s) : KeepsEff (issueAccesses sp as a s) := by
  unfold issueAccesses
  dsimp only
  split
  · exact keepsEff_wait
  · exact keepsEff_ok (numbered_foldl (fun t a1 ht => numbered_leave ht) (numbered_openTxn h) _)

theorem keeps_loadEff {d : Opd} {m : Addr} {ty : Ty} {mm : MemMod} {a : Iss} (h : numbered s) : KeepsEff (loadEff d m ty mm a s) := by
  unfold loadEff
  split
  next he => exact keeps_checkAll he
  · exact keeps_issueAccesses h

theorem keeps_storeEff {m : Addr} {ty : Ty} {mm : MemMod} {a : Iss} (h : numbered s) : KeepsEff (storeEff m ty mm a s) := by
  unfold storeEff
  split
  next he => exact keeps_checkAll he
  · exact keeps_issueAccesses h

theorem keeps_effLd {d : Opd} {m : Addr} {ty : Ty} {mm : MemMod} {a : Iss} (h : numbered s) : KeepsEff (effLd d m ty mm a s) :=
  keeps_loadEff h

theorem keeps_effSt {m : Addr} {ty : Ty} {mm : MemMod} {a : Iss} (h : numbered s) : KeepsEff (effSt m ty mm a s) :=
  keeps_storeEff h

theorem keeps_effLdu {d : Opd} {m : Addr} {ty : Ty} {mm : MemMod} {a : Iss} (h : numbered s) : KeepsEff (effLdu d m ty mm a s) :=
  keeps_loadEff h

theorem keeps_effStu {m : Addr} {ty : Ty} {mm : MemMod} {a : Iss} (h : numbered s) : KeepsEff (effStu m ty mm a s) :=
  keeps_storeEff h

theorem keeps_effLdb {d : Opd} {m : Addr} {ty : Ty} {mm : MemMod} {a : Iss} (h : numbered s) : KeepsEff (effLdb d m ty mm a s) := by
  unfold effLdb
  split
  next he => exact keeps_checkAll he
  · exact keeps_issueAccesses h

theorem keeps_effStb {d : Opd} {m : Addr} {ty : Ty} {mm : MemMod} {a : Iss} (h : numbered s) : KeepsEff (effStb d m ty mm a s) := by
  unfold effStb
  dsimp only
  split
  next he => exact keeps_checkAll he
  · split
    · exact keepsEff_stop
    · exact keeps_issueAccesses h

theorem numbered_prefetch {x : Iss} {low : Bool} {va : Dword} (h : numbered s) : numbered (prefetch x low s va) := by
  unfold prefetch
  dsimp only
  split
  · exact h
  · split
    · split
      · exact numbered_send h
      · exact h
    · exact h

theorem keeps_effPref {m : Addr} {low : Bool} {a : Iss} (h : numbered s) : KeepsEff (effPref m low a s) :=
  keepsEff_ok (numbered_foldl (fun _ _ ht => numbered_prefetch ht) h _)

theorem numbered_writeBack {x : Iss} {n : Nat} {drop : Bool} {a : Access} (h : numbered s) : numbered (writeBack x n drop s a) := by
  unfold writeBack
  split
  · dsimp only
    split
    · split
      · exact numbered_send h
      · refine numbered_send ?_
        split
        · exact numbered_modTile h
        · exact h
    · exact numbered_send h
  · exact numbered_send h

theorem keeps_cacheEff {drop : Bool} {m : Addr} {x : Iss} (h : numbered s) : KeepsEff (cacheEff drop m x s) := by
  unfold cacheEff
  split
  next he => exact keeps_checkAll he
  next => exact keepsEff_ok (numbered_foldl (fun _ _ ht => by exact numbered_writeBack ht) (numbered_openTxn h) _)

theorem keeps_effCwb {m : Addr} {a : Iss} (h : numbered s) : KeepsEff (effCwb m a s) :=
  keeps_cacheEff h

theorem keeps_effCinv {m : Addr} {a : Iss} (h : numbered s) : KeepsEff (effCinv m a s) :=
  keeps_cacheEff h

theorem keeps_atomEff {d : Opd} {m : Addr} {ty : Ty} {opr : Nat} {fetch : Bool} {am : AtomMod} {a : Iss} (h : numbered s) :
    KeepsEff (atomEff d m ty opr fetch am a s) := by
  unfold atomEff
  split
  next he => exact keeps_checkAll he
  · exact keeps_issueAccesses h

theorem keeps_effAtom {d : Opd} {m : Addr} {ty : Ty} {opc : BitVec 4} {am : AtomMod} {a : Iss} (h : numbered s) :
    KeepsEff (effAtom d m ty opc am a s) :=
  keeps_atomEff h

theorem keeps_effRed {d : Opd} {m : Addr} {ty : Ty} {opc : BitVec 4} {am : AtomMod} {a : Iss} (h : numbered s) :
    KeepsEff (effRed d m ty opc am a s) :=
  keeps_atomEff h

theorem keeps_effCas {d : Opd} {m : Addr} {ty : Ty} {am : AtomMod} {a : Iss} (h : numbered s) : KeepsEff (effCas d m ty am a s) := by
  unfold effCas
  split
  next he => exact keeps_checkAll he
  · exact keeps_issueAccesses h

theorem keeps_effFence {ord : BitVec 2} {scope : Scope} {a : Iss} (h : numbered s) : KeepsEff (effFence ord scope a s) :=
  keepsEff_ok (numbered_send (numbered_modStrand (numbered_uid h (Nat.le_add_right ..))))

theorem numbered_answer {x : Iss} {d : Opd} {v : Word} (h : numbered s) : numbered (answer x d v s) :=
  numbered_send (numbered_uid h (Nat.le_add_right ..))

theorem keepsFst_map {α β : Type} {o : Option (State × α)} {f : State × α → State × β} (ho : KeepsFst o)
    (hf : ∀ p, numbered p.1 → numbered (f p).1) : KeepsFst (o.map f) := by
  cases o with
  | none => exact keepsFst_none
  | some p => exact keepsFst_some (hf p (ho p rfl))

theorem keeps_pairRead {x : Iss} {tile key : Nat} (h : numbered s) : KeepsFst (pairRead x tile key s) := by
  unfold pairRead
  split
  · exact keepsFst_some h
  · exact keepsFst_map (keeps_unitRead h) (fun p hp => hp)

theorem numbered_reportAt {x : Iss} {d : Opd} {va : Nat} {f : Flt} (h : numbered s) : numbered (reportAt x d va f s) :=
  numbered_send (numbered_uid h (Nat.le_add_right ..))

theorem numbered_readsPair {x : Iss} {acq : Option Scope} {key : Nat} (h : numbered s) : numbered (readsPair x acq key s) :=
  numbered_sees (numbered_dropOlder (numbered_dropOlder h))

theorem keeps_effAlgld {d : Opd} {m : Addr} {a : Iss} (h : numbered s) : KeepsEff (effAlgld d m a s) := by
  unfold effAlgld
  split
  · exact keepsEff_walk
  · exact keepsEff_stop
  · exact keepsEff_stop
  · split
    · exact keepsEff_wait
    · dsimp only
      split
      · exact keepsEff_wait
      next he2 => exact keepsEff_ok (numbered_reportAt (keeps_pairRead h _ he2))
      next he2 =>
        split
        · exact keepsEff_ok (numbered_answer (numbered_readsPair (keeps_pairRead h _ he2)))
        · exact keepsEff_ok (numbered_answer (numbered_modCtx (numbered_readsPair (keeps_pairRead h _ he2))))

theorem keeps_effAlgrd {d : Opd} {a : Iss} (h : numbered s) : KeepsEff (effAlgrd d a s) :=
  keepsEff_ok (numbered_answer h)

theorem keeps_effAlgclr {a : Iss} (h : numbered s) : KeepsEff (effAlgclr a s) := by
  unfold effAlgclr
  split
  · exact keepsEff_wait
  · exact keepsEff_ok (numbered_send (numbered_modCtx (numbered_uid h (Nat.le_add_right ..))))

/-! ## Watches, barriers, shared ranges and queues -/

theorem numbered_completeIdle {k : Nat} {ns : List Nat} (h : numbered s) : numbered (completeIdle k ns s) := by
  unfold completeIdle
  refine numbered_foldl (fun t a ht => ?_) h _
  split
  · split
    · exact ht
    · exact numbered_completeTxn ht
  · exact ht

theorem numbered_releaseThreads {k : Nat} {rs : List (Nat × Word)} (h : numbered s) : numbered (releaseThreads k rs s) := by
  unfold releaseThreads
  split
  · exact h
  · exact numbered_completeIdle (numbered_modStrand (numbered_landWords h))

theorem numbered_releasePhase {k key phase : Nat} (h : numbered s) : numbered (releasePhase k key phase s) := by
  unfold releasePhase
  split
  · exact h
  · exact numbered_releaseThreads h

theorem numbered_completionArrives {k key phase : Nat} {before : List Nat} (h : numbered s) :
    numbered (completionArrives k key phase before s) := by
  unfold completionArrives
  split
  · exact h
  · dsimp only
    split
    · split
      · exact numbered_releasePhase (numbered_modStrand (numbered_modStrand h))
      · exact numbered_modStrand (numbered_modStrand h)
    · split
      · exact numbered_releasePhase (numbered_modStrand h)
      · exact numbered_modStrand h

theorem numbered_dozeCheck {k : Nat} (h : numbered s) : numbered (dozeCheck k s) := by
  unfold dozeCheck
  split
  · exact h
  · split
    · exact h
    · exact numbered_modStrand (numbered_releaseThreads h)

theorem numbered_releaseRecorded {k : Nat} (h : numbered s) : numbered (releaseRecorded k s) := by
  unfold releaseRecorded
  split
  · exact h
  · dsimp only
    split
    · split
      · exact h
      · exact numbered_unparkQuota (numbered_unparkBranch (numbered_dozeCheck (numbered_modStrand (numbered_foldl
        (fun t a2 ht => numbered_releasePhase ht) h _))))
    · split
      · exact numbered_modStrand h
      · exact numbered_unparkQuota (numbered_unparkBranch (numbered_dozeCheck (numbered_modStrand (numbered_foldl
        (fun t a2 ht => numbered_releasePhase ht) (numbered_modStrand h) _))))

theorem numbered_sendBar {x : Iss} {key txn n : Nat} {kind : BarKind} (h : numbered s) : numbered (sendBar x key txn n kind s) :=
  numbered_send h

theorem numbered_holdFor {x : Iss} {txn : Nat} (h : numbered s) : numbered (holdFor x txn s) :=
  numbered_modStrand h

theorem keeps_barEff {key : BitVec 4} {arrives : Bool} {f : Effect} {x : Iss} (hf : KeepsEff (f x s)) : KeepsEff
  (barEff key arrives f x s) := by
  unfold barEff
  split
  · exact keepsEff_stop
  · split
    · exact keepsEff_wait
    · exact hf

theorem keeps_effBari {key : BitVec 4} {dom : Bool} {a : Iss} (h : numbered s) : KeepsEff (effBari key dom a s) := by
  unfold effBari
  refine keeps_barEff ?_
  dsimp only
  split
  · exact keepsEff_stop
  · exact keepsEff_ok (numbered_holdFor (numbered_sendBar (numbered_openTxn h)))

theorem keeps_effBara {d : Opd} {key : BitVec 4} {a : Iss} (h : numbered s) : KeepsEff (effBara d key a s) := by
  unfold effBara
  refine keeps_barEff ?_
  split
  · exact keepsEff_ok (numbered_sendBar h)
  · exact keepsEff_ok (numbered_holdFor (numbered_sendBar (numbered_uid h (Nat.le_add_right ..))))

theorem keeps_effBarw {d : Opd} {key : BitVec 4} {a : Iss} (h : numbered s) : KeepsEff (effBarw d key a s) :=
  keeps_barEff (keepsEff_ok (numbered_sendBar (numbered_modStrand (numbered_uid h (Nat.le_add_right ..)))))

theorem keeps_effBard {key : BitVec 4} {a : Iss} (h : numbered s) : KeepsEff (effBard key a s) :=
  keeps_barEff (keepsEff_ok (numbered_sendBar h))

theorem keeps_effBarq {d : Opd} {key : BitVec 4} {a : Iss} (h : numbered s) : KeepsEff (effBarq d key a s) :=
  keeps_barEff (keepsEff_ok (numbered_holdFor (numbered_sendBar (numbered_uid h (Nat.le_add_right ..)))))

theorem keeps_effWatch {m : Addr} {ty : Ty} {cmp slot : BitVec 2} {a : Iss} (h : numbered s) : KeepsEff (effWatch m ty cmp slot a s) := by
  unfold effWatch
  dsimp only
  split
  · exact keepsEff_walk
  · exact keepsEff_stop
  · exact keepsEff_stop
  · split
    · exact keepsEff_stop
    · exact keepsEff_ok (numbered_send (numbered_modStrand (numbered_disarmSlot (numbered_openTxn h))))

theorem keeps_effDoze {d a : Opd} {sel : BitVec 4} {a' : Iss} (h : numbered s) : KeepsEff (effDoze d a sel a' s) :=
  keepsEff_ok (numbered_modStrand (numbered_uid h (Nat.le_add_right ..)))

theorem keeps_effUnwatch {sel : BitVec 4} {a : Iss} (h : numbered s) : KeepsEff (effUnwatch sel a s) := by
  unfold effUnwatch
  dsimp only
  refine keepsEff_ok ?_
  split
  · exact numbered_send (numbered_foldl (fun t a1 ht => numbered_disarmSlot ht) (numbered_openTxn h) _)
  · exact numbered_foldl (fun t a1 ht => numbered_disarmSlot ht) (numbered_openTxn h) _

theorem numbered_mapRange {x : Iss} {sh : Shr} (h : numbered s) : numbered (mapRange x sh s) := by
  unfold mapRange
  dsimp only
  refine numbered_modStrand ?_
  split
  · exact h
  · exact numbered_modLane h

theorem keeps_effShrmap {d : Opd} {cnt : BitVec 6} {key rid : BitVec 4} {a : Iss} (h : numbered s) :
    KeepsEff (effShrmap d cnt key rid a s) := by
  unfold effShrmap
  dsimp only
  split
  · exact keepsEff_stop
  · exact keepsEff_ok (numbered_mapRange h)

theorem keeps_effShrunmap {d : Opd} {a : Iss} (h : numbered s) : KeepsEff (effShrunmap d a s) := by
  unfold effShrunmap
  split
  · exact keepsEff_ok (numbered_unmapRange h)
  · exact keepsEff_stop

theorem numbered_setFull {x : Iss} {sh : Shr} {f : Assoc Nat Nat → Assoc Nat Nat} (h : numbered s) : numbered (setFull x sh f s) :=
  numbered_modLane h

theorem keeps_effFerd {a : Opd} {a' : Iss} (h : numbered s) : KeepsEff (effFerd a a' s) := by
  unfold effFerd
  split
  · exact keepsEff_stop
  · split
    · exact keepsEff_ok (numbered_setFull (numbered_writeRows h))
    · exact keepsEff_cond

theorem keeps_effFewr {d : Opd} {a : Iss} (h : numbered s) : KeepsEff (effFewr d a s) := by
  unfold effFewr
  split
  · exact keepsEff_stop
  · split
    · dsimp only
      refine keepsEff_ok ?_
      split
      · exact numbered_send (numbered_openTxn (numbered_setFull (numbered_putRegs h)))
      · exact numbered_setFull (numbered_putRegs h)
    · exact keepsEff_cond

theorem keeps_effQcfg {d : Opd} {qn : BitVec 5} {unb : Bool} {a : Iss} (h : numbered s) : KeepsEff (effQcfg d qn unb a s) := by
  unfold effQcfg
  split
  · exact keepsEff_ok h
  · split
    · exact keepsEff_ok (numbered_modStrand h)
    · dsimp only
      split
      · exact keepsEff_stop
      · exact keepsEff_ok (numbered_modStrand h)

theorem keeps_effQstat {a : Opd} {a' : Iss} (h : numbered s) : KeepsEff (effQstat a a' s) := by
  unfold effQstat
  split
  · exact keepsEff_stop
  · exact keepsEff_ok (numbered_writeRows h)

theorem keeps_effTokw {a : Iss} (h : numbered s) : KeepsEff (effTokw a s) := by
  unfold effTokw
  split
  · exact keepsEff_ok h
  · exact keepsEff_ok (numbered_modStrand h)

theorem keeps_effTokp {a : Iss} (h : numbered s) : KeepsEff (effTokp a s) := by
  unfold effTokp
  split
  · exact keepsEff_ok h
  · split
    · exact keepsEff_stop
    · split
      · exact keepsEff_wait
      · exact keepsEff_ok (numbered_passMallet h)

/-! ## Buffers -/

theorem numbered_tableAnswer {x : Iss} {d : Opd} {v : Word} (h : numbered s) : numbered (tableAnswer x d v s) :=
  numbered_holdFor (numbered_send (numbered_uid h (Nat.le_add_right ..)))

theorem numbered_sendReq {x : Iss} {d : Opd} {tc : TileCtx} {buf : Nat} {r : BufReq} (h : numbered s) :
    numbered (sendReq x d tc buf r s) := by
  unfold sendReq
  refine numbered_holdFor (numbered_send ?_)
  split
  · exact numbered_modTc (numbered_uid h (Nat.le_add_right ..))
  · exact numbered_uid h (Nat.le_add_right ..)

theorem keeps_bufEff {buf : Nat} {f : Nat → Option Buf → Effect} {x : Iss} (hf : ∀ tile b, KeepsEff (f tile b x s)) :
    KeepsEff (bufEff buf f x s) := by
  unfold bufEff
  dsimp only
  split
  · exact keepsEff_stop
  · split
    · exact keepsEff_wait
    · exact hf _ _

theorem keeps_reqEff {buf : Nat} {r : BufReq} {a : Iss} (h : numbered s) : KeepsEff (reqEff buf r a s) := by
  unfold reqEff
  refine keeps_bufEff (fun tile1 b1 => ?_)
  split
  · split
    · exact keepsEff_ok (numbered_sendReq h)
    · exact keepsEff_stop
  · exact keepsEff_stop

theorem keeps_effBdecl {m : Addr} {buf : BitVec 6} {a : Iss} (h : numbered s) : KeepsEff (effBdecl m buf a s) := by
  unfold effBdecl
  dsimp only
  split
  · exact keepsEff_stop
  · split
    · exact keepsEff_stop
    · split
      · exact keepsEff_wait
      · split
        · exact keepsEff_stop
        · exact keepsEff_ok (numbered_tableAnswer (numbered_modTc h))

theorem keeps_effBset {d : Opd} {buf : BitVec 6} {tmo : BitVec 2} {try_ : Bool} {a : Iss} (h : numbered s) :
    KeepsEff (effBset d buf tmo try_ a s) := by
  unfold effBset
  refine keeps_bufEff (fun tile1 b1 => ?_)
  split
  · exact keepsEff_stop
  · split
    · split
      · exact keepsEff_ok (numbered_tableAnswer h)
      · exact keepsEff_stop
    · split
      · exact keepsEff_ok (numbered_sendReq h)
      · split
        · exact keepsEff_ok (numbered_tableAnswer h)
        · exact keepsEff_stop

theorem keeps_effBrel {buf : BitVec 6} {a : Iss} (h : numbered s) : KeepsEff (effBrel buf a s) :=
  keeps_reqEff h

theorem keeps_effBqry {d : Opd} {buf : BitVec 6} {a : Iss} (h : numbered s) : KeepsEff (effBqry d buf a s) := by
  unfold effBqry
  dsimp only
  split
  · exact keepsEff_stop
  · exact keepsEff_ok (numbered_tableAnswer h)

theorem keeps_effStat {buf : BitVec 6} {a : Iss} (h : numbered s) : KeepsEff (effStat buf a s) :=
  keeps_reqEff h

theorem keeps_effUnstat {buf : BitVec 6} {a : Iss} (h : numbered s) : KeepsEff (effUnstat buf a s) :=
  keeps_reqEff h

theorem keeps_evBufferStateChange {n : Nat} (h : numbered s) : Keeps (evBufferStateChange n s) := by
  unfold evBufferStateChange
  split
  · dsimp only
    split
    · exact keeps_some (numbered_landResult (numbered_dropMsg h))
    · split
      · exact keeps_none
      · exact keeps_some (numbered_landResult (numbered_modTc (numbered_dropMsg h)))
  · exact keeps_none

/-! ## Task queues and accumulators -/

theorem numbered_unitFault {p : PartId} {u : UnitId} {f : Flt} {k : Nat} {pc : Pc} {ust : Nat} (h : numbered s) :
    numbered (s.unitFault p u f k pc ust) :=
  numbered_putStop (numbered_impreciseFault h)

theorem numbered_faultBack {n : Nat} {f : Flt} (h : numbered s) : numbered (faultBack n f s) := by
  unfold faultBack
  split
  · exact h
  · dsimp only
    split
    · exact numbered_preciseFault (numbered_setPcs (numbered_modStrand (numbered_completeTxn h)))
    · exact numbered_drainFault (numbered_modStrand (numbered_modStrand (numbered_completeTxn h)))

theorem numbered_engineFill {tc : TileCtx} {va : Nat} (h : numbered s) : numbered (engineFill tc s va) := by
  unfold engineFill
  dsimp only
  split
  · exact h
  · split
    · exact numbered_tlbFill (numbered_walkFill h)
    · exact numbered_walkFill h

theorem numbered_bareWrite {c : CtxId} {hm : Home} {key size v : Nat} (h : numbered s) : numbered (bareWrite c hm key size v s).2 := by
  unfold bareWrite
  split
  next he => exact numbered_of_fst (numbered_consume h) he
  next t he =>
    have ht : numbered t := numbered_of_fst (numbered_consume h) he
    have hw : numbered (applyWrite hm key size v (t.uid + 1) { t.cutSyncs key size with uid := t.uid + 1 }).2 :=
      numbered_applyWrite (numbered_uid (numbered_cutSyncs ht) (Nat.le_add_right ..))
    dsimp only
    split
    · exact hw
    · exact hw

theorem numbered_place {k bit n : Nat} (h : numbered s) : numbered (place k bit n s) :=
  numbered_modStrand h

theorem numbered_unplace {k n : Nat} (h : numbered s) : numbered (unplace k n s) :=
  numbered_modStrand h

theorem keeps_tileEff {pos : Pos} {f : Nat → Effect} {x : Iss} (hf : ∀ tile, KeepsEff (f tile x s)) : KeepsEff (tileEff pos f x s) := by
  unfold tileEff
  dsimp only
  split
  · exact keepsEff_stop
  · exact hf _

theorem numbered_ringSweep {tc : TileCtx} (h : numbered s) : numbered (ringSweep tc s) :=
  numbered_foldl (fun _ _ ht => numbered_unplace ht) (numbered_modTc h) _

theorem numbered_slotSweep {tc : TileCtx} (h : numbered s) : numbered (slotSweep tc s) := by
  unfold slotSweep
  dsimp only
  split
  · exact h
  · exact numbered_ringSweep (numbered_foldl (fun t a1 ht => numbered_unplace ht) (numbered_modTc h) _)

theorem numbered_leaveQueue {tc : TileCtx} {i : TItem} (h : numbered s) : numbered (leaveQueue tc i s) :=
  numbered_slotSweep (numbered_unplace (numbered_modTc h))

theorem numbered_cutTile {p : PartId} {t : Nat} (h : numbered s) : numbered (s.cutTile p t) :=
  h

theorem numbered_schedFault {tc : TileCtx} {f : Flt} {k txn : Nat} {pc : Pc} (h : numbered s) : numbered (schedFault tc f k txn pc s) :=
  numbered_cutTile (numbered_unitFault h)

theorem numbered_itemFault {tc : TileCtx} {i : TItem} {f : Flt} (h : numbered s) : numbered (itemFault tc i f s) :=
  numbered_schedFault (numbered_modTc h)

theorem keeps_effOclaim {d : Opd} {slot : BitVec 4} {try_ : Bool} {a : Iss} (h : numbered s) : KeepsEff (effOclaim d slot try_ a s) := by
  unfold effOclaim
  refine keeps_tileEff (fun tile1 => ?_)
  dsimp only
  split
  · exact keepsEff_ok (numbered_tableAnswer (numbered_modTc h))
  · split
    · exact keepsEff_ok (numbered_tableAnswer h)
    · exact keepsEff_stop

theorem keeps_effOrels {slot : BitVec 4} {a : Iss} (h : numbered s) : KeepsEff (effOrels slot a s) := by
  unfold effOrels
  refine keeps_tileEff (fun tile1 => ?_)
  dsimp only
  split
  · exact keepsEff_cond
  · split
    · exact keepsEff_wait
    · split
      · exact keepsEff_stop
      · exact keepsEff_ok (numbered_tableAnswer (numbered_slotSweep (numbered_place (numbered_modTc (numbered_newId h)))))

theorem keeps_effOput {d : Opd} {slot : BitVec 4} {sealed : Bool} {a : Iss} (h : numbered s) : KeepsEff (effOput d slot sealed a s) := by
  unfold effOput
  refine keeps_tileEff (fun tile1 => ?_)
  dsimp only
  split
  · exact keepsEff_stop
  · exact keepsEff_ok (numbered_send (numbered_openTxn h))

theorem keeps_evOputApply {n : Nat} (h : numbered s) : Keeps (evOputApply n s) := by
  unfold evOputApply
  split
  · split
    · exact keeps_none
    · split
      · exact keeps_some (numbered_schedFault (numbered_dropMsg h))
      · dsimp only
        split
        · exact keeps_some (numbered_schedFault (numbered_dropMsg h))
        · refine keeps_some (numbered_landResult (numbered_modTc ?_))
          split
          · exact numbered_clean (numbered_dropMsg h)
          · exact numbered_dropMsg h
  · exact keeps_none

theorem numbered_enqueue {x : Iss} {tile : Nat} {acc : Option Nat} {dst : Opd} {kind : TKind} (h : numbered s) :
    numbered (enqueue x tile acc dst kind s) :=
  numbered_send (numbered_place (numbered_modTc (numbered_uid h (Nat.le_add_right ..))))

theorem keeps_itemEff {pos : Pos} {held : Bool} {f : Nat → Effect} {x : Iss} (hf : ∀ tile, KeepsEff (f tile x s)) :
    KeepsEff (itemEff pos held f x s) := by
  refine keeps_tileEff (fun tile => ?_)
  split
  · exact keepsEff_cond
  · split
    · exact keepsEff_wait
    · exact hf tile

theorem keeps_effTask {spec : Bool} {a : Iss} (h : numbered s) : KeepsEff (effTask spec a s) := by
  unfold effTask
  refine keeps_itemEff (fun tile1 => ?_)
  dsimp only
  split
  · exact keepsEff_stop
  · exact keepsEff_ok (numbered_enqueue h)

theorem keeps_effAccz {acc : BitVec 5} {kind : BitVec 2} {a : Iss} (h : numbered s) : KeepsEff (effAccz acc kind a s) :=
  keeps_itemEff (fun _ => keepsEff_ok (numbered_enqueue h))

theorem keeps_colEff {pos first : Pos} {acc : BitVec 5} {cnt : BitVec 4} {f : Nat → Nat → Effect} {x : Iss}
    (hf : ∀ tile c0, KeepsEff (f tile c0 x s)) : KeepsEff (colEff pos first acc cnt f x s) := by
  refine keeps_itemEff (fun tile => ?_)
  dsimp only
  split
  · exact keepsEff_stop
  · exact hf _ _

theorem keeps_effAccrd {d : Opd} {acc : BitVec 5} {ty : Ty} {rm : Rm} {sat sh : Bool} {cnt : BitVec 4} {a : Iss} (h : numbered s) :
    KeepsEff (effAccrd d acc ty rm sat sh cnt a s) :=
  keeps_colEff (fun _ _ => keepsEff_ok (numbered_enqueue h))

theorem keeps_effAccwr {acc : BitVec 5} {ty : Ty} {cnt : BitVec 4} {a : Iss} (h : numbered s) : KeepsEff (effAccwr acc ty cnt a s) :=
  keeps_colEff (fun _ _ => keepsEff_ok (numbered_enqueue h))

theorem keeps_effAcccmt {acc : BitVec 5} {a : Iss} (h : numbered s) : KeepsEff (effAcccmt acc a s) :=
  keeps_itemEff (fun _ => keepsEff_ok (numbered_enqueue h))

theorem keeps_effAccdsc {acc : BitVec 5} {a : Iss} (h : numbered s) : KeepsEff (effAccdsc acc a s) :=
  keeps_itemEff (fun _ => keepsEff_ok (numbered_enqueue h))

theorem keeps_effTwait {acc : BitVec 5} {all : Bool} {a : Iss} (h : numbered s) : KeepsEff (effTwait acc all a s) :=
  keeps_itemEff (fun _ => keepsEff_ok (numbered_enqueue h))

theorem keeps_evTaskQueueAccept {n : Nat} (h : numbered s) : Keeps (evTaskQueueAccept n s) := by
  unfold evTaskQueueAccept
  split
  · split
    · exact keeps_none
    · exact keeps_some (numbered_modTc (numbered_dropMsg h))
  · exact keeps_none

theorem numbered_startTask {tc : TileCtx} {i : TItem} {acc : Nat} {spec : Bool} (h : numbered s) : numbered (startTask tc i acc spec s) :=
  numbered_modTc h

theorem keeps_evTaskStart {tc : TileCtx} {acc : Nat} (h : numbered s) : Keeps (evTaskStart tc acc s) := by
  unfold evTaskStart
  split
  · split
    · dsimp only
      split
      · exact keeps_none
      · split
        · exact keeps_some (numbered_itemFault h)
        · split
          · exact keeps_some (numbered_itemFault h)
          · split
            · exact keeps_some (numbered_itemFault h)
            · split
              · exact keeps_none
              · split
                next he7 => exact keeps_some (numbered_itemFault (numbered_of_fst (numbered_consumeAll h) he7))
                next he7 => exact keeps_some (numbered_startTask (numbered_of_fst (numbered_consumeAll h) he7))
    · exact keeps_none
  · exact keeps_none

theorem numbered_addSegmentTo {tc : TileCtx} {acc : Nat} {r : Line} {spec : Bool} {o : TaskOps} {j : Nat} (h : numbered s) :
    numbered (addSegmentTo tc acc r spec o j s) :=
  numbered_modTc h

theorem keeps_evSegmentComplete {tc : TileCtx} {acc : Nat} (h : numbered s) : Keeps (evSegmentComplete tc acc s) := by
  unfold evSegmentComplete
  split
  · exact keeps_none
  · dsimp only
    split
    · exact keeps_none
    · split
      · exact keeps_some (numbered_itemFault h)
      · split
        next he => exact keeps_some (numbered_itemFault (numbered_of_fst (numbered_consumeAll h) he))
        next he =>
          have ht := numbered_of_fst (numbered_consumeAll h) he
          split
          · exact keeps_some (numbered_detect (by exact ht))
          · exact keeps_some (numbered_modTc (numbered_addSegmentTo ht))

theorem keeps_evTaskRetire {tc : TileCtx} {acc : Nat} (h : numbered s) : Keeps (evTaskRetire tc acc s) := by
  unfold evTaskRetire
  split
  · exact keeps_none
  · split
    · exact keeps_none
    · exact keeps_some (numbered_landResult (numbered_leaveQueue h))

theorem numbered_applied {tc : TileCtx} {i : TItem} (h : numbered s) : numbered (applied tc i s) :=
  numbered_landResult (numbered_leaveQueue h)

theorem keeps_discard {tc : TileCtx} {acc : Nat} {pre : List TItem} {i : TItem} (h : numbered s) :
    Keeps (Sys2Proof.Machine.discard tc acc pre i s) := by
  unfold Sys2Proof.Machine.discard
  split
  · split
    · exact keeps_none
    · exact keeps_some (numbered_modTc h)
  · exact keeps_some (numbered_applied (numbered_modTc (numbered_clean
      (numbered_foldl (fun _ _ ht => by exact numbered_applied ht) h _))))

theorem keeps_evAccumulatorItemApply {tc : TileCtx} {acc : Nat} (h : numbered s) : Keeps (evAccumulatorItemApply tc acc s) := by
  have hbad : ∀ i : TItem,
      Keeps (if i.stuck then none else some (itemFault tc i { cause := 0x15, detail := matDetail acc 0 0 0 } s)) := by
    intro i
    split
    · exact keeps_none
    · exact keeps_some (numbered_itemFault h)
  unfold evAccumulatorItemApply
  split
  · exact keeps_none
  · split
    · split
      · split
        · exact keeps_some (numbered_applied h)
        · exact keeps_none
      · exact keeps_none
    · dsimp only
      split
      · exact keeps_none
      · split
        · exact keeps_discard h
        · split
          · exact keeps_none
          · split
            · exact keeps_some (numbered_itemFault h)
            · split
              next he => exact keeps_some (numbered_itemFault (numbered_of_fst (numbered_consumeAll h) he))
              next t he =>
                have ht := numbered_of_fst (numbered_consumeAll h) he
                have hc : ∀ l : List Site, numbered (l.foldl (fun s x => s.clean x) t) :=
                  numbered_foldl (fun _ _ ht => numbered_clean ht) ht
                split
                · split
                  · exact hbad _
                  · exact keeps_some (numbered_applied (numbered_modTc (hc _)))
                · split
                  · exact hbad _
                  · split
                    · exact keeps_some (numbered_applied (numbered_modTc (hc _)))
                    · exact hbad _
                · exact keeps_some (numbered_send (numbered_leaveQueue (hc _)))
                · exact keeps_some (numbered_applied (numbered_modTc (hc _)))
                · exact keeps_some (numbered_applied (hc _))
                · exact keeps_none

/-! ## Rings -/

theorem keeps_effSlay {eng : Bool} {lay : BitVec 3} {a : Iss} (h : numbered s) : KeepsEff (effSlay eng lay a s) := by
  unfold effSlay
  refine keeps_tileEff (fun tile1 => ?_)
  dsimp only
  split
  · exact keepsEff_wait
  · split
    · exact keepsEff_stop
    · exact keepsEff_ok (numbered_place (numbered_modTc (numbered_openTxn h)))

theorem keeps_evSlayInstall {tc : TileCtx} {eng : Nat} (h : numbered s) : Keeps (evSlayInstall tc eng s) := by
  unfold evSlayInstall
  dsimp only
  split
  · split
    · exact keeps_none
    · exact keeps_some (numbered_landResult (numbered_unplace (numbered_modTc h)))
  · exact keeps_none

theorem numbered_bindRing {tc : TileCtx} {eng k : Nat} {pc : Pc} {fill slots : Bool} {ring lay : Nat} {first n : Nat}
    {total rid lowt : Nat} (h : numbered s) :
    numbered (bindRing tc eng k pc fill slots ring lay first n total rid lowt s) :=
  numbered_modTc h

theorem keeps_bindEff {fill slots eng : Bool} {ring : BitVec 2} {lay : BitVec 3} {first : BitVec 6} {cnt : BitVec 3}
    {a : Iss} (h : numbered s) :
    KeepsEff (bindEff fill slots eng ring lay first cnt a s) := by
  unfold bindEff
  refine keeps_tileEff (fun tile1 => ?_)
  dsimp only
  split
  · exact keepsEff_wait
  · split
    · split
      · exact keepsEff_wait
      · split
        · exact keepsEff_stop
        · exact keepsEff_ok (numbered_tableAnswer (numbered_place (numbered_bindRing (numbered_newId h))))
    · exact keepsEff_ok (numbered_holdFor (numbered_place (numbered_modTc (numbered_openTxn (numbered_newId h)))))

theorem keeps_effSfill {eng : Bool} {ring : BitVec 2} {lay : BitVec 3} {slots : Bool} {first : BitVec 6} {cnt : BitVec 3}
    {a : Iss} (h : numbered s) :
    KeepsEff (effSfill eng ring lay slots first cnt a s) :=
  keeps_bindEff h

theorem keeps_effSdrain {eng : Bool} {ring : BitVec 2} {lay : BitVec 3} {first : BitVec 6} {cnt : BitVec 3} {a : Iss} (h : numbered s) :
    KeepsEff (effSdrain eng ring lay first cnt a s) :=
  keeps_bindEff h

theorem keeps_evRingBindCheck {tc : TileCtx} {eng : Nat} (h : numbered s) : Keeps (evRingBindCheck tc eng s) := by
  unfold evRingBindCheck
  split
  · dsimp only
    split
    · exact keeps_none
    · split
      · exact keeps_some (numbered_faultBack (numbered_unplace (numbered_modTc h)))
      · exact keeps_some (numbered_landResult (numbered_bindRing (numbered_modTc h)))
  · exact keeps_none

theorem keeps_evRingTransferStart {tc : TileCtx} {eng ring : Nat} (h : numbered s) : Keeps (evRingTransferStart tc eng ring s) := by
  unfold evRingTransferStart
  split
  · exact keeps_none
  · split
    · exact keeps_none
    · exact keeps_some (numbered_modTc h)

theorem numbered_ringFault {tc : TileCtx} {eng ring : Nat} {r : Machine.Ring} {f : Flt} (h : numbered s) :
    numbered (ringFault tc eng ring r f s) :=
  numbered_unitFault (numbered_modTc h)

theorem numbered_ringPause {tc : TileCtx} {eng ring va : Nat} (h : numbered s) : numbered (ringPause tc eng ring va s) :=
  numbered_postBy (numbered_modTc h)

theorem numbered_fillEntry {tc : TileCtx} {r : Machine.Ring} {ls : List Line} (h : numbered s) : numbered (fillEntry tc r ls s) := by
  unfold fillEntry
  dsimp only
  split
  · exact numbered_modTc (numbered_foldl (fun t a ht => numbered_clean ht) h _)
  · split
    · exact h
    · exact numbered_modTc (numbered_foldl (fun t a2 ht => numbered_bareWrite ht) h _)

theorem numbered_doneOne {tc : TileCtx} {eng ring : Nat} (h : numbered s) : numbered (doneOne tc eng ring s) :=
  numbered_ringSweep (numbered_modTc h)

theorem keeps_ringRead {tc : TileCtx} {eng : Nat} {ks : List (Nat × Home)} (h : numbered s) : KeepsFst (ringRead tc eng ks s) := by
  unfold ringRead
  split
  · exact keepsFst_some h
  · exact keepsFst_map (keeps_unitRead h) (fun _ hp => hp)

theorem keeps_fillDone {tc : TileCtx} {eng ring : Nat} {r : Machine.Ring} {ks : List (Nat × Home)} (h : numbered s) :
    Keeps (fillDone tc eng ring r ks s) := by
  unfold fillDone
  dsimp only
  split
  · exact keeps_none
  · split
    · exact keeps_some (numbered_ringFault h)
    · split
      · exact keeps_none
      next he2 => exact keeps_some (numbered_ringFault (keeps_ringRead h _ he2))
      next he2 =>
        split
        · exact keeps_some (numbered_ringFault (keeps_ringRead h _ he2))
        · exact keeps_some (numbered_doneOne (numbered_fillEntry (keeps_ringRead h _ he2)))

theorem numbered_foldlSnd {α β : Type} {f : β × State → α → β × State}
    (hf : ∀ w a, numbered w.2 → numbered (f w a).2) {w : β × State} (h : numbered w.2) (l : List α) : numbered (l.foldl f w).2 := by
  induction l generalizing w with
  | nil => exact h
  | cons a l ih => exact ih (hf w a h)

theorem numbered_drainWrite {tc : TileCtx} {eng ring : Nat} {r : Machine.Ring} {ks : List (Nat × Home)} (h : numbered s) :
    numbered (drainWrite tc eng ring r ks s) := by
  unfold drainWrite
  split
  · exact h
  · exact numbered_modTc (numbered_foldlSnd (fun _ _ hw => by exact numbered_bareWrite hw) h _)

theorem keeps_drainDone {tc : TileCtx} {eng ring : Nat} {r : Machine.Ring} {ks : List (Nat × Home)} (h : numbered s) :
    Keeps (drainDone tc eng ring r ks s) := by
  unfold drainDone
  dsimp only
  split
  · exact keeps_none
  · split
    · exact keeps_some (numbered_ringFault h)
    · split
      · exact keeps_some (numbered_ringFault h)
      · split
        · exact keeps_none
        next he3 => exact keeps_some (numbered_ringFault (keeps_ringRead h _ he3))
        next he3 => exact keeps_some (numbered_drainWrite (keeps_ringRead h _ he3))

theorem keeps_evRingTransferDone {tc : TileCtx} {eng ring : Nat} (h : numbered s) : Keeps (evRingTransferDone tc eng ring s) := by
  unfold evRingTransferDone
  split
  · exact keeps_none
  · split
    · exact keeps_none
    · split
      · split
        · exact keeps_none
        · exact keeps_some (numbered_doneOne (numbered_modTc h))
      · split
        · exact keeps_none
        · dsimp only
          split
          · exact keeps_none
          next he4 => exact keeps_some (numbered_ringFault (keeps_unitRead h _ he4))
          next he4 =>
            split
            · exact keeps_some (numbered_ringPause (numbered_foldl (fun t1 a5 ht1 => numbered_engineFill ht1) (keeps_unitRead h _ he4) _))
            · exact keeps_some (numbered_ringFault (numbered_foldl (fun t1 a4 ht1 => numbered_engineFill ht1) (keeps_unitRead h _ he4) _))
            · split
              · exact keeps_fillDone (numbered_foldl (fun t1 a5 ht1 => numbered_engineFill ht1) (keeps_unitRead h _ he4) _)
              · exact keeps_drainDone (numbered_foldl (fun t1 a5 ht1 => numbered_engineFill ht1) (keeps_unitRead h _ he4) _)

theorem keeps_effSsig {eng : Bool} {ring : BitVec 2} {full : Bool} {a : Iss} (h : numbered s) : KeepsEff (effSsig eng ring full a s) :=
  keeps_tileEff (fun _ => keepsEff_ok (numbered_send (numbered_uid h (Nat.le_add_right ..))))

theorem keeps_signalRing {tc : TileCtx} {eng ring : Nat} {r : Machine.Ring} {full : Bool} (h : numbered s) :
    Keeps (signalRing tc eng ring r full s) := by
  unfold signalRing
  dsimp only
  split
  · exact keeps_none
  · split
    · split
      · exact keeps_none
      · split
        · exact keeps_some (numbered_slotSweep (numbered_modTc h))
        · exact keeps_some (numbered_ringSweep (numbered_modTc h))
    · split
      · split
        · exact keeps_some (numbered_modTc h)
        · exact keeps_none
      · exact keeps_none

theorem keeps_evSsigApply {n : Nat} (h : numbered s) : Keeps (evSsigApply n s) := by
  unfold evSsigApply
  split
  · dsimp only
    split
    · split
      · split
        · exact keeps_none
        · split
          next he4 => exact keeps_some (numbered_landResult (keeps_bindAny (fun a14 => keeps_signalRing (numbered_dropMsg h)) _ he4))
          · exact keeps_some (numbered_unitFault (numbered_dropMsg h))
      · split
        · exact keeps_none
        · split
          next he4 => exact keeps_some (numbered_landResult (keeps_bindAny (fun a13 => keeps_signalRing (numbered_dropMsg h)) _ he4))
          · exact keeps_some (numbered_unitFault (numbered_dropMsg h))
    · split
      · exact keeps_none
      · split
        next he3 => exact keeps_some (numbered_landResult (keeps_bindAny (fun a11 => keeps_signalRing (numbered_dropMsg h)) _ he3))
        · exact keeps_some (numbered_unitFault (numbered_dropMsg h))
  · exact keeps_none

/-! ## Fences, results and collectives -/

theorem keeps_effQfence {tq se : Bool} {cq : BitVec 4} {a : Iss} (h : numbered s) : KeepsEff (effQfence tq se cq a s) := by
  unfold effQfence
  dsimp only
  refine keepsEff_ok (numbered_send ?_)
  split
  · exact numbered_openTxn h
  · exact numbered_modStrand (numbered_openTxn h)

theorem keeps_ewaitEff {d : Opd} {c : State → Iss → EWait} {a : Iss} (h : numbered s) : KeepsEff (ewaitEff d c a s) :=
  keepsEff_ok (numbered_send (numbered_uid h (Nat.le_add_right ..)))

theorem keeps_effEwait {d : Opd} {kind : BitVec 2} {res : BitVec 8} {x : Iss} (h : numbered s) : KeepsEff (effEwait d kind res x s) := by
  unfold effEwait
  generalize kind.toNat = n
  rcases n with _ | _ | _ | n
  · exact keeps_tileEff (fun _ => keeps_ewaitEff h)
  · exact keeps_tileEff (fun _ => keeps_ewaitEff h)
  · exact keeps_ewaitEff h
  · exact keeps_ewaitEff h

theorem numbered_dropFence {txn : Nat} (h : numbered s) : numbered (dropFence txn s) := by
  unfold dropFence
  split
  · exact h
  · dsimp only
    split
    · split
      · exact numbered_modStrand h
      · exact numbered_fenceAcquires (numbered_modStrand h)
    · exact numbered_modStrand h

theorem numbered_unparkOwner {txn : Nat} {s0 : State} (h : numbered s) : numbered (unparkOwner txn s0 s) := by
  unfold unparkOwner
  split
  · exact numbered_unparkBranch h
  · exact h

theorem keeps_evResultLands {n : Nat} (h : numbered s) : Keeps (evResultLands n s) := by
  unfold evResultLands
  split
  · split
    · exact keeps_none
    · exact keeps_map (keeps_arrives h) (fun t ht => numbered_unparkOwner (numbered_landResult (numbered_retire (numbered_modOp
      (numbered_dropFence (numbered_dropMsg ht))))))
  · split
    · exact keeps_none
    · exact keeps_some (numbered_unparkOwner (numbered_landResult (numbered_dropMsg h)))
  · split
    · exact keeps_none
    · exact keeps_some (numbered_unparkOwner (numbered_landResult (numbered_dropMsg h)))
  · exact keeps_none

theorem numbered_modCq {p : PartId} {q : Nat} {f : List Coll → List Coll} (h : numbered s) : numbered (s.modCq p q f) :=
  numbered_modPart h

theorem numbered_pushColl {p : PartId} {q : Nat} {c : Coll} (h : numbered s) : numbered (pushColl p q c s) :=
  numbered_modCq (numbered_modPart h)

theorem keeps_effColl {cq : BitVec 2} {a : Iss} (h : numbered s) : KeepsEff (effColl cq a s) := by
  unfold effColl
  dsimp only
  split
  · exact keepsEff_wait
  · split
    · exact keepsEff_stop
    · exact keepsEff_ok (numbered_place (numbered_pushColl (numbered_openTxn h)))

theorem keeps_effCseqSet {region : Nat} {dty : Bool} {a : Iss} (h : numbered s) : KeepsEff (effCseqSet region dty a s) := by
  unfold effCseqSet
  dsimp only
  split
  · split
    · exact keepsEff_stop
    · split
      · exact keepsEff_walk
      · exact keepsEff_stop
      · exact keepsEff_ok (numbered_tableAnswer (numbered_modPart h))
  · split
    · exact keepsEff_stop
    · split
      · exact keepsEff_walk
      · exact keepsEff_stop
      · exact keepsEff_ok (numbered_tableAnswer (numbered_modPart h))

theorem keeps_effCseq {d : Opd} {region : BitVec 8} {rd dty : Bool} {a : Iss} (h : numbered s) :
    KeepsEff (effCseq d region rd dty a s) := by
  unfold effCseq
  split
  · exact keepsEff_ok (numbered_tableAnswer h)
  · exact keeps_effCseqSet h

theorem numbered_modColl {p : PartId} {q no : Nat} {f : Coll → Coll} (h : numbered s) : numbered (modColl p q no f s) :=
  numbered_modCq h

theorem numbered_collFault {p at_part : PartId} {q : Nat} {c : Coll} {f : Flt} (h : numbered s) :
    numbered (collFault p at_part q c f s) := by
  unfold collFault
  dsimp only
  split
  · exact numbered_unitFault (numbered_modColl h)
  · exact numbered_putStop (numbered_raiseLine (numbered_modColl h))

theorem keeps_evCollCommandStart {p : PartId} {q : Nat} (h : numbered s) : Keeps (evCollCommandStart p q s) := by
  unfold evCollCommandStart
  split
  · exact keeps_none
  · dsimp only
    split
    · exact keeps_none
    · split
      · exact keeps_some (numbered_collFault h)
      · split
        · exact keeps_none
        next he3 => exact keeps_some (numbered_collFault (keeps_unitRead h _ he3))
        next he3 =>
          split
          · exact keeps_some (numbered_postBy (numbered_modColl (keeps_unitRead h _ he3)))
          · exact keeps_some (numbered_collFault (keeps_unitRead h _ he3))
          · split
            · exact keeps_none
            next he5 => exact keeps_some (numbered_collFault (keeps_unitRead (keeps_unitRead h _ he3) _ he5))
            next he5 => exact keeps_some (numbered_send (numbered_modColl (keeps_unitRead (keeps_unitRead h _ he3) _ he5)))

theorem keeps_collEnters {n : Nat} {p : PartId} {q : Nat} {c : Coll} {refused : Bool} (h : numbered s) :
    Keeps (collEnters s n p q c refused) := by
  unfold collEnters
  split
  · exact keeps_some h
  · split
    · exact keeps_none
    · exact keeps_transmit h

theorem keeps_refuseColl {n : Nat} {p : PartId} {q : Nat} {c : Coll} (h : numbered s) : Keeps (refuseColl n p q c s) := by
  unfold refuseColl
  split
  · exact keeps_none
  · exact keeps_map (keeps_collEnters h) (fun t ht => ht)

theorem keeps_evCollArrival {n : Nat} (h : numbered s) : Keeps (evCollArrival n s) := by
  unfold evCollArrival
  split
  · split
    · exact keeps_none
    · split
      · exact keeps_refuseColl h
      · dsimp only
        split
        · exact keeps_map (keeps_collEnters h) (fun t ht => numbered_modPart (numbered_dropMsg ht))
        · split
          · exact keeps_map (keeps_collEnters h) (fun t ht => numbered_collFault (numbered_dropMsg ht))
          · split
            · exact keeps_map (keeps_collEnters h) (fun t ht => numbered_modPart (numbered_dropMsg ht))
            · exact keeps_refuseColl h
  · exact keeps_none

theorem numbered_applyElems {c : CtxId} {dst : Fmt} {size : Nat} {reduce : Bool} {sty : Fmt} {l : List ((Nat × Home) × BitVec 32)}
    (h : numbered s) : numbered (applyElems c dst size reduce sty l s).2 := by
  induction l generalizing s with
  | nil => exact h
  | cons e l ih =>
    obtain ⟨⟨k, hm⟩, v⟩ := e
    exact ih (numbered_bareWrite h)

theorem numbered_unhold {p src : PartId} {c : Coll} (h : numbered s) : numbered (unhold p src c s) :=
  numbered_modPart h

theorem keeps_applyColl {p : PartId} {region : Nat} {r : Region} {src : PartId} {q : Nat} {c : Coll} (h : numbered s) :
    Keeps (applyColl p region r src q c s) := by
  unfold applyColl
  dsimp only
  split
  · split
    · exact keeps_some (numbered_collFault (numbered_unhold h))
    · split
      · exact keeps_some (numbered_collFault (numbered_unhold h))
      · split
        · exact keeps_none
        next he3 => exact keeps_some (numbered_collFault (numbered_unhold (keeps_unitRead h _ he3)))
        next he3 =>
          split
          · exact keeps_some (numbered_postBy (numbered_modPart (keeps_unitRead h _ he3)))
          · exact keeps_some (numbered_collFault (numbered_unhold (keeps_unitRead h _ he3)))
          · split
            · exact keeps_none
            next he5 => exact keeps_some (numbered_collFault (numbered_unhold (keeps_unitRead (keeps_unitRead h _ he3) _ he5)))
            next he5 => exact keeps_some (numbered_send (numbered_modPart (numbered_applyElems (numbered_unhold (keeps_unitRead
              (keeps_unitRead h _ he3) _ he5)))))
  · split
    · exact keeps_some (numbered_collFault (numbered_unhold h))
    · split
      · exact keeps_some (numbered_collFault (numbered_unhold h))
      · split
        · exact keeps_none
        next he3 => exact keeps_some (numbered_collFault (numbered_unhold (keeps_unitRead h _ he3)))
        next he3 =>
          split
          · exact keeps_some (numbered_postBy (numbered_modPart (keeps_unitRead h _ he3)))
          · exact keeps_some (numbered_collFault (numbered_unhold (keeps_unitRead h _ he3)))
          · split
            · exact keeps_none
            next he5 => exact keeps_some (numbered_collFault (numbered_unhold (keeps_unitRead (keeps_unitRead h _ he3) _ he5)))
            next he5 => exact keeps_some (numbered_send (numbered_modPart (numbered_applyElems (numbered_unhold (keeps_unitRead
              (keeps_unitRead h _ he3) _ he5)))))

theorem keeps_evCollApply {p : PartId} {region : Nat} (h : numbered s) : Keeps (evCollApply p region s) := by
  unfold evCollApply
  split
  · exact keeps_none
  · split
    · exact keeps_none
    · split
      · exact keeps_none
      · split
        · exact keeps_some (numbered_collFault (numbered_unhold h))
        · exact keeps_applyColl h

theorem keeps_evCollAck {n : Nat} (h : numbered s) : Keeps (evCollAck n s) := by
  unfold evCollAck
  split
  · split
    · exact keeps_none
    · refine keeps_bind (keeps_arrives h) (fun t ht => ?_)
      dsimp only
      split
      · exact keeps_some (numbered_dropMsg ht)
      · exact keeps_some (numbered_landResult (numbered_unplace (numbered_modCq (numbered_dropMsg ht))))
  · exact keeps_none

theorem keeps_evCollRefusalTimeout {n : Nat} (h : numbered s) : Keeps (evCollRefusalTimeout n s) := by
  unfold evCollRefusalTimeout
  split
  · split
    · split
      · exact keeps_none
      · exact keeps_some (numbered_collFault (numbered_dropMsg h))
    · exact keeps_none
  · exact keeps_none

/-! ## Stops, control registers and the handler -/

theorem keeps_evUnitStop {p : PartId} {u : UnitId} (h : numbered s) : Keeps (evUnitStop p u s) := by
  unfold evUnitStop
  split
  · exact keeps_none
  · split
    · split
      · exact keeps_none
      · split
        · exact keeps_none
        · exact keeps_some (numbered_putStop h)
    · split
      · exact keeps_none
      · dsimp only
        split
        · exact keeps_some (numbered_cutTile (numbered_putStop h))
        · exact keeps_some (numbered_putStop h)

theorem keeps_evOriginatorHandlerEntry {k : Nat} (h : numbered s) : Keeps (evOriginatorHandlerEntry k s) := by
  unfold evOriginatorHandlerEntry
  split
  · exact keeps_none
  · split
    · exact keeps_none
    · split
      · exact keeps_none
      · exact keeps_some (numbered_modStrand (numbered_modPart (numbered_enterHandler h)))

theorem numbered_unstick {p : PartId} (h : numbered s) : numbered (unstick p s) :=
  h

theorem numbered_clearLine {p : PartId} (h : numbered s) : numbered (s.clearLine p) := by
  unfold State.clearLine
  split
  · exact h
  · dsimp only
    refine numbered_foldl (fun t a ht => ?_) (numbered_foldl (fun t a ht => numbered_modStrand ht) (numbered_foldl
      (fun t a ht => numbered_modCtx ht) (numbered_modPart (numbered_unstick h)) _) _) _
    split
    · exact numbered_strandEnd ht
    · split
      · exact numbered_releaseRecorded ht
      · exact ht

theorem numbered_cmdDone {c : CtxId} {cmd : Nat} (h : numbered s) : numbered (s.cmdDone c cmd) :=
  numbered_post h

theorem keeps_evHalt {c : CtxId} (h : numbered s) : Keeps (evHalt c s) := by
  unfold evHalt
  split
  · exact keeps_none
  · exact keeps_some (numbered_cmdDone (numbered_raiseLine h))

theorem keeps_evRelease {c : CtxId} (h : numbered s) : Keeps (evRelease c s) := by
  unfold evRelease
  split
  · exact keeps_none
  · exact keeps_some (numbered_cmdDone (numbered_clearLine h))

theorem numbered_dropTlb {keep : TileId → TlbE → Bool} (h : numbered s) : numbered (s.dropTlb keep) :=
  h

theorem numbered_dropWalks {keep : Nat × Nat → WalkE → Bool} (h : numbered s) : numbered (s.dropWalks keep) :=
  h

theorem numbered_dropPart {p : PartId} (h : numbered s) : numbered (s.dropPart p) :=
  numbered_dropWalks (numbered_dropTlb h)

theorem numbered_dropCtx {c : CtxId} (h : numbered s) : numbered (s.dropCtx c) :=
  numbered_dropWalks (numbered_dropTlb h)

theorem keeps_evInval {c : CtxId} (h : numbered s) : Keeps (evInval c s) := by
  unfold evInval
  split
  · exact keeps_none
  · exact keeps_some (numbered_cmdDone (numbered_dropPart h))

theorem keeps_effRand {d b : Opd} {a : Iss} (h : numbered s) : KeepsEff (effRand d b a s) := by
  unfold effRand
  dsimp only
  split
  · exact keepsEff_ok (numbered_putRegs h)
  · exact keepsEff_ok (numbered_putRegs h)

theorem keeps_effRres {d : Opd} {rel : Bool} {a : Iss} (h : numbered s) : KeepsEff (effRres d rel a s) := by
  unfold effRres
  dsimp only
  split
  · exact keepsEff_ok (numbered_tableAnswer h)
  · split
    · split
      · exact keepsEff_ok (numbered_tableAnswer (numbered_modPart h))
      · exact keepsEff_ok (numbered_tableAnswer h)
    · split
      · exact keepsEff_stop
      · exact keepsEff_ok (numbered_tableAnswer (numbered_modPart h))

theorem keeps_effCsrr {csr : BitVec 12} {a : Iss} (h : numbered s) : KeepsEff (effCsrr csr a s) := by
  unfold effCsrr
  split
  · exact keepsEff_stop
  · split
    · exact keepsEff_stop
    · exact keepsEff_ok (numbered_writeRows h)

theorem keeps_csrWrite {k : Nat} {st : Strand} {a : Nat} {v : Word} (h : numbered s) : Keeps (csrWrite k st a v s) := by
  unfold csrWrite
  split
  · split
    · exact keeps_none
    · exact keeps_some (numbered_modPart h)
  · exact keeps_some (numbered_modStrand h)
  · split
    · exact keeps_none
    · exact keeps_some (numbered_modStrand h)
  · exact keeps_none

theorem keeps_effCsrw {csr : BitVec 12} {a : Iss} (h : numbered s) : KeepsEff (effCsrw csr a s) := by
  unfold effCsrw
  split
  · exact keepsEff_stop
  · split
    · exact keepsEff_stop
    next he1 => exact keepsEff_ok (keeps_csrWrite h _ he1)

theorem numbered_budgetTrap {k : Nat} (h : numbered s) : numbered (budgetTrap k s) := by
  unfold budgetTrap
  split
  · exact h
  · dsimp only
    split
    · exact h
    · exact numbered_modStrand (numbered_enterHandler h)

theorem numbered_owedTrap {k launch : Nat} (h : numbered s) : numbered (owedTrap k launch s) := by
  unfold owedTrap
  split
  · split
    · exact numbered_budgetTrap h
    · exact h
  · exact h

theorem keeps_effTret {a : Iss} (h : numbered s) : KeepsEff (effTret a s) := by
  unfold effTret
  split
  · exact keepsEff_stop
  · split
    · exact keepsEff_stop
    · dsimp only
      split
      · exact keepsEff_stop
      · split
        · exact keepsEff_ok (numbered_releaseRecorded (numbered_modStrand h))
        · split
          · exact keepsEff_ok (numbered_owedTrap (numbered_releaseRecorded (numbered_modStrand h)))
          · split
            · exact keepsEff_ok (numbered_strandEnd (numbered_releaseRecorded (numbered_modStrand h)))
            · exact keepsEff_wait

theorem keeps_effStoprd {d : Opd} {a : Iss} (h : numbered s) : KeepsEff (effStoprd d a s) :=
  keepsEff_ok (numbered_answer h)

theorem keeps_effRegev {a : Iss} (h : numbered s) : KeepsEff (effRegev a s) :=
  keepsEff_ok (numbered_modPart (numbered_postBy h))

theorem numbered_softwareHalt {x : Iss} (h : numbered s) : numbered (softwareHalt x s) := by
  unfold softwareHalt
  split
  · exact h
  · exact numbered_putStop (numbered_raiseLine h)

theorem keeps_effHaltl {clr : Bool} {a : Iss} (h : numbered s) : KeepsEff (effHaltl clr a s) := by
  unfold effHaltl
  refine keepsEff_ok ?_
  split
  · exact numbered_clearLine h
  · exact numbered_softwareHalt h

theorem keeps_effErrlog {d : Opd} {pop : Bool} {a : Iss} (h : numbered s) : KeepsEff (effErrlog d pop a s) := by
  unfold effErrlog
  dsimp only
  split
  · exact keepsEff_ok (numbered_answer (numbered_modPart h))
  · exact keepsEff_ok (numbered_answer h)

theorem keeps_effStest {d : Opd} {a : Iss} (h : numbered s) : KeepsEff (effStest d a s) := by
  unfold effStest
  split
  · exact keepsEff_ok (numbered_answer h)
  · exact keepsEff_ok (numbered_startTest (numbered_uid h (Nat.le_add_right ..)))

theorem keeps_effTlbinv {part va : Bool} {a : Iss} (h : numbered s) : KeepsEff (effTlbinv part va a s) :=
  keepsEff_ok (numbered_answer (numbered_dropWalks (numbered_dropTlb h)))

/-! ## Barrier messages -/

theorem numbered_notePhase {k n phase : Nat} (h : numbered s) : numbered (notePhase k n phase s) :=
  numbered_modStrand h

theorem numbered_strandedBarw {k n : Nat} (h : numbered s) : numbered (strandedBarw k n s) :=
  numbered_modStrand (numbered_modTxn h)

theorem numbered_refuseArrival {m : BarMsg} {phase exp count : Nat} (h : numbered s) : numbered (refuseArrival m phase exp count s) := by
  unfold refuseArrival
  dsimp only
  split
  · exact numbered_send (numbered_send h)
  · exact numbered_strandedBarw (numbered_send h)
  · exact numbered_send h

theorem numbered_countedArrival {m : BarMsg} {phase : Nat} (h : numbered s) : numbered (countedArrival m phase s) := by
  unfold countedArrival
  split
  · exact numbered_send h
  · exact numbered_notePhase h
  · exact h

theorem numbered_releaseMembers {b : BarId} {phase : Nat} {before : List Nat} (h : numbered s) :
    numbered (releaseMembers b phase before s) :=
  numbered_foldl (fun _ _ ht => numbered_send ht) h _

theorem numbered_forward {ctr : Nat} {m : BarMsg} (h : numbered s) : numbered (forward ctr m s) :=
  h

theorem numbered_bandFault {m : BarMsg} (h : numbered s) : numbered (bandFault m s) :=
  numbered_send h

theorem numbered_applyBari {m : BarMsg} {count : Nat} {dom : Bool} (h : numbered s) : numbered (applyBari m count dom s) := by
  unfold applyBari
  dsimp only
  split
  · exact numbered_bandFault h
  · split
    · split
      · refine numbered_forward ?_
        split
        · exact numbered_modBand h
        · exact h
      · exact numbered_bandFault h
    · exact numbered_send (numbered_modBand h)

theorem numbered_applyArrival {m : BarMsg} (h : numbered s) : numbered (applyArrival m s) := by
  unfold applyArrival
  dsimp only
  split
  · exact numbered_refuseArrival h
  · split
    · exact numbered_modBand (numbered_releaseMembers (numbered_countedArrival h))
    · exact numbered_modBand (numbered_countedArrival h)

theorem numbered_applyBarq {m : BarMsg} (h : numbered s) : numbered (applyBarq m s) :=
  numbered_send (numbered_modStrand h)

theorem numbered_applyBar {m : BarMsg} (h : numbered s) : numbered (applyBar m s) := by
  unfold applyBar
  dsimp only
  split
  · split
    · exact numbered_dropMsg h
    · exact numbered_send (numbered_dropMsg h)
  · split
    · exact numbered_applyBari (numbered_dropMsg h)
    · exact numbered_applyBarq (numbered_dropMsg h)
    · split
      · split
        · exact numbered_forward (numbered_dropMsg h)
        · exact numbered_dropMsg h
      · exact numbered_applyArrival (numbered_dropMsg h)

theorem keeps_evBarrierMessage {b : BarId} {ns : List Nat} (h : numbered s) : Keeps (evBarrierMessage b ns s) :=
  keeps_mapAny (fun _ => numbered_modBand (numbered_foldl (fun _ _ ht => numbered_applyBar ht) h _))

theorem numbered_modDom {ctr : Nat} {f : DomCtr → DomCtr} (h : numbered s) : numbered (s.modDom ctr f) :=
  h

theorem numbered_domFault {m : BarMsg} (h : numbered s) : numbered (domFault m s) :=
  numbered_bandFault (numbered_modBand h)

theorem numbered_domBari {ctr : Nat} {m : BarMsg} {count : Nat} {dom : Bool} (h : numbered s) : numbered (domBari ctr m count dom s) := by
  unfold domBari
  dsimp only
  split
  · split
    · exact numbered_domFault h
    · split
      · split
        · exact numbered_domFault h
        · exact numbered_send (numbered_modBand (numbered_modDom h))
      · split
        · exact numbered_send (numbered_modBand (numbered_modDom h))
        · exact numbered_domFault h
  · split
    · exact numbered_domFault h
    · split
      · split
        · exact numbered_domFault h
        · exact numbered_send (numbered_modBand (numbered_modDom h))
      · split
        · exact numbered_send (numbered_modBand (numbered_modDom h))
        · exact numbered_domFault h

theorem numbered_domArrival {ctr : Nat} {m : BarMsg} (h : numbered s) : numbered (domArrival ctr m s) := by
  unfold domArrival
  dsimp only
  split
  · exact numbered_refuseArrival h
  · split
    · exact numbered_modDom (numbered_foldl (fun t a ht => numbered_send ht) (numbered_countedArrival h) _)
    · exact numbered_modDom (numbered_countedArrival h)

theorem numbered_applyDom {ctr : Nat} {m : BarMsg} (h : numbered s) : numbered (applyDom ctr m s) := by
  unfold applyDom
  dsimp only
  split
  · exact numbered_domBari (numbered_dropMsg h)
  · exact numbered_dropMsg h
  · exact numbered_domArrival (numbered_dropMsg h)

theorem keeps_evDomainCounterMessage {ctr : Nat} {ns : List Nat} (h : numbered s) : Keeps (evDomainCounterMessage ctr ns s) := by
  unfold evDomainCounterMessage
  dsimp only
  split
  · exact keeps_none
  · exact keeps_bindAny (fun a => keeps_map (keeps_arriveAll h) (fun t ht => numbered_modDom (numbered_foldl
    (fun t1 a1 ht1 => numbered_applyDom ht1) ht _)))

theorem keeps_evDomainPhaseMulticast {n : Nat} (h : numbered s) : Keeps (evDomainPhaseMulticast n s) := by
  unfold evDomainPhaseMulticast
  split
  · refine keeps_map (keeps_arrives h) (fun t ht => ?_)
    dsimp only
    split
    · exact numbered_dropMsg ht
    · exact numbered_modBand (numbered_releaseMembers (numbered_dropMsg ht))
  · exact keeps_none

theorem keeps_evBarrierRelease {n : Nat} (h : numbered s) : Keeps (evBarrierRelease n s) := by
  unfold evBarrierRelease
  split
  · exact keeps_some (numbered_unparkBranch (numbered_completionArrives (numbered_dropMsg h)))
  · exact keeps_none

theorem keeps_evBarrierAnswer {n : Nat} (h : numbered s) : Keeps (evBarrierAnswer n s) := by
  unfold evBarrierAnswer
  split
  · dsimp only
    split
    · exact keeps_some (numbered_faultBack (numbered_dropMsg h))
    · split
      · exact keeps_some (numbered_dropMsg h)
      · exact keeps_some (numbered_unparkOwner (numbered_landResult (numbered_dropMsg h)))
  · exact keeps_none

theorem keeps_evOverArrivalRefusal {n : Nat} (h : numbered s) : Keeps (evOverArrivalRefusal n s) := by
  unfold evOverArrivalRefusal
  split
  · exact keeps_some (numbered_impreciseFault (numbered_dropMsg h))
  · exact keeps_none

/-! ## Block formats -/

theorem numbered_giveWord {x : Iss} {v : Word} (h : numbered s) : numbered (giveWord x v s) :=
  numbered_writeRows h

theorem keeps_effBlkh {a : Iss} (h : numbered s) : KeepsEff (effBlkh a s) :=
  keepsEff_ok (numbered_giveWord h)

theorem keeps_lineEff {g : List (List Word) → Word → Except Flt (List (List Word))} {x : Iss} (h : numbered s) :
    KeepsEff (lineEff g x s) := by
  unfold lineEff
  split
  · exact keepsEff_stop
  · exact keepsEff_ok (numbered_putRegs h)

theorem keeps_effBlkhw {b : Opd} {chk : Bool} {a : Iss} (h : numbered s) : KeepsEff (effBlkhw b chk a s) :=
  keeps_lineEff h

theorem keeps_effBlkpack {ty : Ty} {rm : Rm} {sat esc i4 : Bool} {a : Iss} (h : numbered s) : KeepsEff (effBlkpack ty rm sat esc i4 a s) :=
  keeps_lineEff h

theorem keeps_effBlkunp {a : Opd} {cnt : BitVec 3} {rm : Rm} {sat : Bool} {a' : Iss} (h : numbered s) :
    KeepsEff (effBlkunp a cnt rm sat a' s) :=
  keeps_lineEff h

theorem keeps_effBlkscl {a : Opd} {fit : Bool} {ty : Ty} {sat i4 : Bool} {a' : Iss} (h : numbered s) :
    KeepsEff (effBlkscl a fit ty sat i4 a' s) := by
  unfold effBlkscl
  split
  · split
    · exact keepsEff_ok (numbered_giveWord h)
    · exact keepsEff_stop
  · exact keeps_lineEff h

/-! ## Fetch, lines, watches and host accesses -/

theorem numbered_issueFault {k : Nat} {f : Flt} (h : numbered s) : numbered (s.issueFault k f) := by
  unfold State.issueFault
  split
  · exact h
  · exact numbered_preciseFault h

theorem numbered_discardLine {t : TileId} {key : Nat} (h : numbered s) : numbered (discardLine t key s) := h

theorem keeps_enterLine {k : Nat} {st : Strand} {pc : Pc} {key : Nat} {b : Line} (h : numbered s) : Keeps (enterLine k st pc key b s) := by
  unfold enterLine
  dsimp only
  split
  · exact keeps_some (numbered_modLane h)
  · split
    · exact keeps_none
    · split
      next he2 => exact keeps_some (numbered_issueFault (numbered_of_fst (numbered_consume (numbered_discardLine h)) he2))
      next he2 =>
        split
        · exact keeps_some (numbered_modLane (numbered_detect (numbered_of_fst (numbered_consume (numbered_discardLine h)) he2)))
        · exact keeps_some (numbered_issueFault (numbered_detect (numbered_of_fst (numbered_consume (numbered_discardLine h)) he2)))

theorem keeps_evLineFetch {k : Nat} (h : numbered s) : Keeps (evLineFetch k s) := by
  unfold evLineFetch
  split
  · exact keeps_none
  · split
    · exact keeps_none
    · split
      · exact keeps_none
      · split
        · exact keeps_none
        · split
          · exact keeps_some (numbered_issueFault h)
          · exact keeps_none
        · exact keeps_none
        · dsimp only
          split
          · exact keeps_some (numbered_issueFault h)
          · split
            · split
              · exact keeps_none
              · split
                next he7 => exact keeps_some (numbered_issueFault (numbered_of_fst (numbered_consume h) he7))
                next he7 => exact keeps_enterLine (numbered_of_fst (numbered_consume h) he7)
            · split
              · exact keeps_none
              · split
                next he7 => exact keeps_some (numbered_issueFault (numbered_of_fst (numbered_consume h) he7))
                next he7 => exact keeps_enterLine (numbered_of_fst (numbered_consume h) he7)

theorem keeps_fillLine {k line : Nat} {l : LaneId} {now : Nat} (h : numbered s) : Keeps (fillLine k line l now s) :=
  keeps_map (keeps_makeRoom h) (fun _ ht => numbered_modLane ht)

theorem keeps_evRegisterLineFill {k line : Nat} (h : numbered s) : Keeps (evRegisterLineFill k line s) := by
  unfold evRegisterLineFill
  split
  · exact keeps_none
  · split
    · exact keeps_none
    · exact keeps_fillLine h

theorem keeps_evReturnStackFill {k : Nat} (h : numbered s) : Keeps (evReturnStackFill k s) := by
  unfold evReturnStackFill
  split
  · exact keeps_none
  · split
    · exact keeps_none
    · exact keeps_some (numbered_modStrand h)

theorem keeps_evFixedLatencyCompletion {k : Nat} (h : numbered s) : Keeps (evFixedLatencyCompletion k s) := by
  unfold evFixedLatencyCompletion
  split
  · exact keeps_none
  · dsimp only
    split
    · exact keeps_none
    · exact keeps_some (numbered_unparkBranch (numbered_modStrand h))

theorem keeps_evNapExpiry {k t : Nat} (h : numbered s) : Keeps (evNapExpiry k t s) := by
  unfold evNapExpiry
  split
  · exact keeps_none
  · split
    · exact keeps_some (numbered_modStrand h)
    · exact keeps_none

theorem keeps_evDozeTimeout {k : Nat} (h : numbered s) : Keeps (evDozeTimeout k s) := by
  unfold evDozeTimeout
  split
  · exact keeps_none
  · split
    · exact keeps_none
    · exact keeps_some (numbered_unparkBranch (numbered_dozeCheck h))

theorem numbered_slotMsg {k slot arm : Nat} {f : Watch → Watch} (h : numbered s) : numbered (slotMsg k slot arm f s) := by
  unfold slotMsg
  split
  · exact h
  · split
    · exact h
    · exact numbered_unparkBranch (numbered_dozeCheck (numbered_modStrand h))

theorem keeps_evArmAck {n : Nat} (h : numbered s) : Keeps (evArmAck n s) := by
  unfold evArmAck
  split
  · refine keeps_map (keeps_arrives h) (fun t ht => ?_)
    dsimp only
    split
    · split
      · exact numbered_impreciseFault (numbered_dozeCheck (numbered_slotMsg (numbered_modStrand (numbered_unparkOwner
        (numbered_landResult (numbered_dropMsg ht))))))
      · exact numbered_dozeCheck (numbered_slotMsg (numbered_modStrand (numbered_unparkOwner (numbered_landResult (numbered_dropMsg ht)))))
    · split
      · exact numbered_impreciseFault (numbered_dozeCheck (numbered_slotMsg (numbered_modStrand (numbered_unparkOwner
        (numbered_landResult (numbered_dropMsg ht))))))
      · exact numbered_dozeCheck (numbered_slotMsg (numbered_modStrand (numbered_unparkOwner (numbered_landResult (numbered_dropMsg ht)))))
  · exact keeps_none

theorem keeps_evWakeMessage {n : Nat} (h : numbered s) : Keeps (evWakeMessage n s) := by
  unfold evWakeMessage
  split
  · dsimp only
    split
    · exact keeps_none
    · exact keeps_map (keeps_arrives h) (fun t ht => numbered_slotMsg (numbered_dropMsg ht))
  · exact keeps_none

theorem keeps_evEvictionMessage {n : Nat} (h : numbered s) : Keeps (evEvictionMessage n s) := by
  unfold evEvictionMessage
  split
  · exact keeps_map (keeps_arrives h) (fun t ht => numbered_slotMsg (numbered_dropMsg ht))
  · exact keeps_none

theorem numbered_withdrawEntry {k slot arm : Nat} (h : numbered s) : numbered (withdrawEntry k slot arm s) :=
  h

theorem keeps_evDisarmAck {n : Nat} (h : numbered s) : Keeps (evDisarmAck n s) := by
  unfold evDisarmAck
  split
  · exact keeps_some (numbered_unparkOwner (numbered_landResult (numbered_withdrawEntry (numbered_dropMsg h))))
  · exact keeps_none

theorem keeps_evHostWritebackAck {n : Nat} (h : numbered s) : Keeps (evHostWritebackAck n s) := by
  unfold evHostWritebackAck
  split
  · exact keeps_some (numbered_unparkOwner (numbered_landResult (numbered_modTile (numbered_dropMsg h))))
  · exact keeps_none

theorem keeps_evHostMemAccess {pkg : Nat} {acc : HostAcc} (h : numbered s) : Keeps (evHostMemAccess pkg acc s) := by
  unfold evHostMemAccess
  split
  · exact keeps_none
  · split
    · split
      · exact keeps_none
      · exact keeps_some (numbered_detect h)
    · split
      · exact keeps_none
      · refine keeps_bindAny (fun a4 => ?_)
        split
        · exact keeps_none
        · exact keeps_some (numbered_bareWrite h)
    · split
      · exact keeps_none
      · refine keeps_bindAny (fun a4 => ?_)
        dsimp only
        split
        · exact keeps_none
        · split
          · exact keeps_some (numbered_unmodify h)
          · exact keeps_some (numbered_glance h)

theorem numbered_dozeAll {ks : List Nat} (h : numbered s) : numbered (dozeAll ks s) :=
  numbered_foldl (fun _ _ ht => numbered_dozeCheck ht) h _

theorem keeps_evBackInvalidation {pkg line : Nat} (h : numbered s) : Keeps (evBackInvalidation pkg line s) := by
  unfold evBackInvalidation
  split
  · exact keeps_none
  · exact keeps_some (numbered_dozeAll (numbered_backInvalidate h))

theorem keeps_evHostLineRefetch {pkg line : Nat} (h : numbered s) : Keeps (evHostLineRefetch pkg line s) := by
  unfold evHostLineRefetch
  split
  · exact keeps_none
  · exact keeps_some (numbered_watchCopy h)

theorem numbered_snareStrand {k : Nat} (h : numbered s) : numbered (snareStrand k s) := by
  unfold snareStrand
  split
  · exact h
  · dsimp only
    split
    · exact numbered_putStop h
    · exact numbered_modStrand (numbered_modPart (numbered_putStop h))

theorem keeps_evSnare {c : CtxId} (h : numbered s) : Keeps (evSnare c s) := by
  unfold evSnare
  split
  · exact keeps_none
  · exact keeps_some (numbered_foldl (fun t a ht => numbered_snareStrand ht) (numbered_modCtx (numbered_raiseLine h)) _)

/-! ## The launcher -/

theorem numbered_schedWalk {c : CtxId} {va : Nat} (h : numbered s) : numbered (schedWalk c va s).1 := by
  unfold schedWalk
  split
  next he => exact numbered_of_fst (numbered_consumeAll h) he
  next he => exact numbered_of_fst (numbered_consumeAll h) he

theorem numbered_schedLine {c : CtxId} {va : Nat} (h : numbered s) : numbered (schedLine c va s) := by
  unfold schedLine
  split
  · exact numbered_glance h
  · exact h

theorem numbered_schedLines {c : CtxId} {va n : Nat} (h : numbered s) : numbered (schedLines c va n s).1 := by
  induction n generalizing va s with
  | zero => exact h
  | succ n ih =>
    unfold schedLines
    split
    next he => exact numbered_of_fst (numbered_schedWalk h) he
    next he => exact ih (numbered_schedLine (numbered_of_fst (numbered_schedWalk h) he))

theorem numbered_recordReads {c : CtxId} {r : Rcd} (h : numbered s) : numbered (recordReads c r s).1 := by
  unfold recordReads
  split
  · split
    · exact numbered_schedLines h
    · exact h
  · exact numbered_schedLines h
  · exact h

theorem numbered_launcherFault {p : PartId} {cause : Nat} (h : numbered s) : numbered (launcherFault p cause s) :=
  numbered_putStop (numbered_raiseLine h)

theorem numbered_setQueue {p : PartId} {q : Nat} {d : BitVec 128} (h : numbered s) : numbered (s.setQueue p q d) :=
  numbered_modPart h

theorem numbered_devWrite {c : CtxId} {key size v : Nat} (h : numbered s) : numbered (devWrite c key size v s).2 :=
  numbered_bareWrite h

/-! The kernel runs the two writes of a queue where it compares an application of these functions with its body; it compares the
functions themselves without running them. -/

theorem advanceHead_eq : @advanceHead = delta% @advanceHead := rfl

theorem enqueueRcd_eq : @enqueueRcd = delta% @enqueueRcd := rfl

theorem takeReads_eq : @takeReads = delta% @takeReads := rfl

theorem numbered_advanceHead {p : PartId} {c : CtxId} {d : BitVec 128} (h : numbered s) : numbered (advanceHead p c d s) := by
  rw [advanceHead_eq]
  exact numbered_devWrite h

theorem numbered_enqueueRcd {p : PartId} {c : CtxId} {d : BitVec 128} {r : Rcd} (h : numbered s) : numbered (enqueueRcd p c d r s) := by
  rw [enqueueRcd_eq]
  exact numbered_devWrite (numbered_devWrite (numbered_devWrite h))

theorem numbered_launchRecord {x : Iss} {d : Opd} {va q : Nat} {r : Rcd} (h : numbered s) : numbered (launchRecord x d va q r s) := by
  rw [launchRecord]
  split
  · exact numbered_answer h
  · split
    next he =>
      have ht := numbered_of_fst (numbered_recordReads h) he
      split
      · exact numbered_answer ht
      · split
        next hc => exact numbered_reportAt (numbered_of_fst (numbered_consume ht) hc)
        next hc =>
          have hu := numbered_of_fst (numbered_consume ht) hc
          split
          · exact numbered_answer hu
          · exact numbered_answer (numbered_enqueueRcd hu)

theorem keeps_effLaunch {d : Opd} {a : Iss} (h : numbered s) : KeepsEff (effLaunch d a s) := by
  unfold effLaunch
  dsimp only
  split
  · exact keepsEff_walk
  · exact keepsEff_stop
  · exact keepsEff_stop
  · split
    · exact keepsEff_wait
    · split
      · exact keepsEff_wait
      next he2 => exact keepsEff_ok (numbered_reportAt (keeps_pairRead h _ he2))
      next he2 => exact keepsEff_ok (numbered_launchRecord (numbered_readsPair (keeps_pairRead h _ he2)))

theorem keeps_reserveWatch {p : PartId} {q : Nat} {d : BitVec 128} (h : numbered s) : Keeps (reserveWatch p q d s) := by
  unfold reserveWatch
  dsimp only
  split
  · exact keeps_none
  · exact keeps_some (numbered_modHome h)

theorem numbered_releaseWatch {p : PartId} {q : Nat} (h : numbered s) : numbered (releaseWatch p q s) :=
  numbered_modPart h

theorem keeps_evQueueEnable {p : PartId} {q : Nat} {desc : DescWrite} (h : numbered s) : Keeps (evQueueEnable p q desc s) := by
  unfold evQueueEnable
  split
  · exact keeps_none
  · dsimp only
    split
    · exact keeps_some (numbered_postBy (numbered_setQueue h))
    · split
      next he2 => exact keeps_some (keeps_reserveWatch (numbered_setQueue h) _ he2)
      · exact keeps_some (numbered_postBy (numbered_modPart (numbered_setQueue h)))

theorem keeps_evQueueDisable {p : PartId} {q : Nat} (h : numbered s) : Keeps (evQueueDisable p q s) := by
  unfold evQueueDisable
  split
  · exact keeps_none
  · exact keeps_some (numbered_releaseWatch (numbered_setQueue h))

theorem keeps_evTailPoll {p : PartId} {q : Nat} (h : numbered s) : Keeps (evTailPoll p q s) := by
  unfold evTailPoll
  split
  · exact keeps_none
  · exact keeps_map (keeps_reserveWatch h) (fun t ht => numbered_modPart ht)

theorem numbered_putRecord {c : CtxId} {va v : Nat} (h : numbered s) : numbered (putRecord c va v s).1 := by
  unfold putRecord
  split
  next he => exact numbered_of_fst (numbered_schedWalk h) he
  next he =>
    split
    · split
      · exact numbered_of_fst (numbered_schedWalk h) he
      · split
        next he3 => exact numbered_launcherFault (numbered_of_fst (numbered_consume (numbered_of_fst (numbered_schedWalk h) he)) he3)
        next he3 => exact numbered_bareWrite (numbered_numbered (numbered_of_fst (numbered_consume (numbered_of_fst
          (numbered_schedWalk h) he)) he3))
    · exact numbered_of_fst (numbered_schedWalk h) he

theorem numbered_closing {c : CtxId} {q : Nat} {r : Rcd} {d : Done} {ws : List Nat} (h : numbered s) : numbered (closing c q r d ws s) :=
  numbered_newId h

theorem numbered_takeGraph {c : CtxId} {q : Nat} {r : Rcd} {ns : List Rcd} (h : numbered s) : numbered (takeGraph c q r ns s) :=
  numbered_foldl (fun _ _ ht => by exact numbered_newId ht) (by exact numbered_newId h) _

theorem numbered_takeReads {p : PartId} {c : CtxId} {d : BitVec 128} {r : Rcd} (h : numbered s) : numbered (takeReads p c d r s).1 := by
  have hk : KeepsFst (some (takeReads p c d r s)) := by
    rw [takeReads_eq]
    beta_reduce
    split
    next he => exact keepsFst_some (numbered_of_fst (numbered_consume h) he)
    next he => exact keepsFst_some (numbered_recordReads (numbered_glanceAll (numbered_of_fst (numbered_consume h) he)))
  exact hk _ rfl

/-- The strands as they were, and a next number that is no lower. -/
theorem numbered_next {t : State} (h : numbered s) (hs : t.strands = s.strands) (hu : s.uid ≤ t.uid) : numbered t :=
  ⟨hs ▸ h.1, fun y hy => (h.2 y (hs ▸ hy)).trans hu⟩

theorem keeps_evLaunchRecordTake {p : PartId} {q : Nat} (h : numbered s) : Keeps (evLaunchRecordTake p q s) := by
  rw [evLaunchRecordTake]
  generalize BitVec.ofNat 1024 (s.read 128 (slotKey p (s.queue p q) (s.qHead p (s.queue p q)))) = r
  generalize s.queue p q = d
  split
  · exact keeps_none
  · split
    next he => exact keeps_some (numbered_launcherFault (numbered_of_fst (numbered_takeReads h) he))
    next t _ he =>
      have hu : numbered (advanceHead p ⟨p, qCtx d⟩ d t) := numbered_advanceHead (numbered_of_fst (numbered_takeReads h) he)
      generalize advanceHead p ⟨p, qCtx d⟩ d t = u at hu ⊢
      split
      · exact keeps_some (numbered_closing hu)
      · split
        · exact keeps_none
        · refine keeps_some ?_
          split
          · exact numbered_takeGraph hu
          · exact numbered_closing hu
        · split
          next hn => exact keeps_some (numbered_next (numbered_of_snd (numbered_newId hu) hn) rfl le_rfl)

theorem keeps_evModeSetApply {p : PartId} {q : Nat} (h : numbered s) : Keeps (evModeSetApply p q s) := by
  rw [evModeSetApply]
  generalize BitVec.ofNat 1024 (s.read 128 (slotKey p (s.queue p q) (s.qHead p (s.queue p q)))) = r
  generalize s.queue p q = d
  split
  · exact keeps_none
  · split
    · exact keeps_none
    · split
      next he => exact keeps_some (numbered_launcherFault (numbered_of_fst (numbered_takeReads h) he))
      next he =>
        have ht := numbered_of_fst (numbered_takeReads h) he
        extract_lets table
        clear_value table
        split
        · exact keeps_some (numbered_closing (numbered_advanceHead ht))
        · exact keeps_some (numbered_closing (numbered_modCtx (numbered_advanceHead ht)))

/-! ## Slices and strands -/

theorem numbered_ringSlice {n : Nat} {l : Launch} (h : numbered s) : numbered (ringSlice n l s) :=
  numbered_modLaunch (numbered_foldl (fun _ _ ht => numbered_modStrand ht) h _)

theorem numbered_startSlice {n : Nat} {l : Launch} (h : numbered s) : numbered (startSlice n l s) := by
  unfold startSlice
  split
  · exact h
  · exact h

theorem keeps_evSliceSelect {p : PartId} (h : numbered s) : Keeps (evSliceSelect p s) := by
  unfold evSliceSelect
  split
  · exact keeps_none
  · split
    · exact keeps_some (numbered_startSlice h)
    · split
      · exact keeps_some (numbered_ringSlice h)
      · exact keeps_mapAny (fun a4 => numbered_startSlice h)

theorem numbered_createStrand {n : Nat} {l : Launch} {slot gen : Nat} (h : numbered s) : numbered (createStrand n l slot gen s) :=
  numbered_newStrand h _

theorem numbered_sendRearm {k slot : Nat} (h : numbered s) : numbered (sendRearm k slot s) := by
  unfold sendRearm
  split
  · exact h
  · dsimp only
    split
    · exact numbered_pageFault h
    · exact numbered_impreciseFault (numbered_modStrand h)
    · split
      · exact numbered_impreciseFault (numbered_modStrand h)
      · exact numbered_send (numbered_modStrand h)

theorem numbered_rearmSlot {k slot : Nat} (h : numbered s) : numbered (rearmSlot k slot s) := by
  unfold rearmSlot
  split
  · exact h
  · dsimp only
    split
    · exact h
    · exact numbered_sendRearm (numbered_modStrand (numbered_newId h))

theorem numbered_releasePassed {k : Nat} (h : numbered s) : numbered (releasePassed k s) := by
  unfold releasePassed
  split
  · exact h
  · exact numbered_releaseThreads h

theorem numbered_restoreStrand {k slot gen : Nat} (h : numbered s) : numbered (restoreStrand k slot gen s) := by
  unfold restoreStrand
  split
  · exact h
  · exact numbered_owedTrap (numbered_unparkBranch (numbered_dozeCheck (numbered_modStrand (numbered_releasePassed
      (numbered_foldl (fun _ _ ht => by exact numbered_rearmSlot ht) (numbered_modLane (by exact numbered_modStrand h)) _)))))

theorem keeps_restoreNext {l : Launch} (h : numbered s) : Keeps (restoreNext l s) := by
  unfold restoreNext
  split
  · exact keeps_none
  · dsimp only
    split
    · split
      · exact keeps_none
      · refine keeps_some (numbered_foldl (fun t a5 ht => ?_) h _)
        split
        · exact numbered_restoreStrand ht
        · exact ht
    · split
      · exact keeps_none
      · exact keeps_mapAny (fun a5 => numbered_restoreStrand h)

theorem keeps_evStrandCreate {n : Nat} (h : numbered s) : Keeps (evStrandCreate n s) := by
  unfold evStrandCreate
  split
  · exact keeps_none
  · split
    · exact keeps_none
    · split
      · exact keeps_restoreNext h
      · split
        · exact keeps_none
        · exact keeps_mapAny (fun a2 => numbered_createStrand h)

theorem numbered_budgetLine {n : Nat} {l : Launch} (h : numbered s) : numbered (budgetLine n l s) := by
  have hl : numbered (((s.raiseLine l.ctx.part 0x35 (some .launcher)).putStop l.ctx.part .launcher
      (StopInfo.bits { flt := { cause := 0x35 }, unit := UnitId.selector s .launcher, coinc := 16 } s.clk))) :=
    numbered_putStop (numbered_raiseLine h)
  unfold budgetLine
  dsimp only
  split
  · exact hl
  · exact hl

theorem keeps_evBudgetExpiry {n : Nat} (h : numbered s) : Keeps (evBudgetExpiry n s) := by
  unfold evBudgetExpiry
  split
  · exact keeps_none
  · split
    · exact keeps_none
    · split
      · exact keeps_some (numbered_budgetLine h)
      · exact keeps_some (numbered_foldl (fun t a2 ht => numbered_budgetTrap ht) (numbered_modLaunch h) _)

theorem keeps_evBudgetGraceExpiry {n : Nat} (h : numbered s) : Keeps (evBudgetGraceExpiry n s) := by
  unfold evBudgetGraceExpiry
  split
  · exact keeps_none
  · split
    · exact keeps_none
    · exact keeps_some (numbered_budgetLine h)

theorem numbered_putProfile {l : Launch} {base node : Nat} (h : numbered s) : numbered (putProfile l base node s).2 := by
  unfold putProfile
  split
  · exact h
  · refine numbered_foldlSnd (fun w t hw => ?_) h _
    split
    next he => exact numbered_of_fst (numbered_putRecord hw) he
    next he => exact numbered_of_fst (numbered_putRecord hw) he

theorem numbered_cleanSlice {n : Nat} (h : numbered s) : numbered (cleanSlice n s) :=
  numbered_filterStrands h

theorem numbered_retireAlone {n : Nat} {l : Launch} (h : numbered s) : numbered (retireAlone n l s) :=
  numbered_closing (numbered_cleanSlice (numbered_putProfile h))

theorem numbered_endGraph {g : Nat} {gr : Machine.Graph} {d : Done} (h : numbered s) : numbered (endGraph g gr d s) :=
  numbered_closing h

theorem numbered_retireNode {n g i : Nat} {l : Launch} (h : numbered s) : numbered (retireNode n g i l s) := by
  unfold retireNode
  split
  · exact numbered_modLaunch h
  · dsimp only
    split
    · split
      · exact numbered_endGraph (numbered_cleanSlice (numbered_putProfile h))
      · exact numbered_cleanSlice (numbered_putProfile h)
    · split
      · exact numbered_endGraph (numbered_cleanSlice (numbered_putProfile h))
      · exact numbered_cleanSlice (numbered_putProfile h)

theorem numbered_forget {n : Nat} {l : Launch} (h : numbered s) : numbered (forget n l s) := by
  unfold forget
  dsimp only
  split
  · refine numbered_modPart (numbered_postBy ?_)
    split
    · exact numbered_postBy (numbered_cleanSlice h)
    · exact numbered_cleanSlice h
  · split
    · exact numbered_postBy (numbered_cleanSlice h)
    · exact numbered_cleanSlice h

theorem keeps_evSliceRetire {n : Nat} (h : numbered s) : Keeps (evSliceRetire n s) := by
  unfold evSliceRetire
  split
  · exact keeps_none
  · split
    · exact keeps_none
    · split
      · split
        · exact keeps_none
        · split
          · exact keeps_some (numbered_forget h)
          · split
            · exact keeps_none
            · split
              next he6 => exact keeps_some (numbered_modLaunch (numbered_of_fst (numbered_putRecord h) he6))
              next he6 => exact keeps_some (numbered_modLaunch (numbered_of_fst (numbered_putRecord h) he6))
      · dsimp only
        split
        · exact keeps_none
        · split
          · exact keeps_some (numbered_retireAlone h)
          · exact keeps_some (numbered_retireNode h)

/-! ## Contexts and partitions -/

theorem numbered_ringContext {c : CtxId} (h : numbered s) : numbered (ringContext c s) :=
  numbered_mapStrands h (fun x => by split <;> rfl)

theorem keeps_evSave {c : CtxId} (h : numbered s) : Keeps (evSave c s) := by
  unfold evSave
  split
  · exact keeps_none
  · exact keeps_some (numbered_ringContext (numbered_modCtx h))

theorem keeps_afterCount {k : Nat} {st : Strand} (h : numbered s) : Keeps (afterCount k st s) := by
  unfold afterCount
  split
  · exact keeps_some (numbered_saveStrand h)
  · split
    · exact keeps_none
    · split
      · exact keeps_some (numbered_saveStrand h)
      · exact keeps_some (numbered_cutBack h)

theorem numbered_getD {o : Option State} (ho : Keeps o) (h : numbered s) : numbered (o.getD s) := by
  cases o with
  | none => exact h
  | some t => exact ho t rfl

theorem keeps_evKnellCountExpiry {c : CtxId} (h : numbered s) : Keeps (evKnellCountExpiry c s) := by
  unfold evKnellCountExpiry
  dsimp only
  split
  · exact keeps_none
  · split
    · exact keeps_none
    · exact keeps_some (numbered_foldl (fun _ _ ht => by exact numbered_getD (keeps_afterCount ht) ht) h _)

theorem numbered_holdCommands {c : CtxId} (h : numbered s) : numbered (holdCommands c s) :=
  numbered_modCtx (numbered_modPart h)

theorem numbered_keepHeader {c : CtxId} (h : numbered s) : numbered (keepHeader c s) :=
  numbered_modCtx h

theorem numbered_restoreBytes {c : CtxId} (h : numbered s) : numbered (restoreBytes c s) :=
  numbered_modCtx (numbered_foldl (fun _ _ ht => numbered_write (numbered_consume ht)) h _)

theorem numbered_cutContext {c : CtxId} (h : numbered s) : numbered (cutContext c s) :=
  h

theorem numbered_departs {c : CtxId} (h : numbered s) : numbered (departs c s) := by
  unfold departs
  dsimp only
  split
  · exact numbered_modCtx h
  · split
    · exact numbered_modCtx h
    · exact numbered_cmdDone (numbered_send (numbered_modCtx h))

theorem keeps_evSaveCompletion {c : CtxId} (h : numbered s) : Keeps (evSaveCompletion c s) := by
  unfold evSaveCompletion
  split
  · exact keeps_none
  · dsimp only
    refine keeps_some ?_
    split
    · exact numbered_departs (numbered_modCtx (numbered_keepHeader (numbered_holdCommands (numbered_cutContext h))))
    · exact numbered_cmdDone (numbered_modCtx (numbered_keepHeader (numbered_holdCommands (numbered_cutContext h))))

theorem keeps_evMove {c : CtxId} {dest : Nat} (h : numbered s) : Keeps (evMove c dest s) := by
  unfold evMove
  dsimp only
  split
  · exact keeps_some (numbered_ringContext (numbered_modCtx h))
  · split
    · exact keeps_some (numbered_departs (numbered_modCtx h))
    · exact keeps_none

theorem numbered_renameCtx {c c' : CtxId} (h : numbered s) : numbered (renameCtx c c' s) :=
  numbered_foldl (fun _ _ ht => by exact numbered_modLane ht) (by exact numbered_mapStrands h (fun x => by split <;> rfl)) _

theorem numbered_dropLines {c : CtxId} (h : numbered s) : numbered (dropLines c s) :=
  numbered_foldl (fun _ _ ht => numbered_writeLine ht) h _

theorem numbered_moveTables {c c' : CtxId} (h : numbered s) : numbered (moveTables c c' s) :=
  numbered_modPart (numbered_modPart h)

theorem keeps_evMoveArrival {n : Nat} (h : numbered s) : Keeps (evMoveArrival n s) := by
  unfold evMoveArrival
  split
  next c dest slot _ =>
    extract_lets c' x s1 s2
    have hs1 : numbered s1 := numbered_moveTables (numbered_renameCtx (numbered_dropLines (numbered_dropCtx (numbered_dropMsg h))))
    clear_value s1
    have hs2 : numbered s2 := hs1
    clear_value s2
    exact keeps_some (numbered_cmdDone (numbered_modCtx hs2))
  · exact keeps_none

theorem numbered_placeRanges {n : Nat} {was : List (Nat × LaneId)} (h : numbered s) : numbered (placeRanges n was s) :=
  numbered_foldl (fun _ _ ht => by exact numbered_modLane ht) (by exact h) _

theorem numbered_replaceLaunch {n : Nat} (h : numbered s) : numbered (replaceLaunch n s) := by
  unfold replaceLaunch
  split
  · exact h
  · dsimp only
    split
    · exact h
    · exact numbered_placeRanges (numbered_foldl (fun t a2 ht => numbered_modStrand ht) (numbered_modLaunch h) _)

theorem keeps_evResume {c : CtxId} (h : numbered s) : Keeps (evResume c s) := by
  unfold evResume
  dsimp only
  split
  · exact keeps_none
  · split
    · exact keeps_some (numbered_modCtx h)
    · exact keeps_some (numbered_cmdDone (numbered_foldl (fun t a ht => numbered_replaceLaunch ht) (numbered_modCtx (numbered_foldl
      (fun t a ht => numbered_pushColl ht) (numbered_restoreBytes h) _)) _))

theorem numbered_replay {c : CtxId} (h : numbered s) : numbered (replay c s) :=
  numbered_mapStrands h (fun x => by split <;> rfl)

theorem numbered_resendRearms {c : CtxId} (h : numbered s) : numbered (resendRearms c s) :=
  numbered_foldl (fun _ _ ht => numbered_foldl (fun _ _ ht1 => numbered_sendRearm ht1) ht _) h _

theorem keeps_evReplay {c : CtxId} (h : numbered s) : Keeps (evReplay c s) := by
  unfold evReplay
  split
  · exact keeps_none
  · exact keeps_some (numbered_cmdDone (numbered_resendRearms (numbered_replay h)))

theorem keeps_evContextEnd {c : CtxId} (h : numbered s) : Keeps (evContextEnd c s) := by
  unfold evContextEnd
  dsimp only
  split
  · exact keeps_none
  · exact keeps_some (numbered_modPart (numbered_dropCtx h))

theorem keeps_evCreatePartition {p : PartId} (h : numbered s) : Keeps (evCreatePartition p s) := by
  unfold evCreatePartition
  split
  · exact keeps_none
  · exact keeps_some h

theorem keeps_evAssignGranules {p : PartId} {gs : List Nat} (h : numbered s) : Keeps (evAssignGranules p gs s) := by
  unfold evAssignGranules
  dsimp only
  split
  · exact keeps_none
  · exact keeps_some (numbered_modPart h)

theorem keeps_evCreateContext {c : CtxId} (h : numbered s) : Keeps (evCreateContext c s) := by
  unfold evCreateContext
  split
  · exact keeps_none
  · exact keeps_some h

theorem keeps_evSetTranslationRoot {c : CtxId} {root : Nat} (h : numbered s) : Keeps (evSetTranslationRoot c root s) := by
  unfold evSetTranslationRoot
  split
  · exact keeps_none
  · exact keeps_some (numbered_modCtx h)

theorem numbered_forgetParts {gone : PartId → Bool} (h : numbered s) : numbered (State.forgetParts gone s) :=
  numbered_filterStrands h

theorem keeps_evDestroyPartition {p : PartId} (h : numbered s) : Keeps (evDestroyPartition p s) := by
  unfold evDestroyPartition
  split
  · exact keeps_none
  · exact keeps_some (numbered_forgetParts h)

theorem keeps_evEnrolDomainGroup {p : PartId} {g : Nat} (h : numbered s) : Keeps (evEnrolDomainGroup p g s) := by
  unfold evEnrolDomainGroup
  split
  · exact keeps_none
  · exact keeps_some (numbered_modPart h)

theorem keeps_effFloat {rm : Rm} {f : RMode → Word → Word → Word → Word} {a : Iss} (h : numbered s) : KeepsEff (effFloat rm f a s) :=
  keeps_eff3 h

/-! ## Host registers and power -/

theorem numbered_ctxCommand {c : CtxId} {val : BitVec 64} {vf : Bool} (h : numbered s) : numbered (ctxCommand c val vf s) := by
  refine numbered_getD ?_ h
  split
  · exact keeps_evSave h
  · exact keeps_evResume h
  · split
    · exact keeps_none
    · exact keeps_evMove h
  · exact keeps_evHalt h
  · exact keeps_evRelease h
  · exact keeps_evReplay h
  · exact keeps_evInval h
  · exact keeps_none

theorem keeps_evRegisterWrite {r : MgmtReg} {val : BitVec 64} (h : numbered s) : Keeps (evRegisterWrite r val s) := by
  unfold evRegisterWrite
  split
  · split
    · exact keeps_some (numbered_ctxCommand h)
    · exact keeps_none
  · split
    · exact keeps_some (numbered_modPart h)
    · exact keeps_none
  · split
    · exact keeps_some h
    · exact keeps_none
  · split
    · exact keeps_some h
    · exact keeps_none
  · split
    · exact keeps_some h
    · exact keeps_none
  · split
    · exact keeps_some h
    · exact keeps_none

theorem keeps_evPcapWrite {n : Nat} {val : BitVec 64} (h : numbered s) : Keeps (evPcapWrite n val s) := by
  unfold evPcapWrite
  split
  · exact keeps_some (numbered_modPkg h)
  · exact keeps_none

theorem keeps_evPartitionShareThrottle {p : PartId} (h : numbered s) : Keeps (evPartitionShareThrottle p s) := by
  unfold evPartitionShareThrottle
  dsimp only
  split
  · exact keeps_none
  · exact keeps_some (numbered_modPart h)

theorem keeps_stepDown {n : Nat} (h : numbered s) : Keeps (stepDown n s) := by
  unfold stepDown
  split
  · exact keeps_none
  · exact keeps_some (numbered_modPkg h)

theorem keeps_evThermalThrottle {n : Nat} (h : numbered s) : Keeps (evThermalThrottle n s) :=
  keeps_stepDown (numbered_modPkg h)

theorem keeps_evThermalShutdown {n : Nat} (h : numbered s) : Keeps (evThermalShutdown n s) := by
  unfold evThermalShutdown
  split
  · exact keeps_none
  · exact keeps_some (numbered_modPkg (numbered_foldl (fun t a ht => numbered_raiseLine ht) h _))

theorem keeps_evPowerRemoval {n : Nat} (h : numbered s) : Keeps (evPowerRemoval n s) := by
  unfold evPowerRemoval
  split
  · split
    · exact keeps_none
    · exact keeps_some (numbered_modPkg h)
  · exact keeps_none

theorem keeps_evFirmwareUpdateStage {n : Nat} {img : FwImage} (h : numbered s) : Keeps (evFirmwareUpdateStage n img s) := by
  unfold evFirmwareUpdateStage
  split
  · exact keeps_none
  · split
    · exact keeps_none
    · split
      · exact keeps_some h
      · split
        · exact keeps_some (numbered_modPkg h)
        · split
          · exact keeps_some h
          · exact keeps_some (numbered_modPkg h)

theorem keeps_evAttestationRequest {n : Nat} {p : Option PartId} {nonce : BitVec 256} (h : numbered s) :
    Keeps (evAttestationRequest n p nonce s) := by
  unfold evAttestationRequest
  dsimp only
  split
  · split
    · exact keeps_none
    · exact keeps_some (numbered_modPkg h)
  · split
    · exact keeps_none
    · exact keeps_some (numbered_modPkg h)

/-! ## Self-tests and repair -/

theorem numbered_moveLane {l : LaneId} (h : numbered s) : numbered (moveLane l s) :=
  numbered_modLane (numbered_foldl (fun _ _ ht => numbered_writeLine ht) (numbered_foldl (fun _ _ ht => numbered_saveStrand ht) h _) _)

theorem numbered_flushBank {t : TileId} {bank : Nat} (h : numbered s) : numbered (flushBank t bank s) := by
  unfold flushBank
  refine numbered_foldl (fun t1 a ht1 => ?_) h _
  split
  · exact ht1
  · split
    · exact numbered_send (numbered_glance ht1)
    · exact numbered_modTile (numbered_clean ht1)

theorem numbered_scrubUnit {u : RUnit} (h : numbered s) : numbered (scrubUnit u s) :=
  numbered_glanceAll h

theorem numbered_takeSpare {n : Nat} {u : RUnit} (h : numbered s) : numbered (takeSpare n u s) := by
  unfold takeSpare
  dsimp only
  split
  · exact numbered_modPort (numbered_modPkg h)
  · exact numbered_modPkg (numbered_modPkg h)

theorem numbered_repairWith {n : Nat} {u : RUnit} (h : numbered s) : numbered (repairWith n u s) := by
  unfold repairWith
  dsimp only
  split
  · exact numbered_moveLane (numbered_takeSpare h)
  · exact numbered_flushBank (numbered_takeSpare h)
  · exact numbered_scrubUnit (numbered_takeSpare h)

theorem numbered_withoutSpare {n : Nat} {u : RUnit} (h : numbered s) : numbered (withoutSpare n u s) := by
  unfold withoutSpare
  dsimp only
  split
  · exact numbered_modPkg h
  · exact numbered_modPkg h
  · exact numbered_modPkg h
  · exact numbered_modPkg h
  · exact numbered_modPort h
  · exact numbered_modPkg h
  · exact h

theorem numbered_enterRecord {n : Nat} {d : List PartId × ErrRec} (h : numbered s) : numbered (enterRecord n d s) := by
  unfold enterRecord
  dsimp only
  refine numbered_modPkg (numbered_foldl (fun t a ht => ?_) h _)
  split
  · exact numbered_post (numbered_modPart ht)
  · exact numbered_modPart ht

theorem keeps_evSelfTestDone {m : Nat} {passes : Bool} (h : numbered s) : Keeps (evSelfTestDone m passes s) := by
  unfold evSelfTestDone
  split
  · dsimp only
    refine keeps_some (numbered_foldl (fun t a6 ht => numbered_unparkOwner (numbered_landResult ht)) (numbered_foldl
      (fun t a6 ht => numbered_enterRecord ht) (numbered_foldl (fun t a6 ht => numbered_modPart ht) (numbered_modPkg ?_) _) _) _)
    split
    · split
      · exact numbered_repairWith (numbered_dropMsg h)
      · exact numbered_withoutSpare (numbered_dropMsg h)
    · exact numbered_dropMsg h
  · exact keeps_none

/-! ## Link events and reset -/

theorem numbered_portError {n port dir : Nat} (h : numbered s) : numbered (portError n port dir s) :=
  numbered_detect h

theorem keeps_evFlitReceive {n port : Nat} {hm : BitVec 64} {payload : List Byte} {crc : BitVec 64} {room : Bool} (h : numbered s) :
    Keeps (evFlitReceive n port hm payload crc room s) := by
  unfold evFlitReceive
  dsimp only
  split
  · exact keeps_none
  · split
    · exact keeps_some (numbered_portError (numbered_refuseFlit h))
    · split
      · split
        · exact keeps_some h
        · exact keeps_some (numbered_refuseFlit h)
      · split
        · exact keeps_some (numbered_refuseFlit h)
        · exact keeps_some (numbered_acceptData h)

theorem keeps_evAckReceive {n port : Nat} {hm : BitVec 64} (h : numbered s) : Keeps (evAckReceive n port hm s) := by
  unfold evAckReceive
  split
  · exact keeps_none
  · exact keeps_some (numbered_modVc h)

theorem keeps_evNackReceive {n port : Nat} {hm : BitVec 64} {crc : Bool} (h : numbered s) : Keeps (evNackReceive n port hm crc s) := by
  unfold evNackReceive
  dsimp only
  split
  · exact keeps_none
  · refine keeps_some ?_
    split
    · split
      · exact numbered_portError (numbered_modVc h)
      · exact numbered_modVc h
    · split
      · split
        · exact numbered_portError (numbered_modVc h)
        · exact numbered_modVc h
      · split
        · exact numbered_portError (numbered_modVc h)
        · exact numbered_modVc h

theorem keeps_evRetransmit {n port vc : Nat} (h : numbered s) : Keeps (evRetransmit n port vc s) := by
  unfold evRetransmit
  dsimp only
  split
  · exact keeps_none
  · split
    · exact keeps_none
    · exact keeps_some (numbered_foldl (fun t a3 ht => numbered_sendFlit ht) (numbered_modPort (numbered_modVc h)) _)

theorem numbered_trainPort {n port : Nat} (h : numbered s) : numbered (trainPort n port s) := by
  unfold trainPort
  dsimp only
  split
  · exact numbered_modPkg h
  · exact numbered_modPort h

theorem numbered_joinDomain {n : Nat} (h : numbered s) : numbered (joinDomain n s) := by
  unfold joinDomain
  dsimp only
  split
  · exact numbered_modPkg h
  · split
    · exact numbered_modPkg h
    · exact numbered_modPkg h
    · exact numbered_modPkg h

theorem keeps_evLinkControl {n port : Nat} {hm : BitVec 64} (h : numbered s) : Keeps (evLinkControl n port hm s) := by
  unfold evLinkControl
  split
  · exact keeps_none
  · split
    · exact keeps_some h
    · exact keeps_some (numbered_joinDomain (numbered_trainPort h))

theorem numbered_forgetPkg {n : Nat} (h : numbered s) : numbered (forgetPkg n s) :=
  numbered_filterStrands h

theorem numbered_draw (h : numbered s) : numbered (s.draw).2 :=
  h

theorem numbered_bringUpUnit {n : Nat} {sel : Word} (h : numbered s) : numbered (bringUpUnit n s sel) := by
  unfold bringUpUnit
  dsimp only
  refine numbered_modPkg (numbered_draw ?_)
  split
  · exact numbered_takeSpare h
  · exact numbered_withoutSpare h

theorem numbered_failStep {n k : Nat} (h : numbered s) : numbered (failStep n k s) :=
  numbered_modPkg h

theorem numbered_ready {n : Nat} (h : numbered s) : numbered (ready n s) :=
  numbered_modPkg h

theorem numbered_bringUpFabric {n : Nat} (h : numbered s) : numbered (bringUpFabric n s) := by
  unfold bringUpFabric
  split
  next he =>
    dsimp only
    split
    · refine numbered_failStep (numbered_joinDomain (numbered_foldl (fun t1 a2 ht1 => ?_) (numbered_of_snd (numbered_draw h) he) _))
      split
      · exact numbered_trainPort ht1
      · exact ht1
    · refine numbered_ready (numbered_joinDomain (numbered_foldl (fun t1 a2 ht1 => ?_) (numbered_of_snd (numbered_draw h) he) _))
      split
      · exact numbered_trainPort ht1
      · exact ht1

theorem numbered_bringUpHost {n : Nat} (h : numbered s) : numbered (bringUpHost n s) := by
  unfold bringUpHost
  split
  next he =>
    split
    · exact numbered_failStep (numbered_of_snd (numbered_draw h) he)
    · split
      · exact numbered_failStep (numbered_modPkg (numbered_of_snd (numbered_draw h) he))
      · exact numbered_bringUpFabric (numbered_modPkg (numbered_of_snd (numbered_draw h) he))

theorem numbered_bringUp {n : Nat} (h : numbered s) : numbered (bringUp n s) := by
  unfold bringUp
  split
  next he =>
    split
    · exact numbered_failStep (numbered_of_snd (numbered_draw h) he)
    · exact numbered_bringUpHost (numbered_modPkg (numbered_foldl (fun t1 a2 ht1 => numbered_bringUpUnit ht1) (numbered_of_snd
      (numbered_draw h) he) _))

theorem keeps_evColdReset {n : Nat} (h : numbered s) : Keeps (evColdReset n s) := by
  unfold evColdReset
  split
  · exact keeps_none
  · dsimp only
    refine keeps_some ?_
    split
    · exact numbered_modPkg (numbered_forgetPkg h)
    · exact numbered_bringUp (numbered_modPkg (numbered_forgetPkg h))

theorem keeps_effPmov {dir : Bool} {kp : BitVec 3} {a : Iss} (h : numbered s) : KeepsEff (effPmov dir kp a s) := by
  unfold effPmov
  split
  · exact keepsEff_ok (numbered_writeRows h)
  · exact keepsEff_ok (numbered_writeRows h)

/-! ## Page walks -/

theorem keeps_walkAnswer {k : Nat} {st : Strand} {va : Nat} {fault : Nat → State → State}
    (hf : ∀ c t, numbered t → numbered (fault c t)) (h : numbered s) : Keeps (walkAnswer k st va fault s) := by
  unfold walkAnswer
  split
  · exact keeps_none
  next he => exact keeps_some (hf _ _ (keeps_unitRead h _ he))
  next t he =>
    have ht : numbered t := keeps_unitRead h _ he
    split
    · exact keeps_some (numbered_pageFault (numbered_walkFill ht))
    · exact keeps_some (hf _ _ (numbered_walkFill ht))
    · exact keeps_some (numbered_tlbFill (numbered_walkFill ht))

theorem keeps_evPageWalk {k : Nat} (h : numbered s) : Keeps (evPageWalk k s) := by
  unfold evPageWalk
  split
  · exact keeps_none
  · split
    · exact keeps_none
    · split
      · exact keeps_walkAnswer (fun _ _ ht => numbered_issueFault ht) h
      · split
        · exact keeps_walkAnswer (fun _ _ ht => numbered_preciseFault ht) h
        · split
          · exact keeps_walkAnswer (fun _ _ ht => numbered_drainFault ht) h
          · exact keeps_none

/-! ## Any instruction and any event -/

/-- What an instruction's effect makes of a state keeps the numbers. -/
def KeepsOf (o : Option Effect) : Prop := ∀ e, o = some e → ∀ (x : Iss) (s : State), numbered s → KeepsEff (e x s)

/-- The same of an event. -/
def KeepsEv (o : Option (State → Option State)) : Prop := ∀ f, o = some f → ∀ s, numbered s → Keeps (f s)

theorem keepsOf_some {e : Effect} (h : ∀ (x : Iss) (s : State), numbered s → KeepsEff (e x s)) : KeepsOf (some e) :=
  fun _ he => Option.some.inj he ▸ h

theorem keepsOf_none : KeepsOf none := fun _ he => by cases he

theorem keepsEv_some {f : State → Option State} (h : ∀ s, numbered s → Keeps (f s)) : KeepsEv (some f) :=
  fun _ hf => Option.some.inj hf ▸ h

theorem keepsEv_none : KeepsEv none := fun _ hf => by cases hf

theorem keepsOf_effOf (i : Instr) : KeepsOf (effOf i) := by
  cases i with
  | nop => exact keepsOf_some fun _ _ h => keepsEff_ok h
  | bra => exact keepsOf_some fun _ _ h => keeps_effBra h
  | brx => exact keepsOf_some fun _ _ h => keeps_effBrx h
  | call => exact keepsOf_some fun _ _ h => keeps_effCall h
  | callx => exact keepsOf_some fun _ _ h => keeps_effCallx h
  | ret => exact keepsOf_some fun _ _ h => keeps_effRet h
  | bpend => exact keepsOf_some fun _ _ h => keeps_effBpend h
  | exit => exact keepsOf_some fun _ _ h => keeps_effExit h
  | yield => exact keepsOf_some fun _ _ h => keeps_effYield h
  | idem | nap => exact keepsOf_some fun _ _ h => keepsEff_ok (numbered_modStrand h)
  | trap => exact keepsOf_some fun _ _ h => keeps_effTrap h
  | brk => exact keepsOf_some fun _ _ h => keeps_effBrk h
  | mode => exact keepsOf_some fun _ _ h => keeps_effMode h
  | join => exact keepsOf_some fun _ _ h => keeps_effJoin h
  | leave => exact keepsOf_some fun _ _ h => keeps_effLeave h
  | launch => exact keepsOf_some fun _ _ h => keeps_effLaunch h
  | iadd | isub | iaddc | isubb | imul | imulh | imadw | imin | imax | iabs | ineg | lea | iadd64 | ireq | mov | movi | and | or
  | xor | not | andn | shl | shr | sar | rol | fshl | bfe | popc | clz | ctz | brev | lop3 | icmp | fcmp | sel | pset | vote
  | shfl | redux | scan | matchT | fclass | cvtef | clock => exact keepsOf_some fun _ _ h => keepsEff_ok (numbered_writeRows h)
  | imad | isad | idot4 | bfi | prmt | fmin | fmax | frcp | frsq | fexp2 | flog2 | fsinp | fcosp | cvtsr =>
    exact keepsOf_some fun _ _ h => keeps_eff3 h
  | movx => exact keepsOf_some fun _ _ h => keeps_effMovx h
  | movxw => exact keepsOf_some fun _ _ h => keeps_effMovxw h
  | pmov => exact keepsOf_some fun _ _ h => keeps_effPmov h
  | fadd | fsub | fmul | ffma | fscale | frnd | fdot2 | fsqrt | cvt => exact keepsOf_some fun _ _ h => keeps_effFloat h
  | blkh => exact keepsOf_some fun _ _ h => keeps_effBlkh h
  | blkhw => exact keepsOf_some fun _ _ h => keeps_effBlkhw h
  | blkpack => exact keepsOf_some fun _ _ h => keeps_effBlkpack h
  | blkunp => exact keepsOf_some fun _ _ h => keeps_effBlkunp h
  | blkscl => exact keepsOf_some fun _ _ h => keeps_effBlkscl h
  | ld => exact keepsOf_some fun _ _ h => keeps_effLd h
  | st => exact keepsOf_some fun _ _ h => keeps_effSt h
  | ldu => exact keepsOf_some fun _ _ h => keeps_effLdu h
  | stu => exact keepsOf_some fun _ _ h => keeps_effStu h
  | ldb => exact keepsOf_some fun _ _ h => keeps_effLdb h
  | stb => exact keepsOf_some fun _ _ h => keeps_effStb h
  | pref => exact keepsOf_some fun _ _ h => keeps_effPref h
  | cwb => exact keepsOf_some fun _ _ h => keeps_effCwb h
  | cinv => exact keepsOf_some fun _ _ h => keeps_effCinv h
  | atom => exact keepsOf_some fun _ _ h => keeps_effAtom h
  | red => exact keepsOf_some fun _ _ h => keeps_effRed h
  | cas => exact keepsOf_some fun _ _ h => keeps_effCas h
  | fence => exact keepsOf_some fun _ _ h => keeps_effFence h
  | algld => exact keepsOf_some fun _ _ h => keeps_effAlgld h
  | algrd => exact keepsOf_some fun _ _ h => keeps_effAlgrd h
  | algclr => exact keepsOf_some fun _ _ h => keeps_effAlgclr h
  | bari => exact keepsOf_some fun _ _ h => keeps_effBari h
  | bara => exact keepsOf_some fun _ _ h => keeps_effBara h
  | barw => exact keepsOf_some fun _ _ h => keeps_effBarw h
  | bard => exact keepsOf_some fun _ _ h => keeps_effBard h
  | barq => exact keepsOf_some fun _ _ h => keeps_effBarq h
  | watch => exact keepsOf_some fun _ _ h => keeps_effWatch h
  | doze => exact keepsOf_some fun _ _ h => keeps_effDoze h
  | unwatch => exact keepsOf_some fun _ _ h => keeps_effUnwatch h
  | shrmap => exact keepsOf_some fun _ _ h => keeps_effShrmap h
  | shrunmap => exact keepsOf_some fun _ _ h => keeps_effShrunmap h
  | ferd => exact keepsOf_some fun _ _ h => keeps_effFerd h
  | fewr => exact keepsOf_some fun _ _ h => keeps_effFewr h
  | qcfg => exact keepsOf_some fun _ _ h => keeps_effQcfg h
  | qstat => exact keepsOf_some fun _ _ h => keeps_effQstat h
  | tokw => exact keepsOf_some fun _ _ h => keeps_effTokw h
  | tokp => exact keepsOf_some fun _ _ h => keeps_effTokp h
  | bdecl => exact keepsOf_some fun _ _ h => keeps_effBdecl h
  | bset => exact keepsOf_some fun _ _ h => keeps_effBset h
  | brel => exact keepsOf_some fun _ _ h => keeps_effBrel h
  | bqry => exact keepsOf_some fun _ _ h => keeps_effBqry h
  | stat => exact keepsOf_some fun _ _ h => keeps_effStat h
  | unstat => exact keepsOf_some fun _ _ h => keeps_effUnstat h
  | oclaim => exact keepsOf_some fun _ _ h => keeps_effOclaim h
  | orels => exact keepsOf_some fun _ _ h => keeps_effOrels h
  | oput => exact keepsOf_some fun _ _ h => keeps_effOput h
  | task => exact keepsOf_some fun _ _ h => keeps_effTask h
  | accz => exact keepsOf_some fun _ _ h => keeps_effAccz h
  | accrd => exact keepsOf_some fun _ _ h => keeps_effAccrd h
  | accwr => exact keepsOf_some fun _ _ h => keeps_effAccwr h
  | acccmt => exact keepsOf_some fun _ _ h => keeps_effAcccmt h
  | accdsc => exact keepsOf_some fun _ _ h => keeps_effAccdsc h
  | twait => exact keepsOf_some fun _ _ h => keeps_effTwait h
  | slay => exact keepsOf_some fun _ _ h => keeps_effSlay h
  | sfill => exact keepsOf_some fun _ _ h => keeps_effSfill h
  | sdrain => exact keepsOf_some fun _ _ h => keeps_effSdrain h
  | ssig => exact keepsOf_some fun _ _ h => keeps_effSsig h
  | qfence => exact keepsOf_some fun _ _ h => keeps_effQfence h
  | coll => exact keepsOf_some fun _ _ h => keeps_effColl h
  | cseq => exact keepsOf_some fun _ _ h => keeps_effCseq h
  | ewait => exact keepsOf_some fun _ _ h => keeps_effEwait h
  | rand => exact keepsOf_some fun _ _ h => keeps_effRand h
  | rres => exact keepsOf_some fun _ _ h => keeps_effRres h
  | csrr => exact keepsOf_some fun _ _ h => keeps_effCsrr h
  | csrw => exact keepsOf_some fun _ _ h => keeps_effCsrw h
  | tret => exact keepsOf_some fun _ _ h => keeps_effTret h
  | stoprd => exact keepsOf_some fun _ _ h => keeps_effStoprd h
  | regev => exact keepsOf_some fun _ _ h => keeps_effRegev h
  | haltl => exact keepsOf_some fun _ _ h => keeps_effHaltl h
  | errlog => exact keepsOf_some fun _ _ h => keeps_effErrlog h
  | stest => exact keepsOf_some fun _ _ h => keeps_effStest h
  | tlbinv => exact keepsOf_some fun _ _ h => keeps_effTlbinv h
  | _ => exact keepsOf_none

/-! ## An issue and a drain -/

theorem keeps_popAll {c : CtxId} {qpb : Assoc Nat (Nat × Nat)} {l : List (Nat × Pos × Nat)} {acc : Assoc (Nat × Pos) Word}
  (h : numbered s) :
    KeepsFst (popAll c qpb l s acc) := by
  induction l generalizing s acc with
  | nil => exact keepsFst_some h
  | cons r l ih =>
    obtain ⟨t, p, n⟩ := r
    unfold popAll
    split
    · exact keepsFst_none
    · split
      · exact keepsFst_none
      · exact ih (numbered_modTc h)

section
variable {eff : Effect} (heff : ∀ (x : Iss) (s : State), numbered s → KeepsEff (eff x s))
include heff

theorem keeps_performs {x : Iss} (h : numbered s) : KeepsEff (performs x s eff) := by
  unfold performs
  split
  · exact keepsEff_ok h
  · split
    · exact keepsEff_stop
    · split
      · exact keepsEff_cond
      next he =>
        split
        · exact keepsEff_cond
        · exact heff _ _ (keeps_popAll h _ he)

theorem keeps_issueIn {x : Iss} {c : Option State} (hc : Keeps c) (h : numbered s) : Keeps (issueIn s x eff c) := by
  unfold issueIn
  split
  · exact keeps_none
  next he =>
    have ht := keeps_useSitesOf h _ he
    unfold settle
    split
    next hr => exact keeps_some (numbered_finish (keeps_performs heff (numbered_advance ht) _ hr))
    · exact keeps_some (numbered_preciseFault ht)
    · exact keeps_none
    · exact keeps_none
    · exact hc
  next he => exact keeps_some (numbered_preciseFault (keeps_useSitesOf h _ he))

theorem keeps_drainIn {x : Iss} {e : Entry} (h : numbered s) : Keeps (drainIn s x e eff) := by
  unfold drainIn
  dsimp only
  split
  · exact keeps_none
  next he =>
    have ht := keeps_useSitesOf h _ he
    split
    next hr => exact keeps_some (numbered_finishDrain (keeps_performs heff ht _ hr))
    · exact keeps_some (numbered_drainFault ht)
    · exact keeps_none
    · exact keeps_none
    · exact keeps_none
  next he => exact keeps_some (numbered_drainFault (keeps_useSitesOf h _ he))

end

/-- What is planned for an instruction, where it comes to a state, keeps the numbers. -/
def KeepsPlan : Plan → Prop
  | .wait => True
  | .inPlace _ c => Keeps c
  | .other t => numbered t

theorem keepsPlan_ofOption {o : Option State} (ho : Keeps o) : KeepsPlan (.ofOption o) := by
  cases o with
  | none => exact trivial
  | some t => exact ho t rfl

theorem keepsPlan_planPlain {x : Iss} : KeepsPlan (planPlain s x) := by
  unfold planPlain
  split
  · exact trivial
  · split
    · exact trivial
    · split
      · exact trivial
      · exact keeps_none

theorem keepsPlan_planDeferring {x : Iss} (h : numbered s) : KeepsPlan (planDeferring s x) := by
  unfold planDeferring
  extract_lets now predTag predUns srcUns dstUns waitUns cause y here capt take
  clear_value cause y predUns srcUns waitUns
  have hhere : ∀ c, Keeps c → KeepsPlan (here c) := by
    intro c hc
    dsimp only [here]
    split
    · exact trivial
    · exact hc
  have hcapt : ∀ n, Keeps (capt n) := by
    intro n
    dsimp only [capt]
    split
    · exact keeps_none
    · exact keeps_capture h
  have htake : ∀ n, KeepsPlan (take n) := by
    intro n
    dsimp only [take]
    split
    · split
      · exact hhere _ keeps_none
      · exact trivial
    · exact keepsPlan_ofOption (hcapt n)
  have hord : ∀ b : Bool, Keeps (if b then capt 16 else none) := by
    intro b
    split
    · exact hcapt 16
    · exact keeps_none
  clear_value here capt take
  split
  · split
    · exact numbered_modStrand h
    · split
      · exact trivial
      · exact hhere _ keeps_none
  · split
    · exact numbered_modStrand h
    · split
      · exact trivial
      · exact hhere _ keeps_none
  · split
    · exact hhere _ keeps_none
    · exact trivial
  · split
    · exact hhere _ keeps_none
    · exact trivial
  · split
    · exact hhere _ keeps_none
    · exact trivial
  all_goals
    split
    · exact htake _
    · split
      · exact htake _
      · exact hhere _ (hord _)

theorem keepsPlan_plan {x : Iss} (h : numbered s) : KeepsPlan (plan s x) := by
  unfold plan
  split
  · exact keepsPlan_planDeferring h
  · exact keepsPlan_planPlain

theorem keeps_attempt {i : Instr} {eff : Effect} (heff : ∀ (x : Iss) (s : State), numbered s → KeepsEff (eff x s)) (h : numbered s) :
    Keeps (attempt i eff s) := by
  unfold attempt
  split
  · exact keeps_none
  next x _ =>
    have hp : KeepsPlan (plan s x) := keepsPlan_plan h
    split
    · exact keeps_none
    · split
      · exact keeps_none
      · split
        · exact keeps_none
        · exact keeps_some (numbered_preciseFault h)
      · exact keeps_some (numbered_preciseFault h)
      next he =>
        rw [he] at hp
        exact keeps_issueIn heff hp h
      next he =>
        rw [he] at hp
        split
        · exact keeps_some hp
        · exact keeps_none

theorem keeps_attemptDrain {k : Nat} (h : numbered s) : Keeps (attemptDrain k effOf s) := by
  unfold attemptDrain
  split
  · exact keeps_none
  · split
    · exact keeps_none
    · split
      · exact keeps_some (numbered_drainFault h)
      · split
        · exact keeps_some (numbered_drainFault h)
        next he =>
          split
          · exact keeps_none
          · exact keeps_drainIn (keepsOf_effOf _ _ he) h

theorem keepsEv_evOf (i : Instr) : KeepsEv (evOf i) := by
  cases i with
  | lineFetch => exact keepsEv_some fun _ h => keeps_evLineFetch h
  | registerLineFill => exact keepsEv_some fun _ h => keeps_evRegisterLineFill h
  | returnStackFill => exact keepsEv_some fun _ h => keeps_evReturnStackFill h
  | resultLands => exact keepsEv_some fun _ h => keeps_evResultLands h
  | residualDrain => exact keepsEv_some fun _ h => keeps_attemptDrain h
  | fixedLatencyCompletion => exact keepsEv_some fun _ h => keeps_evFixedLatencyCompletion h
  | napExpiry => exact keepsEv_some fun _ h => keeps_evNapExpiry h
  | dozeTimeout => exact keepsEv_some fun _ h => keeps_evDozeTimeout h
  | homeAccept => exact keepsEv_some fun _ h => keeps_evHomeAccept h
  | pendingRewrite => exact keepsEv_some fun _ h => keeps_evPendingRewrite h
  | homeApply => exact keepsEv_some fun _ h => keeps_evHomeApply h
  | invalidationArrival => exact keepsEv_some fun _ h => keeps_evInvalidationArrival h
  | invalidationAcknowledgement => exact keepsEv_some fun _ h => keeps_evInvalidationAcknowledgement h
  | tileCacheFill => exact keepsEv_some fun _ h => keeps_evTileCacheFill h
  | impreciseFaultReport => exact keepsEv_some fun _ h => keeps_evImpreciseFaultReport h
  | hostWritebackAck => exact keepsEv_some fun _ h => keeps_evHostWritebackAck h
  | hostMemAccess => exact keepsEv_some fun _ h => keeps_evHostMemAccess h
  | backInvalidation => exact keepsEv_some fun _ h => keeps_evBackInvalidation h
  | hostLineRefetch => exact keepsEv_some fun _ h => keeps_evHostLineRefetch h
  | pageWalk => exact keepsEv_some fun _ h => keeps_evPageWalk h
  | watchArm => exact keepsEv_some fun _ h => keeps_evWatchArm h
  | armAck => exact keepsEv_some fun _ h => keeps_evArmAck h
  | wakeMessage => exact keepsEv_some fun _ h => keeps_evWakeMessage h
  | evictionMessage => exact keepsEv_some fun _ h => keeps_evEvictionMessage h
  | disarmAck => exact keepsEv_some fun _ h => keeps_evDisarmAck h
  | tailPoll => exact keepsEv_some fun _ h => keeps_evTailPoll h
  | snare => exact keepsEv_some fun _ h => keeps_evSnare h
  | barrierMessage => exact keepsEv_some fun _ h => keeps_evBarrierMessage h
  | barrierRelease => exact keepsEv_some fun _ h => keeps_evBarrierRelease h
  | barrierAnswer => exact keepsEv_some fun _ h => keeps_evBarrierAnswer h
  | overArrivalRefusal => exact keepsEv_some fun _ h => keeps_evOverArrivalRefusal h
  | domainCounterMessage => exact keepsEv_some fun _ h => keeps_evDomainCounterMessage h
  | domainPhaseMulticast => exact keepsEv_some fun _ h => keeps_evDomainPhaseMulticast h
  | bufferStateChange => exact keepsEv_some fun _ h => keeps_evBufferStateChange h
  | oputApply => exact keepsEv_some fun _ h => keeps_evOputApply h
  | taskQueueAccept => exact keepsEv_some fun _ h => keeps_evTaskQueueAccept h
  | taskStart => exact keepsEv_some fun _ h => keeps_evTaskStart h
  | segmentComplete => exact keepsEv_some fun _ h => keeps_evSegmentComplete h
  | taskRetire => exact keepsEv_some fun _ h => keeps_evTaskRetire h
  | accumulatorItemApply => exact keepsEv_some fun _ h => keeps_evAccumulatorItemApply h
  | slayInstall => exact keepsEv_some fun _ h => keeps_evSlayInstall h
  | ringBindCheck => exact keepsEv_some fun _ h => keeps_evRingBindCheck h
  | ringTransferStart => exact keepsEv_some fun _ h => keeps_evRingTransferStart h
  | ringTransferDone => exact keepsEv_some fun _ h => keeps_evRingTransferDone h
  | ssigApply => exact keepsEv_some fun _ h => keeps_evSsigApply h
  | collCommandStart => exact keepsEv_some fun _ h => keeps_evCollCommandStart h
  | collArrival => exact keepsEv_some fun _ h => keeps_evCollArrival h
  | collApply => exact keepsEv_some fun _ h => keeps_evCollApply h
  | collAck => exact keepsEv_some fun _ h => keeps_evCollAck h
  | collRefusalTimeout => exact keepsEv_some fun _ h => keeps_evCollRefusalTimeout h
  | launchRecordTake => exact keepsEv_some fun _ h => keeps_evLaunchRecordTake h
  | sliceSelect => exact keepsEv_some fun _ h => keeps_evSliceSelect h
  | strandCreate => exact keepsEv_some fun _ h => keeps_evStrandCreate h
  | modeSetApply => exact keepsEv_some fun _ h => keeps_evModeSetApply h
  | budgetExpiry => exact keepsEv_some fun _ h => keeps_evBudgetExpiry h
  | budgetGraceExpiry => exact keepsEv_some fun _ h => keeps_evBudgetGraceExpiry h
  | sliceRetire => exact keepsEv_some fun _ h => keeps_evSliceRetire h
  | queueEnable => exact keepsEv_some fun _ h => keeps_evQueueEnable h
  | queueDisable => exact keepsEv_some fun _ h => keeps_evQueueDisable h
  | registerWrite => exact keepsEv_some fun _ h => keeps_evRegisterWrite h
  | pcapWrite => exact keepsEv_some fun _ h => keeps_evPcapWrite h
  | save => exact keepsEv_some fun _ h => keeps_evSave h
  | resume => exact keepsEv_some fun _ h => keeps_evResume h
  | move => exact keepsEv_some fun _ h => keeps_evMove h
  | halt => exact keepsEv_some fun _ h => keeps_evHalt h
  | release => exact keepsEv_some fun _ h => keeps_evRelease h
  | replay => exact keepsEv_some fun _ h => keeps_evReplay h
  | inval => exact keepsEv_some fun _ h => keeps_evInval h
  | knellCountExpiry => exact keepsEv_some fun _ h => keeps_evKnellCountExpiry h
  | saveCompletion => exact keepsEv_some fun _ h => keeps_evSaveCompletion h
  | moveArrival => exact keepsEv_some fun _ h => keeps_evMoveArrival h
  | unitStop => exact keepsEv_some fun _ h => keeps_evUnitStop h
  | originatorHandlerEntry => exact keepsEv_some fun _ h => keeps_evOriginatorHandlerEntry h
  | createPartition => exact keepsEv_some fun _ h => keeps_evCreatePartition h
  | assignGranules => exact keepsEv_some fun _ h => keeps_evAssignGranules h
  | createContext => exact keepsEv_some fun _ h => keeps_evCreateContext h
  | setTranslationRoot => exact keepsEv_some fun _ h => keeps_evSetTranslationRoot h
  | destroyPartition => exact keepsEv_some fun _ h => keeps_evDestroyPartition h
  | enrolDomainGroup => exact keepsEv_some fun _ h => keeps_evEnrolDomainGroup h
  | retransmit => exact keepsEv_some fun _ h => keeps_evRetransmit h
  | powerRemoval => exact keepsEv_some fun _ h => keeps_evPowerRemoval h
  | selfTestDone => exact keepsEv_some fun _ h => keeps_evSelfTestDone h
  | attestationRequest => exact keepsEv_some fun _ h => keeps_evAttestationRequest h
  | firmwareUpdateStage => exact keepsEv_some fun _ h => keeps_evFirmwareUpdateStage h
  | flitReceive => exact keepsEv_some fun _ h => keeps_evFlitReceive h
  | ackReceive => exact keepsEv_some fun _ h => keeps_evAckReceive h
  | nackReceive => exact keepsEv_some fun _ h => keeps_evNackReceive h
  | linkControl => exact keepsEv_some fun _ h => keeps_evLinkControl h
  | powerCapStep => exact keepsEv_some fun _ h => keeps_stepDown h
  | thermalThrottle => exact keepsEv_some fun _ h => keeps_evThermalThrottle h
  | thermalShutdown => exact keepsEv_some fun _ h => keeps_evThermalShutdown h
  | coldReset => exact keepsEv_some fun _ h => keeps_evColdReset h
  | contextEnd => exact keepsEv_some fun _ h => keeps_evContextEnd h
  | partitionShareThrottle => exact keepsEv_some fun _ h => keeps_evPartitionShareThrottle h
  | _ => exact keepsEv_none

/-! ## A step -/

theorem numbered_exec {i : Instr} {t : State} (h : numbered s) (ht : exec i s = .next t) : numbered t := by
  rcases lane_or_event i with ⟨eff, he⟩ | ⟨f, hf⟩
  · rw [exec_lane he] at ht
    rcases issue_cases i eff s with h1 | h1 | ⟨u, hu, h1⟩ <;> rw [h1] at ht
    · cases ht
    · cases ht; exact h
    · cases ht
      exact numbered_commit (keeps_attempt (keepsOf_effOf i _ he) h _ hu)
  · rw [exec_event hf] at ht
    cases ht
    split
    next he => exact numbered_commit (keepsEv_evOf i _ hf _ h _ he)
    next => exact h

/-- What is to be done starts or ends in a state that keeps the numbers. -/
def KeepsAct : Act → Prop
  | .exec _ t => numbered t
  | .done t => numbered t

theorem keepsAct_pickAct {p : Pick} (h : numbered s) : KeepsAct (pickAct s p) := by
  cases p with
  | drain k => exact h
  | issue k i => exact h
  | fault k f pc exm act => exact numbered_commit (numbered_preciseFault h)

theorem keepsAct_runAct (h : numbered s) : KeepsAct (runAct s) := by
  unfold runAct
  split
  · exact h
  · split
    · exact keepsAct_pickAct h
    · split
      · exact h
      · exact h

theorem keepsAct_nextAct (h : numbered s) : KeepsAct (nextAct s) := by
  unfold nextAct
  split
  · exact keepsAct_runAct h
  next r _ =>
    have hr : numbered { s with agenda := r } := h
    dsimp only
    split
    · exact keepsAct_runAct hr
    · split
      · exact keepsAct_pickAct hr
      · exact hr
    · split
      · exact hr
      · exact keepsAct_runAct hr
    · split
      · exact keepsAct_pickAct hr
      · exact hr

theorem numbered_step {t : State} (h : numbered s) (ht : step s = .next t) : numbered t := by
  have ha : KeepsAct (nextAct s) := keepsAct_nextAct h
  unfold step at ht
  split at ht
  next he =>
    rw [he] at ha
    exact numbered_exec ha ht
  next he =>
    rw [he] at ha
    cases ht
    exact ha

end Sys2Proof.Proofs.Numbers

namespace Sys2Proof.Proofs

open Sys2Proof.Machine

/-- Settles O57. Each function of the model keeps the numbers where the functions that it is made of keep them: the list of strands
changes in the fields of a strand, loses strands, or takes one more with the next number (`numbered_newStrand`), and that number only
grows. -/
theorem strandNumbers : Obligations.StrandNumbers := by
  intro s t h ht
  exact Numbers.numbered_step h ht

end Sys2Proof.Proofs
end

section
/-! SUPPORT. The strands of a lane that go on once there is room, or at a branch (02 R51, R53): what it leaves of each strand. -/

namespace Sys2Proof.Machine

/-- A map whose values change and whose keys stay. -/
theorem aget_map {κ β : Type} [DecidableEq κ] (m : Assoc κ β) {f : κ × β → κ × β} (hf : ∀ p, (f p).1 = p.1) (k : κ) :
    aget (m.map f) k = (aget m k).map (fun v => (f (k, v)).2) := by
  induction m with
  | nil => rfl
  | cons p m ih =>
    by_cases h : p.1 = k
    · subst h; simp [aget, hf]
    · simp [aget, hf, h, ih]

variable {s : State} {k : Nat} {st : Strand}

theorem unparkAll_pcs (why : Park) (st : Strand) : (unparkAll why st).threads.map (fun th => th.pc) = st.threads.map (fun th => th.pc) := by
  simp only [unparkAll, List.map_map]
  refine List.map_congr_left (fun th _ => ?_)
  simp only [Function.comp]
  split <;> rfl

/-- Room on a lane leaves a strand as it is, or with the threads live that waited for it. -/
theorem strand_unparkQuota (hst : s.strand k = some st) (l : LaneId) :
    ∃ st', (s.unparkQuota l).strand k = some st' ∧ (st' = st ∨ (st.laneId = l ∧ st' = unparkAll .quota st)) := by
  have hmap := aget_map s.strands (k := k) (f := fun p =>
    if p.2.laneId = l ∧ decide (s.laneEnts l < 32) = true ∧ p.2.ents.length < p.2.quota then (p.1, unparkAll .quota p.2) else p)
    (fun p => by split <;> rfl)
  refine ⟨_, hmap.trans (by rw [show aget s.strands k = some st from hst, Option.map_some]), ?_⟩
  split
  next h => exact .inr ⟨h.1, rfl⟩
  next => exact .inl rfl

/-- A branch whose inputs are settled lets its threads go on; otherwise the strand is as it was. -/
theorem strand_unparkBranch_cases (hst : s.strand k = some st) :
    ∃ st', (s.unparkBranch k).strand k = some st' ∧ (st' = st ∨ st' = { unparkAll .branch st with waitLocs := [] }) := by
  unfold State.unparkBranch
  rw [hst]
  dsimp only
  split
  next => exact ⟨st, hst, .inl rfl⟩
  next => exact ⟨_, State.strand_modStrand_of hst _, .inr rfl⟩

/-- Neither changes a strand but in what its threads do and wait for, nor moves a PC. -/
theorem strand_unparks (hst : s.strand k = some st) (l : LaneId) : ∃ st', ((s.unparkQuota l).unparkBranch k).strand k = some st' ∧
    { st' with threads := st.threads, waitLocs := st.waitLocs } = st ∧
    st'.threads.map (fun th => th.pc) = st.threads.map (fun th => th.pc) := by
  obtain ⟨st1, hst1, hquota⟩ := strand_unparkQuota hst l
  obtain ⟨st2, hst2, hbranch⟩ := strand_unparkBranch_cases hst1
  have hfirst : { st1 with threads := st.threads } = st ∧ st1.threads.map (fun th => th.pc) = st.threads.map (fun th => th.pc) := by
    rcases hquota with rfl | ⟨-, rfl⟩
    · exact ⟨rfl, rfl⟩
    · exact ⟨rfl, unparkAll_pcs ..⟩
  refine ⟨st2, hst2, ?_⟩
  rcases hbranch with rfl | rfl
  · exact ⟨congrArg (fun r : Strand => { r with waitLocs := st.waitLocs }) hfirst.1, hfirst.2⟩
  · exact ⟨congrArg (fun r : Strand => { r with waitLocs := st.waitLocs }) hfirst.1, (unparkAll_pcs ..).trans hfirst.2⟩

end Sys2Proof.Machine
end

section
/-! SUPPORT. The oldest entry of a strand as an issue, and what its drain leaves (02 R44, R48, R55). -/

namespace Sys2Proof.Proofs.Draining

open Sys2Proof.Machine Sys2Proof.Claims Sys2Proof.Safety Readiness

variable {k : Nat} {e : Entry} {rest : List Entry} {st : Strand} {s : State} {x : Iss} {eff : Effect}

theorem drainOf_eq (hst : s.strand k = some st) (he : st.ents = e :: rest) : drainOf k s = some (st, e) := by
  simp only [drainOf, hst, he]

theorem drainTime_of (hrun : st.runs s = true) (hbusy : (s.lane st.laneId).busy ≤ s.cycle st.part) (hheld : st.entHeld = false)
    (htxn : st.holdTxn = none) (hre : st.rearms = []) : drainTime s st = true := by
  simp [drainTime, hrun, hbusy, hheld, htxn, hre]

/-- An entry that no instruction can drain from is an illegal instruction (02 R59). -/
theorem exec_drain_illegal (hd : drainOf k s = some (st, e)) (ht : drainTime s st = true) (hx : drainIss k s st e = none) :
    exec (.residualDrain k) s = .next (commit s.mem (s.drainFault k { cause := 1 } e e.captActive)) := by
  refine exec_of_some (i := .residualDrain k) rfl ?_ rfl
  simp [attemptDrain, hd, ht, hx]

theorem exec_drain (hd : drainOf k s = some (st, e)) (ht : drainTime s st = true) (hx : drainIss k s st e = some x)
    (he : effOf x.i = some eff) (hr : drainReady s x e = true) {t : State} (ho : drainIn s x e eff = some t) :
    exec (.residualDrain k) s = .next (commit s.mem t) := by
  refine exec_of_some (i := .residualDrain k) rfl ?_ rfl
  simp [attemptDrain, hd, ht, hx, he, hr, ho]

/-- No word holds an error: the drain comes to what its effect comes to (02 R55). -/
theorem drainIn_ok (hh : s.healthy x.st.part.pkg = true) {u : State} (hp : performs x s eff = .ok u) :
    drainIn s x e eff = some (finishDrain x e u) := by
  simp [drainIn, State.useSitesOf, hh, hp]

theorem drainIn_stop (hh : s.healthy x.st.part.pkg = true) {f : Flt} (hp : performs x s eff = .stop f) :
    drainIn s x e eff = some (s.drainFault x.k f e x.act) := by
  simp [drainIn, State.useSitesOf, hh, hp]

/-- What the drain of an entry leaves of its strand, but for the threads that it lets go on. -/
def drained (x : Iss) (e : Entry) (st : Strand) : Strand :=
  let st := setFlag x.h x.completes st
  { st with
    pend := if x.sh.isLong ∧ !x.act.isEmpty then addPend st.pend (x.sh.dstLocs x.st) else st.pend
    ents := st.ents.tail
    win := (st.ents.tail).any (fun e => e.ord)
    rtags := st.rtags.filter (fun r => decide (x.t0 < r.1))
      ++ (if x.sh.isLong then [] else (x.sh.dstLocs x.st).map (fun l => (x.last + 6, l)))
      ++ (predLocs x.sh.ps).map (fun l => (x.last, l))
    lastE := some x.last, lastS := x.t0
    region := if Instr.closes x.i x.sh ∧ !x.act.isEmpty then e.snap else st.region }

theorem finishDrain_eq (x : Iss) (e : Entry) (s : State) : finishDrain x e s =
    ((((s.modLane x.st.laneId (fun l => touchLines x (l.hold x.st.launch (x.last + 1)))).modStrand x.k (drained x e)).unparkQuota
      x.st.laneId).unparkBranch x.k) := rfl

/-- Everything but the strands and the lane is as the effect has left it. -/
theorem finishDrain_frame (x : Iss) (e : Entry) (s : State) : { finishDrain x e s with strands := s.strands } =
    s.modLane x.st.laneId (fun l => touchLines x (l.hold x.st.launch (x.last + 1))) := by
  rw [finishDrain_eq]
  exact congrArg (fun r : State => { r with strands := s.strands }) (State.unparkBranch_frame _ x.k)

theorem strand_finishDrain (hst : s.strand x.k = some st) : ∃ st', (finishDrain x e s).strand x.k = some st' ∧
    { st' with threads := (drained x e st).threads, waitLocs := (drained x e st).waitLocs } = drained x e st ∧
    st'.threads.map (fun th => th.pc) = (drained x e st).threads.map (fun th => th.pc) := by
  rw [finishDrain_eq]
  exact strand_unparks (State.strand_modStrand_of (s := s.modLane _ _) hst _) _

/-! ## The fields of a drained strand -/

theorem drained_setFlag (x : Iss) (e : Entry) (st : Strand) :
    (drained x e st).regs = st.regs ∧ (drained x e st).threads = st.threads ∧ (drained x e st).ents = st.ents.tail ∧
    (drained x e st).win = st.ents.tail.any (fun e => e.ord) ∧
    (drained x e st).pend = (if x.sh.isLong ∧ !x.act.isEmpty then addPend st.pend (x.sh.dstLocs x.st) else st.pend) ∧
    (drained x e st).rtags = st.rtags.filter (fun r => decide (x.t0 < r.1))
      ++ (if x.sh.isLong then [] else (x.sh.dstLocs x.st).map (fun l => (x.last + 6, l))) ++ (predLocs x.sh.ps).map (fun l => (x.last, l)) := by
  unfold drained setFlag
  cases x.h.setf <;> exact ⟨rfl, rfl, rfl, rfl, rfl, rfl⟩

theorem drained_flags_none (h : x.h.setf = none) : (drained x e st).flags = st.flags := by
  simp [drained, setFlag, h]

theorem drained_flags_some {j : Fin 12} (h : x.h.setf = some j) (hlen : st.flags.length = 12) :
    (drained x e st).flags.getD j.val 0 = st.flags.getD j.val 0 + 1 := by
  have hflags : (drained x e st).flags = lset st.flags j.val (· + 1) := by simp [drained, setFlag, h]
  rw [hflags, getD_lset _ _ _ _ (by omega), if_pos rfl]

end Sys2Proof.Proofs.Draining

namespace Sys2Proof.Proofs

open Sys2Proof.Machine Sys2Proof.Claims Sys2Proof.Safety Readiness Draining

/-- Settles O28: the oldest entry is an issue (`drainIss`) whose effect is its drain (`drainIn_ok`, `drainIn_stop`), and `drained` is what it
leaves of the strand; the threads that it lets go on keep their PCs. -/
theorem drains : Obligations.Drains := by
  refine ⟨fun k e rest st r s hst he hrun hbusy hheld htxn hre hbad => ?_, ?_⟩
  · refine exec_drain_illegal (drainOf_eq hst he) (drainTime_of hrun hbusy hheld htxn hre) ?_
    simp [drainIss, hbad]
  intro k e rest st i sh h eff s hst he hrun hbusy hheld htxn hre hh hdec hsh hhdr heff now act x
  have hd := drainOf_eq hst he
  have ht := drainTime_of hrun hbusy hheld htxn hre
  refine ⟨fun hno => exec_drain_illegal hd ht ?_, fun hdef hzero hset hwait hsetf hpend hheldLines hmem => ?_⟩
  · rcases hno with hno | hno <;> simp [drainIss, hdec, hsh, hhdr, hno]
  have hx : drainIss k s st e = some x := by
    simp only [drainIss, hdec, hsh, hhdr, hdef, hzero, Bool.not_true, Bool.or_self, Bool.false_eq_true, if_false]
    rfl
  have hr : drainReady s x e = true := by
    simp only [drainReady, Bool.and_eq_true]
    exact ⟨⟨⟨⟨⟨hset, waitClear_iff.2 hwait⟩, hsetf⟩, hpend⟩, hheldLines⟩, hmem⟩
  refine ⟨fun u hp ust hust hflags hents hlane => ?_, fun f hp => exec_drain hd ht hx heff hr (drainIn_stop hh hp)⟩
  obtain ⟨st', hst', hkeep, hpcs⟩ := strand_finishDrain (x := x) (e := e) hust
  have hframe := finishDrain_frame x e u
  obtain ⟨hregs, hthreads, hents', hwin, hpend', hrtags⟩ := drained_setFlag x e ust
  have htail : ust.ents.tail = rest := by rw [hents, he]; rfl
  have hst'rtags : st'.rtags = (drained x e ust).rtags := (congrArg Strand.rtags hkeep :)
  have hst'pend : st'.pend = (drained x e ust).pend := (congrArg Strand.pend hkeep :)
  have hst'flags : st'.flags = (drained x e ust).flags := (congrArg Strand.flags hkeep :)
  refine ⟨_, st', exec_drain hd ht hx heff hr (drainIn_ok hh hp), hst', ?_, ?_, ?_, (congrArg Strand.lastS hkeep :), (congrArg Strand.lastE hkeep :),
    ?_, fun j hj => ?_, fun hnone => ?_, fun hlong l hl => ?_, fun hlong => ?_, fun hshort => ?_, fun hlong hact => ?_, ?_, ?_, ?_, ?_, ?_⟩
  · exact (congrArg Strand.ents hkeep :).trans (hents'.trans htail)
  · exact (congrArg Strand.win hkeep :).trans (by rw [hwin, htail])
  · exact (congrArg Strand.regs hkeep :).trans hregs
  · rw [hpcs, hthreads]
  · rw [hst'flags]; exact drained_flags_some hj hflags
  · rw [hst'flags]; exact drained_flags_none hnone
  · rw [hst'rtags, hrtags, if_neg (by rw [hlong]; exact Bool.false_ne_true)]
    exact List.mem_append_left _ (List.mem_append_right _ (List.mem_map_of_mem hl))
  · rw [hst'rtags, hrtags, if_pos hlong, List.append_nil]
  · rw [hst'pend, hpend', if_neg]
    rintro ⟨hlong, hact⟩
    rcases hshort with hshort | hshort
    · exact absurd (hshort.symm.trans hlong) Bool.false_ne_true
    · rw [show x.act = [] from hshort] at hact
      exact absurd hact (by decide)
  · rw [hst'pend, hpend', if_pos ⟨hlong, by simpa using hact⟩]
  · have hl : (finishDrain x e u).lanes = _ := (congrArg State.lanes hframe :)
    show (agetD (finishDrain x e u).lanes st.laneId ({} : Lane)).busy = _
    rw [hl]
    exact congrArg Lane.busy (State.lane_modLane_same u st.laneId _)
  · show memPutAll s.mem (finishDrain x e u).stores = memPutAll s.mem u.stores
    rw [show (finishDrain x e u).stores = u.stores from (congrArg State.stores hframe :)]
  · exact (congrArg State.msgs hframe :)
  · exact (congrArg State.ops hframe :)
  · exact (congrArg State.parts hframe :)

end Sys2Proof.Proofs
end

section
/-! SUPPORT. Room in the lane's register cache: lines leave it, and images take them (01 R30). -/

namespace Sys2Proof.Machine

variable {s t u : State} {l : LaneId}

/-- A change of lanes and of the images of strands. -/
def OnlyImages (s t : State) : Prop :=
  { t with strands := s.strands, lanes := s.lanes } = s ∧
  ∀ k st, s.strand k = some st → ∃ st', t.strand k = some st' ∧ { st' with image := st.image } = st

theorem OnlyImages.refl (s : State) : OnlyImages s s := ⟨rfl, fun _ st h => ⟨st, h, rfl⟩⟩

theorem OnlyImages.trans (h : OnlyImages s t) (h' : OnlyImages t u) : OnlyImages s u := by
  refine ⟨Eq.trans (congrArg (fun r : State => { r with strands := s.strands, lanes := s.lanes }) h'.1) h.1, fun k st hst => ?_⟩
  obtain ⟨st1, hst1, hkeep1⟩ := h.2 k st hst
  obtain ⟨st2, hst2, hkeep2⟩ := h'.2 k st1 hst1
  exact ⟨st2, hst2, Eq.trans (congrArg (fun r : Strand => { r with image := st.image }) hkeep2) hkeep1⟩

theorem onlyImages_modLane (s : State) (l : LaneId) (f : Lane → Lane) : OnlyImages s (s.modLane l f) :=
  ⟨rfl, fun _ st h => ⟨st, h, rfl⟩⟩

theorem onlyImages_modStrand (s : State) (k : Nat) {f : Strand → Strand} (hf : ∀ st, { f st with image := st.image } = st) :
    OnlyImages s (s.modStrand k f) := by
  refine ⟨rfl, fun j st hst => ?_⟩
  by_cases hkj : k = j
  · subst hkj
    exact ⟨f st, State.strand_modStrand_of hst f, hf st⟩
  · exact ⟨st, (State.strand_modStrand_other s f hkj).trans hst, rfl⟩

/-- Where no word holds an error a read finds none. -/
theorem State.glance_of_noError (h : s.latent = []) (site : Site) : s.glance site = s := by
  simp [State.glance, State.errorAt, h]

theorem onlyImages_writeLine (h : s.latent = []) (v : HeldLine) : OnlyImages s (writeLine v s) := by
  unfold writeLine
  split
  next => exact OnlyImages.refl _
  next =>
    rw [State.glance_of_noError h]
    exact onlyImages_modStrand s v.strand (fun _ => rfl)

theorem onlyImages_evict (h : s.latent = []) (v : HeldLine) : OnlyImages s (evictLines l [v] s) :=
  (onlyImages_writeLine h v).trans (onlyImages_modLane ..)

/-- Lines that leave for others change lanes and images alone. -/
theorem onlyImages_makeRoom {need now fuel : Nat} (h : s.latent = []) (hm : makeRoom l need now fuel s = some t) : OnlyImages s t := by
  induction fuel generalizing s with
  | zero =>
    unfold makeRoom at hm
    split at hm
    next => cases hm; exact OnlyImages.refl _
    next => cases hm
  | succ fuel ih =>
    unfold makeRoom at hm
    split at hm
    next => cases hm; exact OnlyImages.refl _
    next =>
      split at hm
      next => cases hm
      next v _ =>
        have hout := onlyImages_evict (l := l) h v
        exact hout.trans (ih ((congrArg State.latent hout.1 :).trans h) hm)

theorem State.healthy_latent {n : Nat} (h : s.healthy n = true) : s.latent = [] := by
  simp only [State.healthy, Bool.and_eq_true, List.isEmpty_iff] at h
  exact h.1.1

theorem OnlyImages.healthy (h : OnlyImages s t) (n : Nat) : t.healthy n = s.healthy n := by
  have hlatent : t.latent = s.latent := (congrArg State.latent h.1 :)
  have hpkgs : t.pkgs = s.pkgs := (congrArg State.pkgs h.1 :)
  have hmsgs : t.msgs = s.msgs := (congrArg State.msgs h.1 :)
  simp only [State.healthy, State.anyTest, State.pkg, hlatent, hpkgs, hmsgs]

end Sys2Proof.Machine
end

section
/-! SUPPORT. The capture of an instruction with an unsettled input (02 R45 to R49, R59). -/

namespace Sys2Proof.Proofs.Capturing

open Sys2Proof.Machine Sys2Proof.Claims Sys2Proof.Safety Readiness

variable {i : Instr} {s s1 : State} {x : Iss} {w : Slot} {st : Strand}

/-! ## What is unsettled -/

def predTag (x : Iss) : Bool := x.h.pred != 0 && x.st.tagged (predLoc x.h.pred.toNat) x.t0
def predUns (x : Iss) : Bool := predTag x && !Instr.isSpecTask x.i
def srcUns (x : Iss) : Bool := (x.sh.srcLocs x.st).any (fun l => x.st.tagged l x.t0)
def dstUns (x : Iss) : Bool := (x.sh.dstLocs x.st).any (fun l => x.st.tagged l x.t0)
def waitUns (x : Iss) : Bool := (Hdr.waits x.h).any (fun j => x.st.flagCount j x.t0 != 0 || x.st.residual (flagLoc j) x.t0)

/-- The CAUSE bits of the inputs that are unsettled (02 R59). -/
def causeOf (x : Iss) : Nat := (waitUns x).toNat + 2 * (srcUns x).toNat + 4 * (dstUns x).toNat + 32 * (predUns x).toNat

/-- The issue that is captured: that of TASK.spec has every executing thread (09 R221). -/
def deferred (x : Iss) : Iss := { x with act := if predTag x = true ∧ Instr.isSpecTask x.i = true then x.exm else x.act }

theorem deferred_eq (x : Iss) : (if predTag x && Instr.isSpecTask x.i then { x with act := x.exm } else x) = deferred x := by
  unfold deferred
  by_cases h : predTag x = true ∧ Instr.isSpecTask x.i = true
  · rw [if_pos (by simpa using h), if_pos h]
  · rw [if_neg (by simpa using h), if_neg h]

theorem waitUns_iff : waitUns x = true ↔
    ∃ j < 12, x.h.wait.getLsbD j = true ∧ (x.st.flagCount j x.t0 ≠ 0 ∨ x.st.residual (flagLoc j) x.t0 = true) := by
  simp [waitUns, Hdr.waits]

theorem causeOf_ne_zero (h : predUns x = true ∨ srcUns x = true ∨ dstUns x = true ∨ waitUns x = true) : causeOf x ≠ 0 := by
  unfold causeOf
  rcases h with h | h | h | h <;> rw [h] <;> simp

/-- The bits of CAUSE, with bit 3 for an ordered entry. -/
theorem cause_bits : ∀ (a b c d o : Bool) (cause : Nat), cause = a.toNat + 2 * b.toNat + 4 * c.toNat + 32 * d.toNat →
    let e := if o = true ∧ cause / 8 % 2 = 0 then cause + 8 else cause
    (e % 2 = 1 ↔ a = true) ∧ (e / 2 % 2 = 1 ↔ b = true) ∧ (e / 4 % 2 = 1 ↔ c = true) ∧ (e / 8 % 2 = 1 ↔ o = true) ∧
      (e / 32 % 2 = 1 ↔ d = true) := by
  rintro a b c d o _ rfl
  revert a b c d o
  decide

/-- With an input unsettled the instruction is captured, where the lines that it reads are held (02 R47). -/
theorem plan_capture (hd : x.st.deferring = true) (hcls : x.sh.cls = .register ∨ x.sh.cls = .ordered) (hcause : causeOf x ≠ 0)
    (hact : predUns x = true ∨ (deferred x).act ≠ []) (hlines : linesHeld s x.k x.st (x.taken.flatMap Use.locs) = true) :
    plan s x = Plan.ofOption (capture s (deferred x) (!predTag x) (causeOf x)) := by
  have hplan : plan s x = planDeferring s x := if_pos (.inl hd)
  have hactive : ¬ ((!predUns x) = true ∧ (deferred x).act.isEmpty = true) := by
    rintro ⟨hp, ha⟩
    rcases hact with h | h
    · simp [h] at hp
    · exact h (List.isEmpty_iff.1 ha)
  have hlines' : linesHeld s (deferred x).k (deferred x).st ((deferred x).taken.flatMap Use.locs) = true := hlines
  rw [hplan]
  unfold planDeferring
  dsimp only
  rw [show (if (x.h.pred != 0 && x.st.tagged (predLoc x.h.pred.toNat) x.t0) && Instr.isSpecTask x.i then { x with act := x.exm } else x) =
    deferred x from deferred_eq x]
  have hc : (deferred x).sh.cls = x.sh.cls := rfl
  rcases hcls with hcls | hcls <;> rw [hc, hcls] <;> dsimp only
  all_goals
    refine (if_pos hcause).trans ((if_neg hactive).trans ?_)
    rw [hlines']
    rfl

/-! ## The entry -/

theorem length_captureLines (s : State) (x : Iss) (ok : Use → Bool) (us : List Use) :
    (us.flatMap (fun u => captureLines s x u (ok u))).length =
      (((us.filter ok).filter (fun u => decide (Opd.kind u.o = .vec))).map (fun u => u.n)).sum := by
  induction us with
  | nil => rfl
  | cons u us ih =>
    rw [List.flatMap_cons, List.length_append, ih]
    unfold captureLines
    by_cases hok : ok u = true <;> by_cases hvec : Opd.kind u.o = .vec <;> simp [hok, hvec]

/-- As many lines as the settled vector sources name. -/
theorem length_lines (s : State) (x : Iss) (w : Slot) (predOk : Bool) (cause : Nat) : (makeEntry s x w predOk cause).lines.length =
    ((x.taken.filter (fun u => decide (Opd.kind u.o = .vec))).map (fun u => u.n)).sum :=
  length_captureLines s x _ x.sh.srcs

/-- A uniform register is read for the strand, whichever threads are active (01 R15). -/
theorem readOpd_uni (s : State) (x : Iss) {u : Use} (h : Opd.kind u.o = .uni) (ts : List Nat) :
    readOpd s { x with act := ts } u 0 = readOpd s x u 0 := by
  cases ho : u.o <;> simp only [ho, Opd.kind, reduceCtorEq] at h
  simp only [readOpd, readWord, ho]

/-- The value that an entry holds of a settled uniform source (02 R47 step 3). -/
theorem ucap_taken (s : State) (x : Iss) (w : Slot) (predOk : Bool) (cause : Nat) {u : Use} (hu : u ∈ x.taken)
    (hk : Opd.kind u.o = .uni) (hat : srcAt x.sh u.pos = u) :
    (makeEntry s x w predOk cause).ucap.getD u.pos.index none = some (readOpd s x u 0) := by
  have hok : (Use.settled x.st x.t0 u && !x.sh.uncaptured u) = true := (List.mem_filter.1 hu).2
  have hcap : captureUni s x u (Use.settled x.st x.t0 u && !x.sh.uncaptured u) = some (readOpd s x u 0) := by
    simp [captureUni, hk, hok]
  cases hp : u.pos <;> rw [hp] at hat <;> simpa [makeEntry, Pos.index, hat] using hcap

/-- The active threads are captured where the predicate is settled. -/
theorem actm_makeEntry (s : State) (x : Iss) (w : Slot) (cause : Nat) :
    (makeEntry s (deferred x) w (!predTag x) cause).actm = if predTag x = true then none else some (maskOf x.act) := by
  unfold makeEntry deferred
  cases h : predTag x <;> simp

/-! ## The capture -/

theorem capture_full (hw : encode x.i = some w) (hq : x.st.quota ≤ x.st.ents.length) (predOk : Bool) (cause : Nat) :
    capture s x predOk cause = if x.st.modew.getLsbD 14 then some (s.preciseFault x.k { cause := 6 } x.pc x.exm x.act)
      else some (s.modStrand x.k (parkAll .quota [])) := by
  simp only [capture, hw, hq, if_true]

theorem capture_laneFull (hw : encode x.i = some w) (hq : x.st.ents.length < x.st.quota) (hl : 32 ≤ s.laneEnts x.st.laneId)
    (predOk : Bool) (cause : Nat) : capture s x predOk cause = some (s.modStrand x.k (parkAll .quota [])) := by
  simp only [capture, hw, Nat.not_le.2 hq, hl, if_true, if_false]

/-- With room for the entry and for its lines, and no error in what it reads, the entry joins the residual buffer. -/
theorem capture_room (hw : encode x.i = some w) (hq : x.st.ents.length < x.st.quota) (hl : s.laneEnts x.st.laneId < 32)
    (hs : setfOk x.st x.h x.t0 = true) (hh : s1.healthy x.st.part.pkg = true) (predOk : Bool) (cause : Nat)
    (hm : makeRoom x.st.laneId (makeEntry s x w predOk cause).lines.length x.t0 256 (s.modLane x.st.laneId
      (useLines x.k (x.taken.flatMap Use.locs) [] (x.t0 + max (makeEntry s x w predOk cause).lines.length 1 - 1))) = some s1) :
    capture s x predOk cause = some (putEntry s1 x (makeEntry s x w predOk cause)) := by
  simp only [capture, hw, Nat.not_le.2 hq, Nat.not_le.2 hl, hs, Bool.not_true, Bool.false_eq_true, if_false, hm, Option.bind_some,
    State.useSitesOf, hh, if_true, Option.map_some]

/-! ## What it leaves -/

/-- What a capture leaves of its strand (02 R47). -/
def captured (x : Iss) (e : Entry) (pair : Option (Nat × Pc)) (st : Strand) : Strand :=
  { st with
    threads := (List.range 16).map (fun t => if x.exm.contains t then { st.thread t with pc := nextPc x.pc } else st.thread t)
    ents := st.ents ++ [e], seq := (st.seq + 1) % 65536, win := st.win || e.ord
    lastE := some (x.t0 + max e.lines.length 1 - 1), lastS := x.t0, pairAt := pair, begun := true }

theorem strand_putEntry (hst : s.strand x.k = some st) (e : Entry) : ∃ pair, (putEntry s x e).strand x.k = some (captured x e pair st) :=
  ⟨_, State.strand_modStrand_of (s := State.modLane (advance x s) _ _) (State.strand_modStrand_of hst _) _⟩

theorem putEntry_frame (s : State) (x : Iss) (e : Entry) : { putEntry s x e with strands := s.strands } =
    s.modLane x.st.laneId (fun l => l.hold x.st.launch (x.t0 + max e.lines.length 1)) := rfl

theorem thread_captured (x : Iss) (e : Entry) (pair : Option (Nat × Pc)) (st : Strand) {t : Nat} (ht : t < 16) :
    (captured x e pair st).thread t = if t ∈ x.exm then { st.thread t with pc := nextPc x.pc } else st.thread t := by
  simp [captured, Strand.thread, ht, List.getD_eq_getElem?_getD]

end Sys2Proof.Proofs.Capturing

namespace Sys2Proof.Proofs

open Sys2Proof.Machine Sys2Proof.Claims Sys2Proof.Safety Readiness Capturing

/-- Settles O27: with an input unsettled the plan is a capture (`plan_capture`), which parks or faults without room for the entry, and
otherwise puts the entry that `makeEntry` makes; the lines that leave for those it captures change images alone (`onlyImages_makeRoom`). -/
theorem captures : Obligations.Captures := by
  intro i x w s hstores hx hmay hr hbusy hw hdef hcls _ hh tag predTag predUns act srcUns dstUns waitUns taken lines huns hact hheld pinned
  obtain ⟨-, -, rfl, hk, hst, -, -, -, -, -, -⟩ := issueOf_inv hx
  rw [← hk] at hst
  have hpred : Capturing.predUns x = true ↔ predUns := by simp [Capturing.predUns, predUns, predTag, tag, Capturing.predTag]
  have hsrc : Capturing.srcUns x = true ↔ srcUns := by simp [Capturing.srcUns, srcUns, tag]
  have hdst : Capturing.dstUns x = true ↔ dstUns := by simp [Capturing.dstUns, dstUns, tag]
  have hwait : Capturing.waitUns x = true ↔ waitUns := waitUns_iff
  have hcause : causeOf x ≠ 0 := causeOf_ne_zero (by rw [hpred, hsrc, hdst, hwait]; exact huns)
  have hplan := plan_capture hdef hcls hcause (by rw [hpred]; exact hact) hheld
  have hdo : ∀ t, capture s (deferred x) (!Capturing.predTag x) (causeOf x) = some t → exec x.i s = .next (commit s.mem t) := fun t ht =>
    exec_of_other hx hmay hr hbusy (by rw [hplan, ht]; rfl)
  refine ⟨fun hq hl hs hm => ?_, fun hq => ⟨fun hflt => ?_, fun hflt => ?_⟩, fun hq hl => ?_⟩
  · obtain ⟨s1, hm⟩ := Option.isSome_iff_exists.1 hm
    generalize he : makeEntry s (deferred x) w (!Capturing.predTag x) (causeOf x) = e
    have hlen : e.lines.length = lines := by rw [← he]; exact length_lines s (deferred x) w _ _
    have himages : OnlyImages s s1 := (onlyImages_modLane ..).trans (onlyImages_makeRoom (State.healthy_latent hh) hm)
    have hcap : capture s (deferred x) (!Capturing.predTag x) (causeOf x) = some (putEntry s1 (deferred x) e) := by
      rw [← he]
      refine capture_room (x := deferred x) hw hq hl hs ((himages.healthy x.st.part.pkg).trans hh) _ _ ?_
      rw [he, hlen]
      exact hm
    obtain ⟨st1, hst1, hkeep⟩ := himages.2 x.k x.st hst
    obtain ⟨pair, hst'⟩ := strand_putEntry (x := deferred x) hst1 e
    have hthreads : st1.threads = x.st.threads := (congrArg Strand.threads hkeep :)
    obtain ⟨hwaitBit, hsrcBit, hdstBit, hordBit, hpredBit⟩ := cause_bits (Capturing.waitUns x) (Capturing.srcUns x) (Capturing.dstUns x)
      (Capturing.predUns x) x.sh.ordered (causeOf x) rfl
    have hecause : e.cause = if x.sh.ordered = true ∧ causeOf x / 8 % 2 = 0 then causeOf x + 8 else causeOf x := by rw [← he]; rfl
    rw [← hecause] at hwaitBit hsrcBit hdstBit hordBit hpredBit
    refine ⟨_, _, e, hdo _ hcap, hst', ?_, by rw [← he]; rfl, by rw [← he]; rfl, by rw [← he]; rfl, by rw [← he]; rfl, by rw [← he]; rfl,
      by rw [← he]; rfl, ?_, hwaitBit.trans hwait, hsrcBit.trans hsrc, hdstBit.trans hdst, hordBit, hpredBit.trans hpred, fun l hl => ?_,
      fun j hj => ?_, hlen, fun u hu hk _ hat => ?_, fun th hth => ?_, (congrArg Strand.regs hkeep :), (congrArg Strand.flags hkeep :),
      (congrArg Strand.pend hkeep :), ?_, ?_, rfl, ?_, ?_, ?_, ?_, ?_⟩
    · exact congrArg (· ++ [e]) (congrArg Strand.ents hkeep :)
    · rw [← he]
      exact actm_makeEntry s x w (causeOf x)
    · rw [← he]
      exact List.mem_append_left _ (List.mem_append_left _ (List.mem_append_left _ hl))
    · rw [← he]
      exact List.mem_append_right _ (by rw [show (deferred x).h = x.h from rfl, hj]; exact List.mem_singleton.2 rfl)
    · rw [← he, ucap_taken (x := deferred x) _ _ _ _ hu hk hat]
      exact congrArg some (readOpd_uni s x hk _)
    · rw [thread_captured _ _ _ _ hth, Strand.thread, hthreads]
      rfl
    · exact congrArg (fun n => (n + 1) % 65536) (congrArg Strand.seq hkeep :)
    · rw [show (captured (deferred x) e pair st1).win = (st1.win || e.ord) from rfl, (congrArg Strand.win hkeep :), ← he]
      rfl
    · rw [← hlen]
      rfl
    · rw [← hlen]
      have hlanes : (putEntry s1 (deferred x) e).lanes = _ := (congrArg State.lanes (putEntry_frame s1 (deferred x) e) :)
      show (agetD (putEntry s1 (deferred x) e).lanes x.st.laneId ({} : Lane)).busy = _
      rw [hlanes]
      exact congrArg Lane.busy (State.lane_modLane_same s1 x.st.laneId _)
    · show memPutAll s.mem s1.stores = s.mem
      rw [(congrArg State.stores himages.1 :), hstores]
      rfl
    · exact (congrArg State.msgs himages.1 :)
    · exact (congrArg State.ops himages.1 :)
  · exact hdo _ ((capture_full (x := deferred x) hw hq _ _).trans (if_pos hflt))
  · exact hdo _ ((capture_full (x := deferred x) hw hq _ _).trans (if_neg (by rw [show (deferred x).st = x.st from rfl, hflt]; exact Bool.false_ne_true)))
  · exact hdo _ (capture_laneFull (x := deferred x) hw hq hl _ _)

end Sys2Proof.Proofs
end

section
/-! SUPPORT. HALT, REPLAY and INVAL, the stops of units, and the originator's entry (02 R56; 17 R342 to R344, R348, R354, R356). -/

namespace Sys2Proof.Machine

variable {s : State} {p : PartId} {q : Part}

theorem State.part_modPart (f : Part → Part) (hp : (aget s.parts p).isSome = true) : (s.modPart p f).part p = f (s.part p) :=
  agetD_amod_same _ _ f hp

/-- A command that completes posts its event, and changes nothing else. -/
theorem State.part_cmdDone (c : CtxId) (cmd : Nat) (hp : (aget s.parts c.part).isSome = true) : (s.cmdDone c cmd).part c.part =
    { s.part c.part with events := (s.part c.part).events ++ [(0x8040 + cmd, c.n)] } :=
  State.part_modPart _ hp

/-- A change of every context of a partition, one that is absent apart. -/
theorem ctx_foldl_amod {f : Ctx → Ctx} (hf : f { st := 0 } = { st := 0 }) (m : Assoc CtxId Ctx) (p : PartId) {n : Nat} (hn : n < 4) :
    agetD ((contextsOf p).foldl (fun m c => amod m c f) m) ⟨p, n⟩ { st := 0 } = f (agetD m ⟨p, n⟩ { st := 0 }) := by
  rw [agetD, aget_foldl_amod f (nodup_contextsOf p), if_pos (mem_contextsOf (c := ⟨p, n⟩) hn), agetD]
  cases aget m ⟨p, n⟩ with
  | none => exact hf.symm
  | some x => rfl

/-- Steps that change nothing but the partitions commit no byte. -/
theorem commit_mem_of_stores {m : List Host.Cell} {t : State} (h : t.stores = []) : (commit m t).mem = m := by
  rw [commit_mem, h]
  rfl

end Sys2Proof.Machine

namespace Sys2Proof.Proofs.Lines

open Sys2Proof.Machine Sys2Proof.Claims Sys2Proof.Safety

variable {s : State} {p : PartId} {c : CtxId} {k : Nat} {st : Strand}

/-! ## HALT (17 R344, R356) -/

theorem halt_spec (hstores : s.stores = []) (hp : (aget s.parts c.part).isSome = true) (hst : (s.ctx c).st = 1)
    (hline : (s.part c.part).line = none) : ∃ t, exec (.halt c) s = .next t ∧ (t.part c.part).line = some 0x30 ∧
      posted s t c.part [(0x8002, 0x30), (0x8044, c.n)] ∧ t.mem = s.mem ∧ t.strands = s.strands ∧
      ∀ m < 4, t.ctx ⟨c.part, m⟩ = (s.ctx ⟨c.part, m⟩).halted := by
  obtain ⟨q, hq⟩ := Option.isSome_iff_exists.1 hp
  have hq' : s.part c.part = q := State.part_of_aget hq
  have hraise := State.raiseLine_down hq (hq' ▸ hline) 0x30
  have hup : ((s.raiseLine c.part 0x30 none).part c.part).line = some 0x30 ∧
      ((s.raiseLine c.part 0x30 none).part c.part).events = q.events ++ [(0x8002, 0x30)] ∧
      (aget (s.raiseLine c.part 0x30 none).parts c.part).isSome = true := by
    rw [hraise]
    refine ⟨?_, ?_, ?_⟩ <;> simp [State.part, State.post, agetD, aget_amod_same, hq]
  obtain ⟨hl, he, hsome⟩ := hup
  have hdone := State.part_cmdDone (s := s.raiseLine c.part 0x30 none) c 4 hsome
  refine ⟨_, exec_of_some (i := .halt c) (f := evHalt c) rfl (if_neg (not_not.2 hst)) rfl, ?_, ?_, ?_, ?_, fun m hm => ?_⟩
  · exact (congrArg Part.line hdone :).trans hl
  · refine (congrArg Part.events hdone :).trans ?_
    rw [he, hq', List.append_assoc]
    rfl
  · exact commit_mem_of_stores ((congrArg State.stores hraise :).trans hstores)
  · exact (congrArg State.strands hraise :)
  · have hctxs : (s.raiseLine c.part 0x30 none).ctxs = _ := (congrArg State.ctxs hraise :)
    show agetD (s.raiseLine c.part 0x30 none).ctxs _ _ = _
    rw [hctxs]
    exact ctx_foldl_amod (f := Ctx.halted) rfl _ _ hm

/-! ## REPLAY and INVAL (17 R342, R343, R356) -/

theorem resendRearms_none (c : CtxId) (h : ∀ y ∈ s.strands, y.2.rearms = []) : resendRearms c s = s := by
  unfold resendRearms
  have hnone : ∀ (xs : List (Nat × Strand)), (∀ y ∈ xs, y.2.rearms = []) →
      xs.foldl (fun s x => (unsentRearms s x.2).foldl (fun s n => sendRearm x.1 n s) s) s = s := by
    intro xs hxs
    induction xs with
    | nil => rfl
    | cons y xs ih =>
      have hy : unsentRearms s y.2 = [] := by simp [unsentRearms, hxs y List.mem_cons_self]
      rw [List.foldl_cons, hy]
      exact ih (fun z hz => hxs z (List.mem_cons_of_mem _ hz))
  exact hnone _ (fun y hy => h y (List.mem_filter.1 hy).1)

/-- What REPLAY changes of a partition: commands and regions of the context go on. -/
def unpaused (c : CtxId) (q : Machine.Part) : Machine.Part :=
  { q with
    cqs := q.cqs.map (fun q => (q.1, q.2.map (fun d => if d.ctx = c then { d with paused := false } else d)))
    regions := q.regions.map (fun r => if r.2.ctx = c then (r.1, { r.2 with paused := false }) else r) }

theorem aget_replay_parts (c : CtxId) (s : State) (p : PartId) : aget (replay c s).parts p = (aget s.parts p).map (unpaused c) :=
  aget_map s.parts (f := fun x => (x.1, unpaused c x.2)) (fun _ => rfl) p

theorem replay_spec (hp : (aget s.parts c.part).isSome = true) (hn : c.n < 4) (hre : ∀ y ∈ s.strands, y.2.rearms = []) :
    ∃ t, exec (.replay c) s = .next t ∧ posted s t c.part [(0x8046, c.n)] ∧
      (∀ k st, s.strand k = some st → t.strand k = some (if st.ctx = c then { st with repl := false } else st)) ∧
      (∀ y ∈ t.tctx, y.1.ctx = c → ∀ e ∈ y.2.engines, ∀ r ∈ e.2.rings, r.2.paused = false) ∧
      (∀ r ∈ (t.part c.part).regions, r.2.ctx = c → r.2.paused = false) := by
  obtain ⟨q, hq⟩ := Option.isSome_iff_exists.1 hp
  have hnone : ¬ ((aget s.parts c.part).isNone = true ∨ 4 ≤ c.n) := by simp [hq, hn]
  have hsent : resendRearms c (replay c s) = replay c s := by
    refine resendRearms_none c (fun y hy => ?_)
    obtain ⟨z, hz, rfl⟩ := List.mem_map.1 hy
    have := hre z hz
    split <;> exact this
  have hparts := aget_replay_parts c s c.part
  rw [hq, Option.map_some] at hparts
  have hdone := State.part_cmdDone (s := replay c s) c 6 (by rw [hparts]; rfl)
  rw [State.part_of_aget hparts] at hdone
  refine ⟨_, exec_of_some (i := .replay c) (f := evReplay c) rfl ((if_neg hnone).trans (by rw [hsent])) rfl, ?_, fun k st hst => ?_, ?_, ?_⟩
  · refine (congrArg Part.events hdone :).trans ?_
    rw [State.part_of_aget hq]
    rfl
  · refine (aget_map s.strands (fun x => ?_) k).trans ?_
    · split <;> rfl
    · rw [show aget s.strands k = some st from hst, Option.map_some]
      by_cases hc : st.ctx = c <;> simp [hc]
  · intro y hy hyc e he r hr
    obtain ⟨z, hz, rfl⟩ := List.mem_map.1 hy
    by_cases hzc : z.1.ctx = c
    · simp only [hzc, if_true, List.mem_map] at he
      obtain ⟨e', -, rfl⟩ := he
      obtain ⟨r', -, rfl⟩ := List.mem_map.1 hr
      rfl
    · simp only [hzc, if_false] at hyc
  · intro r hr hrc
    have hr : r ∈ (((replay c s).cmdDone c 6).part c.part).regions := hr
    rw [hdone] at hr
    obtain ⟨r', -, rfl⟩ := List.mem_map.1 hr
    by_cases hc : r'.2.ctx = c
    · simp [hc]
    · simp [hc] at hrc

theorem inval_spec (hp : (aget s.parts c.part).isSome = true) (hn : c.n < 4) : ∃ t, exec (.inval c) s = .next t ∧
    posted s t c.part [(0x8047, c.n)] ∧ (∀ y ∈ t.tiles, y.1.part = c.part → y.2.tlb = []) ∧
    (∀ n, n.part ≠ c.part → (t.tile n).tlb = (s.tile n).tlb) ∧ ∀ d ∈ t.walks, ∀ e ∈ d.2, e.ctx.part ≠ c.part := by
  have hnone : ¬ ((aget s.parts c.part).isNone = true ∨ 4 ≤ c.n) := by
    obtain ⟨q, hq⟩ := Option.isSome_iff_exists.1 hp
    simp [hq, hn]
  have hdone := State.part_cmdDone (s := s.dropPart c.part) c 7 hp
  refine ⟨_, exec_of_some (i := .inval c) (f := evInval c) rfl (if_neg hnone) rfl, (congrArg Part.events hdone :), ?_, fun n hother => ?_, ?_⟩
  · intro y hy hyp
    obtain ⟨z, hz, rfl⟩ := List.mem_map.1 hy
    have hz : z.1.part = c.part := hyp
    simp [hz]
  · have hmap := aget_map s.tiles (f := fun t => (t.1, { t.2 with tlb := t.2.tlb.filter (fun _ => t.1.part != c.part) })) (fun _ => rfl) n
    show (agetD (s.tiles.map _) n ({} : Tile)).tlb = (agetD s.tiles n ({} : Tile)).tlb
    rw [agetD, agetD, hmap]
    cases aget s.tiles n with
    | none => rfl
    | some t => simp [hother]
  · intro d hd e he
    obtain ⟨z, hz, rfl⟩ := List.mem_map.1 hd
    simpa using (List.mem_filter.1 he).2

/-! ## The stops of units (17 R344, R354) -/

theorem unitStop_down (hline : (s.part p).line = none) (u : UnitId) : exec (.unitStop p u) s = .next s :=
  exec_of_none (i := .unitStop p u) (f := evUnitStop p u) rfl (by simp [evUnitStop, hline])

theorem unitStop_strand (hline : (s.part p).line.isSome = true) (hst : s.strand k = some st) (hpart : st.part = p) (hres : st.status = .resident)
    (hrun : st.stopped = false) :
    Happens (.unitStop p (.strand k)) s (s.putStop p (.strand k) ((stoppedStrand s st).bits s.clk)) := by
  refine exec_of_some (i := .unitStop p (.strand k)) (f := evUnitStop p (.strand k)) rfl ?_ rfl
  obtain ⟨l, hl⟩ := Option.isSome_iff_exists.1 hline
  simp [evUnitStop, hl, hst, hpart, hres, hrun]

theorem stoppedStrand_eq (s : State) (st : Strand) : stoppedStrand s st =
    { flt := { cause := 0x36 }, issue := (st.issueAddr.getD 0).toNat, pc := (st.issueAddr.getD 0).toNat
      exm := (maskOf (st.executing (st.issueAddr.getD 0))).toNat, loc := st.loc, unit := st.unit, orig := false
      ust := st.ust (s.cycle st.part) } := by
  unfold stoppedStrand
  cases st.issueAddr <;> rfl

/-- Another unit than a strand writes its record and is quiet; a scheduler cuts its tasks besides. -/
theorem unitStop_unit (hline : (s.part p).line.isSome = true) {u : UnitId} (hu : u ∈ unitsOf (s.part p)) (hquiet : u ∉ (s.part p).quiet)
    (hk : ∀ k, u ≠ .strand k) : ∃ r, Happens (.unitStop p u) s (match u with
      | .sched t => (s.modPart p (fun q => { q with recs := aput q.recs u r, quiet := u :: q.quiet })).cutTile p t
      | _ => s.modPart p (fun q => { q with recs := aput q.recs u r, quiet := u :: q.quiet })) := by
  obtain ⟨l, hl⟩ := Option.isSome_iff_exists.1 hline
  refine ⟨(stoppedInfo s p u).bits s.clk, exec_of_some (i := .unitStop p u) (f := evUnitStop p u) rfl ?_ rfl⟩
  cases u with
  | strand k => exact absurd rfl (hk k)
  | _ => simp [evUnitStop, hl, hu, hquiet, State.putStop]

/-- A task queue whose running tasks are cut runs none (17 R354). -/
theorem cutTasks_running (t : TCtx) : ∀ i ∈ t.cutTasks.tq, i.running = false := by
  intro i hi
  obtain ⟨j, -, rfl⟩ := List.mem_map.1 hi
  by_cases hj : j.running = true
  · rw [if_pos hj]
    unfold TItem.cut
    split <;> rfl
  · rw [if_neg hj]
    simpa using hj

theorem cutTile_running {tile : Nat} : ∀ y ∈ (s.cutTile p tile).tctx, y.1.ctx.part = p → y.1.t = tile → ∀ i ∈ y.2.tq, i.running = false := by
  intro y hy hp ht
  obtain ⟨z, -, rfl⟩ := List.mem_map.1 hy
  by_cases hz : z.1.ctx.part = p ∧ z.1.t = tile
  · rw [if_pos hz]
    exact cutTasks_running z.2
  · rw [if_neg hz] at hp ht
    exact absurd ⟨hp, ht⟩ hz

theorem quiet_modPart (hp : (aget s.parts p).isSome = true) (u : UnitId) (r : BitVec 1024) :
    u ∈ ((s.modPart p (fun q => { q with recs := aput q.recs u r, quiet := u :: q.quiet })).part p).quiet := by
  rw [State.part_modPart _ hp]
  exact List.mem_cons_self

theorem unitStop_sched (hline : (s.part p).line.isSome = true) (hp : (aget s.parts p).isSome = true) {n : Nat} (hn : n < 4 * (s.part p).gran.length)
    (hquiet : UnitId.sched n ∉ (s.part p).quiet) : ∃ t, exec (.unitStop p (.sched n)) s = .next t ∧ UnitId.sched n ∈ (t.part p).quiet ∧
      ∀ y ∈ t.tctx, y.1.ctx.part = p → y.1.t = n → ∀ i ∈ y.2.tq, i.running = false := by
  have hu : UnitId.sched n ∈ unitsOf (s.part p) :=
    List.mem_append_left _ (List.mem_flatMap.2 ⟨n, List.mem_range.2 hn, List.mem_cons_self⟩)
  obtain ⟨r, hstop⟩ := unitStop_unit hline hu hquiet (fun _ h => by cases h)
  exact ⟨_, hstop, quiet_modPart hp _ r, cutTile_running⟩

/-- A unit of the partition that is neither strand nor scheduler. -/
def IsOther (q : Machine.Part) (u : UnitId) : Prop :=
  u = .launcher ∨ (∃ n < 4, u = .collective n) ∨ ∃ n < 4 * q.gran.length, ∃ e < 2, u = .engine n e

theorem mem_unitsOf_of_isOther {q : Machine.Part} {u : UnitId} (h : IsOther q u) : u ∈ unitsOf q := by
  unfold unitsOf
  rcases h with rfl | ⟨n, hn, rfl⟩ | ⟨n, hn, e, he, rfl⟩
  · simp
  · refine List.mem_append_right _ ?_
    have : n = 0 ∨ n = 1 ∨ n = 2 ∨ n = 3 := by omega
    rcases this with rfl | rfl | rfl | rfl <;> simp
  · refine List.mem_append_left _ (List.mem_flatMap.2 ⟨n, List.mem_range.2 hn, ?_⟩)
    have : e = 0 ∨ e = 1 := by omega
    rcases this with rfl | rfl <;> simp

theorem unitStop_other (hstores : s.stores = []) (hline : (s.part p).line.isSome = true) (hp : (aget s.parts p).isSome = true) {u : UnitId}
    (hu : IsOther (s.part p) u) (hquiet : u ∉ (s.part p).quiet) : ∃ t, exec (.unitStop p u) s = .next t ∧ u ∈ (t.part p).quiet ∧
      t.mem = s.mem ∧ t.strands = s.strands := by
  obtain ⟨r, hstop⟩ := unitStop_unit hline (mem_unitsOf_of_isOther hu) hquiet (by
    rintro k rfl
    rcases hu with h | ⟨_, _, h⟩ | ⟨_, _, _, _, h⟩ <;> cases h)
  have hquiet' := quiet_modPart hp u r
  rcases hu with rfl | ⟨_, _, rfl⟩ | ⟨_, _, _, _, rfl⟩ <;> exact ⟨_, hstop, hquiet', commit_mem_of_stores hstores, rfl⟩

/-! ## The originator (17 R348, 02 R56) -/

section
variable {kind code : Nat} {mask : Mask}

/-- Without the line raised, or with a unit that has not stopped, the originator waits. -/
theorem originator_waits (hst : s.strand k = some st) (horig : st.orig = some (kind, code, mask))
    (h : (s.part st.part).line = none ∨ allStopped s st.part = false) : exec (.originatorHandlerEntry k) s = .next s := by
  refine exec_of_none (i := .originatorHandlerEntry k) (f := evOriginatorHandlerEntry k) rfl ?_
  rcases h with h | h <;> simp [evOriginatorHandlerEntry, hst, horig, h]

/-- The originator goes on in its handler, under the raised line. -/
def inHandler (st : Strand) : Strand := { st with orig := none, inLine := true, entHeld := st.stopRec.getLsbD 259 }

def withoutOriginator (k : Nat) (q : Machine.Part) : Machine.Part := { q with originators := q.originators.filter (fun m => m != k) }

def entry (p : PartId) (k kind code : Nat) (mask : Mask) (s : State) : State :=
  ((s.enterHandler k kind code mask).modPart p (withoutOriginator k)).modStrand k inHandler

theorem evOriginator_eq (hst : s.strand k = some st) (horig : st.orig = some (kind, code, mask)) (hline : (s.part st.part).line.isSome = true)
    (hres : st.status = .resident) (hlive : ∃ th ∈ st.threads, th.st ≠ .exited) (htvec : st.tvec ≠ 0) (hpriv : st.priv = false)
    (hall : allStopped s st.part = true) : evOriginatorHandlerEntry k s = some (entry st.part k kind code mask s) := by
  obtain ⟨l, hl⟩ := Option.isSome_iff_exists.1 hline
  have hex : st.allExited = false := by
    obtain ⟨th, hm, hne⟩ := hlive
    rw [Strand.allExited, List.all_eq_false]
    exact ⟨th, hm, by simpa using hne⟩
  have hgo : ((s.part st.part).line.isNone || st.status != .resident || st.allExited || st.tvec == 0 || st.priv
      || !allStopped s st.part) = false := by
    rw [hl, hres, hex, beq_false_of_ne htvec, hpriv, hall]
    rfl
  simp only [evOriginatorHandlerEntry, hst, horig, hgo, Bool.false_eq_true, if_false]
  rfl

theorem enterHandler_eq (hst : s.strand k = some st) : s.enterHandler k kind code mask =
    s.modStrand k (fun _ => st.enterHandler s (s.cycle st.part) kind code mask) := by
  rw [State.enterHandler, hst]

/-- The originator's strand in its handler. -/
def entered (s : State) (kind code : Nat) (mask : Mask) (st : Strand) : Strand :=
  inHandler (st.enterHandler s (s.cycle st.part) kind code mask)

theorem strand_entry (hst : s.strand k = some st) (p : PartId) :
    (entry p k kind code mask s).strand k = some (entered s kind code mask st) := by
  rw [entry, enterHandler_eq hst]
  have hhandler : ((s.modStrand k (fun _ => st.enterHandler s (s.cycle st.part) kind code mask)).modPart p (withoutOriginator k)).strand k =
      some (st.enterHandler s (s.cycle st.part) kind code mask) := State.strand_modStrand_of hst _
  exact State.strand_modStrand_of hhandler inHandler

theorem originators_entry (hst : s.strand k = some st) (hp : (aget s.parts p).isSome = true) :
    k ∉ ((entry p k kind code mask s).part p).originators := by
  rw [entry, enterHandler_eq hst]
  show k ∉ ((s.modPart p (withoutOriginator k)).part p).originators
  rw [State.part_modPart _ hp]
  simp [withoutOriginator]

theorem thread_entered (s : State) (kind code : Nat) (st : Strand) {i : Nat} (hi : i < 16) (hm : mask.getLsbD i = true) :
    ((entered s kind code mask st).thread i).pc = st.tvec := by
  simp [entered, inHandler, Strand.enterHandler, Strand.thread, List.getD_eq_getElem?_getD, hi, hm]

end

end Sys2Proof.Proofs.Lines
end

section
/-! SUPPORT. What the release of parked threads changes of any strand, of its own and of the others (01 R18; 02 R51, R53; 07 R175; 13 R293). -/

namespace Sys2Proof.Machine

/-! ## One strand -/

/-- A strand goes on: parked threads of which `why` holds may have become live, and where `landed` holds words may have landed and what was
recorded may be used up. -/
structure Strand.GoesOn (why : Thread → Prop) (landed : Prop) (st st' : Strand) : Prop where
  rest : { st' with
    threads := st.threads, waitLocs := st.waitLocs, regs := st.regs, flags := st.flags, pend := st.pend, holdTxn := st.holdTxn
    image := st.image, seen := st.seen, watch := st.watch, frameTx := st.frameTx, recorded := st.recorded } = st
  length : st'.threads.length = st.threads.length
  thread : ∀ i, st'.thread i = st.thread i ∨ ((st.thread i).st = .parked ∧ why (st.thread i) ∧ (st'.thread i).st = .live)
  still : ¬ landed → st'.regs = st.regs ∧ st'.recorded = st.recorded

variable {why : Thread → Prop} {landed : Prop} {st st' st'' : Strand} {i : Nat}

theorem Strand.GoesOn.refl (st : Strand) : st.GoesOn why landed st := ⟨rfl, rfl, fun _ => .inl rfl, fun _ => ⟨rfl, rfl⟩⟩

theorem Strand.GoesOn.trans (h : st.GoesOn why landed st') (h' : st'.GoesOn why landed st'') : st.GoesOn why landed st'' := by
  refine ⟨?_, h'.length.trans h.length, fun i => ?_, fun hn => ⟨(h'.still hn).1.trans (h.still hn).1, (h'.still hn).2.trans (h.still hn).2⟩⟩
  · exact Eq.trans (congrArg (fun r : Strand => { r with
      threads := st.threads, waitLocs := st.waitLocs, regs := st.regs, flags := st.flags, pend := st.pend, holdTxn := st.holdTxn
      image := st.image, seen := st.seen, watch := st.watch, frameTx := st.frameTx, recorded := st.recorded }) h'.rest) h.rest
  · rcases h.thread i with h1 | ⟨hparked, hwhy, hlive⟩
    · rw [← h1]; exact h'.thread i
    · rcases h'.thread i with h2 | ⟨-, -, hlive'⟩
      · exact .inr ⟨hparked, hwhy, h2 ▸ hlive⟩
      · exact .inr ⟨hparked, hwhy, hlive'⟩

theorem Strand.GoesOn.mono {why' : Thread → Prop} {landed' : Prop} (h : st.GoesOn why landed st') (hw : ∀ th, why th → why' th)
    (hl : landed → landed') : st.GoesOn why' landed' st' :=
  ⟨h.rest, h.length, fun i => (h.thread i).imp id (fun ⟨h1, h2, h3⟩ => ⟨h1, hw _ h2, h3⟩), fun hn => h.still (hn ∘ hl)⟩

/-- A change that leaves threads, registers and what is recorded. -/
theorem Strand.GoesOn.of_eq (h : { st' with
    waitLocs := st.waitLocs, flags := st.flags, pend := st.pend, holdTxn := st.holdTxn
    image := st.image, seen := st.seen, watch := st.watch, frameTx := st.frameTx } = st) : st.GoesOn why landed st' := by
  have hthreads : st'.threads = st.threads := (congrArg Strand.threads h :)
  have hregs : st'.regs = st.regs := (congrArg Strand.regs h :)
  have hrecorded : st'.recorded = st.recorded := (congrArg Strand.recorded h :)
  refine ⟨?_, by rw [hthreads], fun i => .inl (by rw [Strand.thread, hthreads, Strand.thread]), fun _ => ⟨hregs, hrecorded⟩⟩
  rw [← hthreads, ← hregs, ← hrecorded]
  exact h

/-- A change of threads alone. -/
theorem Strand.GoesOn.of_threads (h : { st' with threads := st.threads } = st) (hlen : st'.threads.length = st.threads.length)
    (ht : ∀ i, st'.thread i = st.thread i ∨ ((st.thread i).st = .parked ∧ why (st.thread i) ∧ (st'.thread i).st = .live)) :
    st.GoesOn why landed st' :=
  ⟨(congrArg (fun r : Strand => { r with
      waitLocs := st.waitLocs, regs := st.regs, flags := st.flags, pend := st.pend, holdTxn := st.holdTxn
      image := st.image, seen := st.seen, watch := st.watch, frameTx := st.frameTx, recorded := st.recorded }) h :),
    hlen, ht, fun _ => ⟨(congrArg Strand.regs h :), (congrArg Strand.recorded h :)⟩⟩

theorem Strand.GoesOn.live (h : st.GoesOn why landed st') (hi : (st.thread i).st = .live) : (st'.thread i).st = .live := by
  rcases h.thread i with h | ⟨hparked, -, -⟩
  · rw [h]; exact hi
  · rw [hi] at hparked; cases hparked

theorem Strand.GoesOn.laneId (h : st.GoesOn why landed st') : st'.laneId = st.laneId := (congrArg Strand.laneId h.rest :)

theorem Strand.GoesOn.part (h : st.GoesOn why landed st') : st'.part = st.part := (congrArg Strand.part h.rest :)

/-- Nothing is recorded for a strand that has no parked thread. -/
def Strand.calm (st : Strand) : Prop := st.recorded = [] ∧ ∀ i, (st.thread i).st ≠ .parked

theorem Strand.GoesOn.calm (h : st.GoesOn why landed st') (hn : ¬ landed) (hc : st.calm) : st'.calm := by
  refine ⟨(h.still hn).2.trans hc.1, fun i => ?_⟩
  rcases h.thread i with h | ⟨hparked, -, -⟩
  · rw [h]; exact hc.2 i
  · exact absurd hparked (hc.2 i)

theorem Strand.GoesOn.threads_eq (h : st.GoesOn why landed st') (hno : ∀ i, (st.thread i).st = .parked → ¬ why (st.thread i)) :
    st'.threads = st.threads := by
  refine List.ext_getElem h.length (fun i h1 h2 => ?_)
  have hthread : st'.thread i = st.thread i := by
    rcases h.thread i with h | ⟨hparked, hwhy, -⟩
    · exact h
    · exact absurd hwhy (hno i hparked)
  simpa [Strand.thread, List.getD_eq_getElem?_getD, h1, h2] using hthread

theorem thread_unparkAll (park : Park) (st : Strand) (i : Nat) : (unparkAll park st).thread i =
    if (st.thread i).st = .parked ∧ (st.thread i).park = park then { st.thread i with st := .live, park := .none } else st.thread i := by
  by_cases hi : i < st.threads.length
  · simp [unparkAll, Strand.thread, List.getD_eq_getElem?_getD, hi]
  · simp [unparkAll, Strand.thread, List.getD_eq_getElem?_getD, hi]

theorem goesOn_unparkAll {park : Park} (hw : ∀ th : Thread, th.park = park → why th) (st : Strand) :
    st.GoesOn why landed (unparkAll park st) := by
  refine ⟨rfl, by simp [unparkAll], fun i => ?_, fun _ => ⟨rfl, rfl⟩⟩
  rw [thread_unparkAll]
  split
  next h => exact .inr ⟨h.1, hw _ h.2, rfl⟩
  next => exact .inl rfl

theorem thread_modThread (st : Strand) (t : Nat) (f : Thread → Thread) (i : Nat) : (st.modThread t f).thread i =
    if t = i ∧ i < st.threads.length then f (st.thread i) else st.thread i := by
  by_cases hi : i < st.threads.length <;> by_cases ht : t = i <;>
    simp [Strand.modThread, Strand.thread, List.getD_eq_getElem?_getD, getElem?_lset, hi, ht]

/-- Threads released in turn: those of the list are live, the others as they were. -/
theorem thread_foldl_release {β : Type} (rs : List (Nat × β)) (st : Strand) :
    { rs.foldl (fun st r => st.modThread r.1 Thread.release) st with threads := st.threads } = st ∧
    (rs.foldl (fun st r => st.modThread r.1 Thread.release) st).threads.length = st.threads.length ∧
    ∀ i, (i ∈ rs.map Prod.fst → i < st.threads.length → ((rs.foldl (fun st r => st.modThread r.1 Thread.release) st).thread i).st = .live) ∧
      ((rs.foldl (fun st r => st.modThread r.1 Thread.release) st).thread i = st.thread i ∨
        (i ∈ rs.map Prod.fst ∧ ((rs.foldl (fun st r => st.modThread r.1 Thread.release) st).thread i).st = .live)) := by
  induction rs generalizing st with
  | nil => exact ⟨rfl, rfl, fun i => ⟨fun h => absurd h List.not_mem_nil, .inl rfl⟩⟩
  | cons r rs ih =>
    obtain ⟨hrest, hlen, hthread⟩ := ih (st.modThread r.1 Thread.release)
    have hlen1 : (st.modThread r.1 Thread.release).threads.length = st.threads.length := length_lset ..
    refine ⟨(congrArg (fun v : Strand => { v with threads := st.threads }) hrest :), hlen.trans hlen1, fun i => ?_⟩
    obtain ⟨hin, hor⟩ := hthread i
    have hone := thread_modThread st r.1 Thread.release i
    rw [List.foldl_cons, List.map_cons]
    by_cases hr : r.1 = i ∧ i < st.threads.length
    · rw [if_pos hr] at hone
      have hlive : ((rs.foldl (fun st r => st.modThread r.1 Thread.release) (st.modThread r.1 Thread.release)).thread i).st = .live := by
        rcases hor with h | h
        · rw [h, hone]; rfl
        · exact h.2
      exact ⟨fun _ _ => hlive, .inr ⟨hr.1 ▸ List.mem_cons_self, hlive⟩⟩
    · rw [if_neg hr] at hone
      refine ⟨fun hmem hi => ?_, ?_⟩
      · rcases List.mem_cons.1 hmem with h | h
        · exact absurd ⟨h.symm, hi⟩ hr
        · exact hin h (hlen1 ▸ hi)
      · rcases hor with h | ⟨hmem, hlive⟩
        · exact .inl (h.trans hone)
        · exact .inr ⟨List.mem_cons_of_mem _ hmem, hlive⟩

/-! ## The state -/

/-- Strands, lanes and transactions may have changed, and strand `j` goes on. -/
def GoesOnAt (j : Nat) (why : Thread → Prop) (landed : Prop) (s t : State) : Prop :=
  { t with strands := s.strands, lanes := s.lanes, txns := s.txns } = s ∧
  ∀ st, s.strand j = some st → ∃ st', t.strand j = some st' ∧ st.GoesOn why landed st'

variable {s t u : State} {j k : Nat}

theorem GoesOnAt.refl (s : State) : GoesOnAt j why landed s s := ⟨rfl, fun st h => ⟨st, h, Strand.GoesOn.refl st⟩⟩

theorem GoesOnAt.trans (h : GoesOnAt j why landed s t) (h' : GoesOnAt j why landed t u) : GoesOnAt j why landed s u := by
  refine ⟨Eq.trans (congrArg (fun r : State => { r with strands := s.strands, lanes := s.lanes, txns := s.txns }) h'.1) h.1, fun st hst => ?_⟩
  obtain ⟨st1, hst1, h1⟩ := h.2 st hst
  obtain ⟨st2, hst2, h2⟩ := h'.2 st1 hst1
  exact ⟨st2, hst2, h1.trans h2⟩

theorem GoesOnAt.mono {why' : Thread → Prop} {landed' : Prop} (h : GoesOnAt j why landed s t) (hw : ∀ th, why th → why' th)
    (hl : landed → landed') : GoesOnAt j why' landed' s t :=
  ⟨h.1, fun st hst => (h.2 st hst).imp (fun _ h => ⟨h.1, h.2.mono hw hl⟩)⟩

theorem goesOnAt_foldl {β : Type} {f : State → β → State} (l : List β) (h : ∀ b ∈ l, ∀ s, GoesOnAt j why landed s (f s b)) (s : State) :
    GoesOnAt j why landed s (l.foldl f s) := by
  induction l generalizing s with
  | nil => exact GoesOnAt.refl s
  | cons b l ih => exact (h b List.mem_cons_self s).trans (ih (fun b hb => h b (List.mem_cons_of_mem _ hb)) _)

theorem goesOnAt_modStrand (k : Nat) {f : Strand → Strand} (h : k = j → ∀ st, s.strand k = some st → st.GoesOn why landed (f st)) :
    GoesOnAt j why landed s (s.modStrand k f) := by
  refine ⟨rfl, fun st hst => ?_⟩
  by_cases hkj : k = j
  · subst hkj
    exact ⟨f st, State.strand_modStrand_of hst f, h rfl st hst⟩
  · exact ⟨st, (State.strand_modStrand_other s f hkj).trans hst, Strand.GoesOn.refl st⟩

theorem goesOnAt_modLane (l : LaneId) (f : Lane → Lane) : GoesOnAt j why landed s (s.modLane l f) :=
  ⟨rfl, fun st h => ⟨st, h, Strand.GoesOn.refl st⟩⟩

theorem goesOnAt_setLanes (ls : Assoc LaneId Lane) : GoesOnAt j why landed s { s with lanes := ls } :=
  ⟨rfl, fun st h => ⟨st, h, Strand.GoesOn.refl st⟩⟩

theorem goesOnAt_setTxns (ts : Assoc Nat Txn) : GoesOnAt j why landed s { s with txns := ts } :=
  ⟨rfl, fun st h => ⟨st, h, Strand.GoesOn.refl st⟩⟩

theorem goesOnAt_putReg (w : RegWr) (h : k = j → landed) : GoesOnAt j why landed s (s.putReg k w) := by
  unfold State.putReg
  split
  next => exact GoesOnAt.refl s
  next =>
    split
    next => exact goesOnAt_modLane _ _
    next => exact goesOnAt_modStrand k (fun hk st _ => ⟨rfl, rfl, fun _ => .inl rfl, fun hn => absurd (h hk) hn⟩)

theorem goesOnAt_putRegs (ws : List RegWr) (h : k = j → ws ≠ [] → landed) : GoesOnAt j why landed s (s.putRegs k ws) :=
  goesOnAt_foldl ws (fun _ hw _ => goesOnAt_putReg _ (fun hk => h hk (List.ne_nil_of_mem hw))) s

theorem goesOnAt_saveRange (launch : Nat) (l : LaneId) (sh : Shr) (now : Nat) (s : State) :
    GoesOnAt j why landed s (saveRange launch l sh now s) := by
  unfold saveRange
  dsimp only
  split
  next => exact GoesOnAt.refl s
  next =>
    split
    next => exact GoesOnAt.refl s
    next =>
      split
      next => exact GoesOnAt.refl s
      next => exact goesOnAt_modStrand _ (fun _ st _ => Strand.GoesOn.of_eq rfl)

/-- Words that land change the registers of their strand, and images. -/
theorem goesOnAt_landWords (ws : List (Nat × Word)) (h : k = j → ws ≠ [] → landed) : GoesOnAt j why landed s (landWords k ws s) := by
  unfold landWords
  split
  next => exact GoesOnAt.refl s
  next st _ =>
    dsimp only
    have hput := goesOnAt_putRegs (s := s) (why := why) (ws.map (fun w => ⟨s.cycle st.part, w.1, w.2, s.cycle st.part⟩))
      (fun hk hne => h hk (fun hnil => hne (by rw [hnil]; rfl)))
    have himage (ls : Assoc LaneId Lane) (im : Strand → List Host.Cell) :=
      (hput.trans (goesOnAt_setLanes ls)).trans (goesOnAt_modStrand k (f := fun st => { st with image := im st })
        (fun _ _ _ => Strand.GoesOn.of_eq rfl))
    split
    next => exact (himage _ _).trans (goesOnAt_foldl _ (fun r _ s => goesOnAt_saveRange _ _ r _ s) _)
    next => exact himage _ _

theorem goesOn_follow {now : Nat} (h : st.GoesOn why landed st') : st.GoesOn why landed (st'.follow now) :=
  h.trans (by
    unfold Strand.follow
    split
    next => exact Strand.GoesOn.of_eq rfl
    next => exact Strand.GoesOn.refl _)

theorem goesOnAt_completeTxn (n : Nat) (s : State) : GoesOnAt j why landed s (completeTxn n s) := by
  unfold completeTxn
  split
  next => exact GoesOnAt.refl s
  next =>
    dsimp only
    split
    next => exact goesOnAt_setTxns _
    next => exact (goesOnAt_setTxns _).trans (goesOnAt_modStrand _ (fun _ _ _ => goesOn_follow (Strand.GoesOn.of_eq rfl)))

theorem goesOnAt_completeIdle (k : Nat) (ns : List Nat) (s : State) : GoesOnAt j why landed s (completeIdle k ns s) := by
  refine goesOnAt_foldl ns (fun n _ s => ?_) s
  split
  next =>
    split
    next => exact GoesOnAt.refl s
    next => exact goesOnAt_completeTxn n s
  next => exact GoesOnAt.refl s

/-- A release of threads, all parked: they are live, and no other thread changes. -/
theorem goesOnAt_releaseThreads (rs : List (Nat × Word)) (hl : k = j → rs ≠ [] → landed)
    (hw : k = j → ∀ st, s.strand k = some st → ∀ r ∈ rs, (st.thread r.1).st = .parked ∧ why (st.thread r.1)) :
    GoesOnAt j why landed s (releaseThreads k rs s) := by
  unfold releaseThreads
  cases hst : s.strand k with
  | none => exact GoesOnAt.refl s
  | some st =>
    dsimp only
    have hland := goesOnAt_landWords (s := s) (why := fun _ => False) (rs.flatMap (fun r => releaseWords s st r.1 r.2))
      (fun hk hne => hl hk (fun hnil => hne (by rw [hnil]; rfl)))
    refine ((hland.mono (fun _ h => h.elim) id).trans (goesOnAt_modStrand k (fun hk st1 hst1 => ?_))).trans (goesOnAt_completeIdle k _ _)
    subst hk
    obtain ⟨st1', hst1', hgo⟩ := hland.2 st hst
    cases hst1.symm.trans hst1'
    obtain ⟨hrest, hlen, hthread⟩ := thread_foldl_release rs st1
    refine Strand.GoesOn.of_threads hrest hlen (fun i => (hthread i).2.imp id (fun ⟨hmem, hlive⟩ => ?_))
    obtain ⟨r, hr, rfl⟩ := List.mem_map.1 hmem
    have hsame : st1.thread r.1 = st.thread r.1 := by
      rcases hgo.thread r.1 with h | ⟨-, h, -⟩
      · exact h
      · exact h.elim
    rw [hsame]
    exact ⟨(hw rfl st hst r hr).1, (hw rfl st hst r hr).2, hlive⟩

/-- The threads that a release names are live after it. -/
theorem live_releaseThreads (hst : s.strand k = some st) {rs : List (Nat × Word)} (hi : i ∈ rs.map Prod.fst) (hlt : i < st.threads.length) :
    ∃ st', (releaseThreads k rs s).strand k = some st' ∧ (st'.thread i).st = .live := by
  have hland := goesOnAt_landWords (s := s) (k := k) (j := k) (why := fun _ => False) (landed := True)
    (rs.flatMap (fun r => releaseWords s st r.1 r.2)) (fun _ _ => trivial)
  obtain ⟨st1, hst1, hgo1⟩ := hland.2 st hst
  obtain ⟨-, -, hthread⟩ := thread_foldl_release rs st1
  have hmod := State.strand_modStrand_of hst1 (fun st => rs.foldl (fun st r => st.modThread r.1 Thread.release) st)
  obtain ⟨st2, hst2, hgo2⟩ := (goesOnAt_completeIdle (why := fun _ => False) (landed := False) k
    (rs.map (fun r => (st.thread r.1).ptxn)) _).2 _ hmod
  refine ⟨st2, ?_, hgo2.live ((hthread i).1 hi (hgo1.length ▸ hlt))⟩
  rw [releaseThreads, hst]
  exact hst2

/-! ## Completions, DOZE, branches and room -/

theorem goesOnAt_releasePhase (key phase : Nat) (h : k = j → landed ∧ ∀ th, why th) : GoesOnAt j why landed s (releasePhase k key phase s) := by
  unfold releasePhase
  split
  next => exact GoesOnAt.refl s
  next st hst =>
    refine goesOnAt_releaseThreads _ (fun hk _ => (h hk).1) (fun hk st' hst' r hr => ⟨?_, (h hk).2 _⟩)
    cases hst.symm.trans hst'
    obtain ⟨t, ht, rfl⟩ := List.mem_map.1 hr
    have hbarw := (List.mem_filter.1 ht).2
    simp only [Strand.barw, Bool.and_eq_true, beq_iff_eq] at hbarw
    exact hbarw.1.1.1.1.1

/-- A completion frees the thread that waits for it in BARW. -/
theorem live_releasePhase (hst : s.strand k = some st) {key phase : Nat} (hi : i < 16) (hlen : st.threads.length = 16)
    (hbarw : st.barw s key phase i = true) : ∃ st', (releasePhase k key phase s).strand k = some st' ∧ (st'.thread i).st = .live := by
  rw [releasePhase, hst]
  refine live_releaseThreads hst ?_ (by omega)
  simp [hi, hbarw]

theorem goesOnAt_dozeCheck (hw : k = j → ∀ th, why th)
    (hc : k = j → ¬ landed → ∀ st, s.strand k = some st → ∀ i, (st.thread i).st ≠ .parked) : GoesOnAt j why landed s (dozeCheck k s) := by
  unfold dozeCheck
  cases hst : s.strand k with
  | none => exact GoesOnAt.refl s
  | some st =>
    dsimp only
    split
    next => exact GoesOnAt.refl s
    next =>
      have hparked : ∀ r ∈ dozers st (s.cycle st.part), (st.thread r.1).st = .parked := by
        intro r hr
        obtain ⟨t, -, ht⟩ := List.mem_filterMap.1 hr
        dsimp only at ht
        split at ht
        next hcond =>
          obtain ⟨w, -, rfl⟩ := Option.map_eq_some_iff.1 ht
          exact hcond.1
        next => cases ht
      refine (goesOnAt_releaseThreads _ (fun hk hne => ?_) (fun hk st' hst' r hr => ?_)).trans
        (goesOnAt_modStrand k (fun _ _ _ => Strand.GoesOn.of_eq rfl))
      · by_contra hn
        cases hd : dozers st (s.cycle st.part) with
        | nil => exact hne (by rw [hd]; rfl)
        | cons r rs => exact hc hk hn st hst r.1 (hparked r (by rw [hd]; exact List.mem_cons_self))
      · cases hst.symm.trans hst'
        obtain ⟨r', hr', rfl⟩ := List.mem_map.1 hr
        exact ⟨hparked r' hr', hw hk _⟩

theorem goesOnAt_unparkBranch (hw : k = j → ∀ th, why th) : GoesOnAt j why landed s (s.unparkBranch k) := by
  unfold State.unparkBranch
  split
  next => exact GoesOnAt.refl s
  next =>
    split
    next => exact GoesOnAt.refl s
    next =>
      exact goesOnAt_modStrand k (fun hk st _ => (goesOn_unparkAll (fun th _ => hw hk th) st).trans (Strand.GoesOn.of_eq rfl))

theorem GoesOnAt.unparkQuota {l : LaneId} (h : GoesOnAt j why landed s t)
    (hq : ∀ st, s.strand j = some st → st.laneId = l → ∀ th : Thread, th.park = .quota → why th) :
    GoesOnAt j why landed s (t.unparkQuota l) := by
  refine ⟨h.1, fun st hst => ?_⟩
  obtain ⟨st1, hst1, hgo⟩ := h.2 st hst
  obtain ⟨st2, hst2, rfl | ⟨hlane, rfl⟩⟩ := strand_unparkQuota hst1 l
  · exact ⟨st2, hst2, hgo⟩
  · exact ⟨_, hst2, hgo.trans (goesOn_unparkAll (hq st hst (hgo.laneId.symm.trans hlane)) st1)⟩

/-! ## What was recorded takes effect (17 R344, R349) -/

theorem goesOnAt_dropFrameTx (k : Nat) (framed : Bool) (s : State) :
    GoesOnAt j why landed s (if framed then s else s.modStrand k (fun st => { st with frameTx := [] })) := by
  split
  next => exact GoesOnAt.refl s
  next => exact goesOnAt_modStrand k (fun _ _ _ => Strand.GoesOn.of_eq rfl)

/-- A strand for which the line no longer holds anything back, and every other strand, as it goes on: `why` holds of a thread of the others
only where it waits for room on the same lane. -/
theorem goesOnAt_releaseRecorded (hw : k = j → ∀ th, why th) (hc : k = j → ¬ landed → ∀ st, s.strand k = some st → st.calm)
    (hq : ∀ st stk, s.strand j = some st → s.strand k = some stk → st.laneId = stk.laneId → ∀ th : Thread, th.park = .quota → why th) :
    GoesOnAt j why landed s (releaseRecorded k s) := by
  unfold releaseRecorded
  cases hst : s.strand k with
  | none => exact GoesOnAt.refl s
  | some stk =>
    dsimp only
    have hframe := goesOnAt_dropFrameTx (j := j) (why := why) (landed := landed) k stk.framed s
    generalize (if stk.framed then s else s.modStrand k (fun st => { st with frameTx := [] })) = s1 at hframe ⊢
    split
    next => exact hframe
    next =>
      have hphases : GoesOnAt j why landed s (stk.recorded.foldl (fun s r => releasePhase k r.1 r.2 s) s1) := by
        refine hframe.trans ?_
        by_cases hkl : k = j ∧ ¬ landed
        · rw [(hc hkl.1 hkl.2 stk hst).1]
          exact GoesOnAt.refl s1
        · exact goesOnAt_foldl _ (fun r _ s => goesOnAt_releasePhase _ _ (fun hk => ⟨not_not.1 (fun hn => hkl ⟨hk, hn⟩), hw hk⟩)) s1
      generalize stk.recorded.foldl (fun s r => releasePhase k r.1 r.2 s) s1 = s2 at hphases ⊢
      have hused := hphases.trans (goesOnAt_modStrand (s := s2) k (f := fun st => { (if st.hold then unparkAll .tokw st else st) with
          recorded := if st.framed then st.recorded else [] }) (fun hk st2 hst2 => ?_))
      · have hdoze := hused.trans (goesOnAt_dozeCheck (k := k) hw (fun hk hn st3 hst3 => ?_))
        · exact (hdoze.trans (goesOnAt_unparkBranch (k := k) hw)).unparkQuota (fun st hstj hlane => hq st stk hstj hst hlane)
        · subst hk
          obtain ⟨st3', hst3', hgo⟩ := hused.2 stk hst
          cases hst3.symm.trans hst3'
          exact (hgo.calm hn (hc rfl hn stk hst)).2
      · subst hk
        obtain ⟨st2', hst2', hgo⟩ := hphases.2 stk hst
        cases hst2.symm.trans hst2'
        have hunpark : st2.GoesOn why landed (if st2.hold then unparkAll .tokw st2 else st2) := by
          split
          next => exact goesOn_unparkAll (fun th _ => hw rfl th) st2
          next => exact Strand.GoesOn.refl st2
        refine hunpark.trans ⟨rfl, rfl, fun _ => .inl rfl, fun hn => ⟨rfl, ?_⟩⟩
        have hnone : st2.recorded = [] := (hgo.calm hn (hc rfl hn stk hst)).1
        have hsame : (if st2.hold then unparkAll .tokw st2 else st2).recorded = [] := (hunpark.still hn).2.trans hnone
        rw [hsame, hnone]
        exact ite_self _

end Sys2Proof.Machine
end

section
/-! SUPPORT. The line is cleared: the contexts go on, and what was recorded for the strands takes effect (17 R344, R349). -/

namespace Sys2Proof.Proofs.Release

open Sys2Proof.Machine Sys2Proof.Claims Sys2Proof.Safety Lines

variable {s t u : State} {p : PartId} {k j : Nat} {st stk : Strand} {i : Nat}

/-! ## One strand's own release -/

/-- What the strands, lanes and transactions do not decide. -/
theorem GoesOnAt.fields {why : Thread → Prop} {landed : Prop} (h : GoesOnAt j why landed s t) :
    t.parts = s.parts ∧ t.msgs = s.msgs ∧ t.launches = s.launches ∧ t.stores = s.stores ∧ t.ctxs = s.ctxs :=
  ⟨(congrArg State.parts h.1 :), (congrArg State.msgs h.1 :), (congrArg State.launches h.1 :), (congrArg State.stores h.1 :),
    (congrArg State.ctxs h.1 :)⟩

theorem goesOnAt_any (j k : Nat) (s : State) : GoesOnAt j (fun _ => True) True s (releaseRecorded k s) :=
  goesOnAt_releaseRecorded (fun _ _ => trivial) (fun _ hn => absurd trivial hn) (fun _ _ _ _ _ _ _ => trivial)

/-- The thread waits in BARW for the completion `r`, and its arrival has been counted (13 R290, R293). -/
def Awaits (s : State) (th : Thread) (r : Nat × Nat) : Prop :=
  th.st = .parked ∧ th.park = .barw ∧ th.psel = r.1 ∧ th.parg = r.2 ∧ th.ptxn ≠ 0 ∧ s.arrivalOut th.ptxn = false

theorem barw_of_awaits {r : Nat × Nat} (h : Awaits s (st.thread i) r) : st.barw s r.1 r.2 i = true := by
  obtain ⟨h1, h2, h3, h4, h5, h6⟩ := h
  simp [Strand.barw, h1, h2, h3, h4, h5, h6]

/-- One of the completions released in turn frees a thread that awaits it. -/
theorem live_foldl_releasePhase {r : Nat × Nat} {rs : List (Nat × Nat)} (hr : r ∈ rs) (hst : s.strand k = some st) (hi : i < 16)
    (hlen : st.threads.length = 16) (h : Awaits s (st.thread i) r ∨ (st.thread i).st = .live) :
    ∃ st', (rs.foldl (fun s r => releasePhase k r.1 r.2 s) s).strand k = some st' ∧ (st'.thread i).st = .live := by
  induction rs generalizing s st with
  | nil => cases hr
  | cons r0 rs ih =>
    have hstep := goesOnAt_releasePhase (s := s) (k := k) (j := k) (why := fun _ => True) (landed := True) r0.1 r0.2
      (fun _ => ⟨trivial, fun _ => trivial⟩)
    obtain ⟨st1, hst1, hgo1⟩ := hstep.2 st hst
    have hrest := goesOnAt_foldl (j := k) (why := fun _ => True) (landed := True) rs
      (fun r _ s => goesOnAt_releasePhase (s := s) (k := k) r.1 r.2 (fun _ => ⟨trivial, fun _ => trivial⟩)) (releasePhase k r0.1 r0.2 s)
    have hkeeps : (st1.thread i).st = .live →
        ∃ st', (rs.foldl (fun s r => releasePhase k r.1 r.2 s) (releasePhase k r0.1 r0.2 s)).strand k = some st' ∧ (st'.thread i).st = .live := by
      intro hlive
      obtain ⟨st2, hst2, hgo2⟩ := hrest.2 st1 hst1
      exact ⟨st2, hst2, hgo2.live hlive⟩
    rcases h with h | h
    · rcases hgo1.thread i with hsame | ⟨-, -, hlive⟩
      · rcases List.mem_cons.1 hr with rfl | hr
        · obtain ⟨st1', hst1', hlive⟩ := live_releasePhase hst hi hlen (barw_of_awaits h)
          cases hst1.symm.trans hst1'
          exact hkeeps hlive
        · refine ih hr hst1 (hgo1.length.trans hlen) (.inl ?_)
          rw [hsame]
          have hmsgs := (GoesOnAt.fields hstep).2.1
          simpa only [Awaits, State.arrivalOut, hmsgs] using h
      · exact hkeeps hlive
    · exact hkeeps (hgo1.live h)

/-- Once the line is down a thread goes on whose completion was recorded. -/
theorem live_releaseRecorded (hst : s.strand k = some st) (hline : (s.part st.part).line = none) {r : Nat × Nat} (hr : r ∈ st.recorded)
    (hi : i < 16) (hlen : st.threads.length = 16) (h : Awaits s (st.thread i) r) :
    ∃ st', (releaseRecorded k s).strand k = some st' ∧ (st'.thread i).st = .live := by
  have hframe := goesOnAt_dropFrameTx (j := k) (why := fun _ => False) (landed := False) k st.framed s
  obtain ⟨st1, hst1, hgo1⟩ := hframe.2 st hst
  obtain ⟨hparts, hmsgs, -⟩ := GoesOnAt.fields hframe
  unfold releaseRecorded
  rw [hst]
  dsimp only
  generalize (if st.framed then s else s.modStrand k (fun st => { st with frameTx := [] })) = s1 at hframe hst1 hparts hmsgs ⊢
  have hdown : ¬ s1.lineHolds st = true := by
    have : (s1.part st.part).line = none := by rw [State.part, hparts]; exact hline
    simp [State.lineHolds, this]
  have hsame : st1.thread i = st.thread i := by
    rcases hgo1.thread i with h | ⟨-, h, -⟩
    · exact h
    · exact h.elim
  rw [if_neg hdown]
  obtain ⟨st2, hst2, hlive2⟩ := live_foldl_releasePhase hr hst1 hi (hgo1.length.trans hlen)
    (.inl (by rw [hsame]; simpa only [Awaits, State.arrivalOut, hmsgs] using h))
  generalize st.recorded.foldl (fun s r => releasePhase k r.1 r.2 s) s1 = s2 at hst2 ⊢
  have hused : GoesOnAt k (fun _ => True) True s2 (s2.modStrand k (fun st => { (if st.hold then unparkAll .tokw st else st) with
      recorded := if st.framed then st.recorded else [] })) := by
    refine goesOnAt_modStrand k (fun _ st2 _ => Strand.GoesOn.trans (st' := if st2.hold then unparkAll .tokw st2 else st2) ?_
      ⟨rfl, rfl, fun _ => .inl rfl, fun hn => absurd trivial hn⟩)
    split
    next => exact goesOn_unparkAll (fun _ _ => trivial) st2
    next => exact Strand.GoesOn.refl st2
  have hlater := ((hused.trans (goesOnAt_dozeCheck (k := k) (fun _ _ => trivial) (fun _ hn => absurd trivial hn))).trans
    (goesOnAt_unparkBranch (k := k) (fun _ _ => trivial))).unparkQuota (l := st.laneId) (fun _ _ _ _ _ => trivial)
  obtain ⟨st3, hst3, hgo3⟩ := hlater.2 st2 hst2
  exact ⟨st3, hst3, hgo3.live hlive2⟩

/-! ## The strands of the partition in turn -/

/-- Every strand of the list is one of the partition. -/
def InPart (p : PartId) (ks : List Nat) (s : State) : Prop := ∀ k ∈ ks, ∃ st, s.strand k = some st ∧ st.part = p

theorem InPart.step {ks : List Nat} (h : InPart p ks s) (k : Nat) : InPart p ks (releaseRecorded k s) := by
  intro k' hk'
  obtain ⟨st, hst, hp⟩ := h k' hk'
  obtain ⟨st', hst', hgo⟩ := (goesOnAt_any k' k s).2 st hst
  exact ⟨st', hst', hgo.part.trans hp⟩

/-- A thread of strand `j` changes only where it is of the partition, and its registers only where something awaits the release. -/
theorem goesOnAt_foldl_releaseRecorded {ks : List Nat} (hks : InPart p ks s) (hst : s.strand j = some st) :
    GoesOnAt j (fun _ => st.part = p) (st.part = p ∧ ¬ st.calm) s (ks.foldl (fun s k => releaseRecorded k s) s) := by
  suffices h : ∀ t, GoesOnAt j (fun _ => st.part = p) (st.part = p ∧ ¬ st.calm) s t → InPart p ks t →
      GoesOnAt j (fun _ => st.part = p) (st.part = p ∧ ¬ st.calm) s (ks.foldl (fun s k => releaseRecorded k s) t) from h s (GoesOnAt.refl s) hks
  clear hks
  induction ks with
  | nil => exact fun t h _ => h
  | cons k ks ih =>
    intro t h hks
    obtain ⟨stj, hstj, hgo⟩ := h.2 st hst
    obtain ⟨stk, hstk, hpk⟩ := hks k List.mem_cons_self
    refine ih _ (h.trans (goesOnAt_releaseRecorded (fun hk _ => ?_) (fun hk hn v hv => ?_) (fun v vk hv hvk hlane _ _ => ?_)))
      (InPart.step (fun k' hk' => hks k' (List.mem_cons_of_mem _ hk')) k)
    · subst hk
      cases hstj.symm.trans hstk
      exact hgo.part.symm.trans hpk
    · subst hk
      cases hstj.symm.trans hv
      cases hstj.symm.trans hstk
      exact hgo.calm hn (not_not.1 (fun hcalm => hn ⟨hgo.part.symm.trans hpk, hcalm⟩))
    · cases hstj.symm.trans hv
      cases hstk.symm.trans hvk
      have hparts : stj.part = stk.part := (congrArg (fun l : LaneId => l.tile.part) hlane :)
      exact hgo.part.symm.trans (hparts.trans hpk)

/-- A thread goes on that awaits a completion recorded for its strand, whatever strands go on before it. -/
theorem live_foldl_releaseRecorded {ks : List Nat} (hk : k ∈ ks) (hst : s.strand k = some st) (hline : (s.part st.part).line = none)
    {r : Nat × Nat} (hr : r ∈ st.recorded) (hi : i < 16) (hlen : st.threads.length = 16) (h : Awaits s (st.thread i) r) :
    ∃ st', (ks.foldl (fun s k => releaseRecorded k s) s).strand k = some st' ∧ (st'.thread i).st = .live := by
  induction ks generalizing s st with
  | nil => cases hk
  | cons k0 ks ih =>
    rw [List.foldl_cons]
    by_cases hk0 : k0 = k
    · subst hk0
      obtain ⟨st1, hst1, hlive1⟩ := live_releaseRecorded hst hline hr hi hlen h
      obtain ⟨st2, hst2, hgo2⟩ := (goesOnAt_foldl (j := k0) ks (fun k _ s => goesOnAt_any k0 k s) _).2 st1 hst1
      exact ⟨st2, hst2, hgo2.live hlive1⟩
    · have hother : GoesOnAt k (fun th => th.park = .quota) False s (releaseRecorded k0 s) :=
        goesOnAt_releaseRecorded (fun h => absurd h hk0) (fun h => absurd h hk0) (fun _ _ _ _ _ _ h => h)
      obtain ⟨hparts, hmsgs, -⟩ := GoesOnAt.fields hother
      obtain ⟨st1, hst1, hgo1⟩ := hother.2 st hst
      have hsame : st1.thread i = st.thread i := by
        rcases hgo1.thread i with h1 | ⟨-, hquota, -⟩
        · exact h1
        · exact absurd (h.2.1.symm.trans hquota) (by decide)
      refine ih ((List.mem_cons.1 hk).resolve_left (fun h => hk0 h.symm)) hst1 ?_ ?_ (hgo1.length.trans hlen) ?_
      · rw [State.part, hparts, hgo1.part]
        exact hline
      · rw [(hgo1.still id).2]
        exact hr
      · rw [hsame]
        simpa only [Awaits, State.arrivalOut, hmsgs] using h

/-! ## Clearing the line -/

/-- The line is down, and no unit is stopped or an originator. -/
def down (q : Machine.Part) : Machine.Part := { q with line := none, originators := [], quiet := [] }

/-- A context goes on as what it was (17 R349). -/
def resumed (x : Ctx) : Ctx := if x.st = 4 then { x with st := x.before } else x

/-- A strand that is not stopped any more. -/
def unmarked (st : Strand) : Strand := { st with stopped := false, orig := none, inLine := false }

theorem unmarkedIf_fields (q : Prop) [Decidable q] (st : Strand) : (if q then unmarked st else st).regs = st.regs ∧
    (if q then unmarked st else st).threads = st.threads := by
  split <;> exact ⟨rfl, rfl⟩

/-- A strand for which nothing is recorded, and none of whose threads is parked. -/
theorem calm_of_quiet (h : st.recorded = [] ∧ ∀ th ∈ st.threads, th.st ≠ .parked) : st.calm := by
  refine ⟨h.1, fun i => ?_⟩
  by_cases hi : i < st.threads.length
  · rw [Strand.thread, List.getD_eq_getElem?_getD, List.getElem?_eq_getElem hi, Option.getD_some]
    exact h.2 _ (List.getElem_mem hi)
  · simp [Strand.thread, List.getD_eq_getElem?_getD, hi]

def mine (p : PartId) (s : State) : List (Nat × Strand) := s.strands.filter (fun x => x.2.part == p && x.2.status != .ended)

/-- The line has been cleared, and nothing that was recorded has taken effect yet. -/
def lowered (p : PartId) (s : State) : State :=
  { (unstick p s).modPart p down with
    ctxs := (contextsOf p).foldl (fun m c => amod m c resumed) s.ctxs
    strands := ((mine p s).map Prod.fst).foldl (fun m k => amod m k unmarked) s.strands }

/-- The line is down and the contexts go on, the strands not yet. -/
def withContexts (p : PartId) (s : State) : State := (contextsOf p).foldl (fun s c => s.modCtx c resumed) ((unstick p s).modPart p down)

/-- What becomes of a strand of the partition then. -/
def goes (s : State) (x : Nat × Strand) : State :=
  if s.budgetEnded x.2 then strandEnd x.1 s else if x.2.status = .resident then releaseRecorded x.1 s else s

theorem foldl_modStrand (f : Strand → Strand) (xs : List (Nat × Strand)) (s : State) :
    xs.foldl (fun s x => s.modStrand x.1 f) s = { s with strands := (xs.map Prod.fst).foldl (fun m k => amod m k f) s.strands } := by
  induction xs generalizing s with
  | nil => rfl
  | cons x xs ih => exact ih (s.modStrand x.1 f)

theorem clearLine_eq (h : (s.part p).line.isSome = true) : s.clearLine p = (mine p s).foldl goes (lowered p s) := by
  have hnot : ¬ (s.part p).line.isNone = true := by
    obtain ⟨l, hl⟩ := Option.isSome_iff_exists.1 h
    simp [hl]
  have hctxs : withContexts p s = _ := foldl_modCtx resumed (contextsOf p) ((unstick p s).modPart p down)
  rw [State.clearLine, if_neg hnot]
  show (mine p (withContexts p s)).foldl goes ((mine p (withContexts p s)).foldl (fun s x => s.modStrand x.1 unmarked) (withContexts p s)) = _
  rw [foldl_modStrand, hctxs]
  rfl

/-- The strands that go on. -/
def going (p : PartId) (s : State) : List Nat := ((mine p s).filter (fun x => x.2.status = .resident)).map Prod.fst

theorem foldl_goes (xs : List (Nat × Strand)) (h : ∀ x ∈ xs, s.budgetEnded x.2 = false) (hu : u.launches = s.launches) :
    xs.foldl goes u = ((xs.filter (fun x => x.2.status = .resident)).map Prod.fst).foldl (fun s k => releaseRecorded k s) u := by
  induction xs generalizing u with
  | nil => rfl
  | cons x xs ih =>
    have hrest := fun y hy => h y (List.mem_cons_of_mem x hy)
    have hbudget : ¬ u.budgetEnded x.2 = true := by
      have hx : s.budgetEnded x.2 = false := h x List.mem_cons_self
      rw [State.budgetEnded, hu]
      simpa [State.budgetEnded] using hx
    rw [List.foldl_cons, goes, if_neg hbudget]
    by_cases hres : x.2.status = .resident
    · rw [if_pos hres, ih hrest ((GoesOnAt.fields (goesOnAt_any 0 x.1 u)).2.2.1.trans hu), List.filter_cons_of_pos (by simpa using hres)]
      rfl
    · rw [if_neg hres, ih hrest hu, List.filter_cons_of_neg (by simpa using hres)]

theorem nodup_mine (h : (s.strands.map Prod.fst).Nodup) : ((mine p s).map Prod.fst).Nodup :=
  h.sublist (List.filter_sublist.map _)

theorem mem_mine (h : (s.strands.map Prod.fst).Nodup) (hst : s.strand k = some st) :
    k ∈ (mine p s).map Prod.fst ↔ st.part = p ∧ st.status ≠ .ended := by
  constructor
  · intro hk
    obtain ⟨x, hx, rfl⟩ := List.mem_map.1 hk
    obtain ⟨hmem, hcond⟩ := List.mem_filter.1 hx
    cases (aget_of_mem h hmem).symm.trans hst
    simpa using hcond
  · intro hcond
    exact List.mem_map.2 ⟨(k, st), List.mem_filter.2 ⟨mem_of_aget hst, by simpa using hcond⟩, rfl⟩

theorem strand_lowered (h : (s.strands.map Prod.fst).Nodup) (hst : s.strand k = some st) :
    (lowered p s).strand k = some (if st.part = p ∧ st.status ≠ .ended then unmarked st else st) := by
  refine (aget_foldl_amod unmarked (nodup_mine h) s.strands k).trans ?_
  rw [show aget s.strands k = some st from hst]
  by_cases hk : st.part = p ∧ st.status ≠ .ended
  · rw [if_pos ((mem_mine h hst).2 hk), if_pos hk, Option.map_some]
  · rw [if_neg (fun hm => hk ((mem_mine h hst).1 hm)), if_neg hk]

theorem inPart_going (h : (s.strands.map Prod.fst).Nodup) : InPart p (going p s) (lowered p s) := by
  intro k hk
  obtain ⟨x, hx, rfl⟩ := List.mem_map.1 hk
  have hmem := (List.mem_filter.1 hx).1
  obtain ⟨hin, hcond⟩ := List.mem_filter.1 hmem
  have hst : s.strand x.1 = some x.2 := aget_of_mem h hin
  have hpart : x.2.part = p := (by simpa using hcond : x.2.part = p ∧ _).1
  refine ⟨_, strand_lowered h hst, ?_⟩
  split <;> exact hpart

theorem mem_going (hst : s.strand k = some st) (hpart : st.part = p) (hres : st.status = .resident) : k ∈ going p s :=
  List.mem_map.2 ⟨(k, st), List.mem_filter.2 ⟨List.mem_filter.2 ⟨mem_of_aget hst, by simp [hpart, hres]⟩, by simpa using hres⟩, rfl⟩

/-! ## RELEASE (17 R349, R356) -/

theorem part_unstick (hp : (aget s.parts p).isSome = true) : (aget (unstick p s).parts p).isSome = true ∧
    ((unstick p s).part p).events = (s.part p).events := by
  obtain ⟨q, hq⟩ := Option.isSome_iff_exists.1 hp
  have hmap := aget_map s.parts (f := fun x => (x.1, { x.2 with
    cqs := x.2.cqs.map (fun q => (q.1, q.2.map (fun c => if c.stuck = some p then { c with stuck := none } else c))) })) (fun _ => rfl) p
  rw [hq, Option.map_some] at hmap
  have haget : aget (unstick p s).parts p = _ := hmap
  exact ⟨by rw [haget]; rfl, by rw [State.part_of_aget haget, State.part_of_aget hq]⟩

/-- The partition has its line down, and no new event. -/
theorem part_lowered (hp : (aget s.parts p).isSome = true) : (aget (lowered p s).parts p).isSome = true ∧
    ((lowered p s).part p).line = none ∧ ((lowered p s).part p).events = (s.part p).events := by
  obtain ⟨hsome, hevents⟩ := part_unstick hp
  have hdown : (lowered p s).part p = down ((unstick p s).part p) := State.part_modPart down hsome
  refine ⟨(isSome_aget_amod ..).trans hsome, by rw [hdown]; rfl, ?_⟩
  rw [hdown]
  exact hevents

theorem ctx_lowered (p : PartId) (s : State) {n : Nat} (hn : n < 4) : (lowered p s).ctx ⟨p, n⟩ = resumed (s.ctx ⟨p, n⟩) :=
  ctx_foldl_amod (f := resumed) rfl s.ctxs p hn

/-- Where no slice has ended by budget, the strands of the partition go on, and nothing but strands, lanes and transactions changes. -/
theorem clearLine_going (h : (s.part p).line.isSome = true) (hd : (s.strands.map Prod.fst).Nodup)
    (hb : ∀ k st, s.strand k = some st → s.budgetEnded st = false) :
    s.clearLine p = (going p s).foldl (fun s k => releaseRecorded k s) (lowered p s) := by
  rw [clearLine_eq h]
  refine foldl_goes (s := s) _ (fun x hx => hb x.1 x.2 (aget_of_mem hd (List.mem_filter.1 hx).1)) rfl

variable {c : CtxId}

/-- What RELEASE leaves of the partition, and of each of its strands. -/
theorem release_spec (hstores : s.stores = []) (hd : (s.strands.map Prod.fst).Nodup) (hp : (aget s.parts c.part).isSome = true)
    (hst : (s.ctx c).st = 4) (hline : (s.part c.part).line.isSome = true) (hb : ∀ k st, s.strand k = some st → s.budgetEnded st = false) :
    ∃ t, exec (.release c) s = .next t ∧ (t.part c.part).line = none ∧ posted s t c.part [(0x8045, c.n)] ∧ t.mem = s.mem ∧
      (∀ m < 4, t.ctx ⟨c.part, m⟩ = resumed (s.ctx ⟨c.part, m⟩)) ∧
      ∀ k st, s.strand k = some st → ∃ st', t.strand k = some st' ∧
        (if st.part = c.part ∧ st.status ≠ .ended then unmarked st else st).GoesOn (fun _ => st.part = c.part) (st.part = c.part ∧ ¬ st.calm) st' ∧
        (st.part = c.part → st.status = .resident → st.threads.length = 16 → ∀ r ∈ st.recorded, ∀ i < 16, Awaits s (st.thread i) r →
          (st'.thread i).st = .live) := by
  have hclear := clearLine_going hline hd hb
  have hfields : ∀ j, GoesOnAt j (fun _ => True) True (lowered c.part s) (s.clearLine c.part) := fun j => by
    rw [hclear]
    exact goesOnAt_foldl _ (fun k _ u => goesOnAt_any j k u) _
  obtain ⟨hparts, -, -, hstores', hctxs⟩ := GoesOnAt.fields (hfields 0)
  obtain ⟨hsome, hlow, hevents⟩ := part_lowered hp
  have hpart : (s.clearLine c.part).part c.part = (lowered c.part s).part c.part := by rw [State.part, hparts]; rfl
  have hdone := State.part_cmdDone (s := s.clearLine c.part) c 5 (by rw [hparts]; exact hsome)
  rw [hpart] at hdone
  refine ⟨_, exec_of_some (i := .release c) (f := evRelease c) rfl (if_neg (not_not.2 hst)) rfl, ?_, ?_, ?_, fun m hm => ?_, fun k st hk => ?_⟩
  · exact (congrArg Part.line hdone :).trans hlow
  · refine (congrArg Part.events hdone :).trans ?_
    rw [hevents]
  · exact commit_mem_of_stores (hstores'.trans hstores)
  · refine Eq.trans ?_ (ctx_lowered c.part s hm)
    exact congrArg (fun m => agetD m _ _) hctxs
  · have hlowered := strand_lowered (p := c.part) hd hk
    generalize hv : (if st.part = c.part ∧ st.status ≠ .ended then unmarked st else st) = v at hlowered ⊢
    have hsame : v.part = st.part ∧ v.recorded = st.recorded ∧ v.threads = st.threads := by
      rw [← hv]
      split <;> exact ⟨rfl, rfl, rfl⟩
    obtain ⟨hvpart, hvrec, hvthreads⟩ := hsame
    have hcalm : v.calm ↔ st.calm := by rw [Strand.calm, Strand.calm, hvrec]; simp only [Strand.thread, hvthreads]
    obtain ⟨st', hst', hgo⟩ := (goesOnAt_foldl_releaseRecorded (inPart_going hd) hlowered).2 v hlowered
    rw [hvpart, hcalm] at hgo
    refine ⟨st', ?_, hgo, fun hpart' hres hlen r hr i hi hawaits => ?_⟩
    · exact (congrArg (fun s : State => s.strand k) hclear).trans hst'
    · obtain ⟨st2, hst2, hlive⟩ := live_foldl_releaseRecorded (i := i) (mem_going hk hpart' hres) hlowered
        (by rw [hvpart, hpart']; exact hlow) (by rw [hvrec]; exact hr) hi (by rw [hvthreads]; exact hlen)
        (by rw [Strand.thread, hvthreads]; exact hawaits)
      cases hst'.symm.trans hst2
      exact hlive

end Sys2Proof.Proofs.Release

namespace Sys2Proof.Proofs

open Sys2Proof.Machine Sys2Proof.Claims Sys2Proof.Safety Lines Release

/-- Settles O46: HALT raises the line (`halt_spec`), and RELEASE lets each strand go on (`Strand.GoesOn`), a thread whose completion was
recorded among its live ones (`live_foldl_releaseRecorded`); units stop, the originator enters, and REPLAY and INVAL do, as their effects say. -/
theorem linesAndCommands : Obligations.LinesAndCommands := by
  intro c s hstores hnum hp p x
  refine ⟨halt_spec hstores hp, fun h => ?_, fun hst hline hb => ?_, fun h => ?_, fun hline => ⟨?_, ?_, ?_⟩, fun hline u => unitStop_down hline u,
    fun k st kind code mask hk hpart horig => ⟨fun hline hres hlive htvec hpriv hall => ?_, fun h => ?_⟩, fun hn hre => replay_spec hp hn hre,
    fun hn => inval_spec hp hn⟩
  · exact exec_of_none (i := .halt c) (f := evHalt c) rfl (if_pos h)
  · obtain ⟨t, ht, hdown, hpost, hmem, hctx, hstrand⟩ := release_spec hstores hnum.1 hp hst hline hb
    refine ⟨t, ht, hdown, hpost, hmem, hctx, fun hquiet k st hk => ?_, fun k st hk hpart hended => ?_⟩
    · obtain ⟨st', hst', hgo, -⟩ := hstrand k st hk
      have hcalm : st.part = p → st.calm := fun hpart => calm_of_quiet (hquiet _ (mem_of_aget hk) hpart)
      obtain ⟨hregs, hthreads⟩ := unmarkedIf_fields (st.part = p ∧ st.status ≠ .ended) st
      refine ⟨st', hst', (hgo.threads_eq (fun i hparked hpart => ?_)).trans hthreads, (hgo.still (fun h => h.2 (hcalm h.1))).1.trans hregs⟩
      rw [Strand.thread, hthreads] at hparked
      exact (hcalm hpart).2 i hparked
    · obtain ⟨st', hst', hgo, hlive⟩ := hstrand k st hk
      rw [if_pos ⟨hpart, hended⟩] at hgo
      refine ⟨st', hst', (congrArg Strand.stopped hgo.rest :), (congrArg Strand.orig hgo.rest :), (congrArg Strand.inLine hgo.rest :),
        fun hres hlen r hr i hi h1 h2 h3 h4 h5 h6 => hlive hpart hres hlen r hr i hi ⟨h1, h2, h3, h4, h5, h6⟩⟩
  · exact exec_of_none (i := .release c) (f := evRelease c) rfl (if_pos h)
  · intro k st hk hpart hres hrun pc info
    have hstop := unitStop_strand hline hk hpart hres hrun
    rw [stoppedStrand_eq, hpart] at hstop
    exact hstop
  · exact fun n hn hquiet => unitStop_sched hline hp hn hquiet
  · exact fun u hu hquiet => unitStop_other hstores hline hp hu hquiet
  · rw [← hpart] at hline hall
    refine ⟨_, _, exec_of_some (i := .originatorHandlerEntry k) (f := evOriginatorHandlerEntry k) rfl
      (evOriginator_eq hk horig hline hres hlive htvec hpriv hall) rfl, strand_entry hk st.part, rfl, rfl, rfl, rfl, rfl, rfl, ?_,
      fun i hi hm => thread_entered s kind code st hi hm⟩
    rw [hpart]
    exact originators_entry hk hp
  · rw [← hpart] at h
    exact originator_waits hk horig h

end Sys2Proof.Proofs
end

section
/-! SUPPORT. Branches, calls and returns: their targets, and the threads they move (02 R52; 04 R84, R85, R93; 07 R160, R161). -/

namespace Sys2Proof.Machine

theorem State.modStrand_modStrand (s : State) (k : Nat) (f g : Strand → Strand) :
    (s.modStrand k f).modStrand k g = s.modStrand k (fun st => g (f st)) := by
  simp only [State.modStrand, amod]
  cases h : aget s.strands k with
  | none => simp [h]
  | some st => simp [aput_aput]

/-- The threads of a list, each changed in its own way. -/
theorem foldl_modThread_each (g : Nat → Thread → Thread) {ts : List Nat} (hd : ts.Nodup) {st : Strand} (hlen : st.threads.length = 16) :
    ts.foldl (fun st t => st.modThread t (g t)) st =
      { st with threads := (List.range 16).map (fun t => if ts.contains t then g t (st.thread t) else st.thread t) } := by
  induction ts generalizing st with
  | nil => exact foldl_modThread (f := id) (fun _ => rfl) hlen []
  | cons t ts ih =>
    obtain ⟨hnot, hd⟩ := List.nodup_cons.1 hd
    rw [List.foldl_cons, ih hd ((length_lset ..).trans hlen)]
    refine congrArg (fun l => { st with threads := l }) (List.map_congr_left (fun u hu => ?_))
    have hu16 : u < st.threads.length := by rw [hlen]; exact List.mem_range.1 hu
    rw [thread_modThread]
    by_cases htu : t = u
    · subst htu
      simp [hnot, hu16]
    · have hne : u ≠ t := fun h => htu h.symm
      simp [htu, hne]

end Sys2Proof.Machine

namespace Sys2Proof.Safety

open Sys2Proof.Machine Sys2Proof.Claims

variable {i : Instr} {s s1 : State} {y : Iss}

/-- The strand of an instruction that performs, with the PCs of its executing threads advanced (01 R14). -/
theorem Performs.strand_next (h : Performs i s y s1) : s1.strand y.k = some { y.st with
    threads := (List.range 16).map (fun t => if y.exm.contains t then { y.st.thread t with pc := nextPc y.pc } else y.st.thread t) } := by
  obtain ⟨x, pops, ⟨z, c, hx, -, -, hp, -⟩, -, -, hpop, -, rfl⟩ := h
  obtain ⟨-, -, -, hk, hst, -⟩ := issueOf_inv hx
  have hxst : s.strand x.k = some x.st := by
    rcases plan_inPlace hp with rfl | rfl <;> (rw [← hk] at hst; exact hst)
  exact (congrArg (fun m => aget m x.k) (popAll_strands hpop)).trans (State.strand_modStrand_of hxst _)

theorem Performs.nodup_act (h : Performs i s y s1) : y.act.Nodup ∧ ∀ t ∈ y.act, t < 16 := by
  obtain ⟨-, -, -, -, -, -, -, hexm, hact, -, -⟩ := performs_inv h
  have hall : y.exm.Nodup ∧ ∀ t ∈ y.exm, t < 16 := by
    rw [hexm]
    exact ⟨(List.nodup_range.filter _).filter _, fun t ht => List.mem_range.1 (List.mem_filter.1 (List.mem_filter.1 ht).1).1⟩
  rcases hact with hact | hact <;> rw [hact]
  · exact ⟨hall.1.filter _, fun t ht => hall.2 t (List.mem_filter.1 ht).1⟩
  · exact hall

end Sys2Proof.Safety

namespace Sys2Proof.Proofs.Branches

open Sys2Proof.Machine Sys2Proof.Claims Sys2Proof.Safety

variable {i : Instr} {s s1 : State} {y : Iss} {st : Strand} {pc : Pc}

/-! ## Targets (04 R84, R85, R93) -/

theorem slotPc_eq (pc : Pc) : slotPc pc = pc.toNat % 8 := by
  rw [slotPc, BitVec.toNat_and]
  exact Nat.and_two_pow_sub_one_eq_mod _ 3

theorem branchTarget_eq (pc : Pc) (off : BitVec 30) (slot : BitVec 3) : branchTarget pc off slot = target pc off slot := by
  have hline : linePc pc = (pc >>> 6) <<< 6 := by
    rw [BitVec.shiftLeft_ushiftRight]
    rfl
  have hshift : off.signExtend 56 * 64#56 = off.signExtend 56 <<< 6 := by
    rw [BitVec.shiftLeft_eq_mul_twoPow]
    rfl
  have hzero : (linePc pc + off.signExtend 56 <<< 6) &&& slot.zeroExtend 56 = 0#56 := by
    rw [hline, ← BitVec.shiftLeft_add_distrib]
    refine BitVec.eq_of_getLsbD_eq (fun j hj => ?_)
    rw [BitVec.getLsbD_and, BitVec.getLsbD_shiftLeft, BitVec.getLsbD_setWidth, BitVec.getLsbD_zero]
    by_cases hlow : j < 6
    · simp [hlow]
    · simp [BitVec.getLsbD_of_ge slot j (by omega)]
  unfold branchTarget target
  rw [← BitVec.add_eq_or_of_and_eq_zero _ _ hzero, ← hshift]
  rfl

/-- The line of a target has been fetched, and does not mark its slot (04 R85). -/
def Unmarked (s : State) (st : Strand) (pc : Pc) : Prop := ∃ f, s.fetched st pc = some f ∧ f.data.getLsbD (pc.toNat % 8) = false

theorem targetChk_of_isTarget (h : isTarget s st pc) (t : Nat) : targetChk s st t pc = none := by
  obtain ⟨-, f, hf, hmark⟩ := h
  simp [targetChk, hf, FetchLine.marks, slotPc_eq, hmark]

theorem targetChk_of_unmarked (h : Unmarked s st pc) (t : Nat) : targetChk s st t pc = some (.stop (targetFault t pc.toNat)) := by
  obtain ⟨f, hf, hmark⟩ := h
  simp [targetChk, hf, FetchLine.marks, slotPc_eq, hmark]

theorem firstSome_eq_none {α β : Type} {f : α → Option β} {l : List α} (h : ∀ a ∈ l, f a = none) : firstSome f l = none := by
  induction l with
  | nil => rfl
  | cons a l ih => rw [firstSome, h a List.mem_cons_self]; exact ih (fun b hb => h b (List.mem_cons_of_mem _ hb))

theorem firstSome_append {α β : Type} {f : α → Option β} {pre post : List α} {a : α} {b : β} (hpre : ∀ a ∈ pre, f a = none) (h : f a = some b) :
    firstSome f (pre ++ a :: post) = some b := by
  induction pre with
  | nil => rw [List.nil_append, firstSome, h]
  | cons c pre ih =>
    rw [List.cons_append, firstSome, hpre c List.mem_cons_self]
    exact ih (fun a ha => hpre a (List.mem_cons_of_mem _ ha))

theorem find?_append_first {α : Type} {p : α → Bool} {pre post : List α} {a : α} (hpre : ∀ b ∈ pre, p b = false) (h : p a = true) :
    (pre ++ a :: post).find? p = some a :=
  List.find?_eq_some_iff_append.2 ⟨h, pre, post, rfl, fun b hb => by rw [hpre b hb]; rfl⟩

section
variable {ts pre post : List (Nat × Pc)} {p : Nat × Pc}

theorem targetsChk_ok (h : ∀ p ∈ ts, isTarget s st p.2) : targetsChk s st ts = none := by
  have hslots : ts.find? (fun p => decide (5 ≤ slotPc p.2)) = none :=
    List.find?_eq_none.2 (fun p hp => by have := (h p hp).1; simp [slotPc_eq]; omega)
  rw [targetsChk, hslots]
  exact firstSome_eq_none (fun p hp => targetChk_of_isTarget (h p hp) p.1)

theorem targetsChk_map_ok {ts : List Nat} {f : Nat → Pc} (h : ∀ t ∈ ts, isTarget s st (f t)) :
    targetsChk s st (ts.map (fun t => (t, f t))) = none :=
  targetsChk_ok (List.forall_mem_map.2 h)

/-- The first slot that is no slot of a line faults. -/
theorem targetsChk_slot (hpre : ∀ q ∈ pre, q.2.toNat % 8 < 5) (h : 5 ≤ p.2.toNat % 8) :
    targetsChk s st (pre ++ p :: post) = some (.stop (targetFault p.1 p.2.toNat)) := by
  rw [targetsChk, find?_append_first (fun q hq => by have := hpre q hq; simp [slotPc_eq]; omega) (by simpa [slotPc_eq] using h)]

/-- With every slot in its line the first unmarked one faults. -/
theorem targetsChk_unmarked (hslots : ∀ q ∈ pre ++ p :: post, q.2.toNat % 8 < 5) (hpre : ∀ q ∈ pre, isTarget s st q.2)
    (h : Unmarked s st p.2) : targetsChk s st (pre ++ p :: post) = some (.stop (targetFault p.1 p.2.toNat)) := by
  have hnone : (pre ++ p :: post).find? (fun p => decide (5 ≤ slotPc p.2)) = none :=
    List.find?_eq_none.2 (fun q hq => by have := hslots q hq; simp [slotPc_eq]; omega)
  rw [targetsChk, hnone]
  exact firstSome_append (fun q hq => targetChk_of_isTarget (hpre q hq) q.1) (targetChk_of_unmarked h p.1)

end

/-- A target that all active threads share is checked for the first of them. -/
theorem targetsChk_shared {ts : List Nat} (hne : ts ≠ []) (h : 5 ≤ pc.toNat % 8 ∨ Unmarked s st pc) :
    targetsChk s st (ts.map (fun t => (t, pc))) = some (.stop { cause := 7, addr := pc.toNat, lowt := ts.headD 0 }) := by
  obtain ⟨t, ts, rfl⟩ := List.exists_cons_of_ne_nil hne
  by_cases hslot : 5 ≤ pc.toNat % 8
  · exact targetsChk_slot (pre := []) (p := (t, pc)) (by simp) hslot
  · refine targetsChk_unmarked (pre := []) (p := (t, pc)) (fun q hq => ?_) (by simp) (h.resolve_left hslot)
    obtain ⟨u, -, rfl⟩ := List.mem_map.1 (show q ∈ (t :: ts).map (fun t => (t, pc)) from hq)
    exact Nat.not_le.1 hslot

/-! ## Targets in registers (07 R160) -/

theorem regTargetBad_iff (v : Dword) : regTargetBad v = false ↔ plainTarget v := by
  simp [regTargetBad, plainTarget]

theorem toNat_truncate_of_plain {v : Dword} (h : plainTarget v) : (v.truncate 56).toNat = v.toNat :=
  (BitVec.toNat_setWidth ..).trans (Nat.mod_eq_of_lt h.1)

/-- The targets that the registers name. -/
def regPcs (s : State) (y : Iss) (ts : List Nat) : List (Nat × Pc) := ts.map (fun t => (t, (regTarget s y t).truncate 56))

theorem regTargets_ok (h : ∀ t ∈ y.act, plainTarget (regTarget s y t)) : regTargets s y = .ok (regPcs s y y.act) := by
  have hnone : (y.act.map (fun t => (t, regTarget s y t))).find? (fun p => regTargetBad p.2) = none := by
    refine List.find?_eq_none.2 (fun p hp => ?_)
    obtain ⟨t, ht, rfl⟩ := List.mem_map.1 hp
    rw [(regTargetBad_iff _).2 (h t ht)]
    exact Bool.false_ne_true
  unfold regTargets
  dsimp only
  rw [show (y.act.map (fun t => (t, readOpd s y (srcAt y.sh .a) t))).find? (fun p => regTargetBad p.2) = none from hnone]
  simp only [List.map_map]
  rfl

theorem regTargets_bad {pre post : List Nat} {t : Nat} (hact : y.act = pre ++ t :: post) (hpre : ∀ u ∈ pre, plainTarget (regTarget s y u))
    (h : ¬ plainTarget (regTarget s y t)) : regTargets s y = .error { cause := 7, addr := (regTarget s y t).toNat, lowt := t } := by
  have hfirst : (y.act.map (fun t => (t, regTarget s y t))).find? (fun p => regTargetBad p.2) = some (t, regTarget s y t) := by
    rw [hact, List.map_append, List.map_cons]
    refine find?_append_first (fun p hp => ?_) ?_
    · obtain ⟨u, hu, rfl⟩ := List.mem_map.1 hp
      exact (regTargetBad_iff _).2 (hpre u hu)
    · rw [← Bool.not_eq_false, regTargetBad_iff]
      exact h
  unfold regTargets
  dsimp only
  rw [show (y.act.map (fun t => (t, readOpd s y (srcAt y.sh .a) t))).find? (fun p => regTargetBad p.2) = _ from hfirst]
  rfl

/-! ## The threads that perform -/

/-- Each active thread changed in its own way. -/
theorem modStrand_each_eq_onActive (hd : y.act.Nodup) (h : ∃ st, s.strand y.k = some st ∧ st.threads.length = 16)
    (g : Nat → Thread → Thread) : s.modStrand y.k (fun st => y.act.foldl (fun st t => st.modThread t (g t)) st) = onActive y g s := by
  obtain ⟨st, hst, hlen⟩ := h
  refine State.modStrand_congr (fun st' hst' => ?_)
  cases hst.symm.trans hst'
  exact foldl_modThread_each g hd hlen

theorem setPcs_eq (hd : y.act.Nodup) (h : ∃ st, s.strand y.k = some st ∧ st.threads.length = 16) (f : Nat → Pc) :
    setPcs y.k (y.act.map (fun t => (t, f t))) s = onActive y (fun t th => { th with pc := f t }) s := by
  rw [← modStrand_each_eq_onActive hd h, setPcs]
  simp only [List.foldl_map]

theorem onActive_onActive (y : Iss) (f g : Nat → Thread → Thread) (s : State) :
    onActive y g (onActive y f s) = onActive y (fun t th => g t (f t th)) s := by
  rw [onActive, onActive, withThreads, withThreads, State.modStrand_modStrand]
  refine State.modStrand_congr (fun st _ => congrArg (fun l => { st with threads := l }) (List.map_congr_left (fun t ht => ?_)))
  have ht16 : t < 16 := List.mem_range.1 ht
  by_cases hact : t ∈ y.act <;> simp [Strand.thread, List.getD_eq_getElem?_getD, ht16, hact]

/-- A strand keeps a state for each of its threads. -/
theorem length_onActive (y : Iss) (f : Nat → Thread → Thread) (h : ∃ st, s.strand y.k = some st) :
    ∃ st, (onActive y f s).strand y.k = some st ∧ st.threads.length = 16 := by
  obtain ⟨st, hst⟩ := h
  exact ⟨_, State.strand_modStrand_of hst _, by simp⟩

/-- The pushes of a call (07 R161). -/
theorem pushAll_eq (hd : y.act.Nodup) (h : ∃ st, s.strand y.k = some st ∧ st.threads.length = 16) :
    pushAll y s = onActive y (fun _ th => pushed (nextPc y.pc) th) (spilling y s) := by
  obtain ⟨st, hst, hlen⟩ := h
  have hspilled : ∃ st, (spilling y s).strand y.k = some st ∧ st.threads.length = 16 := ⟨_, State.strand_modStrand_of hst _, hlen⟩
  rw [← modStrand_each_eq_onActive hd hspilled, spilling, State.modStrand_modStrand]
  rfl

theorem call_eq (hd : y.act.Nodup) (h : ∃ st, s.strand y.k = some st ∧ st.threads.length = 16) (f : Nat → Pc) :
    setPcs y.k (y.act.map (fun t => (t, f t))) (pushAll y s) =
      onActive y (fun t th => { pushed (nextPc y.pc) th with pc := f t }) (spilling y s) := by
  obtain ⟨st, hst, hlen⟩ := id h
  have hspilled : ∃ st, (spilling y s).strand y.k = some st := ⟨_, State.strand_modStrand_of hst _⟩
  rw [pushAll_eq hd h, setPcs_eq hd (length_onActive _ _ hspilled), onActive_onActive]

/-! ## The effects where they succeed -/

theorem branchTo_ok (h : Performs i s y s1) {f : Nat → Pc} (ht : ∀ t ∈ y.act, isTarget s1 y.st (f t)) :
    branchTo (y.act.map (fun t => (t, f t))) y s1 = .ok (onActive y (fun t th => { th with pc := f t }) s1) := by
  have hok : targetsChk s1 y.st (y.act.map (fun t => (t, f t))) = none := targetsChk_map_ok ht
  simp only [branchTo, hok]
  rw [setPcs_eq h.nodup_act.1 h.threads]

theorem callDepth_eq_none {bad : Thread → Bool} (h : ∀ t ∈ y.act, bad (y.st.thread t) = false) : callDepth y bad = none :=
  List.find?_eq_none.2 (fun t ht => by rw [h t ht]; exact Bool.false_ne_true)

theorem callDepth_first {bad : Thread → Bool} {pre post : List Nat} {t : Nat} (hact : y.act = pre ++ t :: post)
    (hpre : ∀ u ∈ pre, bad (y.st.thread u) = false) (h : bad (y.st.thread t) = true) : callDepth y bad = some t := by
  rw [callDepth, hact]
  exact find?_append_first hpre h

theorem callTo_ok (h : Performs i s y s1) {f : Nat → Pc} (ht : ∀ t ∈ y.act, isTarget s1 y.st (f t))
    (hd : ∀ t ∈ y.act, (y.st.thread t).depth < 64) : callTo (y.act.map (fun t => (t, f t))) y s1 =
      .ok (onActive y (fun t th => { pushed (nextPc y.pc) th with pc := f t }) (spilling y s1)) := by
  have hok : targetsChk s1 y.st (y.act.map (fun t => (t, f t))) = none := targetsChk_map_ok ht
  have hdepth : callDepth y (fun th => decide (64 ≤ th.depth)) = none := callDepth_eq_none (fun t hmem => by simpa using hd t hmem)
  simp only [callTo, hok, hdepth]
  rw [call_eq h.nodup_act.1 h.threads]

/-- The pops of a return, and whether a thread's entries have to be filled from the image (07 R161). -/
theorem popped_eq (h : Performs i s y s1) (hd : ∀ t ∈ y.act, (y.st.thread t).depth ≠ 0 ∧ (y.st.thread t).inLane ≠ 0) :
    s1.modStrand y.k (fun st =>
      let st := y.act.foldl (fun st t => st.modThread t Thread.pop) st
      { st with stackBusy := y.act.any (fun t => (st.thread t).needsFill) }) = onActive y (fun _ => Thread.pop) (filling y s1) := by
  obtain ⟨hnodup, h16⟩ := h.nodup_act
  rw [onActive, withThreads, filling, State.modStrand_modStrand]
  refine State.modStrand_congr (fun st hst => ?_)
  have hlen : st.threads.length = 16 := by
    obtain ⟨st', hst', hlen⟩ := h.threads
    cases hst.symm.trans hst'
    exact hlen
  dsimp only
  rw [foldl_modThread_each (fun _ => Thread.pop) hnodup hlen]
  have hbusy : y.act.any (fun t => (Strand.thread { st with
      threads := (List.range 16).map (fun t => if y.act.contains t then Thread.pop (st.thread t) else st.thread t) } t).needsFill) =
      y.act.any (fun t => (y.st.thread t).inLane == 1 && decide (1 < (y.st.thread t).depth)) := by
    rw [Bool.eq_iff_iff, List.any_eq_true, List.any_eq_true]
    refine exists_congr (fun t => and_congr_right (fun ht => ?_))
    have hthread : st.thread t = { y.st.thread t with pc := (st.thread t).pc } := by
      cases hst.symm.trans h.strand_next
      by_cases hx : t ∈ y.exm <;> simp [Strand.thread, List.getD_eq_getElem?_getD, h16 t ht, hx]
    obtain ⟨hdepth, hlane⟩ := hd t ht
    have hpop : Strand.thread { st with threads := (List.range 16).map (fun t => if y.act.contains t then Thread.pop (st.thread t) else st.thread t) } t =
        Thread.pop (st.thread t) := by
      simp [Strand.thread, List.getD_eq_getElem?_getD, h16 t ht, ht]
    rw [hpop, hthread]
    simp only [Thread.needsFill, Thread.pop, Bool.and_eq_true, beq_iff_eq, bne_iff_ne, decide_eq_true_eq]
    omega
  rw [hbusy]
  rfl

theorem effRet_ok (h : Performs i s y s1)
    (hd : ∀ t ∈ y.act, (y.st.thread t).depth ≠ 0 ∧ (y.st.thread t).inLane ≠ 0 ∧ (y.st.thread t).topPc.toNat % 8 < 5) :
    effRet y s1 = .ok (onActive y (fun t th => { th with depth := th.depth - 1, inLane := th.inLane - 1, pc := (y.st.thread t).topPc })
      (filling y s1)) := by
  have hdepth : callDepth y (fun th => th.depth == 0) = none := callDepth_eq_none (fun t ht => by simpa using (hd t ht).1)
  have hfill : ¬ y.act.any (fun t => (y.st.thread t).needsFill) = true := by
    simp only [List.any_eq_true, not_exists, not_and]
    intro t ht
    simp [Thread.needsFill, (hd t ht).2.1]
  have hslots : (y.act.map (fun t => (t, (y.st.thread t).topPc))).find? (fun p => decide (5 ≤ slotPc p.2)) = none := by
    refine List.find?_eq_none.2 (fun p hp => ?_)
    obtain ⟨t, ht, rfl⟩ := List.mem_map.1 hp
    have := (hd t ht).2.2
    simp only [slotPc_eq, decide_eq_true_eq]
    omega
  have hfilling : ∃ st, (filling y s1).strand y.k = some st := by
    obtain ⟨st, hst, -⟩ := h.threads
    exact ⟨_, State.strand_modStrand_of hst _⟩
  simp only [effRet, hdepth, if_neg hfill, hslots]
  rw [popped_eq h (fun t ht => ⟨(hd t ht).1, (hd t ht).2.1⟩), setPcs_eq h.nodup_act.1 (length_onActive _ _ hfilling), onActive_onActive]
  rfl

/-- BPEND branches where what it tests is not as its sense says (02 R52). -/
theorem effBpend_ok (h : Performs i s y s1) (off : BitVec 30) (slot : BitVec 3) (test : Opd) (sense : Bool) (fmask : BitVec 12)
    (ht : isTarget s1 y.st (target y.pc off slot)) : effBpend off slot test sense fmask y s1 = .ok (if bpendTest y test fmask = sense then s1
      else onActive y (fun _ th => { th with pc := target y.pc off slot }) s1) := by
  obtain ⟨hnodup, -⟩ := h.nodup_act
  have hok : targetsChk s1 y.st (y.act.map (fun t => (t, target y.pc off slot))) = none := targetsChk_map_ok (fun _ _ => ht)
  simp only [effBpend, branchTarget_eq, hok]
  rw [setPcs_eq hnodup h.threads (fun _ => target y.pc off slot)]
  by_cases hs : bpendTest y test fmask = sense <;> simp [hs]

/-! ## The effects where they fault -/

section
variable {pre post : List Nat} {t : Nat}

theorem branchTo_stop {ts : List (Nat × Pc)} {f : Flt} (h : targetsChk s1 y.st ts = some (.stop f)) : branchTo ts y s1 = .stop f := by
  simp only [branchTo, h]

theorem callTo_stop {ts : List (Nat × Pc)} {f : Flt} (h : targetsChk s1 y.st ts = some (.stop f)) : callTo ts y s1 = .stop f := by
  simp only [callTo, h]

theorem callTo_deep {f : Nat → Pc} (ht : ∀ t ∈ y.act, isTarget s1 y.st (f t)) (hact : y.act = pre ++ t :: post)
    (hpre : ∀ u ∈ pre, (y.st.thread u).depth < 64) (hd : 64 ≤ (y.st.thread t).depth) :
    callTo (y.act.map (fun t => (t, f t))) y s1 = .stop { cause := 9, lowt := t } := by
  have hok : targetsChk s1 y.st (y.act.map (fun t => (t, f t))) = none := targetsChk_map_ok ht
  have hdeep : callDepth y (fun th => decide (64 ≤ th.depth)) = some t :=
    callDepth_first hact (fun u hu => by simpa using hpre u hu) (by simpa using hd)
  simp only [callTo, hok, hdeep]

theorem effRet_empty (hact : y.act = pre ++ t :: post) (hpre : ∀ u ∈ pre, (y.st.thread u).depth ≠ 0) (hd : (y.st.thread t).depth = 0) :
    effRet y s1 = .stop { cause := 9, lowt := t } := by
  have hempty : callDepth y (fun th => th.depth == 0) = some t :=
    callDepth_first hact (fun u hu => by simpa using hpre u hu) (by simpa using hd)
  simp only [effRet, hempty]

theorem effRet_slot (hd : ∀ u ∈ y.act, (y.st.thread u).depth ≠ 0 ∧ (y.st.thread u).inLane ≠ 0) (hact : y.act = pre ++ t :: post)
    (hpre : ∀ u ∈ pre, (y.st.thread u).topPc.toNat % 8 < 5) (ht : 5 ≤ (y.st.thread t).topPc.toNat % 8) :
    effRet y s1 = .stop { cause := 7, addr := (y.st.thread t).topPc.toNat, lowt := t } := by
  have hdepth : callDepth y (fun th => th.depth == 0) = none := callDepth_eq_none (fun t ht => by simpa using (hd t ht).1)
  have hfill : ¬ y.act.any (fun t => (y.st.thread t).needsFill) = true := by
    simp only [List.any_eq_true, not_exists, not_and]
    intro t ht
    simp [Thread.needsFill, (hd t ht).2]
  have hfirst : (y.act.map (fun t => (t, (y.st.thread t).topPc))).find? (fun p => decide (5 ≤ slotPc p.2)) =
      some (t, (y.st.thread t).topPc) := by
    rw [hact, List.map_append, List.map_cons]
    refine find?_append_first (fun p hp => ?_) (by simpa [slotPc_eq] using ht)
    obtain ⟨u, hu, rfl⟩ := List.mem_map.1 hp
    have := hpre u hu
    simp only [slotPc_eq, decide_eq_false_iff_not]
    omega
  simp only [effRet, hdepth, if_neg hfill, hfirst]
  rfl

/-- The targets that registers name are checked in the order of the threads. -/
theorem targetsChk_reg_slot (hall : ∀ u ∈ y.act, plainTarget (regTarget s1 y u)) (hact : y.act = pre ++ t :: post)
    (hpre : ∀ u ∈ pre, (regTarget s1 y u).toNat % 8 < 5) (ht : 5 ≤ (regTarget s1 y t).toNat % 8) :
    targetsChk s1 y.st (regPcs s1 y y.act) = some (.stop { cause := 7, addr := (regTarget s1 y t).toNat, lowt := t }) := by
  have hpc : ∀ u ∈ y.act, ((regTarget s1 y u).truncate 56).toNat = (regTarget s1 y u).toNat := fun u hu => toNat_truncate_of_plain (hall u hu)
  have hmem : t ∈ y.act := by rw [hact]; exact List.mem_append_right _ List.mem_cons_self
  rw [← hpc t hmem] at ht ⊢
  rw [regPcs, hact, List.map_append, List.map_cons]
  refine targetsChk_slot (p := (t, (regTarget s1 y t).truncate 56)) (fun q hq => ?_) ht
  obtain ⟨u, hu, rfl⟩ := List.mem_map.1 hq
  show ((regTarget s1 y u).truncate 56).toNat % 8 < 5
  rw [hpc u (by rw [hact]; exact List.mem_append_left _ hu)]
  exact hpre u hu

theorem targetsChk_reg_unmarked (hall : ∀ u ∈ y.act, plainTarget (regTarget s1 y u) ∧ (regTarget s1 y u).toNat % 8 < 5)
    (hact : y.act = pre ++ t :: post) (hpre : ∀ u ∈ pre, isTarget s1 y.st ((regTarget s1 y u).truncate 56))
    (ht : Unmarked s1 y.st ((regTarget s1 y t).truncate 56)) :
    targetsChk s1 y.st (regPcs s1 y y.act) = some (.stop { cause := 7, addr := (regTarget s1 y t).toNat, lowt := t }) := by
  have hpc : ∀ u ∈ y.act, ((regTarget s1 y u).truncate 56).toNat = (regTarget s1 y u).toNat :=
    fun u hu => toNat_truncate_of_plain (hall u hu).1
  have hmem : t ∈ y.act := by rw [hact]; exact List.mem_append_right _ List.mem_cons_self
  have hslots : ∀ q ∈ regPcs s1 y y.act, q.2.toNat % 8 < 5 := by
    intro q hq
    obtain ⟨u, hu, rfl⟩ := List.mem_map.1 hq
    show ((regTarget s1 y u).truncate 56).toNat % 8 < 5
    rw [hpc u hu]
    exact (hall u hu).2
  rw [← hpc t hmem]
  rw [regPcs, hact, List.map_append, List.map_cons] at hslots ⊢
  refine targetsChk_unmarked (p := (t, (regTarget s1 y t).truncate 56)) hslots (fun q hq => ?_) ht
  obtain ⟨u, hu, rfl⟩ := List.mem_map.1 hq
  exact hpre u hu

end

/-! ## The statements -/

theorem branches : Claims.branches := by
  intro h a test off slot sense fmask s s1 y there goTo callTo reg regsOk shallow tested
  refine ⟨fun hp => ?_, fun hp ht => ?_, fun hp hr => ?_, fun hp ht hd => ?_, fun hp hr hd => ?_, fun hp hd => ?_, fun hp ht => ?_⟩
  · exact completes_of_ok (eff := effNop) rfl hp rfl
  · refine completes_of_ok (eff := effBra off slot) rfl hp ?_
    rw [effBra, branchTarget_eq]
    exact branchTo_ok hp (f := fun _ => there) (fun _ _ => ht)
  · refine completes_of_ok (eff := effBrx) rfl hp ?_
    simp only [effBrx, regTargets_ok (fun t ht => (hr t ht).1)]
    exact branchTo_ok hp (fun t ht => (hr t ht).2)
  · refine completes_of_ok (eff := effCall off slot) rfl hp ?_
    rw [effCall, branchTarget_eq]
    exact callTo_ok hp (f := fun _ => there) (fun _ _ => ht) hd
  · refine completes_of_ok (eff := effCallx) rfl hp ?_
    simp only [effCallx, regTargets_ok (fun t ht => (hr t ht).1)]
    exact callTo_ok hp (fun t ht => (hr t ht).2) hd
  · exact completes_of_ok (eff := effRet) rfl hp (effRet_ok hp hd)
  · refine completes_of_ok (eff := effBpend off slot test sense fmask) rfl hp ?_
    have htest : bpendTest y test fmask = tested := by
      refine congrArg (· || _) ?_
      cases test <;> simp [Use.locs]
    rw [effBpend_ok hp off slot test sense fmask ht, htest]

theorem branchFaults : Claims.branchFaults := by
  intro h a test off slot sense fmask s s1 y there faults unmarked
  refine ⟨fun i hi hp hbad => ?_, fun i hi hp pre t post hact => ?_, fun hp ht pre t post hact hpre hd => ?_,
    fun hp pre t post hact => ⟨fun hpre hd => ?_, fun hd hpre ht => ?_⟩⟩
  · obtain ⟨-, -, -, -, -, -, -, -, -, -, hne⟩ := performs_inv hp
    have hchk : targetsChk s1 y.st (y.act.map (fun t => (t, branchTarget y.pc off slot))) =
        some (.stop { cause := 7, addr := there.toNat, lowt := y.lead }) := by
      rw [branchTarget_eq]
      exact targetsChk_shared hne hbad
    simp only [List.mem_cons, List.not_mem_nil, or_false] at hi
    rcases hi with rfl | rfl | rfl
    · exact stops_of_stop (eff := effBra off slot) rfl hp (branchTo_stop hchk)
    · exact stops_of_stop (eff := effCall off slot) rfl hp (callTo_stop hchk)
    · exact stops_of_stop (eff := effBpend off slot test sense fmask) rfl hp (by simp only [effBpend, hchk])
  · intro v hpre
    have hbrx : ∀ f, effBrx y s1 = .stop f → effCallx y s1 = .stop f → faults i f := by
      intro f hb hc
      simp only [List.mem_cons, List.not_mem_nil, or_false] at hi
      rcases hi with rfl | rfl
      · exact stops_of_stop (eff := effBrx) rfl hp hb
      · exact stops_of_stop (eff := effCallx) rfl hp hc
    refine ⟨fun hbad => ?_, fun hall hslots ht => ?_, fun hall htargets ht => ?_⟩
    · have hreg := regTargets_bad hact hpre hbad
      exact hbrx _ (by simp only [effBrx, hreg]; rfl) (by simp only [effCallx, hreg]; rfl)
    · have hchk := targetsChk_reg_slot hall hact hslots ht
      exact hbrx _ (by simp only [effBrx, regTargets_ok hall]; exact branchTo_stop hchk)
        (by simp only [effCallx, regTargets_ok hall]; exact callTo_stop hchk)
    · have hchk := targetsChk_reg_unmarked hall hact htargets ht
      have hplain := fun u hu => (hall u hu).1
      exact hbrx _ (by simp only [effBrx, regTargets_ok hplain]; exact branchTo_stop hchk)
        (by simp only [effCallx, regTargets_ok hplain]; exact callTo_stop hchk)
  · refine stops_of_stop (eff := effCall off slot) rfl hp ?_
    rw [effCall, branchTarget_eq]
    exact callTo_deep (f := fun _ => there) (fun _ _ => ht) hact hpre hd
  · exact stops_of_stop (eff := effRet) rfl hp (effRet_empty hact hpre hd)
  · exact stops_of_stop (eff := effRet) rfl hp (effRet_slot hd hact hpre ht)

end Sys2Proof.Proofs.Branches

namespace Sys2Proof.Proofs

/-- Settles O8: where every target is one (`targetsChk_ok`) the effect moves each active thread in its own way (`modStrand_each_eq_onActive`),
and otherwise the first thread whose check fails is that of the fault. -/
theorem branching : Obligations.Branching := ⟨Branches.branches, Branches.branchFaults⟩

end Sys2Proof.Proofs
end

section
/-! SUPPORT. The opcode of a slot is that which the encoding tables give the instruction it decodes to (04 R89, R94). -/

namespace Sys2Proof.Proofs.Opcodes

open Sys2Proof.Decode

/-- The opcode of an instruction (04 R94). -/
def opcodeOf (i : Instr) : Option Nat := (encodeView i).map (fun v => v.1.toNat)

/-- What is decoded, if anything, has the opcode. -/
def Names (op : Nat) (r : Except Reject Instr) : Prop := ∀ i, r = .ok i → opcodeOf i = some op

theorem names_error {op : Nat} {e : Reject} : Names op (.error e) := fun _ h => nomatch h

theorem names_return {op : Nat} {i : Instr} (h : opcodeOf i = some op) : Names op (pure i) := by
  intro j hj
  cases hj
  exact h

theorem names_bind {op : Nat} {α : Type} {r : Except Reject α} {f : α → Except Reject Instr} (h : ∀ a, Names op (f a)) : Names op (r >>= f) := by
  intro i hi
  cases r with
  | error e => exact nomatch hi
  | ok a => exact h a i hi

theorem names_return_of_checks {op : Nat} {α β : Type} {r : Except Reject α} {q : α → Except Reject β} {f : α → β → Instr}
    (h : ∀ a b, opcodeOf (f a b) = some op) : Names op (r >>= fun a => q a >>= fun b => pure (f a b)) :=
  names_bind fun a => names_bind fun b => names_return (h a b)

variable (op : Nat) (h : Hdr)

/-! ## The groups of each body format -/

theorem names_decodeA0 (v : ViewA) : Names op (decodeA0 op h v) := by
  unfold decodeA0
  split <;> solve_by_elim [names_error, names_bind, names_return]

theorem names_decodeA1 (v : ViewA) : Names op (decodeA1 op h v) := by
  unfold decodeA1
  split <;> solve_by_elim [names_error, names_bind, names_return]

theorem names_decodeA2 (v : ViewA) : Names op (decodeA2 op h v) := by
  unfold decodeA2
  split <;> solve_by_elim [names_error, names_bind, names_return]

theorem names_decodeA3 (v : ViewA) : Names op (decodeA3 op h v) := by
  unfold decodeA3
  split <;> solve_by_elim [names_error, names_bind, names_return]

theorem names_decodeA4 (v : ViewA) : Names op (decodeA4 op h v) := by
  unfold decodeA4
  split <;> solve_by_elim [names_error, names_bind, names_return]

theorem names_decodeA5 (v : ViewA) : Names op (decodeA5 op h v) := by
  unfold decodeA5
  split <;> solve_by_elim [names_error, names_bind, names_return, names_return_of_checks]

theorem names_decodeA6 (v : ViewA) : Names op (decodeA6 op h v) := by
  unfold decodeA6
  split <;> solve_by_elim [names_error, names_bind, names_return]

theorem names_decodeA8 (v : ViewA) : Names op (decodeA8 op h v) := by
  unfold decodeA8
  split <;> solve_by_elim [names_error, names_bind, names_return]

theorem names_decodeA9 (v : ViewA) : Names op (decodeA9 op h v) := by
  unfold decodeA9
  split <;> solve_by_elim [names_error, names_bind, names_return]

theorem names_decodeAA (v : ViewA) : Names op (decodeAA op h v) := by
  unfold decodeAA
  split <;> solve_by_elim [names_error, names_bind, names_return]

theorem names_decodeAD (v : ViewA) : Names op (decodeAD op h v) := by
  unfold decodeAD
  split <;> solve_by_elim [names_error, names_bind, names_return]

theorem names_decodeAE (v : ViewA) : Names op (decodeAE op h v) := by
  unfold decodeAE
  split <;> solve_by_elim [names_error, names_bind, names_return]

theorem names_decodeI (v : ViewI) : Names op (decodeI op h v) := by
  unfold decodeI
  split <;> solve_by_elim [names_error, names_bind, names_return]

theorem names_decodeM (v : ViewM) : Names op (decodeM op h v) := by
  unfold decodeM
  split <;> solve_by_elim [names_error, names_bind, names_return]

theorem names_decodeB (v : ViewB) : Names op (decodeB op h v) := by
  unfold decodeB
  split <;> solve_by_elim [names_error, names_bind, names_return, names_return_of_checks]

theorem names_decodeT (v : ViewT) : Names op (decodeT op h v) := by
  unfold decodeT
  split <;> solve_by_elim [names_error, names_bind, names_return]

theorem names_decodeA (v : ViewA) : Names op (decodeA op h v) := by
  unfold decodeA
  split
  · exact names_decodeA0 op h v
  · exact names_decodeA1 op h v
  · exact names_decodeA2 op h v
  · exact names_decodeA3 op h v
  · exact names_decodeA4 op h v
  · exact names_decodeA5 op h v
  · exact names_decodeA6 op h v
  · exact names_decodeA8 op h v
  · exact names_decodeA9 op h v
  · exact names_decodeAA op h v
  · exact names_decodeAD op h v
  · exact names_decodeAE op h v
  · exact names_error

/-! ## A slot -/

theorem names_parse (x : BitVec 62) : Names op (parse op h x) := by
  unfold parse
  split
  · exact names_error
  · exact names_bind (names_decodeA op h)
  · exact names_bind (names_decodeI op h)
  · exact names_bind (names_decodeM op h)
  · exact names_decodeB op h _
  · exact names_bind (names_decodeT op h)

/-- An instruction is given as it was parsed, if it is well formed. -/
theorem names_checked {r : Except Reject Instr} (hr : Names op r) :
    Names op (r >>= fun i => if i.wf = true then pure i else throw .notAccepted) := by
  intro i hi
  cases r with
  | error e => exact nomatch hi
  | ok j =>
    change (if j.wf = true then pure j else throw Reject.notAccepted) = Except.ok i at hi
    split at hi
    · cases hi
      exact hr _ rfl
    · exact nomatch hi

theorem opcode_of_decode {w : Slot} {i : Instr} (hw : decode w = .ok i) : opcodeOf i = some (opcode w) := by
  suffices hn : Names (opcode w) (decode w) from hn i hw
  unfold decode
  dsimp only
  split
  · exact names_error
  · exact names_bind fun hd => names_checked _ (names_parse _ hd _)

end Sys2Proof.Proofs.Opcodes
end

section
/-! SUPPORT. Integer arithmetic and requantisation (05 R111 to R116). -/

namespace Sys2Proof.Safety

open Sys2Proof.Machine

/-- A register instruction whose result is another expression of the same value. -/
theorem each_of_eq {i : Instr} {eff : Effect} {f : Iss → Rd → Wv} (g : Iss → Rd → Wv) (he : effOf i = some eff)
    (hf : ∀ y, eff y = regEff (g y) y) (hg : ∀ y r, g y r = f y r) : Each i f :=
  each_of g he hf (fun _ y s1 t _ => hg y (readThread s1 y t))

/-- The same of a function of three words. -/
theorem each_of_words {i : Instr} {v : Word → Word → Word → Word} {f : Iss → Rd → Wv} (he : effOf i = some (eff3 v))
    (hg : ∀ y r, w32 (v r.aw r.bw r.cw) = f y r) : Each i f :=
  each_of_eq (fun _ r => w32 (v r.aw r.bw r.cw)) he (fun _ => rfl) hg

end Sys2Proof.Safety

namespace Sys2Proof.Proofs.Integers

open Sys2Proof.Machine Sys2Proof.Claims Sys2Proof.Safety

/-! ## Operands and results under a type -/

theorem w32_eq_one (v : Word) : w32 v = one v := rfl

variable {ty : Ty}

theorem intOf_eq_num (h : word ty) (a : Word) : intOf (Ty.signed ty) a = num ty a := by
  rcases h with rfl | rfl <;> rfl

theorem clampInt_eq {lo hi : Int} (h : lo ≤ hi) (v : Int) : clampInt lo hi v = max lo (min hi v) := by
  unfold clampInt
  split
  · omega
  · split <;> omega

theorem wrapOrClamp_eq_fit (h : word ty) (sat : Bool) (v : Int) : wrapOrClamp (Ty.signed ty) sat v = fit ty sat v := by
  rcases h with rfl | rfl <;> cases sat <;>
    simp [wrapOrClamp, fit, bitsOf, Ty.signed, rangeLo, rangeHi, clampInt_eq]

/-- A word is what its own value wraps to. -/
theorem fit_num (h : word ty) (a : Word) : fit ty false (num ty a) = a := by
  rcases h with rfl | rfl <;> simp [fit, num]

theorem iminVal_eq (h : word ty) (a b : Word) : iminVal ty a b = fit ty false (min (num ty a) (num ty b)) := by
  unfold iminVal
  rw [intOf_eq_num h, intOf_eq_num h]
  split
  · rw [min_eq_right (by omega), fit_num h]
  · rw [min_eq_left (by omega), fit_num h]

theorem imaxVal_eq (h : word ty) (a b : Word) : imaxVal ty a b = fit ty false (max (num ty a) (num ty b)) := by
  unfold imaxVal
  rw [intOf_eq_num h, intOf_eq_num h]
  split
  · rw [max_eq_right (by omega), fit_num h]
  · rw [max_eq_left (by omega), fit_num h]

theorem iabsVal_eq (sat : Bool) (a : Word) : iabsVal sat a = fit .i32 sat (num .i32 a).natAbs :=
  wrapOrClamp_eq_fit (.inl rfl) sat _

theorem inegVal_eq (sat : Bool) (a : Word) : inegVal sat a = fit .i32 sat (-num .i32 a) :=
  wrapOrClamp_eq_fit (.inl rfl) sat _

/-! ## Wide products, carries and borrows (05 R112, R113) -/

/-- The high word of a product is its quotient by 2^32. -/
theorem extractLsb'_ofInt_high (v : Int) : (BitVec.ofInt 64 v).extractLsb' 32 32 = BitVec.ofInt 32 (v / 2 ^ 32) := by
  apply BitVec.eq_of_toNat_eq
  simp only [BitVec.extractLsb'_toNat, BitVec.toNat_ofInt, Nat.shiftRight_eq_div_pow]
  omega

theorem imulhVal_eq (h : word ty) (a b : Word) : imulhVal ty a b = BitVec.ofInt 32 (num ty a * num ty b / 2 ^ 32) := by
  rw [imulhVal, intOf_eq_num h, intOf_eq_num h]
  exact extractLsb'_ofInt_high _

theorem imadwVal_eq (h : word ty) (a b : Word) (c : Dword) :
    imadwVal ty a b c = BitVec.ofInt 64 (num ty a * num ty b + c.toNat) := by
  rw [imadwVal, intOf_eq_num h, intOf_eq_num h, bitsOf, BitVec.ofInt_add]
  simp

theorem carryOut_eq (a b : Word) (c : Bool) : carryOut a b c = decide (2 ^ 32 ≤ a.toNat + b.toNat + c.toNat) := by
  rw [carryOut, decide_eq_decide]

theorem borrowOut_eq (a b : Word) (c : Bool) : borrowOut a b c = decide ((a.toNat : Int) - b.toNat - c.toNat < 0) := by
  rw [borrowOut, decide_eq_decide]
  omega

/-! ## Byte elements (05 R115) -/

theorem byteElem_eq_elem (signed : Bool) (a : Word) (i : Nat) : byteElem signed a i = elem signed a i := rfl

theorem signed_byte (signed : Bool) : Ty.signed (if signed then .i8 else .n8) = signed := by cases signed <;> rfl

theorem isadVal_word (h : word ty) (a b c : Word) :
    isadVal ty a b c = BitVec.ofInt 32 (c.toNat + (num ty a - num ty b).natAbs) := by
  have hw : Ty.width ty ≠ 8 := by rcases h with rfl | rfl <;> decide
  simp only [isadVal, intOf_eq_num h, if_neg hw]
  rfl

theorem isadVal_bytes (signed : Bool) (a b c : Word) : isadVal (if signed then .i8 else .n8) a b c =
    BitVec.ofInt 32 (c.toNat + sum4 (fun i => (elem signed a i - elem signed b i).natAbs)) := by
  have hw : Ty.width (if signed then .i8 else .n8) = 8 := by cases signed <;> rfl
  simp only [isadVal, if_pos hw, signed_byte, byteElem_eq_elem, bitsOf, sum4, Nat.cast_add]

theorem idot4Val_eq (signed mix sat : Bool) (a b c : Word) :
    let cty : Ty := if signed || mix then .i32 else .n32
    idot4Val (if signed then .i8 else .n8) mix sat a b c =
      fit cty sat (num cty c + sum4 (fun i => elem signed a i * elem (signed != mix) b i)) := by
  intro cty
  have hc : word cty := by cases signed <;> cases mix <;> simp [cty, word]
  have hs : (!((if signed then Ty.i8 else .n8) == .n8 && !mix)) = Ty.signed cty := by cases signed <;> cases mix <;> rfl
  simp only [idot4Val, signed_byte, byteElem_eq_elem, hs, intOf_eq_num hc, wrapOrClamp_eq_fit hc, sum4]

/-! ## Requantisation (05 R116) -/

theorem ireqArg_eq (wide an : Bool) (v : Dword) : ireqArg wide an v = wideNum wide an v := by
  cases wide <;> cases an <;> rfl

/-- The quotient narrowed to the element type: clamped to its range under SAT. -/
theorem ireqVal_eq (ty : Ty) (m : RMode) (sat : Bool) (x : Int) (b : Word) :
    let q := roundShift m x b.toNat
    let v (lo hi : Int) : Int := if sat then max lo (min hi q) else q
    one (ireqVal ty m sat x b) = match ty with
      | .i8 => one ((BitVec.ofInt 8 (v (-128) 127)).signExtend 32)
      | .i16 => one ((BitVec.ofInt 16 (v (-32768) 32767)).signExtend 32)
      | .n8 => one ((BitVec.ofInt 8 (v 0 255)).zeroExtend 32)
      | .n16 => one ((BitVec.ofInt 16 (v 0 65535)).zeroExtend 32)
      | .n32 => one (fit .n32 sat q)
      | .i32 => one (fit .i32 sat q)
      | _ => one (ireqVal ty m sat x b) := by
  intro q v
  have hq : roundShift m x b.toNat = q := rfl
  cases ty <;> cases sat <;>
    simp [ireqVal, fit, hq, v, bitsOf, Ty.signed, Ty.width, rangeLo, rangeHi, clampInt_eq]

end Sys2Proof.Proofs.Integers

namespace Sys2Proof.Proofs

open Sys2Proof.Machine Sys2Proof.Claims Sys2Proof.Safety Integers Opcodes

theorem integerTable : Claims.integerTable := by
  intro h d a b c ty sat ht
  have op {w : Slot} {i : Instr} {n : Nat} (hi : opcodeOf i = some n) (hw : decode w = .ok i) : Decode.opcode w = n :=
    Option.some.inj ((opcode_of_decode hw).symm.trans hi)
  refine ⟨each_of_eq _ rfl (fun _ => rfl) fun y r => ?_, each_of_eq _ rfl (fun _ => rfl) fun y r => ?_,
    each_of_eq _ rfl (fun _ => rfl) fun y r => ?_, each_of_words rfl fun y r => ?_,
    each_of_eq _ rfl (fun _ => rfl) fun y r => ?_, each_of_eq _ rfl (fun _ => rfl) fun y r => ?_,
    each_of_eq _ rfl (fun _ => rfl) fun y r => ?_, each_of_eq _ rfl (fun _ => rfl) fun y r => ?_,
    fun w => ⟨op rfl, op rfl, op rfl, op rfl, op rfl, op rfl, op rfl, op rfl⟩⟩
  · simp only [w32_eq_one, iaddVal, intOf_eq_num ht, wrapOrClamp_eq_fit ht]
  · simp only [w32_eq_one, isubVal, intOf_eq_num ht, wrapOrClamp_eq_fit ht]
  · simp only [w32_eq_one, imulVal, intOf_eq_num ht, wrapOrClamp_eq_fit ht]
  · simp only [w32_eq_one, imadVal, intOf_eq_num ht, wrapOrClamp_eq_fit ht]
  · simp only [w32_eq_one, iminVal_eq ht]
  · simp only [w32_eq_one, imaxVal_eq ht]
  · simp only [w32_eq_one, iabsVal_eq]
  · simp only [w32_eq_one, inegVal_eq]

theorem integerWide : Claims.integerWide := by
  intro h d a b c ty rm sat mix ci bx wide an cip cop
  refine ⟨fun ht => ⟨each_of_eq _ rfl (fun _ => rfl) fun y r => ?_, each_of_eq _ rfl (fun _ => rfl) fun y r => ?_,
      each_of_words rfl fun y r => ?_⟩,
    each_of_eq _ rfl (fun _ => rfl) fun y r => ?_, each_of_eq _ rfl (fun _ => rfl) fun y r => ?_, each_of_eff rfl fun _ _ => rfl,
    fun signed => ⟨each_of_words rfl fun y r => ?_, each_of_words rfl fun y r => ?_⟩,
    each_of_eq _ rfl (fun _ => rfl) fun y r => ?_⟩
  · rw [w32_eq_one, imulhVal_eq ht]
  · rw [imadwVal_eq ht]
  · rw [w32_eq_one, isadVal_word ht]
  · simp only [iaddcVal, carryOut_eq, carryIn]
  · simp only [isubbVal, borrowOut_eq, carryIn, bitsOf]
  · rw [w32_eq_one, isadVal_bytes]
  · rw [w32_eq_one, idot4Val_eq]
  · rw [w32_eq_one, ireqArg_eq]
    exact ireqVal_eq ..

/-- Settles O1: what each instruction computes is the value that the statement gives (`wrapOrClamp_eq_fit` for the narrowing), and a slot
has the opcode of the encoding tables (`opcode_of_decode`). -/
theorem integerArithmetic : Obligations.IntegerArithmetic := ⟨integerTable, integerWide⟩

end Sys2Proof.Proofs
end

section
/-! SUPPORT. Logic, bit fields and counts of bits, read bit by bit (05 R121 to R125). -/

namespace Sys2Proof.Proofs.Bits

open Sys2Proof.Machine Sys2Proof.Claims

/-! ## LOP3 -/

theorem getElem_ite_or (p : Bool) (x y : Word) (i : Nat) (hi : i < 32) : (if p then x ||| y else x)[i] = (x[i] || (p && y[i])) := by
  cases p <;> simp

/-- The bits of a source or of its complement. -/
theorem getElem_ite_not (p : Prop) [Decidable p] (x : Word) (i : Nat) (hi : i < 32) : (if p then x else ~~~x)[i] = (x[i] == decide p) := by
  by_cases h : p <;> simp [h]

/-- One of the eight minterms of three bits holds. -/
theorem minterm_eq (fn : BitVec 8) (x y z : Bool) : minterm fn x y z =
    (List.range 8).any (fun m => fn.getLsbD m && (x == decide (m % 2 = 1) && y == decide (m / 2 % 2 = 1) && z == decide (m / 4 = 1))) := by
  have hr : List.range 8 = [0, 1, 2, 3, 4, 5, 6, 7] := by decide
  cases x <;> cases y <;> cases z <;> simp [minterm, hr]

/-- A bit of a union. -/
theorem getElem_foldl_or (p : Nat → Bool) (f : Nat → Word) (ms : List Nat) (acc : Word) (i : Nat) (hi : i < 32) :
    (ms.foldl (fun acc m => if p m then acc ||| f m else acc) acc)[i] = (acc[i] || ms.any (fun m => p m && (f m)[i])) := by
  induction ms generalizing acc with
  | nil => simp
  | cons m ms ih => rw [List.foldl_cons, ih, getElem_ite_or, List.any_cons, Bool.or_assoc]

theorem lop3Val_eq_union3 (fn : BitVec 8) (a b c : Word) : lop3Val fn a b c = union3 fn a b c := by
  ext i hi
  rw [lop3Val, union3, getElem_foldl_or, BitVec.getElem_ofFnLE, minterm_eq]
  simp only [BitVec.getLsbD_eq_getElem hi, BitVec.getElem_and, getElem_ite_not, BitVec.getElem_zero, Bool.false_or]

/-! ## Shifts (05 R122) -/

theorem sarVal_eq (a : Word) (n : Nat) : sarVal a n = BitVec.ofInt 32 (a.toInt / 2 ^ n) := by
  have hlo := BitVec.le_toInt a
  have hhi := BitVec.toInt_lt (x := a)
  have hquot : a.toInt / 2 ^ (min n 31) = a.toInt / 2 ^ n := by
    rcases Nat.le_total n 31 with h | h
    · rw [min_eq_left h]
    · rw [min_eq_right h]
      have hpow : (2 : Int) ^ 31 ≤ 2 ^ n := pow_le_pow_right₀ (by norm_num) h
      rcases lt_or_ge a.toInt 0 with hneg | hpos
      · rw [Int.ediv_eq_neg_one_of_neg_of_le hneg (by omega), Int.ediv_eq_neg_one_of_neg_of_le hneg (by omega)]
      · rw [Int.ediv_eq_zero_of_lt hpos (by omega), Int.ediv_eq_zero_of_lt hpos (by omega)]
  rw [← hquot, ← BitVec.ofInt_toInt (x := sarVal a n), sarVal, BitVec.toInt_sshiftRight, Int.shiftRight_eq_div_pow]
  norm_cast

theorem rolVal_eq (a : Word) (n : Nat) : rolVal a n = (a <<< (n % 32)) ||| (a >>> (32 - n % 32)) := by
  rw [rolVal, BitVec.rotateLeft_def, Nat.mod_mod]

theorem fshlVal_eq (a b : Word) (n : Nat) : fshlVal a b n = ((a ++ b) <<< min n 32).extractLsb' 32 32 := by
  have happ : (a ++ b).toNat = a.toNat * 2 ^ 32 + b.toNat := by
    rw [BitVec.toNat_append, ← Nat.shiftLeft_add_eq_or_of_lt b.isLt, Nat.shiftLeft_eq]
  apply BitVec.eq_of_toNat_eq
  simp only [fshlVal, BitVec.toNat_ofNat, BitVec.extractLsb'_toNat, BitVec.toNat_shiftLeft, happ, Nat.shiftLeft_eq, Nat.shiftRight_eq_div_pow]
  omega

/-! ## Bit fields (05 R123) -/

theorem fieldPos_eq (c : Word) : fieldPos c = fpos c := by
  simp [fieldPos, fpos]

theorem fieldLen_eq (c : Word) : fieldLen c = flen c := by
  simp [fieldLen, flen, Nat.shiftRight_eq_div_pow]

/-- Bit `j` of a field: a bit of the word extended beyond bit 31. -/
def fieldBit (signed : Bool) (a : Word) (pos j : Nat) : Bool :=
  if pos + j ≤ 31 then a.getLsbD (pos + j) else signed && a.msb

/-- The field of a word, before it is extended to 32 bits. -/
def field (signed : Bool) (a : Word) (pos len : Nat) : BitVec len :=
  ((if signed then a.signExtend 320 else a.zeroExtend 320) >>> pos).setWidth len

theorem getLsbD_field (signed : Bool) (a : Word) {pos len j : Nat} (h : pos + len ≤ 320) (hj : j < len) :
    (field signed a pos len).getLsbD j = fieldBit signed a pos j := by
  have h320 : pos + j < 320 := by omega
  have h31 : pos + j < 32 ↔ pos + j ≤ 31 := by omega
  cases signed
  · by_cases hle : pos + j ≤ 31
    · simp [field, fieldBit, hj, h320, hle]
    · simp [field, fieldBit, hj, hle, BitVec.getLsbD_of_ge a (pos + j) (by omega)]
  · simp [field, fieldBit, BitVec.getElem_signExtend, hj, h320]
    split <;> simp_all [BitVec.getLsbD_eq_getElem]

theorem bfeVal_eq (signed : Bool) (a ctl : Word) : bfeVal signed a ctl = extract signed a ctl := by
  have hpos : fpos ctl < 256 := Nat.mod_lt _ (by decide)
  have hlen : flen ctl ≤ 32 := Nat.min_le_right ..
  have hext : extract signed a ctl = if signed then (field signed a (fpos ctl) (flen ctl)).signExtend 32
    else (field signed a (fpos ctl) (flen ctl)).zeroExtend 32 := rfl
  simp only [bfeVal, hext, fieldPos_eq, fieldLen_eq]
  generalize fpos ctl = pos at hpos
  generalize flen ctl = len at hlen
  have hbit {j : Nat} (hj : j < len) : (field signed a pos len)[j] = fieldBit signed a pos j :=
    (BitVec.getLsbD_eq_getElem hj).symm.trans (getLsbD_field signed a (by omega) hj)
  rcases Nat.eq_zero_or_pos len with rfl | h0
  · have hf : field signed a pos 0 = 0#0 := BitVec.of_length_zero
    rw [if_pos rfl, hf]
    cases signed <;> rfl
  · rw [if_neg (by omega)]
    ext i hi
    rw [BitVec.getElem_ofFnLE]
    by_cases hil : i < len
    · rw [if_pos hil]
      cases signed
      · simpa [BitVec.getLsbD_eq_getElem hil, fieldBit] using (hbit hil).symm
      · simpa [BitVec.getElem_signExtend, hil, fieldBit] using (hbit hil).symm
    · rw [if_neg hil]
      cases signed
      · simp [BitVec.getLsbD_of_ge (field false a pos len) i (by omega)]
      · have hlast : len - 1 < len := by omega
        simpa [BitVec.getElem_signExtend, hil, BitVec.msb_eq_getLsbD_last, BitVec.getLsbD_eq_getElem hlast, fieldBit] using (hbit hlast).symm

theorem getLsbD_ones {len : Nat} (h : len ≤ 32) (i : Nat) : ((1#64 <<< len) - 1#64).getLsbD i = decide (i < len) := by
  have hn : ((1#64 <<< len) - 1#64).toNat = 2 ^ len - 1 := by
    have h1 : 2 ^ len ≤ 2 ^ 32 := Nat.pow_le_pow_right (by decide) h
    have h2 : 0 < 2 ^ len := Nat.two_pow_pos len
    rw [BitVec.toNat_sub, BitVec.toNat_shiftLeft, Nat.shiftLeft_eq]
    simp
    omega
  rw [BitVec.getLsbD, hn, Nat.testBit_two_pow_sub_one]

theorem bfiVal_eq (a b ctl : Word) : bfiVal a b ctl = Claims.insert a b ctl := by
  have hlen : flen ctl ≤ 32 := Nat.min_le_right ..
  simp only [bfiVal, Claims.insert, fieldPos_eq, fieldLen_eq]
  generalize fpos ctl = pos
  generalize flen ctl = len at hlen
  ext i hi
  have hm : (((1#64 <<< len) - 1).truncate 32 <<< pos : Word)[i] = decide (pos ≤ i ∧ i < pos + len) := by
    have hlt : i - pos < 32 := by omega
    simp only [BitVec.getElem_shiftLeft, BitVec.getElem_setWidth, BitVec.truncate_eq_setWidth]
    rw [show (1 : BitVec 64) = 1#64 from rfl, getLsbD_ones hlen]
    by_cases hp : pos ≤ i
    · simp [hp, show ¬ i < pos by omega, show i - pos < len ↔ i < pos + len by omega]
    · simp [hp, show i < pos by omega]
  rw [BitVec.getElem_ofFnLE, BitVec.getElem_or, BitVec.getElem_and, BitVec.getElem_and, BitVec.getElem_not, hm]
  by_cases hin : pos ≤ i ∧ i < pos + len
  · simp [hin, show ¬ i < pos by omega, BitVec.getLsbD_eq_getElem (show i - pos < 32 by omega)]
  · simp [hin, BitVec.getLsbD_eq_getElem hi]

/-! ## Counts (05 R124) -/

theorem popcount_eq (w x : Nat) : popcount w x = ((List.range w).map x.testBit).count true := by
  induction w generalizing x with
  | zero => rfl
  | succ w ih =>
    have hshift : (List.range w).map (x.testBit ∘ Nat.succ) = (List.range w).map (x / 2).testBit :=
      List.map_congr_left (fun i _ => by simp [Nat.testBit_succ])
    rw [popcount, ih, List.range_succ_eq_map, List.map_cons, List.map_map, hshift, List.count_cons, Nat.add_comm, Nat.testBit_zero]
    rcases Nat.mod_two_eq_zero_or_one x with h | h <;> simp [h]

theorem trailing_eq (w x : Nat) : trailing w x = (((List.range w).map x.testBit).takeWhile (!·)).length := by
  induction w generalizing x with
  | zero => rfl
  | succ w ih =>
    have hshift : (List.range w).map (x.testBit ∘ Nat.succ) = (List.range w).map (x / 2).testBit :=
      List.map_congr_left (fun i _ => by simp [Nat.testBit_succ])
    rw [trailing, ih, List.range_succ_eq_map, List.map_cons, List.map_map, hshift, Nat.testBit_zero]
    rcases Nat.mod_two_eq_zero_or_one x with h | h <;> simp [h, Nat.add_comm]

theorem leading_eq (w x : Nat) : leading w x = (((List.range w).map x.testBit).reverse.takeWhile (!·)).length := by
  induction w with
  | zero => rfl
  | succ w ih =>
    have htop : 2 ^ w ≤ x % 2 ^ (w + 1) ↔ x.testBit w = true := by
      have hlt : x % 2 ^ w < 2 ^ w := Nat.mod_lt _ (Nat.two_pow_pos w)
      rw [Nat.testBit_eq_decide_div_mod_eq, decide_eq_true_eq, Nat.mod_pow_succ]
      rcases Nat.mod_two_eq_zero_or_one (x / 2 ^ w) with h | h
      · simp [h]
        omega
      · simp [h]
    rw [leading, ih, List.range_succ, List.map_append, List.reverse_append]
    by_cases h : x.testBit w = true <;> simp [h, htop, Nat.add_comm]

/-! ## Reversal and permutation (05 R124, R125) -/

theorem brevVal_eq (a : Word) : brevVal a = a.reverse := by
  ext i hi
  rw [brevVal, BitVec.getElem_ofFnLE, BitVec.getElem_reverse]
  simp [BitVec.getMsbD, hi]

theorem byte_of_shift {w : Nat} (x : BitVec w) (n : Nat) : (x >>> n).truncate 8 = x.extractLsb' n 8 := by
  ext i hi
  simp
/-- Byte `i` of PRMT as the model selects it. -/
def permByte (a b c : Word) (i : Nat) : Byte :=
  let x : Byte := (b ++ a).extractLsb' (8 * (c.extractLsb' (3 * i) 3).toNat) 8
  match (c.extractLsb' (2 * i + 12) 2).toNat with
  | 0 => x
  | 1 => 0#8
  | 2 => if x.msb then 0xFF#8 else 0#8
  | _ => 0xFF#8

theorem permuted_eq (a b c : Word) (i : Nat) : permuted a b c i = permByte a b c i := by
  have hsel : c.toNat / 2 ^ (3 * i) % 8 = (c.extractLsb' (3 * i) 3).toNat := by simp [Nat.shiftRight_eq_div_pow]
  have hact : c.toNat / 2 ^ (2 * i + 12) % 4 = (c.extractLsb' (2 * i + 12) 2).toNat := by simp [Nat.shiftRight_eq_div_pow]
  simp only [permuted, permByte, byte_of_shift, hsel, hact]
  generalize (c.extractLsb' (2 * i + 12) 2).toNat = act
  match act with
  | 0 => rfl
  | 1 => rfl
  | 2 => rfl
  | n + 3 => simp

theorem prmtVal_eq (a b c : Word) :
    prmtVal a b c = permuted a b c 3 ++ permuted a b c 2 ++ permuted a b c 1 ++ permuted a b c 0 := by
  simp only [permuted_eq]
  rfl

end Sys2Proof.Proofs.Bits
end

section
/-! SUPPORT. Comparisons, selection and predicates (05 R126 to R129), and the statement of logic and predicates. -/

namespace Sys2Proof.Proofs.Predicates

open Sys2Proof.Machine Sys2Proof.Claims Sys2Proof.Safety

theorem icmpArg_eq {ty : Ty} (h : ty = .i32 ∨ ty = .n32 ∨ ty = .i64 ∨ ty = .n64) (v : Dword) : icmpArg ty v = cmpNum ty v := by
  rcases h with rfl | rfl | rfl | rfl <;> rfl

theorem intCmp_eq {c : Cmp} (hu : c ≠ .un) (ho : c ≠ .ord) (a b : Int) : intCmp c a b = condition c a b := by
  cases c with
  | un => exact absurd rfl hu
  | ord => exact absurd rfl ho
  | eq => rfl
  | ne => by_cases h : a = b <;> simp [intCmp, condition, h]
  | lt => rfl
  | le => simp [intCmp, condition]
  | gt => rfl
  | ge => simp [intCmp, condition]

theorem combine_eq : ∀ (comb : BitVec 2) (c p : Bool), combine comb c p = combined comb c p := by decide

/-! ## The mask of a predicate (05 R129) -/

/-- The bits of a sum of distinct powers of two. -/
theorem testBit_foldl_pow (p : Nat → Bool) (n j : Nat) :
    let m := ((List.range n).filter p).foldl (fun acc t => acc + 2 ^ t) 0
    m < 2 ^ n ∧ m.testBit j = (decide (j < n) && p j) := by
  induction n with
  | zero => simp
  | succ n ih =>
    obtain ⟨hlt, hbit⟩ := ih
    rw [List.range_succ, List.filter_append, List.foldl_append]
    generalize ((List.range n).filter p).foldl (fun acc t => acc + 2 ^ t) 0 = m at hlt hbit
    cases hp : p n with
    | false =>
      have hj : (decide (j < n) && p j) = (decide (j < n + 1) && p j) := by
        rcases eq_or_ne j n with rfl | hne
        · simp [hp]
        · simp [show j < n + 1 ↔ j < n by omega]
      simp only [List.filter_cons, hp, Bool.false_eq_true, if_false, List.filter_nil, List.foldl_nil]
      exact ⟨hlt.trans (Nat.pow_lt_pow_right (by decide) (Nat.lt_succ_self n)), hbit.trans hj⟩
    | true =>
      simp only [List.filter_cons, hp, if_true, List.filter_nil, List.foldl_cons, List.foldl_nil]
      refine ⟨by rw [Nat.pow_succ]; omega, ?_⟩
      rw [Nat.add_comm]
      rcases lt_trichotomy j n with h | rfl | h
      · rw [Nat.testBit_two_pow_add_gt h, hbit]
        simp [h, Nat.lt_succ_of_lt h]
      · rw [Nat.testBit_two_pow_add_eq, Nat.testBit_lt_two_pow hlt]
        simp [hp]
      · rw [Nat.testBit_lt_two_pow]
        · simp [show ¬ j < n + 1 by omega]
        · have : 2 ^ (n + 1) ≤ 2 ^ j := Nat.pow_le_pow_right (by decide) h
          rw [Nat.pow_succ] at this
          omega

theorem maskOf_filter (p : Nat → Bool) : maskOf ((List.range 16).filter p) = BitVec.ofFnLE (fun t : Fin 16 => p t) := by
  ext j hj
  rw [BitVec.getElem_ofFnLE, maskOf, ← BitVec.getLsbD_eq_getElem hj, BitVec.getLsbD_ofNat, (testBit_foldl_pow p 16 j).2]
  simp [hj]

theorem predMask_eq (s : State) (x : Iss) (kp : BitVec 3) : predMask s x kp =
    (BitVec.ofFnLE (fun t : Fin 16 => s.predBit x.st kp.toNat t x.t0) : Mask).zeroExtend 32 := by
  rw [predMask, maskOf_filter (fun t => s.predBit x.st kp.toNat t x.t0)]

end Sys2Proof.Proofs.Predicates

namespace Sys2Proof.Proofs

open Sys2Proof.Machine Sys2Proof.Claims Sys2Proof.Safety Bits Predicates

theorem logic : Claims.logic := by
  intro h d a b c fn ze wrap w signed pz
  refine ⟨each_of_eff rfl fun _ _ => rfl, each_of_eff rfl fun _ _ => rfl, each_of_eff rfl fun _ _ => rfl,
    each_of_eff rfl fun _ _ => rfl, each_of_eff rfl fun _ _ => rfl, each_of_eq _ rfl (fun _ => rfl) fun y r => ?_,
    each_of_eff rfl fun _ _ => rfl, each_of_eff rfl fun _ _ => rfl, each_of_eq _ rfl (fun _ => rfl) fun y r => ?_,
    each_of_eq _ rfl (fun _ => rfl) fun y r => ?_, each_of_eq _ rfl (fun _ => rfl) fun y r => ?_,
    each_of_eq _ rfl (fun _ => rfl) fun y r => ?_, each_of_words rfl fun y r => ?_,
    each_of_eq _ rfl (fun _ => rfl) fun y r => ?_, each_of_eq _ rfl (fun _ => rfl) fun y r => ?_,
    each_of_eq _ rfl (fun _ => rfl) fun y r => ?_, each_of_eq _ rfl (fun _ => rfl) fun y r => ?_,
    each_of_words rfl fun y r => ?_⟩
  · rw [lop3Val_eq_union3]
  · exact congrArg one (sarVal_eq ..)
  · exact congrArg one (rolVal_eq ..)
  · exact congrArg one (fshlVal_eq ..)
  · cases signed <;> exact congrArg one (bfeVal_eq ..)
  · exact congrArg one (bfiVal_eq ..)
  · rw [popcount_eq]
    rfl
  · rw [leading_eq]
    rfl
  · rw [trailing_eq]
    rfl
  · exact congrArg one (brevVal_eq ..)
  · exact congrArg one (prmtVal_eq ..)

theorem predicates : Claims.predicates := by
  intro h d a b ty cmp comb pd pa pb pc w inv pt fn
  refine ⟨fun ht hu ho => each_of_eq _ rfl (fun _ => rfl) fun y r => ?_, each_of_eq _ rfl (fun _ => rfl) fun y r => ?_,
    each_of_eq _ rfl (fun _ => rfl) fun y r => ?_, each_of_eff rfl fun _ _ => rfl, each_of_eff rfl fun _ _ => rfl,
    fun s y s1 hp => completes_of_ok rfl hp ?_⟩
  · rw [icmpArg_eq ht, icmpArg_eq ht, intCmp_eq hu ho, combine_eq]
  · rw [combine_eq]
  · rw [Bool.bne_eq_xor]
  · rw [← predMask_eq]
    rfl

/-- Settles O3: what each instruction computes is the value that the statement gives, read bit by bit (`lop3Val_eq_union3`, `bfeVal_eq`,
`bfiVal_eq`), and PMOV's mask is that of the threads whose predicate holds (`maskOf_filter`). -/
theorem logicAndPredicates : Obligations.LogicAndPredicates := ⟨logic, predicates⟩

end Sys2Proof.Proofs
end

section
/-! SUPPORT. Items of an accumulator tile at their place: no word that they read or replace holds an error (09 R225 to R228; 18 R362, R363). -/

namespace Sys2Proof.Machine

/-! ## Errors -/

theorem State.clean_of_noError {s : State} (h : s.latent = []) (site : Site) : s.clean site = s := by
  cases s
  simp only at h
  subst h
  rfl

theorem State.foldl_clean_of_noError {s : State} (h : s.latent = []) (sites : List Site) : sites.foldl (fun s x => s.clean x) s = s := by
  induction sites with
  | nil => rfl
  | cons x xs ih => rw [List.foldl_cons, State.clean_of_noError h, ih]

/-! ## Words at rest: what leaves the errors of words as they are -/

theorem latent_foldl {β : Type} {f : State → β → State} (h : ∀ s b, (f s b).latent = s.latent) (l : List β) (s : State) :
    (l.foldl f s).latent = s.latent := by
  induction l generalizing s with
  | nil => rfl
  | cons b l ih => rw [List.foldl_cons, ih, h]

theorem latent_saveRange (launch : Nat) (l : LaneId) (sh : Shr) (now : Nat) (s : State) : (saveRange launch l sh now s).latent = s.latent := by
  unfold saveRange
  dsimp only
  split
  · rfl
  · split
    · rfl
    · split <;> rfl

theorem latent_landWords_nil (k : Nat) (s : State) : (landWords k [] s).latent = s.latent := by
  unfold landWords
  split
  · rfl
  · dsimp only
    split
    · exact latent_foldl (fun s r => latent_saveRange ..) ..
    · rfl

theorem latent_completeTxn (n : Nat) (s : State) : (completeTxn n s).latent = s.latent := by
  unfold completeTxn
  split
  · rfl
  · dsimp only
    split <;> rfl

theorem latent_landResult_nil (n : Nat) (s : State) : (landResult n [] s).latent = s.latent := by
  unfold landResult
  split
  · rfl
  next t _ =>
    have hland : (match t.finds s with
      | some _ => landWords t.strand [] s
      | none => s).latent = s.latent := by
      split
      · exact latent_landWords_nil ..
      · rfl
    dsimp only
    split
    · exact (latent_completeTxn ..).trans hland
    · exact hland

theorem latent_ringSweep (tc : TileCtx) (s : State) : (ringSweep tc s).latent = s.latent :=
  latent_foldl (f := fun s (r : Ring) => unplace r.strand r.txn s) (fun _ _ => rfl) _ _

theorem latent_slotSweep (tc : TileCtx) (s : State) : (slotSweep tc s).latent = s.latent := by
  unfold slotSweep
  dsimp only
  split
  · rfl
  · rw [latent_ringSweep]
    exact latent_foldl (f := fun s (i : TItem) => unplace i.strand i.txn s) (fun _ _ => rfl) _ _

theorem latent_leaveQueue (tc : TileCtx) (i : TItem) (s : State) : (leaveQueue tc i s).latent = s.latent := latent_slotSweep ..

theorem latent_applied (tc : TileCtx) (i : TItem) (s : State) : (applied tc i s).latent = s.latent :=
  (latent_landResult_nil ..).trans (latent_leaveQueue ..)

end Sys2Proof.Machine

namespace Sys2Proof.Proofs.Items

open Sys2Proof.Machine Sys2Proof.Claims Sys2Proof.Safety HostAccess

variable {s : State} {tc : TileCtx} {acc : Nat} {i j : TItem} {rest : List TItem}

theorem banned_of_sound (h : sound s) (site : Site) : s.banned site = false := by
  unfold State.banned
  split
  · exact unusable_of_sound h ..
  · rfl

theorem consumeAll_of_sound (h : sound s) (sites : List Site) (cons : Nat) (who : PartId) : s.consumeAll sites cons who = (s, .ok) := by
  induction sites with
  | nil => rfl
  | cons x xs ih =>
    unfold State.consumeAll
    rw [consume_of_sound h]
    exact ih

theorem any_eq_false {β : Type} {p : β → Bool} (h : ∀ b, p b = false) (l : List β) : l.any p = false :=
  List.any_eq_false.2 (fun b _ => by simp [h b])

/-! ## An item at the head of its order -/

/-- An item other than ACCDSC that stands first in the order of its accumulator tile, unhindered. -/
structure First (s : State) (tc : TileCtx) (acc : Nat) (i : TItem) (rest : List TItem) : Prop where
  sound : sound s
  runs : ctxRuns s tc.ctx = true
  tile : acc < 32
  order : (s.tc tc).order acc = i :: rest
  free : i.stuck = false

/-- The state of an item's accumulator set. -/
def setAcc (tc : TileCtx) (acc : Nat) (x : Acc) (s : State) : State := s.modTc tc (fun t => { t with accs := aput t.accs acc x })

theorem modTc_setAcc (f : Acc → Acc) : s.modTc tc (fun t => t.setAcc acc f) = setAcc tc acc (f ((s.tc tc).acc acc)) s := rfl

/-- The accumulator fault of an item (09 R225). -/
def accFault (tc : TileCtx) (acc : Nat) (i : TItem) (s : State) : State := itemFault tc i { cause := 0x15, detail := matDetail acc 0 0 0 } s

/-- What an item comes to at its place, by its kind (09 R225 to R228). -/
def itemResult (tc : TileCtx) (acc : Nat) (i : TItem) (s : State) : Option State :=
  let a := (s.tc tc).acc acc
  match i.kind with
  | .accz kind => some (if a.shadow.isSome then accFault tc acc i s else applied tc i (setAcc tc acc { kind := kind } s))
  | .accwr ty c0 n data => some (if a.shadow.isSome then accFault tc acc i s else match accWrite ty c0 n data a with
    | some x => applied tc i (setAcc tc acc x s)
    | none => accFault tc acc i s)
  | .accrd ty rm sat sh c0 n => some ((leaveQueue tc i s).send (.result i.txn 0
      (accWords (((aget s.txns i.txn).map (fun t => t.dst)).getD .zero) (ty == .i64) n (fun j t =>
        accOut a.kind ty rm sat (agetD (if sh then a.shadow.getD a.els else a.els) (64 * t + c0 + j) 0)))))
  | .acccmt => some (applied tc i (setAcc tc acc (match a.shadow with
    | some els => { a with els := els, shadow := none }
    | none => a) s))
  | .twait => some (applied tc i s)
  | _ => none

theorem evItemApply_first (h : First s tc acc i rest) (hk : i.kind ≠ .accdsc) (htask : ∀ r spec, i.kind ≠ .task r spec) :
    evAccumulatorItemApply tc acc s = itemResult tc acc i s := by
  obtain ⟨hs, hr, hacc, ho, hf⟩ := h
  have htest := any_eq_false (testing_of_sound hs)
  have hban := any_eq_false (banned_of_sound hs)
  have hclean := State.foldl_clean_of_noError hs.1
  have hread := consumeAll_of_sound hs
  have hspec : specTask i = false := by
    unfold specTask
    split
    next r spec he => exact absurd he (htask r spec)
    next => rfl
  simp only [evAccumulatorItemApply, hr, Nat.not_le.2 hacc, ho, List.dropWhile_cons, List.takeWhile_cons, hspec, htest, hban, hread, hclean,
    itemResult, modTc_setAcc, accFault]
  cases hkind : i.kind with
  | accdsc => exact absurd hkind hk
  | task r spec => exact absurd hkind (htask r spec)
  | accz kind => cases hsh : ((s.tc tc).acc acc).shadow <;> simp [hkind, hf]
  | accwr ty c0 n data =>
    cases hsh : ((s.tc tc).acc acc).shadow with
    | some els => simp [hkind, hf]
    | none => cases hw : accWrite ty c0 n data ((s.tc tc).acc acc) <;> simp [hkind, hf, hw]
  | accrd ty rm sat sh c0 n => cases htx : aget s.txns i.txn <;> simp [hkind, hf, htx]
  | acccmt => cases hsh : ((s.tc tc).acc acc).shadow <;> simp [hkind, hf]
  | twait | twaitAll | orels _ => simp [hkind, hf]

/-! ## ACCDSC and TWAIT.all -/

theorem specTask_accdsc (hk : i.kind = .accdsc) : specTask i = false := by simp [specTask, hk]

theorem clean_shadow (h : s.latent = []) : (s.clean (.shadow tc acc)).modTc tc (fun t => t.setAcc acc (fun a => { a with shadow := none })) =
    setAcc tc acc { (s.tc tc).acc acc with shadow := none } s := by
  rw [State.clean_of_noError h, modTc_setAcc]

/-- ACCDSC with no task before it closes the shadow (09 R227). -/
theorem evItemApply_discard (h : First s tc acc i rest) (hk : i.kind = .accdsc) :
    evAccumulatorItemApply tc acc s = some (applied tc i (setAcc tc acc { (s.tc tc).acc acc with shadow := none } s)) := by
  obtain ⟨hs, hr, hacc, ho, -⟩ := h
  simp [evAccumulatorItemApply, hr, Nat.not_le.2 hacc, ho, specTask_accdsc hk, hk, Machine.discard, clean_shadow hs.1]

/-- ACCDSC behind one speculative task: one that runs is to stop, and another is dropped with the shadow (09 R227). -/
theorem evItemApply_discard_task (hs : sound s) (hr : ctxRuns s tc.ctx = true) (hacc : acc < 32)
    (ho : (s.tc tc).order acc = j :: i :: rest) (hj : ∃ r, j.kind = .task r true) (hk : i.kind = .accdsc) :
    evAccumulatorItemApply tc acc s =
      if j.running then (if j.drop then none else some (s.modTc tc (fun t => t.setItem j.txn (fun j => { j with drop := true }))))
      else let u := applied tc j s; some (applied tc i (setAcc tc acc { (u.tc tc).acc acc with shadow := none } u)) := by
  obtain ⟨r, hj⟩ := hj
  have hspec : specTask j = true := by simp [specTask, hj]
  have hclean := clean_shadow (tc := tc) (acc := acc) ((latent_applied tc j s).trans hs.1)
  cases hrun : j.running <;>
    simp [evAccumulatorItemApply, hr, Nat.not_le.2 hacc, ho, hspec, specTask_accdsc hk, hk, Machine.discard, hrun, hclean]

/-- TWAIT.all at the head of the queue (09 R228). -/
theorem evItemApply_twaitAll (hr : ctxRuns s tc.ctx = true) (ho : (s.tc tc).tq = i :: rest) (hk : i.kind = .twaitAll) :
    evAccumulatorItemApply tc 32 s = some (applied tc i s) := by
  simp [evAccumulatorItemApply, hr, ho, hk]

/-! ## Faults of items -/

theorem lowtOf_eq (s : State) (n : Nat) : s.lowtOf n = ((aget s.txns n).map (fun x => x.act.headD 0)).getD 0 := by
  unfold State.lowtOf
  cases aget s.txns n <;> rfl

/-- An item's fault names the lowest active thread of its instruction; the item stays, and the tile's running tasks are cut (17 R344, R349, R354). -/
theorem itemFault_eq (tc : TileCtx) (i : TItem) (f : Flt) (s : State) : itemFault tc i f s =
    ((s.modTc tc (fun t => { t with tq := t.tq.map (fun j => if j.txn = i.txn then { j with stuck := true } else j) })).unitFault tc.ctx.part
      (.sched tc.t) { f with lowt := ((aget s.txns i.txn).map (fun x => x.act.headD 0)).getD 0 } i.strand i.pc 0).cutTile tc.ctx.part tc.t := by
  rw [← lowtOf_eq]
  rfl

theorem matDetail_acc (acc : Nat) : matDetail acc 0 0 0 = BitVec.ofNat 256 acc := by simp [matDetail, at_]

end Sys2Proof.Proofs.Items
end

section
/-! SUPPORT. What ACCWR makes of its words, and ACCRD of the elements of an accumulator tile (09 R225; 03 R63, R72, R74 to R76). -/

namespace Sys2Proof.Machine

section maps
variable {κ β : Type} [DecidableEq κ]

/-- Several keys set in turn. -/
def aputAll (m : Assoc κ β) (l : List (κ × β)) : Assoc κ β := l.foldl (fun m p => aput m p.1 p.2) m

theorem aget_aputAll_of_not_mem {l : List (κ × β)} {k : κ} (m : Assoc κ β) (h : ∀ p ∈ l, p.1 ≠ k) : aget (aputAll m l) k = aget m k := by
  induction l generalizing m with
  | nil => rfl
  | cons p l ih =>
    obtain ⟨hp, hl⟩ := List.forall_mem_cons.1 h
    exact (ih _ hl).trans (aget_aput_other m _ hp)

theorem aget_aputAll_of_mem {l : List (κ × β)} {k : κ} {v : β} (m : Assoc κ β) (hmem : (k, v) ∈ l) (h : ∀ p ∈ l, p.1 = k → p.2 = v) :
    aget (aputAll m l) k = some v := by
  induction l generalizing m with
  | nil => cases hmem
  | cons p l ih =>
    obtain ⟨hp, hl⟩ := List.forall_mem_cons.1 h
    by_cases hin : (k, v) ∈ l
    · exact ih _ hin hl
    · have hpk : p = (k, v) := ((List.mem_cons.1 hmem).resolve_right hin).symm
      have hnot : ∀ q ∈ l, q.1 ≠ k := fun q hq hqk => hin (by rw [← hqk, ← hl q hq hqk]; exact hq)
      subst hpk
      exact (aget_aputAll_of_not_mem _ hnot).trans (aget_aput_same ..)

end maps

end Sys2Proof.Machine

namespace Sys2Proof.Proofs.Items

open Sys2Proof.Machine Sys2Proof.Claims Sys2Proof.Safety

/-! ## ACCWR -/

/-- Columns of elements set, row by row in each. -/
def columns (c0 n : Nat) (el : Nat → Nat → BitVec 40) : List (Nat × BitVec 40) :=
  (List.range n).flatMap (fun j => (List.range 16).map (fun t => (64 * t + c0 + j, el j t)))

theorem mem_columns {c0 n e : Nat} {el : Nat → Nat → BitVec 40} {v : BitVec 40} :
    (e, v) ∈ columns c0 n el ↔ ∃ j < n, ∃ t < 16, e = 64 * t + c0 + j ∧ v = el j t := by
  simp [columns, eq_comm]

theorem foldl_columns (c0 n : Nat) (el : Nat → Nat → BitVec 40) (m : Assoc Nat (BitVec 40)) :
    (List.range n).foldl (fun els j => (List.range 16).foldl (fun els t => aput els (64 * t + c0 + j) (el j t)) els) m =
      aputAll m (columns c0 n el) := by
  rw [aputAll, columns, List.foldl_flatMap]
  simp only [List.foldl_map]

theorem aget_columns_same {c0 n j t : Nat} (hn : c0 + n ≤ 64) (el : Nat → Nat → BitVec 40) (m : Assoc Nat (BitVec 40)) (hj : j < n) (ht : t < 16) :
    aget (aputAll m (columns c0 n el)) (64 * t + c0 + j) = some (el j t) := by
  refine aget_aputAll_of_mem m (mem_columns.2 ⟨j, hj, t, ht, rfl, rfl⟩) fun p hp hk => ?_
  obtain ⟨j', hj', t', ht', he, hv⟩ := mem_columns.1 hp
  obtain ⟨rfl, rfl⟩ : t' = t ∧ j' = j := by omega
  exact hv

theorem aget_columns_other {c0 n e : Nat} (el : Nat → Nat → BitVec 40) (m : Assoc Nat (BitVec 40)) (h : ∀ j < n, ∀ t < 16, e ≠ 64 * t + c0 + j) :
    aget (aputAll m (columns c0 n el)) e = aget m e :=
  aget_aputAll_of_not_mem m fun p hp hk => by
    obtain ⟨j, hj, t, ht, he, -⟩ := mem_columns.1 hp
    exact h j hj t ht (hk.symm.trans he)

/-- The types of ACCWR and the kinds of accumulator that take them (09 R225). -/
theorem accIn_isNone_iff {ty : Ty} (h : ty = .f32 ∨ ty = .i32 ∨ ty = .i64) (kind : Nat) (lo hi : Word) :
    (accIn kind ty lo hi).isNone = true ↔ (ty = .f32 ∧ kind ≠ 0) ∨ (ty = .i32 ∧ kind = 0) := by
  rcases h with rfl | rfl | rfl <;> by_cases hk : kind = 0 <;> simp [accIn, hk]

/-- The element that ACCWR makes of the words of a thread and column. -/
def written (ty : Ty) (w : Nat → Nat → Word) (j t : Nat) : BitVec 40 :=
  if ty = .f32 then BitVec.ofNat 40 (fp40.conv .rne false (fp32.decode (w j t).toNat))
  else if ty = .i32 then (w j t).signExtend 40
  else (w (2 * j + 1) t ++ w (2 * j) t).truncate 40

theorem accWrite_eq {ty : Ty} (h : ty = .f32 ∨ ty = .i32 ∨ ty = .i64) (c0 n : Nat) (data : List (List Word)) {a : Acc}
    (hfit : ¬ (ty = .f32 ∧ a.kind ≠ 0) ∧ ¬ (ty = .i32 ∧ a.kind = 0)) : accWrite ty c0 n data a =
      some { a with els := aputAll a.els (columns c0 n (written ty (fun j t => (data.getD j []).getD t 0))) } := by
  have hsome : ¬ (accIn a.kind ty 0 0).isNone = true := fun hn => ((accIn_isNone_iff h ..).1 hn).elim hfit.1 hfit.2
  rw [accWrite, if_neg hsome, ← foldl_columns]
  rcases h with rfl | rfl | rfl
  · have hk : a.kind = 0 := by simpa using hfit.1
    simp [accIn, hk, written]
  · have hk : a.kind ≠ 0 := by simpa using hfit.2
    simp [accIn, hk, written]
  · simp [accIn, written]

theorem accWrite_none {ty : Ty} (h : ty = .f32 ∨ ty = .i32 ∨ ty = .i64) (c0 n : Nat) (data : List (List Word)) {a : Acc}
    (hfit : ¬ (¬ (ty = .f32 ∧ a.kind ≠ 0) ∧ ¬ (ty = .i32 ∧ a.kind = 0))) : accWrite ty c0 n data a = none := by
  rw [accWrite, if_pos ((accIn_isNone_iff h ..).2 (by tauto))]

/-! ## ACCRD -/

theorem low_word (v : Int) : (BitVec.ofInt 64 v &&& 0xFFFFFFFF#64).truncate 32 = BitVec.ofInt 32 v ∧
    (BitVec.ofInt 64 v &&& 0xFFFFFFFF#64).extractLsb' 32 32 = 0#32 := by
  constructor
  · apply BitVec.eq_of_toNat_eq
    simp only [BitVec.truncate_eq_setWidth, BitVec.toNat_setWidth, BitVec.toNat_and, BitVec.toNat_ofInt, BitVec.toNat_ofNat]
    rw [show 4294967295 % 2 ^ 64 = 2 ^ 32 - 1 by decide, Nat.and_two_pow_sub_one_eq_mod]
    omega
  · apply BitVec.eq_of_toNat_eq
    simp only [BitVec.extractLsb'_toNat, BitVec.toNat_and, BitVec.toNat_ofInt, BitVec.toNat_ofNat, Nat.shiftRight_eq_div_pow]
    rw [show 4294967295 % 2 ^ 64 = 2 ^ 32 - 1 by decide, Nat.and_two_pow_sub_one_eq_mod]
    omega

/-- The value that ACCRD.i32 gives before it is narrowed. -/
def readInt (kind : Nat) (rm : RMode) (sat : Bool) (e : BitVec 40) : Int :=
  if kind = 0 then (fp40.decode e.toNat).toIntFmt rm sat true 32
  else if sat then clampInt (-(2 ^ 31)) (2 ^ 31 - 1) e.toInt else e.toInt

theorem accOut_i32 (kind : Nat) (rm : RMode) (sat : Bool) (e : BitVec 40) :
    accOut kind .i32 rm sat e = BitVec.ofInt 64 (readInt kind rm sat e) &&& 0xFFFFFFFF#64 := rfl

theorem ofInt_readInt (kind : Nat) (rm : RMode) (sat : Bool) (e : BitVec 40) : BitVec.ofInt 32 (readInt kind rm sat e) =
    if kind = 0 then BitVec.ofInt 32 ((fp40.decode e.toNat).toIntFmt rm sat true 32)
    else if sat then BitVec.ofInt 32 (max (-2147483648) (min 2147483647 e.toInt)) else e.truncate 32 := by
  unfold readInt
  split
  · rfl
  · cases sat with
    | true => exact congrArg (BitVec.ofInt 32) (Integers.clampInt_eq (by norm_num) _)
    | false =>
      apply BitVec.eq_of_toNat_eq
      simp only [BitVec.toNat_ofInt, BitVec.toNat_setWidth, BitVec.toInt_eq_toNat_cond, BitVec.truncate_eq_setWidth, Bool.false_eq_true, if_false]
      split <;> omega

theorem mem_accWords {d : Opd} {wide : Bool} {n key : Nat} {v : Word} {el : Nat → Nat → Dword} :
    (key, v) ∈ accWords d wide n el ↔ ∃ j < n, ∃ t < 16,
      if wide then (key = vecKey (Opd.num d + 2 * j) t ∧ v = (el j t).truncate 32) ∨
        (key = vecKey (Opd.num d + 2 * j + 1) t ∧ v = (el j t).extractLsb' 32 32)
      else key = vecKey (Opd.num d + j) t ∧ v = (el j t).truncate 32 := by
  cases wide <;> simp [accWords]

end Sys2Proof.Proofs.Items

namespace Sys2Proof.Proofs

open Sys2Proof.Machine Sys2Proof.Claims Sys2Proof.Safety Items

theorem itemEffects : Claims.itemEffects := by
  intro tc acc i rest s hs hr hf a apply leave set faulty shut halts
  have happens {t : State} (h : evAccumulatorItemApply tc acc s = some t) : Happens apply s t := happens_of_some rfl h rfl
  have hfault : accFault tc acc i s = faulty := by rw [accFault, matDetail_acc, itemFault_eq]
  refine ⟨fun hacc ho => ?_, fun hacc ho hk => ?_, fun j hacc ho hj hk => ⟨fun hrun => ?_, fun hrun hdrop => ?_⟩⟩
  · have first : First s tc acc i rest := ⟨hs, hr, hacc, ho, hf⟩
    have result {k : TKind} (hk : i.kind = k) (hother : k ≠ .accdsc ∧ ∀ r spec, k ≠ .task r spec) {t : State}
        (h : itemResult tc acc i s = some t) : Happens apply s t :=
      happens ((evItemApply_first first (hk ▸ hother.1) (hk ▸ hother.2)).trans h)
    refine ⟨fun kind hk => ⟨fun hsh => ?_, fun hsh => ?_⟩, fun ty c0 n data hk => ⟨fun hsh x hx => ?_, fun hsh hx => ?_, fun hsh => ?_⟩,
      fun ty rm sat sh c0 n tx hk htx => ?_, fun hk => ⟨fun els hsh => ?_, fun hsh => ?_⟩, fun hk => ?_, fun hk => ?_⟩
    · have hopen : ¬ a.shadow.isSome = true := by simp [show a.shadow = none from hsh]
      exact result hk ⟨by simp, by simp⟩ (by simp only [itemResult, hk]; rw [if_neg hopen]; rfl)
    · exact result hk ⟨by simp, by simp⟩ (by simp only [itemResult, hk]; rw [if_pos hsh, hfault])
    · have hopen : ¬ a.shadow.isSome = true := by simp [show a.shadow = none from hsh]
      exact result hk ⟨by simp, by simp⟩ (by simp only [itemResult, hk]; rw [if_neg hopen, hx]; rfl)
    · have hopen : ¬ a.shadow.isSome = true := by simp [show a.shadow = none from hsh]
      exact result hk ⟨by simp, by simp⟩ (by simp only [itemResult, hk]; rw [if_neg hopen, hx, hfault])
    · exact result hk ⟨by simp, by simp⟩ (by simp only [itemResult, hk]; rw [if_pos hsh, hfault])
    · exact result hk ⟨by simp, by simp⟩ (by simp only [itemResult, hk, htx]; rfl)
    · exact result hk ⟨by simp, by simp⟩ (by simp only [itemResult, hk]; rw [hsh]; rfl)
    · exact result hk ⟨by simp, by simp⟩ (by simp only [itemResult, hk]; rw [show ((s.tc tc).acc acc).shadow = none from hsh]; rfl)
    · exact happens (evItemApply_discard first hk)
    · exact result hk ⟨by simp, by simp⟩ (by simp only [itemResult, hk]; rfl)
  · subst hacc
    exact happens (evItemApply_twaitAll hr ho hk)
  · refine happens ((evItemApply_discard_task hs hr hacc ho hj hk).trans ?_)
    simp only [hrun]
    rfl
  · refine happens ((evItemApply_discard_task hs hr hacc ho hj hk).trans ?_)
    simp only [hrun, hdrop]
    rfl

theorem accumulatorConversions : Claims.accumulatorConversions := by
  refine ⟨fun ty c0 n data a hty hn => ⟨fun hfit => accWrite_none hty c0 n data hfit, fun hfit => ?_⟩,
    fun kind rm sat e => ?_, fun d wide n key v el => mem_accWords⟩
  · refine ⟨_, accWrite_eq hty c0 n data hfit, rfl, rfl, fun j hj t ht => ?_, fun e he => aget_columns_other _ _ he⟩
    rw [agetD, aget_columns_same hn _ _ hj ht]
    rfl
  · refine ⟨?_, rfl, (low_word _).2, ?_⟩
    · unfold accOut
      split
      · simp_all
        split <;> rfl
      · simp_all
      · simp_all
    · rw [accOut_i32, (low_word _).1, ofInt_readInt]

/-- Settles O37: an item at its place meets no error of a word, so it comes to what its kind says (`evItemApply_first`, `evItemApply_discard`),
and ACCWR sets its columns one by one (`accWrite_eq`). -/
theorem itemsApply : Obligations.ItemsApply := ⟨itemEffects, accumulatorConversions⟩

end Sys2Proof.Proofs
end

section
/-! SUPPORT. A task that starts, or faults, at the head of its accumulator's order, and one that retires (09 R222, R223, R226; 12 R278). -/

namespace Sys2Proof.Proofs.TaskStarts

open Sys2Proof.Machine Sys2Proof.Claims Sys2Proof.Safety HostAccess Items

variable {s : State} {tc : TileCtx} {acc : Nat} {i : TItem} {rest : List TItem} {r : Line} {spec : Bool}

/-- What a task waits for before its checks: its slot, and what its strand wrote before it (09 R223; 10 R256). -/
structure Startable (s : State) (tc : TileCtx) (acc : Nat) (i : TItem) (rest : List TItem) (r : Line) (spec : Bool) : Prop where
  sound : sound s
  order : (s.tc tc).order acc = i :: rest
  kind : i.kind = .task r spec
  ctx : ctxRuns s tc.ctx = true
  idle : i.running = false
  free : i.stuck = false
  kept : i.drop = false
  slot : slotReady (agetD (s.tc tc).slots (tSlot r) {}) i.txn = true
  released : s.relMet i.strand .pkg i.rel = true

/-- The state of a task whose checks pass, or that of its first check that fails (log entries 27, 62). -/
def startState (tc : TileCtx) (acc : Nat) (i : TItem) (r : Line) (spec : Bool) (s : State) : State :=
  let a := (s.tc tc).acc acc
  if !spec && a.shadow.isSome then itemFault tc i { cause := 0x15, detail := taskDetail r 0 } s
  else match bufferChk s tc r i.late with
    | .error st => itemFault tc i { cause := 0x12, detail := taskBufDetail r st tc.t } s
    | .ok b => match taskOps s tc r (agetD (s.tc tc).slots (tSlot r) {}) b (a.kind != 0) with
      | .error e => itemFault tc i (RunErr.flt r e) s
      | .ok _ => startTask tc i acc spec s

theorem evTaskStart_of_startable (h : Startable s tc acc i rest r spec) : evTaskStart tc acc s = some (startState tc acc i r spec s) := by
  obtain ⟨hs, ho, hk, hc, hrun, hstuck, hdrop, hslot, hrel⟩ := h
  have htest := any_eq_false (testing_of_sound hs)
  simp only [evTaskStart, headItem, ho, List.head?_cons, hk, hrun, hstuck, hdrop, hc, hslot, hrel, htest, consumeAll_of_sound hs, startState]
  simp only [Bool.not_true, Bool.or_false, Bool.false_eq_true, if_false]
  split
  · rfl
  · cases hb : bufferChk s tc r i.late with
    | error st => rfl
    | ok b =>
      dsimp only
      cases ht : taskOps s tc r (agetD (s.tc tc).slots (tSlot r) {}) b (((s.tc tc).acc acc).kind != 0) <;> rfl

/-! ## The checks -/

theorem startState_shadowed (hspec : spec = false) (hsh : ((s.tc tc).acc acc).shadow.isSome = true) :
    startState tc acc i r spec s = itemFault tc i { cause := 0x15, detail := taskDetail r 0 } s := by
  simp [startState, hspec, hsh]

theorem startState_open (h : spec = true ∨ ((s.tc tc).acc acc).shadow = none) : startState tc acc i r spec s =
    match bufferChk s tc r i.late with
    | .error st => itemFault tc i { cause := 0x12, detail := taskBufDetail r st tc.t } s
    | .ok b => match taskOps s tc r (agetD (s.tc tc).slots (tSlot r) {}) b (((s.tc tc).acc acc).kind != 0) with
      | .error e => itemFault tc i (RunErr.flt r e) s
      | .ok _ => startTask tc i acc spec s := by
  have hno : ¬ (!spec && ((s.tc tc).acc acc).shadow.isSome) = true := by
    rcases h with h | h <;> simp [h]
  simp only [startState, if_neg hno]

theorem startState_error {st : Nat} (h : spec = true ∨ ((s.tc tc).acc acc).shadow = none) (hb : bufferChk s tc r i.late = .error st) :
    startState tc acc i r spec s = itemFault tc i { cause := 0x12, detail := taskBufDetail r st tc.t } s := by
  rw [startState_open h, hb]

theorem bufferChk_none (late : Bool) (hb : aget (s.tc tc).bufs (tBuf r) = none) : bufferChk s tc r late = .error 0 := by
  simp [bufferChk, hb]

theorem bufferChk_state {late : Bool} {b : Buf} (hb : aget (s.tc tc).bufs (tBuf r) = some b) (hst : b.st ≠ .stationary ∨ late = true) :
    bufferChk s tc r late = .error b.st.code := by
  rcases hst with h | h <;> simp [bufferChk, hb, h]

theorem bufferChk_ok {b : Buf} (hb : aget (s.tc tc).bufs (tBuf r) = some b) (hst : b.st = .stationary) : bufferChk s tc r false = .ok b := by
  simp [bufferChk, hb, hst]

theorem startState_fails {b : Buf} {e : RunErr} (h : spec = true ∨ ((s.tc tc).acc acc).shadow = none) (hb : bufferChk s tc r i.late = .ok b)
    (he : taskOps s tc r (agetD (s.tc tc).slots (tSlot r) {}) b (((s.tc tc).acc acc).kind != 0) = .error e) :
    startState tc acc i r spec s = itemFault tc i (RunErr.flt r e) s := by
  rw [startState_open h, hb]
  dsimp only
  rw [he]

theorem startState_runs {b : Buf} {o : TaskOps} (h : spec = true ∨ ((s.tc tc).acc acc).shadow = none) (hb : bufferChk s tc r i.late = .ok b)
    (ho : taskOps s tc r (agetD (s.tc tc).slots (tSlot r) {}) b (((s.tc tc).acc acc).kind != 0) = .ok o) :
    startState tc acc i r spec s = startTask tc i acc spec s := by
  rw [startState_open h, hb]
  dsimp only
  rw [ho]

theorem taskBufDetail_eq (r : Line) (st tile : Nat) : taskBufDetail r st tile =
    BitVec.ofNat 256 ((bufferDetail (tBuf r) st tile).toNat + 2 ^ 32 * (taskDetail r 0).toNat) := by
  rw [taskBufDetail, at_, Nat.mul_comm]

theorem flt_header (r : Line) (off hdr step : Nat) : RunErr.flt r (.header off hdr step) =
    { cause := 0x11, detail := BitVec.ofNat 256 (0xF0 + 2 ^ 8 * hdr + 2 ^ 24 * step + 2 ^ 32 * (taskDetail r off).toNat) } := by
  simp only [RunErr.flt, at_, Nat.mul_comm]

/-! ## Waiting and retiring -/

/-- A task waits for what its strand wrote before it (10 R256). -/
theorem evTaskStart_of_waiting (ho : (s.tc tc).order acc = i :: rest) (hk : i.kind = .task r spec) (hrel : s.relMet i.strand .pkg i.rel = false) :
    evTaskStart tc acc s = none := by
  simp [evTaskStart, headItem, ho, hk, hrel]

theorem runningOps_eq {b : Buf} {o : TaskOps} (ho : ((s.tc tc).order acc).head? = some i) (hk : i.kind = .task r spec) (hrun : i.running = true)
    (hb : aget (s.tc tc).bufs (tBuf r) = some b)
    (hops : taskOps s tc r (agetD (s.tc tc).slots (tSlot r) {}) b (((s.tc tc).acc acc).kind != 0) = .ok o) :
    runningOps s tc acc = some (i, r, spec, b, o) := by
  simp [runningOps, headItem, ho, hk, hrun, hb, hops]

theorem runningOps_inv {b : Buf} {o : TaskOps} (h : runningOps s tc acc = some (i, r, spec, b, o)) :
    ((s.tc tc).order acc).head? = some i ∧ i.kind = .task r spec ∧ i.running = true ∧ aget (s.tc tc).bufs (tBuf r) = some b ∧
      taskOps s tc r (agetD (s.tc tc).slots (tSlot r) {}) b (((s.tc tc).acc acc).kind != 0) = .ok o := by
  unfold runningOps headItem at h
  split at h
  · split at h
    · split at h
      · cases h
      · split at h
        · cases h
        · split at h
          · cases h
            simp_all
          · cases h
    · cases h
  · cases h

theorem evTaskRetire_of_done {b : Buf} {o : TaskOps} (h : runningOps s tc acc = some (i, r, spec, b, o)) (hdone : segCount o ≤ i.seg) :
    evTaskRetire tc acc s = some (landResult i.txn [] (leaveQueue tc i s)) := by
  simp [evTaskRetire, h, Nat.not_lt.2 hdone]

end Sys2Proof.Proofs.TaskStarts

namespace Sys2Proof.Proofs

open Sys2Proof.Machine Sys2Proof.Claims Sys2Proof.Safety Items TaskStarts

theorem taskStarts : Claims.taskStarts := by
  intro tc acc i rest r spec s hs ho hk hc sl buf a ready start state faulty runs
  refine ⟨fun hrel => exec_of_none rfl (evTaskStart_of_waiting ho hk hrel), fun hrun hstuck hdrop hready hrel => ?_,
    fun b o hrun hb hops hdone => ?_⟩
  · have hslot : slotReady sl i.txn = true := by
      rcases hready with h | ⟨h, hin⟩
      · simp [slotReady, h]
      · simp [slotReady, h, hin]
    have happens {t : State} (ht : startState tc acc i r spec s = t) : Happens start s t :=
      happens_of_some rfl ((evTaskStart_of_startable ⟨hs, ho, hk, hc, hrun, hstuck, hdrop, hslot, hrel⟩).trans (congrArg some ht)) rfl
    have hfault (f : Flt) : itemFault tc i f s = faulty f := itemFault_eq tc i f s
    refine ⟨fun hspec hsh => happens ((startState_shadowed hspec hsh).trans (hfault _)),
      fun hopen => ⟨fun hb => ?_, fun b hb hst => ?_, fun b hb hst hlate => ⟨fun off hops => ?_, fun off hdr step hops => ?_, fun o hops => ?_⟩⟩⟩
    · refine happens ((startState_error hopen (bufferChk_none _ hb)).trans ?_)
      rw [hfault, taskBufDetail_eq]
      rfl
    · refine happens ((startState_error hopen (bufferChk_state hb hst)).trans ?_)
      rw [hfault, taskBufDetail_eq]
      rfl
    all_goals
      have hchk : bufferChk s tc r i.late = .ok b := hlate ▸ bufferChk_ok hb hst
    · exact happens ((startState_fails hopen hchk hops).trans (hfault _))
    · refine happens ((startState_fails hopen hchk hops).trans ?_)
      rw [flt_header]
      exact hfault _
    · have hstart := startState_runs (i := i) (acc := acc) hopen hchk hops
      refine ⟨fun hspec => happens (hstart.trans ?_), fun hspec => happens (hstart.trans ?_)⟩ <;>
        simp only [startTask, runs, hspec] <;> rfl
  · exact happens_of_some rfl (evTaskRetire_of_done (runningOps_eq (by rw [ho]; rfl) hk hrun hb hops) hdone) rfl

end Sys2Proof.Proofs
end

section
/-! SUPPORT. Headers and the number of elements of a block (03 R64 to R67, R71). -/

namespace Sys2Proof.Machine

/-! ## The header (03 R65) -/

theorem blkHdr_fmt (b : Line) : (blkHdr b).fmt = (b.extractLsb' 0 6).toNat := by
  simp [blkHdr, BlkHdr.ofWord]

theorem blkHdr_sfrac (b : Line) : (blkHdr b).sfrac = (b.extractLsb' 6 2).toNat := by
  simp [blkHdr, BlkHdr.ofWord, Nat.shiftRight_eq_div_pow]
  omega

theorem blkHdr_sexp (b : Line) : (blkHdr b).sexp = (b.extractLsb' 8 8).toNat := by
  simp [blkHdr, BlkHdr.ofWord, Nat.shiftRight_eq_div_pow]
  omega

theorem fmt_lt (b : Line) : (b.extractLsb' 0 6).toNat < 64 := (b.extractLsb' 0 6).isLt

/-- The formats that have elements (03 R66, R67 step 1). -/
theorem fmtReserved_eq_false_iff {fmt : Nat} : fmtReserved fmt = false ↔ (1 ≤ fmt ∧ fmt ≤ 6) ∨ fmt = 0x3F := by
  simp [fmtReserved]
  omega

theorem fmtElems_pos {fmt : Nat} (h : fmtReserved fmt = false) : 0 < fmtElems fmt := by
  rcases fmtReserved_eq_false_iff.1 h with ⟨h1, h6⟩ | rfl
  · interval_cases fmt <;> decide
  · decide

/-! ## The Q4X sequence (03 R64) -/

/-- A sequence is malformed only in an escape. -/
theorem esc_of_mal (b : Line) (fuel i : Nat) (h : (q4xFrom b fuel i).mal = true) : (q4xFrom b fuel i).esc = true := by
  induction fuel generalizing i with
  | zero => exact h
  | succ fuel ih =>
    simp only [q4xFrom] at h ⊢
    split at h <;> rename_i hi
    · cases h
    · rw [if_neg hi]
      split at h <;> rename_i hc
      · rw [if_pos hc]
        exact ih _ h
      · rw [if_neg hc]
        split <;> rfl

theorem length_q4xFrom (b : Line) (fuel i : Nat) (hf : 124 ≤ i + fuel) (h : (q4xFrom b fuel i).mal = false) :
    (q4xFrom b fuel i).elems.length = 124 - i := by
  induction fuel generalizing i with
  | zero =>
    simp [q4xFrom]
    omega
  | succ fuel ih =>
    simp only [q4xFrom] at h ⊢
    split at h <;> rename_i hi
    · rw [if_pos hi]
      simp
      omega
    · rw [if_neg hi]
      split at h <;> rename_i hc
      · rw [if_pos hc]
        have := ih (i + 1) (by omega) h
        simp only [List.length_cons, this]
        omega
      · rw [if_neg hc]
        split at h <;> rename_i hl
        · cases h
        · rw [if_neg hl]
          have := ih (i + 3) (by omega) h
          simp only [List.length_cons, this]
          omega

theorem length_q4xSeq {b : Line} (h : (q4xSeq b).mal = false) : (q4xSeq b).elems.length = 124 := length_q4xFrom b 125 0 (by omega) h

/-! ## Elements (03 R66, R67) -/

theorem length_rawElems {b : Line} {fmt : Nat} (h : 1 ≤ fmt ∧ fmt ≤ 6) (hm : fmt = 1 → (q4xSeq b).mal = false) :
    (rawElems b fmt).length = fmtElems fmt := by
  obtain ⟨h1, h6⟩ := h
  interval_cases fmt
  · exact length_q4xSeq (hm rfl)
  all_goals simp [rawElems, fmtElems]

theorem decodeBlock_isSome {b : Line} (h : fmtReserved (blkHdr b).fmt = false) : ∃ vs, decodeBlock b = some vs := by
  unfold decodeBlock
  simp only [h, Bool.false_eq_true, if_false]
  repeat' split
  all_goals exact ⟨_, rfl⟩

theorem length_decodeBlock {b : Line} {vs : List FVal} (h : decodeBlock b = some vs) : vs.length = fmtElems (blkHdr b).fmt := by
  unfold decodeBlock at h
  dsimp only at h
  split at h
  · cases h
  · rename_i hres
    split at h
    next hf =>
      cases h
      rw [List.length_replicate, beq_iff_eq.1 hf]
      rfl
    next hf =>
      split at h
      · cases h
        exact List.length_replicate
      · split at h
        next hq =>
          cases h
          obtain ⟨h1, -⟩ := Bool.and_eq_true_iff.1 hq
          rw [List.length_replicate, beq_iff_eq.1 h1]
          rfl
        next hq =>
          split at h
          · cases h
            exact List.length_replicate
          · cases h
            rw [List.length_map]
            have hfmt : (1 ≤ (blkHdr b).fmt ∧ (blkHdr b).fmt ≤ 6) ∨ (blkHdr b).fmt = 0x3F := fmtReserved_eq_false_iff.1 (by simpa using hres)
            exact length_rawElems (hfmt.resolve_right (by simpa using hf)) (fun h1 => by simpa [h1] using hq)

end Sys2Proof.Machine
end

section
/-! SUPPORT. The runs of blocks of a task, their elements, and the order in which they are checked (09 R222; 03 R67, R71). -/

namespace Sys2Proof.Proofs.Runs

open Sys2Proof.Machine Sys2Proof.Claims

theorem hdrStep_eq_badHeader (int : Bool) (b : Line) : hdrStep int b = badHeader int b := by
  simp only [hdrStep, badHeader, blkHdr_fmt]
  cases int <;> simp [and_assoc]

/-- A block whose header passes is of a format with elements. -/
theorem fmtReserved_of_readable {get : Nat → Line} {lim : Nat} {int : Bool} {i : Nat} (h : readable get lim int i) :
    fmtReserved (blkHdr (get i)).fmt = false := by
  obtain ⟨-, hb⟩ := h
  by_contra hr
  rw [Bool.not_eq_false] at hr
  simp [badHeader, hr] at hb

/-! ## How far a run reaches -/

/-- How many elements the `q` blocks from `start` on hold. -/
def elemsIn (get : Nat → Line) (start q : Nat) : Nat := ((List.range q).map (fun p => fmtElems (blkHdr (get (start + p))).fmt)).sum

theorem needed_iff {get : Nat → Line} {k start q : Nat} : needed get k start q ↔ elemsIn get start q < k := Iff.rfl

theorem elemsIn_succ (get : Nat → Line) (start q : Nat) :
    elemsIn get start (q + 1) = fmtElems (blkHdr (get start)).fmt + elemsIn get (start + 1) q := by
  simp [elemsIn, List.range_succ_eq_map, Function.comp_def, Nat.add_assoc, Nat.add_comm 1]

variable {get : Nat → Line} {lim : Nat} {int : Bool}

/-- A run whose needed blocks may all be read is a range of blocks that hold enough. -/
theorem runBlocks_ok (fuel : Nat) : ∀ (need start : Nat), 0 < need → need ≤ fuel → Claims.runs get lim int need start →
    ∃ m, runBlocks get lim int fuel start need = .ok ((List.range m).map (start + ·)) ∧ m ≤ need ∧
      (∀ p < m, readable get lim int (start + p)) ∧ need ≤ elemsIn get start m := by
  induction fuel with
  | zero => omega
  | succ fuel ih =>
    intro need start hpos hfuel hruns
    have hread : readable get lim int start := hruns 0 hpos
    have hsome := fmtElems_pos (fmtReserved_of_readable hread)
    obtain ⟨hlim, hhdr⟩ := hread
    simp only [runBlocks, hdrStep_eq_badHeader, hhdr, if_neg (Nat.not_le.2 hlim)]
    by_cases hn : need ≤ fmtElems (blkHdr (get start)).fmt
    · refine ⟨1, by rw [if_pos hn]; rfl, hpos, fun p hp => ?_, by simpa [elemsIn] using hn⟩
      obtain rfl : p = 0 := by omega
      exact ⟨hlim, hhdr⟩
    · rw [if_neg hn]
      obtain ⟨m, hm, hle, hall, henough⟩ := ih (need - fmtElems (blkHdr (get start)).fmt) (start + 1) (by omega) (by omega) (fun q hq => by
        rw [needed_iff] at hq
        rw [Nat.add_assoc, Nat.add_comm 1]
        exact hruns (q + 1) (by rw [needed_iff, elemsIn_succ]; omega))
      refine ⟨m + 1, ?_, by omega, fun p hp => ?_, by rw [elemsIn_succ]; omega⟩
      · rw [hm, List.range_succ_eq_map]
        simp [Function.comp_def, Nat.add_assoc, Nat.add_comm 1]
      · cases p with
        | zero => exact ⟨hlim, hhdr⟩
        | succ p => simpa [Nat.add_assoc, Nat.add_comm 1] using hall p (by omega)

/-- A run fails with the report of its first block that may not be read. -/
theorem runBlocks_error {e : RunErr} (fuel : Nat) : ∀ (need start : Nat), need ≤ fuel → runFails get lim int need start e →
    runBlocks get lim int fuel start need = .error e := by
  induction fuel with
  | zero =>
    rintro need start hfuel ⟨q, hq, -⟩
    rw [needed_iff] at hq
    omega
  | succ fuel ih =>
    rintro need start hfuel ⟨q, hq, hbefore, hbad⟩
    cases q with
    | zero =>
      rcases hbad with ⟨hlim, rfl⟩ | ⟨hlim, step, hstep, rfl⟩
      · exact if_pos hlim
      · simp only [Nat.add_zero] at hlim hstep
        simp only [runBlocks, hdrStep_eq_badHeader, hstep, if_neg (Nat.not_le.2 hlim), Nat.add_zero]
        rfl
    | succ q =>
      have hread : readable get lim int start := hbefore 0 (Nat.succ_pos q)
      have hsome := fmtElems_pos (fmtReserved_of_readable hread)
      obtain ⟨hlim, hhdr⟩ := hread
      have hmore : ¬ need ≤ fmtElems (blkHdr (get start)).fmt := by
        rw [needed_iff, elemsIn_succ] at hq
        omega
      simp only [runBlocks, hdrStep_eq_badHeader, hhdr, if_neg (Nat.not_le.2 hlim), if_neg hmore]
      have shift (p : Nat) : start + (p + 1) = start + 1 + p := by omega
      rw [ih (need - fmtElems (blkHdr (get start)).fmt) (start + 1) (by omega)
        ⟨q, by rw [needed_iff, elemsIn_succ] at hq; rw [needed_iff]; omega, fun p hp => shift p ▸ hbefore (p + 1) (by omega), shift q ▸ hbad⟩]

/-! ## The elements of a run -/

theorem length_blkValues {i : Nat} (h : readable get lim int i) : (blkValues int (get i)).length = fmtElems (blkHdr (get i)).fmt := by
  have hres := fmtReserved_of_readable h
  obtain ⟨-, hb⟩ := h
  cases int with
  | false =>
    obtain ⟨vs, hvs⟩ := decodeBlock_isSome hres
    simp [blkValues, hvs, length_decodeBlock hvs]
  | true =>
    unfold blkValues
    rw [if_pos rfl]
    split
    · exact List.length_replicate
    · rename_i hz
      simp only [Bool.or_eq_true, beq_iff_eq, not_or] at hz
      refine length_rawElems ((fmtReserved_eq_false_iff.1 hres).resolve_right hz.1) (fun h1 => ?_)
      by_contra hmal
      have hesc : (q4xSeq (get i)).esc = true := esc_of_mal _ _ _ (Bool.not_eq_false _ ▸ hmal)
      rw [blkHdr_fmt] at h1
      simp only [badHeader, h1, hesc, hres] at hb
      simp at hb

/-- The elements of block `q` of a run, each with its block. -/
def blockOf (get : Nat → Line) (int : Bool) (start q : Nat) : List (Nat × FVal) := (blkValues int (get (start + q))).map (fun v => (start + q, v))

theorem runOf_eq (k start : Nat) : runOf get int k start = ((List.range k).flatMap (blockOf get int start)).take k := by
  unfold runOf
  congr 2
  funext q
  cases int <;> simp [blockOf, blkValues]

theorem runElems_eq (k start m : Nat) :
    runElems get int k ((List.range m).map (start + ·)) = ((List.range m).flatMap (blockOf get int start)).take k := by
  rw [runElems, List.flatMap_map]
  rfl

theorem length_blocks {start m : Nat} (hall : ∀ p < m, readable get lim int (start + p)) :
    ((List.range m).flatMap (blockOf get int start)).length = elemsIn get start m := by
  rw [List.length_flatMap, elemsIn]
  congr 1
  refine List.map_congr_left (fun p hp => ?_)
  rw [blockOf, List.length_map, length_blkValues (hall p (List.mem_range.1 hp))]

/-- The first `k` elements lie in the blocks that hold enough. -/
theorem runElems_eq_runOf {k start m : Nat} (hm : m ≤ k) (hall : ∀ p < m, readable get lim int (start + p)) (henough : k ≤ elemsIn get start m) :
    runElems get int k ((List.range m).map (start + ·)) = runOf get int k start := by
  obtain ⟨r, rfl⟩ := Nat.exists_eq_add_of_le hm
  rw [runElems_eq, runOf_eq, List.range_add, List.flatMap_append, List.take_append_of_le_length]
  rwa [length_blocks hall]

/-- A run that holds is read as the statement reads it. -/
theorem runBlocks_elems {k start : Nat} (h : Claims.runs get lim int k start) :
    ∃ is, runBlocks get lim int k start k = .ok is ∧ runElems get int k is = runOf get int k start := by
  rcases Nat.eq_zero_or_pos k with rfl | hk
  · exact ⟨[], rfl, rfl⟩
  · obtain ⟨m, hok, hm, hall, henough⟩ := runBlocks_ok k k start hk le_rfl h
    exact ⟨_, hok, runElems_eq_runOf hm hall henough⟩

/-! ## All runs, one after another -/

theorem mapExcept_ok {ε β γ δ : Type} {f : β → Except ε γ} {g : γ → δ} {h : β → δ} {l : List β} (hl : ∀ x ∈ l, ∃ y, f x = .ok y ∧ g y = h x) :
    ∃ ys, mapExcept f l = .ok ys ∧ ys.map g = l.map h := by
  induction l with
  | nil => exact ⟨[], rfl, rfl⟩
  | cons x l ih =>
    obtain ⟨⟨y, hy, hgy⟩, hl⟩ := List.forall_mem_cons.1 hl
    obtain ⟨ys, hys, hg⟩ := ih hl
    exact ⟨y :: ys, by simp only [mapExcept, hy, hys], by rw [List.map_cons, List.map_cons, hgy, hg]⟩

/-- The first of a list that fails. -/
theorem mapExcept_error {ε β γ : Type} {f : β → Except ε γ} {pre post : List β} {x : β} {e : ε} (hpre : ∀ y ∈ pre, ∃ z, f y = .ok z)
    (hx : f x = .error e) : mapExcept f (pre ++ x :: post) = .error e := by
  induction pre with
  | nil => simp only [List.nil_append, mapExcept, hx]
  | cons y pre ih =>
    obtain ⟨⟨z, hz⟩, hpre⟩ := List.forall_mem_cons.1 hpre
    simp only [List.cons_append, mapExcept, hz, ih hpre]

theorem mapExcept_range_error {ε γ : Type} {f : Nat → Except ε γ} {n m : Nat} {e : ε} (hm : m < n) (hpre : ∀ j < m, ∃ z, f j = .ok z)
    (he : f m = .error e) : mapExcept f (List.range n) = .error e := by
  obtain ⟨r, rfl⟩ := Nat.exists_eq_add_of_lt hm
  rw [Nat.add_assoc, List.range_add, List.range_succ_eq_map, List.map_cons]
  exact mapExcept_error (fun j hj => hpre j (List.mem_range.1 hj)) he

end Sys2Proof.Proofs.Runs
end

section
/-! SUPPORT. The segments of an element, as the places at which either run changes block (03 R70, R71). -/

namespace Sys2Proof.Proofs.Segments

open Sys2Proof.Machine

variable {κ β : Type} [DecidableEq κ]

/-- The key changes after place `j`, or the list ends there. -/
def cutAfter (l : List (κ × β)) (j : Nat) : Bool := (l[j]?.map (fun p => p.1)) != (l[j + 1]?.map (fun p => p.1))

/-- How many changes come before place `j`. -/
def cutsBefore (l : List (κ × β)) (j : Nat) : Nat := ((List.range j).filter (cutAfter l)).length

/-- The values at the places that `n` changes come before. -/
def piece (l : List (κ × β)) (n : Nat) : List β :=
  ((List.range l.length).filter (fun j => cutsBefore l j = n)).filterMap (fun j => l[j]?.map (fun p => p.2))

theorem cutsBefore_cons_succ (p : κ × β) (l : List (κ × β)) (j : Nat) :
    cutsBefore (p :: l) (j + 1) = (cutAfter (p :: l) 0).toNat + cutsBefore l j := by
  have htail : (List.range j).filter (cutAfter (p :: l) ∘ Nat.succ) = (List.range j).filter (cutAfter l) := by
    congr 1
  rw [cutsBefore, cutsBefore, List.range_succ_eq_map, List.filter_cons, List.filter_map, htail]
  cases cutAfter (p :: l) 0 <;> simp [Nat.add_comm]

theorem cutAfter_cons (p q : κ × β) (l : List (κ × β)) : cutAfter (p :: q :: l) 0 = decide (p.1 ≠ q.1) := by
  simp [cutAfter, bne, decide_not]
  rfl

/-- The pieces of a longer list: those of the list, the first of them with the new value, or after a piece of that value alone. -/
theorem piece_cons (p : κ × β) (l : List (κ × β)) (n : Nat) : piece (p :: l) n =
    (if n = 0 then [p.2] else []) ++
      (if n < (cutAfter (p :: l) 0).toNat then [] else piece l (n - (cutAfter (p :: l) 0).toNat)) := by
  have htail : ((List.range l.length).filter (fun j => decide (cutsBefore (p :: l) (j + 1) = n))).filterMap (fun j => l[j]?.map (fun q => q.2)) =
      if n < (cutAfter (p :: l) 0).toNat then [] else piece l (n - (cutAfter (p :: l) 0).toNat) := by
    simp only [cutsBefore_cons_succ]
    generalize (cutAfter (p :: l) 0).toNat = c
    split
    next hlt => simp [show ∀ j, ¬ c + cutsBefore l j = n from fun j => by omega]
    next hle => simp only [piece, show ∀ j, c + cutsBefore l j = n ↔ cutsBefore l j = n - c from fun j => by omega]
  rw [← htail, piece, List.length_cons, List.range_succ_eq_map, List.filter_cons]
  by_cases hn : n = 0
  · subst hn
    simp [cutsBefore, List.filter_map, List.filterMap_map, Function.comp_def]
  · have h0 : ¬ cutsBefore (p :: l) 0 = n := fun h => hn h.symm
    simp [hn, h0, List.filter_map, List.filterMap_map, Function.comp_def]

theorem cutRuns_cons_key (p : κ × β) (l : List (κ × β)) : ∃ ps rest, cutRuns (p :: l) = (p.1, ps) :: rest := by
  unfold cutRuns
  split
  · split <;> exact ⟨_, _, rfl⟩
  · exact ⟨_, _, rfl⟩

theorem cutRuns_eq (l : List (κ × β)) :
    (cutRuns l).map (fun s => s.2) = (List.range (if l = [] then 0 else cutsBefore l (l.length - 1) + 1)).map (piece l) := by
  induction l with
  | nil => rfl
  | cons p l ih =>
    cases l with
    | nil =>
      have hp : piece [p] 0 = [p.2] := by simp [piece_cons, cutAfter]
      simp [cutRuns, cutsBefore, hp]
    | cons q l =>
      obtain ⟨ps, rest, hcut⟩ := cutRuns_cons_key q l
      simp only [reduceCtorEq, if_false, List.length_cons, Nat.add_sub_cancel] at ih ⊢
      rw [hcut, List.map_cons, List.range_succ_eq_map, List.map_cons, List.map_map, List.cons.injEq] at ih
      obtain ⟨hps, hrest⟩ := ih
      replace hps : ps = piece (q :: l) 0 := hps
      rw [cutRuns, hcut, cutsBefore_cons_succ, cutAfter_cons]
      dsimp only
      by_cases hk : p.1 = q.1
      · have hsucc : piece (p :: q :: l) ∘ Nat.succ = piece (q :: l) ∘ Nat.succ := by
          funext n
          simp [piece_cons p, cutAfter_cons, hk]
        simp [hk, hps, hrest, List.range_succ_eq_map, hsucc, piece_cons p, cutAfter_cons]
      · have hsucc : piece (p :: q :: l) ∘ Nat.succ = piece (q :: l) := by
          funext n
          simp [piece_cons p, cutAfter_cons, hk]
        have hfirst : piece (p :: q :: l) 0 = [p.2] := by simp [piece_cons p, cutAfter_cons, hk]
        rw [if_neg hk, show decide (p.1 ≠ q.1) = true by simp [hk], Bool.toNat_true, Nat.add_comm 1,
          List.range_succ_eq_map (n := cutsBefore (q :: l) l.length + 1), List.map_cons (f := piece (p :: q :: l)), List.map_map, hsucc, hfirst]
        simp [hps, hrest, List.range_succ_eq_map]

end Sys2Proof.Proofs.Segments
end

section
/-! SUPPORT. What a task reads, and the sums of its segments (09 R222, R226; 03 R66, R67, R70, R71). -/

namespace Sys2Proof.Machine

theorem State.tc_modTc_same (s : State) (tc : TileCtx) (f : TCtx → TCtx) : (s.modTc tc f).tc tc = f (s.tc tc) := by
  simp [State.tc, State.modTc]

theorem State.tc_commit (m : List Host.Cell) (s : State) (tc : TileCtx) : (commit m s).tc tc = s.tc tc := rfl

theorem TCtx.acc_setAcc_same (t : TCtx) (a : Nat) (f : Acc → Acc) : (t.setAcc a f).acc a = f (t.acc a) := by
  simp [TCtx.acc, TCtx.setAcc, agetD]

end Sys2Proof.Machine

namespace Sys2Proof.Proofs.Segments

open Sys2Proof.Machine Sys2Proof.Claims Sys2Proof.Safety HostAccess Items TaskStarts Runs

/-! ## Segments of two runs -/

theorem segments_eq (a w : List (Nat × FVal)) :
    let ps := a.zip w
    let cut (j : Nat) : Bool := (ps[j]?.map (fun p => (p.1.1, p.2.1))) != (ps[j + 1]?.map (fun p => (p.1.1, p.2.1)))
    let no (j : Nat) : Nat := ((List.range j).filter cut).length
    segments a w = (List.range (if ps = [] then 0 else no (ps.length - 1) + 1)).map (fun n =>
      ((List.range ps.length).filter (fun j => no j = n)).filterMap (fun j => ps[j]?.map (fun p => (p.1.2, p.2.2)))) := by
  intro ps cut no
  have hcut : cutAfter (ps.map (fun p => ((p.1.1, p.2.1), (p.1.2, p.2.2)))) = cut := by
    funext j
    rw [Bool.eq_iff_iff]
    simp only [cutAfter, cut, bne_iff_ne, List.getElem?_map, Option.map_map, Function.comp_def]
  have hno (j : Nat) : cutsBefore (ps.map (fun p => ((p.1.1, p.2.1), (p.1.2, p.2.2)))) j = no j := by rw [cutsBefore, hcut]
  have hpiece : piece (ps.map (fun p => ((p.1.1, p.2.1), (p.1.2, p.2.2)))) = fun n =>
      ((List.range ps.length).filter (fun j => no j = n)).filterMap (fun j => ps[j]?.map (fun p => (p.1.2, p.2.2))) := by
    funext n
    simp [piece, hno, Function.comp_def]
  rw [segments, cutRuns_eq, hpiece, hno]
  simp only [List.length_map, List.map_eq_nil_iff]
  rfl

/-! ## The longest -/

theorem foldl_max_spec (l : List Nat) (n : Nat) : n ≤ l.foldl max n ∧ (∀ x ∈ l, x ≤ l.foldl max n) ∧ (l.foldl max n = n ∨ l.foldl max n ∈ l) := by
  induction l generalizing n with
  | nil => simp
  | cons x l ih =>
    obtain ⟨hn, hl, hat⟩ := ih (max n x)
    rw [List.foldl_cons]
    refine ⟨le_trans (le_max_left ..) hn, List.forall_mem_cons.2 ⟨le_trans (le_max_right ..) hn, hl⟩, ?_⟩
    rcases hat with h | h
    · rw [h]
      rcases max_choice n x with h | h <;> simp [h]
    · exact .inr (List.mem_cons_of_mem _ h)

theorem segCount_eq (o : TaskOps) : segCount o = (o.rows.flatMap (fun a => o.cols.map (fun w => (segments a w).length))).foldl max 0 := by
  rw [segCount, List.foldl_flatMap]
  simp only [List.foldl_map]

theorem length_segments_le {o : TaskOps} {a w : List (Nat × FVal)} (ha : a ∈ o.rows) (hw : w ∈ o.cols) : (segments a w).length ≤ segCount o := by
  rw [segCount_eq]
  exact (foldl_max_spec _ 0).2.1 _ (List.mem_flatMap.2 ⟨a, ha, List.mem_map.2 ⟨w, hw, rfl⟩⟩)

theorem exists_longest {o : TaskOps} (h : segCount o ≠ 0) : ∃ a ∈ o.rows, ∃ w ∈ o.cols, (segments a w).length = segCount o := by
  rw [segCount_eq] at h ⊢
  obtain ⟨a, ha, hin⟩ := List.mem_flatMap.1 ((foldl_max_spec _ 0).2.2.resolve_left h)
  obtain ⟨w, hw, he⟩ := List.mem_map.1 hin
  exact ⟨a, ha, w, hw, he⟩

/-! ## The sums of a segment -/

/-- A segment added to one place of a map. -/
def addAt (kind : Nat) (els : Assoc Nat (BitVec 40)) (c : Nat × Option (List (FVal × FVal))) : Assoc Nat (BitVec 40) :=
  match c.2 with
  | none => els
  | some sg => aput els c.1 (addSegment kind (agetD els c.1 0) sg)

theorem agetD_addAt_other (kind : Nat) (els : Assoc Nat (BitVec 40)) {c : Nat × Option (List (FVal × FVal))} {e : Nat} (h : c.1 ≠ e) :
    agetD (addAt kind els c) e 0 = agetD els e 0 := by
  unfold addAt
  split
  · rfl
  · simp [agetD, aget_aput_other _ _ h]

theorem agetD_foldl_addAt_other (kind : Nat) {cs : List (Nat × Option (List (FVal × FVal)))} {e : Nat} (h : ∀ sg, (e, some sg) ∉ cs)
    (els : Assoc Nat (BitVec 40)) : agetD (cs.foldl (addAt kind) els) e 0 = agetD els e 0 := by
  induction cs generalizing els with
  | nil => rfl
  | cons c cs ih =>
    rw [List.foldl_cons, ih (fun sg hsg => h sg (List.mem_cons_of_mem _ hsg))]
    by_cases hc : c.1 = e
    · obtain ⟨e', x⟩ := c
      cases x with
      | none => rfl
      | some sg => exact absurd (by rw [← show e' = e from hc]; exact List.mem_cons_self) (h sg)
    · exact agetD_addAt_other kind els hc

/-- Where each place is met once, its segment is added to what it held. -/
theorem agetD_foldl_addAt (kind : Nat) {cs : List (Nat × Option (List (FVal × FVal)))} (hd : (cs.map Prod.fst).Nodup) {e : Nat}
    {sg : List (FVal × FVal)} (h : (e, some sg) ∈ cs) (els : Assoc Nat (BitVec 40)) :
    agetD (cs.foldl (addAt kind) els) e 0 = addSegment kind (agetD els e 0) sg := by
  induction cs generalizing els with
  | nil => cases h
  | cons c cs ih =>
    obtain ⟨hc, hcs⟩ := List.nodup_cons.1 hd
    rw [List.foldl_cons]
    rcases List.mem_cons.1 h with rfl | hin
    · rw [agetD_foldl_addAt_other kind fun sg' hsg => hc (List.mem_map.2 ⟨_, hsg, rfl⟩)]
      simp [addAt, agetD]
    · rw [ih hcs hin, agetD_addAt_other]
      rintro rfl
      exact hc (List.mem_map.2 ⟨_, hin, rfl⟩)

theorem zip_range_eq {β : Type} (l : List (List β)) : (List.range l.length).zip l = (List.range l.length).map (fun m => (m, l.getD m [])) := by
  refine List.ext_getElem (by simp) fun m h1 h2 => ?_
  have hm : m < l.length := by simpa using h2
  simp [List.getElem?_eq_getElem hm]

/-- The places of a task's elements, with segment `j` of each. -/
def cells (r : Line) (o : TaskOps) (j : Nat) : List (Nat × Option (List (FVal × FVal))) :=
  (List.range o.rows.length ×ˢ List.range o.cols.length).map (fun p =>
    (64 * (fld r 56 4 + p.1) + fld r 48 6 + p.2, (segments (o.rows.getD p.1 []) (o.cols.getD p.2 []))[j]?))

theorem addSegments_eq (r : Line) (kind : Nat) (o : TaskOps) (j : Nat) (els : Assoc Nat (BitVec 40)) :
    addSegments r kind o j els = (cells r o j).foldl (addAt kind) els := by
  rw [addSegments, cells, List.foldl_map, zip_range_eq, zip_range_eq, List.foldl_map]
  simp only [List.foldl_map, SProd.sprod, List.product, List.foldl_flatMap]
  rfl

theorem mem_cells {r : Line} {o : TaskOps} {j e : Nat} {x : Option (List (FVal × FVal))} : (e, x) ∈ cells r o j ↔
    ∃ m < o.rows.length, ∃ n < o.cols.length, e = 64 * (fld r 56 4 + m) + fld r 48 6 + n ∧
      x = (segments (o.rows.getD m []) (o.cols.getD n []))[j]? := by
  constructor
  · intro h
    obtain ⟨⟨m, n⟩, hmn, he⟩ := List.mem_map.1 h
    obtain ⟨hm, hn⟩ := List.mem_product.1 hmn
    cases he
    exact ⟨m, List.mem_range.1 hm, n, List.mem_range.1 hn, rfl, rfl⟩
  · rintro ⟨m, hm, n, hn, rfl, rfl⟩
    exact List.mem_map.2 ⟨(m, n), List.mem_product.2 ⟨List.mem_range.2 hm, List.mem_range.2 hn⟩, rfl⟩

theorem nodup_cells {r : Line} {o : TaskOps} (hcols : fld r 48 6 + o.cols.length ≤ 64) (j : Nat) : ((cells r o j).map Prod.fst).Nodup := by
  rw [cells, List.map_map]
  refine (List.Nodup.product List.nodup_range List.nodup_range).map_on fun p hp q hq he => ?_
  obtain ⟨-, hp⟩ := List.mem_product.1 hp
  obtain ⟨-, hq⟩ := List.mem_product.1 hq
  rw [List.mem_range] at hp hq
  simp only [Function.comp_apply] at he
  exact Prod.ext (by omega) (by omega)

/-- The model's sum is that of 03 R70 and R71. -/
theorem addSegment_eq (kind : Nat) (old : BitVec 40) (seg : List (FVal × FVal)) : addSegment kind old seg =
    if kind = 0 then BitVec.ofNat 40 (fp40.arith .rne false ((fp40.decode old.toNat).add .rne (sumTerms .rne (seg.map (fun q => q.1.mul q.2)))))
    else
      let total := old.toInt + (seg.map (fun q => q.1.int * q.2.int)).sum
      BitVec.ofInt 40 (if kind = 2 then max (-(2 ^ 39)) (min (2 ^ 39 - 1) total) else total) := by
  unfold addSegment addInt40
  split
  · rfl
  · simp only [Integers.clampInt_eq (show -(2 ^ 39 : Int) ≤ 2 ^ 39 - 1 by norm_num)]

/-- An accumulator tile with a segment added: in its elements, or in the shadow of a speculative task (09 R226). -/
def added (r : Line) (spec : Bool) (o : TaskOps) (j : Nat) (x : Acc) : Acc :=
  if spec then { x with shadow := some (addSegments r x.kind o j (x.shadow.getD x.els)) }
  else { x with els := addSegments r x.kind o j x.els }

/-- A task after a segment: it goes on, unless ACCDSC stops it. -/
def goesOn (j : TItem) : TItem := { j with seg := j.seg + 1, retest := false, running := !j.drop }

/-- A running task's next segment is added, and the task goes on (09 R222). -/
theorem evSegmentComplete_of_running {s : State} {tc : TileCtx} {acc : Nat} {i : TItem} {r : Line} {spec : Bool} {b : Buf} {o : TaskOps}
    (hs : sound s) (hres : s.residues = []) (hrun : runningOps s tc acc = some (i, r, spec, b, o)) (hc : ctxRuns s tc.ctx = true)
    (hseg : i.seg < segCount o) : evSegmentComplete tc acc s =
      some ((addSegmentTo tc acc r spec o i.seg s).modTc tc (fun t => t.setItem i.txn goesOn)) := by
  have htest := any_eq_false (testing_of_sound hs)
  have hnone : ∀ us : List RUnit, us.find? (fun _ => false) = none := fun us => List.find?_eq_none.2 (by simp)
  simp [evSegmentComplete, hrun, hc, Nat.not_le.2 hseg, testOf_of_sound hs, htest, unusable_of_sound hs, consumeAll_of_sound hs, hres, hnone]
  rfl

end Sys2Proof.Proofs.Segments

namespace Sys2Proof.Proofs

open Sys2Proof.Machine Sys2Proof.Claims Sys2Proof.Safety Items TaskStarts Runs Segments

theorem taskOperands : Claims.taskOperands := by
  refine ⟨fun s tc r sl b int => ?_, segments_eq, fun o => ⟨fun a ha w hw => length_segments_le ha hw, exists_longest⟩,
    fun s tc acc i r spec b o => ⟨runningOps_inv, fun ⟨ho, hk, hrun, hb, hops⟩ => runningOps_eq ho hk hrun hb hops⟩⟩
  intro f k slot region row col rowRuns colRuns ops
  have hrow {m : Nat} (h : rowRuns m) : ∃ is, runBlocks (slotBlock sl) 512 int k (row m) k = .ok is ∧
      runElems (slotBlock sl) int k is = runOf slot int k (row m) := runBlocks_elems h
  have hcol {n : Nat} (h : colRuns n) : ∃ is, runBlocks region (b.size / 64) int k (col n) k = .ok is ∧
      runElems region int k is = runOf region int k (col n) := runBlocks_elems h
  have hops : ops = match mapExcept (fun m => runBlocks (slotBlock sl) 512 int k (row m) k) (List.range (f 32 5)) with
    | .error e => .error e
    | .ok as => match mapExcept (fun n => runBlocks region (b.size / 64) int k (col n) k) (List.range (f 40 7)) with
      | .error e => .error e
      | .ok ws => .ok
        { rows := as.map (runElems (slotBlock sl) int k), cols := ws.map (runElems region int k)
          slotBlks := as.flatten.eraseDups, bufBlks := ws.flatten.eraseDups } := rfl
  have hrows (h : ∀ m < f 32 5, rowRuns m) : ∃ as, mapExcept (fun m => runBlocks (slotBlock sl) 512 int k (row m) k) (List.range (f 32 5)) = .ok as ∧
      as.map (runElems (slotBlock sl) int k) = (List.range (f 32 5)).map (fun m => runOf slot int k (row m)) :=
    mapExcept_ok fun m hm => hrow (h m (List.mem_range.1 hm))
  refine ⟨fun hr hc => ?_, fun m hm hbefore e he => ?_, fun n hn hr hbefore e he => ?_⟩
  · obtain ⟨as, has, hrow⟩ := hrows hr
    obtain ⟨ws, hws, hcols⟩ := mapExcept_ok (h := fun n => runOf region int k (col n)) fun n hn => hcol (hc n (List.mem_range.1 hn))
    rw [hops, has, hws]
    exact ⟨_, rfl, hrow, hcols⟩
  · rw [hops, mapExcept_range_error hm (fun j hj => (hrow (hbefore j hj)).imp fun _ h => h.1) (runBlocks_error k k (row m) le_rfl he)]
  · obtain ⟨as, has, -⟩ := hrows hr
    rw [hops, has, mapExcept_range_error hn (fun j hj => (hcol (hbefore j hj)).imp fun _ h => h.1) (runBlocks_error k k (col n) le_rfl he)]

theorem segmentSums : Claims.segmentSums := by
  intro tc acc i r spec b o s hs hres hst hrun hc hseg hdrop hacc hcols honly els at_ kind place sum fold
  have hev := evSegmentComplete_of_running hs hres hrun hc hseg
  generalize ht : (addSegmentTo tc acc r spec o i.seg s).modTc tc (fun t => t.setItem i.txn goesOn) = t at hev
  have htc : t.tc tc = ((s.tc tc).setAcc acc (added r spec o i.seg)).setItem i.txn goesOn := by
    rw [← ht, State.tc_modTc_same, addSegmentTo, State.tc_modTc_same]
    rfl
  have hacc : (t.tc tc).acc acc = added r spec o i.seg ((s.tc tc).acc acc) := by
    rw [htc]
    exact TCtx.acc_setAcc_same ..
  have hels : els (commit s.mem t) = (cells r o i.seg).foldl (addAt kind) (els s) := by
    simp only [els, State.tc_commit, hacc, kind]
    cases spec <;> simp [added, addSegments_eq]
  refine ⟨_, happens_of_some rfl hev rfl, ?_, fun m hm n hn seg hsum => ?_, fun e he => ?_, fun hspec => ?_, ?_, fun j hj htxn => ?_, ?_, ?_⟩
  · have hstores : t.stores = [] := by rw [← ht]; exact hst
    rw [commit, hstores]
    rfl
  · have hadd := agetD_foldl_addAt kind (nodup_cells hcols i.seg) (mem_cells.2 ⟨m, hm, n, hn, rfl, hsum.symm⟩) (els s)
    rw [← hels, addSegment_eq] at hadd
    exact hadd
  · have hkeep := agetD_foldl_addAt_other kind (cs := cells r o i.seg) (e := e) (fun sg hin => ?_) (els s)
    · rw [← hels] at hkeep
      exact hkeep
    · obtain ⟨m, hm, n, hn, hplace, hsum⟩ := mem_cells.1 hin
      exact Option.some_ne_none sg (hsum.trans (he m hm n hn hplace))
  · rw [State.tc_commit, hacc]
    simp [added, hspec]
  · rw [State.tc_commit, hacc]
    cases spec <;> rfl
  · rw [State.tc_commit, htc] at hj
    obtain ⟨j0, hj0, rfl⟩ := List.mem_map.1 hj
    have h0 : j0.txn = i.txn := by
      by_contra hne
      rw [if_neg hne] at htxn
      exact hne htxn
    rw [if_pos h0, honly j0 hj0 h0]
    exact ⟨rfl, congrArg not hdrop⟩
  · rw [State.tc_commit, htc]
    rfl
  · rw [← ht]
    rfl

/-- Settles O36: the checks of a task in their order (`evTaskStart_of_startable`), its runs (`runBlocks_elems`, `runBlocks_error`) and segments
(`cutRuns_eq`), and each sum at its own place (`agetD_foldl_addAt`). -/
theorem taskEvents : Obligations.TaskEvents := ⟨taskStarts, taskOperands, segmentSums⟩

end Sys2Proof.Proofs
end

section
/-! SUPPORT. What the functions of the rounding rules compute, said over the rational numbers (03 R72, R74): the magnitude of an exact
value, its binade, its place on a grid, and the largest finite value. -/

namespace Sys2Proof.Proofs.Rounding

open Sys2Proof.Machine

/-- The magnitude of an exact value. -/
def mag (x : Exact) : ℚ := (x.num.natAbs : ℚ) / x.den * 2 ^ x.e

/-- A value as 03 R72 takes it: not zero, and with a denominator. -/
def Proper (x : Exact) : Prop := x.num ≠ 0 ∧ 0 < x.den

theorem mag_pos {x : Exact} (h : Proper x) : 0 < mag x := by
  have h1 : 0 < x.num.natAbs := Int.natAbs_pos.mpr h.1
  have h2 := h.2
  unfold mag
  positivity

theorem cast_scaleUp (a : Nat) (k : Int) : (scaleUp a k : ℚ) = a * 2 ^ (max k 0) := by
  rw [scaleUp, Nat.cast_mul, Nat.cast_pow, Nat.cast_ofNat, ← zpow_natCast, Int.toNat_eq_max]

theorem over_snd_pos {x : Exact} (h : 0 < x.den) (q : Int) : 0 < (x.over q).2 := Nat.mul_pos h (Nat.two_pow_pos _)

/-- A magnitude over a unit. -/
theorem over_eq {x : Exact} (h : 0 < x.den) (q : Int) : ((x.over q).1 : ℚ) = mag x / 2 ^ q * (x.over q).2 := by
  have hd : (x.den : ℚ) ≠ 0 := by exact_mod_cast h.ne'
  have hexp : x.e + max (q - x.e) 0 = max (x.e - q) 0 + q := by omega
  simp only [Exact.over, cast_scaleUp, mag]
  field_simp
  rw [mul_assoc, mul_assoc, ← zpow_add₀ two_ne_zero, ← zpow_add₀ two_ne_zero, hexp]

/-- The lower neighbour on a grid. -/
theorem onUnit_n (x : Exact) (q : Int) : (x.onUnit q).n = (x.over q).1 / (x.over q).2 := rfl

/-- A numeral times a power of two and the place on a grid. -/
theorem le_onUnit_n_iff {x : Exact} (h : 0 < x.den) (q : Int) (k : Nat) : k ≤ (x.onUnit q).n ↔ (k : ℚ) * 2 ^ q ≤ mag x := by
  have hp : (0 : ℚ) < (x.over q).2 := by exact_mod_cast over_snd_pos h q
  have hq : (0 : ℚ) < 2 ^ q := by positivity
  rw [onUnit_n, Nat.le_div_iff_mul_le (over_snd_pos h q), ← Nat.cast_le (α := ℚ), Nat.cast_mul, over_eq h, mul_le_mul_iff_of_pos_right hp,
    le_div_iff₀ hq]

theorem onUnit_n_lt_iff {x : Exact} (h : 0 < x.den) (q : Int) (k : Nat) : (x.onUnit q).n < k ↔ mag x < (k : ℚ) * 2 ^ q := by
  rw [← not_le, le_onUnit_n_iff h, not_le]

theorem pow_log2_le {n : Nat} (h : n ≠ 0) : (2 : ℚ) ^ (n.log2 : Int) ≤ n := by
  rw [zpow_natCast]; exact_mod_cast Nat.log2_self_le h

theorem lt_pow_log2 (n : Nat) : (n : ℚ) < 2 ^ ((n.log2 : Int) + 1) := by
  have : n < 2 ^ (n.log2 + 1) := Nat.lt_log2_self
  exact_mod_cast this

/-- `2 ^ k` for the binade `k` is the greatest power of two that is not above the magnitude. -/
theorem binade_bounds {x : Exact} (h : Proper x) : (2 : ℚ) ^ x.binade ≤ mag x ∧ mag x < 2 ^ (x.binade + 1) := by
  obtain ⟨hn, hd⟩ := h
  have hn0 : x.num.natAbs ≠ 0 := Int.natAbs_ne_zero.mpr hn
  have hdq : (0 : ℚ) < x.den := by exact_mod_cast hd
  set k : Int := (Nat.log2 x.num.natAbs : Int) - Nat.log2 x.den + x.e with hk
  have hlow : mag x < 2 ^ (k + 1) := by
    have h1 := lt_pow_log2 x.num.natAbs
    have h2 := pow_log2_le hd.ne'
    have hsplit : (2 : ℚ) ^ (k + 1) = 2 ^ ((x.num.natAbs.log2 : Int) + 1) / 2 ^ (x.den.log2 : Int) * 2 ^ x.e := by
      rw [← zpow_sub₀ two_ne_zero, ← zpow_add₀ two_ne_zero]; congr 1; omega
    rw [hsplit, mag]
    refine mul_lt_mul_of_pos_right ?_ (by positivity)
    exact div_lt_div₀ h1 h2 (by positivity) (by positivity)
  have hhigh : (2 : ℚ) ^ (k - 1) ≤ mag x := by
    have h1 := pow_log2_le hn0
    have h2 := (lt_pow_log2 x.den).le
    have hsplit : (2 : ℚ) ^ (k - 1) = 2 ^ (x.num.natAbs.log2 : Int) / 2 ^ ((x.den.log2 : Int) + 1) * 2 ^ x.e := by
      rw [← zpow_sub₀ two_ne_zero, ← zpow_add₀ two_ne_zero]; congr 1; omega
    rw [hsplit, mag]
    refine mul_le_mul_of_nonneg_right ?_ (by positivity)
    exact div_le_div₀ (by positivity) h1 hdq h2
  have hcmp : (x.over k).2 ≤ (x.over k).1 ↔ (2 : ℚ) ^ k ≤ mag x := by
    have := le_onUnit_n_iff hd k 1
    rw [onUnit_n, Nat.le_div_iff_mul_le (over_snd_pos hd k)] at this
    simpa using this
  have hb : x.binade = if (x.over k).2 ≤ (x.over k).1 then k else k - 1 := rfl
  rw [hb]
  split
  · exact ⟨hcmp.mp ‹_›, hlow⟩
  · rw [hcmp, not_le] at *
    exact ⟨hhigh, by simpa using ‹mag x < 2 ^ k›⟩

theorem le_binade_iff {x : Exact} (h : Proper x) (k : Int) : k ≤ x.binade ↔ (2 : ℚ) ^ k ≤ mag x := by
  obtain ⟨h1, h2⟩ := binade_bounds h
  constructor
  · exact fun hk => (zpow_le_zpow_right₀ (by norm_num) hk).trans h1
  · intro hk
    have := (zpow_lt_zpow_iff_right₀ (by norm_num : (1 : ℚ) < 2)).mp (hk.trans_lt h2)
    omega

theorem binade_lt_iff {x : Exact} (h : Proper x) (k : Int) : x.binade < k ↔ mag x < 2 ^ k := by
  rw [← not_le, le_binade_iff h, not_le]

/-! ## The grid of a format -/

theorem grid_q (f : Fmt) (x : Exact) : (f.grid x).q = f.unitOf x.binade := rfl

theorem grid_n_lt {f : Fmt} {x : Exact} (h : Proper x) : (f.grid x).n < 2 ^ (f.fb + 1) := by
  refine (onUnit_n_lt_iff h.2 _ _).mpr ((binade_bounds h).2.trans_le ?_)
  have hle : x.binade + 1 ≤ ((f.fb + 1 : Nat) : Int) + f.unitOf x.binade := by simp only [Fmt.unitOf]; omega
  rw [Nat.cast_pow, Nat.cast_ofNat, ← zpow_natCast, ← zpow_add₀ two_ne_zero]
  exact zpow_le_zpow_right₀ (by norm_num) hle

/-- A value above the largest finite one. -/
theorem beyond_iff (f : Fmt) (n : Nat) (q : Int) : f.beyond n q = true ↔ (f.maxSig : ℚ) * 2 ^ f.maxUnit < n * 2 ^ q := by
  have hu : (0 : ℚ) < 2 ^ f.maxUnit := by positivity
  have hq : (0 : ℚ) < 2 ^ q := by positivity
  simp only [Fmt.beyond]
  split
  · rename_i hk
    rw [decide_eq_true_iff, ← Nat.cast_lt (α := ℚ), cast_scaleUp, max_eq_left hk, zpow_sub₀ two_ne_zero, ← mul_div_assoc, lt_div_iff₀ hu]
  · rename_i hk
    rw [decide_eq_true_iff, ← Nat.cast_lt (α := ℚ), cast_scaleUp, max_eq_left (by omega), neg_sub, zpow_sub₀ two_ne_zero, ← mul_div_assoc,
      div_lt_iff₀ hq]

theorem maxSig_lt (f : Fmt) : f.maxSig < 2 ^ (f.fb + 1) := by
  have := Nat.two_pow_pos (f.fb + 1)
  simp only [Fmt.maxSig]
  split <;> omega

/-- The power of two of a binade lies on the grid. -/
theorem pow_binade_le_grid {f : Fmt} {x : Exact} (h : Proper x) (hq : f.q0 ≤ x.binade) :
    (2 : ℚ) ^ x.binade ≤ (f.grid x).n * 2 ^ (f.grid x).q := by
  have hu : 0 ≤ x.binade - f.unitOf x.binade := by simp only [Fmt.unitOf]; omega
  have hpow : ((2 ^ (x.binade - f.unitOf x.binade).toNat : Nat) : ℚ) * 2 ^ f.unitOf x.binade = 2 ^ x.binade := by
    rw [Nat.cast_pow, Nat.cast_ofNat, ← zpow_natCast, Int.toNat_of_nonneg hu, ← zpow_add₀ two_ne_zero, Int.sub_add_cancel]
  have hn : 2 ^ (x.binade - f.unitOf x.binade).toNat ≤ (f.grid x).n := by
    rw [Fmt.grid, le_onUnit_n_iff h.2, hpow]
    exact (binade_bounds h).1
  rw [← hpow, grid_q]
  exact mul_le_mul_of_nonneg_right (by exact_mod_cast hn) (by positivity)

/-- A magnitude above every finite value of a format overflows in every mode (03 R74). -/
theorem roundFin_of_huge {f : Fmt} {x : Exact} (h : Proper x) (hb : f.maxUnit + f.fb < x.binade) (hq : f.q0 ≤ x.binade) (m : RMode)
    (sat : Bool) : f.roundFin m sat x = f.overflow m sat (decide (x.num < 0)) := by
  have hbig : (f.maxSig : ℚ) * 2 ^ f.maxUnit < 2 ^ x.binade := by
    have h1 : (f.maxSig : ℚ) < 2 ^ ((f.fb : Int) + 1) := by exact_mod_cast maxSig_lt f
    calc (f.maxSig : ℚ) * 2 ^ f.maxUnit < 2 ^ ((f.fb : Int) + 1) * 2 ^ f.maxUnit := mul_lt_mul_of_pos_right h1 (by positivity)
      _ = 2 ^ ((f.fb : Int) + 1 + f.maxUnit) := (zpow_add₀ two_ne_zero _ _).symm
      _ ≤ 2 ^ x.binade := zpow_le_zpow_right₀ (by norm_num) (by omega)
  have hgrid (k : Nat) : f.beyond ((f.grid x).n + k) (f.grid x).q = true := by
    rw [beyond_iff]
    refine hbig.trans_le ((pow_binade_le_grid h hq).trans (mul_le_mul_of_nonneg_right ?_ (by positivity)))
    exact_mod_cast Nat.le_add_right _ k
  rw [Fmt.roundFin, Fmt.finish, hgrid, if_pos rfl]

/-- A magnitude below half the unit of the subnormals lies in the lower half of the first step. -/
theorem grid_of_tiny {f : Fmt} {x : Exact} (h : Proper x) (hb : x.binade < f.q0 - 1) : f.grid x = ⟨0, f.q0, false, .lt⟩ := by
  have hunit : f.unitOf x.binade = f.q0 := by simp only [Fmt.unitOf]; omega
  have hmag : mag x < 2 ^ (f.q0 - 1) := (binade_lt_iff h _).mp hb
  have hpos := mag_pos h
  have hd := over_snd_pos h.2 f.q0
  have hdq : (0 : ℚ) < (x.over f.q0).2 := by exact_mod_cast hd
  have heq := over_eq h.2 f.q0
  have hratio : mag x / 2 ^ f.q0 < 1 / 2 := by
    rw [div_lt_iff₀ (by positivity)]
    rw [zpow_sub_one₀ two_ne_zero] at hmag
    linarith
  have h1 : 0 < (x.over f.q0).1 := by
    have : (0 : ℚ) < (x.over f.q0).1 := by rw [heq]; positivity
    exact_mod_cast this
  have h2 : 2 * (x.over f.q0).1 < (x.over f.q0).2 := by
    have : 2 * ((x.over f.q0).1 : ℚ) < (x.over f.q0).2 := by rw [heq]; nlinarith
    exact_mod_cast this
  rw [Fmt.grid, hunit, Exact.onUnit]
  simp only [Nat.div_eq_of_lt (show (x.over f.q0).1 < (x.over f.q0).2 by omega), Nat.mod_eq_of_lt (show (x.over f.q0).1 < (x.over f.q0).2 by omega)]
  simp [h1.ne', compare_lt_iff_lt.mpr h2]

/-! ## Values of encodings -/

/-- What a finite encoding stands for (03 R60): its sign bit, and a significand over a unit. -/
theorem decode_fin {f : Fmt} {b : Nat} {x : Exact} (h : f.decode b = .fin x) :
    x.den = 1 ∧ x.num ≠ 0 ∧ x.num.natAbs < 2 ^ (f.fb + 1) ∧ f.q0 ≤ x.e ∧ x.e + f.fb + f.bias ≤ max 1 (2 ^ f.eb - 1) ∧
      decide (x.num < 0) = (b / 2 ^ (f.eb + f.fb) % 2 == 1) := by
  have hfr : b % 2 ^ f.fb < 2 ^ f.fb := Nat.mod_lt _ (Nat.two_pow_pos _)
  have hex : b / 2 ^ f.fb % 2 ^ f.eb < 2 ^ f.eb := Nat.mod_lt _ (Nat.two_pow_pos _)
  have hexz : ((b / 2 ^ f.fb % 2 ^ f.eb : Nat) : Int) < 2 ^ f.eb := by exact_mod_cast hex
  have hp : 2 ^ (f.fb + 1) = 2 * 2 ^ f.fb := by rw [pow_succ, Nat.mul_comm]
  simp only [Fmt.decode] at h
  generalize b % 2 ^ f.fb = fr at *
  generalize b / 2 ^ f.fb % 2 ^ f.eb = ex at *
  generalize (b / 2 ^ (f.eb + f.fb) % 2 == 1) = neg at *
  have hsign (n : Nat) (h0 : n ≠ 0) : (if neg then -1 else 1) * (n : Int) ≠ 0 ∧ ((if neg then -1 else 1) * (n : Int)).natAbs = n ∧
      decide ((if neg then -1 else 1) * (n : Int) < 0) = neg := by
    cases neg
    · simp [h0]
    · simp [h0]; omega
  split at h
  · simp at h
  split at h
  · split at h <;> simp at h
  split at h
  · split at h
    · simp at h
    · obtain rfl : _ = x := FVal.fin.inj h
      obtain ⟨s1, s2, s3⟩ := hsign fr (by simpa using ‹¬(fr == 0) = true›)
      exact ⟨rfl, s1, by rw [s2, hp]; omega, le_refl _, by simp only [Fmt.q0]; omega, s3⟩
  · obtain rfl : _ = x := FVal.fin.inj h
    have hex0 : ex ≠ 0 := by simpa using ‹¬(ex == 0) = true›
    obtain ⟨s1, s2, s3⟩ := hsign (2 ^ f.fb + fr) (by have := Nat.two_pow_pos f.fb; omega)
    exact ⟨rfl, s1, by rw [s2, hp]; omega, by simp only [Fmt.q0]; omega, by simp only; omega, s3⟩

theorem proper_of_decode {f : Fmt} {b : Nat} {x : Exact} (h : f.decode b = .fin x) : Proper x := by
  obtain ⟨hd, hn, -⟩ := decode_fin h
  exact ⟨hn, by omega⟩

theorem binade_of_decode {f : Fmt} {b : Nat} {x : Exact} (h : f.decode b = .fin x) :
    f.q0 ≤ x.binade ∧ x.binade + f.bias ≤ max 1 (2 ^ f.eb - 1) := by
  have hx := proper_of_decode h
  obtain ⟨hd, hn, hsig, hlo, hhi, -⟩ := decode_fin h
  have hmag : mag x = x.num.natAbs * 2 ^ x.e := by simp [mag, hd]
  have h1 : (1 : ℚ) ≤ x.num.natAbs := by exact_mod_cast Int.natAbs_pos.mpr hn
  have h2 : (x.num.natAbs : ℚ) < 2 ^ ((f.fb : Int) + 1) := by exact_mod_cast hsig
  constructor
  · rw [le_binade_iff hx, hmag]
    calc (2 : ℚ) ^ f.q0 ≤ 2 ^ x.e := zpow_le_zpow_right₀ (by norm_num) hlo
      _ ≤ _ := le_mul_of_one_le_left (by positivity) h1
  · have : x.binade < (f.fb : Int) + 1 + x.e := by
      rw [binade_lt_iff hx, hmag, zpow_add₀ two_ne_zero]
      exact mul_lt_mul_of_pos_right h2 (by positivity)
    omega

theorem binade_scale (x : Exact) (k : Int) : (x.scale k).binade = x.binade + k := by
  have hover : (x.scale k).over (x.num.natAbs.log2 - x.den.log2 + (x.e + k)) = x.over (x.num.natAbs.log2 - x.den.log2 + x.e) := by
    simp only [Exact.over, Exact.scale]
    congr 2 <;> omega
  have hs : (x.scale k).binade = if ((x.scale k).over (x.num.natAbs.log2 - x.den.log2 + (x.e + k))).2 ≤
      ((x.scale k).over (x.num.natAbs.log2 - x.den.log2 + (x.e + k))).1 then (x.num.natAbs.log2 - x.den.log2 + (x.e + k) : Int)
      else x.num.natAbs.log2 - x.den.log2 + (x.e + k) - 1 := rfl
  have hx : x.binade = if (x.over (x.num.natAbs.log2 - x.den.log2 + x.e)).2 ≤ (x.over (x.num.natAbs.log2 - x.den.log2 + x.e)).1
      then (x.num.natAbs.log2 - x.den.log2 + x.e : Int) else x.num.natAbs.log2 - x.den.log2 + x.e - 1 := rfl
  rw [hs, hx, hover]
  split <;> omega

end Sys2Proof.Proofs.Rounding
end

section
/-! SUPPORT. Floating-point arithmetic (06 R136 to R143). -/

namespace Sys2Proof.Safety

open Sys2Proof.Machine

/-- A function of three words under the instruction's rounding. -/
theorem each_of_float {i : Instr} {rm : Rm} {v : RMode → Word → Word → Word → Word} {f : Iss → Rd → Wv} (he : effOf i = some (effFloat rm v))
    (hg : ∀ y r, w32 (v (y.st.rounding rm) r.aw r.bw r.cw) = f y r) : Each i f :=
  each_of_eq (fun y r => w32 (v (y.st.rounding rm) r.aw r.bw r.cw)) he (fun _ => rfl) hg

end Sys2Proof.Safety

namespace Sys2Proof.Proofs.Floats

open Sys2Proof.Machine Sys2Proof.Claims Sys2Proof.Safety Sys2Proof.Proofs.Rounding Sys2Proof.Proofs.Integers

/-! ## Element by element (06 R136) -/

theorem ofNat_halves (lo hi : Nat) : BitVec.ofNat 32 (lo % 65536 + hi % 65536 * 65536) = BitVec.ofNat 16 hi ++ BitVec.ofNat 16 lo := by
  apply BitVec.eq_of_toNat_eq
  have hlo : lo % 2 ^ 16 < 2 ^ 16 := Nat.mod_lt _ (by decide)
  rw [BitVec.toNat_append, BitVec.toNat_ofNat, BitVec.toNat_ofNat, BitVec.toNat_ofNat, ← Nat.shiftLeft_add_eq_or_of_lt hlo, Nat.shiftLeft_eq]
  omega

theorem perElem_eq_packed {ty : Ty} (hty : floating ty) (g : Fmt → Nat → Nat → Nat → Nat) (a b c : Word) :
    perElem ty g a b c = packed ty (fun f e => g f (e a) (e b) (e c)) := by
  rcases hty with rfl | rfl | rfl
  · rfl
  · exact ofNat_halves _ _
  · exact ofNat_halves _ _

theorem packed_congr (ty : Ty) {g g' : Fmt → (Word → Nat) → Nat} (h : ∀ f ∈ [fp32, fp16, bf16], ∀ e, g f e = g' f e) :
    packed ty g = packed ty g' := by
  have h32 := h fp32 (by simp)
  have h16 := h fp16 (by simp)
  have hb16 := h bf16 (by simp)
  simp only [packed]
  split
  · split <;> simp [*]
  · simp [*]

/-! ## FSCALE (06 R141) -/

/-- The formats of group 0x4 have small exponents. -/
theorem small_exponents : ∀ f ∈ [fp32, fp16, bf16],
    -1000 ≤ f.q0 ∧ f.q0 ≤ 0 ∧ f.maxUnit + f.fb ≤ 1000 ∧ max 1 (2 ^ f.eb - 1 : Int) - f.bias ≤ 1000 := by
  decide

/-- A count of 2 ^ 12 or more gives the same result as 2 ^ 12, and one of -2 ^ 12 or less the same as -2 ^ 12. -/
theorem roundFin_scale_clamp {f : Fmt} (hf : f ∈ [fp32, fp16, bf16]) {b : Nat} {x : Exact} (hx : f.decode b = .fin x) (m : RMode) (sat : Bool)
    (k : Int) : f.roundFin m sat (x.scale (clampInt (-4096) 4096 k)) = f.roundFin m sat (x.scale k) := by
  obtain ⟨h1, h2, h3, h4⟩ := small_exponents f hf
  obtain ⟨hlo, hhi⟩ := binade_of_decode hx
  have hp (k : Int) : Proper (x.scale k) := ⟨(proper_of_decode hx).1, (proper_of_decode hx).2⟩
  have huge {k : Int} (hk : 4096 ≤ k) : f.roundFin m sat (x.scale k) = f.overflow m sat (decide (x.num < 0)) :=
    roundFin_of_huge (hp k) (by rw [binade_scale]; omega) (by rw [binade_scale]; omega) m sat
  have tiny {k : Int} (hk : k ≤ -4096) : f.grid (x.scale k) = ⟨0, f.q0, false, .lt⟩ :=
    grid_of_tiny (hp k) (by rw [binade_scale]; omega)
  rw [clampInt_eq (by decide)]
  rcases lt_or_ge 4096 k with hk | hk
  · rw [min_eq_left (by omega), max_eq_right (by omega)]
    rw [huge (by omega), huge (by omega)]
  rcases lt_or_ge k (-4096) with hk' | hk'
  · simp only [Fmt.roundFin]
    rw [min_eq_right (by omega), max_eq_left (by omega), tiny (by omega), tiny (by omega)]
    rfl
  · rw [min_eq_right (by omega), max_eq_right (by omega)]

theorem scaleIsExact : Claims.scaleIsExact := by
  intro ty m sat a b hty
  rw [fscaleVal, perElem_eq_packed hty]
  refine packed_congr ty fun f hf e => ?_
  cases hx : f.decode (e a) with
  | fin x => exact roundFin_scale_clamp hf hx m sat b.toInt
  | nan | inf | zero => rfl

/-! ## FRND and FCLASS (06 R140, R142) -/

theorem integral_eq (m : RMode) (v : FVal) :
    (match v with
      | .fin x => let n := x.toInteger m; if n = 0 then .zero (decide (x.num < 0)) else FVal.ofInt n
      | v => v) = integral m v := by
  cases v with
  | fin x =>
    simp only [integral]
    split
    · rfl
    · rw [FVal.ofInt, if_neg ‹_›]
  | nan | inf | zero => rfl

theorem classBit_eq_classOf {f : Fmt} (hf : f.e4m3 = false) (heb : 2 ^ f.eb - 1 ≠ 0) (b : Nat) : classBit f b = classOf f b := by
  have hpow : (0 : Int) < 2 ^ f.fb := by positivity
  simp only [classBit, classOf, Fmt.decode, hf]
  generalize b % 2 ^ f.fb = fr
  generalize b / 2 ^ f.fb % 2 ^ f.eb = ex
  generalize b / 2 ^ (f.eb + f.fb) % 2 = sg
  by_cases hmax : ex = 2 ^ f.eb - 1
  · by_cases hfr : fr = 0 <;> by_cases hs : sg = 1 <;> simp [hmax, hfr, hs]
  by_cases hex : ex = 0
  · by_cases hfr : fr = 0
    · by_cases hs : sg = 1 <;> simp [hex, hfr, hs, heb.symm]
    · by_cases hs : sg = 1
      · simp [hex, hfr, hs, heb.symm, Nat.pos_of_ne_zero]
      · simp [hex, hfr, hs, heb.symm]
  · by_cases hs : sg = 1
    · simp [hmax, hex, hs]; omega
    · simp [hmax, hex, hs]; omega

theorem classBit_le (f : Fmt) (b : Nat) : classBit f b ≤ 8 := by
  simp only [classBit]
  repeat' split
  all_goals decide

theorem fclassVal_f32 (a : Word) : fclassVal .f32 a = BitVec.ofNat 32 (2 ^ classOf fp32 a.toNat) := by
  rw [← classBit_eq_classOf rfl (by decide)]
  rfl

theorem fclassVal_pair {ty : Ty} (hty : ty = .f16x2 ∨ ty = .bf16x2) (a : Word) : fclassVal ty a =
    (let f := if ty = .f16x2 then fp16 else bf16
     BitVec.ofNat 32 (2 ^ classOf f (a.extractLsb' 0 16).toNat + 2 ^ classOf f (a.extractLsb' 16 16).toNat * 2 ^ 16)) := by
  rcases hty with rfl | rfl
  · simp only [fclassVal, classBit_eq_classOf (f := fp16) rfl (by decide), Ty.fmt]
    rfl
  · simp only [fclassVal, classBit_eq_classOf (f := bf16) rfl (by decide), Ty.fmt]
    rfl

theorem zeroExtend_class {n : Nat} (h : n ≤ 8) : (BitVec.ofNat 32 (2 ^ n)).zeroExtend 64 = BitVec.ofNat 64 (2 ^ n) := by
  interval_cases n <;> rfl

/-- An instruction without predicate destinations writes only the words of its results. -/
theorem writeRows_of_pd_nil {x : Iss} (h : x.sh.pd = []) (ts : List Nat) {f g : Nat → Wv} (hfg : ∀ t, (f t).d = (g t).d ∧ (f t).e = (g t).e)
    (s : State) : writeRows x (ts.map (fun t => (t, f t))) s = writeRows x (ts.map (fun t => (t, g t))) s := by
  have hrows (first : Bool) : allWrites x first (ts.map (fun t => (t, f t))) = allWrites x first (ts.map (fun t => (t, g t))) := by
    induction ts generalizing first with
    | nil => rfl
    | cons t ts ih =>
      obtain ⟨hd, he⟩ := hfg t
      simp [allWrites, rowWrites, predWrites, h, hd, he, ih]
  have hwords : (ts.map (fun t => (t, f t))).map (fun r => r.2.d.truncate 32) = (ts.map (fun t => (t, g t))).map (fun r => r.2.d.truncate 32) := by
    simp [hfg]
  rw [writeRows, writeRows, hrows, hwords]

/-! ## The instructions -/

theorem fclass_completes (h : Hdr) (d a b : Opd) (ty : Ty) (p : Bool) (pd : BitVec 3) : Each (.fclass h d a b ty p pd) (fun _ r =>
    { d := (fclassVal ty r.aw).zeroExtend 64, ps := [(fclassVal ty r.aw &&& r.bw) != 0#32] }) :=
  each_of_eq _ rfl (fun _ => rfl) (fun _ _ => rfl)

theorem floatArithmetic : Claims.floatArithmetic := by
  intro h d a b c ty rm sat p pd
  refine ⟨fun hty => ⟨?_, ?_, ?_, ?_, ?_, ?_, ?_, ?_⟩, ?_, fun hty => ?_⟩
  · exact each_of_float rfl fun y r => congrArg one (perElem_eq_packed hty _ _ _ _)
  · exact each_of_float rfl fun y r => congrArg one (perElem_eq_packed hty _ _ _ _)
  · exact each_of_float rfl fun y r => congrArg one (perElem_eq_packed hty _ _ _ _)
  · exact each_of_float rfl fun y r => congrArg one (perElem_eq_packed hty _ _ _ _)
  · exact each_of_words rfl fun y r => congrArg one (perElem_eq_packed hty _ _ _ _)
  · exact each_of_words rfl fun y r => congrArg one (perElem_eq_packed hty _ _ _ _)
  · exact each_of_float rfl fun y r => rfl
  · refine each_of_float rfl fun y r => congrArg one ((perElem_eq_packed hty _ _ _ _).trans ?_)
    exact packed_congr ty fun f _ e => congrArg (f.arith _ false) (integral_eq _ _)
  · refine each_of_eq _ rfl (fun _ => rfl) fun y r => ?_
    rw [fclassVal_f32, zeroExtend_class (classBit_eq_classOf (f := fp32) rfl (by decide) _ ▸ classBit_le fp32 r.aw.toNat)]
  · intro f el v
    refine ⟨fun s y s1 hp => ?_, ?_⟩
    · have hpd : y.sh.pd = [] := by
        obtain ⟨hsh, -⟩ := performs_inv hp
        rw [← Option.some.inj hsh]
        rfl
      convert fclass_completes h d a b ty false pd s y s1 hp using 1
      refine writeRows_of_pd_nil hpd _ (fun t => ⟨?_, ?_⟩) s1
      · simp only [fclassVal_pair hty]
        rfl
      · rfl
    · refine each_of_float rfl fun y r => ?_
      rcases hty with rfl | rfl <;> rfl

end Sys2Proof.Proofs.Floats

namespace Sys2Proof.Proofs

open Sys2Proof.Proofs.Floats

/-- Settles O5: every result is the model's element function, element by element, and a count beyond 2 ^ 12 scales no value into the
range of a format. -/
theorem floatResults : Obligations.FloatResults := ⟨floatArithmetic, scaleIsExact⟩

end Sys2Proof.Proofs
end

section
/-! SUPPORT. The block instructions: whole register lines in, lines or a word out (06 R149 to R158), and the rows of 03 R67. -/

namespace Sys2Proof.Proofs.Blocks

open Sys2Proof.Machine Sys2Proof.Claims Sys2Proof.Safety

theorem fmtReserved_iff_badFmt {fmt : Nat} (h : fmt < 64) : fmtReserved fmt = true ↔ badFmt fmt := by
  simp [fmtReserved, badFmt]
  omega

theorem fmtReserved_of_not_badFmt {fmt : Nat} (h : fmt < 64) (hb : ¬ badFmt fmt) : fmtReserved fmt = false := by
  rw [← Bool.not_eq_true, fmtReserved_iff_badFmt h]
  exact hb

/-! ## Lines of registers (06 R149, R150) -/

/-- An instruction in place reads the lines of a vector register as cycle t0 sees them. -/
theorem readLine_eq_lineIn {s : State} {y : Iss} {u : Use} (he : y.ent = none) (hv : Opd.isVec u.o = true) (i : Nat) :
    readLine s y u i = lineIn s y (Opd.num u.o + i) := by
  cases ho : u.o <;> simp [ho, Opd.isVec, Opd.kind] at hv
  simp [readLine, lineIn, readWord, ho, he, Opd.num]

theorem flatten_readLines {s : State} {y : Iss} {u : Use} (he : y.ent = none) (hv : Opd.isVec u.o = true) :
    (readLines s y u).flatten = rangeIn s y (Opd.num u.o) u.n := by
  simp [readLines, rangeIn, List.flatMap, readLine_eq_lineIn he hv]

theorem headLine_readLines {s : State} {y : Iss} {u : Use} (he : y.ent = none) (hv : Opd.isVec u.o = true) (hn : u.n = 1) :
    headLine (readLines s y u) = lineOfWords (lineIn s y (Opd.num u.o)) := by
  simp [headLine, readLines, hn, readLine_eq_lineIn he hv]

/-! ## Fields of equal width, the first in the low bits -/

theorem field_foldr {α : Type} {w : Nat} (g : α → Nat) (xs : List α) (hg : ∀ x ∈ xs, g x < 2 ^ w) (i : Nat) :
    xs.foldr (fun x acc => g x + 2 ^ w * acc) 0 / 2 ^ (w * i) % 2 ^ w = (xs.map g).getD i 0 := by
  induction xs generalizing i with
  | nil => simp
  | cons x xs ih =>
    have hx : g x < 2 ^ w := hg x (by simp)
    cases i with
    | zero => simp [Nat.mod_eq_of_lt hx]
    | succ i =>
      rw [Nat.mul_succ, Nat.add_comm (w * i), pow_add, ← Nat.div_div_eq_div_mul, List.foldr_cons, Nat.add_mul_div_left _ _ (Nat.two_pow_pos w),
        Nat.div_eq_of_lt hx, Nat.zero_add, ih (fun y hy => hg y (by simp [hy]))]
      simp

/-- A field of a line that is given as a number. -/
theorem toNat_extract_ofNat (n : Nat) {p w : Nat} (h : p + w ≤ 512) :
    ((BitVec.ofNat 512 n).extractLsb' p w).toNat = n / 2 ^ p % 2 ^ w := by
  have hsplit : 512 = p + (512 - p) := by omega
  rw [BitVec.extractLsb'_toNat, BitVec.toNat_ofNat, Nat.shiftRight_eq_div_pow, hsplit, pow_add, Nat.mod_mul_right_div_self, Nat.mod_mod_of_dvd]
  exact Nat.pow_dvd_pow 2 (by omega)

theorem lineWord_lineOfWords (ws : List Word) {t : Nat} (ht : t < 16) : lineWord (lineOfWords ws) t = ws.getD t 0 := by
  apply BitVec.eq_of_toNat_eq
  rw [lineWord, lineOfWords, toNat_extract_ofNat _ (by omega), field_foldr BitVec.toNat ws (fun x _ => x.isLt)]
  simp only [List.getD_eq_getElem?_getD, List.getElem?_map]
  cases ws[t]? <;> rfl

/-- A new header changes the low half of the first word. -/
theorem lineWord_setHdr_zero (b : Line) (v : Word) :
    lineWord (setHdr b (v.toNat % 65536)) 0 = (lineWord b 0 &&& 0xFFFF0000) ||| (v &&& 0xFFFF) := by
  have hlow : (BitVec.ofNat 512 (v.toNat % 65536 % 65536)).extractLsb' 0 32 = v &&& 0xFFFF := by
    apply BitVec.eq_of_toNat_eq
    rw [toNat_extract_ofNat _ (by decide), BitVec.toNat_and]
    simp only [show (0xFFFF : Word).toNat = 2 ^ 16 - 1 from rfl, Nat.and_two_pow_sub_one_eq_mod]
    omega
  have hmask : (~~~(0xFFFF#512)).extractLsb' (32 * 0) 32 = 0xFFFF0000 := by
    have hfield : (0xFFFF#512).extractLsb' 0 32 = 0xFFFF#32 := BitVec.eq_of_toNat_eq (toNat_extract_ofNat 65535 (by decide))
    rw [BitVec.extractLsb'_not_of_lt (by decide), Nat.mul_zero, hfield]
    rfl
  rw [lineWord, setHdr, BitVec.extractLsb'_or, BitVec.extractLsb'_and, hlow, hmask, lineWord]

/-- It changes no other word. -/
theorem lineWord_setHdr_succ (b : Line) (h : Nat) {t : Nat} (ht : t + 1 < 16) : lineWord (setHdr b h) (t + 1) = lineWord b (t + 1) := by
  have hmask : (~~~(0xFFFF#512)).extractLsb' (32 * (t + 1)) 32 = BitVec.allOnes 32 := by
    ext i hi
    have hbit : Nat.testBit 65535 (32 * (t + 1) + i) = false :=
      Nat.testBit_lt_two_pow
      (Nat.lt_of_lt_of_le (by decide : 65535 < 2 ^ 16) (Nat.pow_le_pow_right (by decide) (by omega)))
    rw [BitVec.getElem_extractLsb', BitVec.getLsbD_not, BitVec.getLsbD_ofNat, hbit, BitVec.getElem_allOnes]
    simp
    omega
  have hzero : (BitVec.ofNat 512 (h % 65536)).extractLsb' (32 * (t + 1)) 32 = 0#32 := by
    apply BitVec.eq_of_toNat_eq
    rw [toNat_extract_ofNat _ (by omega), Nat.div_eq_of_lt]
    · rfl
    · calc h % 65536 < 2 ^ 32 := by omega
        _ ≤ 2 ^ (32 * (t + 1)) := Nat.pow_le_pow_right (by decide) (by omega)
  rw [lineWord, setHdr, BitVec.extractLsb'_or, BitVec.extractLsb'_and, hmask, hzero, BitVec.and_allOnes, BitVec.or_zero, lineWord]

/-- The words of a line made of sixteen words. -/
theorem wordsOfLine_setHdr (ws : List Word) (hl : ws.length = 16) (v : Word) :
    wordsOfLine (setHdr (lineOfWords ws) (v.toNat % 65536)) = ws.modifyHead (fun w => (w &&& 0xFFFF0000) ||| (v &&& 0xFFFF)) := by
  obtain ⟨w, ws, rfl⟩ := List.exists_cons_of_length_eq_add_one hl
  refine List.ext_getElem (by simpa [wordsOfLine] using hl.symm) fun t ht _ => ?_
  rw [wordsOfLine, List.length_map, List.length_range] at ht
  simp only [wordsOfLine, List.getElem_map, List.getElem_range, List.modifyHead_cons]
  cases t with
  | zero => rw [lineWord_setHdr_zero, lineWord_lineOfWords _ (by decide)]; rfl
  | succ t =>
    rw [lineWord_setHdr_succ _ _ ht, lineWord_lineOfWords _ ht]
    have hlt : t < ws.length := by simp at hl; omega
    simp [List.getD_eq_getElem?_getD, hlt]

/-! ## The rows of 03 R67 -/

theorem scaled_eq {b : Line} (v : FVal) : FVal.scaled (blkScale (blkHdr b)) v = (match v with
    | .fin x => .fin ⟨x.num * (4 + (b.extractLsb' 6 2).toNat : Nat), x.den, x.e + (((b.extractLsb' 8 8).toNat : Int) - 129)⟩
    | v => v) := by
  cases v <;> simp [FVal.scaled, blkScale, Exact.mul, blkHdr_sfrac, blkHdr_sexp]

theorem blockDecoding : Claims.blockDecoding := by
  intro b sexp sfrac fmt
  have hres : fmtReserved fmt = true ↔ badFmt fmt := fmtReserved_iff_badFmt (fmt_lt b)
  have hgood (hb : ¬ badFmt fmt) : fmtReserved fmt = false := fmtReserved_of_not_badFmt (fmt_lt b) hb
  have hdec : decodeBlock b = if fmtReserved fmt then none
      else if fmt == 0x3F then some (List.replicate 124 (.zero false))
      else if sexp == 255 then some (List.replicate (fmtElems fmt) .nan)
      else if fmt == 1 && (q4xSeq b).mal then some (List.replicate 124 .nan)
      else if sexp == 0 then some (List.replicate (fmtElems fmt) (.zero false))
      else some ((rawElems b fmt).map (FVal.scaled (blkScale (blkHdr b)))) := by
    simp only [decodeBlock, blkHdr_fmt, blkHdr_sexp]
    rfl
  rw [hdec]
  refine ⟨fun hb => ?_, fun h3F => ?_, fun hb h3F h255 => ?_, fun h1 h255 hmal => ?_, fun hb h3F h0 hmal => ?_, fun hb h3F h0 h255 hmal => ?_⟩
  · rw [if_pos (hres.mpr hb)]
  · simp [h3F, fmtReserved]
  · simp [hgood hb, h3F, h255]
  · simp [h1, h255, hmal, fmtReserved]
  · simp [hgood hb, h3F, h0, hmal]
  · simp only [hgood hb, h3F, h0, h255, hmal, Bool.false_eq_true, if_false, beq_iff_eq, Bool.and_eq_true]
    exact congrArg some (List.map_congr_left fun v _ => scaled_eq v)

/-! ## The instructions (06 R152 to R158) -/

theorem chunk16_eq (n : Nat) (ws : List Word) : chunk16 n ws = (List.range n).map (fun i => (ws.drop (16 * i)).take 16) := by
  induction n generalizing ws with
  | zero => rfl
  | succ n ih =>
    rw [chunk16, ih, List.range_succ_eq_map]
    simp [List.drop_drop, Nat.mul_succ, Nat.add_comm]

/-- The effect of a line-wide instruction that makes lines. -/
theorem lineEff_ok {g : List (List Word) → Word → Except Flt (List (List Word))} {y : Iss} {s : State} {u : Use} {us : List Use}
    {ls : List (List Word)} (hd : y.sh.dsts = u :: us)
    (hg : g (readLines s y (srcAt y.sh .a)) (readThread s y y.lead).bw = .ok ls) :
    lineEff g y s = .ok (withLines s y (Opd.num u.o) ls) := by
  have hg' : g (readLines s y (srcAt y.sh .a)) ((readOpd s y (srcAt y.sh .b) y.lead).truncate 32) = .ok ls := hg
  simp only [lineEff, hg', hd]
  rfl

/-- The effect of one that faults. -/
theorem lineEff_error {g : List (List Word) → Word → Except Flt (List (List Word))} {y : Iss} {s : State} {f : Flt}
    (hg : g (readLines s y (srcAt y.sh .a)) (readThread s y y.lead).bw = .error f) :
    lineEff g y s = .stop { f with lowt := y.lead } := by
  have hg' : g (readLines s y (srcAt y.sh .a)) ((readOpd s y (srcAt y.sh .b) y.lead).truncate 32) = .error f := hg
  simp only [lineEff, hg']

theorem unpackBlock_of_badFmt {b : Line} (hb : badFmt ((b.extractLsb' 0 16).toNat % 64)) (m : RMode) (sat : Bool) (n : Nat) :
    unpackBlock m sat n b = none := by
  have hf : fmtReserved (blkHdr b).fmt = true := (fmtReserved_iff_badFmt (Nat.mod_lt _ (by decide))).mpr hb
  simp [unpackBlock, decodeBlock, hf]

theorem blkAdjust_of_badFmt {b : Line} (hb : badFmt ((b.extractLsb' 0 16).toNat % 64)) (k : Int) (sat : Bool) : blkAdjust b k sat = none := by
  have hf : fmtReserved (blkHdr b).fmt = true := (fmtReserved_iff_badFmt (Nat.mod_lt _ (by decide))).mpr hb
  simp [blkAdjust, hf]

section
variable {i : Instr} {s s1 : State} {y : Iss} {a d : Opd} {k : Nat}

/-- The shape and the place of an issue that performs. -/
theorem shape_of_performs (hp : Performs i s y s1) : shape i = some y.sh ∧ y.ent = none := by
  obtain ⟨hsh, -, -, -, -, -, -, -, -, hent, -⟩ := performs_inv hp
  exact ⟨hsh, hent⟩

/-- The line of a vector operand A. -/
theorem headLine_of_performs (hp : Performs i s y s1) (hv : Opd.isVec a = true) (hsrc : (shape i).map (srcAt · .a) = some (vrun .a a 1)) :
    headLine (readLines s1 y (srcAt y.sh .a)) = lineOfWords (lineIn s1 y (Opd.num a)) := by
  obtain ⟨hsh, hent⟩ := shape_of_performs hp
  rw [hsh, Option.map_some] at hsrc
  rw [Option.some.inj hsrc]
  exact headLine_readLines hent hv rfl

/-- The words of a range of vector registers at A. -/
theorem flatten_of_performs (hp : Performs i s y s1) (hv : Opd.isVec a = true) (hsrc : (shape i).map (srcAt · .a) = some (vrun .a a k)) :
    (readLines s1 y (srcAt y.sh .a)).flatten = rangeIn s1 y (Opd.num a) k := by
  obtain ⟨hsh, hent⟩ := shape_of_performs hp
  rw [hsh, Option.map_some] at hsrc
  rw [Option.some.inj hsrc]
  exact flatten_readLines hent hv

/-- A line-wide instruction writes the lines that its function makes. -/
theorem completes_of_lines {g : List (List Word) → Word → Except Flt (List (List Word))} {ls : List (List Word)} (hp : Performs i s y s1)
    (he : (effOf i).map (· y s1) = some (lineEff g y s1)) (hdst : (shape i).map (·.dsts) = some [vrun .a d k])
    (hg : g (readLines s1 y (srcAt y.sh .a)) (readThread s1 y y.lead).bw = .ok ls) : Completes i s y (withLines s1 y (Opd.num d) ls) := by
  obtain ⟨hsh, -⟩ := shape_of_performs hp
  rw [hsh, Option.map_some] at hdst
  obtain ⟨eff, heff, hy⟩ := Option.map_eq_some_iff.mp he
  exact completes_of_ok heff hp (hy.trans (lineEff_ok (Option.some.inj hdst) hg))

/-- It stops on the format fault that its function makes. -/
theorem stops_of_lines {g : List (List Word) → Word → Except Flt (List (List Word))} {o : BitVec 8} {hdr : Nat} (hp : Performs i s y s1)
    (he : (effOf i).map (· y s1) = some (lineEff g y s1))
    (hg : g (readLines s1 y (srcAt y.sh .a)) (readThread s1 y y.lead).bw = .error (formatFault o hdr 1)) :
    exec i s = .next (commit s.mem (s.preciseFault y.k (badBlock o hdr 1 y.lead) y.pc y.exm y.act)) := by
  obtain ⟨eff, heff, hy⟩ := Option.map_eq_some_iff.mp he
  exact stops_of_stop heff hp (hy.trans (lineEff_error hg))

end

theorem packRegs_eq {ty : Ty} {i4 : Bool} {pf : PackFmt} (h : pack ty i4 = some pf) : packRegs ty i4 = pf.regs := by
  rw [packRegs, h]

theorem effOf_blkscl_adjust (h : Hdr) (d a b : Opd) (ty : Ty) (sat i4 : Bool) (y : Iss) (s : State) :
    (effOf (.blkscl h d a b false ty sat i4)).map (· y s) = some (lineEff (fun ls w => match blkAdjust (headLine ls) w.toInt sat with
      | some l => .ok [wordsOfLine l]
      | none => .error (formatFault (Decode.opdCode a) (hdrBits (headLine ls)) 1)) y s) := rfl

theorem blocks : Claims.blocks := by
  intro h d a b ty pf rm sat esc i4 chk cnt s s1 y n line hdr arg fault hvec
  refine ⟨fun hp => ?_, fun hp => ?_, fun hpf hp => ?_, fun hp => ?_, fun hp => ?_, fun hpf hp => ?_⟩
  · have hline : (readLine s1 y (srcAt y.sh .a) 0) = lineIn s1 y n := by
      obtain ⟨hsh, hent⟩ := shape_of_performs hp
      rw [← Option.some.inj hsh]
      exact readLine_eq_lineIn hent hvec 0
    refine completes_of_ok rfl hp ?_
    rw [effBlkh, hline]
    rfl
  · have hline := headLine_of_performs hp hvec rfl
    have hcheck : (chk && fmtReserved (arg.toNat % 65536 % 64)) = true ↔ chk = true ∧ badFmt (arg.toNat % 64) := by
      rw [Nat.mod_mod_of_dvd _ (by decide), Bool.and_eq_true, fmtReserved_iff_badFmt (Nat.mod_lt _ (by decide))]
    refine ⟨fun hgood => ?_, fun hbad => ?_⟩
    · refine completes_of_lines hp rfl rfl ?_
      rw [if_neg (mt hcheck.mp hgood), hline, wordsOfLine_setHdr _ (by simp [lineIn])]
    · refine (stops_of_lines (o := Decode.opdCode b) (hdr := arg.toNat % 65536) hp rfl ?_).trans ?_
      · exact if_pos (hcheck.mpr hbad)
      · rw [badBlock, badBlock, Nat.mod_mod]
  · refine completes_of_lines hp rfl rfl ?_
    simp only [hpf]
    rw [flatten_of_performs hp hvec rfl, packRegs_eq hpf]
  · have hline := headLine_of_performs hp hvec rfl
    refine ⟨fun ws hws => ?_, fun hbad => ?_⟩
    · refine completes_of_lines hp rfl rfl ?_
      rw [hline, hws, ← chunk16_eq]
    · refine stops_of_lines hp rfl ?_
      rw [hline, unpackBlock_of_badFmt hbad]
      rfl
  · have hline := headLine_of_performs hp hvec rfl
    refine ⟨fun l hl => ?_, fun hbad => ?_⟩
    · refine completes_of_lines hp (effOf_blkscl_adjust h d a b ty sat i4 y s1) rfl ?_
      rw [hline, hl]
    · refine stops_of_lines hp (effOf_blkscl_adjust h d a b ty sat i4 y s1) ?_
      rw [hline, blkAdjust_of_badFmt hbad]
      rfl
  · refine completes_of_ok rfl hp ?_
    simp only [effBlkscl, if_true, hpf]
    rw [flatten_of_performs hp hvec rfl, packRegs_eq hpf]
    rfl

end Sys2Proof.Proofs.Blocks
end

section
/-! SUPPORT. What a conversion into a format fits in, and the block that BLKPACK writes (06 R155, R156, 03 R75). -/

namespace Sys2Proof.Proofs.Rounding

open Sys2Proof.Machine

/-- A grid value that is not beyond the largest finite value has a magnitude that fits below the sign. -/
theorem encodeMag_lt {f : Fmt} {n : Nat} {q : Int} (hn : n ≤ 2 ^ (f.fb + 1)) (hq : f.q0 ≤ q) (hb : f.beyond n q = false)
    (hmax : f.maxUnit + f.fb + f.bias < 2 ^ f.eb) : f.encodeMag n q < 2 ^ (f.eb + f.fb) := by
  have hpow : 2 ^ (f.fb + 1) = 2 * 2 ^ f.fb := by rw [pow_succ, Nat.mul_comm]
  have hle : (n : ℚ) * 2 ^ q ≤ f.maxSig * 2 ^ f.maxUnit := by
    rw [← not_lt, ← beyond_iff, hb]
    decide
  have hlt : (n : ℚ) * 2 ^ q < 2 ^ (f.fb + 1 + f.maxUnit) := by
    have h1 : (f.maxSig : ℚ) < 2 ^ ((f.fb : Int) + 1) := by exact_mod_cast maxSig_lt f
    rw [zpow_add₀ two_ne_zero]
    exact hle.trans_lt (mul_lt_mul_of_pos_right h1 (by positivity))
  have hunit {k : Nat} (hk : 2 ^ k ≤ n) : k + q < f.fb + 1 + f.maxUnit := by
    have h1 : (2 : ℚ) ^ ((k : Int) + q) ≤ n * 2 ^ q := by
      rw [zpow_add₀ two_ne_zero, zpow_natCast]
      exact mul_le_mul_of_nonneg_right (by exact_mod_cast hk) (by positivity)
    exact (zpow_lt_zpow_iff_right₀ (by norm_num)).mp (h1.trans_lt hlt)
  have heb : ((2 ^ f.eb : Nat) : Int) = 2 ^ f.eb := by push_cast; rfl
  have hq0 : f.q0 = 1 - (f.bias : Int) - f.fb := rfl
  have fits {k r : Nat} (hk : k < 2 ^ f.eb) (hr : r < 2 ^ f.fb) : k * 2 ^ f.fb + r < 2 ^ (f.eb + f.fb) := by
    calc k * 2 ^ f.fb + r < (k + 1) * 2 ^ f.fb := by rw [Nat.add_mul]; omega
      _ ≤ 2 ^ f.eb * 2 ^ f.fb := Nat.mul_le_mul_right _ hk
      _ = _ := (pow_add ..).symm
  rw [Fmt.encodeMag]
  split
  · simpa using fits (k := 0) (Nat.two_pow_pos _) ‹n < 2 ^ f.fb›
  split
  · have hu := hunit (k := f.fb + 1) (Nat.le_of_eq (beq_iff_eq.mp ‹_›).symm)
    exact fits (r := 0) (by push_cast at hu; omega) (Nat.two_pow_pos _)
  · have hne : n ≠ 2 ^ (f.fb + 1) := by simpa using ‹¬(n == 2 ^ (f.fb + 1)) = true›
    have hu := hunit (k := f.fb) (by omega)
    exact fits (by omega) (by omega)

/-- The formats of blocks: the results that are no grid values fit as well. -/
theorem blockFormat_bounds : ∀ f ∈ [e4m3, e5m2, bf16], f.maxUnit + f.fb + f.bias < 2 ^ f.eb ∧ f.nanBits < 2 ^ f.width ∧
    ∀ neg, f.maxBits neg < 2 ^ f.width ∧ f.infBits neg < 2 ^ f.width ∧ f.signed neg 0 < 2 ^ f.width := by
  decide

/-- An overflow gives the largest finite value or an infinity (03 R74). -/
theorem overflow_eq_or (f : Fmt) (m : RMode) (sat neg : Bool) :
    f.overflow m sat neg = f.maxBits neg ∨ f.overflow m sat neg = f.infBits neg := by
  cases sat
  · cases m <;> cases neg <;> simp [Fmt.overflow]
  · simp [Fmt.overflow]

theorem signed_lt {f : Fmt} {n : Nat} (h : n < 2 ^ (f.eb + f.fb)) (neg : Bool) : f.signed neg n < 2 ^ f.width := by
  have hw : 2 ^ f.width = 2 * 2 ^ (f.eb + f.fb) := by rw [Fmt.width, Nat.add_assoc, pow_add, pow_one]
  rw [Fmt.signed, hw]
  split <;> omega

theorem finish_lt {f : Fmt} (hmax : f.maxUnit + f.fb + f.bias < 2 ^ f.eb)
    (h : ∀ neg, f.maxBits neg < 2 ^ f.width ∧ f.infBits neg < 2 ^ f.width ∧ f.signed neg 0 < 2 ^ f.width) {n : Nat} {q : Int}
    (hn : n ≤ 2 ^ (f.fb + 1)) (hq : f.q0 ≤ q) (m : RMode) (sat neg : Bool) : f.finish m sat neg n q < 2 ^ f.width := by
  rw [Fmt.finish]
  split
  · obtain ⟨hbig, hinf, -⟩ := h neg
    rcases overflow_eq_or f m sat neg with he | he <;> rw [he] <;> assumption
  · exact signed_lt (encodeMag_lt hn hq (by simpa using ‹¬f.beyond n q = true›) hmax) neg

/-- The values that a format rounds: none, or one as 03 R72 takes it. -/
def Roundable : FVal → Prop
  | .fin x => Proper x
  | _ => True

theorem conv_lt {f : Fmt} (hf : f ∈ [e4m3, e5m2, bf16]) (m : RMode) (sat : Bool) {v : FVal} (hv : Roundable v) :
    f.conv m sat v < 2 ^ f.width := by
  obtain ⟨hunit, hnan, hbits⟩ := blockFormat_bounds f hf
  cases v with
  | nan => exact hnan
  | zero neg => exact (hbits neg).2.2
  | inf neg =>
    obtain ⟨hmax, hinf, -⟩ := hbits neg
    simp only [Fmt.conv]
    split <;> assumption
  | fin x =>
    have hn : (f.grid x).n + (if (f.grid x).up m (decide (x.num < 0)) then 1 else 0) ≤ 2 ^ (f.fb + 1) := by
      have := grid_n_lt (f := f) hv
      split <;> omega
    exact finish_lt hunit hbits hn (le_max_right _ _) m sat _

theorem roundable_decode (f : Fmt) (b : Nat) : Roundable (f.decode b) := by
  cases h : f.decode b with
  | fin x => exact proper_of_decode h
  | nan | inf | zero => trivial

end Sys2Proof.Proofs.Rounding

namespace Sys2Proof.Proofs.Blocks

open Sys2Proof.Machine Sys2Proof.Claims Sys2Proof.Proofs.Rounding

/-! ## A block from its elements (03 R66) -/

theorem blkBuild_header (hdr w : Nat) (es : List Nat) : ((blkBuild hdr w es).extractLsb' 0 16).toNat = hdr % 65536 := by
  rw [blkBuild, toNat_extract_ofNat _ (by decide)]
  omega

theorem blkBuild_elem (hdr : Nat) {w i : Nat} (h : 16 + w * i + w ≤ 512) (es : List Nat) :
    blockElem (blkBuild hdr w es) w i = es.getD i 0 % 2 ^ w := by
  have hf := field_foldr (w := w) (· % 2 ^ w) es (fun x _ => Nat.mod_lt _ (Nat.two_pow_pos w)) i
  have hlow : hdr % 2 ^ 16 / 2 ^ 16 = 0 := Nat.div_eq_of_lt (Nat.mod_lt _ (by decide))
  rw [blockElem, blkBuild, toNat_extract_ofNat _ h, pow_add, ← Nat.div_div_eq_div_mul, show 65536 = 2 ^ 16 from rfl,
    Nat.add_mul_div_left _ _ (by decide), hlow, Nat.zero_add, hf]
  simp only [List.getD_eq_getElem?_getD, List.getElem?_map]
  cases es[i]? <;> simp

/-! ## The elements over the scale -/

theorem divBy_eq_quotient (sexp sfrac code : Nat) : FVal.divBy (blkScale ⟨sexp, sfrac, code⟩) = quotient (scaleOf sexp sfrac) := by
  have hpos : ¬ ((4 : Int) + sfrac < 0) := by omega
  funext v
  cases v <;> simp [FVal.divBy, quotient, blkScale, scaleOf, Exact.div, hpos]

theorem roundable_quotient (sexp sfrac : Nat) {v : FVal} (h : Roundable v) : Roundable (quotient (scaleOf sexp sfrac) v) := by
  cases v with
  | fin x =>
    obtain ⟨hn, hd⟩ := h
    exact ⟨by simpa [scaleOf] using hn, Nat.mul_pos hd (by simp [scaleOf]; omega)⟩
  | nan | inf | zero => trivial

/-! ## The Q4X rule (06 R156) -/

/-- The slot that the model's rule fills, and the codes of the rule. -/
theorem q4xFill_succ (m : RMode) (sat esc : Bool) (xs : List FVal) (fuel i : Nat) (hi : i < 124) :
    q4xFill m sat esc xs (fuel + 1) i = match codesAt m sat esc (xs.getD i (.zero false)) i with
      | none => ([], true)
      | some cs => let r := q4xFill m sat esc xs fuel (i + cs.length); (cs ++ r.1, r.2) := by
  rw [q4xFill, if_neg (by omega)]
  simp only [List.getD_eq_getElem?_getD]
  generalize xs[i]?.getD (.zero false) = x
  have hother (c : Nat) :
      (if (esc && decide (i ≤ 121)) = true then
        (8 :: e4m3.conv m sat x / 16 :: e4m3.conv m sat x % 16 :: (q4xFill m sat esc xs fuel (i + 3)).1, (q4xFill m sat esc xs fuel (i + 3)).2)
      else if sat = true then (c :: (q4xFill m sat esc xs fuel (i + 1)).1, (q4xFill m sat esc xs fuel (i + 1)).2) else ([], true)) =
      match (if esc = true ∧ i ≤ 121 then some [8, e4m3.conv m sat x / 16, e4m3.conv m sat x % 16] else if sat then some [c] else none) with
      | none => ([], true)
      | some cs => let r := q4xFill m sat esc xs fuel (i + cs.length); (cs ++ r.1, r.2) := by
    by_cases he : esc = true ∧ i ≤ 121
    · simp [he]
    · have he' : ¬ (esc && decide (i ≤ 121)) = true := by simpa using he
      rw [if_neg he', if_neg he]
      cases sat <;> rfl
  cases x with
  | zero => rfl
  | nan => exact hother _
  | inf neg => exact hother _
  | fin v =>
    by_cases hs : -7 ≤ v.toInteger m ∧ v.toInteger m ≤ 7
    · have hs' : (v.toInteger m).natAbs ≤ 7 := by omega
      simp [codesAt, Option.filter, hs, hs']
    · have hs' : ¬ (v.toInteger m).natAbs ≤ 7 := by omega
      have hq : (some (v.toInteger m)).filter (fun q => decide (q.natAbs ≤ 7)) = none := by simp [Option.filter, hs']
      simp only [codesAt, if_neg hs, hq]
      exact hother _

section
variable {m : RMode} {sat esc : Bool} {x : FVal} {i : Nat} {cs : List Nat}

/-- What the rule writes for an element: a code, or an escape with the code of an E4M3 value. -/
theorem codesAt_cases (h : codesAt m sat esc x i = some cs) :
    (∃ c, c < 16 ∧ cs = [c]) ∨ cs = [8, e4m3.conv m sat x / 16, e4m3.conv m sat x % 16] := by
  have hother (hs : (if esc = true ∧ i ≤ 121 then some [8, e4m3.conv m sat x / 16, e4m3.conv m sat x % 16]
      else if sat then some [if x.isNan then 0 else if x.isNeg then 9 else 7] else none) = some cs) :
      (∃ c, c < 16 ∧ cs = [c]) ∨ cs = [8, e4m3.conv m sat x / 16, e4m3.conv m sat x % 16] := by
    split at hs
    · exact .inr (Option.some.inj hs).symm
    split at hs
    · refine .inl ⟨_, ?_, (Option.some.inj hs).symm⟩
      split
      · decide
      · split <;> decide
    · cases hs
  cases x with
  | zero => exact .inl ⟨0, by decide, (Option.some.inj h).symm⟩
  | nan => exact hother h
  | inf neg => exact hother h
  | fin v =>
    simp only [codesAt] at h
    split at h
    · exact .inl ⟨_, by omega, (Option.some.inj h).symm⟩
    · exact hother h

theorem codesAt_pos (h : codesAt m sat esc x i = some cs) : 0 < cs.length := by
  rcases codesAt_cases h with ⟨c, -, rfl⟩ | rfl <;> simp

theorem codesAt_lt (hx : Roundable x) (h : codesAt m sat esc x i = some cs) : ∀ c ∈ cs, c < 16 := by
  have hconv : e4m3.conv m sat x < 256 := conv_lt (f := e4m3) (by simp) m sat hx
  rcases codesAt_cases h with ⟨c, hc, rfl⟩ | rfl
  · simpa using hc
  · simp
    omega

end

theorem getD_roundable {xs : List FVal} (hx : ∀ x ∈ xs, Roundable x) (i : Nat) : Roundable (xs.getD i (.zero false)) := by
  rw [List.getD_eq_getElem?_getD]
  cases h : xs[i]? with
  | none => trivial
  | some x => exact hx x (List.mem_of_getElem? h)

/-- Every step fills a slot, so 124 steps fill the block. -/
theorem q4xFill_eq_codesFrom (m : RMode) (sat esc : Bool) (xs : List FVal) (fuel n i : Nat) (hf : 124 ≤ i + fuel) (hn : 124 ≤ i + n) :
    q4xFill m sat esc xs fuel i = codesFrom m sat esc xs n i := by
  induction fuel generalizing n i with
  | zero =>
    cases n with
    | zero => rfl
    | succ n => rw [codesFrom, if_pos (by omega), q4xFill]
  | succ fuel ih =>
    by_cases hi : 124 ≤ i
    · rw [q4xFill, if_pos hi]
      cases n with
      | zero => rfl
      | succ n => rw [codesFrom, if_pos hi]
    obtain ⟨n, rfl⟩ : ∃ k, n = k + 1 := ⟨n - 1, by omega⟩
    rw [q4xFill_succ _ _ _ _ _ _ (by omega), codesFrom, if_neg hi]
    cases hc : codesAt m sat esc (xs.getD i (.zero false)) i with
    | none => rfl
    | some cs =>
      have hpos : 0 < cs.length := codesAt_pos hc
      simp only [ih n (i + cs.length) (by omega) (by omega)]

theorem codesFrom_lt (m : RMode) (sat esc : Bool) {xs : List FVal} (hx : ∀ x ∈ xs, Roundable x) (n i : Nat) :
    ∀ c ∈ (codesFrom m sat esc xs n i).1, c < 16 := by
  induction n generalizing i with
  | zero => simp [codesFrom]
  | succ n ih =>
    intro c hc
    rw [codesFrom] at hc
    split at hc
    · simp at hc
    split at hc
    · simp at hc
    · rename_i cs hcs
      rcases List.mem_append.mp hc with h | h
      · exact codesAt_lt (getD_roundable hx i) hcs c h
      · exact ih _ c h

/-! ## BLKPACK (06 R155, R156) -/

section
variable {pf : PackFmt} {m : RMode} {sat esc : Bool} {template : Nat} {ws : List Word}

/-- The elements of a range over the scale of a template. -/
def scaledElems (pf : PackFmt) (template : Nat) (ws : List Word) : List FVal :=
  (ws.take pf.count).map (fun w => quotient (scaleOf (template / 256 % 256) (template / 64 % 4)) (fp32.decode w.toNat))

/-- The header that a template gives a block. -/
def packHdr (pf : PackFmt) (template : Nat) : Nat := template / 256 % 256 * 256 + template / 64 % 4 * 64 + pf.code

theorem packHdr_mod (pf : PackFmt) (template : Nat) : packHdr pf template % 65536 = packHdr pf template := by
  have hc : pf.code ≤ 6 := by cases pf <;> decide
  rw [packHdr]
  omega

theorem scaledElems_eq (pf : PackFmt) (template : Nat) (ws : List Word) :
    ((ws.take pf.count).map (fun w => fp32.decode w.toNat)).map
      (FVal.divBy (blkScale ⟨template / 256 % 256, template / 64 % 4, pf.code⟩)) = scaledElems pf template ws := by
  rw [divBy_eq_quotient, List.map_map]
  rfl

theorem scaledElems_roundable (pf : PackFmt) (template : Nat) (ws : List Word) : ∀ x ∈ scaledElems pf template ws, Roundable x := by
  intro x hx
  obtain ⟨w, -, rfl⟩ := List.mem_map.mp hx
  exact roundable_quotient _ _ (roundable_decode fp32 w.toNat)

theorem length_scaledElems (pf : PackFmt) (template : Nat) (hl : ws.length = 16 * pf.regs) :
    (scaledElems pf template ws).length = pf.count := by
  have hc : pf.count ≤ 16 * pf.regs := by cases pf <;> decide
  simp [scaledElems, hl, hc]

/-- Elements made one by one. -/
theorem blkBuild_map_elem {w i : Nat} (H : Nat) {g : FVal → Nat} {xs : List FVal} (hi : i < xs.length) (hw : 16 + w * i + w ≤ 512)
    (hg : ∀ x ∈ xs, g x < 2 ^ w) : blockElem (blkBuild H w (xs.map g)) w i = g (xs.getD i (.zero false)) := by
  have hget : xs.getD i (.zero false) = xs[i] := by simp [List.getD_eq_getElem?_getD, hi]
  rw [blkBuild_elem H hw, hget, List.getD_eq_getElem?_getD, List.getElem?_map, List.getElem?_eq_getElem hi]
  exact Nat.mod_eq_of_lt (hg _ (List.getElem_mem hi))

theorem packBlock_of_nan (h : template / 256 % 256 = 255) : packBlock pf m sat esc template ws = BitVec.ofNat 512 (255 * 2 ^ 8 + pf.code) := by
  simp only [packBlock, h]
  cases pf <;> rfl

theorem packBlock_of_zero (h : template / 256 % 256 = 0) : packBlock pf m sat esc template ws = BitVec.ofNat 512 pf.code := by
  simp only [packBlock, h]
  cases pf <;> rfl

/-- A template with a finite scale: the elements of the format, or the codes of the Q4X rule. -/
theorem packBlock_of_scale (h0 : template / 256 % 256 ≠ 0) (h255 : template / 256 % 256 ≠ 255) : packBlock pf m sat esc template ws =
    (let xs := scaledElems pf template ws
     let H := packHdr pf template
     match pf with
      | .q4x => let r := codesFrom m sat esc xs 124 0; blkBuild (if r.2 then 255 * 256 + 1 else H) 4 r.1
      | .int4 => blkBuild H 4 (xs.map (fun y => (y.toIntFmt m sat true 4 % 16).toNat))
      | .int8 => blkBuild H 8 (xs.map (fun y => (y.toIntFmt m sat true 8 % 256).toNat))
      | .e4m3 => blkBuild H 8 (xs.map (e4m3.conv m sat))
      | .e5m2 => blkBuild H 8 (xs.map (e5m2.conv m sat))
      | .bf16 => blkBuild H 16 (xs.map (bf16.conv m sat))) := by
  simp only [packBlock, beq_iff_eq, if_neg h0, if_neg h255, scaledElems_eq, q4xFill_eq_codesFrom m sat esc _ 125 124 0 (by decide) (by decide)]
  cases pf <;> rfl

end

theorem toNat_mod_lt (z : Int) (k : Nat) : (z % 2 ^ k).toNat < 2 ^ k := by
  have h0 : (0 : Int) < 2 ^ k := by positivity
  have h1 := Int.emod_nonneg z h0.ne'
  have h2 := Int.emod_lt_of_pos z h0
  zify
  omega

theorem packBlock_header {pf : PackFmt} {m : RMode} {sat esc : Bool} {template : Nat} {ws : List Word} (h0 : template / 256 % 256 ≠ 0)
    (h255 : template / 256 % 256 ≠ 255) : ((packBlock pf m sat esc template ws).extractLsb' 0 16).toNat =
      if pf = .q4x ∧ (codesFrom m sat esc (scaledElems pf template ws) 124 0).2 = true then 255 * 2 ^ 8 + 1 else packHdr pf template := by
  rw [packBlock_of_scale h0 h255]
  cases pf with
  | q4x =>
    rw [blkBuild_header]
    split
    · simp [*]
    · simpa [*] using packHdr_mod _ _
  | _ =>
    rw [if_neg (by simp)]
    exact (blkBuild_header ..).trans (packHdr_mod ..)

theorem packBlock_elems {pf : PackFmt} {m : RMode} {sat esc : Bool} {template : Nat} {ws : List Word} (h0 : template / 256 % 256 ≠ 0)
    (h255 : template / 256 % 256 ≠ 255) :
    let b := packBlock pf m sat esc template ws
    let xs := scaledElems pf template ws
    let float (f : Fmt) : Prop := ∀ i, i < pf.count → blockElem b f.width i = f.conv m sat (xs.getD i (.zero false))
    let int (k : Nat) : Prop := ∀ i, i < pf.count → blockElem b k i = ((xs.getD i (.zero false)).toIntFmt m sat true k % 2 ^ k).toNat
    ws.length = 16 * pf.regs → match pf with
    | .q4x => ∀ i, i < 124 → blockElem b 4 i = (codesFrom m sat esc xs 124 0).1.getD i 0
    | .int4 => int 4
    | .int8 => int 8
    | .e4m3 => float e4m3
    | .e5m2 => float e5m2
    | .bf16 => float bf16 := by
  intro b xs float int hl
  have hb : b = _ := packBlock_of_scale h0 h255
  have hround : ∀ x ∈ xs, Roundable x := scaledElems_roundable pf template ws
  have hlen : xs.length = pf.count := length_scaledElems pf template hl
  have each {H w : Nat} {g : FVal → Nat} (he : b = blkBuild H w (xs.map g)) (hw : 16 + w * pf.count ≤ 512) (hg : ∀ x ∈ xs, g x < 2 ^ w) :
      ∀ i, i < pf.count → blockElem b w i = g (xs.getD i (.zero false)) := by
    intro i hi
    have hle : w * (i + 1) ≤ w * pf.count := Nat.mul_le_mul_left _ hi
    rw [he]
    exact blkBuild_map_elem H (hlen ▸ hi) (by rw [Nat.mul_succ] at hle; omega) hg
  cases pf with
  | q4x =>
    intro i hi
    rw [hb, blkBuild_elem _ (by omega)]
    refine Nat.mod_eq_of_lt ?_
    rw [List.getD_eq_getElem?_getD]
    cases hg : (codesFrom m sat esc xs 124 0).1[i]? with
    | none => exact (by decide : 0 < 2 ^ 4)
    | some c => exact codesFrom_lt m sat esc hround 124 0 c (List.mem_of_getElem? hg)
  | int4 => exact each hb (by decide) fun x _ => toNat_mod_lt _ 4
  | int8 => exact each hb (by decide) fun x _ => toNat_mod_lt _ 8
  | e4m3 => exact each hb (by decide) fun x hx => conv_lt (f := e4m3) (by simp) m sat (hround x hx)
  | e5m2 => exact each hb (by decide) fun x hx => conv_lt (f := e5m2) (by simp) m sat (hround x hx)
  | bf16 => exact each hb (by decide) fun x hx => conv_lt (f := bf16) (by simp) m sat (hround x hx)

end Sys2Proof.Proofs.Blocks
end

section
/-! SUPPORT. The scale that BLKSCL.fit chooses (06 R158). -/

namespace Sys2Proof.Proofs.Rounding

open Sys2Proof.Machine

theorem onUnit_exact_iff {x : Exact} (h : 0 < x.den) (q : Int) : (x.onUnit q).exact = true ↔ mag x = (x.onUnit q).n * 2 ^ q := by
  have hp : ((x.over q).2 : ℚ) ≠ 0 := by exact_mod_cast (over_snd_pos h q).ne'
  have hdiv := Nat.div_add_mod (x.over q).1 (x.over q).2
  have hex : (x.onUnit q).exact = true ↔ (x.over q).1 = (x.over q).1 / (x.over q).2 * (x.over q).2 := by
    rw [show (x.onUnit q).exact = ((x.over q).1 % (x.over q).2 == 0) from rfl, beq_iff_eq, Nat.mul_comm]
    omega
  rw [hex, onUnit_n, ← Nat.cast_inj (R := ℚ), Nat.cast_mul, over_eq h, mul_left_inj' hp, div_eq_iff (by positivity)]

/-- The place of a magnitude on a grid, rounded up. -/
def ceilUnit (x : Exact) (q : Int) : Nat := (x.onUnit q).n + (if (x.onUnit q).exact then 0 else 1)

theorem le_ceilUnit {x : Exact} (h : 0 < x.den) (q : Int) : mag x ≤ ceilUnit x q * 2 ^ q := by
  rw [ceilUnit]
  split
  · exact ((onUnit_exact_iff h q).mp ‹_›).le
  · exact ((onUnit_n_lt_iff h q _).mp (Nat.lt_succ_self _)).le

theorem lt_of_lt_ceilUnit {x : Exact} (h : 0 < x.den) {q : Int} {k : Nat} (hk : k < ceilUnit x q) : k * 2 ^ q < mag x := by
  have hle := (le_onUnit_n_iff h q (x.onUnit q).n).mp le_rfl
  have hq : (0 : ℚ) < 2 ^ q := by positivity
  rw [ceilUnit] at hk
  split at hk
  · rw [(onUnit_exact_iff h q).mp ‹_›]
    exact mul_lt_mul_of_pos_right (by exact_mod_cast hk) hq
  · refine lt_of_le_of_ne ((le_onUnit_n_iff h q k).mp (by omega)) fun he => ?_
    have hkn : k = (x.onUnit q).n := by
      refine le_antisymm (by omega) ?_
      have : ((x.onUnit q).n : ℚ) ≤ k := by
        rw [← mul_le_mul_iff_of_pos_right hq, he]
        exact hle
      exact_mod_cast this
    exact ‹¬_ = true› ((onUnit_exact_iff h q).mpr (by rw [← hkn, he]))

theorem magLe_iff {x y : Exact} (hx : 0 < x.den) (hy : 0 < y.den) : x.magLe y = true ↔ mag x ≤ mag y := by
  have hx' : (0 : ℚ) < x.den := by exact_mod_cast hx
  have hy' : (0 : ℚ) < y.den := by exact_mod_cast hy
  have hpow {e m : Int} (hm : m ≤ e) : ((2 ^ (e - m).toNat : Nat) : ℚ) = 2 ^ e / 2 ^ m := by
    rw [Nat.cast_pow, Nat.cast_ofNat, ← zpow_natCast, Int.toNat_of_nonneg (by omega), zpow_sub₀ two_ne_zero]
  have hm : (0 : ℚ) < 2 ^ min x.e y.e := by positivity
  simp only [Exact.magLe, decide_eq_true_iff]
  rw [← Nat.cast_le (α := ℚ), Nat.cast_mul, Nat.cast_mul, Nat.cast_mul, Nat.cast_mul, hpow (min_le_left ..), hpow (min_le_right ..), mag, mag,
    div_mul_eq_mul_div, div_mul_eq_mul_div, div_le_div_iff₀ hx' hy', ← mul_le_mul_iff_of_pos_right hm]
  field_simp

theorem mag_mul (x y : Exact) : mag (x.mul y) = mag x * mag y := by
  simp only [mag, Exact.mul, Int.natAbs_mul, Nat.cast_mul, zpow_add₀ (two_ne_zero (α := ℚ))]
  field_simp

theorem mag_div (x y : Exact) (hy : y.num ≠ 0) : mag (x.div y) = mag x / mag y := by
  have habs : (if y.num < 0 then -x.num else x.num).natAbs = x.num.natAbs := by split <;> simp
  simp only [mag, Exact.div, Int.natAbs_mul, Int.natAbs_natCast, Nat.cast_mul, zpow_sub₀ (two_ne_zero (α := ℚ)), habs]
  field_simp

theorem proper_div {x y : Exact} (hx : Proper x) (hy : Proper y) : Proper (x.div y) := by
  obtain ⟨hn, hd⟩ := hx
  refine ⟨?_, Nat.mul_pos hd (Int.natAbs_pos.mpr hy.1)⟩
  simp only [Exact.div]
  split <;> simp [hn, hy.2.ne']

end Sys2Proof.Proofs.Rounding

namespace Sys2Proof.Proofs.Blocks

open Sys2Proof.Machine Sys2Proof.Claims Sys2Proof.Proofs.Rounding

/-! ## The largest element -/

/-- The larger of the largest element so far and the next one. -/
def larger (acc : Option Exact) (x : FVal) : Option Exact :=
  match acc, x with
  | none, .fin v => some v
  | some a, .fin v => some (if a.magLe v then v else a)
  | a, _ => a

theorem larger_none_iff (acc : Option Exact) (x : FVal) : larger acc x = none ↔ acc = none ∧ ∀ v, x ≠ .fin v := by
  cases acc <;> cases x <;> simp [larger]

theorem foldl_larger_none_iff (xs : List FVal) (acc : Option Exact) :
    xs.foldl larger acc = none ↔ acc = none ∧ ∀ v, FVal.fin v ∉ xs := by
  induction xs generalizing acc with
  | nil => simp
  | cons x xs ih =>
    rw [List.foldl_cons, ih, larger_none_iff]
    simp only [List.mem_cons, not_or]
    refine ⟨fun ⟨⟨h1, h2⟩, h3⟩ => ⟨h1, fun v => ⟨(h2 v).symm, h3 v⟩⟩, fun ⟨h1, h2⟩ => ⟨⟨h1, fun v => Ne.symm (h2 v).1⟩, fun v => (h2 v).2⟩⟩

/-- It is one of the values, and none is larger. -/
theorem foldl_larger_some {xs : List FVal} (hx : ∀ x ∈ xs, Roundable x) {acc : Option Exact} (hacc : ∀ a, acc = some a → Proper a) {mx : Exact}
    (h : xs.foldl larger acc = some mx) : (acc = some mx ∨ FVal.fin mx ∈ xs) ∧ (∀ v, FVal.fin v ∈ xs → mag v ≤ mag mx) ∧
      ∀ a, acc = some a → mag a ≤ mag mx := by
  induction xs generalizing acc with
  | nil =>
    obtain rfl : acc = some mx := h
    simp
  | cons x xs ih =>
    have hx0 := hx x (by simp)
    have hnext : (∀ a, larger acc x = some a → Proper a) ∧ (∀ a, acc = some a → ∃ b, larger acc x = some b ∧ mag a ≤ mag b) ∧
        (∀ v, x = .fin v → ∃ b, larger acc x = some b ∧ mag v ≤ mag b) ∧ (∀ b, larger acc x = some b → acc = some b ∨ x = .fin b) := by
      cases acc with
      | none => cases x <;> simp_all [larger, Roundable]
      | some a =>
        have ha := hacc a rfl
        cases x with
        | fin v =>
          have hle := magLe_iff ha.2 hx0.2
          by_cases hav : a.magLe v = true
          · simp_all [larger, Roundable]
          · have := le_of_lt (not_le.mp (mt hle.mpr hav))
            simp_all [larger, Roundable]
        | nan | inf | zero => simp_all [larger]
    obtain ⟨hproper, hold, hnew, hfrom⟩ := hnext
    obtain ⟨h1, h2, h3⟩ := ih (fun y hy => hx y (by simp [hy])) hproper h
    refine ⟨?_, ?_, ?_⟩
    · rcases h1 with h1 | h1
      · rcases hfrom _ h1 with h1 | h1 <;> simp [h1]
      · simp [h1]
    · intro v hv
      rcases List.mem_cons.mp hv with hv | hv
      · obtain ⟨b, hb, hle⟩ := hnew v hv.symm
        exact hle.trans (h3 b hb)
      · exact h2 v hv
    · intro a ha
      obtain ⟨b, hb, hle⟩ := hold a ha
      exact hle.trans (h3 b hb)

/-! ## The scale of a ratio, in quarters of a binade -/

/-- Biased exponent and fraction of the least scale of a header that is not below a magnitude. -/
def leastScale (r : Exact) : Nat × Nat :=
  if r.binade < -126 then (1, 0)
  else if ceilUnit r (r.binade - 2) = 8 then ((r.binade + 127).toNat + 1, 0)
  else ((r.binade + 127).toNat, ceilUnit r (r.binade - 2) - 4)

/-- The value of a scale (03 R65). -/
def scaleMag (e f : Nat) : ℚ := (4 + f : Nat) * 2 ^ ((e : Int) - 129)

theorem scaleMag_of_binade {k : Int} (hk : -127 ≤ k) (f : Nat) : scaleMag (k + 127).toNat f = (4 + f : Nat) * 2 ^ (k - 2) := by
  rw [scaleMag, Int.toNat_of_nonneg (by omega)]
  congr 2
  omega

/-- A magnitude takes four to eight quarters of its binade. -/
theorem ceilUnit_quarters {r : Exact} (h : Proper r) : 4 ≤ ceilUnit r (r.binade - 2) ∧ ceilUnit r (r.binade - 2) ≤ 8 := by
  obtain ⟨hlo, hhi⟩ := binade_bounds h
  have hq : (0 : ℚ) < 2 ^ (r.binade - 2) := by positivity
  have hk : (2 : ℚ) ^ r.binade = 4 * 2 ^ (r.binade - 2) := by rw [zpow_sub₀ two_ne_zero]; ring
  have hk1 : (2 : ℚ) ^ (r.binade + 1) = 8 * 2 ^ (r.binade - 2) := by rw [zpow_add_one₀ two_ne_zero, hk]; ring
  constructor
  · have := hlo.trans (le_ceilUnit h.2 (r.binade - 2))
    rw [hk, mul_le_mul_iff_of_pos_right hq] at this
    exact_mod_cast this
  · by_contra hc
    have h8 := lt_of_lt_ceilUnit h.2 (q := r.binade - 2) (k := 8) (by omega)
    rw [hk1] at hhi
    exact absurd (h8.trans hhi) (by simp)

theorem leastScale_spec {r : Exact} (h : Proper r) (hb : r.binade < 127) :
    1 ≤ (leastScale r).1 ∧ (leastScale r).1 ≤ 254 ∧ (leastScale r).2 < 4 ∧ mag r ≤ scaleMag (leastScale r).1 (leastScale r).2 ∧
      (((leastScale r).1 = 1 ∧ (leastScale r).2 = 0) ∨
        (if (leastScale r).2 = 0 then scaleMag ((leastScale r).1 - 1) 3 else scaleMag (leastScale r).1 ((leastScale r).2 - 1)) < mag r) := by
  obtain ⟨h4, h8⟩ := ceilUnit_quarters h
  have hle := le_ceilUnit h.2 (r.binade - 2)
  have hlt {k : Nat} (hk : k < ceilUnit r (r.binade - 2)) := lt_of_lt_ceilUnit h.2 hk
  have hlo := (binade_bounds h).1
  rw [leastScale]
  generalize hn : ceilUnit r (r.binade - 2) = n at *
  generalize hk : r.binade = k at *
  split
  · have hsmall : mag r < 2 ^ (-126 : Int) := (binade_lt_iff h _).mp (hk ▸ ‹k < -126›)
    refine ⟨le_rfl, by decide, by decide, hsmall.le.trans_eq ?_, .inl ⟨rfl, rfl⟩⟩
    rw [scaleMag]
    norm_num
  have hk1 : (k + 127).toNat + 1 = (k + 1 + 127).toNat := by omega
  split
  · refine ⟨by simp, by simp only; omega, by simp, ?_, .inr ?_⟩
    · rw [hk1, scaleMag_of_binade (by omega), show k + 1 - 2 = k - 2 + 1 by omega, zpow_add_one₀ two_ne_zero]
      rw [‹n = 8›] at hle
      exact hle.trans_eq (by push_cast; ring)
    · rw [if_pos rfl, Nat.add_sub_cancel, scaleMag_of_binade (by omega)]
      exact hlt (by omega)
  · refine ⟨by simp only; omega, by simp only; omega, by simp only; omega, ?_, ?_⟩
    · rw [scaleMag_of_binade (by omega)]
      simpa [Nat.add_sub_cancel' h4] using hle
    · rcases h4.eq_or_lt with rfl | h5
      · rcases (show -126 ≤ k by omega).eq_or_lt with rfl | hk126
        · exact .inl ⟨rfl, rfl⟩
        · refine .inr ?_
          rw [if_pos rfl, show (k + 127).toNat - 1 = (k - 1 + 127).toNat by omega, scaleMag_of_binade (by omega)]
          refine lt_of_lt_of_le ?_ hlo
          rw [show k - 1 - 2 = k - 3 by omega, zpow_sub₀ two_ne_zero]
          have : (0 : ℚ) < 2 ^ k := by positivity
          norm_num
          linarith
      · refine .inr ?_
        rw [if_neg (show n - 4 ≠ 0 by omega), scaleMag_of_binade (by omega)]
        exact hlt (by omega)

/-! ## BLKSCL.fit (06 R158) -/

/-- The fields of a header as a number. -/
theorem toNat_fields (e : Nat) {f : Nat} (hf : f < 4) (pf : PackFmt) : let t := (⟨e, f, pf.code⟩ : BlkHdr).toNat
    t / 2 ^ 8 = e ∧ t / 2 ^ 6 % 4 = f ∧ t % 2 ^ 6 = pf.code := by
  have hc : pf.code ≤ 6 := by cases pf <;> decide
  simp only [BlkHdr.toNat]
  omega

/-- The ratio of an element to the largest magnitude of the target. -/
def fitRatio (pf : PackFmt) (mx : Exact) : Exact := Exact.div ⟨mx.num.natAbs, mx.den, mx.e⟩ pf.maxMag

theorem toNat_leastScale (pf : PackFmt) (r : Exact) : (if r.binade < -126 then (⟨1, 0, pf.code⟩ : BlkHdr).toNat
      else if (ceilUnit r (r.binade - 2) == 8) = true then (⟨(r.binade + 127).toNat + 1, 0, pf.code⟩ : BlkHdr).toNat
      else (⟨(r.binade + 127).toNat, ceilUnit r (r.binade - 2) - 4, pf.code⟩ : BlkHdr).toNat) =
    (⟨(leastScale r).1, (leastScale r).2, pf.code⟩ : BlkHdr).toNat := by
  simp only [leastScale, beq_iff_eq]
  split
  · rfl
  · split <;> rfl

section
variable {pf : PackFmt} {ws : List Word}

/-- The values of an element range. -/
def rangeVals (pf : PackFmt) (ws : List Word) : List FVal := (ws.take pf.count).map (fun w => fp32.decode w.toNat)

theorem fitTemplate_of_special (h : ∃ v ∈ rangeVals pf ws, v.isNan = true ∨ v.isInf = true) :
    fitTemplate pf ws = (⟨255, 0, pf.code⟩ : BlkHdr).toNat := by
  have hany : (rangeVals pf ws).any (fun x => x.isNan || x.isInf) = true := by simpa using h
  exact if_pos hany

theorem fitTemplate_of_finite (h : ∀ v ∈ rangeVals pf ws, v.isNan = false ∧ v.isInf = false) :
    fitTemplate pf ws = match (rangeVals pf ws).foldl larger none with
      | none => pf.code
      | some mx => (⟨(leastScale (fitRatio pf mx)).1, (leastScale (fitRatio pf mx)).2, pf.code⟩ : BlkHdr).toNat := by
  have hany : ¬ (rangeVals pf ws).any (fun x => x.isNan || x.isInf) = true := by simpa using h
  refine (if_neg hany).trans ?_
  split <;> rename_i hbig
  · rw [show (rangeVals pf ws).foldl larger none = none from hbig]
  · rename_i mx
    rw [show (rangeVals pf ws).foldl larger none = some mx from hbig]
    exact toNat_leastScale pf (fitRatio pf mx)

theorem maxMag_proper (pf : PackFmt) : Proper pf.maxMag ∧ 4 ≤ mag pf.maxMag := by
  cases pf <;> refine ⟨⟨by decide, by decide⟩, ?_⟩ <;> norm_num [mag, PackFmt.maxMag]

theorem mag_scale (e f : Nat) (x : Exact) : mag ((scaleOf e f).mul x) = scaleMag e f * mag x := by
  have habs : ((4 : Int) + f).natAbs = 4 + f := by omega
  rw [mag_mul]
  simp [mag, scaleOf, scaleMag, habs]

theorem mag_fitRatio (pf : PackFmt) (mx : Exact) : mag (fitRatio pf mx) = mag mx / mag pf.maxMag := by
  rw [fitRatio, mag_div _ _ (maxMag_proper pf).1.1]
  simp [mag]

theorem fitRatio_proper (pf : PackFmt) {mx : Exact} (h : Proper mx) : Proper (fitRatio pf mx) :=
  proper_div ⟨by simpa using h.1, h.2⟩ (maxMag_proper pf).1

theorem fitRatio_binade_lt {w : Word} {mx : Exact} (h : fp32.decode w.toNat = .fin mx) : (fitRatio pf mx).binade < 127 := by
  have hp := proper_of_decode h
  obtain ⟨hL, hge⟩ := maxMag_proper pf
  have hb : mx.binade < 129 := by
    have := (binade_of_decode h).2
    norm_num [fp32] at this
    omega
  rw [binade_lt_iff (fitRatio_proper pf hp), mag_fitRatio, div_lt_iff₀ (mag_pos hL)]
  calc mag mx < 2 ^ (129 : Int) := (binade_lt_iff hp _).mp hb
    _ = 2 ^ (127 : Int) * 4 := by norm_num
    _ ≤ 2 ^ (127 : Int) * mag pf.maxMag := mul_le_mul_of_nonneg_left hge (by positivity)

/-- A scale that no element exceeds. -/
def Fits (pf : PackFmt) (ws : List Word) (e f : Nat) : Prop :=
  ∀ v, FVal.fin v ∈ rangeVals pf ws → v.magLe ((scaleOf e f).mul pf.maxMag) = true

theorem fits_iff {mx : Exact} (hmem : FVal.fin mx ∈ rangeVals pf ws) (hmax : ∀ v, FVal.fin v ∈ rangeVals pf ws → mag v ≤ mag mx) (e f : Nat) :
    Fits pf ws e f ↔ mag (fitRatio pf mx) ≤ scaleMag e f := by
  obtain ⟨hL, -⟩ := maxMag_proper pf
  have hden : 0 < ((scaleOf e f).mul pf.maxMag).den := Nat.mul_pos (by decide : 0 < 1) hL.2
  have hv {v : Exact} (hv : FVal.fin v ∈ rangeVals pf ws) : v.magLe ((scaleOf e f).mul pf.maxMag) = true ↔
      mag v ≤ scaleMag e f * mag pf.maxMag := by
    obtain ⟨w, -, hw⟩ := List.mem_map.mp hv
    rw [magLe_iff (proper_of_decode hw).2 hden, mag_scale]
  rw [mag_fitRatio, div_le_iff₀ (mag_pos hL)]
  exact ⟨fun h => (hv hmem).mp (h mx hmem), fun h v hmem' => (hv hmem').mpr ((hmax v hmem').trans h)⟩

/-- The template of a range without NaN and infinities: that of a zero block, or the least scale that fits. -/
theorem fitTemplate_fields (hfin : ∀ v ∈ rangeVals pf ws, v.isNan = false ∧ v.isInf = false) :
    ((∀ v, FVal.fin v ∉ rangeVals pf ws) ∧ fitTemplate pf ws = (⟨0, 0, pf.code⟩ : BlkHdr).toNat) ∨
    ((∃ v, FVal.fin v ∈ rangeVals pf ws) ∧ ∃ e f, f < 4 ∧ fitTemplate pf ws = (⟨e, f, pf.code⟩ : BlkHdr).toNat ∧
      1 ≤ e ∧ e ≤ 254 ∧ Fits pf ws e f ∧ ((e = 1 ∧ f = 0) ∨ ¬ (if f = 0 then Fits pf ws (e - 1) 3 else Fits pf ws e (f - 1)))) := by
  rw [fitTemplate_of_finite hfin]
  cases hbig : (rangeVals pf ws).foldl larger none with
  | none =>
    refine .inl ⟨((foldl_larger_none_iff _ _).mp hbig).2, ?_⟩
    simp [BlkHdr.toNat]
  | some mx =>
    have hround : ∀ x ∈ rangeVals pf ws, Roundable x := by
      intro x hx
      obtain ⟨w, -, rfl⟩ := List.mem_map.mp hx
      exact roundable_decode fp32 w.toNat
    obtain ⟨hmem, hmax, -⟩ := foldl_larger_some hround (by simp) hbig
    replace hmem := hmem.resolve_left (by simp)
    obtain ⟨w, -, hw⟩ := List.mem_map.mp hmem
    obtain ⟨h1, h2, h3, h4, h5⟩ := leastScale_spec (fitRatio_proper pf (proper_of_decode hw)) (fitRatio_binade_lt (pf := pf) hw)
    refine .inr ⟨⟨mx, hmem⟩, _, _, h3, rfl, h1, h2, (fits_iff hmem hmax _ _).mpr h4, h5.imp_right fun h => ?_⟩
    simp only [fits_iff hmem hmax]
    split at h
    · rw [if_pos ‹_›]
      exact not_le.mpr h
    · rw [if_neg ‹_›]
      exact not_le.mpr h

end

end Sys2Proof.Proofs.Blocks
end

section
/-! SUPPORT. The status word, BLKUNP and BLKSCL.adj (06 R153, R157, R158), and the settlement of O7. -/

namespace Sys2Proof.Proofs.Blocks

open Sys2Proof.Machine Sys2Proof.Claims Sys2Proof.Proofs.Rounding

/-! ## BLKH (06 R153) -/

/-- Five flags above a header. -/
def flags (p16 p17 p18 p19 p20 : Bool) : Nat := p16.toNat + 2 * (p17.toNat + 2 * (p18.toNat + 2 * (p19.toNat + 2 * p20.toNat)))

theorem testBit_flags (p16 p17 p18 p19 p20 : Bool) : let n := flags p16 p17 p18 p19 p20
    n < 32 ∧ n.testBit 0 = p16 ∧ n.testBit 1 = p17 ∧ n.testBit 2 = p18 ∧ n.testBit 3 = p19 ∧ n.testBit 4 = p20 := by
  revert p16 p17 p18 p19 p20
  decide

theorem blkHdr_toNat (b : Line) : (blkHdr b).toNat = (b.extractLsb' 0 16).toNat := by
  have h := (b.extractLsb' 0 16).isLt
  simp only [blkHdr, BlkHdr.ofWord, BlkHdr.toNat]
  omega

section
variable (b : Line)

/-- A malformed Q4X block. -/
def malformed : Bool := (blkHdr b).fmt == 1 && (q4xSeq b).mal
/-- A format with elements. -/
def numeric : Bool := decide (1 ≤ (blkHdr b).fmt) && decide ((blkHdr b).fmt ≤ 6)

/-- The flags of the status word. -/
def statusFlags : Nat :=
  flags ((blkHdr b).fmt == 1 && (q4xSeq b).esc) ((blkHdr b).fmt == 0x3F || ((blkHdr b).sexp == 0 && numeric b && !malformed b))
    (((blkHdr b).sexp == 255 && numeric b) || malformed b) (malformed b) (fmtReserved (blkHdr b).fmt)

theorem blkStatus_eq : blkStatus b = BitVec.ofNat 32 ((b.extractLsb' 0 16).toNat + 2 ^ 16 * statusFlags b) := by
  have hbit (c : Bool) (n : Nat) : (if c then 2 ^ n else 0) = 2 ^ n * c.toNat := by cases c <;> simp
  rw [← blkHdr_toNat]
  simp only [blkStatus, hbit, statusFlags, flags]
  refine congrArg (BitVec.ofNat 32) ?_
  simp only [malformed, numeric]
  omega

theorem getLsbD_blkStatus {j : Nat} (hj : j < 16) : (blkStatus b).getLsbD (16 + j) = (statusFlags b).testBit j := by
  have hlow : (b.extractLsb' 0 16).toNat / 2 ^ 16 = 0 := Nat.div_eq_of_lt (b.extractLsb' 0 16).isLt
  rw [blkStatus_eq, BitVec.getLsbD_ofNat, Nat.testBit_eq_decide_div_mod_eq, Nat.testBit_eq_decide_div_mod_eq, pow_add, ← Nat.div_div_eq_div_mul,
    Nat.add_mul_div_left _ _ (by decide), hlow, Nat.zero_add]
  simp
  omega

theorem statusFlags_bits : statusFlags b < 32 ∧
    (statusFlags b).testBit 0 = ((blkHdr b).fmt == 1 && (q4xSeq b).esc) ∧
    (statusFlags b).testBit 1 = ((blkHdr b).fmt == 0x3F || ((blkHdr b).sexp == 0 && numeric b && !malformed b)) ∧
    (statusFlags b).testBit 2 = (((blkHdr b).sexp == 255 && numeric b) || malformed b) ∧ (statusFlags b).testBit 3 = malformed b ∧
    (statusFlags b).testBit 4 = fmtReserved (blkHdr b).fmt :=
  testBit_flags ..

theorem blkStatus_header : (blkStatus b).extractLsb' 0 16 = b.extractLsb' 0 16 := by
  apply BitVec.eq_of_toNat_eq
  have h := (b.extractLsb' 0 16).isLt
  rw [blkStatus_eq, BitVec.extractLsb'_toNat, BitVec.toNat_ofNat, Nat.shiftRight_eq_div_pow]
  omega

theorem blkStatus_top : (blkStatus b).extractLsb' 21 11 = 0 := by
  apply BitVec.eq_of_toNat_eq
  have h := (b.extractLsb' 0 16).isLt
  have hf := (statusFlags_bits b).1
  rw [blkStatus_eq, BitVec.extractLsb'_toNat, BitVec.toNat_ofNat, Nat.shiftRight_eq_div_pow]
  change _ = 0
  omega

end

/-! ## BLKUNP and BLKSCL.adj (06 R157, R158) -/

theorem unpackBlock_some {b : Line} {vs : List FVal} (m : RMode) (sat : Bool) (n : Nat) (h : decodeBlock b = some vs) :
    ∃ ws, unpackBlock m sat n b = some ws ∧ ws.length = n ∧
      ∀ i, i < n → ws.getD i 0 = if i < vs.length then BitVec.ofNat 32 (fp32.conv m sat (vs.getD i .nan)) else 0 := by
  rw [unpackBlock, h]
  refine ⟨_, rfl, by simp, fun i hi => ?_⟩
  simp only [List.getD_eq_getElem?_getD, List.getElem?_map, List.getElem?_range hi, Option.map_some, Option.getD_some]
  by_cases hv : i < vs.length
  · simp [hv]
  · simp [hv]

/-- A block whose exponent changes. -/
theorem blkAdjust_of_scale {b : Line} (hf : fmtReserved (blkHdr b).fmt = false) (h3F : (blkHdr b).fmt ≠ 0x3F) (h0 : (blkHdr b).sexp ≠ 0)
    (h255 : (blkHdr b).sexp ≠ 255) (k : Int) (sat : Bool) : blkAdjust b k sat = some ((b &&& ~~~0xFF00#512) ||| BitVec.ofNat 512 (
      (if 254 < ((blkHdr b).sexp : Int) + k then (if sat then 254 else 255)
      else if ((blkHdr b).sexp : Int) + k < 1 then (if sat then 1 else 0) else (((blkHdr b).sexp : Int) + k).toNat) * 256)) := by
  simp [blkAdjust, hf, h3F, h0, h255]

theorem blockRules : Claims.blockRules := by
  refine ⟨fun b => ?_, fun pf m sat esc template ws => ?_, fun m sat n b => ⟨fun h => ?_, fun vs => unpackBlock_some m sat n⟩,
    fun b k sat => ?_, fun pf ws => ?_⟩
  · intro sexp fmt mal num
    obtain ⟨-, h16, h17, h18, h19, h20⟩ := statusFlags_bits b
    have hmal : malformed b = true ↔ mal := by simp [malformed, mal, fmt, blkHdr_fmt]
    have hnum : numeric b = true ↔ num := by simp [numeric, num, fmt, blkHdr_fmt]
    have hsexp : (blkHdr b).sexp = sexp := blkHdr_sexp b
    have hfmt : (blkHdr b).fmt = fmt := blkHdr_fmt b
    have hbit {j : Nat} (hj : j < 16) := getLsbD_blkStatus b hj
    refine ⟨blkStatus_header b, blkStatus_top b, ?_, ?_, ?_, ?_, ?_⟩
    · rw [hbit (j := 4) (by decide), h20, hfmt]
      exact fmtReserved_iff_badFmt (fmt_lt b)
    · rw [hbit (j := 3) (by decide), h19, hmal]
    · rw [hbit (j := 2) (by decide), h18, ← hmal, ← hnum, ← hsexp]
      simp
    · rw [hbit (j := 1) (by decide), h17, ← hmal, ← hnum, ← hsexp, ← hfmt]
      simp [and_assoc]
    · rw [hbit (j := 0) (by decide), h16, ← hfmt]
      simp
  · intro sexp sfrac b xs float int
    refine ⟨packBlock_of_nan, packBlock_of_zero, fun hl h0 h255 => ⟨packBlock_header h0 h255, ?_⟩⟩
    exact packBlock_elems h0 h255 hl
  · rw [unpackBlock, h]
    rfl
  · intro sexp fmt new
    have hsexp : (blkHdr b).sexp = sexp := blkHdr_sexp b
    have hfmt : (blkHdr b).fmt = fmt := blkHdr_fmt b
    have hgood (hb : ¬ badFmt fmt) : fmtReserved (blkHdr b).fmt = false := hfmt ▸ fmtReserved_of_not_badFmt (fmt_lt b) hb
    refine ⟨fun hb => ?_, fun hb h => ?_, fun hb h3F h0 h255 => ?_⟩
    · have : fmtReserved (blkHdr b).fmt = true := hfmt ▸ (fmtReserved_iff_badFmt (fmt_lt b)).mpr hb
      simp [blkAdjust, this]
    · rw [← hsexp, ← hfmt] at h
      simp [blkAdjust, hgood hb, h, or_assoc]
    · have hadj := blkAdjust_of_scale (hgood hb) (hfmt ▸ h3F) (hsexp ▸ h0) (hsexp ▸ h255) k sat
      rw [hsexp] at hadj
      refine ⟨fun h1 h2 => ?_, fun h => ?_, fun h => ?_⟩
      · rw [hadj, if_neg (by omega), if_neg (by omega)]
        rfl
      · rw [hadj, if_pos h]
        rfl
      · rw [hadj, if_neg (by omega), if_pos h]
        rfl
  · intro xs t e f largest fits
    have hlargest : largest = pf.maxMag := by cases pf <;> rfl
    have hfits (e f : Nat) : fits e f ↔ Fits pf ws e f := by simp only [fits, hlargest]; rfl
    have hfield {e' f' : Nat} (hf : f' < 4) (ht : t = (⟨e', f', pf.code⟩ : BlkHdr).toNat) : e = e' ∧ f = f' ∧ t % 2 ^ 6 = pf.code := by
      simp only [e, f, ht]
      exact toNat_fields e' hf pf
    by_cases hspec : ∃ v ∈ xs, v.isNan = true ∨ v.isInf = true
    · obtain ⟨he, hf, hcode⟩ := hfield (by decide) (fitTemplate_of_special hspec)
      refine ⟨hcode, fun _ => ⟨he, hf⟩, fun hfin => ?_⟩
      obtain ⟨v, hv, h⟩ := hspec
      simp [hfin v hv] at h
    · have hfin : ∀ v ∈ xs, v.isNan = false ∧ v.isInf = false := by simpa using hspec
      rcases fitTemplate_fields hfin with ⟨hnone, ht⟩ | ⟨hsome, e', f', hf4, ht, h1, h2, h3, h4⟩
      · obtain ⟨he, hf, hcode⟩ := hfield (by decide) ht
        exact ⟨hcode, fun h => absurd h hspec, fun _ => ⟨fun _ => ⟨he, hf⟩, fun ⟨v, hv⟩ => absurd hv (hnone v)⟩⟩
      · obtain ⟨rfl, rfl, hcode⟩ := hfield hf4 ht
        obtain ⟨v, hv⟩ := hsome
        refine ⟨hcode, fun h => absurd h hspec, fun _ => ⟨fun h => absurd hv (h v), fun _ => ⟨h1, h2, (hfits _ _).mpr h3, ?_⟩⟩⟩
        simpa only [hfits] using h4

end Sys2Proof.Proofs.Blocks

namespace Sys2Proof.Proofs

open Sys2Proof.Proofs.Blocks

/-- Settles O7: the instructions read and write whole lines (`blocks`); BLKPACK and BLKSCL.fit divide by the scale of a header and round,
which keeps every element in its width and makes the chosen scale the least that fits (`blockRules`); the rows of 03 R67 (`blockDecoding`). -/
theorem blockInstructions : Obligations.BlockInstructions := ⟨blocks, blockRules, blockDecoding⟩

end Sys2Proof.Proofs
end

section
/-! SUPPORT. Special operands and conversions (06 R138, R146 to R148, 03 R72 to R78). -/

namespace Sys2Proof.Proofs.Conversions

open Sys2Proof.Machine Sys2Proof.Claims Sys2Proof.Safety Sys2Proof.Proofs.Rounding

/-! ## Special operands (06 R138) -/

/-- The exact sum of two finite values. -/
theorem add_fin (m : RMode) (x y : Exact) : FVal.add m (.fin x) (.fin y) = match x.add y with
    | some z => .fin z
    | none => .zero (m == .rd) := by
  simp only [FVal.add, sumTerms]
  cases h : x.add y <;> simp [FVal.isNan, FVal.isInf, h]

theorem add_neg_self (x : Exact) (m : RMode) : FVal.add m (.fin x) (FVal.fin x).neg = .zero (m == .rd) := by
  have h : x.add x.neg = none := by
    simp [Exact.add, Exact.neg]
  rw [FVal.neg, add_fin, h]

/-- An infinity and a finite value. -/
theorem add_inf (m : RMode) (n : Bool) {a : FVal} (hnan : a.isNan = false) (hinf : a.isInf = false) :
    FVal.add m (.inf n) a = .inf n ∧ FVal.add m a (.inf n) = .inf n := by
  cases a with
  | nan => cases hnan
  | inf => cases hinf
  | zero | fin => cases n <;> exact ⟨rfl, rfl⟩

theorem specialOperands : Claims.specialOperands := by
  refine ⟨fun m sat a n n' x => ⟨?_, ?_, ?_, ?_, rfl, rfl, ?_, ?_, add_inf m n, rfl, ?_, ?_, ?_, ?_, fun _ _ => add_neg_self x m, rfl, rfl, rfl, rfl, rfl⟩, ?_, ?_⟩
  · simp [FVal.add, sumTerms, FVal.isNan]
  · simp [FVal.add, sumTerms, FVal.isNan]
  · rfl
  · cases a <;> rfl
  · cases n <;> rfl
  · cases n <;> rfl
  · rfl
  · rfl
  · cases n <;> rfl
  · cases n <;> rfl
  · decide +kernel
  · decide +kernel

/-! ## The instructions (06 R146 to R148) -/

theorem zeroExtend_ofNat (n : Nat) : (BitVec.ofNat 32 n).zeroExtend 64 = BitVec.ofNat 64 (n % 2 ^ 32) := by
  apply BitVec.eq_of_toNat_eq
  simp

theorem conversions : Claims.conversions := by
  intro h d a b c ty sty rm sat pos
  refine ⟨?_, ?_, ?_⟩
  · refine each_of_float rfl fun y r => congrArg one ?_
    simp only [cvtVal]
    split <;> simp [*]
  · refine each_of_eq _ rfl (fun _ => rfl) fun y r => ?_
    simp only [cvtefVal, errorFeedback]
    congr 1
    split
    · rfl
    · exact zeroExtend_ofNat _
  · exact each_of_words rfl fun y r => rfl

/-! ## One element (03 R75, R76, 06 R147) -/

theorem elemWidth_pos (ty : Ty) : 0 < Ty.elemWidth ty := by
  cases ty <;> decide

theorem rangeLo_le_rangeHi (signed : Bool) (w : Nat) : rangeLo signed w ≤ rangeHi signed w := by
  have h1 : (0 : Int) < 2 ^ (w - 1) := by positivity
  have h2 : (0 : Int) < 2 ^ w := by positivity
  cases signed
  · simp only [rangeLo, rangeHi, Bool.false_eq_true, if_false]
    omega
  · simp only [rangeLo, rangeHi, if_true]
    omega

theorem convElem_float {dty sty : Ty} (hd : Ty.isInt dty = false) (hs : Ty.isInt sty = false) (m : RMode) (sat : Bool) (e : Nat) :
    convElem dty sty m sat e = (Ty.fmt dty).conv m sat ((Ty.fmt sty).decode e) := by
  simp [convElem, hd, hs]

theorem convElem_int {dty sty : Ty} (hd : Ty.isInt dty = true) (hs : Ty.isInt sty = false) (m : RMode) (sat : Bool) (e : Nat) :
    convElem dty sty m sat e =
      (((Ty.fmt sty).decode e).toIntFmt m sat (Ty.signed dty) (Ty.elemWidth dty) % 2 ^ Ty.elemWidth dty).toNat := by
  simp [convElem, hd, hs]

/-- A conversion of an integer. -/
theorem conv_ofInt (f : Fmt) (m : RMode) (sat : Bool) (k : Int) : f.conv m sat (FVal.ofInt k) = if k = 0 then 0 else f.roundFin m sat ⟨k, 1, 0⟩ := by
  rw [FVal.ofInt]
  split <;> rfl

/-- The indefinite value, as bits. -/
theorem indefinite_mod {w : Nat} (hw : 0 < w) : (indefinite w % 2 ^ w).toNat = 2 ^ (w - 1) := by
  have hlt : 2 ^ (w - 1) < 2 ^ w := Nat.pow_lt_pow_right (by decide) (by omega)
  rw [indefinite]
  norm_cast
  rw [Nat.mod_eq_of_lt hlt]

/-- A value below, above or inside the range of an integer format (03 R76). -/
theorem toIntFmt_fin (x : Exact) (m : RMode) (sat signed : Bool) (w : Nat) : (FVal.fin x).toIntFmt m sat signed w =
    if rangeHi signed w < x.toInteger m then (if sat then rangeHi signed w else indefinite w)
    else if x.toInteger m < rangeLo signed w then (if sat then rangeLo signed w else indefinite w)
    else x.toInteger m := by
  have hle := rangeLo_le_rangeHi signed w
  simp only [FVal.toIntFmt]
  by_cases hhi : rangeHi signed w < x.toInteger m
  · rw [if_neg (by omega), if_pos hhi, if_pos hhi]
  · rw [if_neg hhi, if_neg hhi]

/-! ## Stochastic rounding (03 R77) -/

/-- The neighbour that a signed number of steps is rounded to: below where `r` is not under the fraction, above where it is. -/
def neighbour (num : Int) (p : Nat) (r : Nat) : Int :=
  if num % p = 0 then num / p else if (r : Int) < (num - num / p * p) * 2 ^ 32 / p then num / p + 1 else num / p

theorem natAbs_neighbour_pos (k p r : Nat) : (neighbour k p r).natAbs = k / p + if k % p = 0 then 0 else if r < k % p * 2 ^ 32 / p then 1 else 0 := by
  have hrem : (k : Int) - (k : Int) / p * p = ((k % p : Nat) : Int) := by
    have := Int.emod_add_mul_ediv (k : Int) p
    push_cast
    linarith
  rw [neighbour, hrem]
  norm_cast
  split
  · rfl
  · split <;> rfl

theorem natAbs_neighbour_neg (k : Nat) {p : Nat} (hp : 0 < p) (r : Nat) :
    (neighbour (-k) p r).natAbs = k / p + if k % p = 0 then 0 else if r < (p - k % p) * 2 ^ 32 / p then 0 else 1 := by
  have hp' : (0 : Int) < p := by exact_mod_cast hp
  have hdm : p * (k / p) + k % p = k := Nat.div_add_mod k p
  have hlt : k % p < p := Nat.mod_lt k hp
  generalize k / p = n at *
  generalize k % p = rem at *
  have hk : (k : Int) = p * n + rem := by exact_mod_cast hdm.symm
  by_cases h0 : rem = 0
  · obtain ⟨hq, hm⟩ := (Int.ediv_emod_unique hp' (a := -(k : Int)) (q := -n) (r := 0)).mpr ⟨by rw [hk, h0]; push_cast; ring, le_rfl, hp'⟩
    rw [neighbour, if_pos hm, hq, if_pos h0]
    simp
  · have hrem : ((p - rem : Nat) : Int) = p - rem := by omega
    obtain ⟨hq, hm⟩ := (Int.ediv_emod_unique hp' (a := -(k : Int)) (q := -n - 1) (r := p - rem)).mpr
      ⟨by rw [hk]; ring, by omega, by omega⟩
    have hd : (-(k : Int) - (-n - 1) * p) = ((p - rem : Nat) : Int) := by rw [hk, hrem]; ring
    rw [neighbour, if_neg (by omega), hq, hd, if_neg h0]
    norm_cast
    split <;> omega

theorem stochastic_fin (f : Fmt) (sat : Bool) (r : Nat) (x : Exact) (hd : 0 < x.den) :
    f.stochastic sat r (.fin x) = f.finish (if x.num < 0 then .rd else .ru) sat (decide (x.num < 0))
      (neighbour (if x.num < 0 then -((x.over (f.grid x).q).1 : Int) else (x.over (f.grid x).q).1) (x.over (f.grid x).q).2 r).natAbs
      (f.grid x).q := by
  have hp : 0 < (x.over (f.grid x).q).2 := over_snd_pos hd _
  have hn : (f.grid x).n = (x.over (f.grid x).q).1 / (x.over (f.grid x).q).2 := rfl
  have hex : (f.grid x).exact = ((x.over (f.grid x).q).1 % (x.over (f.grid x).q).2 == 0) := rfl
  simp only [Fmt.stochastic, hex, hn, beq_iff_eq]
  by_cases hneg : x.num < 0
  · simp only [hneg, if_true, decide_true, natAbs_neighbour_neg _ hp]
    split
    · rfl
    · simp only [Bool.not_eq_true', decide_eq_false_iff_not, ite_not]
  · simp only [hneg, if_false, decide_false, natAbs_neighbour_pos]
    split
    · rfl
    · simp only [decide_eq_true_eq, if_false, Bool.false_eq_true]

theorem conversionRules : Claims.conversionRules := by
  refine ⟨fun dty sty m sat e => ?_, fun f sat r x _ hd _ => stochastic_fin f sat r x hd, fun f sat neg r => ⟨rfl, rfl, rfl⟩⟩
  intro f v width lo hi bits wrong
  refine ⟨fun hd hs => ?_, fun hd hs => ?_, fun hd hs => ?_⟩
  · rw [convElem_float hd hs]
    show f.conv m sat v = _
    cases v <;> rfl
  · intro k
    have hconv : convElem dty sty m sat e = f.conv m sat (FVal.ofInt k) := by
      simp only [convElem, hs, if_true]
      rfl
    rw [hconv, conv_ofInt]
  · have hw : 0 < width := elemWidth_pos dty
    have hout (z : Int) : ((if sat then z else indefinite width) % 2 ^ width).toNat = wrong z := by
      cases sat
      · exact indefinite_mod hw
      · rfl
    rw [convElem_int hd hs]
    show (v.toIntFmt m sat (Ty.signed dty) width % 2 ^ width).toNat = _
    cases hv : v with
    | nan => exact hout 0
    | inf neg => exact hout (if neg then lo else hi)
    | zero => simp [FVal.toIntFmt]
    | fin x =>
      rw [toIntFmt_fin]
      simp only
      split
      · exact hout hi
      split
      · exact hout lo
      · rfl

end Sys2Proof.Proofs.Conversions
end

section
/-! SUPPORT. The special functions: special operands, operands with exact results, and the bounds (06 R144, R145); the settlement of O6. -/

namespace Sys2Proof.Proofs.Specials

open Sys2Proof.Machine Sys2Proof.Claims Sys2Proof.Safety Sys2Proof.Proofs.Rounding

/-! ## Powers of two: finite tables -/

theorem frcpVal_pow : ∀ n < 254, 1 ≤ n → ∀ neg : Bool,
    frcpVal ((if neg then 0x80000000 else 0) ||| BitVec.ofNat 32 (n * 2 ^ 23)) =
      (if neg then 0x80000000 else 0) ||| BitVec.ofNat 32 ((254 - n) * 2 ^ 23) := by
  decide +kernel

theorem frcpVal_subnormal : ∀ k < 22, frcpVal (BitVec.ofNat 32 (2 ^ k)) = 0x7F800000 ∧ frcpVal (BitVec.ofNat 32 (2 ^ 31 + 2 ^ k)) = 0xFF800000 := by
  decide +kernel

theorem frsqVal_pow : ∀ k < 127, frsqVal (BitVec.ofNat 32 ((2 * k + 1) * 2 ^ 23)) = BitVec.ofNat 32 ((190 - k) * 2 ^ 23) := by
  decide +kernel

theorem frsqVal_subnormal : ∀ k < 11, frsqVal (BitVec.ofNat 32 (2 ^ (2 * k + 1))) = BitVec.ofNat 32 ((201 - k) * 2 ^ 23) := by
  decide +kernel

theorem flog2Val_pow : ∀ n : Nat, n < 255 → 1 ≤ n →
    flog2Val (BitVec.ofNat 32 (n * 2 ^ 23)) = BitVec.ofNat 32 (fp32.arith .rne false (FVal.ofInt ((n : Int) - 127))) := by
  decide +kernel

theorem flog2Val_subnormal : ∀ k : Nat, k < 23 →
    flog2Val (BitVec.ofNat 32 (2 ^ k)) = BitVec.ofNat 32 (fp32.arith .rne false (FVal.ofInt ((k : Int) - 149))) := by
  decide +kernel

/-! ## Integers near a value -/

theorem toInteger_rd_le_ru (x : Exact) : x.toInteger .rd ≤ x.toInteger .ru := by
  simp only [Exact.toInteger, GridPos.up]
  split <;> split <;> simp <;> omega

theorem specialFunctions : Claims.specialFunctions := by
  refine ⟨fun h d a rm sat => ⟨each_of_words rfl fun _ _ => rfl, each_of_words rfl fun _ _ => rfl, each_of_float rfl fun _ _ => rfl,
      each_of_words rfl fun _ _ => rfl, each_of_words rfl fun _ _ => rfl, each_of_words rfl fun _ _ => rfl, each_of_words rfl fun _ _ => rfl⟩,
    fun w h => ?_, ?_, ?_, ?_, ?_, fun m sat => rfl, fun w x h => ⟨fun hneg => ?_, fun hhi => ?_, fun hlo => ?_⟩,
    fun n h1 h253 neg => frcpVal_pow n (by omega) h1 neg, ?_, fun k hk => frcpVal_subnormal k (by omega), fun k hk => frsqVal_pow k (by omega),
    fun k hk => frsqVal_subnormal k (by omega), fun n h1 h254 => flog2Val_pow n (by omega) h1, fun k hk => flog2Val_subnormal k (by omega)⟩
  · simp only [frcpVal, frsqVal, fexp2Val, flog2Val, fsinpVal, fcospVal, h]
    exact ⟨rfl, rfl, rfl, rfl, rfl, rfl, fun _ _ => rfl⟩
  · decide +kernel
  · decide +kernel
  · decide +kernel
  · decide +kernel
  · simp only [frsqVal, flog2Val, h, if_pos hneg, Fmt.sqrt]
    exact ⟨rfl, rfl, fun _ _ => rfl⟩
  · simp only [fexp2Val, h, if_pos hhi]
    rfl
  · have hle := toInteger_rd_le_ru x
    simp only [fexp2Val, h]
    rw [if_neg (by omega), if_pos hlo]
    rfl
  · decide +kernel

/-! ## Integers and halves (06 R144, R145) -/

/-- A value that is an integer rounds to it in every mode. -/
theorem toInteger_of_int {x : Exact} {n : Int} (h : x.int? = some n) (m : RMode) : x.toInteger m = n := by
  have hup (hex : (x.onUnit 0).exact = true) (m : RMode) (neg : Bool) : (x.onUnit 0).up m neg = false := if_pos hex
  simp only [Exact.int?] at h
  split at h
  · rw [← Option.some.inj h]
    simp only [Exact.toInteger, hup ‹_›]
  · cases h

theorem roundFin_pow : ∀ k : Nat, k < 254 → fp32.roundFin .rne false ⟨1, 1, (k : Int) - 126⟩ = (k + 1) * 2 ^ 23 := by
  decide +kernel

theorem roundFin_pow_subnormal : ∀ k : Nat, k < 23 → fp32.roundFin .rne false ⟨1, 1, (k : Int) - 149⟩ = 2 ^ k := by
  decide +kernel

section
variable {w : Word} {x : Exact} (h : fp32.decode w.toNat = .fin x) {n : Int}
include h

theorem fexp2Val_of_int (hn : x.int? = some n) (h1 : -149 ≤ n) (h2 : n ≤ 127) :
    fexp2Val w = BitVec.ofNat 32 (fp32.roundFin .rne false ⟨1, 1, n⟩) := by
  simp only [fexp2Val, h, toInteger_of_int hn, hn]
  rw [if_neg (by omega), if_neg (by omega), if_pos h1]

theorem fsinpVal_of_int (hn : x.int? = some n) : fsinpVal w = if x.num < 0 then 0x80000000 else 0 := by
  simp only [fsinpVal, h, hn, f32Zero, decide_eq_true_eq]
  rfl

theorem fcospVal_of_int (hn : x.int? = some n) : fcospVal w = if n % 2 = 0 then 0x3F800000 else 0xBF800000 := by
  simp only [fcospVal, h, hn, f32One, decide_eq_true_eq]
  split <;> simp_all

/-- At the middle between two integers. -/
theorem fsinpVal_of_half (hi : x.int? = none) (hn : (x.scale 1).int? = some (2 * n + 1)) :
    fsinpVal w = if n % 2 = 0 then 0x3F800000 else 0xBF800000 := by
  have hhalf : (2 * n + 1) / 2 = n := by omega
  simp only [fsinpVal, h, hi, hn, f32One, hhalf, decide_eq_true_eq]
  split <;> simp_all

theorem fcospVal_of_half (hi : x.int? = none) (hn : (x.scale 1).int? = some (2 * n + 1)) : fcospVal w = 0 := by
  simp only [fcospVal, h, hi, hn]
  rfl

end

/-! ## Bounds (06 R144) -/

/-- The bound of FLOG2: absolute near 1, in ulp elsewhere. -/
def log2Ok (x y : Exact) (w : Word) : Bool :=
  if x.binade == -1 || x.binade == 0 then (match finiteOf w with
    | none => false
    | some none => (⟨0, 1, 0⟩ : Exact).within y 1 (-21)
    | some (some u) => u.within y 1 (-21))
  else nearUlp w y 2

/-- A value that is picked is a free one inside the bound, or the nearest. -/
theorem pick_spec (fn : Config.SpecialFn) (a : Word) (ok : Word → Bool) (y : Exact) :
    ok (pick fn a ok y) = true ∨ pick fn a ok y = BitVec.ofNat 32 (fp32.roundFin .rne false y) := by
  simp only [pick]
  split
  · exact .inl ‹_›
  · exact .inr rfl

section
variable {w : Word} {x : Exact} (h : fp32.decode w.toNat = .fin x)
include h

theorem frcpVal_beyond (hb : fp32.beyond 1 (Exact.div ⟨1, 1, 0⟩ x).binade = true) :
    frcpVal w = if x.num < 0 then 0xFF800000 else 0x7F800000 := by
  simp only [frcpVal, h, if_pos hb, f32Inf, decide_eq_true_eq]
  rfl

theorem frcpVal_bounded (hb : fp32.beyond 1 (Exact.div ⟨1, 1, 0⟩ x).binade = false) : bounded (frcpVal w) (Exact.div ⟨1, 1, 0⟩ x) 1 := by
  simp only [frcpVal, h, hb, Bool.false_eq_true, if_false]
  cases x.pow2? with
  | some k => exact .inr rfl
  | none => exact pick_spec .rcp w (fun v => nearUlp v _ 1) _

theorem frsqVal_bounded (hpos : 0 < x.num) : nearRsq x (frsqVal w) = true ∨ frsqVal w = rsqNearest x := by
  have hfree : let v := (let v := Config.specialBits .rsq w; if nearRsq x v then v else rsqNearest x)
      nearRsq x v = true ∨ v = rsqNearest x := by
    simp only
    split
    · exact .inl ‹_›
    · exact .inr rfl
  simp only [frsqVal, h]
  rw [if_neg (by omega)]
  cases x.pow2? with
  | none => exact hfree
  | some k =>
    simp only
    split
    · exact .inr rfl
    · exact hfree

theorem fexp2Val_bounded {y : Exact} (hi : x.int? = none) (hlo : x.toInteger .rd < 128) (hhi : -151 < x.toInteger .ru)
    (hy : exp2Approx x = some y) : bounded (fexp2Val w) y 2 := by
  simp only [fexp2Val, h, hi, hy]
  rw [if_neg (by omega), if_neg (by omega)]
  exact pick_spec .exp2 w (fun v => nearUlp v y 2) y

/-- An operand of FLOG2 that is no power of two. -/
theorem flog2Val_eq_pick {y : Exact} (hpos : 0 < x.num) (hp : x.pow2? = none) (hy : log2Approx x = some y) :
    flog2Val w = pick .log2 w (log2Ok x y) y := by
  simp only [flog2Val, h, hp, hy]
  rw [if_neg (by omega)]
  rfl

theorem fsinpVal_bounded {r z : Exact} (hi : x.int? = none) (hh : (x.scale 1).int? = none) (hr : x.sub ⟨nearestInt x, 1, 0⟩ = some r)
    (hz : sinPiApprox r = some z) : (nearUlp (fsinpVal w) (if nearestInt x % 2 = 0 then z else z.neg) 2 && atMostOne (fsinpVal w)) = true ∨
      fsinpVal w = BitVec.ofNat 32 (fp32.roundFin .rne false (if nearestInt x % 2 = 0 then z else z.neg)) := by
  simp only [fsinpVal, h, hi, hh, hr, hz]
  exact pick_spec .sinp w (fun v => nearUlp v _ 2 && atMostOne v) _

end

theorem specialBounds : Claims.specialBounds := by
  intro w x h
  refine ⟨fun n hn => ⟨fun h1 h2 => ?_, fun h1 h2 => ?_, fsinpVal_of_int h hn, fcospVal_of_int h hn⟩,
    fun n hi hn => ⟨fsinpVal_of_half h hi hn, fcospVal_of_half h hi hn⟩, ⟨frcpVal_beyond h, frcpVal_bounded h⟩, frsqVal_bounded h,
    fun y hi hlo hhi hy => fexp2Val_bounded h hi hlo hhi hy, fun y hpos hp hy => ?_, fun r z hi hh hr hz => ?_⟩
  · have hpow := roundFin_pow (n + 126).toNat (by omega)
    rw [fexp2Val_of_int h hn (by omega) h2]
    rw [Int.toNat_of_nonneg (by omega), Int.add_sub_cancel] at hpow
    rw [hpow, show (n + 126).toNat + 1 = (n + 127).toNat by omega]
  · have hpow := roundFin_pow_subnormal (n + 149).toNat (by omega)
    rw [Int.toNat_of_nonneg (by omega), Int.add_sub_cancel] at hpow
    rw [fexp2Val_of_int h hn h1 (by omega), hpow]
  · have hor := pick_spec .log2 w (log2Ok x y) y
    rw [← flog2Val_eq_pick h hpos hp hy] at hor
    refine ⟨fun h1 h0 => ?_, fun hnear => hor.symm.imp_right fun hok => ?_⟩
    · have hfar : (x.binade == -1 || x.binade == 0) = false := by simp [h1, h0]
      simp only [log2Ok, hfar, Bool.false_eq_true, if_false] at hor
      exact hor
    · have hnear' : (x.binade == -1 || x.binade == 0) = true := by simpa using hnear
      rw [log2Ok, if_pos hnear'] at hok
      exact hok
  · have hor := fsinpVal_bounded h hi hh hr hz
    simp only [Bool.and_eq_true] at hor
    exact ⟨hor.imp_left And.left, hor.imp_left And.right⟩

end Sys2Proof.Proofs.Specials

namespace Sys2Proof.Proofs

open Sys2Proof.Proofs.Specials Sys2Proof.Proofs.Conversions

/-- Settles O6: the exact rows are finite tables of powers of two, integers and halves; elsewhere a result is a free one inside the bound or
the nearest (`pick_spec`). A conversion rounds once, and stochastic rounding chooses between the neighbours of the signed number of steps. -/
theorem specialAndConversions : Obligations.SpecialAndConversions :=
  ⟨specialOperands, specialFunctions, specialBounds, conversions, conversionRules⟩

end Sys2Proof.Proofs
end

section
/-! SUPPORT. What the decoder reads, the encoder writes again: from a slot that decodes back to the fields it is made of (04 R79, R89 to R94). -/

namespace Sys2Proof.Decode

/-! ## Codes of the small fields -/

theorem opdCode_of_opdOf {c : BitVec 8} {o : Opd} (h : opdOf c = .ok o) : opdCode o = c := by
  have hall : ∀ c : BitVec 8, (opdOf c).toOption.all (fun o => opdCode o == c) = true := by decide +kernel
  simpa [h, Except.toOption] using hall c

theorem tyCode_of_tyOf {c : BitVec 4} {t : Ty} (h : tyOf c = .ok t) : tyCode t = c := by
  have hall : ∀ c : BitVec 4, (tyOf c).toOption.all (fun t => tyCode t == c) = true := by decide
  simpa [h, Except.toOption] using hall c

theorem rmCode_of_rmOf {c : BitVec 3} {r : Rm} (h : rmOf c = .ok r) : rmCode r = c := by
  have hall : ∀ c : BitVec 3, (rmOf c).toOption.all (fun r => rmCode r == c) = true := by decide
  simpa [h, Except.toOption] using hall c

theorem cmpCode_cmpOf (c : BitVec 3) : cmpCode (cmpOf c) = c := by revert c; decide
theorem scopeCode_scopeOf (c : BitVec 3) : scopeCode (scopeOf c) = c := by revert c; decide

/-! ## Neighbouring fields, put together again -/

section
variable {w : Nat} (x : BitVec w)

/-- A field of one bit. -/
theorem bit_getLsbD (i : Nat) : bit (x.getLsbD i) = x.extractLsb' i 1 := by
  ext j hj
  obtain rfl : j = 0 := by omega
  simp [bit]

theorem join_fields {lo n hi : Nat} (m : Nat) (h : hi = lo + n) : x.extractLsb' hi m ++ x.extractLsb' lo n = x.extractLsb' lo (m + n) :=
  BitVec.extractLsb'_append_extractLsb'_eq_extractLsb' h

/-- A field above one that is zero. -/
theorem join_zero_low {n hi : Nat} (m : Nat) (h : n ≤ hi) (hz : x.extractLsb' (hi - n) n = 0#n) :
    x.extractLsb' hi m ++ 0#n = x.extractLsb' (hi - n) (m + n) := by
  rw [← hz]
  exact join_fields x m (by omega)

/-- A field below one that is zero. -/
theorem join_zero_high {lo n m : Nat} (hz : x.extractLsb' (lo + n) m = 0#m) : 0#m ++ x.extractLsb' lo n = x.extractLsb' lo (m + n) := by
  rw [← hz]
  exact join_fields x m rfl

end

/-! ## The body formats -/

theorem ok_of_bind {α β : Type} {r : Except Reject α} {f : α → Except Reject β} {b : β} (h : (r >>= f) = .ok b) :
    ∃ a, r = .ok a ∧ f a = .ok b := by
  cases r with
  | error e => exact nomatch h
  | ok a => exact ⟨a, rfl, h⟩

theorem body_of_readA {x : BitVec 62} {v : ViewA} (h : readA x = .ok v) : v.body = x := by
  obtain ⟨d, hd, h⟩ := ok_of_bind h
  obtain ⟨a, ha, h⟩ := ok_of_bind h
  obtain ⟨b, hb, h⟩ := ok_of_bind h
  obtain ⟨c, hc, h⟩ := ok_of_bind h
  obtain ⟨ty, ht, h⟩ := ok_of_bind h
  obtain ⟨rm, hr, h⟩ := ok_of_bind h
  cases h
  simp only [ViewA.body, opdCode_of_opdOf hd, opdCode_of_opdOf ha, opdCode_of_opdOf hb, opdCode_of_opdOf hc, tyCode_of_tyOf ht,
    rmCode_of_rmOf hr, bit_getLsbD, join_fields]
  exact field_all x

theorem body_of_readI {x : BitVec 62} {v : ViewI} (h : readI x = .ok v) : v.body = x := by
  obtain ⟨d, hd, h⟩ := ok_of_bind h
  obtain ⟨a, ha, h⟩ := ok_of_bind h
  cases h
  simp only [ViewI.body, opdCode_of_opdOf hd, opdCode_of_opdOf ha, join_fields]
  exact field_all x

theorem body_of_readM {x : BitVec 62} {v : ViewM} (h : readM x = .ok v) : v.body = x := by
  obtain ⟨d, hd, h⟩ := ok_of_bind h
  obtain ⟨b, hb, h⟩ := ok_of_bind h
  obtain ⟨i, hi, h⟩ := ok_of_bind h
  obtain ⟨ty, ht, h⟩ := ok_of_bind h
  cases h
  simp only [ViewM.body, opdCode_of_opdOf hd, opdCode_of_opdOf hb, opdCode_of_opdOf hi, tyCode_of_tyOf ht, join_fields]
  exact field_all x

theorem body_readB (x : BitVec 62) : (readB x).body = x := by
  simp only [readB, ViewB.body, join_fields]
  exact field_all x

theorem body_of_readT {x : BitVec 62} {v : ViewT} (h : readT x = .ok v) : v.body = x := by
  obtain ⟨d, hd, h⟩ := ok_of_bind h
  obtain ⟨a, ha, h⟩ := ok_of_bind h
  obtain ⟨b, hb, h⟩ := ok_of_bind h
  obtain ⟨ty, ht, h⟩ := ok_of_bind h
  obtain ⟨rm, hr, h⟩ := ok_of_bind h
  cases h
  simp only [ViewT.body, opdCode_of_opdOf hd, opdCode_of_opdOf ha, opdCode_of_opdOf hb, tyCode_of_tyOf ht, rmCode_of_rmOf hr, bit_getLsbD,
    join_fields]
  exact field_all x

/-! ## The header -/

theorem hdrBits_of_readHdr {x : BitVec 24} {h : Hdr} (hr : readHdr x = .ok h) : hdrBits h = x := by
  suffices hs : setfCode h.setf = x.extractLsb' 4 4 ∧ h = ⟨x.extractLsb' 20 4, x.extractLsb' 8 12, h.setf, x.getLsbD 3, x.extractLsb' 0 3⟩ by
    rw [hdrBits_eq, hs.1, hs.2]
    simp only [bit_getLsbD, join_fields]
    exact field_all x
  have hsf : (setfCode h.setf).toNat = (x.extractLsb' 4 4).toNat ↔ setfCode h.setf = x.extractLsb' 4 4 := BitVec.toNat_inj
  rw [← hsf, setfCode_toNat]
  unfold readHdr at hr
  simp only at hr
  split at hr
  · obtain ⟨sf, hs, hr⟩ := ok_of_bind hr
    cases hs
    split at hr
    · exact nomatch hr
    · cases hr
      exact ⟨rfl, rfl⟩
  · split at hr
    next h15 =>
      obtain ⟨sf, hs, hr⟩ := ok_of_bind hr
      cases hs
      split at hr
      · exact nomatch hr
      · cases hr
        exact ⟨h15.symm, rfl⟩
    next => exact nomatch hr

/-! ## What is decoded is written -/

/-- What is decoded, if anything, is what the encoder gives this opcode, header and body. -/
def Writes (op : Nat) (h : Hdr) (v : View) (r : Except Reject Instr) : Prop := ∀ i, r = .ok i → encodeView i = some (BitVec.ofNat 10 op, h, v)

section
variable {op : Nat} {h : Hdr} {v : View}

theorem writes_error {e : Reject} : Writes op h v (.error e) := fun _ hi => nomatch hi

theorem writes_return {i : Instr} (he : encodeView i = some (BitVec.ofNat 10 op, h, v)) : Writes op h v (pure i) := by
  intro j hj
  cases hj
  exact he

theorem writes_bind {α : Type} {r : Except Reject α} {f : α → Except Reject Instr} (hf : ∀ a, r = .ok a → Writes op h v (f a)) :
    Writes op h v (r >>= f) := by
  intro i hi
  obtain ⟨a, ha, hi⟩ := ok_of_bind hi
  exact hf a ha i hi

/-- An instruction whose view is the one that was read. -/
theorem writes_view {i : Instr} {v' : View} (he : encodeView i = some (BitVec.ofNat 10 op, h, v')) (hv : v' = v) : Writes op h v (pure i) :=
  writes_return (hv ▸ he)

/-- An instruction behind a condition on the unassigned fields, and behind the reading of a field where it has one with codes of its own. -/
theorem writes_need_bind {b : Bool} {α : Type} {r : Except Reject α} {f : α → Instr} {v' : α → View}
    (he : ∀ a, encodeView (f a) = some (BitVec.ofNat 10 op, h, v' a)) (hv : ∀ a, r = .ok a → b = true → v' a = v) :
    Writes op h v (need b >>= fun _ => r >>= fun a => pure (f a)) := by
  refine writes_bind fun _ hb => writes_bind fun a ha => writes_view (he a) (hv a ha ?_)
  cases b with
  | true => rfl
  | false => exact nomatch hb

theorem writes_need {b : Bool} {i : Instr} {v' : View} (he : encodeView i = some (BitVec.ofNat 10 op, h, v')) (hv : b = true → v' = v) :
    Writes op h v (need b >>= fun _ => pure i) :=
  writes_need_bind (r := .ok ()) (f := fun _ => i) (fun _ => he) (fun _ _ => hv)

end

/-- Format A; only CVT has a field with codes of its own, its source type. -/
theorem writes_decodeA (op : Nat) (h : Hdr) (v : ViewA) : Writes op h (.a v) (decodeA op h v) := by
  unfold decodeA decodeA0 decodeA1 decodeA2 decodeA3 decodeA4 decodeA5 decodeA6 decodeA8 decodeA9 decodeAA decodeAD decodeAE
  cases v
  repeat' split
  all_goals first
    | exact writes_error
    | exact writes_need rfl (by simp +contextual only [Bool.and_eq_true, beq_iff_eq, BitVec.ofNat_eq_ofNat, Bool.not_eq_true', bit_getLsbD,
        join_fields, join_zero_low, join_zero_high, cmpCode_cmpOf, scopeCode_scopeOf, Nat.reduceSub, Nat.reduceLeDiff, field_all, implies_true])
    | exact writes_need_bind (fun _ => rfl) (fun _ ht => by simp +contextual only [tyCode_of_tyOf ht, Bool.and_eq_true, beq_iff_eq, BitVec.ofNat_eq_ofNat,
        join_fields, join_zero_low, Nat.reduceSub, Nat.reduceLeDiff, field_all, implies_true])

theorem writes_decodeI (op : Nat) (h : Hdr) (v : ViewI) : Writes op h (.i v) (decodeI op h v) := by
  unfold decodeI
  cases v
  split
  all_goals first
    | exact writes_error
    | exact writes_need rfl (by simp +contextual only [Bool.and_eq_true, beq_iff_eq, BitVec.ofNat_eq_ofNat,
        join_zero_low, join_zero_high, Nat.reduceSub, Nat.reduceLeDiff, field_all, implies_true])

/-- The one field of PREF lies between fields that are zero (08 R199). -/
theorem pref_field {x : BitVec 8} (h5 : x.extractLsb' 3 5 = 0#5) (h1 : x.extractLsb' 2 1 = 0#1) (h0 : x.extractLsb' 0 1 = 0#1) :
    0#5 ++ 0#1 ++ bit (x.getLsbD 1) ++ 0#1 = x := by
  calc 0#5 ++ 0#1 ++ bit (x.getLsbD 1) ++ 0#1
    _ = x.extractLsb' 3 5 ++ x.extractLsb' 2 1 ++ x.extractLsb' 1 1 ++ x.extractLsb' 0 1 := by rw [h5, h1, h0, bit_getLsbD]
    _ = x.extractLsb' 0 8 := by simp only [join_fields]
    _ = x := field_all x

/-- Format M: loads, stores and atomics assign every bit of it. -/
theorem writes_decodeM (op : Nat) (h : Hdr) (v : ViewM) : Writes op h (.m v) (decodeM op h v) := by
  unfold decodeM
  cases v
  split
  case h_8 =>
    refine writes_need rfl fun hb => ?_
    simp only [Bool.and_eq_true, beq_iff_eq, BitVec.ofNat_eq_ofNat] at hb
    obtain ⟨⟨⟨⟨h5, h1⟩, h0⟩, rfl⟩, rfl⟩ := hb
    exact congrArg (fun low => View.m ⟨.zero, _, .i32, low⟩) (pref_field h5 h1 h0)
  all_goals first
    | exact writes_error
    | exact writes_view rfl (by simp only [mmCode, bit_getLsbD, join_fields, scopeCode_scopeOf, field_all])
    | exact writes_need rfl (by simp +contextual only [Bool.and_eq_true, beq_iff_eq, BitVec.ofNat_eq_ofNat, join_fields, join_zero_low,
        join_zero_high, Nat.reduceSub, Nat.reduceLeDiff, field_all, implies_true])

/-- Format B; BPEND names a register in its own bits. -/
theorem writes_decodeB (op : Nat) (h : Hdr) (v : ViewB) : Writes op h (.b v) (decodeB op h v) := by
  unfold decodeB
  cases v
  split
  case h_3 =>
    exact writes_need_bind (fun _ => rfl) (fun _ ho => by simp +contextual only [opdCode_of_opdOf ho, beq_iff_eq, BitVec.ofNat_eq_ofNat,
      bit_getLsbD, join_fields, join_zero_low, Nat.reduceSub, Nat.reduceLeDiff, field_all, implies_true])
  all_goals first
    | exact writes_error
    | exact writes_need rfl (by simp +contextual only [beq_iff_eq, BitVec.ofNat_eq_ofNat, field_all, implies_true])

theorem writes_decodeT (op : Nat) (h : Hdr) (v : ViewT) : Writes op h (.t v) (decodeT op h v) := by
  unfold decodeT
  cases v
  split
  all_goals first
    | exact writes_error
    | exact writes_need rfl (by simp +contextual only [Bool.and_eq_true, beq_iff_eq, BitVec.ofNat_eq_ofNat, Bool.not_eq_true', bit_getLsbD,
        join_fields, join_zero_low, join_zero_high, Nat.reduceSub, Nat.reduceLeDiff, field_all, implies_true])

/-! ## A slot -/

theorem writes_parse (op : Nat) (h : Hdr) (x : BitVec 62) {i : Instr} (hi : parse op h x = .ok i) :
    ∃ v : View, v.body = x ∧ encodeView i = some (BitVec.ofNat 10 op, h, v) := by
  unfold parse at hi
  split at hi
  next => exact nomatch hi
  next => obtain ⟨v, hv, hi⟩ := ok_of_bind hi; exact ⟨.a v, body_of_readA hv, writes_decodeA op h v i hi⟩
  next => obtain ⟨v, hv, hi⟩ := ok_of_bind hi; exact ⟨.i v, body_of_readI hv, writes_decodeI op h v i hi⟩
  next => obtain ⟨v, hv, hi⟩ := ok_of_bind hi; exact ⟨.m v, body_of_readM hv, writes_decodeM op h v i hi⟩
  next => exact ⟨.b (readB x), body_readB x, writes_decodeB op h _ i hi⟩
  next => obtain ⟨v, hv, hi⟩ := ok_of_bind hi; exact ⟨.t v, body_of_readT hv, writes_decodeT op h v i hi⟩

/-- A slot that decodes has a header and a well-formed instruction. -/
theorem decode_inv {w : Slot} {i : Instr} (hw : decode w = .ok i) :
    ∃ h, readHdr (w.extractLsb' 62 24) = .ok h ∧ parse (opcode w) h (w.extractLsb' 0 62) = .ok i ∧ i.wf = true := by
  unfold decode at hw
  dsimp only at hw
  split at hw
  · exact nomatch hw
  · obtain ⟨h, hh, hw⟩ := ok_of_bind hw
    obtain ⟨j, hj, hw⟩ := ok_of_bind hw
    split at hw
    next wf => cases hw; exact ⟨h, hh, hj, wf⟩
    next => exact nomatch hw

theorem encode_of_decode {w : Slot} {i : Instr} (hw : decode w = .ok i) : encode i = some w := by
  obtain ⟨h, hh, hi, -⟩ := decode_inv hw
  obtain ⟨v, hv, he⟩ := writes_parse _ _ _ hi
  have hop : BitVec.ofNat 10 (opcode w) = w.extractLsb' 86 10 := BitVec.ofNat_toNat ..
  rw [encode, he, Option.map_some, hop, hdrBits_of_readHdr hh, hv]
  exact congrArg some ((congrArg (fun y => y ++ w.extractLsb' 0 62) (join_fields w 10 rfl)).trans ((join_fields w 34 rfl).trans (field_all w)))

end Sys2Proof.Decode

namespace Sys2Proof.Laws.RoundTrip

/-- Every lane instruction has its lemma above; the other steps have no encoding. -/
theorem decode_encode (i : Instr) : Statement i := by
  cases i with
  | nop => apply nop | bra => apply bra | brx => apply brx | call => apply call | callx => apply callx | ret => apply ret
  | bpend => apply bpend | exit => apply exit | yield => apply yield | idem => apply idem | trap => apply trap | brk => apply brk
  | mode => apply mode | join => apply join | leave => apply leave | launch => apply launch | nap => apply nap | iadd => apply iadd
  | isub => apply isub | iaddc => apply iaddc | isubb => apply isubb | imul => apply imul | imulh => apply imulh | imad => apply imad
  | imadw => apply imadw | imin => apply imin | imax => apply imax | iabs => apply iabs | ineg => apply ineg | lea => apply lea
  | iadd64 => apply iadd64 | isad => apply isad | idot4 => apply idot4 | ireq => apply ireq | mov => apply mov | movi => apply movi
  | movx => apply movx | movxw => apply movxw | and => apply and | or => apply or | xor => apply xor | not => apply not
  | andn => apply andn | shl => apply shl | shr => apply shr | sar => apply sar | rol => apply rol | fshl => apply fshl
  | bfe => apply bfe | bfi => apply bfi | popc => apply popc | clz => apply clz | ctz => apply ctz | brev => apply brev
  | prmt => apply prmt | lop3 => apply lop3 | icmp => apply icmp | fcmp => apply fcmp | sel => apply sel | pset => apply pset
  | pmov => apply pmov | vote => apply vote | shfl => apply shfl | redux => apply redux | scan => apply scan | matchT => apply matchT
  | fadd => apply fadd | fsub => apply fsub | fmul => apply fmul | ffma => apply ffma | fmin => apply fmin | fmax => apply fmax
  | fclass => apply fclass | fscale => apply fscale | frnd => apply frnd | fdot2 => apply fdot2 | frcp => apply frcp
  | frsq => apply frsq | fsqrt => apply fsqrt | fexp2 => apply fexp2 | flog2 => apply flog2 | fsinp => apply fsinp
  | fcosp => apply fcosp | cvt => apply cvt | cvtef => apply cvtef | cvtsr => apply cvtsr | blkh => apply blkh | blkhw => apply blkhw
  | blkpack => apply blkpack | blkunp => apply blkunp | blkscl => apply blkscl | ld => apply ld | st => apply st | ldu => apply ldu
  | stu => apply stu | ldb => apply ldb | stb => apply stb | pref => apply pref | cwb => apply cwb | cinv => apply cinv
  | atom => apply atom | red => apply red | cas => apply cas | fence => apply fence | algld => apply algld | algrd => apply algrd
  | algclr => apply algclr | bari => apply bari | bara => apply bara | barw => apply barw | bard => apply bard | barq => apply barq
  | watch => apply watch | doze => apply doze | unwatch => apply unwatch | shrmap => apply shrmap | shrunmap => apply shrunmap
  | ferd => apply ferd | fewr => apply fewr | qcfg => apply qcfg | qstat => apply qstat | tokw => apply tokw | tokp => apply tokp
  | bdecl => apply bdecl | bset => apply bset | brel => apply brel | bqry => apply bqry | stat => apply stat | unstat => apply unstat
  | oclaim => apply oclaim | orels => apply orels | oput => apply oput | task => apply task | accz => apply accz | accrd => apply accrd
  | accwr => apply accwr | acccmt => apply acccmt | accdsc => apply accdsc | twait => apply twait | slay => apply slay
  | sfill => apply sfill | sdrain => apply sdrain | ssig => apply ssig | qfence => apply qfence | coll => apply coll
  | cseq => apply cseq | ewait => apply ewait | rand => apply rand | rres => apply rres | csrr => apply csrr | csrw => apply csrw
  | clock => apply clock | tret => apply tret | stoprd => apply stoprd | regev => apply regev | haltl => apply haltl
  | errlog => apply errlog | stest => apply stest | tlbinv => apply tlbinv
  | _ => exact of_none rfl

theorem encode_of_hdr {i : Instr} {h : Hdr} (hi : Machine.Instr.hdr? i = some h) : ∃ w, encode i = some w := by
  cases i <;> first
    | exact ⟨_, rfl⟩
    | exact nomatch hi

end Sys2Proof.Laws.RoundTrip

namespace Sys2Proof.Proofs

open Sys2Proof.Decode

/-- Settles O52: each constructor is read back from its word (`decode_encode`), and each with a header has one. -/
theorem decodeEncodeAgree : Obligations.DecodeEncodeAgree :=
  ⟨Laws.RoundTrip.decode_encode, fun _ _ hi _ => Laws.RoundTrip.encode_of_hdr hi⟩

/-- Settles O53: the readers of the fields have the codes as their inverses, and what a group decodes is what `encodeView` gives for its
opcode, header and body (`writes_parse`). -/
theorem decodedSlotsAreEncoded : Obligations.DecodedSlotsAreEncoded := by
  intro w i hw
  obtain ⟨-, -, -, wf⟩ := decode_inv hw
  exact ⟨wf, encode_of_decode hw⟩

/-- Settles O51: the words are evaluated, and an opcode without a format is refused before anything else of the slot is read (04 R96 row 1). -/
theorem decodeSanity : Obligations.DecodeSanity := by
  refine ⟨by decide, by decide, by decide, by decide, by decide, by decide, fun w hf => ⟨.opcode, ?_⟩⟩
  simp [decode, hf, throw, throwThe, MonadExceptOf.throw, bind, Except.bind]

end Sys2Proof.Proofs
end

section
/-! SUPPORT. What the checks of an address and the accesses of an instruction come to (08 R190 to R193, 10 R240 to R242; 18 R362, R365). -/

namespace Sys2Proof.Proofs.Accesses

open Sys2Proof.Machine Sys2Proof.Claims Sys2Proof.Safety

/-! ## A package without errors -/

variable {i : Instr} {s s1 t : State} {y : Iss}

/-- No word holds an error, no unit of the package is out of use, and no self-test runs. -/
structure Calm (s : State) (n : Nat) : Prop where
  latent : s.latent = []
  outOfUse : (s.pkg n).outOfUse = []
  tests : s.anyTest = false

theorem popAll_frame {c : CtxId} {qpb : Assoc Nat (Nat × Nat)} {rs : List (Nat × Pos × Nat)} {acc pops : Assoc (Nat × Pos) Word}
    (h : popAll c qpb rs s acc = some (s1, pops)) : s1 = { s with tctx := s1.tctx } := by
  induction rs generalizing s acc with
  | nil => cases h; rfl
  | cons r rs ih =>
    unfold popAll at h
    split at h
    next => cases h
    next =>
      split at h
      next => cases h
      next =>
        have hrest := ih h
        exact hrest

theorem calm_of_performs (h : Performs i s y s1) : Calm s1 y.st.part.pkg := by
  obtain ⟨x, pops, ⟨z, c, -, -, -, -, hh⟩, -, -, hpop, -, rfl⟩ := h
  simp only [State.healthy, Bool.and_eq_true, List.isEmpty_iff, Bool.not_eq_true'] at hh
  rw [popAll_frame hpop]
  exact ⟨hh.1.1, hh.1.2, hh.2⟩

theorem testing_of_calm {n : Nat} (h : Calm s n) (site : Site) : s.testing site = false := by
  have hno : ∀ n u, s.testOf n u = none := fun n u => by
    rw [State.testOf, List.find?_eq_none.2]
    · rfl
    · intro m hm
      have hm' := List.any_eq_false.1 h.tests m hm
      revert hm'
      cases m.2 <;> simp
  unfold State.testing
  split
  · rw [hno]; rfl
  · rfl

/-- A copy in a cache of the package meets no error, whatever the rest of the state (18 R363, R366). -/
theorem consume_copy {tile : TileId} (hl : s.latent = []) (ho : (s.pkg tile.part.pkg).outOfUse = []) (line cons : Nat) (who : PartId) :
    s.consume (.copy tile line) false cons who = (s, .ok) := by
  have hno : s.errorAt (.copy tile line) = none := by simp [State.errorAt, hl]
  unfold State.consume
  rw [hno]
  simp [siteUnit, siteUnit.bank, State.unusable, ho]

/-! ## The checks of R191 -/

theorem checkAll_eq {need : Need} {size : Nat} {page : Place → Option Flt} {va : Nat → Dword} {place : Nat → Place} {ts : List Nat}
    (h : ∀ t ∈ ts, checkAddr s y.st need (va t) size = .at_ (place t) ∧ page (place t) = none) :
    checkAll s y need size page (ts.map (fun t => (t, va t))) = .ok (ts.map (fun t => { t := t, va := va t, place := place t })) := by
  induction ts with
  | nil => rfl
  | cons t ts ih =>
    obtain ⟨⟨hc, hp⟩, hts⟩ := List.forall_mem_cons.1 h
    simp only [List.map_cons, checkAll, hc, hp, ih hts]

/-! ## An operation -/

/-- The place of an access to memory. -/
def Spot.place (w : Spot) : Place := .mem w.key w.leaf w.tile

theorem mkOp_eq_opOf (s : State) (y : Iss) (n : Nat) (sp : OpSpec) (t : Nat) (va : Dword) (w : Spot) (val : BitVec 512) (exp : Dword) :
    mkOp y (s.ctx y.st.ctx).gen n sp ⟨t, va, Spot.place w, val, exp⟩ w.key w.leaf w.tile = opOf s y n sp t va w val exp := by
  obtain ⟨key, leaf, tile⟩ := w
  cases leaf with
  | none => simp [mkOp, opOf, opFixed, Spot.place, Spot.page, Place.tso, Place.leaf]
  | some l =>
    simp [mkOp, opOf, opFixed, Spot.place, Spot.page, Place.tso, Place.leaf]
    rfl

/-! ## Accesses that leave the lane -/

/-- Nothing that an access looks at beside its line, its strand and the operations has changed. -/
def Steady (s t : State) : Prop := t.ctxs = s.ctxs ∧ t.latent = s.latent ∧ t.pkgs = s.pkgs

theorem Steady.gen (h : Steady s t) (c : CtxId) : (t.ctx c).gen = (s.ctx c).gen := by
  obtain ⟨hc, -, -⟩ := h
  rw [State.ctx, hc]; rfl

theorem Steady.trans {u : State} (h : Steady s t) (h' : Steady t u) : Steady s u :=
  ⟨h'.1.trans h.1, h'.2.1.trans h.2.1, h'.2.2.trans h.2.2⟩

theorem steady_sendOp (y : Iss) (s : State) (o : Op) : Steady s (sendOp y s o) := by
  unfold sendOp
  split <;> exact ⟨rfl, rfl, rfl⟩

theorem steady_sees (s : State) (k rd : Nat) (acq : Option Scope) (key size : Nat) : Steady s (s.sees k rd acq key size) := by
  unfold State.sees
  dsimp only
  repeat' split
  all_goals exact ⟨rfl, rfl, rfl⟩

theorem steady_servedNow (o : Op) (ws : List (Nat × Word)) (s : State) : Steady s (servedNow o ws s) := ⟨rfl, rfl, rfl⟩

/-- Two ways to carry out accesses agree where they agree on every state that is steady. -/
theorem foldl_eq_of_steady {β : Type} {f g : State → β → State} {as : List β} (hg : ∀ t a, a ∈ as → Steady t (g t a))
    (hfg : ∀ t a, a ∈ as → Steady s t → f t a = g t a) (hst : Steady s t) : as.foldl f t = as.foldl g t := by
  induction as generalizing t with
  | nil => rfl
  | cons a as ih =>
    rw [List.foldl_cons, List.foldl_cons, hfg t a List.mem_cons_self hst]
    exact ih (fun t b hb => hg t b (List.mem_cons_of_mem _ hb)) (fun t b hb => hfg t b (List.mem_cons_of_mem _ hb))
      (hst.trans (hg t a List.mem_cons_self))

theorem asRelease_eq (s : State) (y : Iss) {o : Op} (h : o.stores = true) : s.asRelease y.k o = released s y o := by
  unfold State.asRelease released
  rw [h]
  cases s.strand y.k with
  | none => rfl
  | some st => simp [List.isEmpty_iff]

theorem stores_asRelease (s : State) (k : Nat) (o : Op) : (s.asRelease k o).stores = o.stores := by
  unfold State.asRelease
  cases s.strand k with
  | none => rfl
  | some st => exact (apply_ite Op.stores _ o _).trans (ite_self _)

/-- An operation that no copy serves is sent. -/
theorem leave_of_miss {n : Nat} {sp : OpSpec} {a : Access} {key tile : Nat} {leaf : Option Dword} {o : Op} (hp : a.place = .mem key leaf tile)
    (ho : mkOp y (s.ctx y.st.ctx).gen n sp a key leaf tile = o) (hh : s.hit y o = none) : leave y n sp s a = sendOp y s o := by
  have haddr : o.addr = key := by rw [← ho]; rfl
  unfold leave sendOp
  rw [hp]
  dsimp only
  rw [ho, hh]
  dsimp only
  rw [stores_asRelease]
  cases hs : o.stores with
  | true =>
    rw [if_neg (show ¬ (o.opr = 0 ∧ o.atom = false) by simpa [Op.stores, or_iff_not_imp_left] using hs), asRelease_eq s y hs]
    simp [storeLeaves, haddr]
  | false =>
    have hr : s.asRelease y.k o = o := by
      unfold State.asRelease
      split
      · rfl
      · simp [hs]
    rw [if_pos (show o.opr = 0 ∧ o.atom = false by simpa [Op.stores] using hs), hr]
    rfl

/-- A word that is read from a copy is there at once. -/
theorem leave_of_hit {n : Nat} {sp : OpSpec} {a : Access} {key tile : Nat} {leaf : Option Dword} {o : Op} {c : Copy} (hl : s.latent = [])
    (hout : (s.pkg y.st.part.pkg).outOfUse = []) (hb : sp.block = false) (hp : a.place = .mem key leaf tile)
    (ho : mkOp y (s.ctx y.st.ctx).gen n sp a key leaf tile = o) (hh : s.hit y o = some c) :
    leave y n sp s a = servedNow o (resultWords sp.dst (sp.size == 8) [a.t] (loadValue sp.ty (c.value key sp.size)))
      (s.sees y.k 0 (if o.acq then some o.scope else none) key sp.size) := by
  have hc := consume_copy (tile := y.st.tileId) hl hout (lineKey key) y.st.unit y.st.part
  have hob : o.block = false := by rw [← ho]; exact hb
  have hw : o.writes (c.value key sp.size) = resultWords sp.dst (sp.size == 8) [a.t] (loadValue sp.ty (c.value key sp.size)) := by
    rw [Op.writes, hob, ← ho]; rfl
  unfold leave
  rw [hp]
  dsimp only
  rw [ho, hh]
  dsimp only
  rw [hc]
  dsimp only
  rw [returnNow, if_neg (by simp [hob]), hw]
  rfl

/-- No test and no condition on the order keeps the accesses of an instruction back. -/
theorem issueAccesses_ok {sp : OpSpec} {as : List Access} (hc : Calm s y.st.part.pkg) (hrel : sp.rel = true → relGate s y sp.scope y.st.band = true)
    (htso : (sp.opr != 0 || sp.atom) = true → (as.any fun a => a.place.tso) = true → relGate s y .sys none = true) :
    issueAccesses sp as y s = .ok (as.foldl (leave y (s.uid + 1) sp) (openTxn y as.length sp.dst s).2) := by
  have hbank : (as.any fun a => s.bankTested y.st.tileId a.place) = false := by
    rw [List.any_eq_false]
    intro a _
    unfold State.bankTested
    split <;> simp [testing_of_calm hc]
  have hr : (sp.rel && !relGate s y sp.scope y.st.band) = false := by
    cases h : sp.rel with
    | true => simp [hrel h]
    | false => rfl
  have ht : (((sp.opr != 0 || sp.atom) && as.any fun a => a.place.tso) && !relGate s y .sys none) = false := by
    cases h : ((sp.opr != 0 || sp.atom) && as.any fun a => a.place.tso) with
    | true => rw [Bool.and_eq_true] at h; simp [htso h.1 h.2]
    | false => rfl
  simp only [issueAccesses, hbank, hr, ht, Bool.or_self, Bool.false_eq_true, if_false]
  rfl

/-- The accesses to memory of a list of threads. -/
def accessesOf (ts : List Nat) (va : Nat → Dword) (pl : Nat → Spot) (val : Nat → BitVec 512) : List Access :=
  ts.map (fun t => ⟨t, va t, Spot.place (pl t), val t, 0⟩)

theorem tso_place (w : Spot) : (Spot.place w).tso = w.page leafTso := by
  obtain ⟨key, leaf, tile⟩ := w
  cases leaf <;> rfl

theorem any_tso_accessesOf (ts : List Nat) (va : Nat → Dword) (pl : Nat → Spot) (val : Nat → BitVec 512) :
    ((accessesOf ts va pl val).any fun a => a.place.tso) = ts.any (fun t => (pl t).page leafTso) := by
  rw [accessesOf, List.any_map]
  exact congrArg (List.any ts) (funext fun t => tso_place (pl t))

theorem hit_of_not_alloc {o : Op} (h : o.alloc = false) : s.hit y o = none := by
  simp [State.hit, h]

theorem hit_of_absent {o : Op} (h : aget (s.tile y.st.tileId).copies (lineKey o.addr) = none) : s.hit y o = none := by
  unfold State.hit
  split
  · exact h
  · rfl

/-- Accesses that bring no line to the tile go to their homes, one operation each. -/
theorem foldl_leave_of_miss {sp : OpSpec} {ts : List Nat} {va : Nat → Dword} {pl : Nat → Spot} {val : Nat → BitVec 512}
    (ha : sp.alloc = false) :
    (accessesOf ts va pl val).foldl (leave y (s.uid + 1) sp) (openTxn y ts.length sp.dst s).2 =
      sendOps y s sp (ts.map (fun t => opOf s y (s.uid + 1) sp t (va t) (pl t) (val t) 0)) := by
  rw [sendOps, accessesOf, List.foldl_map, List.foldl_map, List.length_map]
  refine foldl_eq_of_steady (s := s) (fun u t _ => steady_sendOp y u _) (fun u t _ hu => ?_) ⟨rfl, rfl, rfl⟩
  refine leave_of_miss rfl (by rw [hu.gen]; exact mkOp_eq_opOf ..) (hit_of_not_alloc ?_)
  simp [opOf, ha]

end Sys2Proof.Proofs.Accesses
end

section
/-! SUPPORT. Loads and stores: the operations they send, and what is served in the tile or in the image of the strand (08 R194 to R198;
10 R242, R248; 17 R336). -/

namespace Sys2Proof.Proofs.LoadsStores

open Sys2Proof.Machine Sys2Proof.Claims Sys2Proof.Safety Accesses

variable {i : Instr} {h : Hdr} {d : Opd} {m : Addr} {ty : Ty} {mm : MemMod} {s s1 : State} {y : Iss}

/-! ## The operations of each form -/

/-- What the operations of LD and LDU have in common (08 R194, R195). -/
def loadSpec (d : Opd) (ty : Ty) (mm : MemMod) : OpSpec :=
  { size := memSize ty, ty := ty, opr := 0, fetch := true, alloc := mm.cp != 2, low := mm.cp == 1, acq := mm.ord == 1, scope := mm.scope, dst := d }

/-- The same for ST and STU (08 R194, R196). -/
def storeSpec (ty : Ty) (mm : MemMod) : OpSpec :=
  { size := memSize ty, ty := ty, opr := 1, fetch := false, rel := mm.ord == 2, scope := mm.scope }

/-- The data of a store: the low bytes of its operand. -/
def storeData (s : State) (y : Iss) (ty : Ty) (t : Nat) : BitVec 512 :=
  BitVec.ofNat 512 ((readThread s y t).a.toNat % 2 ^ (8 * memSize ty))

/-- The base of a load is its first source, that of a store its second (02 R59). -/
theorem idxUse_of_performs (hi : i ∈ [Instr.ld h d m ty mm, .ldu h d m ty mm, .st h d m ty mm, .stu h d m ty mm, .ldb h d m ty mm, .stb h d m ty mm])
    (hp : Performs i s y s1) : y.sh.idxUse.o = m.idx := by
  obtain ⟨hsh, -⟩ := performs_inv hp
  simp only [List.mem_cons, List.not_mem_nil, or_false] at hi
  rcases hi with rfl | rfl | rfl | rfl | rfl | rfl <;> (rw [← Option.some.inj hsh]; rfl)

theorem effOf_load (hi : i ∈ [Instr.ld h d m ty mm, .ldu h d m ty mm]) : effOf i = some (loadEff d m ty mm) := by
  simp only [List.mem_cons, List.not_mem_nil, or_false] at hi
  rcases hi with rfl | rfl <;> rfl

theorem effOf_store (hi : i ∈ [Instr.st h d m ty mm, .stu h d m ty mm]) : effOf i = some (storeEff m ty mm) := by
  simp only [List.mem_cons, List.not_mem_nil, or_false] at hi
  rcases hi with rfl | rfl <;> rfl

/-- A load whose addresses pass the checks makes an access for each thread. -/
theorem loadEff_ok {place : Nat → Place} (hidx : y.sh.idxUse.o = m.idx) (hc : Calm s y.st.part.pkg)
    (hpass : ∀ t ∈ y.poppers, checkAddr s y.st .rd (address s y m t) (memSize ty) = .at_ (place t)) :
    loadEff d m ty mm y s = .ok ((y.poppers.map fun t => (⟨t, address s y m t, place t, 0, 0⟩ : Access)).foldl
      (leave y (s.uid + 1) (loadSpec d ty mm)) (openTxn y y.poppers.length d s).2) := by
  have ha : addrs s y m = y.poppers.map (fun t => (t, address s y m t)) :=
    List.map_congr_left fun t _ => congrArg (Prod.mk t) (Watches.addrOf_eq_address s hidx t)
  rw [loadEff, ha, checkAll_eq fun t ht => ⟨hpass t ht, rfl⟩]
  dsimp only
  refine (issueAccesses_ok (sp := loadSpec d ty mm) hc (fun h => nomatch h) (fun h => nomatch h)).trans ?_
  rw [List.length_map]
  rfl

/-- A store whose addresses pass the checks, and which its order does not hold back, makes an access for each thread. -/
theorem storeEff_ok {place : Nat → Place} (hidx : y.sh.idxUse.o = m.idx) (hc : Calm s y.st.part.pkg)
    (hpass : ∀ t ∈ y.poppers, checkAddr s y.st .w (address s y m t) (memSize ty) = .at_ (place t))
    (hpage : ∀ t ∈ y.poppers, pageChk y false .zero 0 true (place t) = none)
    (hleave : mayLeave s y (mm.ord == 2) mm.scope (y.poppers.any fun t => (place t).tso)) :
    storeEff m ty mm y s = .ok ((y.poppers.map fun t => (⟨t, address s y m t, place t, storeData s y ty t, 0⟩ : Access)).foldl
      (leave y (s.uid + 1) (storeSpec ty mm)) (openTxn y y.poppers.length .zero s).2) := by
  have ha : addrs s y m = y.poppers.map (fun t => (t, address s y m t)) :=
    List.map_congr_left fun t _ => congrArg (Prod.mk t) (Watches.addrOf_eq_address s hidx t)
  rw [storeEff, ha, checkAll_eq fun t ht => ⟨hpass t ht, hpage t ht⟩]
  dsimp only
  rw [List.map_map]
  refine (issueAccesses_ok (sp := storeSpec ty mm) hc hleave.1 (fun _ ht => hleave.2 ?_)).trans ?_
  · rwa [List.any_map] at ht
  · rw [List.length_map]
    rfl

/-! ## What a page asks of an access (08 R191, R198; 15 R317) -/

theorem pageChk_place {w : Spot} {typed atomic : Bool} (o : Opd) (hdr : Nat) (hblk : typed = true → ∀ l, w.leaf = some l → leafBlk l = true)
    (hw : atomic = true → mayWrite y w) : pageChk y typed o hdr atomic (Spot.place w) = none := by
  obtain ⟨key, leaf, tile⟩ := w
  cases leaf with
  | none => rfl
  | some l =>
    have h1 : (typed && !leafBlk l) = false := by
      cases typed with
      | false => rfl
      | true => simp [hblk rfl l rfl]
    have h2 : (atomic && y.st.det && leafShb l && !y.st.hold) = false := by
      cases atomic with
      | false => rfl
      | true => simpa [mayWrite, Spot.page] using hw rfl
    simp only [pageChk, Spot.place, h1, h2, Bool.false_eq_true, if_false]

theorem typedBlk_iff : typedBlk ty = true ↔ ty ≠ .i32 := bne_iff_ne

/-! ## Line operations (08 R197, R198) -/

theorem checkAll_lead {need : Need} {page : Place → Option Flt} {place : Place} (hidx : y.sh.idxUse.o = m.idx)
    (hpass : checkAddr s y.st need (address s y m y.lead) 64 = .at_ place) (hpage : page place = none) :
    checkAll s y need 64 page (leadAddr s y m) = .ok [⟨y.lead, address s y m y.lead, place, 0, 0⟩] := by
  rw [leadAddr, Watches.addrOf_eq_address s hidx]
  simp only [checkAll, hpass, hpage]

theorem effLdb_ok {w : Spot} (hidx : y.sh.idxUse.o = m.idx) (hc : Calm s y.st.part.pkg)
    (hpass : checkAddr s y.st .rd (address s y m y.lead) 64 = .at_ (Spot.place w))
    (hblk : ty ≠ .i32 → ∀ l, w.leaf = some l → leafBlk l = true) :
    effLdb d m ty mm y s = .ok ((accessesOf [y.lead] (address s y m) (fun _ => w) (fun _ => 0)).foldl
      (leave y (s.uid + 1) { loadSpec d ty mm with size := 64, block := true }) (openTxn y 1 d s).2) := by
  rw [effLdb, checkAll_lead hidx hpass (pageChk_place (atomic := false) d 0 (fun ht => hblk (typedBlk_iff.1 ht)) (fun h => nomatch h))]
  exact issueAccesses_ok (sp := { loadSpec d ty mm with size := 64, block := true }) hc (fun h => nomatch h) (fun h => nomatch h)

theorem effStb_ok {w : Spot} {block : BitVec 512} (hidx : y.sh.idxUse.o = m.idx) (hc : Calm s y.st.part.pkg)
    (hb : lineOfWords (readLine s y (srcAt y.sh .a) 0) = block)
    (hpass : checkAddr s y.st .w (address s y m y.lead) 64 = .at_ (Spot.place w)) (hw : mayWrite y w)
    (hblk : ty ≠ .i32 → (∀ l, w.leaf = some l → leafBlk l = true) ∧ blkAccepts ty (block.toNat % 64) = true)
    (hleave : mayLeave s y (mm.ord == 2) mm.scope (w.page leafTso)) :
    effStb d m ty mm y s = .ok ((accessesOf [y.lead] (address s y m) (fun _ => w) (fun _ => block)).foldl
      (leave y (s.uid + 1) { storeSpec ty mm with size := 64, block := true }) (openTxn y 1 .zero s).2) := by
  have hhdr : (block.extractLsb' 0 16).toNat % 64 = block.toNat % 64 := by
    rw [BitVec.extractLsb'_toNat, Nat.shiftRight_zero]
    omega
  have hacc : (typedBlk ty && !blkAccepts ty ((block.extractLsb' 0 16).toNat % 64)) = false := by
    rw [hhdr]
    cases ht : typedBlk ty with
    | false => rfl
    | true => simp [(hblk (typedBlk_iff.1 ht)).2]
  rw [effStb, hb, checkAll_lead hidx hpass (pageChk_place d _ (fun ht => (hblk (typedBlk_iff.1 ht)).1) (fun _ => hw))]
  dsimp only
  rw [hacc]
  refine (issueAccesses_ok (sp := { storeSpec ty mm with size := 64, block := true }) hc hleave.1 (fun _ ht => hleave.2 ?_)).trans rfl
  simpa [tso_place] using ht

/-! ## The statement -/

/-- A step of a load in the statement: a copy serves it, or it goes home. -/
theorem leave_load {t : Nat} {w : Spot} {u : State} (hc : Calm s y.st.part.pkg) (hu : Steady s u) (va : Dword) :
    leave y (s.uid + 1) (loadSpec d ty mm) u ⟨t, va, Spot.place w, 0, 0⟩ =
      let o := opOf s y (s.uid + 1) (loadSpec d ty mm) t va w 0 0
      match u.hit y o with
      | some c => servedNow o (resultWords d (memSize ty == 8) [t] (loadValue ty (c.data.toNat / 2 ^ (8 * (w.key % 64)) % 2 ^ (8 * memSize ty))))
          (u.sees y.k 0 (if o.acq then some o.scope else none) w.key (memSize ty))
      | none => sendOp y u o := by
  have ho : mkOp y (u.ctx y.st.ctx).gen (s.uid + 1) (loadSpec d ty mm) ⟨t, va, Spot.place w, 0, 0⟩ w.key w.leaf w.tile =
      opOf s y (s.uid + 1) (loadSpec d ty mm) t va w 0 0 := by
    rw [hu.gen]; exact mkOp_eq_opOf ..
  obtain ⟨-, hl, hp⟩ := hu
  dsimp only
  split
  next c hh =>
    refine leave_of_hit (hl.trans hc.latent) ?_ rfl rfl ho hh
    rw [State.pkg, hp]
    exact hc.outOfUse
  next hh => exact leave_of_miss rfl ho hh

theorem loadsAndStores : Claims.loadsAndStores := by
  intro h d m ty mm s s1 y pl
  refine ⟨fun i hi hp hpass => ?_, fun i hi hp hpass hmay hleave => ?_, fun hp hpass habs hblk => ?_, fun hv hp hpass hmay hblk hleave => ?_⟩
  · have hidx := idxUse_of_performs (h := h) (d := d) (m := m) (ty := ty) (mm := mm) (List.mem_append_left _ hi) hp
    have hc := calm_of_performs hp
    refine completes_of_ok (effOf_load hi) hp ((loadEff_ok hidx hc hpass).trans (congrArg Eff.ok ?_))
    rw [List.foldl_map]
    refine foldl_eq_of_steady (s := s1) (fun u t _ => ?_) (fun u t _ hu => leave_load hc hu _) ⟨rfl, rfl, rfl⟩
    dsimp only
    split
    · exact (steady_sees ..).trans (steady_servedNow ..)
    · exact steady_sendOp ..
  · have hidx := idxUse_of_performs (h := h) (d := d) (m := m) (ty := ty) (mm := mm) (by simp only [List.mem_cons, List.not_mem_nil] at hi ⊢; tauto) hp
    have hpage : ∀ t ∈ y.poppers, pageChk y false .zero 0 true (Spot.place (pl t)) = none := fun t ht =>
      pageChk_place (typed := false) _ _ (fun h => nomatch h) (fun _ => hmay t ht)
    have htso : (y.poppers.any fun t => (Spot.place (pl t)).tso) = y.poppers.any (fun t => (pl t).page leafTso) :=
      congrArg (List.any _) (funext fun t => tso_place (pl t))
    refine completes_of_ok (effOf_store hi) hp ((storeEff_ok (place := fun t => Spot.place (pl t)) hidx
      (calm_of_performs hp) hpass hpage (by rwa [htso])).trans (congrArg Eff.ok ?_))
    exact foldl_leave_of_miss (sp := storeSpec ty mm) rfl
  · have hidx := idxUse_of_performs (h := h) (d := d) (m := m) (ty := ty) (mm := mm) (by simp) hp
    have hlead := List.mem_singleton_self y.lead
    refine completes_of_ok rfl hp ((effLdb_ok hidx (calm_of_performs hp) (hpass _ hlead) hblk).trans (congrArg Eff.ok ?_))
    exact leave_of_miss rfl (mkOp_eq_opOf ..) (hit_of_absent (habs _ hlead))
  · have hidx := idxUse_of_performs (h := h) (d := d) (m := m) (ty := ty) (mm := mm) (by simp) hp
    have hlead := List.mem_singleton_self y.lead
    obtain ⟨hsh, -, -, -, -, -, -, -, -, he, -⟩ := performs_inv hp
    have hdata : srcAt y.sh .a = vrun .a d 1 := by rw [← Option.some.inj hsh]; rfl
    have hb : lineOfWords (readLine s1 y (srcAt y.sh .a) 0) = lineOfWords (lineIn s1 y (Opd.num d)) := by
      rw [hdata, Blocks.readLine_eq_lineIn he hv]
      rfl
    refine completes_of_ok rfl hp ((effStb_ok hidx (calm_of_performs hp) hb (hpass _ hlead) hmay hblk ?_).trans (congrArg Eff.ok ?_))
    · simpa using hleave
    · exact foldl_leave_of_miss (s := s1) (sp := { storeSpec ty mm with size := 64, block := true }) (ts := [y.lead])
        (pl := fun _ => pl y.lead) rfl

/-- Where R242 permits it, the copy that stands in the tile serves a load (log entry 19). -/
theorem hit_of_copy {t : Nat} {va : Dword} {w : Spot} {c : Copy} (hcp : mm.cp ≠ 2) (htso : w.page leafTso = false)
    (hcache : cacheable y.st.part.pkg w.key = true) (hcopy : aget (s.tile y.st.tileId).copies (lineKey w.key) = some c)
    (hnone : ∀ o ∈ s.ops, o.2.txn ≠ s.uid + 1 ∧ ¬ (o.2.strand = y.k ∧ lineKey o.2.addr = lineKey w.key ∧ o.2.stage ≠ .applied)) :
    (openTxn y 1 d s).2.hit y (opOf s y (s.uid + 1) (loadSpec d ty mm) t va w 0 0) = some c := by
  have halloc : (mm.cp != 2) = true := by simpa using hcp
  have hacq : s.ops.any (fun p => p.2.txn == s.uid + 1 && p.2.ret) = false := by
    rw [List.any_eq_false]
    intro o ho
    simp [(hnone o ho).1]
  have hway : s.ops.all (fun p => !(p.2.strand == y.k && lineKey p.2.addr == lineKey w.key && p.2.stage != .applied)) = true := by
    rw [List.all_eq_true]
    intro o ho
    simpa [imp_iff_not_or, or_assoc] using (hnone o ho).2
  unfold State.hit
  rw [if_pos]
  · exact hcopy
  · simp only [opOf, loadSpec, halloc, htso, Bool.not_false, Bool.and_true, Bool.true_and, Bool.and_eq_true]
    exact ⟨⟨hcache, by simp [openTxn, hacq]⟩, hway⟩

theorem leave_image_load (s u : State) (y : Iss) (d : Opd) (ty : Ty) (mm : MemMod) (t off : Nat) (va : Dword) :
    leave y (s.uid + 1) (loadSpec d ty mm) u ⟨t, va, .image off, 0, 0⟩ =
      servedNow { opOf s y (s.uid + 1) (loadSpec d ty mm) t va ⟨0, none, 0⟩ 0 0 with agen := 0 }
        (resultWords d (memSize ty == 8) [t] (loadValue ty (imageGet y.st.image (memSize ty) off))) u := by
  have ho : mkOp y 0 (s.uid + 1) (loadSpec d ty mm) ⟨t, va, .image off, 0, 0⟩ 0 none 0 =
      { opOf s y (s.uid + 1) (loadSpec d ty mm) t va ⟨0, none, 0⟩ 0 0 with agen := 0 } := by
    simp [mkOp, opOf, opFixed, Spot.page, Place.tso, Place.leaf]
  unfold leave
  dsimp only
  rw [if_pos (show (loadSpec d ty mm).opr = 0 from rfl), ho]
  rfl

theorem toNat_ofNat_mod (n : Nat) {k w : Nat} (h : k ≤ w) : (BitVec.ofNat w (n % 2 ^ k)).toNat = n % 2 ^ k := by
  rw [BitVec.toNat_ofNat]
  exact Nat.mod_eq_of_lt ((Nat.mod_lt _ (Nat.two_pow_pos k)).trans_le (Nat.pow_le_pow_right (by omega) h))

theorem toNat_storeData (s : State) (y : Iss) (ty : Ty) (t : Nat) :
    (storeData s y ty t).toNat = (readThread s y t).a.toNat % 2 ^ (8 * memSize ty) :=
  toNat_ofNat_mod _ (by cases ty <;> decide)

theorem leave_image_store (s u : State) (y : Iss) (ty : Ty) (mm : MemMod) (t n off : Nat) (va : Dword) :
    leave y n (storeSpec ty mm) u ⟨t, va, .image off, storeData s y ty t, 0⟩ =
      (u.modStrand y.k (fun st => { st with
        image := imagePut st.image (memSize ty) off ((readThread s y t).a.toNat % 2 ^ (8 * memSize ty)) })).send (.result n 0 []) := by
  unfold leave
  dsimp only
  rw [toNat_storeData]
  rfl

theorem localAccesses : Claims.localAccesses := by
  intro h d m ty mm s s1 y t w c off
  dsimp only
  intro hone
  refine ⟨fun i hi hp => ?_, fun i hi hp hleave hpass => ?_⟩
  · have hidx := idxUse_of_performs (h := h) (d := d) (m := m) (ty := ty) (mm := mm) (List.mem_append_left _ hi) hp
    have hc := calm_of_performs hp
    have hload : ∀ place, checkAddr s1 y.st .rd (address s1 y m t) (memSize ty) = .at_ place →
        loadEff d m ty mm y s1 = .ok (leave y (s1.uid + 1) (loadSpec d ty mm) (openTxn y 1 d s1).2 ⟨t, address s1 y m t, place, 0, 0⟩) := by
      intro place hpass
      rw [loadEff_ok (place := fun _ => place) hidx hc (by rw [hone]; simpa using hpass), hone]
      rfl
    refine ⟨fun hpass hcp htso hcache hcopy hnone => ?_, fun hpass => ?_⟩
    · refine completes_of_ok (effOf_load hi) hp ((hload (Spot.place w) hpass).trans (congrArg Eff.ok ?_))
      rw [leave_load (s := s1) (u := (openTxn y 1 d s1).2) hc ⟨rfl, rfl, rfl⟩]
      dsimp only
      rw [hit_of_copy hcp htso hcache hcopy hnone]
      simp only [opOf, htso, loadSpec, Bool.false_and, Bool.or_false, beq_iff_eq, Bool.false_eq_true, if_false]
    · refine completes_of_ok (effOf_load hi) hp ((hload _ hpass).trans (congrArg Eff.ok ?_))
      exact leave_image_load ..
  · have hidx := idxUse_of_performs (h := h) (d := d) (m := m) (ty := ty) (mm := mm) (by simp only [List.mem_cons, List.not_mem_nil] at hi ⊢; tauto) hp
    have hst := storeEff_ok (place := fun _ => .image off) hidx (calm_of_performs hp) (by rw [hone]; simpa using hpass) (fun _ _ => rfl)
      (by rwa [hone])
    rw [hone] at hst
    refine completes_of_ok (effOf_store hi) hp (hst.trans (congrArg Eff.ok ?_))
    exact leave_image_store ..

end Sys2Proof.Proofs.LoadsStores

namespace Sys2Proof.Proofs

/-- Settles O10: with the checks passed every access is made (`loadEff_ok`, `storeEff_ok`), and each of them goes home as one operation
(`leave_of_miss`), or is served by a copy (`leave_of_hit`) or in the image. -/
theorem loadsAndStores : Obligations.LoadsAndStores := ⟨LoadsStores.loadsAndStores, LoadsStores.localAccesses⟩

end Sys2Proof.Proofs
end

section
/-! SUPPORT. Instruction fetch, page walks and the page tables (04 R81, R82; 17 R338 to R342). -/

namespace Sys2Proof.Proofs.Fetching

open Sys2Proof.Machine Sys2Proof.Claims Sys2Proof.Safety HostAccess Items Copies

/-! ## The line of an issue address -/

variable {s : State} {k : Nat} {st : Strand} {pc : Pc}

/-- Near memory of another package may be used where it belongs to the same domain group (17 R341). -/
theorem remoteAllowed_iff (s : State) (p : PartId) (h : Home) (key : Nat) : remoteAllowed s p h key = true ↔ remoteOk s p h key := by
  unfold remoteAllowed remoteOk
  cases h with
  | near pkg stack ch =>
    constructor
    · rintro hr _ _ _ ⟨⟩ hp
      dsimp only at hr
      cases hq : s.sliceOwner pkg (key % 2 ^ 45) with
      | none => simp only [hq, beq_false_of_ne hp, Bool.or_self, Bool.false_eq_true] at hr
      | some q =>
        simp only [hq, beq_false_of_ne hp, Bool.false_or, Bool.and_eq_true, beq_iff_eq, Option.isSome_iff_exists] at hr
        obtain ⟨hg, g, hg'⟩ := hr
        exact ⟨q, g, rfl, hg.trans hg', hg'⟩
    · intro hr
      by_cases hp : pkg = p.pkg
      · exact Bool.or_eq_true_iff.2 (.inl (beq_iff_eq.2 hp))
      · obtain ⟨q, g, hq, hgq, hgp⟩ := hr _ _ _ rfl hp
        simp only [hq, hgq, hgp, Option.isSome_some, beq_self_eq_true, Bool.and_self, Bool.or_true]
  | _ => simp

/-- A strand that has not fetched the line of its issue address waits for that line first. -/
theorem wantedLines_head (hi : st.issueAddr = some pc) (hf : s.fetched st pc = none) : ∃ ts, wantedLines s k st = pc :: ts := by
  unfold wantedLines
  rw [hi]
  exact ⟨_, List.filter_cons_of_pos (by simp [hf])⟩

/-- A line as it enters the lane's buffer. -/
def entered (s : State) (st : Strand) (pc : Pc) (key : Nat) (b : Line) : State := s.modLane st.laneId (fun l => { l with
  buf := l.buf ++ [{ launch := st.launch, va := (linePc pc).toNat, data := b, bad := !lineOk b, key := key }] })

theorem enterLine_of_parityOk {b : Line} (h : parityOk b = true) (key : Nat) : enterLine k st pc key b s = some (entered s st pc key b) := by
  unfold enterLine
  rw [if_pos h]
  rfl

/-- A strand that waits for the line at its issue address, in a state without errors. -/
structure Fetches (s : State) (k : Nat) (st : Strand) (pc : Pc) : Prop where
  sound : sound s
  strand : s.strand k = some st
  runs : st.runs s = true
  issueAddr : st.issueAddr = some pc
  unfetched : s.fetched st pc = none

/-- An address that may not be fetched from is a fault at the issue address. -/
theorem evLineFetch_stop {c : Nat} (h : Fetches s k st pc) (hc : checkFetch s st pc = .stop c) :
    evLineFetch k s = some (s.issueFault k { cause := c, addr := (linePc pc).toNat }) := by
  obtain ⟨ts, hw⟩ := wantedLines_head (k := k) h.issueAddr h.unfetched
  simp [evLineFetch, h.strand, h.runs, hw, hc, h.issueAddr]

/-- A line in another package's near memory that is in no common group is the translation fault (17 R341). -/
theorem evLineFetch_remote {key0 tile : Nat} {leaf : Option Dword} (h : Fetches s k st pc)
    (hc : checkFetch s st pc = .at_ (.mem key0 leaf tile))
    (hr : ¬ remoteOk s st.part (homeOf st.part st.tile (lineKey key0)) (lineKey key0)) :
    evLineFetch k s = some (s.issueFault k { cause := 0x10, addr := (linePc pc).toNat }) := by
  obtain ⟨ts, hw⟩ := wantedLines_head (k := k) h.issueAddr h.unfetched
  rw [← remoteAllowed_iff, Bool.not_eq_true] at hr
  simp [evLineFetch, h.strand, h.runs, hw, hc, hr]

/-- A line that the tile holds a copy of comes from there. -/
theorem evLineFetch_copy {key0 tile : Nat} {leaf : Option Dword} {c : Copy} (h : Fetches s k st pc)
    (hc : checkFetch s st pc = .at_ (.mem key0 leaf tile))
    (hr : remoteOk s st.part (homeOf st.part st.tile (lineKey key0)) (lineKey key0))
    (hcopy : aget (s.tile st.tileId).copies (lineKey key0) = some c) (hp : parityOk c.data = true) :
    evLineFetch k s = some (entered s st pc (lineKey key0) c.data) := by
  obtain ⟨ts, hw⟩ := wantedLines_head (k := k) h.issueAddr h.unfetched
  rw [← remoteAllowed_iff] at hr
  simp [evLineFetch, h.strand, h.runs, hw, hc, hr, hcopy, testing_of_sound h.sound, consume_of_sound h.sound, enterLine_of_parityOk hp]

/-- Any other comes from memory. -/
theorem evLineFetch_memory {key0 tile : Nat} {leaf : Option Dword} (h : Fetches s k st pc)
    (hc : checkFetch s st pc = .at_ (.mem key0 leaf tile))
    (hr : remoteOk s st.part (homeOf st.part st.tile (lineKey key0)) (lineKey key0))
    (hcopy : aget (s.tile st.tileId).copies (lineKey key0) = none) (hp : parityOk (s.lineAt (lineKey key0)) = true) :
    evLineFetch k s = some (entered s st pc (lineKey key0) (s.lineAt (lineKey key0))) := by
  obtain ⟨ts, hw⟩ := wantedLines_head (k := k) h.issueAddr h.unfetched
  rw [← remoteAllowed_iff] at hr
  simp [evLineFetch, h.strand, h.runs, hw, hc, hr, hcopy, testing_of_sound h.sound, consume_of_sound h.sound, enterLine_of_parityOk hp]

/-! ### The translation of a fetch address -/

theorem checkFetch_image (h : pc.toNat / 2 ^ 48 = 0xFE) : checkFetch s st pc = .stop 0x0E := by
  unfold checkFetch
  rw [if_pos h]

theorem checkFetch_walk (h : pc.toNat / 2 ^ 48 ≠ 0xFE) (he : s.tlbFind st.tileId st.ctx pc.toNat = none) :
    checkFetch s st pc = .walk (linePc pc).toNat := by
  unfold checkFetch
  rw [if_neg h, he]

theorem checkFetch_executable {e : TlbE} (h : pc.toNat / 2 ^ 48 ≠ 0xFE) (he : s.tlbFind st.tileId st.ctx pc.toNat = some e)
    (hx : e.leaf.getLsbD 6 = true) :
    checkFetch s st pc = .at_ (.mem (leafKey s st.part.pkg e.leaf ((linePc pc).toNat % 2 ^ e.log)) (some e.leaf) st.tile) := by
  unfold checkFetch
  rw [if_neg h, he]
  exact if_pos hx

theorem checkFetch_forbidden {e : TlbE} (h : pc.toNat / 2 ^ 48 ≠ 0xFE) (he : s.tlbFind st.tileId st.ctx pc.toNat = some e)
    (hx : e.leaf.getLsbD 6 = false) : checkFetch s st pc = .stop 0x10 := by
  unfold checkFetch
  rw [if_neg h, he]
  exact if_neg (ne_true_of_eq_false hx)

/-! ## Page walks -/

theorem placesSettled_of_noneOn {size : Nat} {ks : List (Nat × Home)} (h : noneOn s size ks) : placesSettled s size ks = true := by
  refine List.all_eq_true.2 fun p hp => List.all_eq_true.2 fun e he => ?_
  have := h p hp e he
  simp only [Bool.not_eq_true', decide_eq_false_iff_not]
  omega

/-- A unit reads words at once where nothing is pending on them and no error is met (18 R363). -/
theorem unitRead_of_sound {size sel : Nat} {ks : List (Nat × Home)} {p : PartId} (hs : sound s) (h : noneOn s size ks) :
    unitRead size ks sel p s = some (s, none) := by
  simp [unitRead, any_eq_false (testing_of_sound hs), placesSettled_of_noneOn h, consumeAll_of_sound hs]

theorem fetchWalk_eq (h : Fetches s k st pc) (hv : pc.toNat / 2 ^ 48 ≠ 0xFE) (he : s.tlbFind st.tileId st.ctx pc.toNat = none) :
    fetchWalk s st = some (linePc pc).toNat := by
  simp [fetchWalk, h.issueAddr, h.unfetched, checkFetch_walk hv he]

/-- What the walk for a line comes to once it has read its tables: what it went through is in the walk cache (log entry 55). -/
def walkEnd (k : Nat) (st : Strand) (va : Nat) (u : State) : Walk → State
  | .page => u.pageFault k va
  | .bad => u.issueFault k { cause := 0x10, addr := va }
  | .leaf log e => u.tlbFill st.tileId { ctx := st.ctx, va := va, log := log, leaf := e }

/-- The walk for the line at a strand's issue address. -/
theorem evPageWalk_fetch (h : Fetches s k st pc) (hv : pc.toNat / 2 ^ 48 ≠ 0xFE) (he : s.tlbFind st.tileId st.ctx pc.toNat = none)
    (hn : noneOn s 8 (s.walkPlaces (s.walkCache st.tileId) st.ctx (linePc pc).toNat)) :
    evPageWalk k s = some (walkEnd k st (linePc pc).toNat (s.walkFill st.tileId st.ctx (linePc pc).toNat)
      (s.walkVia st.tileId st.ctx (linePc pc).toNat)) := by
  simp only [evPageWalk, h.strand, h.runs, fetchWalk_eq h hv he, walkAnswer, unitRead_of_sound h.sound hn]
  cases s.walkVia st.tileId st.ctx (linePc pc).toNat <;> rfl

theorem pageFault_eq {u : State} (h : u.strand k = some st) (va : Nat) :
    u.pageFault k va = (u.modStrand k (fun st => { st with repl := true })).postBy st.part (.strand k) 0x8001 (va + 2 ^ 64 * st.unit) := by
  unfold State.pageFault
  rw [h]
  exact congrArg (fun v => (u.modStrand k _).postBy st.part (.strand k) 0x8001 (va + v)) (Nat.mul_comm ..)

theorem fetchAndWalk : Claims.fetchAndWalk := by
  intro k st pc s hinv hs hk hr hi hf
  have h : Fetches s k st pc := ⟨hs, hk, hr, hi, hf⟩
  have fetch : ∀ {t}, evLineFetch k s = some t → Happens (.lineFetch k) s t := fun ht => happens_of_some rfl ht rfl
  refine ⟨fun hv => fetch (evLineFetch_stop h (checkFetch_image hv)), fun hv => ⟨fun e he hx => ?_, fun e he hx => ?_, fun he hn => ?_⟩⟩
  · have hc := checkFetch_executable (st := st) hv he hx
    refine ⟨fun hr => fetch (evLineFetch_remote h hc hr), fun hr c hcopy hp => fetch (evLineFetch_copy h hc hr hcopy hp),
      fun hr hcopy hp => fetch ?_⟩
    rw [← read_eq_bytesAt hinv.2] at hp ⊢
    exact evLineFetch_memory h hc hr hcopy hp
  · exact fetch (evLineFetch_stop h (checkFetch_forbidden hv he hx))
  · have hwalk : ∀ {w}, s.walkVia st.tileId st.ctx (linePc pc).toNat = w → Happens (.pageWalk k) s
        (walkEnd k st (linePc pc).toNat (s.walkFill st.tileId st.ctx (linePc pc).toNat) w) :=
      fun hw => happens_of_some rfl (hw ▸ evPageWalk_fetch h hv he hn) rfl
    refine ⟨fun log leaf hw => hwalk hw, fun hw => ?_, fun hw => hwalk hw⟩
    have hpage := hwalk hw
    exact pageFault_eq (u := s.walkFill st.tileId st.ctx (linePc pc).toNat) hk _ ▸ hpage

end Sys2Proof.Proofs.Fetching
end

section
/-! SUPPORT. Walks through the page tables (17 R338 to R342). -/

namespace Sys2Proof.Proofs.PageTables

open Sys2Proof.Machine Sys2Proof.Claims

/-! ## Entries -/

variable {s : State} {w : List WalkE} {c : CtxId} {va table lo n : Nat} {e : Dword} {may must : Bool} {mayLeaf mayTable : Prop}
  {rest : List (Nat × Nat × Bool × Bool)} {r : Walk}

/-- The address in an entry. -/
def Next (e : Dword) : Nat := (e.extractLsb' 12 42).toNat * 2 ^ 12

/-- The bits that every valid entry has zero. -/
def Clean (e : Dword) : Prop := e.extractLsb' 55 9 = 0 ∧ e.extractLsb' 2 2 = 0

/-- An entry that names a further table. -/
def Table (e : Dword) : Prop := e.getLsbD 0 = true ∧ e.getLsbD 1 = false ∧ Clean e ∧ e.extractLsb' 2 10 = 0

/-- An entry that maps a page of `2 ^ log` bytes for a partition. -/
def Leaf (s : State) (part : PartId) (e : Dword) (log : Nat) : Prop :=
  e.getLsbD 0 = true ∧ e.getLsbD 1 = true ∧ Clean e ∧ Next e % 2 ^ log = 0 ∧ leafAllowed s part log e = true

theorem leafAddr_eq_next (e : Dword) : leafAddr e = Next e := by
  unfold leafAddr Next
  rw [BitVec.extractLsb'_toNat, Nat.shiftRight_eq_div_pow]
  omega

theorem field_eq_zero_iff (e : Dword) (lo n : Nat) : e.extractLsb' lo n = 0 ↔ e.toNat / 2 ^ lo % 2 ^ n = 0 := by
  rw [← BitVec.toNat_inj, BitVec.extractLsb'_toNat, Nat.shiftRight_eq_div_pow]
  rfl

theorem clean_iff (e : Dword) : Clean e ↔ e.toNat / 2 ^ 55 = 0 ∧ e.toNat / 4 % 4 = 0 := by
  have h := e.isLt
  simp only [Clean, field_eq_zero_iff]
  omega

/-! ## What a walk makes of an entry (17 R339 to R341) -/

variable {part : PartId}

theorem walkStep_invalid (h : e.getLsbD 0 = false) : walkStep s part lo may must e = .inl .page := by
  unfold walkStep leafBit
  rw [h]
  rfl

theorem walkStep_unclean (hv : e.getLsbD 0 = true) (h : ¬ Clean e) : walkStep s part lo may must e = .inl .bad := by
  rw [clean_iff] at h
  unfold walkStep leafBit
  rw [hv, if_neg (by decide), if_pos (by omega)]

/-- A valid entry without a reserved bit is a leaf, or names a table. -/
theorem walkStep_clean (hv : e.getLsbD 0 = true) (h : Clean e) : walkStep s part lo may must e =
    if e.getLsbD 1 then
      .inl (if !may ∨ Next e % 2 ^ lo ≠ 0 ∨ !leafAllowed s part lo e then .bad else .leaf lo e)
    else if must ∨ e.extractLsb' 2 10 ≠ 0 then .inl .bad
    else .inr (Next e) := by
  rw [clean_iff] at h
  unfold walkStep leafBit
  rw [hv, if_neg (by decide), if_neg (by omega)]
  simp only [leafAddr_eq_next, ne_eq, field_eq_zero_iff]
  rfl

theorem walkStep_leaf (h : Leaf s part e lo) : walkStep s part lo true must e = .inl (.leaf lo e) := by
  obtain ⟨hv, hl, hclean, halign, hallow⟩ := h
  rw [walkStep_clean hv hclean, hl, if_pos rfl, if_neg (by simp [halign, hallow])]

theorem walkStep_table (h : Table e) : walkStep s part lo may false e = .inr (Next e) := by
  obtain ⟨hv, hl, hclean, hbits⟩ := h
  rw [walkStep_clean hv hclean, hl, if_neg Bool.false_ne_true, if_neg (by simp [hbits])]

/-- A valid entry that neither maps a page where one may stand nor names a table where one may follow. -/
theorem walkStep_bad (hv : e.getLsbD 0 = true) (hleaf : ¬ (may = true ∧ Leaf s part e lo)) (htable : ¬ (must = false ∧ Table e)) :
    walkStep s part lo may must e = .inl .bad := by
  by_cases hclean : Clean e
  · rw [walkStep_clean hv hclean]
    cases hl : e.getLsbD 1 with
    | true =>
      have hno : !may ∨ Next e % 2 ^ lo ≠ 0 ∨ !leafAllowed s part lo e := by
        by_contra hyes
        simp only [Bool.not_eq_true', not_or, Bool.not_eq_false, ne_eq, not_not] at hyes
        obtain ⟨hmay, halign, hallow⟩ := hyes
        exact hleaf ⟨hmay, hv, hl, hclean, halign, hallow⟩
      rw [if_pos rfl, if_pos hno]
    | false =>
      have hno : must ∨ e.extractLsb' 2 10 ≠ 0 := by
        by_contra hyes
        simp only [not_or, Bool.not_eq_true, ne_eq, not_not] at hyes
        obtain ⟨hmust, hzero⟩ := hyes
        exact htable ⟨hmust, hv, hl, hclean, hzero⟩
      rw [if_neg Bool.false_ne_true, if_pos hno]
  · exact walkStep_unclean hv hclean

/-! ## A level of a walk -/

/-- The entry of a level: the walk cache's, or the one where the table indexes it. -/
def Found (s : State) (w : List WalkE) (c : CtxId) (va table lo n : Nat) (e : Dword) : Prop := match walkHit w c va lo with
  | some h => e = h
  | none => ∃ q, s.ofRank c.part.pkg (table / 2 ^ 45) = some q ∧
      e = BitVec.ofNat 64 (s.read 8 (q * 2 ^ 45 + (table % 2 ^ 45 + 8 * (va / 2 ^ lo % 2 ^ n))))

/-- The level has no entry: no package has the rank that the table's address names. -/
def Lost (s : State) (w : List WalkE) (c : CtxId) (va table lo : Nat) : Prop :=
  walkHit w c va lo = none ∧ s.ofRank c.part.pkg (table / 2 ^ 45) = none

/-- How a walk with result `r` ends in an entry of a level. -/
def Ends (s : State) (c : CtxId) (r : Walk) (e : Dword) (log : Nat) (mayLeaf mayTable : Prop) : Prop :=
  (e.getLsbD 0 = false → r = .page) ∧ (mayLeaf → Leaf s c.part e log → r = .leaf log e) ∧
  (e.getLsbD 0 = true → ¬ (mayLeaf ∧ Leaf s c.part e log) → ¬ (mayTable ∧ Table e) → r = .bad)

theorem tableEntry_of_found (h : Found s w c va table lo n e) : tableEntry s w c table va lo n = some e := by
  unfold Found at h
  unfold tableEntry
  cases hh : walkHit w c va lo with
  | some h' =>
    rw [hh] at h
    exact congrArg some h.symm
  | none =>
    rw [hh] at h
    obtain ⟨q, hq, rfl⟩ := h
    exact congrArg (Option.map _) (congrArg (Option.map _) hq)

theorem tableEntry_of_lost (h : Lost s w c va table lo) : tableEntry s w c table va lo n = none := by
  obtain ⟨hh, hq⟩ := h
  unfold tableEntry
  rw [hh]
  exact congrArg (Option.map _) (congrArg (Option.map _) hq)

theorem walkFrom_of_lost (h : Lost s w c va table lo) : walkFrom s w c va table ((lo, n, may, must) :: rest) = .bad := by
  rw [walkFrom, tableEntry_of_lost h]

theorem walkFrom_of_inl {x : Walk} (h : Found s w c va table lo n e) (hs : walkStep s c.part lo may must e = .inl x) :
    walkFrom s w c va table ((lo, n, may, must) :: rest) = x := by
  simp only [walkFrom, tableEntry_of_found h, hs]

theorem walkFrom_of_inr {next : Nat} (h : Found s w c va table lo n e) (hs : walkStep s c.part lo may must e = .inr next) :
    walkFrom s w c va table ((lo, n, may, must) :: rest) = walkFrom s w c va next rest := by
  simp only [walkFrom, tableEntry_of_found h, hs]

theorem ends_of_found (hmay : may = true ↔ mayLeaf) (hmust : must = false ↔ mayTable) (h : Found s w c va table lo n e) :
    Ends s c (walkFrom s w c va table ((lo, n, may, must) :: rest)) e lo mayLeaf mayTable :=
  ⟨fun hv => walkFrom_of_inl h (walkStep_invalid hv), fun hm hl => walkFrom_of_inl h (hmay.2 hm ▸ walkStep_leaf hl),
    fun hv hl ht => walkFrom_of_inl h (walkStep_bad hv (mt (And.imp_left hmay.1) hl) (mt (And.imp_left hmust.1) ht))⟩

/-- A level that a table may follow: what holds of every walk from the next table holds where this one's entry names it. -/
theorem walk_level {P : Dword → Prop} (hr : r = walkFrom s w c va table ((lo, n, may, false) :: rest)) (hmay : may = true ↔ mayLeaf)
    (hnext : ∀ e, r = walkFrom s w c va (Next e) rest → P e) :
    (Lost s w c va table lo → r = .bad) ∧
    ∀ e, Found s w c va table lo n e → Ends s c r e lo mayLeaf True ∧ (Table e → P e) :=
  ⟨fun h => hr.trans (walkFrom_of_lost h), fun e h =>
    ⟨hr ▸ ends_of_found hmay (by decide) h, fun ht => hnext e (hr.trans (walkFrom_of_inr h (walkStep_table ht)))⟩⟩

/-- The last level: its entry is a leaf, or ends the walk in a fault. -/
theorem walk_last_level (hr : r = walkFrom s w c va table [(lo, n, true, true)]) :
    (Lost s w c va table lo → r = .bad) ∧ ∀ e, Found s w c va table lo n e → Ends s c r e lo True False :=
  ⟨fun h => hr.trans (walkFrom_of_lost h), fun _ h =>
    hr ▸ ends_of_found (by decide) (by decide) h⟩

theorem pageTables : Claims.pageTables := fun s w c va =>
  walk_level rfl (by decide) fun _ h3 => walk_level h3 (by decide) fun _ h2 => walk_level h2 (by decide) fun _ h1 =>
    walk_level h1 (by decide) fun _ h0 => walk_last_level h0

end Sys2Proof.Proofs.PageTables

namespace Sys2Proof.Proofs

/-- Settles O29: the line of an issue address goes through the one translation that `checkFetch` makes of it, and in a sound state each
outcome is met at once; a walk is taken level by level, every level being the same argument (`PageTables.walk_level`). -/
theorem fetchAndTranslation : Obligations.FetchAndTranslation := ⟨Fetching.fetchAndWalk, PageTables.pageTables⟩

end Sys2Proof.Proofs
end
